-- ==== Sys2Proof/Word.lean ====
section
/-!
DEFINITION. Sys2Proof/Word.lean: the word types of the machine and their plainest arithmetic.
-/
namespace Sys2Proof

/-- A byte of memory. -/
abbrev Byte := BitVec 8

/-- A 64-bit register or address. -/
abbrev Word := BitVec 64

/-- A word of `n`. -/
abbrev Word.of (n : Nat) : Word := BitVec.ofNat 64 n

end Sys2Proof
end

