-- ==== Sys2Proof/Syntax.lean ====
section
/-!
DEFINITION. Sys2Proof/Syntax.lean: the instructions of Xistra and the events of the G16, one constructor for each row
of the opcode table, with the operand types the encoding tables name (R29–R47).
-/
namespace Sys2Proof

/-- A guard (R33): the sense, and the predicate it names. -/
structure Guard where
  neg : Bool
  p : Fin 8
  deriving DecidableEq, Repr

/-- A general register `g0`–`g31` (R30). -/
abbrev GReg := Fin 32
/-- A vector field: `v0`–`v31` in short mode, `w0`–`w15` in long mode (R30, R110). -/
abbrev VField := Fin 32
/-- A predicate `p0`–`p7`. -/
abbrev PReg := Fin 8
/-- A mask `m0`–`m7`. -/
abbrev MReg := Fin 8
/-- A loop counter `lc0`–`lc1`. -/
abbrev LcReg := Fin 2
/-- A completion counter `cc0`–`cc15`. -/
abbrev CcReg := Fin 16
/-- A write pointer `wp0`–`wp3`. -/
abbrev WpReg := Fin 4
/-- A transfer channel. -/
abbrev Channel := Fin 4

/-- The format tags of R80, in the order of their codes. -/
inductive Tag where
  | none | i8 | z8 | i16 | z16 | i32 | z32 | i64 | i4 | z4 | f8a | f8b | f6 | n4 | bf16 | f16 | f32 | f64 | idx
  deriving DecidableEq, Repr

/-- The code of a tag (R80). -/
def Tag.code : Tag → Nat
  | .none => 0 | .i8 => 1 | .z8 => 2 | .i16 => 3 | .z16 => 4 | .i32 => 5 | .z32 => 6 | .i64 => 7 | .i4 => 8
  | .z4 => 9 | .f8a => 10 | .f8b => 11 | .f6 => 12 | .n4 => 13 | .bf16 => 14 | .f16 => 15 | .f32 => 16
  | .f64 => 17 | .idx => 18

/-- The six scopes (R16, R46). -/
inductive Scope where
  | core | quad | die | pkg | pod | sys
  deriving DecidableEq, Repr

/-- The code of a scope (R46). -/
def Scope.code : Scope → Nat
  | .core => 0 | .quad => 1 | .die => 2 | .pkg => 3 | .pod => 4 | .sys => 5

/-- The trap causes of R330, in the order of their codes 0x01–0x18. -/
inductive Cause where
  | illegal | priv | misalign | localRange | tagMismatch | lookaheadBreach | divZero | pageFault | pageProt
  | pteReserved | eccUncorr | remoteFault | pluralDetached | barrierOverrun | queueOverflow | heapFull | tableBad
  | lexiconBad | statusReserved | software | break | handlerFault | watchdog | memsideError
  deriving DecidableEq, Repr

/-- The code of a cause (R330). -/
def Cause.code : Cause → Nat
  | .illegal => 0x01 | .priv => 0x02 | .misalign => 0x03 | .localRange => 0x04 | .tagMismatch => 0x05
  | .lookaheadBreach => 0x06 | .divZero => 0x07 | .pageFault => 0x08 | .pageProt => 0x09 | .pteReserved => 0x0A
  | .eccUncorr => 0x0B | .remoteFault => 0x0C | .pluralDetached => 0x0D | .barrierOverrun => 0x0E
  | .queueOverflow => 0x0F | .heapFull => 0x10 | .tableBad => 0x11 | .lexiconBad => 0x12
  | .statusReserved => 0x13 | .software => 0x14 | .break => 0x15 | .handlerFault => 0x16 | .watchdog => 0x17
  | .memsideError => 0x18


/-- Every row of the opcode table.  First the events of the part, which the agenda of the state
holds until they are performed; then the instruction words. -/
inductive Instr where
  /-- R151. Once every request of the old generation has been accepted, TLBINV completes and its thread resumes. -/
  | tlbinvComplete (tid : Nat)
  /-- R163. A waiting CWAIT finds its counter reached and completes as a CORE acquire. -/
  | cwaitSatisfied (tid : Nat)
  /-- R165. A waiting WPWAIT finds the pointer reached and completes. -/
  | wpwaitSatisfied (tid : Nat)
  /-- R168. After its waits and release, PUBLISH flips SEL in one step at the pool's bank arbitration. -/
  | publishToggle (tid : Nat)
  /-- R154. A channel starts its next entry once every earlier entry has started and nothing holds it back. -/
  | channelEntryStart (core : Nat) (ch : Nat)
  /-- R171. The engine reads a chain entry, checks it, performs it and follows NEXT. -/
  | chainEntryStep (core : Nat) (ch : Nat)
  /-- R135. A transfer or remote operation packet is executed at the target pool in arrival order. -/
  | operationPacket (core : Nat) (ch : Nat)
  /-- R151. A DRAM read or write is accepted at its memory-side unit and performed. -/
  | dramRequestAccept (core : Nat) (ch : Nat)
  /-- R140. The owning die's MMU decides write ownership of a sub-page for a quad's transfer write. -/
  | ownershipDecision (quad : Nat) (pa : Nat)
  /-- R139. A cluster cache evicts a line, writing dirty data back or poisoned. -/
  | clusterCacheEviction (quad : Nat) (line : Nat)
  /-- R155. A transfer entry whose bytes are all accepted releases at its scope and bumps its counters. -/
  | entryComplete (core : Nat) (ch : Nat)
  /-- R162. A remote counter bump arrives and is applied, applied to saved counters, or refused. -/
  | remoteBumpArrival (id : Nat)
  /-- R160. A fault found in the channel stops it, sets FAULT and traps the issuing thread. -/
  | channelFault (core : Nat) (ch : Nat) (cause : Cause) (sub : Nat) (addr : Nat)
  /-- R161. Writing FAULT=1 resumes the faulted entry or resends its held bump. -/
  | chstFaultResume (core : Nat) (ch : Nat)
  /-- R161. Writing ABORT=1 discards the faulted entry or its held bump and lets later entries start. -/
  | chstAbort (core : Nat) (ch : Nat)
  /-- R176. A memory-side unit performs one 1 KiB piece of a DZERO or DCOPY. -/
  | rowCommandPiece (core : Nat) (ch : Nat)
  /-- R169. A landing STOW packet is added into DRAM as an integer atomic or into a private slot. -/
  | landingPacket (core : Nat) (ch : Nat)
  /-- R144. A walker's page-table read returns and the walk descends, faults or ends at a leaf. -/
  | pageWalkRead (id : Nat)
  /-- R152. At each 2^22-cycle epoch end the memory-side unit sends its top four hot-page records. -/
  | hotPageEpoch (chan : Nat)
  /-- R137. The scrubber reads a pool word, writing back corrections and poisoning uncorrectable words. -/
  | poolScrub (core : Nat) (word : Nat)
  /-- R55. The die fetch agent's DRAM read of an instruction line returns to every joined requester. -/
  | fetchMissFill (quad : Nat) (line : Nat)
  /-- R185. After 40 cycles every lookup unit holds the new slot and the thread resumes. -/
  | tblsetComplete (tid : Nat)
  /-- R201. A waiting ROWWAIT completes as a CORE acquire. -/
  | rowwaitSatisfied (tid : Nat)
  /-- R189. The Elision unit finishes an operation and writes gD. -/
  | elisionComplete (id : Nat)
  /-- R200. A lookup operation starts reading its local inputs once every earlier one has completed. -/
  | lookupOpStart (id : Nat)
  /-- R194. A row request reaching a merge point joins an identical waiting request or waits to be forwarded. -/
  | rowRequestMerge (id : Nat) (row : Nat) (id2 : Nat) (row2 : Nat)
  /-- R192. The home's lookup unit translates a row request and forwards it to the memory-side unit. -/
  | rowRequestServe (id : Nat) (row : Nat)
  /-- R195. A row read at the memory-side unit returns the base, folding first if fresh or over bound. -/
  | rowRead (id : Nat) (row : Nat)
  /-- R195. An accumulate adds a row into slot j and raises the line counts. -/
  | rowAccumulate (id : Nat) (row : Nat)
  /-- R195. A row store folds the row if it has a region and writes its base. -/
  | rowStore (id : Nat) (row : Nat)
  /-- R191. A row reply, replicated if merged, lands at its requester's destination. -/
  | rowReplyLand (id : Nat) (row : Nat)
  /-- R191. A lookup operation completes, releases at its scope and bumps its counters. -/
  | lookupOpComplete (id : Nat)
  /-- R201. A fault after issue ends a lookup operation and traps the thread at its next boundary. -/
  | lookupOpFault (id : Nat) (cause : Cause) (sub : Nat) (addr : Nat)
  /-- R231. An AMO or CAS request is performed in one step at its memory-side unit or pool and its old value returned. -/
  | atomicExecute (id : Nat)
  /-- R233. A fabric switch joins a combinable AMO.ADD to a waiting one and splits the returned value. -/
  | amoCombine (id : Nat) (id2 : Nat)
  /-- R232. A fault reply ends an atomic, accumulate or fold and traps the thread asynchronously. -/
  | atomicFaultReply (id : Nat)
  /-- R238. The unit adds an accumulate into slot j of the line and raises its count. -/
  | accArrival (id : Nat)
  /-- R236. The unit folds a line's slots into its base in slot order and clears them. -/
  | foldArrival (id : Nat)
  /-- R242. A message at the queue head is added into the partial sum, removed and k advanced. -/
  | recvredMessage (tid : Nat)
  /-- R252. The last awaited access is performed and the fence performs its cache actions and sets FB. -/
  | fenceComplete (tid : Nat)
  /-- R257. A Conjunction object records an arrival, join or leave and tests phase completion. -/
  | barrierArrival (tid : Nat)
  /-- R261. Delivered bytes of a BE entry add to an object's BYTES and may overrun or complete the phase. -/
  | byteDelivery (quad : Nat) (obj : Nat) (n : Nat)
  /-- R260. A waiting BWAIT sees its phase reached and returns with its acquire. -/
  | bwaitReturn (tid : Nat)
  /-- R274. A visible message is given to the longest-waiting RECV, copied and removed. -/
  | recvTake (tid : Nat)
  /-- R277. A resume packet at the frozen core resends, drops one or drops all queued packets of the stream. -/
  | resumeArrival (id : Nat)
  /-- R273. An arriving message is written into the ring, refused with a fault, or refused for retry. -/
  | messageArrival (id : Nat)
  /-- R273. The backoff interval of a message refused for retry expires and it is sent again. -/
  | retryTimer (core : Nat) (stream : Nat)
  /-- R275. A remote read or write is checked at the target and performed in one step or refused. -/
  | remoteRequestArrival (id : Nat)
  /-- R275. The reply to an RGET or WLD arrives and writes gD. -/
  | remoteReply (id : Nat)
  /-- R276. A refused packet returns to its source, re-queues and traps the issuing thread with its cause. -/
  | refusalReturn (id : Nat)
  /-- R279. A link receiver checks a flit's sequence and CRC and passes it on or discards it and asks replay. -/
  | flitReceive (link : Nat) (seq : Nat) (crcOk : Bool)
  /-- R279. A sender receiving a replay request resends from the named flit. -/
  | replayRequest (link : Nat) (seq : Nat)
  /-- R279. After 16 failed replays the link is taken down and its packets end with REMOTE_FAULT. -/
  | linkDown (link : Nat)
  /-- R282. Hardware moves the ring's oldest record to the FIFO tail when FCNT < 32. -/
  | queueRefill (quad : Nat) (n : Nat)
  /-- R296. Once the waits end, EXIT releases, appends successors, leaves objects and ends the thread or team. -/
  | exitDrainDone (tid : Nat)
  /-- R299. When every member is detached, held or departed, every held member departs in one step. -/
  | windowDepart (launch : Nat)
  /-- R298. The member's detach takes effect as one step at its pool bank arbitration. -/
  | detachStep (tid : Nat)
  /-- R315. A task-table entry read returns and its R is applied as a GAIN. -/
  | hseedEntryRead (tid : Nat)
  /-- R313. At the home die a GAIN adds to r or to a taken task's pending sum and updates RES. -/
  | gainApply (id : Nat)
  /-- R314. At the home die the task's r becomes kept plus pending, it is requeued and the end test runs. -/
  | doneApply (tid : Nat)
  /-- R310. A sleeping TAKE is handed a newly qualifying task, or the ended status. -/
  | takeWake (tid : Nat)
  /-- R312. Every 64 cycles the heap dies' local maxima are combined into the module maximum. -/
  | heapMaxRefresh (launch : Nat)
  /-- R312. A steal request at die d* takes its top task if it beats the requester. -/
  | heapSteal (tid : Nat)
  /-- R223. A waiting MWAIT completes as a CORE acquire. -/
  | mwaitSatisfied (tid : Nat)
  /-- R213. A sequencer entry starts once every conflicting earlier entry has completed. -/
  | matrixEntryStart (core : Nat) (idx : Nat)
  /-- R214. A sequencer entry completes its writes and retires in order, ORing its flags. -/
  | matrixEntryComplete (core : Nat) (idx : Nat)
  /-- R225. An uncorrectable word stops an entry, discards the thread's later entries and traps. -/
  | matrixEntryFault (core : Nat) (row : Nat) (addr : Nat)
  /-- R337. Writing RUN ends the admission hold of a halted partition. -/
  | haltselRun (module : Nat) (part : Nat)
  /-- R338. After every core stopped and sent messages settled, each core writes its halt record. -/
  | haltRecords (module : Nat) (part : Nat) (cause : Nat)
  /-- R339. Stops a team if needed, writes its context image and frees the core. -/
  | ctxsvSave (tid : Nat)
  /-- R339. Stops a team if needed and frees the core, ending the team as halted or withdrawn. -/
  | ctxsvDiscard (tid : Nat)
  /-- R339. Resumes issue in every thread of a stopped team. -/
  | ctxldStart (tid : Nat)
  /-- R339. Restores a context image and then resumes its team. -/
  | ctxldLoadStart (tid : Nat)
  /-- R342. The deadline passes or a message arrives and the sleeping thread becomes ready. -/
  | sleepWake (tid : Nat)
  /-- R329. Once long-latency work has ended, the thread enters its handler or forwards the trap. -/
  | trapEntry (tid : Nat)
  /-- R336. A thread waiting beyond LIMIT x 65,536 cycles raises WATCHDOG. -/
  | watchdogExpiry (tid : Nat)
  /-- R286. A write of a host queue's tail rings the doorbell, releasing host writes, or sets ERR. -/
  | hqtailWrite (die : Nat) (q : Nat) (val : Nat)
  /-- R288. The dispatcher reads a head block, checks it and admits, rejects or holds it. -/
  | launchAdmission (die : Nat) (q : Nat)
  /-- R288. A block forwarded by control packet arrives at another eligible module's dispatcher. -/
  | launchForward (die : Nat) (launch : Nat)
  /-- R289. The dispatcher rereads wait counters after a signal or at least every 4096 cycles. -/
  | waitCounterPoll (die : Nat) (q : Nat)
  /-- R291. A free core is given to a team, cleared, loaded with its start state and started. -/
  | teamStart (launch : Nat)
  /-- R295. When every team has ended, the dispatcher drains writes, signals and writes the completion record. -/
  | launchComplete (launch : Nat)
  /-- R384. Power-good starts bring-up in state RESET. -/
  | powerGood (module : Nat)
  /-- R384. Clocks run and fuses are read, and bring-up enters ROM. -/
  | clocksStarted (module : Nat)
  /-- R385. The boot ROM reads and verifies the flash image and enters TRAIN or RECOVERY. -/
  | romImageVerify (module : Nat)
  /-- R384. Firmware finishes training and zeroing and enters READY, or FAILED on failure. -/
  | trainComplete (module : Nat) (ok : Bool)
  /-- R382. Writing MRESET stops every core, discards context and restarts bring-up at ROM. -/
  | mreset (module : Nat)
  /-- R382. Writing HALTREQ halts partition HPART with halt cause 3. -/
  | haltreq (module : Nat)
  /-- R381. A host write of a management register without behaviour of its own, or a bad access completed under R380. -/
  | mgmtRegisterWrite (module : Nat) (off : Nat) (size : Nat) (write : Bool) (val : Nat)
  /-- R384. A BAR0 access carried to another group member arrives as a management control packet. -/
  | mgmtControlPacket (module : Nat) (bridge : Nat) (off : Nat) (size : Nat) (write : Bool) (val : Nat)
  /-- R380. A host BAR2 access travels to a pseudo-channel's memory-side unit. -/
  | hostBar2Access (module : Nat) (off : Nat) (write : Bool) (bytes : List (BitVec 8))
  /-- R386. The mailbox returns the identity public key and its certificate. -/
  | ident (module : Nat)
  /-- R387. The mailbox signs a report binding a nonce to the module and its firmware. -/
  | attest (module : Nat)
  /-- R386. The mailbox copies buffer bytes into the firmware staging area. -/
  | fwload (module : Nat)
  /-- R386. The mailbox verifies the staged image and writes it to flash. -/
  | fwcommit (module : Nat)
  /-- R388. A host write of TIMESET starts the stopped time counter at START. -/
  | timesetWrite (module : Nat) (val : Nat)
  /-- R388. An IEEE 1588 frame is timestamped and drives the servo, starting or slewing the counter. -/
  | ptpFrame (module : Nat) (gm : Nat)
  /-- R388. After 2^31 cycles without lock, LOCK clears and the MSI-X vector is raised. -/
  | lockLoss (module : Nat)
  /-- R389. Sensed supply droop lengthens the die's core-clock cycles. -/
  | droopDetect (die : Nat)
  /-- R389. Supply recovery ends the clock stretch episode. -/
  | droopRecover (die : Nat) (cycles : Nat) (ns : Nat)
  /-- R391. At each averaging window AVGW is updated and throttling set or cleared against LIMW. -/
  | powerWindow (module : Nat) (watts : Nat)
  /-- R391. TMAX reaching TTHR makes firmware withhold issue cycles and set THROT. -/
  | thermalThrottle (module : Nat) (temp : Nat)
  /-- R391. TMAX reaching TTRIP raises MSI-X, halts every partition and removes core power. -/
  | thermalTrip (module : Nat) (temp : Nat)
  /-- R43. A fetched word whose frame, major opcode, function, op, mode or sub-field value is unused or reserved is decoded and traps ILLEGAL, even under a failing guard. -/
  | reservedEncoding
  /-- R386. Power is lost, which stops the module and can leave a partly written flash image that fails verification at the next bring-up. -/
  | powerLoss (module : Nat)
  /-- R386. A write of MBCMD with GO = 1 and an OP outside 1 to 4 ends with CODE 3. -/
  | mailboxBadOperation (module : Nat)
  /-- R379. The enabled bridge's PCIe link trains, possibly down in width or rate, and reports the result in its standard link registers. -/
  | pcieLinkTraining (module : Nat) (width : Nat) (rate : Nat)
  /-- R61. Writes gA plus gB modulo 2^64 to gD. -/
  | add (g : Guard) (d : GReg) (a : GReg) (b : GReg)
  /-- R61. Writes gA minus gB modulo 2^64 to gD. -/
  | sub (g : Guard) (d : GReg) (a : GReg) (b : GReg)
  /-- R61. Writes the bitwise AND of gA and gB to gD. -/
  | and (g : Guard) (d : GReg) (a : GReg) (b : GReg)
  /-- R61. Writes the bitwise OR of gA and gB to gD. -/
  | or (g : Guard) (d : GReg) (a : GReg) (b : GReg)
  /-- R61. Writes the bitwise XOR of gA and gB to gD. -/
  | xor (g : Guard) (d : GReg) (a : GReg) (b : GReg)
  /-- R61. Writes gA AND NOT gB to gD. -/
  | andn (g : Guard) (d : GReg) (a : GReg) (b : GReg)
  /-- R61. Shifts gA left by gB[5:0] into gD. -/
  | shl (g : Guard) (d : GReg) (a : GReg) (b : GReg)
  /-- R61. Shifts gA right with zero fill by gB[5:0] into gD. -/
  | shr (g : Guard) (d : GReg) (a : GReg) (b : GReg)
  /-- R61. Shifts gA right arithmetically by gB[5:0] into gD. -/
  | sar (g : Guard) (d : GReg) (a : GReg) (b : GReg)
  /-- R61. Rotates gA left by gB[5:0] into gD. -/
  | rol (g : Guard) (d : GReg) (a : GReg) (b : GReg)
  /-- R61. Writes the low 64 bits of gA times gB to gD. -/
  | mul (g : Guard) (d : GReg) (a : GReg) (b : GReg)
  /-- R61. Writes the high 64 bits of the signed product to gD. -/
  | mulh (g : Guard) (d : GReg) (a : GReg) (b : GReg)
  /-- R61. Writes the high 64 bits of the unsigned product to gD. -/
  | mulhz (g : Guard) (d : GReg) (a : GReg) (b : GReg)
  /-- R62. Signed division truncated toward zero, trapping DIV_ZERO on a zero divisor. -/
  | div (g : Guard) (d : GReg) (a : GReg) (b : GReg)
  /-- R62. Unsigned division, trapping DIV_ZERO on a zero divisor. -/
  | divz (g : Guard) (d : GReg) (a : GReg) (b : GReg)
  /-- R62. Signed remainder with the sign of the dividend, trapping DIV_ZERO on a zero divisor. -/
  | rem (g : Guard) (d : GReg) (a : GReg) (b : GReg)
  /-- R62. Unsigned remainder, trapping DIV_ZERO on a zero divisor. -/
  | remz (g : Guard) (d : GReg) (a : GReg) (b : GReg)
  /-- R61. Writes the signed minimum of gA and gB to gD. -/
  | min (g : Guard) (d : GReg) (a : GReg) (b : GReg)
  /-- R61. Writes the signed maximum of gA and gB to gD. -/
  | max (g : Guard) (d : GReg) (a : GReg) (b : GReg)
  /-- R61. Writes the unsigned minimum of gA and gB to gD. -/
  | minz (g : Guard) (d : GReg) (a : GReg) (b : GReg)
  /-- R61. Writes the unsigned maximum of gA and gB to gD. -/
  | maxz (g : Guard) (d : GReg) (a : GReg) (b : GReg)
  /-- R61. Counts the leading zero bits of gA into gD. -/
  | clz (g : Guard) (d : GReg) (a : GReg)
  /-- R61. Counts the trailing zero bits of gA into gD. -/
  | ctz (g : Guard) (d : GReg) (a : GReg)
  /-- R61. Counts the one bits of gA into gD. -/
  | popc (g : Guard) (d : GReg) (a : GReg)
  /-- R61. Sign-extends gA[7:0] into gD. -/
  | sextB (g : Guard) (d : GReg) (a : GReg)
  /-- R61. Sign-extends gA[15:0] into gD. -/
  | sextH (g : Guard) (d : GReg) (a : GReg)
  /-- R61. Sign-extends gA[31:0] into gD. -/
  | sextW (g : Guard) (d : GReg) (a : GReg)
  /-- R61. Zero-extends gA[7:0] into gD. -/
  | zextB (g : Guard) (d : GReg) (a : GReg)
  /-- R61. Zero-extends gA[15:0] into gD. -/
  | zextH (g : Guard) (d : GReg) (a : GReg)
  /-- R61. Zero-extends gA[31:0] into gD. -/
  | zextW (g : Guard) (d : GReg) (a : GReg)
  /-- R63. Extracts a bit field of gA at the position and width held in gB. -/
  | bext (g : Guard) (d : GReg) (a : GReg) (b : GReg)
  /-- R63. Inserts the low bits of gA into a field of gD at the position and width held in gB. -/
  | bins (g : Guard) (d : GReg) (a : GReg) (b : GReg)
  /-- R63. Double-word BEXT taking position and width from its second word. -/
  | bextDw (g : Guard) (d : GReg) (a : GReg) (pos : Fin 64) (wid : Fin 128)
  /-- R63. Double-word BINS taking position and width from its second word. -/
  | binsDw (g : Guard) (d : GReg) (a : GReg) (pos : Fin 64) (wid : Fin 128)
  /-- R64. Adds the sign-extended imm10 to gA into gD. -/
  | addi (g : Guard) (d : GReg) (a : GReg) (imm : BitVec 10)
  /-- R64. ANDs gA with the sign-extended imm10 into gD. -/
  | andi (g : Guard) (d : GReg) (a : GReg) (imm : BitVec 10)
  /-- R64. ORs gA with the sign-extended imm10 into gD. -/
  | ori (g : Guard) (d : GReg) (a : GReg) (imm : BitVec 10)
  /-- R64. XORs gA with the sign-extended imm10 into gD. -/
  | xori (g : Guard) (d : GReg) (a : GReg) (imm : BitVec 10)
  /-- R64. ADDI with a sign-extended imm32 second word. -/
  | addiDw (g : Guard) (d : GReg) (a : GReg) (imm : BitVec 32)
  /-- R64. ANDI with a sign-extended imm32 second word. -/
  | andiDw (g : Guard) (d : GReg) (a : GReg) (imm : BitVec 32)
  /-- R64. ORI with a sign-extended imm32 second word. -/
  | oriDw (g : Guard) (d : GReg) (a : GReg) (imm : BitVec 32)
  /-- R64. XORI with a sign-extended imm32 second word. -/
  | xoriDw (g : Guard) (d : GReg) (a : GReg) (imm : BitVec 32)
  /-- R64. Shifts gA left by an immediate count into gD. -/
  | shli (g : Guard) (d : GReg) (a : GReg) (n : Fin 64)
  /-- R64. Shifts gA right with zero fill by an immediate count into gD. -/
  | shri (g : Guard) (d : GReg) (a : GReg) (n : Fin 64)
  /-- R64. Shifts gA right arithmetically by an immediate count into gD. -/
  | sari (g : Guard) (d : GReg) (a : GReg) (n : Fin 64)
  /-- R65. Loads the sign-extended imm10 into gD. -/
  | limm (g : Guard) (d : GReg) (imm : BitVec 10)
  /-- R65. Replaces the high 32 bits of gD with the immediate. -/
  | limmh (g : Guard) (d : GReg) (imm : BitVec 10)
  /-- R65. Writes the instruction's address plus the byte immediate to gD. -/
  | addpc (g : Guard) (d : GReg) (imm : BitVec 10)
  /-- R65. LIMM with an imm32 second word. -/
  | limmDw (g : Guard) (d : GReg) (imm : BitVec 32)
  /-- R65. LIMMH with an imm32 second word. -/
  | limmhDw (g : Guard) (d : GReg) (imm : BitVec 32)
  /-- R65. ADDPC with an imm32 second word. -/
  | addpcDw (g : Guard) (d : GReg) (imm : BitVec 32)
  /-- R66. Compares gA with gB under condition cc and writes the predicate. -/
  | cmpCc (g : Guard) (c : Fin 8) (p : PReg) (a : GReg) (b : GReg)
  /-- R66. Compares gA with the sign-extended imm10 under conditions 0 to 3 and writes the predicate. -/
  | cmpiCcLow (g : Guard) (c : Fin 4) (p : PReg) (a : GReg) (imm : BitVec 10)
  /-- R66. Compares gA with the sign-extended imm10 under conditions 4 to 7 and writes the predicate. -/
  | cmpiCcHigh (g : Guard) (c : Fin 4) (p : PReg) (a : GReg) (imm : BitVec 10)
  /-- R66. CMPI.cc with a sign-extended imm32 second word. -/
  | cmpiDw (g : Guard) (c : Fin 8) (p : PReg) (a : GReg) (imm : BitVec 32)
  /-- R67. Writes pA AND pB to pD. -/
  | pand (g : Guard) (d : PReg) (a : PReg) (b : PReg)
  /-- R67. Writes pA OR pB to pD. -/
  | por (g : Guard) (d : PReg) (a : PReg) (b : PReg)
  /-- R67. Writes pA XOR pB to pD. -/
  | pxor (g : Guard) (d : PReg) (a : PReg) (b : PReg)
  /-- R67. Writes NOT pA to pD. -/
  | pnot (g : Guard) (d : PReg) (a : PReg)
  /-- R67. Copies pA to pD. -/
  | pmov (g : Guard) (d : PReg) (a : PReg)
  /-- R68. Branches PC-relative by offset20 words. -/
  | br (g : Guard) (off : BitVec 20)
  /-- R68. Branches PC-relative and writes the return address to g31. -/
  | call (g : Guard) (off : BitVec 20)
  /-- R69. Jumps to the address in gA after canonical and alignment checks. -/
  | jr (g : Guard) (a : GReg)
  /-- R69. Jumps to the address in g31. -/
  | ret (g : Guard)
  /-- R77. Decrements the rotating base RRB modulo 16. -/
  | rot (g : Guard)
  /-- R76. Writes gA[1:0] to LPIPE.DRAIN. -/
  | stage (g : Guard) (a : GReg)
  /-- R69. Does nothing. -/
  | nop (g : Guard)
  /-- R70. Gives a fetch or issue-precedence hint, or acts as NOP for an unassigned number. -/
  | hint (g : Guard) (b : Fin 32)
  /-- R72. Starts a hardware loop on lc0 or lc1 with the trip count in gA. -/
  | loop (g : Guard) (n : LcReg) (a : GReg) (len : BitVec 10)
  /-- R72. Starts a pipelined hardware loop with stage predicates and drain executions. -/
  | loopP (g : Guard) (n : LcReg) (a : GReg) (len : BitVec 10)
  /-- R72. LOOP or LOOP.P with an unsigned 32-bit trip count in its second word. -/
  | loopDw (g : Guard) (pipe : Bool) (n : LcReg) (len : BitVec 10) (trips : BitVec 32)
  /-- R131. Loads a signed byte from the local pool. -/
  | ldb (g : Guard) (d : GReg) (a : GReg) (off : BitVec 6)
  /-- R131. Loads a signed halfword from the local pool. -/
  | ldh (g : Guard) (d : GReg) (a : GReg) (off : BitVec 6)
  /-- R131. Loads a signed word from the local pool. -/
  | ldw (g : Guard) (d : GReg) (a : GReg) (off : BitVec 6)
  /-- R131. Loads a doubleword from the local pool. -/
  | ldd (g : Guard) (d : GReg) (a : GReg) (off : BitVec 6)
  /-- R131. Loads an unsigned byte from the local pool. -/
  | ldbz (g : Guard) (d : GReg) (a : GReg) (off : BitVec 6)
  /-- R131. Loads an unsigned halfword from the local pool. -/
  | ldhz (g : Guard) (d : GReg) (a : GReg) (off : BitVec 6)
  /-- R131. Loads an unsigned word from the local pool. -/
  | ldwz (g : Guard) (d : GReg) (a : GReg) (off : BitVec 6)
  /-- R131. Stores a byte to the local pool. -/
  | stb (g : Guard) (d : GReg) (a : GReg) (off : BitVec 6)
  /-- R131. Stores a halfword to the local pool. -/
  | sth (g : Guard) (d : GReg) (a : GReg) (off : BitVec 6)
  /-- R131. Stores a word to the local pool. -/
  | stw (g : Guard) (d : GReg) (a : GReg) (off : BitVec 6)
  /-- R131. Stores a doubleword to the local pool. -/
  | std (g : Guard) (d : GReg) (a : GReg) (off : BitVec 6)
  /-- R131. LDB with a 32-bit byte displacement word. -/
  | ldbDw (g : Guard) (d : GReg) (a : GReg) (disp : BitVec 32)
  /-- R131. LDH with a 32-bit byte displacement word. -/
  | ldhDw (g : Guard) (d : GReg) (a : GReg) (disp : BitVec 32)
  /-- R131. LDW with a 32-bit byte displacement word. -/
  | ldwDw (g : Guard) (d : GReg) (a : GReg) (disp : BitVec 32)
  /-- R131. LDD with a 32-bit byte displacement word. -/
  | lddDw (g : Guard) (d : GReg) (a : GReg) (disp : BitVec 32)
  /-- R131. LDBZ with a 32-bit byte displacement word. -/
  | ldbzDw (g : Guard) (d : GReg) (a : GReg) (disp : BitVec 32)
  /-- R131. LDHZ with a 32-bit byte displacement word. -/
  | ldhzDw (g : Guard) (d : GReg) (a : GReg) (disp : BitVec 32)
  /-- R131. LDWZ with a 32-bit byte displacement word. -/
  | ldwzDw (g : Guard) (d : GReg) (a : GReg) (disp : BitVec 32)
  /-- R131. STB with a 32-bit byte displacement word. -/
  | stbDw (g : Guard) (d : GReg) (a : GReg) (disp : BitVec 32)
  /-- R131. STH with a 32-bit byte displacement word. -/
  | sthDw (g : Guard) (d : GReg) (a : GReg) (disp : BitVec 32)
  /-- R131. STW with a 32-bit byte displacement word. -/
  | stwDw (g : Guard) (d : GReg) (a : GReg) (disp : BitVec 32)
  /-- R131. STD with a 32-bit byte displacement word. -/
  | stdDw (g : Guard) (d : GReg) (a : GReg) (disp : BitVec 32)
  /-- R132. Loads a short or long vector from the pool, keeping its tag. -/
  | vld (g : Guard) (d : VField) (a : GReg) (off : BitVec 6)
  /-- R132. Stores a short or long vector to the pool. -/
  | vst (g : Guard) (d : VField) (a : GReg) (off : BitVec 6)
  /-- R132. VLD with a 32-bit byte displacement word. -/
  | vldDw (g : Guard) (d : VField) (a : GReg) (disp : BitVec 32)
  /-- R132. VST with a 32-bit byte displacement word. -/
  | vstDw (g : Guard) (d : VField) (a : GReg) (disp : BitVec 32)
  /-- R133. Loads vector lanes from the pool at a signed stride. -/
  | vlds (g : Guard) (d : VField) (a : GReg) (b : GReg)
  /-- R133. Stores vector lanes to the pool at a signed stride. -/
  | vsts (g : Guard) (d : VField) (a : GReg) (b : GReg)
  /-- R133. Gathers vector lanes from the pool at byte offsets held in vB. -/
  | vgathl (g : Guard) (d : VField) (a : GReg) (b : VField)
  /-- R133. Scatters vector lanes to the pool at byte offsets held in vB. -/
  | vscatl (g : Guard) (d : VField) (a : GReg) (b : VField)
  /-- R142. Writes back the issuing quad's dirty cluster-cache line holding gA. -/
  | cclean (g : Guard) (a : GReg)
  /-- R142. Writes back and invalidates the issuing quad's cluster-cache line holding gA. -/
  | cinv (g : Guard) (a : GReg)
  /-- R151. Invalidates matching TLB and walk-cache entries module-wide and advances the translation generation. -/
  | tlbinv (g : Guard) (a : GReg) (b : GReg)
  /-- R101. Checks and loads the thread's 16-entry Declension table from a 256-byte image. -/
  | dclset (g : Guard) (a : GReg)
  /-- R103. Checks and loads one Syllable pattern from a 40-byte image. -/
  | sylset (g : Guard) (d : Fin 16) (a : GReg)
  /-- R104. Loads a vector through the current Declension entry, unpacking and scaling as the entry says. -/
  | vldd (g : Guard) (d : VField) (a : GReg) (off : BitVec 6)
  /-- R104. Loads a vector and tags it with the current Declension entry's TAG. -/
  | vldp (g : Guard) (d : VField) (a : GReg) (off : BitVec 6)
  /-- R104. VLDD with a 32-bit byte displacement word. -/
  | vlddDw (g : Guard) (d : VField) (a : GReg) (disp : BitVec 32)
  /-- R104. VLDP with a 32-bit byte displacement word. -/
  | vldpDw (g : Guard) (d : VField) (a : GReg) (disp : BitVec 32)
  /-- R115. Adds two vectors lane by lane in their tagged format. -/
  | vadd (g : Guard) (d : VField) (a : VField) (b : VField)
  /-- R115. Subtracts two vectors lane by lane. -/
  | vsub (g : Guard) (d : VField) (a : VField) (b : VField)
  /-- R115. Multiplies two vectors lane by lane. -/
  | vmul (g : Guard) (d : VField) (a : VField) (b : VField)
  /-- R116. Takes the lane-wise minimum with the NaN and signed-zero rules. -/
  | vmin (g : Guard) (d : VField) (a : VField) (b : VField)
  /-- R116. Takes the lane-wise maximum with the NaN and signed-zero rules. -/
  | vmax (g : Guard) (d : VField) (a : VField) (b : VField)
  /-- R115. Takes the lane-wise absolute value. -/
  | vabs (g : Guard) (d : VField) (a : VField)
  /-- R115. Negates each lane. -/
  | vneg (g : Guard) (d : VField) (a : VField)
  /-- R115. ANDs the whole register bitwise. -/
  | vand (g : Guard) (d : VField) (a : VField) (b : VField)
  /-- R115. ORs the whole register bitwise. -/
  | vor (g : Guard) (d : VField) (a : VField) (b : VField)
  /-- R115. XORs the whole register bitwise. -/
  | vxor (g : Guard) (d : VField) (a : VField) (b : VField)
  /-- R115. Shifts integer lanes left by the counts in vB. -/
  | vshl (g : Guard) (d : VField) (a : VField) (b : VField)
  /-- R115. Shifts integer lanes right logically by the counts in vB. -/
  | vshr (g : Guard) (d : VField) (a : VField) (b : VField)
  /-- R115. Shifts integer lanes right arithmetically by the counts in vB. -/
  | vsar (g : Guard) (d : VField) (a : VField) (b : VField)
  /-- R115. Adds integer lanes with saturation, setting SAT when a lane is clamped. -/
  | vaddS (g : Guard) (d : VField) (a : VField) (b : VField)
  /-- R115. Subtracts integer lanes with saturation. -/
  | vsubS (g : Guard) (d : VField) (a : VField) (b : VField)
  /-- R115. Selects each lane from vA or vB by mask mK. -/
  | vsel (g : Guard) (d : VField) (a : VField) (b : VField) (k : MReg)
  /-- R117. Computes the fused product-plus-addend d := a*b + d. -/
  | vfma (g : Guard) (d : VField) (a : VField) (b : VField)
  /-- R117. Computes the fused d := a*b - d. -/
  | vfms (g : Guard) (d : VField) (a : VField) (b : VField)
  /-- R117. Computes the fused d := -(a*b) + d. -/
  | vnfma (g : Guard) (d : VField) (a : VField) (b : VField)
  /-- R118. Sums packed integer products exactly into I32 lanes with final saturation. -/
  | vdot (g : Guard) (d : VField) (a : VField) (b : VField)
  /-- R119. Sums packed float products in a fixed F32 tree into F32 lanes. -/
  | vdotf (g : Guard) (d : VField) (a : VField) (b : VField)
  /-- R120. Compares lanes under condition cc and writes the mask. -/
  | vcmpCc (g : Guard) (c : Fin 7) (d : MReg) (a : VField) (b : VField)
  /-- R122. Sums the lanes in a fixed pairwise tree into lane 0. -/
  | vredAdd (g : Guard) (d : VField) (a : VField)
  /-- R122. Reduces the lanes by minimum in a fixed tree. -/
  | vredMin (g : Guard) (d : VField) (a : VField)
  /-- R122. Reduces the lanes by maximum in a fixed tree. -/
  | vredMax (g : Guard) (d : VField) (a : VField)
  /-- R122. Forms inclusive prefix sums left to right. -/
  | vscanAdd (g : Guard) (d : VField) (a : VField)
  /-- R122. Forms inclusive prefix minima left to right. -/
  | vscanMin (g : Guard) (d : VField) (a : VField)
  /-- R122. Forms inclusive prefix maxima left to right. -/
  | vscanMax (g : Guard) (d : VField) (a : VField)
  /-- R121. Permutes the lanes of vA by the indices in vB. -/
  | vperm (g : Guard) (d : VField) (a : VField) (b : VField)
  /-- R121. Broadcasts the low bits of gA to every lane of vD. -/
  | vbcast (g : Guard) (d : VField) (a : GReg)
  /-- R121. Extracts lane gB of vA into gD. -/
  | vext (g : Guard) (d : GReg) (a : VField) (b : GReg)
  /-- R121. Inserts gA into lane gB of vD. -/
  | vins (g : Guard) (d : VField) (a : GReg) (b : GReg)
  /-- R123. Computes the correctly rounded reciprocal of each lane. -/
  | vrcp (g : Guard) (d : VField) (a : VField)
  /-- R123. Computes the correctly rounded reciprocal square root of each lane. -/
  | vrsq (g : Guard) (d : VField) (a : VField)
  /-- R123. Computes the correctly rounded 2^x of each lane. -/
  | vexp2 (g : Guard) (d : VField) (a : VField)
  /-- R123. Computes the correctly rounded log2 of each lane. -/
  | vlog2 (g : Guard) (d : VField) (a : VField)
  /-- R123. Computes the correctly rounded tanh of each lane. -/
  | vtanh (g : Guard) (d : VField) (a : VField)
  /-- R123. Computes the correctly rounded logistic sigmoid of each lane. -/
  | vsigm (g : Guard) (d : VField) (a : VField)
  /-- R110. Enters long vector mode, clearing the w registers on entry. -/
  | vlong (g : Guard)
  /-- R110. Returns to short vector mode. -/
  | vshort (g : Guard)
  /-- R94. Converts each lane to the target tag, rounding to nearest even. -/
  | cvtRne (g : Guard) (d : VField) (a : VField) (t : Tag)
  /-- R94. Converts each lane to the target tag, rounding toward zero. -/
  | cvtRtz (g : Guard) (d : VField) (a : VField) (t : Tag)
  /-- R94. Converts each lane to the target tag, rounding toward plus infinity. -/
  | cvtRup (g : Guard) (d : VField) (a : VField) (t : Tag)
  /-- R94. Converts each lane to the target tag, rounding toward minus infinity. -/
  | cvtRdn (g : Guard) (d : VField) (a : VField) (t : Tag)
  /-- R94. Converts each lane to the target tag with saturation. -/
  | cvtSat (g : Guard) (d : VField) (a : VField) (t : Tag)
  /-- R99. Encodes one block of F32 lanes into N4 codes in a block slot. -/
  | qn4 (g : Guard) (d : VField) (a : VField) (b : VField)
  /-- R99. Decodes one block of N4 codes to F32 lanes. -/
  | dqn4 (g : Guard) (d : VField) (a : VField) (b : VField)
  /-- R98. Computes the super-scale and 64 block scale bytes into a scale vector. -/
  | qscale (g : Guard) (d : VField) (a : VField) (b : VField)
  /-- R96. Sets the format tag of vD without changing its bits. -/
  | tagset (g : Guard) (d : VField) (t : Tag)
  /-- R96. Writes the tag of vA to gD. -/
  | tagget (g : Guard) (d : GReg) (a : VField)
  /-- R96. Writes the class code of each float lane of vA into vD. -/
  | fclass (g : Guard) (d : VField) (a : VField)
  /-- R156. Queues an entry that moves LEN bytes from a far address into the pool. -/
  | draw (g : Guard) (look : Fin 16) (d : GReg) (a : GReg) (b : GReg)
  /-- R156. Queues an entry that moves LEN bytes from the pool to a far address. -/
  | stow (g : Guard) (look : Fin 16) (d : GReg) (a : GReg) (b : GReg)
  /-- R164. Queues a streamed DRAW that delivers in ascending order and advances a write pointer. -/
  | draws (g : Guard) (look : Fin 16) (d : GReg) (a : GReg) (b : GReg)
  /-- R164. Queues a streamed STOW that reads in ascending order and advances a write pointer. -/
  | stows (g : Guard) (look : Fin 16) (d : GReg) (a : GReg) (b : GReg)
  /-- R157. DRAW with an extension word naming channel, counters, scope, publishing and byte counting. -/
  | drawDw (g : Guard) (look : Fin 16) (d : GReg) (a : GReg) (b : GReg) (ext : BitVec 32)
  /-- R157. STOW with an extension word naming channel, counters, scope, publishing or landing. -/
  | stowDw (g : Guard) (look : Fin 16) (d : GReg) (a : GReg) (b : GReg) (ext : BitVec 32)
  /-- R157. DRAWS with an extension word. -/
  | drawsDw (g : Guard) (look : Fin 16) (d : GReg) (a : GReg) (b : GReg) (ext : BitVec 32)
  /-- R157. STOWS with an extension word. -/
  | stowsDw (g : Guard) (look : Fin 16) (d : GReg) (a : GReg) (b : GReg) (ext : BitVec 32)
  /-- R175. Queues a row command that zeroes a DRAM range in 1 KiB pieces. -/
  | dzero (g : Guard) (look : Fin 16) (d : GReg) (b : GReg)
  /-- R175. Queues a row command that copies a DRAM range in 1 KiB pieces. -/
  | dcopy (g : Guard) (look : Fin 16) (d : GReg) (a : GReg) (b : GReg)
  /-- R175. DZERO with an extension word naming channel, counter and scope. -/
  | dzeroDw (g : Guard) (look : Fin 16) (d : GReg) (b : GReg) (ext : BitVec 32)
  /-- R175. DCOPY with an extension word naming channel, counter and scope. -/
  | dcopyDw (g : Guard) (look : Fin 16) (d : GReg) (a : GReg) (b : GReg) (ext : BitVec 32)
  /-- R172. Waits for the channel to idle and links a chain at gA to it without starting it. -/
  | chain (g : Guard) (a : GReg) (b : GReg)
  /-- R173. Starts a halted linked chain or sets KREQ on a running one. -/
  | kick (g : Guard) (b : Channel)
  /-- R163. Waits until a completion counter reaches gA in wrapping order. -/
  | cwait (g : Guard) (d : CcReg) (a : GReg)
  /-- R163. Releases at CORE and adds gA to a completion counter. -/
  | cpost (g : Guard) (d : CcReg) (a : GReg)
  /-- R165. Waits until a write pointer reaches gA. -/
  | wpwait (g : Guard) (d : WpReg) (a : GReg)
  /-- R168. Waits for its published DRAWs, releases at the scope and toggles the slot's front. -/
  | publish (g : Guard) (sc : Scope) (a : GReg)
  /-- R185. Checks a table descriptor and loads a directory slot of the die. -/
  | tblset (g : Guard) (a : GReg) (b : GReg)
  /-- R187. Computes a keyed 32-bit hash of gA. -/
  | idhash (g : Guard) (d : GReg) (a : GReg) (b : GReg)
  /-- R201. Waits until at most gA[15:0] lookup operations remain incomplete. -/
  | rowwait (g : Guard) (a : GReg)
  /-- R198. Sends N gradient rows to private slot j of their rows' reduction regions. -/
  | rowacc (g : Guard) (a : GReg) (b : GReg)
  /-- R198. Sends N rows to be stored at their homes. -/
  | rowset (g : Guard) (a : GReg) (b : GReg)
  /-- R189. Empties the Elision set and deduplicates a list into it, writing new ids and an inverse map. -/
  | elide (g : Guard) (look : Fin 16) (two : Bool) (d : GReg) (a : GReg) (b : GReg)
  /-- R189. Deduplicates a list into the existing Elision set. -/
  | elidem (g : Guard) (look : Fin 16) (two : Bool) (d : GReg) (a : GReg) (b : GReg)
  /-- R191. Gathers the rows of N identifiers from their homes into the pool. -/
  | rowget (g : Guard) (look : Fin 16) (d : GReg) (a : GReg) (b : GReg)
  /-- R191. Gathers rows into another core's pool or a window member. -/
  | rowgetw (g : Guard) (look : Fin 16) (d : GReg) (a : GReg) (b : GReg)
  /-- R190. ROWGET with an extension word naming table, fresh, scope and counters. -/
  | rowgetDw (g : Guard) (look : Fin 16) (d : GReg) (a : GReg) (b : GReg) (ext : BitVec 32)
  /-- R190. ROWGETW with an extension word. -/
  | rowgetwDw (g : Guard) (look : Fin 16) (d : GReg) (a : GReg) (b : GReg) (ext : BitVec 32)
  /-- R199. Reduces bags of gathered rows into accumulator storage. -/
  | segred (g : Guard) (look : Fin 16) (d : GReg) (a : GReg) (b : GReg)
  /-- R199. Scatters bag gradients onto unique output rows. -/
  | segscat (g : Guard) (look : Fin 16) (d : GReg) (a : GReg) (b : GReg)
  /-- R199. SEGRED with an extension word naming kind, inverse map, table and counter. -/
  | segredDw (g : Guard) (look : Fin 16) (d : GReg) (a : GReg) (b : GReg) (ext : BitVec 32)
  /-- R199. SEGSCAT with an extension word. -/
  | segscatDw (g : Guard) (look : Fin 16) (d : GReg) (a : GReg) (b : GReg) (ext : BitVec 32)
  /-- R231. Performs a 4-byte atomic add at the address's unit and returns the old value. -/
  | amoAddW (g : Guard) (look : Fin 16) (d : GReg) (a : GReg) (b : GReg)
  /-- R231. Performs an 8-byte atomic add and returns the old value. -/
  | amoAddD (g : Guard) (look : Fin 16) (d : GReg) (a : GReg) (b : GReg)
  /-- R231. AMO.ADD written with an explicit extension word. -/
  | amoAddDw (g : Guard) (look : Fin 16) (dbl : Bool) (d : GReg) (a : GReg) (b : GReg)
  /-- R231. Atomic AND of width W or D, returning the old value. -/
  | amoAnd (g : Guard) (look : Fin 16) (dbl : Bool) (d : GReg) (a : GReg) (b : GReg)
  /-- R231. Atomic OR, returning the old value. -/
  | amoOr (g : Guard) (look : Fin 16) (dbl : Bool) (d : GReg) (a : GReg) (b : GReg)
  /-- R231. Atomic XOR, returning the old value. -/
  | amoXor (g : Guard) (look : Fin 16) (dbl : Bool) (d : GReg) (a : GReg) (b : GReg)
  /-- R231. Atomic signed minimum, returning the old value. -/
  | amoMin (g : Guard) (look : Fin 16) (dbl : Bool) (d : GReg) (a : GReg) (b : GReg)
  /-- R231. Atomic signed maximum, returning the old value. -/
  | amoMax (g : Guard) (look : Fin 16) (dbl : Bool) (d : GReg) (a : GReg) (b : GReg)
  /-- R231. Atomic unsigned minimum, returning the old value. -/
  | amoMinz (g : Guard) (look : Fin 16) (dbl : Bool) (d : GReg) (a : GReg) (b : GReg)
  /-- R231. Atomic unsigned maximum, returning the old value. -/
  | amoMaxz (g : Guard) (look : Fin 16) (dbl : Bool) (d : GReg) (a : GReg) (b : GReg)
  /-- R231. Atomic swap, returning the old value. -/
  | amoSwap (g : Guard) (look : Fin 16) (dbl : Bool) (d : GReg) (a : GReg) (b : GReg)
  /-- R231. 4-byte compare-and-swap returning the old value. -/
  | casW (g : Guard) (look : Fin 16) (two : Bool) (d : GReg) (a : GReg) (b : GReg)
  /-- R231. 8-byte compare-and-swap returning the old value. -/
  | casD (g : Guard) (look : Fin 16) (two : Bool) (d : GReg) (a : GReg) (b : GReg)
  /-- R238. Posts an F32 accumulate into the thread's private slot. -/
  | accF32 (g : Guard) (a : GReg) (b : GReg)
  /-- R238. Posts a BF16 value widened to F32 into the thread's slot. -/
  | accBf16 (g : Guard) (a : GReg) (b : GReg)
  /-- R238. Posts an F64 accumulate into the thread's slot. -/
  | accF64 (g : Guard) (a : GReg) (b : GReg)
  /-- R239. Posts a fold of the reduction-region line containing gA. -/
  | fold (g : Guard) (a : GReg)
  /-- R242. Sums M arriving messages into a partial sum in accumulator storage. -/
  | recvred (g : Guard) (look : Fin 16) (two : Bool) (d : GReg) (a : GReg) (b : GReg)
  /-- R252. Waits until earlier accesses in the scope are performed, then releases and acquires. -/
  | fence (g : Guard) (sc : Scope)
  /-- R259. Sets or clears the thread's member bit in a Conjunction object. -/
  | bjoin (g : Guard) (a : GReg)
  /-- R260. Fences at the object's level and records the thread's arrival. -/
  | barr (g : Guard) (a : GReg)
  /-- R260. Waits for the phase to change or reach a target, then acquires. -/
  | bwait (g : Guard) (a : GReg)
  /-- R260. Performs BARR and then BWAIT. -/
  | barrw (g : Guard) (a : GReg)
  /-- R261. Posts expected delivered bytes on a quad object, trapping on overrun. -/
  | bexp (g : Guard) (a : GReg) (b : GReg)
  /-- R262. Reads one word of a Conjunction object's state. -/
  | bmiss (g : Guard) (d : GReg) (a : GReg)
  /-- R269. Stages an 8-byte message from gA to the destination on a stream. -/
  | send (g : Guard) (a : GReg) (b : GReg)
  /-- R269. Stages a message of up to 2048 bytes read from the pool. -/
  | sendl (g : Guard) (a : GReg) (b : GReg)
  /-- R274. Waits for a message, copies its payload and returns its summary word. -/
  | recv (g : Guard) (d : GReg) (a : GReg)
  /-- R274. Returns the summary word of the head message without removing it. -/
  | rpeek (g : Guard) (d : GReg)
  /-- R271. Sets up or disables the core's receive ring. -/
  | rqset (g : Guard) (a : GReg) (b : GReg)
  /-- R277. Sends a resume packet with a retry, drop-one or drop-all action for a frozen stream. -/
  | resume (g : Guard) (a : GReg) (b : GReg)
  /-- R275. Reads n bytes of another core's pool or a window member into gD. -/
  | rget (g : Guard) (look : Fin 16) (d : GReg) (a : GReg) (b : GReg)
  /-- R275. Posts a write of n bytes of gD to another core's pool or a window member. -/
  | rsto (g : Guard) (look : Fin 16) (d : GReg) (a : GReg) (b : GReg)
  /-- R275. RGET with an extension word naming size, sign extension and stream. -/
  | rgetDw (g : Guard) (look : Fin 16) (d : GReg) (a : GReg) (b : GReg) (ext : BitVec 32)
  /-- R275. RSTO with an extension word naming size and stream. -/
  | rstoDw (g : Guard) (look : Fin 16) (d : GReg) (a : GReg) (b : GReg) (ext : BitVec 32)
  /-- R282. Pushes a 32-byte record to a quad FIFO, spilling to its ring or trapping on overflow. -/
  | qpush (g : Guard) (a : GReg) (b : GReg)
  /-- R282. Pops a record from a quad FIFO, waiting for refill if only the ring holds records. -/
  | qpop (g : Guard) (d : GReg) (a : GReg)
  /-- R281. A supervisor write of WQRINGn is checked and sets a FIFO's spill ring. -/
  | wqringWrite (g : Guard) (n : Fin 8) (a : GReg)
  /-- R296. Waits for the thread's outstanding work, submits successors and ends the thread. -/
  | exit (g : Guard) (a : GReg)
  /-- R300. Waits for the thread's window operations, sets TDET and detaches the member. -/
  | detach (g : Guard)
  /-- R292. Writes the team, thread, stage and window identity to gD. -/
  | teamid (g : Guard) (d : GReg)
  /-- R293. Lets hardware move the thread to an adjacent pipeline stage. -/
  | yield (g : Guard)
  /-- R302. Reads n bytes of a window member or core on stream 0 into gD. -/
  | wld (g : Guard) (look : Fin 16) (d : GReg) (a : GReg) (b : GReg)
  /-- R302. Posts a write of n bytes to a window member or core on stream 0. -/
  | wst (g : Guard) (look : Fin 16) (d : GReg) (a : GReg) (b : GReg)
  /-- R302. WLD with an extension word naming size and sign extension. -/
  | wldDw (g : Guard) (look : Fin 16) (d : GReg) (a : GReg) (b : GReg) (ext : BitVec 32)
  /-- R302. WST with an extension word naming size. -/
  | wstDw (g : Guard) (look : Fin 16) (d : GReg) (a : GReg) (b : GReg) (ext : BitVec 32)
  /-- R315. Seeds a range of tasks from the task table and optionally arms the end test. -/
  | hseed (g : Guard) (a : GReg) (b : GReg)
  /-- R313. Posts a residual update to a task. -/
  | gain (g : Guard) (a : GReg) (b : GReg)
  /-- R314. Releases at PKG and returns the held task with a kept residual. -/
  | done (g : Guard) (a : GReg)
  /-- R316. Reads the residual register or FINAL. -/
  | resid (g : Guard) (d : GReg)
  /-- R316. Returns what a local TAKE with floor 0 would return, without taking. -/
  | hpeek (g : Guard) (d : GReg)
  /-- R316. Returns TAKEN and the serving die's queued-task count. -/
  | hcount (g : Guard) (d : GReg)
  /-- R310. Takes a queued task of largest gain at or above the floor, or sleeps, or returns a status. -/
  | take (g : Guard) (look : Fin 16) (two : Bool) (d : GReg) (a : GReg) (b : GReg)
  /-- R209. Writes a Lexicon template from 32 pool bytes. -/
  | lexld (g : Guard) (a : GReg) (b : GReg)
  /-- R216. Enqueues a load of a B buffer with 64 records. -/
  | mldb (g : Guard) (a : GReg) (b : GReg)
  /-- R222. Enqueues the addition of one accumulator tile into the template's C tile. -/
  | macc (g : Guard) (a : GReg) (b : GReg)
  /-- R224. Reads a template word, MSTAT or MFPC into gD. -/
  | mrd (g : Guard) (d : GReg) (a : GReg)
  /-- R220. Checks and loads an Inflection program into an array. -/
  | infl (g : Guard) (a : GReg) (b : GReg)
  /-- R223. Waits until at most gA[15:0] matrix entries remain unretired. -/
  | mwait (g : Guard) (a : GReg)
  /-- R217. Enqueues a matrix multiply of latch rows by a B buffer into a C tile. -/
  | mma (g : Guard) (look : Fin 16) (d : GReg) (a : GReg) (b : GReg)
  /-- R215. Enqueues a gather of A records by index into latch rows. -/
  | mgath (g : Guard) (look : Fin 16) (d : GReg) (a : GReg) (b : GReg)
  /-- R210. Issues a template's KIND with one field amended for this issue only. -/
  | affixI (t : Fin 64) (f : Fin 64) (x : BitVec 16)
  /-- R210. Writes a template field and then issues the template's KIND. -/
  | affixK (t : Fin 64) (f : Fin 64) (x : BitVec 16)
  /-- R210. Writes a template field without issuing. -/
  | affixS (t : Fin 64) (f : Fin 64) (x : BitVec 16)
  /-- R325. Reads a system register into gD after number and mode checks. -/
  | mfs (g : Guard) (d : GReg) (r : BitVec 10)
  /-- R325. Writes a system register that has no behaviour of its own, field by field. -/
  | mts (g : Guard) (a : GReg) (r : BitVec 10)
  /-- R166. A write of PUBn is checked when enabling and sets the publish view. -/
  | pubSlotWrite (g : Guard) (n : Fin 4) (a : GReg)
  /-- R234. A write of ACCR is checked and sets the thread's reduction-region description. -/
  | accrWrite (g : Guard) (a : GReg)
  /-- R347. A write of ICINV invalidates the die's or module's instruction caches and waits. -/
  | icinvWrite (g : Guard) (a : GReg)
  /-- R392. A write of ASGPART assigns the selected holder or object to a partition, or traps. -/
  | asgpartWrite (g : Guard) (a : GReg)
  /-- R332. Raises SOFTWARE with the code in SUB. -/
  | trap (g : Guard) (b : Fin 32)
  /-- R333. Returns from a handler, restoring the saved mode and jumping to TEPC. -/
  | rett (g : Guard)
  /-- R337. Starts the halt tree for one partition and waits until every core has stopped. -/
  | halt (g : Guard)
  /-- R339. Stops every thread of a target team at its next boundary and lets work in flight complete. -/
  | ctxsvStop (g : Guard) (a : GReg)
  /-- R339. Restores a context image exactly onto a free core and holds the team stopped. -/
  | ctxldLoad (g : Guard) (a : GReg)
  /-- R332. Raises BREAK. -/
  | brk (g : Guard)
  /-- R341. Reads the module's TAI nanosecond counter into gD. -/
  | timens (g : Guard) (d : GReg)
  /-- R342. Releases issue slots until TIMENS reaches gA. -/
  | sleep (g : Guard) (a : GReg)
  /-- R342. Sleeps until TIMENS reaches gA or the receive queue holds a message. -/
  | sleepm (g : Guard) (a : GReg)
  /-- R346. Reads, and optionally zeroes, a performance counter. -/
  | perf (g : Guard) (d : GReg) (a : GReg)
  /-- R344. Writes a class-0 trace record with gA when tracing is enabled. -/
  | trace (g : Guard) (a : GReg)
  deriving DecidableEq, Repr

end Sys2Proof
end

