-- ==== Sys2Proof/Machine/Flags.lean ====
section
/-!
DEFINITION. Sys2Proof/Machine/Flags.lean: the number formats, rounding, and every flag that arithmetic sets (R80–R96,
R115–R124).
-/
namespace Sys2Proof

/-! ## Formats -/

/-- The width of a tag's elements (R80). -/
def Tag.width : Tag → Nat
  | .none | .i8 | .z8 | .f8a | .f8b | .f6 => 8
  | .i16 | .z16 | .bf16 | .f16 => 16
  | .i32 | .z32 | .f32 | .idx => 32
  | .i64 | .f64 => 64
  | .i4 | .z4 | .n4 => 4

/-- The integer formats, `IDX` among them (R82). -/
def Tag.isInt : Tag → Bool
  | .i8 | .z8 | .i16 | .z16 | .i32 | .z32 | .i64 | .i4 | .z4 | .idx => true
  | _ => false

/-- The signed integer formats (R80). -/
def Tag.isSigned : Tag → Bool
  | .i8 | .i16 | .i32 | .i64 | .i4 => true
  | _ => false

/-- A floating-point format (R83): exponent and mantissa bits, bias, and whether it has infinities and NaNs. -/
structure FloatFmt where
  e : Nat
  m : Nat
  bias : Nat
  inf : Bool := true
  nan : Bool := true
  deriving DecidableEq, Repr

/-- The floating-point format of a tag (R83). -/
def Tag.float : Tag → Option FloatFmt
  | .f6 => some ⟨3, 2, 3, false, false⟩
  | .f8a => some ⟨4, 3, 7, false, true⟩
  | .f8b => some ⟨5, 2, 15, true, true⟩
  | .bf16 => some ⟨8, 7, 127, true, true⟩
  | .f16 => some ⟨5, 10, 15, true, true⟩
  | .f32 => some ⟨8, 23, 127, true, true⟩
  | .f64 => some ⟨11, 52, 1023, true, true⟩
  | _ => Option.none

def Tag.isFloat (t : Tag) : Bool := t.float.isSome

/-- The formats that arithmetic takes: 1–12 and 14–18 (R113). -/
def Tag.isNumber (t : Tag) : Bool := t.isFloat || t.isInt

def f32Fmt : FloatFmt := ⟨8, 23, 127, true, true⟩
def f64Fmt : FloatFmt := ⟨11, 52, 1023, true, true⟩
def bf16Fmt : FloatFmt := ⟨8, 7, 127, true, true⟩

/-- Lane `i` of a register value, of width `w` (R81). -/
def lane (x w i : Nat) : Nat := x / 2 ^ (w * i) % 2 ^ w

/-- A register value from its lanes of width `w`, lane 0 lowest (R81). -/
def ofLanes (w : Nat) : List Nat → Nat
  | [] => 0
  | x :: xs => x % 2 ^ w + 2 ^ w * ofLanes w xs

/-- The lanes of a register value of `bits` bits. -/
def lanesOf (bits w x : Nat) : List Nat := (List.range (bits / w)).map (lane x w)

/-- The integer that the low `w` bits of `x` stand for (R82). -/
def intVal (signed : Bool) (w x : Nat) : Int :=
  if signed && decide (2 ^ (w - 1) ≤ x % 2 ^ w) then (x % 2 ^ w : Nat) - (2 ^ w : Nat) else (x % 2 ^ w : Nat)

/-- An integer modulo 2^w. -/
def wrap (w : Nat) (x : Int) : Nat := (x % (2 ^ w : Nat)).toNat

/-- SatS and SatZ of R7. -/
def sat (signed : Bool) (w : Nat) (x : Int) : Int :=
  if signed then Max.max (-(2 ^ (w - 1) : Nat)) (Min.min ((2 ^ (w - 1) : Nat) - 1) x)
  else Max.max 0 (Min.min ((2 ^ w : Nat) - 1) x)

/-! ## Flags (R87) -/

def flagNX : BitVec 6 := 1
def flagUF : BitVec 6 := 2
def flagOF : BitVec 6 := 4
def flagDZ : BitVec 6 := 8
def flagNV : BitVec 6 := 16
def flagSAT : BitVec 6 := 32

/-- The rounding modes (R86). -/
inductive Rounding where
  | rne | rtz | rup | rdn | sat
  deriving DecidableEq, Repr

/-- An exact value: `fin neg m e` is ±m·2^e. -/
inductive Num where
  | nan (neg : Bool)
  | inf (neg : Bool)
  | fin (neg : Bool) (m : Nat) (e : Int)
  deriving DecidableEq, Repr

/-- A lane's bits, and the flags that it sets. -/
abbrev Lane := Nat × BitVec 6

/-! ## Reading and writing floats -/

/-- The value of a lane of a floating-point format (R83); `F6` ignores bits [7:6] (R81). -/
def FloatFmt.val (f : FloatFmt) (x : Nat) : Num :=
  let neg := x / 2 ^ (f.e + f.m) % 2 == 1
  let ex := x / 2 ^ f.m % 2 ^ f.e
  let mant := x % 2 ^ f.m
  let top := ex == 2 ^ f.e - 1
  if f.inf && top then (if mant = 0 then .inf neg else .nan neg)
  else if f.nan && top && mant == 2 ^ f.m - 1 then .nan neg
  else if ex = 0 then .fin neg mant (1 - (f.bias : Int) - f.m)
  else .fin neg (mant + 2 ^ f.m) ((ex : Int) - f.bias - f.m)

/-- The sign bit of a format. -/
def FloatFmt.sign (f : FloatFmt) (neg : Bool) : Nat := if neg then 2 ^ (f.e + f.m) else 0

/-- The bits of the largest finite magnitude (R83). -/
def FloatFmt.maxBits (f : FloatFmt) : Nat :=
  if f.inf then (2 ^ f.e - 1) * 2 ^ f.m - 1 else if f.nan then 2 ^ (f.e + f.m) - 2 else 2 ^ (f.e + f.m) - 1

/-- The canonical NaN's magnitude bits (R84); every mantissa bit in `F8A`. -/
def FloatFmt.nanBits (f : FloatFmt) : Nat :=
  if f.inf then (2 ^ f.e - 1) * 2 ^ f.m + 2 ^ (f.m - 1) else 2 ^ (f.e + f.m) - 1

def FloatFmt.infBits (f : FloatFmt) : Nat := (2 ^ f.e - 1) * 2 ^ f.m

/-- A NaN delivered with a sign; `+0` and NV in `F6` (R84, R86). -/
def FloatFmt.deliverNan (f : FloatFmt) (neg : Bool) : Lane :=
  if f.nan then (f.sign neg + f.nanBits, 0) else (0, flagNV)

/-- An infinity delivered (R86): to a format without infinities it is invalid.  DEDUCED: under SAT it is ±max in every format,
and in a format that has infinities this sets NX alone, since no rounded result overflows (R87; log 12). -/
def FloatFmt.deliverInf (f : FloatFmt) (mode : Rounding) (neg : Bool) : Lane :=
  if f.inf then
    if mode = .sat then (f.sign neg + f.maxBits, flagNX) else (f.sign neg + f.infBits, 0)
  else if f.nan && mode != .sat then (f.sign neg + f.nanBits, flagNV)
  else (f.sign neg + f.maxBits, flagNV)

/-- What replaces a finite result that overflows (R86). -/
def FloatFmt.overflow (f : FloatFmt) (mode : Rounding) (neg : Bool) : Nat :=
  let toMax := !f.nan || (match mode with
    | .rne => false
    | .rtz | .sat => true
    | .rup => neg
    | .rdn => !neg)
  f.sign neg + (if toMax then f.maxBits else if f.inf then f.infBits else f.nanBits)

/-! ## Rounding -/

/-- The quotient `n / d` rounded to an integer, and whether it is inexact (R86). -/
def roundQuot (mode : Rounding) (neg : Bool) (n d : Nat) : Nat × Bool :=
  let q := n / d
  let r := n % d
  let up := match mode with
    | .rne | .sat => decide (d < 2 * r) || (2 * r == d && q % 2 == 1)
    | .rtz => false
    | .rup => decide (0 < r) && !neg
    | .rdn => decide (0 < r) && neg
  (if up then q + 1 else q, decide (0 < r))

/-- `(n / d) / 2^u` as a quotient. -/
def overPow (n d : Nat) (u : Int) : Nat × Nat := if 0 ≤ u then (n, d * 2 ^ u.toNat) else (n * 2 ^ (-u).toNat, d)

/-- The floor of log2 (n / d), for positive `n` and `d`. -/
def floorLog2 (n d : Nat) : Int :=
  let k := (n.log2 : Int) - d.log2
  let (a, b) := overPow n d k
  if b ≤ a then k else k - 1

/-- The rational ±n/d rounded to a format: its bits and flags (R85, R86, R87). -/
def FloatFmt.round (f : FloatFmt) (mode : Rounding) (neg : Bool) (n d : Nat) : Lane :=
  if n = 0 then (f.sign neg, 0)
  else
    let e := floorLog2 n d
    let emin := 1 - (f.bias : Int)
    let u := (if e < emin then emin else e) - f.m
    let (a, b) := overPow n d u
    let (q, nx) := roundQuot mode neg a b
    let bits := if e < emin then q else (e - emin).toNat * 2 ^ f.m + q
    if f.maxBits < bits then (f.overflow mode neg, flagOF ||| flagNX)
    else
      let (a', b') := overPow n d (e - f.m)
      let tiny := decide (e < emin) &&
        !(e == emin - 1 && (roundQuot mode neg a' b').1 == 2 ^ (f.m + 1))
      (f.sign neg + bits, (if nx then flagNX else 0) ||| (if nx && tiny then flagUF else 0))

/-- ±m·2^e as a quotient. -/
def ratOf (m : Nat) (e : Int) : Nat × Nat := if 0 ≤ e then (m * 2 ^ e.toNat, 1) else (m, 2 ^ (-e).toNat)

/-- A value delivered in a format; `nanSign` keeps a NaN's sign, as conversions do (R84). -/
def FloatFmt.deliver (f : FloatFmt) (mode : Rounding) (nanSign : Bool) : Num → Lane
  | .nan neg => f.deliverNan (neg && nanSign)
  | .inf neg => f.deliverInf mode neg
  | .fin neg m e => f.round mode neg (ratOf m e).1 (ratOf m e).2

/-! ## Exact arithmetic -/

def Num.neg : Num → Num
  | .nan s => .nan s
  | .inf s => .inf (!s)
  | .fin s m e => .fin (!s) m e

/-- A signed mantissa at exponent `e`, which is at most its own. -/
def alignTo (s : Bool) (m : Nat) (e0 e : Int) : Int :=
  let x : Nat := m * 2 ^ (e0 - e).toNat
  if s then -(x : Int) else x

/-- x + y, exactly; ∞ − ∞ is NaN and NV; a zero sum is +0 unless both are −0 (R87, R114). -/
def Num.add : Num → Num → Num × BitVec 6
  | .nan _, _ | _, .nan _ => (.nan false, 0)
  | .inf a, .inf b => if a = b then (.inf a, 0) else (.nan false, flagNV)
  | .inf a, .fin .. => (.inf a, 0)
  | .fin .., .inf b => (.inf b, 0)
  | .fin sa a ea, .fin sb b eb =>
    let e := if ea ≤ eb then ea else eb
    let x := alignTo sa a ea e + alignTo sb b eb e
    if x = 0 then (.fin (sa && sb) 0 e, 0) else (.fin (decide (x < 0)) x.natAbs e, 0)

/-- x × y, exactly; 0 × ∞ is NaN and NV (R87). -/
def Num.mul : Num → Num → Num × BitVec 6
  | .nan _, _ | _, .nan _ => (.nan false, 0)
  | .inf a, .inf b => (.inf (a != b), 0)
  | .inf a, .fin b m _ => if m = 0 then (.nan false, flagNV) else (.inf (a != b), 0)
  | .fin a m _, .inf b => if m = 0 then (.nan false, flagNV) else (.inf (a != b), 0)
  | .fin a m e, .fin b n k => (.fin (a != b) (m * n) (e + k), 0)

/-- Whether x < y and whether x = y, for values that are no NaN; −0 equals +0 (R120). -/
def Num.cmp : Num → Num → Bool × Bool
  | .inf a, .inf b => (a && !b, a == b)
  | .inf a, _ => (a, false)
  | _, .inf b => (!b, false)
  | .fin sa a ea, .fin sb b eb =>
    let e := if ea ≤ eb then ea else eb
    let x := alignTo sa a ea e
    let y := alignTo sb b eb e
    (decide (x < y), x == y)
  | _, _ => (false, false)

def Num.isNan : Num → Bool
  | .nan _ => true
  | _ => false

/-- x + y and x × y in one format, rounded once by RNE (R114). -/
def FloatFmt.add (f : FloatFmt) (x y : Nat) : Lane :=
  let (v, fl) := (f.val x).add (f.val y)
  let (r, fl') := f.deliver .rne false v
  (r, fl ||| fl')

def FloatFmt.sub (f : FloatFmt) (x y : Nat) : Lane :=
  let (v, fl) := (f.val x).add (f.val y).neg
  let (r, fl') := f.deliver .rne false v
  (r, fl ||| fl')

def FloatFmt.mul (f : FloatFmt) (x y : Nat) : Lane :=
  let (v, fl) := (f.val x).mul (f.val y)
  let (r, fl') := f.deliver .rne false v
  (r, fl ||| fl')

/-- ±(x × y) ± z, rounded once (R117). -/
def FloatFmt.fma (f : FloatFmt) (negProduct negAddend : Bool) (x y z : Nat) : Lane :=
  let (p, f1) := (f.val x).mul (f.val y)
  let z := f.val z
  let (v, f2) := (if negProduct then p.neg else p).add (if negAddend then z.neg else z)
  let (r, f3) := f.deliver .rne false v
  (r, f1 ||| f2 ||| f3)

/-- The bits of a lane that an `F6` result keeps (R81). -/
def FloatFmt.clean (f : FloatFmt) (x : Nat) : Nat := x % 2 ^ (f.e + f.m + 1)

/-- The smaller (or larger) of x and y by R116. -/
def FloatFmt.pick (f : FloatFmt) (larger : Bool) (x y : Nat) : Nat :=
  let vx := f.val x
  let vy := f.val y
  if vx.isNan && vy.isNan then f.nanBits
  else if vx.isNan then f.clean y
  else if vy.isNan then f.clean x
  else
    let xneg := f.clean x / 2 ^ (f.e + f.m) == 1
    let (lt, eq) := vx.cmp vy
    let xBelow := lt || (eq && xneg)
    f.clean (if xBelow != larger then x else y)

/-! ## Lane operations (R115–R122) -/

/-- The two-operand lane operations. -/
inductive LaneOp where
  | add | sub | mul | min | max | addS | subS
  deriving DecidableEq, Repr

def intOp (op : LaneOp) (signed : Bool) (w x y : Nat) : Lane :=
  let a := intVal signed w x
  let b := intVal signed w y
  let clamp := fun (r : Int) =>
    (wrap w (Sys2Proof.sat signed w r), if Sys2Proof.sat signed w r = r then (0 : BitVec 6) else flagSAT)
  match op with
  | .add => (wrap w (a + b), 0)
  | .sub => (wrap w (a - b), 0)
  | .mul => (wrap w (a * b), 0)
  | .min => (wrap w (if a ≤ b then a else b), 0)
  | .max => (wrap w (if a ≤ b then b else a), 0)
  | .addS => clamp (a + b)
  | .subS => clamp (a - b)

def floatOp (op : LaneOp) (f : FloatFmt) (x y : Nat) : Lane :=
  match op with
  | .add | .addS => f.add x y
  | .sub | .subS => f.sub x y
  | .mul => f.mul x y
  | .min => (f.pick false x y, 0)
  | .max => (f.pick true x y, 0)

/-- One lane of a two-operand instruction in a format (R115, R116). -/
def laneOp (op : LaneOp) (t : Tag) (x y : Nat) : Lane :=
  match t.float with
  | some f => floatOp op f x y
  | none => intOp op t.isSigned t.width x y

/-- `VABS` and `VNEG` of one lane (R115). -/
def laneAbs (t : Tag) (x : Nat) : Nat :=
  match t.float with
  | some f => if (f.val x).isNan then f.nanBits else f.clean x % 2 ^ (f.e + f.m)
  | none => wrap t.width (intVal t.isSigned t.width x).natAbs

def laneNeg (t : Tag) (x : Nat) : Nat :=
  match t.float with
  | some f =>
    if (f.val x).isNan then f.nanBits
    else if f.clean x < 2 ^ (f.e + f.m) then f.clean x + 2 ^ (f.e + f.m) else f.clean x - 2 ^ (f.e + f.m)
  | none => wrap t.width (-(intVal t.isSigned t.width x))

/-- One lane of `VFMA`, `VFMS`, `VNFMA` (R117). -/
def laneFma (t : Tag) (negProduct negAddend : Bool) (x y z : Nat) : Lane :=
  match t.float with
  | some f => f.fma negProduct negAddend x y z
  | none =>
    let v := fun u => intVal t.isSigned t.width u
    let p := if negProduct then -(v x * v y) else v x * v y
    (wrap t.width (if negAddend then p - v z else p + v z), 0)

/-- The value of a lane read by its own tag. -/
def laneVal (t : Tag) (x : Nat) : Num :=
  match t.float with
  | some f => f.val x
  | none => .fin (decide (intVal t.isSigned t.width x < 0)) (intVal t.isSigned t.width x).natAbs 0

/-- The conditions of `VCMP` (R120): EQ NE LT GE LE GT UN. -/
def laneCmp (c : Nat) (t : Tag) (x y : Nat) : Bool :=
  let a := laneVal t x
  let b := laneVal t y
  if a.isNan || b.isNan then c == 1 || c == 6
  else
    let (lt, eq) := a.cmp b
    match c with
    | 0 => eq
    | 1 => !eq
    | 2 => lt
    | 3 => !lt
    | 4 => lt || eq
    | 5 => !(lt || eq)
    | _ => false

/-! ## Conversion (R94, R95) -/

/-- `Convert` of R95. -/
def convert (src dst : Tag) (mode : Rounding) (x : Nat) : Lane :=
  match dst.float with
  | some f => f.deliver mode true (laneVal src x)
  | none =>
    let w := dst.width
    let sg := dst.isSigned
    match laneVal src x with
    | .nan _ => (0, flagNV)
    | .inf neg => (wrap w (Sys2Proof.sat sg w (if neg then -(2 ^ 65 : Nat) else (2 ^ 65 : Nat))), flagNV)
    | .fin neg m e =>
      let (q, nx) := roundQuot mode neg (ratOf m e).1 (ratOf m e).2
      let v : Int := if neg then -(q : Int) else q
      let c := Sys2Proof.sat sg w v
      if src.isFloat then
        (wrap w c, (if nx then flagNX else 0) ||| (if c = v then 0 else flagNV))
      else if mode = .sat then (wrap w c, if c = v then 0 else flagSAT)
      else (wrap w v, 0)

/-- The class codes of `FCLASS` (R96). -/
def fclass (f : FloatFmt) (x : Nat) : Nat :=
  match f.val x with
  | .nan _ => 8
  | .inf neg => if neg then 0 else 7
  | .fin neg m _ =>
    if m = 0 then (if neg then 3 else 4)
    else if m < 2 ^ f.m then (if neg then 2 else 5)
    else (if neg then 1 else 6)

/-! ## The N4 codebook (R89, R90) -/

/-- K of R89. -/
def n4K (c : Nat) : Int :=
  [-256, -184, -136, -100, -70, -44, -21, 0, 19, 39, 61, 85, 113, 146, 190, 256].getD (c % 16) 0

/-- The exact value (K[c]/256)·q·S.  DESIGN CHOICE: a product of zero has the sign of its factors, as IEEE products do, so
that a negative code under q = 0 gives −0 (log 31). -/
def n4Value (c q : Nat) (s : Num) : Num × BitVec 6 :=
  (Num.fin (decide (n4K c < 0)) ((n4K c).natAbs * q) (-8)).mul s

/-- The code whose K[c]/256 lies nearest to x/(q·S), a tie to the smaller magnitude (R90 rule 3); 256·x and q·S are given
at one exponent. -/
def n4Nearest (x256 : Int) (qs : Nat) : Nat :=
  let dist := fun c => (x256 - n4K c * qs).natAbs
  ((List.range 16).foldl (fun best c =>
    if dist c < dist best ∨ (dist c = dist best ∧ (n4K c).natAbs < (n4K best).natAbs) then c else best) 0)

/-- The super-scale of a group maximum: RNE(M/255, F32), and 2^−149 where that is 0 and M is not (R90 rule 1); NaN and
infinite maxima give 0 and NV (R98).  DESIGN CHOICE: the rounding of M/255 sets no flag (log 31). -/
def superScale (m : Nat) : Lane :=
  match f32Fmt.val m with
  | .fin _ k e =>
    let (n, d) := ratOf k e
    let (r, _) := f32Fmt.round .rne false n (d * 255)
    (if r = 0 ∧ k ≠ 0 then 1 else r, 0)
  | _ => (0, flagNV)

/-- The scale byte of a block maximum under a super-scale (R90 rule 2, R98). -/
def scaleByte (a s : Nat) : Lane :=
  match f32Fmt.val s, f32Fmt.val a with
  | .fin _ k e, v =>
    if k = 0 then (0, 0)
    else match v with
      | .nan _ => (255, flagNV)
      | .inf _ => (255, 0)
      | .fin _ m ea =>
        let n := (ratOf m ea).1 * (ratOf k e).2
        let d := (ratOf m ea).2 * (ratOf k e).1
        (Min.min 255 ((n + d - 1) / d), 0)
  | _, _ => (0, 0)

/-- One element encoded by `QN4` (R99). -/
def qn4Element (x q s : Nat) : Lane :=
  let sv := f32Fmt.val s
  let good := match sv with
    | .fin neg k _ => !neg && k != 0
    | _ => false
  let (c, fl) : Nat × BitVec 6 :=
    if q = 0 ∨ good = false then
      (7, match sv with | .fin .. => 0 | _ => flagNV)
    else match f32Fmt.val x, sv with
      | .nan _, _ => (7, flagNV)
      | .inf neg, _ => (if neg then 0 else 15, 0)
      | .fin neg m e, .fin _ k es =>
        let e0 := if e + 8 ≤ es then e + 8 else es
        (n4Nearest (alignTo neg m (e + 8) e0) (q * k * 2 ^ (es - e0).toNat), 0)
      | _, _ => (7, 0)
  let same := match (n4Value c q sv).1, f32Fmt.val x with
    | .nan _, _ | _, .nan _ => false
    | a, b => (a.cmp b).2
  (c, fl ||| (if same then 0 else flagNX))

/-- One element decoded: RNE(K[c]/256·q·S, F32) (R99, R104). -/
def dqn4Element (c q s : Nat) : Lane :=
  let (v, fl) := n4Value c q (f32Fmt.val s)
  let (r, fl') := f32Fmt.deliver .rne false v
  (r, fl ||| fl')

/-! ## Special functions (R123, R124) -/

/-- Newton's iteration for the integer square root. -/
def isqrtFrom (n : Nat) : Nat → Nat → Nat
  | 0, x => x
  | fuel + 1, x =>
    let y := (x + n / x) / 2
    if x ≤ y then x else isqrtFrom n fuel y

/-- The floor of √n. -/
def isqrt (n : Nat) : Nat := if n = 0 then 0 else isqrtFrom n (n.log2 + 8) (2 ^ (n.log2 / 2 + 1))

/-- 1/√(n/d) rounded: the root to `f.m + 4` bits past its leading one, and a half more where it is inexact. -/
def FloatFmt.roundRsqrt (f : FloatFmt) (n d : Nat) : Lane :=
  let k := f.m + 4 + n.log2
  let r := isqrt (d * 4 ^ k / n)
  if r * r * n = d * 4 ^ k then f.round .rne false r (2 ^ k) else f.round .rne false (2 * r + 1) (2 ^ (k + 1))

/-- z + z³/3 + z⁵/5 + … in fixed point with `k` fraction bits. -/
def atanhSum (k z2 : Nat) : Nat → Nat → Nat → Nat → Nat
  | 0, _, _, acc => acc
  | fuel + 1, j, pow, acc => atanhSum k z2 fuel (j + 2) (pow * z2 / 2 ^ k) (acc + pow / j)

/-- ln((1+z)/(1−z)) for z ≤ 1/3 in fixed point. -/
def lnRatio (k z : Nat) : Nat := 2 * atanhSum k (z * z / 2 ^ k) (k / 3 + 8) 1 z 0

/-- ln 2 in fixed point. -/
def ln2Fixed (k : Nat) : Nat := lnRatio k (2 ^ k / 3)

/-- r + r²/2! + … in fixed point. -/
def expSum (k r : Nat) : Nat → Nat → Nat → Nat → Nat
  | 0, _, _, acc => acc
  | fuel + 1, j, term, acc =>
    let t := term * r / 2 ^ k / j
    expSum k r fuel (j + 1) t (acc + t)

/-- e^r for r ≤ 1 in fixed point. -/
def expFixed (k r : Nat) : Nat := expSum k r (k / 4 + 8) 1 (2 ^ k) (2 ^ k)

/-- e^(n/d) = `v`·2^`i`/2^k to within 2^20 units of `v`. -/
def expScaled (k n d : Nat) : Nat × Nat :=
  let y := n * 2 ^ k / d
  let l := ln2Fixed k
  (expFixed k (y % l), y / l)

/-- A value that lies between two close rationals: rounded where both ends round alike, else by the next precision. -/
def FloatFmt.settle (f : FloatFmt) (neg : Bool) (ends : Nat → (Nat × Nat) × (Nat × Nat)) : List Nat → Lane
  | [] => (f.sign neg, flagNX)
  | k :: ks =>
    let ((n, d), (n', d')) := ends k
    let lo := f.round .rne neg n d
    let hi := f.round .rne neg n' d'
    if lo = hi ∨ ks = [] then (lo.1, lo.2 ||| flagNX) else f.settle neg ends ks

/-- The precisions tried. -/
def precisions : List Nat := [128, 320, 640]

inductive SpecialFn where
  | rcp | rsq | exp2 | log2 | tanh | sigm
  deriving DecidableEq, Repr

/-- 2^x for a finite nonzero x. -/
def FloatFmt.exp2 (f : FloatFmt) (neg : Bool) (m : Nat) (e : Int) : Lane :=
  let (n, d) := ratOf m e
  if n % d = 0 then
    let i := Min.min (n / d) 2000
    if neg then f.round .rne false 1 (2 ^ i) else f.round .rne false (2 ^ i) 1
  else if 2000 * d < n then
    let (r, fl) := if neg then f.round .rne false 1 (2 ^ 2000) else f.round .rne false (2 ^ 2000) 1
    (r, fl ||| flagNX)
  else
    let fr := if neg then d - n % d else n % d
    let i := if neg then n / d + 1 else n / d
    let at_ := fun k v => if neg then (v, 2 ^ (k + i)) else (v * 2 ^ i, 2 ^ k)
    f.settle false (fun k =>
      let v := expFixed k (fr * ln2Fixed k / d)
      (at_ k (v - 2 ^ 20), at_ k (v + 2 ^ 20))) precisions

/-- log2 x for a finite positive x. -/
def FloatFmt.log2 (f : FloatFmt) (m : Nat) (e : Int) : Lane :=
  let k0 := m.log2
  let p := e + k0
  if m = 2 ^ k0 then f.round .rne (decide (p < 0)) p.natAbs 1
  else
    let at_ := fun k =>
      let ln := lnRatio k ((m - 2 ^ k0) * 2 ^ k / (m + 2 ^ k0))
      p * ((2 ^ k : Nat) : Int) + ((ln * 2 ^ k / ln2Fixed k : Nat) : Int)
    f.settle (decide (p < 0)) (fun k =>
      let v := (at_ k).natAbs
      ((v - 2 ^ 20, 2 ^ k), (v + 2 ^ 20, 2 ^ k))) precisions

/-- tanh x for a finite nonzero x of magnitude m·2^e: x where x is so small, and 1 where it is so large, that the exact
value rounds so. -/
def FloatFmt.tanh (f : FloatFmt) (neg : Bool) (m : Nat) (e : Int) : Lane :=
  let (n, d) := ratOf m e
  if n * 2 ^ 20 < d then
    let (r, fl) := f.round .rne neg (n * (2 ^ 50 - 1)) (d * 2 ^ 50)
    (r, fl ||| flagNX)
  else if 32 * d < n then
    let (r, fl) := f.round .rne neg (2 ^ 60 - 1) (2 ^ 60)
    (r, fl ||| flagNX)
  else
    f.settle neg (fun k =>
      let (v, i) := expScaled k (2 * n) d
      let at_ := fun v => (v * 2 ^ i - 2 ^ k, v * 2 ^ i + 2 ^ k)
      (at_ (v - 2 ^ 20), at_ (v + 2 ^ 20))) precisions

/-- 1/(1 + e^−x) for a finite nonzero x. -/
def FloatFmt.sigm (f : FloatFmt) (neg : Bool) (m : Nat) (e : Int) : Lane :=
  let (n, d) := ratOf m e
  if 200 * d < n then
    let (r, fl) := if neg then f.round .rne false 1 (2 ^ 280) else f.round .rne false (2 ^ 60 - 1) (2 ^ 60)
    (r, fl ||| flagNX)
  else
    f.settle false (fun k =>
      let (v, i) := expScaled k n d
      let at_ := fun v => if neg then (2 ^ k, 2 ^ k + v * 2 ^ i) else (v * 2 ^ i, 2 ^ k + v * 2 ^ i)
      (at_ (v - 2 ^ 20), at_ (v + 2 ^ 20))) precisions

/-- A special function of one lane (R123, R124). -/
def specialLane (fn : SpecialFn) (f : FloatFmt) (x : Nat) : Lane :=
  match f.val x with
  | .nan _ => (f.nanBits, 0)
  | .inf neg =>
    match fn with
    | .rcp => (f.sign neg, 0)
    | .rsq => if neg then (f.nanBits, flagNV) else (0, 0)
    | .exp2 => if neg then (0, 0) else (f.infBits, 0)
    | .log2 => if neg then (f.nanBits, flagNV) else (f.infBits, 0)
    | .tanh => f.round .rne neg 1 1
    | .sigm => if neg then (0, 0) else f.round .rne false 1 1
  | .fin neg m e =>
    if m = 0 then
      match fn with
      | .rcp | .rsq => (f.sign neg + f.infBits, flagDZ)
      | .exp2 => f.round .rne false 1 1
      | .log2 => (f.sign true + f.infBits, flagDZ)
      | .tanh => (f.sign neg, 0)
      | .sigm => f.round .rne false 1 2
    else
      match fn with
      | .rcp => f.round .rne neg (ratOf m e).2 (ratOf m e).1
      | .rsq => if neg then (f.nanBits, flagNV) else f.roundRsqrt (ratOf m e).1 (ratOf m e).2
      | .exp2 => f.exp2 neg m e
      | .log2 => if neg then (f.nanBits, flagNV) else f.log2 m e
      | .tanh => f.tanh neg m e
      | .sigm => f.sigm neg m e

/-! ## Memory's own conversions -/

/-- An `F32` element stored on a tolerant page (R93). -/
def tolerantStore (x : Nat) : Nat :=
  match f32Fmt.val x with
  | .nan neg =>
    let k := x / 2 ^ 16 % 2 ^ 7
    (if neg then 0x8000 else 0) + 0x7F80 + (if k = 0 then 1 else k)
  | v => (bf16Fmt.deliver .rne true v).1

/-- x + y in `F32` or `F64`, rounded by RNE; memory-side units set no flags (R195, R236). -/
def memAdd (f64 : Bool) (x y : Nat) : Nat := ((if f64 then f64Fmt else f32Fmt).add x y).1

end Sys2Proof
end

