-- ==== Sys2Proof/Config.lean ====
section
/-!
DEFINITION. Sys2Proof/Config.lean: what is fixed for one module at manufacture or by its firmware and is not stated by
the manual: opaque constants, of which nothing can be proved.
-/
namespace Sys2Proof.Config

/-! ## Straps and fuses, by module number (R381, R385, R387) -/

/-- Silicon revision (`MID`.REV). -/
opaque revision : Nat → BitVec 16
/-- The module number of the group's first member (`MGROUP`.FIRST). -/
opaque groupFirst : Nat → BitVec 8
/-- The group's members, less one (`MGROUP`.CNT). -/
opaque groupCount : Nat → BitVec 4
/-- The member of a group, given by its first module, whose bridge is enabled. -/
opaque groupBridge : Nat → BitVec 4
/-- The module's index in its group (`MID`.MEMBER): member i is module FIRST + i (R380). -/
def member (m : Nat) : BitVec 4 := BitVec.ofNat 4 (m - (groupFirst m).toNat)
/-- The module's bridge is enabled (`MID`.BRIDGE), as that of exactly one module of its group is (R26; log 27). -/
def bridgeEnabled (m : Nat) : Bool :=
  (groupBridge (groupFirst m).toNat).toNat % ((groupCount m).toNat + 1) == m - (groupFirst m).toNat
/-- The module's serial number (R387). -/
opaque serial : Nat → BitVec 64
/-- The fused 256-bit secret (R387). -/
opaque fusedSecret : Nat → Vector Byte 32
/-- The vendor's public key, whose digest is fused (R385). -/
opaque vendorKey : Nat → Vector Byte 32
/-- The fused minimum version of a firmware image (R385). -/
opaque minVersion : Nat → BitVec 32
/-- The certificate of the identity key (R386). -/
opaque certificate : Nat → List Byte

/-! ## Functions that the manual takes from other standards (R385, R387), of which the model proves nothing (log 24) -/

/-- SHA-512. -/
opaque sha512 : List Byte → Vector Byte 64
/-- The Ed25519 public key of a seed (RFC 8032). -/
opaque ed25519Public : List Byte → Vector Byte 32
/-- The Ed25519 signature of a message under a seed. -/
opaque ed25519Sign : List Byte → List Byte → Vector Byte 64
/-- An Ed25519 signature of a message checks against a public key. -/
opaque ed25519Verify : List Byte → List Byte → List Byte → Bool

/-! ## What the manual leaves to the part or to its firmware -/

/-- Where firmware starts each thread of the supervisor cores when a module becomes ready (R323, R384); the manual does not
say which of the threads run, nor where (log 4). -/
opaque firmwareStart : Nat → Option (BitVec 64)

/-- The address that `TADDR` receives for an uncorrectable word of the register file (R137, R330): the manual does not say
where in the register file a register lies.  The arguments are the thread of the core and the register. -/
opaque registerFileWord : Nat → Nat → BitVec 64

/-- Free values, in the order in which they are needed: what an instruction that the manual lets run leaves where the
manual states no value (log 5). -/
opaque freeWord : Nat → BitVec 64

end Sys2Proof.Config
end

