-- ==== Sys2Proof/Machine/Memory.lean ====
section
/-!
DEFINITION. Sys2Proof/Machine/Memory.lean: bytes by number, in one canonical form: numbers rise strictly, and no byte
that is listed equals what an unlisted one reads as, which is zero.
-/
namespace Sys2Proof.Machine

/-- The bytes of the machine's memories; `State` says which number stands for which byte. -/
abbrev Memory := List Host.Cell

/-- What an unlisted byte reads as.  A pool is zeroed at team start (R291); what DRAM holds before training and the
first write is the model's choice (log 2). -/
def Memory.unlisted : Byte := 0

/-- One byte. -/
def Memory.read (m : Memory) (k : Nat) : Byte :=
  match m with
  | [] => Memory.unlisted
  | (j, b) :: t => if j = k then b else Memory.read t k

/-- The memory with byte `b` at `k`. -/
def Memory.write (m : Memory) (k : Nat) (b : Byte) : Memory :=
  match m with
  | [] => if b = Memory.unlisted then [] else [(k, b)]
  | (j, c) :: t =>
    if k < j then (if b = Memory.unlisted then (j, c) :: t else (k, b) :: (j, c) :: t)
    else if j = k then (if b = Memory.unlisted then t else (k, b) :: t)
    else (j, c) :: Memory.write t k b

/-- Numbers rise strictly from above `lo`, and no listed byte reads as an unlisted one. -/
def Memory.wfFrom (lo : Nat) : Memory → Bool
  | [] => true
  | (j, b) :: t => decide (lo ≤ j) && (b != Memory.unlisted) && Memory.wfFrom (j + 1) t

/-- The canonical form. -/
def Memory.wf (m : Memory) : Bool := Memory.wfFrom 0 m

/-- `n` bytes from `k`, lowest number first. -/
def Memory.readBytes (m : Memory) (k : Nat) : Nat → List Byte
  | 0 => []
  | n + 1 => m.read k :: m.readBytes (k + 1) n

/-- The bytes `bs` at `k` and up. -/
def Memory.writeBytes (m : Memory) (k : Nat) : List Byte → Memory
  | [] => m
  | b :: bs => (m.write k b).writeBytes (k + 1) bs

/-- `n` bytes from `k` as a number, little-endian (R2). -/
def Memory.readNat (m : Memory) (k : Nat) : Nat → Nat
  | 0 => 0
  | n + 1 => (m.read k).toNat + 256 * m.readNat (k + 1) n

/-- The low `n` bytes of `v` at `k`, little-endian (R2). -/
def Memory.writeNat (m : Memory) (k : Nat) : Nat → Nat → Memory
  | 0, _ => m
  | n + 1, v => (m.write k (BitVec.ofNat 8 v)).writeNat (k + 1) n (v / 256)

/-- The bytes from `lo` up to, not including, `hi` read as unlisted. -/
def Memory.clear (m : Memory) (lo hi : Nat) : Memory := m.filter (fun c => decide (c.1 < lo) || decide (hi ≤ c.1))

end Sys2Proof.Machine
end

