-- ==== Sys2Proof/Machine/Tbl.lean ====
section
/-!
DEFINITION. Sys2Proof/Machine/Tbl.lean: tables of records kept by number, as lists of number and record with rising
numbers.  The machine has many like parts of which a run touches few; a part that is not listed is in the state that
the reader of the table names.
-/
namespace Sys2Proof.Machine

/-- A table of records, by rising number. -/
abbrev Tbl (α : Type) := List (Nat × α)

/-- The record with number `k`, or `dflt` where none is listed. -/
def Tbl.getD {α : Type} (t : Tbl α) (k : Nat) (dflt : α) : α :=
  match t with
  | [] => dflt
  | (j, x) :: t => if j = k then x else Tbl.getD t k dflt

/-- The record with number `k`, if it is listed. -/
def Tbl.get? {α : Type} (t : Tbl α) (k : Nat) : Option α :=
  match t with
  | [] => none
  | (j, x) :: t => if j = k then some x else Tbl.get? t k

/-- The table with record `x` at number `k`. -/
def Tbl.put {α : Type} (t : Tbl α) (k : Nat) (x : α) : Tbl α :=
  match t with
  | [] => [(k, x)]
  | (j, y) :: t => if j = k then (k, x) :: t else if k < j then (k, x) :: (j, y) :: t else (j, y) :: Tbl.put t k x

/-- The table without number `k`. -/
def Tbl.erase {α : Type} (t : Tbl α) (k : Nat) : Tbl α := t.filter (fun e => e.1 != k)

/-- Numbers rise strictly. -/
def Tbl.sorted {α : Type} : Tbl α → Bool
  | [] => true
  | [_] => true
  | (j, _) :: (k, y) :: t => decide (j < k) && Tbl.sorted ((k, y) :: t)

end Sys2Proof.Machine
end

