-- ==== Sys2Proof/Machine/State.lean ====
section
/-!
DEFINITION. Sys2Proof/Machine/State.lean: everything the manual gives the pod, as plain data.

Numbers name the parts: core `c` of die `d` of module `m` is core number `m·4096 + d·256 + c` (cores 0–127 are lookup
cores, 128 the DCC, 129 the supervisor core, as in R19), its thread `t` is thread number `8·core + t`, die `d` of module
`m` is die number `m·16 + d`, and its quad `q` (32 the DCC, 33 the supervisor core, R138) is quad number `64·die + q`.
A part that a table does not list is as reset leaves it.
-/
namespace Sys2Proof.Machine

/-! ## Threads -/

/-- A short vector register: 256 bits and a tag (R108). -/
structure VReg where
  bits : BitVec 256 := 0
  tag : Tag := .none
  deriving DecidableEq, Repr

/-- A long vector register: 2048 bits and a tag (R108). -/
structure LReg where
  bits : BitVec 2048 := 0
  tag : Tag := .none
  deriving DecidableEq, Repr

/-- The registers that instructions name (R30), for lookahead (R35) and for the slots of a bundle (R41). -/
inductive RegName where
  | g (r : Fin 32) | p (r : Fin 8) | v (r : Fin 32) | m (r : Fin 8)
  /-- A register of the loop state, by its place among LCCNT0 to LPIPE (R71, R79). -/
  | loop (r : Fin 7)
  deriving DecidableEq, Repr

/-- An open lookahead window (R34): how many instructions it still covers, and the registers of the long-latency
instruction that opened it. -/
structure LookWindow where
  left : Nat
  reads : List RegName
  writes : List RegName
  deriving DecidableEq, Repr

/-- A register that a long-latency instruction has yet to write (R36). -/
structure Outstanding where
  id : Nat
  writes : List RegName
  /-- The instruction has ended in a fault that leaves its registers (R37); a packet that is sent again may still write them (R276,
  R277). -/
  ended : Bool := false
  deriving DecidableEq, Repr

/-- A trap (R329, R330).  `next` says that `TEPC` is to hold the following instruction, as for `TRAP`. -/
structure TrapInfo where
  cause : Cause
  sub : Nat := 0
  origin : Nat := 0
  unit : Nat := 0
  addr : Word := 0
  next : Bool := false
  deriving DecidableEq, Repr

/-- What a thread waits for in an instruction that waits (R58), with the operands that the instruction captured. -/
inductive Wait where
  /-- Trap entry, until every long-latency instruction has reached an end (R37). -/
  | trap (t : TrapInfo)
  | counter (n : Fin 16) (target : Nat)
  | writePointer (n : Fin 4) (target : Nat)
  | publish (scope : Nat) (slot : Nat)
  | tblset (slot : Nat) (image : BitVec 512) (part : Option Nat)
  | rows (most : Nat)
  /-- `RECVRED`: its register, partial sum, messages summed and to sum, format and elements (R242), and what the register
  held when it issued (R41). -/
  | recvred (d : GReg) (addr : Nat) (k m : Nat) (t : Tag) (e : Nat) (old : Word)
  | fence (scope : Nat)
  /-- A barrier instruction: the object's operand, whether it has yet to arrive, whether it then waits for the phase, and
  the phase in which it found its member arrived already (R260). -/
  | barrier (ga : Word) (arrive : Bool) (await : Bool) (phase : Option Nat := none)
  | recv (d : GReg) (addr : Nat)
  /-- `EXIT` (R296); once its successor list has been read, with the entries that are present. -/
  | exit (succ : Option Nat) (read : Option (List Word) := none)
  | detach
  | hseed (t : Nat) (stop : Nat) (arm : Bool)
  | done (t : Nat) (keep : BitVec 32)
  /-- `TAKE` (R310); `steal` holds the die that a steal asks and the taker's local maximum (R312). -/
  | take (nowait local_ : Bool) (floor : BitVec 32) (d : GReg) (steal : Option (Nat × Nat))
  | entries (most : Nat)
  | context (op : Nat) (block : Nat)
  | sleep (deadline : Word) (orMessage : Bool)
  | tlbinv (gen : Nat)
  | qpop (d : GReg) (n : Nat) (addr : Nat)
  deriving DecidableEq, Repr

/-- Whether a thread exists and issues. -/
inductive ThreadStatus where
  | absent | running | waiting | stopped | ended
  deriving DecidableEq, Repr

/-- A local store that has left its thread and has yet to enter the pool (R249): pool offset, bytes, value. -/
structure PendingStore where
  off : Nat
  n : Nat
  val : Nat
  /-- When it was issued, in the machine's steps. -/
  born : Nat := 0
  deriving DecidableEq, Repr

/-- One hardware thread. -/
structure Thread where
  status : ThreadStatus := .absent
  pc : Word := 0
  g : Vector Word 32 := Vector.replicate 32 0
  p : Vector Bool 8 := Vector.replicate 8 false
  v : Vector VReg 32 := Vector.replicate 32 {}
  w : Vector LReg 16 := Vector.replicate 16 {}
  m : Vector (BitVec 256) 8 := Vector.replicate 8 0
  /-- `TSTATUS`: VM, HND and MODE (R326). -/
  long : Bool := false
  hnd : Bool := false
  sup : Bool := false
  tsaved : Word := 0
  tepc : Word := 0
  tcause : Word := 0
  taddr : Word := 0
  tvec : Word := 0
  tscratch : Word := 0
  tchain : Word := 0
  /-- The origin thread of the trap message that the thread received last (R334, R335). -/
  origin : Option Nat := none
  fflags : BitVec 6 := 0
  accr : Word := 0
  lccnt : Vector Word 2 := Vector.replicate 2 0
  lcbeg : Vector Word 2 := Vector.replicate 2 0
  lcend : Vector Word 2 := Vector.replicate 2 0
  lpipe : BitVec 6 := 0
  /-- The Declension table, 16 entries of 128 bits (R100). -/
  decl : Vector (BitVec 128) 16 := Vector.replicate 16 0
  /-- The Syllable patterns, 16 images of 64 bytes (R103). -/
  syl : Vector (BitVec 512) 16 := Vector.replicate 16 0
  /-- FB, the fence mask (R196). -/
  fb : BitVec 64 := 0
  /-- LASTB: the object and its phase (R260). -/
  lastb : Option (Nat × Nat) := none
  /-- Each `BARRW` that has recorded its arrival and waits, or will when a trap's handler has returned to it: the object and
  the pc (R264). -/
  barrw : List (Nat × Word) := []
  /-- HELD: the task taken (R308). -/
  held : Option Nat := none
  /-- MSTAT and MFPC of the matrix class (R224): FROW, FOP, DISC, OOB. -/
  frow : BitVec 8 := 0
  fop : BitVec 8 := 0
  disc : BitVec 8 := 0
  oob : Bool := false
  mfpc : Word := 0
  /-- The stage of the thread (R293). -/
  stage : Nat := 0
  /-- TDET: the thread has executed `DETACH` (R297). -/
  tdet : Bool := false
  windows : List LookWindow := []
  outstanding : List Outstanding := []
  stores : List PendingStore := []
  /-- Registers whose register-file word is uncorrectable, and those whose word holds a single-bit error (R137). -/
  badRegs : List RegName := []
  flipRegs : List RegName := []
  /-- Asynchronous causes not yet taken (R331), in the order in which they were found. -/
  pending : List TrapInfo := []
  wait : Option Wait := none
  /-- The wait of the instruction at `pc` is over; a DCC bundle that waited issues again with this mark. -/
  granted : Bool := false
  /-- When the wait began, in the machine's running order. -/
  waitSince : Nat := 0
  /-- The cycle at which the wait began, for the watchdog (R336). -/
  waitCycle : Nat := 0
  /-- The words of the instruction that waits. -/
  waitWords : Nat := 1
  /-- The lookahead window that it opens when it completes. -/
  waitLook : List LookWindow := []
  deriving DecidableEq, Repr

/-! ## Requests -/

/-- The operations of `AMO` and `CAS` (R47). -/
inductive AmoOp where
  | add | and | or | xor | min | max | minz | maxz | swap | cas
  deriving DecidableEq, Repr

/-- A translated DRAM address, as a request carries it: module, physical address, and the PIN of its leaf (R147, R152). -/
structure DramAt where
  m : Nat
  pa : Nat
  pin : Bool := false
  deriving DecidableEq, Repr

/-- What a request asks for. -/
inductive ReqBody where
  /-- `RGET`, `WLD` (R275). -/
  | read (n : Nat) (sx : Bool) (d : GReg)
  /-- `RSTO`, `WST`. -/
  | write (n : Nat) (data : Nat)
  /-- `AMO`, `CAS` (R231): the operation, the width, operand and compare value, result register; the translated address of
  the DRAM form. -/
  | amo (op : AmoOp) (n : Nat) (operand compare : Nat) (d : GReg) (mem : Option DramAt)
  /-- `ACC` (R238): format (true for `F64`), value, the element's base address, and its address in the slot line. -/
  | acc (f64 : Bool) (val : Word) (base slot : DramAt)
  /-- `FOLD` (R239): format, the line and its slot lines in order. -/
  | fold (f64 : Bool) (line : DramAt) (slots : List DramAt)
  /-- A message (R268): the high word of the summary that the sender gives (TAG, KIND) and its payload. -/
  | message (tag : Nat) (kind : Nat) (payload : List Byte)
  /-- A remote counter bump (R155): the counter, and for channel traffic the channel, the entry's length, and whether it is a
  chain's entry. -/
  | bump (counter : Nat) (ch : Option (Nat × Nat × Bool))
  /-- `RESUME` (R277). -/
  | resume (stream : Nat) (action : Nat)
  /-- `GAIN` (R313). -/
  | gain (launch : Nat) (task : Nat) (delta : BitVec 32)
  deriving DecidableEq, Repr

/-- How far a request has come. -/
inductive ReqStatus where
  /-- In its injection queue or on its way. -/
  | waiting
  /-- Refused for retry (R273). -/
  | refused
  /-- Refused with a fault; its stream is frozen (R276). -/
  | faulted (t : TrapInfo)
  /-- Joined to this request in a switch (R233). -/
  | joined (id : Nat)
  /-- Performed; the value is on its way back. -/
  | replied (v : Nat)
  /-- Ended in a fault that the requester has yet to learn (R232). -/
  | failed (t : TrapInfo)
  deriving DecidableEq, Repr

/-- A request, message or control packet of a thread or a unit. -/
structure Req where
  id : Nat
  /-- The issuing thread. -/
  tid : Nat
  /-- The issuing core. -/
  src : Nat
  stream : Option Nat := none
  /-- The address as the requester gave it. -/
  ea : Word := 0
  /-- The target core, for the core-space and window forms. -/
  dst : Option Nat := none
  /-- The target is a window member (R297). -/
  window : Bool := false
  /-- The partition of the requester; none for the firmware threads (R392). -/
  part : Option Nat := none
  /-- The requester was in supervisor mode (R147). -/
  sup : Bool := false
  /-- The translation generation (R151). -/
  gen : Nat := 0
  /-- Marked first after resumption (R276). -/
  first : Bool := false
  /-- Its head has left the core once (R267). -/
  left : Bool := false
  /-- It is on its way: a later packet of its stream has been seen at a target (R266, R276). -/
  underway : Bool := false
  /-- It is sent again after a refusal (R280). -/
  retry : Bool := false
  /-- Requests combined into this one in a switch, with their operands, in order of arrival (R233). -/
  joined : List (Nat × Nat) := []
  st : ReqStatus := .waiting
  body : ReqBody
  deriving DecidableEq, Repr

/-- A page-table walk (R144).  `level` is the level of the entry to be read next, `table` the frame of its table. -/
structure Walk where
  id : Nat
  quad : Nat
  module : Nat
  /-- The partition whose tables are read (R143). -/
  part : Option Nat := none
  asid : Nat
  va : Nat
  level : Nat
  table : Nat
  /-- The access that waits for it is a write, in supervisor mode, from another module, and what it needs of TOL and RED
  (R147). -/
  write : Bool := false
  sup : Bool := false
  peer : Bool := false
  tol : Bool := true
  red : Option Bool := none
  /-- Who asked: the thread, channel or unit that will take the walk's trap, and the core for which it did. -/
  req : Nat
  core : Nat := 0
  failed : Option Cause := none
  deriving DecidableEq, Repr

/-- 32 bytes of a row or of its lines, as the home has translated them (R192, R235): where they lie in the row's addresses,
their physical address, whether their page or that of one of their slots is tolerant, the page's PIN (R152), and where the
slots lie. -/
structure RowPiece where
  va : Nat
  pa : Nat
  tol : Bool
  stol : Bool := false
  pin : Bool := false
  slots : List DramAt
  deriving DecidableEq, Repr

/-- How far a row of a lookup operation has come. -/
inductive RowStatus where
  /-- Not yet at its home. -/
  | waiting
  /-- Joined to an identical request (R194). -/
  | merged (op : Nat) (row : Nat)
  /-- Translated and checked at its home (R192), in this module; what happens next is at the memory-side unit. -/
  | served (module : Nat) (ps : List RowPiece)
  /-- The row's bytes are on their way. -/
  | read (data : List Byte)
  | finished
  deriving DecidableEq, Repr

/-- One identifier of a lookup operation. -/
structure LookupRow where
  rid : Nat
  data : List Byte := []
  st : RowStatus := .waiting
  /-- The translation generation of its request (R151). -/
  gen : Nat := 0
  deriving DecidableEq, Repr

/-- The kinds of lookup operation (R190, R198, R199). -/
inductive LookupKind where
  | gather (fresh : Bool) (far : Option Word) (laddr : Nat) (pitch : Nat)
  | accumulate (slot : Nat) (data : Nat)
  | store (data : Nat)
  | segred (kind : Nat) (inv : Bool) (bags : Nat) (out : Nat) (rows : Nat) (pitch : Nat) (map : Nat) (offs : Nat)
  | segscat (kind : Nat) (inv : Bool) (bags : Nat) (outRows : Nat) (out : Nat) (grads : Nat) (map : Nat) (offs : Nat)
  deriving DecidableEq, Repr

/-- A lookup operation in its unit (R200). -/
structure LookupOp where
  id : Nat
  tid : Nat
  core : Nat
  sup : Bool := false
  kind : LookupKind
  desc : BitVec 512
  n : Nat := 0
  list : Nat := 0
  scope : Nat := 0
  lcc : Option Nat := none
  rcc : Option Nat := none
  ga : Word := 0
  started : Bool := false
  rows : List LookupRow := []
  deriving DecidableEq, Repr

/-- An operation of an Elision unit (R189). -/
structure Elision where
  id : Nat
  tid : Nat
  core : Nat
  merge : Bool
  n : Nat
  list : Nat
  out : Nat
  inv : Nat
  d : GReg
  deriving DecidableEq, Repr

/-! ## Cores -/

/-- The kinds of transfer entry, with their chain codes 1–7 (R156, R170, R175). -/
inductive EntryKind where
  | draw | stow | draws | stows | dzero | dcopy | counters
  deriving DecidableEq, Repr

/-- A transfer entry (R153): its kind, extension word and captured operands. -/
structure Entry where
  tid : Nat
  kind : EntryKind
  ext : BitVec 32
  opd : Word
  opa : Word
  opb : Word
  accr : Word := 0
  /-- The issuing thread was in supervisor mode (R147). -/
  sup : Bool := false
  chained : Bool := false
  started : Bool := false
  /-- Bytes delivered so far, and bytes after those that have been read from the source and wait to be delivered (R250). -/
  done : Nat := 0
  carry : List Byte := []
  /-- The cached lines of a row command's next piece have been invalidated a first time (R177, R370). -/
  cleared : Bool := false
  deriving DecidableEq, Repr

/-- A fault that has stopped a channel (R160). -/
structure ChFault where
  cause : Cause
  sub : Nat
  addr : Word
  /-- The fault is a refused remote bump (R162). -/
  bump : Bool := false
  deriving DecidableEq, Repr

/-- A transfer channel (R153–R173). -/
structure ChannelState where
  queue : List Entry := []
  /-- The place in the queue of the started entry whose bytes move next (R154). -/
  pick : Nat := 0
  fault : Option ChFault := none
  /-- The place in the queue of the entry that a fault concerns, and whether a target refused its packet, with the target's
  core (R161, R276). -/
  blame : Nat := 0
  refuser : Option (Option Nat) := none
  /-- The place of the entry whose packet its target has refused for retry, which blocks the channel's stream (R266, R273). -/
  blocked : Option Nat := none
  /-- A remote bump not yet accepted: its thread, counter and notify address, the entry's length, and whether it is a
  chain's entry (R162). -/
  held : Option (Nat × Nat × Word × Nat × Bool) := none
  /-- The next packet is marked first after resumption (R161). -/
  first : Bool := false
  chn : Bool := false
  running : Bool := false
  kreq : Bool := false
  cpos : Nat := 0
  /-- The chain entry to be followed after the one in progress. -/
  next : Nat := 0
  /-- The thread of the core that last executed `CHAIN` on the channel, after whose earlier stores the entries are read, and
  when it did, in the machine's steps (R249). -/
  linker : Nat := 0
  linkTick : Nat := 0
  /-- The thread that last executed `KICK` on the channel (R160). -/
  kicker : Nat := 0
  /-- That thread was in supervisor mode (R147). -/
  ksup : Bool := false
  /-- A stop for pre-emption has been requested (R179). -/
  stopping : Bool := false
  deriving DecidableEq, Repr

/-- What has become of a team on its core (R298, R299, R339). -/
inductive TeamStatus where
  | running
  /-- Stopped by `CTXSV`. -/
  | stopped
  /-- Halted by an exhausted chain or the halt tree (R335, R337). -/
  | halted
  /-- A window member whose threads have exited (R299). -/
  | held
  deriving DecidableEq, Repr

/-- The team resident on a core (R17). -/
structure Team where
  launch : Nat
  index : Nat
  threads : Nat
  part : Option Nat
  status : TeamStatus := .running
  /-- MDET: this member is detached (R297). -/
  mdet : Bool := false
  /-- Its gang was stopped whole, or it was loaded: it counts as stopped until its own START (R339, R367). -/
  latched : Bool := false
  deriving DecidableEq, Repr

/-- A row of the operand latch, or a column of a B buffer (R207). -/
structure LatchRow where
  data : BitVec 8704 := 0
  tag : Tag := .none
  deriving DecidableEq, Repr

/-- A B buffer: a tag, and 64 columns of records (R207, R212). -/
structure BBuffer where
  tag : Tag := .none
  cols : Tbl (BitVec 8704) := []
  deriving DecidableEq, Repr

/-- The entries of the matrix sequencer (R213). -/
inductive MatrixOp where
  | mma | mgath | mldb
  | macc (src : Nat)
  deriving DecidableEq, Repr

/-- An entry of the matrix sequencer: its template as captured, the tag of its B buffer when it issued, and the captured
Inflection program. -/
structure MatrixEntry where
  id : Nat
  tid : Nat
  bundle : Word
  /-- The number of the template, for the trace (R344). -/
  num : Nat
  op : MatrixOp
  template : BitVec 256
  btag : Tag := .none
  infl : Option (BitVec 256) := none
  /-- The captured program holds an uncorrectable word (R225). -/
  inflBad : Bool := false
  started : Bool := false
  complete : Bool := false
  flags : BitVec 6 := 0
  deriving DecidableEq, Repr

/-- A Conjunction object (R257); maps are as wide as the widest level. -/
structure Conj where
  phase : BitVec 16 := 0
  memb : BitVec 1024 := 0
  arrv : BitVec 1024 := 0
  expf : Bool := false
  poster : Nat := 0
  /-- The poster's team, by its launch and index (R261). -/
  posterTeam : Option (Nat × Nat) := none
  /-- The object operand of the latest `BEXP`, for `TADDR` (R261). -/
  posterGa : Word := 0
  bytes : Int := 0
  deriving DecidableEq, Repr

/-- Why a core was halted (R338). -/
structure HaltMark where
  cause : Nat
  part : Option Nat
  cycle : Nat
  time : Nat
  written : Bool := false
  deriving DecidableEq, Repr

/-- One core: a lookup core, the DCC or the supervisor core of a die. -/
structure Core where
  partw : Word := 0
  rtvec : Word := 0
  wdog : Word := 0
  trctl : Word := 0
  trbase : Word := 0
  trptr : Word := 0
  psel : Vector Word 8 := Vector.replicate 8 0
  pcnt : Vector Word 8 := Vector.replicate 8 0
  team : Option Team := none
  cc : Vector (BitVec 32) 16 := Vector.replicate 16 0
  wp : Vector Word 4 := Vector.replicate 4 0
  pub : Vector Word 4 := Vector.replicate 4 0
  chans : Vector ChannelState 4 := Vector.replicate 4 {}
  rqcfg : Word := 0
  rqptr : Word := 0
  /-- Streams frozen at this core as a source (R276). -/
  frozen : BitVec 16 := 0
  /-- Streams that this core refuses as a target until a packet marked first arrives: source core and stream (R276). -/
  refusing : List (Nat × Nat) := []
  /-- Messages sent and accepted, by the sender's stream (R338). -/
  sent : Vector (BitVec 32) 16 := Vector.replicate 16 0
  accepted : Vector (BitVec 32) 16 := Vector.replicate 16 0
  /-- WINST (R297): ACT, NMEMB, MEMBER and NGONE; MDET is the team's and TDET the thread's. -/
  winst : Word := 0
  /-- The Elision set, in order of entry (R188). -/
  elision : List (BitVec 32) := []
  lexicon : Vector (BitVec 256) 64 := Vector.replicate 64 0
  latch : Tbl LatchRow := []
  bbufs : Vector BBuffer 4 := Vector.replicate 4 {}
  infl : Vector (Option (BitVec 256)) 2 := Vector.replicate 2 none
  mqueue : List MatrixEntry := []
  /-- Uncorrectable words of the matrix state (R225): of the latch, by row and word; of the B buffers, by buffer, column and
  word; and of the Inflection buffers, by array. -/
  latchBad : List (Nat × Nat) := []
  bufBad : List (Nat × Nat × Nat) := []
  inflBad : List Nat := []
  /-- Pool words, by number, that hold a single-bit error, and words that are uncorrectable or poisoned (R137). -/
  flipped : List Nat := []
  poisoned : List Nat := []
  halt : Option HaltMark := none
  deriving DecidableEq, Repr

/-! ## Quads, dies and modules -/

/-- A line of a cluster cache (R138): its physical line number, whether it was filled under W = 1 and PIN = 1, which of its
bytes the quad has written since it was last written back, and which of its eight words hold a single-bit or an
uncorrectable error, or, in a clean line, a parity error (R139). -/
structure CacheLine where
  line : Nat
  data : BitVec 512
  w : Bool := false
  pin : Bool := false
  dirty : BitVec 64 := 0
  flip : BitVec 8 := 0
  bad : BitVec 8 := 0
  deriving DecidableEq, Repr

/-- A TLB entry (R149): ASID, virtual base, size as a power of two, and the leaf. -/
structure TlbEntry where
  asid : Nat
  base : Nat
  size : Nat
  pte : Word
  /-- The physical address of the leaf entry, or of the first of a group (R148). -/
  leaf : Nat
  deriving DecidableEq, Repr

/-- A walk-cache entry: ASID, the level of the entry it holds, the virtual base it covers, the frame it names (R149). -/
structure WalkEntry where
  asid : Nat
  level : Nat
  base : Nat
  frame : Nat
  deriving DecidableEq, Repr

/-- A line of an instruction cache (R54), by physical line number; `bad` marks a line filled with an uncorrectable DRAM
error, `parity` one that has taken a parity error since (R55). -/
structure FetchLine where
  line : Nat
  data : BitVec 512
  bad : Bool := false
  parity : Bool := false
  deriving DecidableEq, Repr

/-- A line that a quad has asked its fetch agent for (R55), as the fetch was translated: MS, W and PIN of its leaf (R138,
R152). -/
structure FetchAsk where
  line : Nat
  ms : Bool := false
  w : Bool := false
  pin : Bool := false
  deriving DecidableEq, Repr

/-- A hardware work queue (R281): its FIFO, the ring's descriptor, the ring's tail count and its records. -/
structure Fifo where
  recs : List (BitVec 256) := []
  ring : Word := 0
  tail : Nat := 0
  rcnt : Nat := 0
  deriving DecidableEq, Repr

/-- A quad, a DCC or a supervisor core with the caches and units it does not share (R138, R149). -/
structure Quad where
  cache : List CacheLine := []
  tlb : List TlbEntry := []
  walkCache : List WalkEntry := []
  icache : List FetchLine := []
  asks : List FetchAsk := []
  objs : Vector Conj 16 := Vector.replicate 16 {}
  fifos : Vector Fifo 8 := Vector.replicate 8 {}
  /-- The partition (R392). -/
  part : Option Nat := none
  /-- Launches that have claimed objects and stage FIFOs here (R288): object map, FIFO map, launch. -/
  claims : List (Nat × Nat × Nat) := []
  deriving DecidableEq, Repr

/-- Write ownership of one 64 KiB page (R140): for each quad its mask and the sub-pages it has written, and the
sub-pages that are memory-side. -/
structure Ownership where
  page : Nat
  owners : List (Nat × BitVec 16 × BitVec 16) := []
  memside : BitVec 16 := 0
  deriving DecidableEq, Repr

/-- A slot of the table directory (R185). -/
structure TableSlot where
  desc : BitVec 512
  owner : Option Nat
  deriving DecidableEq, Repr

/-- A host work queue's registers (R286), and whether it has stopped. -/
structure HostQueue where
  ctl : Word := 0
  base : Word := 0
  tail : BitVec 32 := 0
  head : BitVec 32 := 0
  stopped : Bool := false
  /-- The launch read from the queue's head, which waits there for its admission (R288). -/
  cur : Option Nat := none
  deriving DecidableEq, Repr

/-- A block in the successor queue (R287). -/
structure Successor where
  addr : Word
  part : Option Nat
  supq : Bool
  deriving DecidableEq, Repr

/-- One compute die. -/
structure Die where
  directory : Tbl TableSlot := []
  hchain : Word := 0
  hqsel : Word := 0
  asgsel : Word := 0
  haltsel : Word := 0
  queues : Tbl HostQueue := []
  successors : List Successor := []
  /-- As `cur`, for the successor queue. -/
  succCur : Option Nat := none
  /-- Launches admitted here whose teams have not all started, in the order of their admission (R288). -/
  admitted : List Nat := []
  objs : Vector Conj 16 := Vector.replicate 16 {}
  objPart : Vector (Option Nat) 16 := Vector.replicate 16 none
  /-- Die objects claimed by running launches: object map and launch (R291). -/
  claims : List (Nat × Nat) := []
  owners : List Ownership := []
  poolc : BitVec 32 := 0
  dramc : BitVec 32 := 0
  /-- A clock-stretch episode is in progress (R389); the cycles that it has lengthened, and how long it has lasted, in
  picoseconds (R344). -/
  droop : Bool := false
  stretched : Nat := 0
  episode : Nat := 0
  /-- Cycles by which the die lies behind its module's nominal clock, and picoseconds run towards its next cycle (R6, R389). -/
  late : Nat := 0
  slip : Nat := 0
  /-- The heap kernel that the die serves (R24). -/
  heap : Option Nat := none
  deriving DecidableEq, Repr

/-- The bring-up states (R384). -/
inductive BringUp where
  | reset | rom | train | ready | recovery | failed
  deriving DecidableEq, Repr

/-- A partition of a module: its translation root (R143), and whether its launches are held by a halt (R337). -/
structure Partition where
  ptroot : Word := 0
  halted : Bool := false
  /-- DRAM-form addresses that name another module's DRAM: first address, bytes, module (R147, R365; log 30). -/
  remote : List (Nat × Nat × Nat) := []
  deriving DecidableEq, Repr

/-- One module. -/
structure Module where
  state : BringUp := .reset
  /-- Power has been applied. -/
  powered : Bool := false
  clocks : Bool := false
  fwver : BitVec 32 := 0
  badacc : Bool := false
  throt : Bool := false
  hpart : BitVec 8 := 0
  pwrlim : BitVec 16 := 4800
  peakw : BitVec 16 := 0
  avgw : BitVec 16 := 0
  tmax : BitVec 8 := 0
  tthr : BitVec 8 := 95
  ttrip : BitVec 8 := 105
  tripped : Bool := false
  mbop : BitVec 8 := 0
  mbarg : Word := 0
  mbcode : BitVec 8 := 0
  mblen : BitVec 16 := 0
  /-- The operation and the argument of the command in progress (R386). -/
  mbrun : BitVec 8 := 0
  mbval : Word := 0
  /-- The mailbox buffer, 8 KiB (R386), the staging area, and the flash image. -/
  mbbuf : Memory := []
  staging : Memory := []
  flash : List Byte := []
  /-- The image that runs. -/
  image : List Byte := []
  flashing : Bool := false
  time : Nat := 0
  timeRun : Bool := false
  lock : Bool := false
  offs : BitVec 32 := 0
  start : Word := 0
  lastLock : Nat := 0
  /-- Lock has been held, and its loss has not been reported since (R388). -/
  lockHeld : Bool := false
  /-- Picoseconds run towards the counter's next nanosecond (R6). -/
  timePs : Nat := 0
  /-- Nanoseconds by which the counter has yet to be slewed, and nanoseconds run towards the next one (R388). -/
  slew : Int := 0
  slewAcc : Nat := 0
  /-- The PCIe link as trained: lanes, and the code of its rate, 1 for 2.5 GT/s up to 6 for 64 GT/s (R379). -/
  pcieWidth : Nat := 0
  pcieRate : Nat := 0
  haltbase : Word := 0
  gen : BitVec 16 := 0
  objs : Vector Conj 16 := Vector.replicate 16 {}
  objPart : Vector (Option Nat) 16 := Vector.replicate 16 none
  parts : Tbl Partition := []
  /-- Arrival counts of reduction-region lines, by line number (R195, R235). -/
  arrivals : Tbl Nat := []
  /-- Hot-page candidates of a pseudo-channel: frame, count, striped (R152). -/
  hot : Tbl (List (Nat × Nat)) := []
  pinnedHot : Tbl Nat := []
  /-- Frames of a pseudo-channel reached under PIN = 1 in the epoch, which are never candidates (R152). -/
  pinnedFrames : Tbl (List Nat) := []
  msix : Nat := 0
  /-- Uncorrectable or poisoned 8-byte words of DRAM, by physical word number (R139), and words that hold a single-bit error
  (R383). -/
  poisoned : List Nat := []
  flipped : List Nat := []
  /-- Pseudo-channels whose base-die buffer has taken a parity error (R244). -/
  badBuffers : List Nat := []
  /-- Cycles since module reset (CYCLE). -/
  cycles : Nat := 0
  deriving DecidableEq, Repr

/-! ## Links, launches and heaps -/

/-- A flit link (R279): the next sequence number to be sent and the next expected, replays in succession, and whether it has
been taken down. -/
structure Link where
  sent : Nat := 0
  expect : Nat := 0
  replays : Nat := 0
  asked : Bool := false
  down : Bool := false
  deriving DecidableEq, Repr

/-- What has become of one team of a launch. -/
inductive TeamFate where
  | pending | running
  | exited | halted | withdrawn
  /-- Held at its exit, departed (R299). -/
  | held | departed
  deriving DecidableEq, Repr

/-- A team of a launch: its core once placed, and its fate. -/
structure LaunchTeam where
  core : Option Nat := none
  fate : TeamFate := .pending
  /-- The team was preempted and saved (R339). -/
  saved : Bool := false
  /-- As a window member it has detached or departed (R298). -/
  gone : Bool := false
  deriving DecidableEq, Repr

/-- A launch (R285): its block, the partition and SUPQ it carries, its die, and its progress. -/
structure Launch where
  words : Vector Word 16
  die : Nat
  addr : Word
  part : Option Nat
  supq : Bool
  /-- The queue it came from; 256 is the successor queue. -/
  queue : Nat
  tRead : Nat
  /-- Modules whose dispatcher has the block (R288). -/
  heard : List Nat
  /-- The checks at admission have been passed. -/
  checked : Bool := false
  /-- Its place in the order of admission, once it has been admitted (R288). -/
  order : Option Nat := none
  /-- Teams that have started, ended, or wait, by index. -/
  teams : List LaunchTeam
  /-- The first fault: its cause and the team (R295). -/
  fault : Option (Nat × Nat) := none
  /-- A write of the heap's end failed (R318). -/
  wfault : Bool := false
  deriving DecidableEq, Repr

/-- The mode of a task (R308). -/
inductive TaskMode where
  | idle | queued | taken
  deriving DecidableEq, Repr

/-- A task of a heap kernel. -/
structure Task where
  r : BitVec 32 := 0
  pend : BitVec 32 := 0
  mode : TaskMode := .idle
  runs : BitVec 32 := 0
  deriving DecidableEq, Repr

/-- A heap kernel (R308), by the number of its launch. -/
structure Heap where
  module : Nat
  dies : BitVec 16
  n : Nat
  tol : BitVec 64
  slack : BitVec 32
  global : Bool
  table : Nat
  part : Option Nat
  tasks : Tbl Task := []
  res : BitVec 64 := 0
  taken : Nat := 0
  armed : Bool := false
  ended : Bool := false
  cause : Nat := 0
  final : BitVec 64 := 0
  /-- The module maximum and its die, as last delivered (R312). -/
  mhat : BitVec 32 := 0
  mdie : Nat := 0
  /-- The cycle of that sample. -/
  mcyc : Nat := 0
  deriving DecidableEq, Repr

/-- A team whose context `CTXSV` has saved (R339): what the die supervisor keeps of it beside the image in memory, so that
packets aimed at it are refused for retry and counted, and bumps reach its counters (R162, R273). -/
structure SavedTeam where
  /-- The core from which it was saved. -/
  home : Nat
  launch : Nat
  index : Nat
  part : Option Nat
  cc : Vector (BitVec 32) 16
  rqcfg : Word := 0
  /-- Causes that its threads are to take when they resume, by their index in the team (R261). -/
  pending : List (Nat × TrapInfo) := []
  /-- Packets that wait on frozen streams, in their order; `none` stands for the next staged message of the image. -/
  held : List (Option Req) := []
  /-- The marks of single-bit and of uncorrectable errors: of pool words, of the matrix state, and of the register files, by
  thread (R137, R225). -/
  flipped : List Nat := []
  poisoned : List Nat := []
  latchBad : List (Nat × Nat) := []
  bufBad : List (Nat × Nat × Nat) := []
  inflBad : List Nat := []
  badRegs : List (List RegName) := []
  flipRegs : List (List RegName) := []
  deriving DecidableEq, Repr

/-! ## The machine -/

/-- Which agent moves next. -/
inductive Choice where
  /-- The event at this place of the agenda. -/
  | event (k : Nat)
  /-- This thread issues. -/
  | issue (tid : Nat)
  /-- The oldest local store of this thread enters its pool (R249). -/
  | drain (tid : Nat)
  /-- Of a channel's started entries, the one at this place of its queue moves bytes next (R154). -/
  | entry (core ch k : Nat)
  /-- From now on local stores wait for a `drain` before they enter their pool, or no longer do. -/
  | hold (on : Bool)
  /-- From now on a transfer moves at most 64, 32, 16 or 8 bytes in one event, by `k` = 0 to 3 (R154). -/
  | grain (k : Nat)
  /-- From now on `len` addresses of a partition of a module from `base` on name the DRAM of module `home` (log 30). -/
  | home (module part base len home : Nat)
  deriving DecidableEq, Repr

/-- A translation that no TLB entry holds: who asks, through which quad's TLB, in which partition, for which address, and
whether for a write and in supervisor mode, whether it may be on a tolerant page, and what RED has to be, if it matters
(R147, R231, R238); `own` says that the address names the module's own DRAM in any case, as those of instructions do
(log 30). -/
structure Miss where
  req : Nat
  core : Nat
  part : Option Nat
  va : Nat
  write : Bool := false
  sup : Bool := false
  tol : Bool := true
  red : Option Bool := none
  own : Bool := false
  deriving DecidableEq, Repr

/-- A bundle of the DCC in evaluation (R41, R42): the slot at work, the thread as it stood before any slot wrote, the
registers written so far, and what the slots have asked for. -/
structure Bundle where
  slot : Nat
  old : Thread
  writes : List RegName := []
  trap : Option TrapInfo := none
  wait : Option (Nat × Wait) := none
  /-- A slot cannot issue yet; the translation that it lacks, if it is that. -/
  retry : Option (Option Miss) := none
  /-- That slot waits for a register of an earlier long-latency instruction (R36, R345). -/
  stall : Bool := false
  /-- Where control goes, and whether the turn check is made (R73). -/
  jump : Option (Word × Bool) := none
  /-- A slot's `EXIT` has ended its waits; the thread ends when the bundle commits. -/
  ends : Bool := false
  /-- Slot 0's branch, jump or return ends the loops that its target leaves, after the other slots (R41, R74). -/
  leaves : Bool := false
  looks : List LookWindow := []
  deriving DecidableEq, Repr

/-- The pod. -/
structure State where
  /-- Events that are due, oldest first, and inputs from outside (log 3). -/
  agenda : List Instr := []
  sched : List Choice := []
  holdStores : Bool := false
  /-- Bytes that a transfer moves at most in one event (R154; log 9). -/
  grain : Nat := 64
  cur : Nat := 0
  bundle : Option Bundle := none
  nextId : Nat := 0
  tick : Nat := 0
  /-- Picoseconds that a step and a core-clock cycle last, and those by which a droop lengthens a cycle (R6, R389; log 6). -/
  dt : Nat := 500
  stretch : Nat := 125
  /-- Counter of the free values handed out (log 5). -/
  free : Nat := 0
  mem : Memory := []
  threads : Tbl Thread := []
  cores : Tbl Core := []
  quads : Tbl Quad := []
  dies : Tbl Die := []
  modules : Tbl Module := []
  links : Tbl Link := []
  launches : Tbl Launch := []
  heaps : Tbl Heap := []
  /-- Pod Conjunction objects of a partition: key 16 × partition + object (R257). -/
  podObjs : Tbl Conj := []
  reqs : List Req := []
  lookups : List LookupOp := []
  elisions : List Elision := []
  walks : List Walk := []
  saved : List SavedTeam := []
  /-- What host reads of the BARs have returned, oldest first (R380). -/
  toHost : List (List Byte) := []
  deriving DecidableEq, Repr

/-- Why a run ends other than by a next state.  The manual gives every encoding and value a fate (R4), so only one reason
is left. -/
inductive Fault where
  /-- An instruction word is to be executed and the thread that `cur` names does not issue.  Raised by every meaning of an
  instruction word; safe: `step` never asks for it. -/
  | noThread
  deriving DecidableEq, Repr

/-- An instruction to which the model gives no meaning. -/
inductive Refusal where
  /-- Not modelled yet; raised by the arms of `exec` that name their mnemonic.  Safe: the machine stops. -/
  | notModelled (mnemonic : String)
  deriving DecidableEq, Repr

/-- The pod right after reset: no team is resident, no partition assigned, every module in bring-up state `RESET`
(R384). -/
def State.reset : State := {}

end Sys2Proof.Machine
end

