-- ==== Sys2Proof/Machine/Ops.lean ====
section
/-!
DEFINITION. Sys2Proof/Machine/Ops.lean: the named operations over the machine's registers, pools and parts, and taking a
trap.
-/
namespace Sys2Proof.Machine

/-! ## Numbers of the parts -/

/-- What a core is (R13). -/
inductive CoreKind where
  | lookup | dcc | super
  deriving DecidableEq, Repr

def coreOfThread (tid : Nat) : Nat := tid / 8
def threadIndex (tid : Nat) : Nat := tid % 8
def dieOfCore (c : Nat) : Nat := c / 256
def moduleOfCore (c : Nat) : Nat := c / 4096
def coreIndex (c : Nat) : Nat := c % 256
def moduleOfDie (d : Nat) : Nat := d / 16
def dieIndex (d : Nat) : Nat := d % 16
def dieOfQuad (q : Nat) : Nat := q / 64
def moduleOfQuad (q : Nat) : Nat := q / 1024

/-- The core's kind, by its number on its die (R19). -/
def kindOfCore (c : Nat) : CoreKind :=
  if coreIndex c < 128 then .lookup else if coreIndex c = 128 then .dcc else .super

/-- The quad of a core; the DCC and the supervisor core count as one each (R138), and what is no core at all, the ingress
translator, as the last. -/
def quadOfCore (c : Nat) : Nat :=
  dieOfCore c * 64 + (if coreIndex c < 128 then coreIndex c / 4 else Nat.min (coreIndex c - 96) 34)

/-- The number that stands for a module's ingress translator where a core is asked for (R147). -/
def ingressCore (m : Nat) : Nat := 4096 * m + 130

/-- The cores of a quad. -/
def coresOfQuad (q : Nat) : List Nat :=
  if q % 64 < 32 then (List.range 4).map (fun i => q / 64 * 256 + 4 * (q % 64) + i)
  else [q / 64 * 256 + 96 + q % 64]

/-- The supervisor core of a die. -/
def superOfDie (d : Nat) : Nat := d * 256 + 129

/-- Threads that a core of this kind has (R17). -/
def threadsOfKind : CoreKind → Nat
  | .lookup => 8 | .dcc => 2 | .super => 8

/-- P of R127. -/
def poolSize : CoreKind → Nat
  | .lookup => 2 ^ 20 | .dcc => 2 ^ 25 | .super => 2 ^ 21

/-- G of R127. -/
def granule (k : CoreKind) : Nat := poolSize k / 256

/-- A DRAM byte's number in the memory, from its module and its owned-view physical address. -/
def dramKey (module pa : Nat) : Nat := module * 2 ^ 52 + pa

/-- A pool byte's number in the memory. -/
def poolKey (core off : Nat) : Nat := 2 ^ 62 + core * 2 ^ 25 + off

/-- The owned-view address of a physical address (R21, R174): in the striped view (bit 41 set), bits [14:8] give the
pseudo-channel and cat(PA[36:15], PA[7:0]) the byte of the channel. -/
def ownedPa (pa : Nat) : Nat :=
  if pa / 2 ^ 41 % 2 = 1 then
    (pa / 2 ^ 37 % 16) * 2 ^ 37 + (pa / 2 ^ 8 % 128) * 2 ^ 30 + (pa / 2 ^ 15 % 2 ^ 22) * 2 ^ 8 + pa % 256
  else pa

/-- A physical address with a bit of [51:42] set names no memory (R174). -/
def memoryAt (pa : Nat) : Bool := decide (pa < 2 ^ 42)

/-- The module-wide pseudo-channel number of a physical address (R21). -/
def channelOfPa (pa : Nat) : Nat := ownedPa pa / 2 ^ 30 % 2 ^ 11

/-- The die whose stacks hold a physical address. -/
def dieOfPa (pa : Nat) : Nat := pa / 2 ^ 37 % 16

/-! ## Bits of words -/

/-- Bits [lo+n−1:lo] of a word. -/
def field (w : Word) (lo n : Nat) : Nat := w.toNat / 2 ^ lo % 2 ^ n

/-- The word with bits [lo+n−1:lo] replaced by the low bits of `v`. -/
def setField (w : Word) (lo n v : Nat) : Word :=
  Word.of (w.toNat - field w lo n * 2 ^ lo + v % 2 ^ n * 2 ^ lo)

/-- Bit `k` of a word. -/
def bit (w : Word) (k : Nat) : Bool := w.getLsbD k

/-- SignExt of R7: the low `n` bits of `x`, sign-extended to 64 bits. -/
def signExt (x n : Nat) : Word :=
  if x % 2 ^ n < 2 ^ (n - 1) then Word.of (x % 2 ^ n) else Word.of (2 ^ 64 - 2 ^ n + x % 2 ^ n)

/-- ZeroExt of R7. -/
def zeroExt (x n : Nat) : Word := Word.of (x % 2 ^ n)

/-- `n` bytes as a number, lowest first (R2). -/
def natOfBytes : List Byte → Nat
  | [] => 0
  | b :: t => b.toNat + 256 * natOfBytes t

/-- `n` bytes of a number, lowest first. -/
def bytesOf (n v : Nat) : List Byte := (List.range n).map (fun i => BitVec.ofNat 8 (v / 2 ^ (8 * i)))

/-- A multiple of `n`? -/
def aligned (x n : Nat) : Bool := x % n == 0

/-! ## The parts of the state -/

def State.thread (s : State) (tid : Nat) : Thread := s.threads.getD tid {}
def State.core (s : State) (c : Nat) : Core := s.cores.getD c {}
def State.quad (s : State) (q : Nat) : Quad := s.quads.getD q {}
def State.die (s : State) (d : Nat) : Die := s.dies.getD d {}
def State.module (s : State) (m : Nat) : Module := s.modules.getD m {}

def State.setThread (s : State) (tid : Nat) (t : Thread) : State := { s with threads := s.threads.put tid t }
def State.setCore (s : State) (c : Nat) (x : Core) : State := { s with cores := s.cores.put c x }
def State.setQuad (s : State) (q : Nat) (x : Quad) : State := { s with quads := s.quads.put q x }
def State.setDie (s : State) (d : Nat) (x : Die) : State := { s with dies := s.dies.put d x }
def State.setModule (s : State) (m : Nat) (x : Module) : State := { s with modules := s.modules.put m x }

def State.modThread (s : State) (tid : Nat) (f : Thread → Thread) : State := s.setThread tid (f (s.thread tid))
def State.modCore (s : State) (c : Nat) (f : Core → Core) : State := s.setCore c (f (s.core c))
def State.modQuad (s : State) (q : Nat) (f : Quad → Quad) : State := s.setQuad q (f (s.quad q))
def State.modDie (s : State) (d : Nat) (f : Die → Die) : State := s.setDie d (f (s.die d))
def State.modModule (s : State) (m : Nat) (f : Module → Module) : State := s.setModule m (f (s.module m))

/-- The thread that issues. -/
def State.th (s : State) : Thread := s.thread s.cur
def State.setTh (s : State) (t : Thread) : State := s.setThread s.cur t
def State.modTh (s : State) (f : Thread → Thread) : State := s.modThread s.cur f

/-- The issuing core, its quad, die and module. -/
def State.myCore (s : State) : Nat := coreOfThread s.cur
def State.myQuad (s : State) : Nat := quadOfCore s.myCore
def State.myDie (s : State) : Nat := dieOfCore s.myCore
def State.myModule (s : State) : Nat := moduleOfCore s.myCore
def State.kind (s : State) : CoreKind := kindOfCore s.myCore
/-- P of the issuing core. -/
def State.poolP (s : State) : Nat := poolSize s.kind

/-- A new event at the end of the agenda. -/
def State.emit (s : State) (e : Instr) : State := { s with agenda := s.agenda ++ [e] }
def State.emits (s : State) (es : List Instr) : State := { s with agenda := s.agenda ++ es }

/-- A number that no earlier request has. -/
def State.fresh (s : State) : Nat × State := (s.nextId, { s with nextId := s.nextId + 1 })

/-! ## Registers -/

/-- Where operands are read: within a bundle every slot reads its registers before any slot writes (R41). -/
def State.src (s : State) : Thread :=
  match s.bundle with
  | some b => b.old
  | none => s.th

/-- A general register; `g0` reads as zero (R30). -/
def State.g (s : State) (r : GReg) : Word := if r = 0 then 0 else s.src.g[r.val]'r.isLt

/-- A predicate; `p0` reads as true (R30). -/
def State.p (s : State) (r : PReg) : Bool := if r = 0 then true else s.src.p[r.val]'r.isLt

/-- A write of a register overwrites its word of the register file, and the word's error goes (R137). -/
def Thread.renew (t : Thread) (n : RegName) : Thread :=
  { t with badRegs := t.badRegs.filter (fun x => x != n), flipRegs := t.flipRegs.filter (fun x => x != n) }
def Thread.renewAll (t : Thread) (l : List RegName) : Thread := l.foldl Thread.renew t

/-- A write of a general register; `g0` discards it. -/
def Thread.setG (t : Thread) (r : GReg) (x : Word) : Thread :=
  if r = 0 then t else { t.renew (.g r) with g := t.g.set r.val x r.isLt }

/-- A write of a predicate; `p0` discards it. -/
def Thread.setP (t : Thread) (r : PReg) (x : Bool) : Thread :=
  if r = 0 then t else { t.renew (.p r) with p := t.p.set r.val x r.isLt }

def State.setG (s : State) (r : GReg) (x : Word) : State := s.modTh (fun t => t.setG r x)
def State.setP (s : State) (r : PReg) (x : Bool) : State := s.modTh (fun t => t.setP r x)

/-- The physical register that a vector field names in short mode: `v16`–`v31` rotate (R77). -/
def physicalV (rrb : Nat) (f : VField) : Fin 32 :=
  if f.val < 16 then f else Fin.ofNat 32 (16 + (f.val - 16 + rrb) % 16)

/-- LPIPE's RRB and DRAIN (R71). -/
def Thread.rrb (t : Thread) : Nat := t.lpipe.toNat % 16
def Thread.drain (t : Thread) : Nat := t.lpipe.toNat / 16

/-- The bits and the tag of the vector register that a field names, in the thread's vector mode (R110). -/
def State.vec (s : State) (f : VField) : Nat × Tag :=
  if s.src.long then
    let r := s.src.w[f.val % 16]'(Nat.mod_lt _ (by decide))
    (r.bits.toNat, r.tag)
  else
    let r := s.src.v[(physicalV s.src.rrb f).val]'(physicalV s.src.rrb f).isLt
    (r.bits.toNat, r.tag)

/-- A vector register's bits and tag as they are.  Long registers stand outside the register file (R129). -/
def State.putVec (s : State) (f : VField) (x : Nat) (tag : Tag) : State :=
  s.modTh (fun t =>
    if s.src.long then
      { t with w := t.w.set (f.val % 16) ⟨BitVec.ofNat 2048 x, tag⟩ (Nat.mod_lt _ (by decide)) }
    else
      let k := physicalV s.src.rrb f
      { t.renew (.v k) with v := t.v.set k.val ⟨BitVec.ofNat 256 x, tag⟩ k.isLt })

/-- Bits [5:0] of every byte of a long vector register. -/
def f6Mask : Nat := (2 ^ 2048 - 1) / 255 * 63

/-- A write of the lanes of a vector register: bits [7:6] of an `F6` lane are written as zero (R81). -/
def State.setVec (s : State) (f : VField) (x : Nat) (tag : Tag) : State :=
  s.putVec f (if tag = .f6 then Nat.land x f6Mask else x) tag

/-- The width of a vector register in the thread's mode. -/
def State.vecBits (s : State) : Nat := if s.src.long then 2048 else 256

def State.mask (s : State) (k : MReg) : BitVec 256 := s.src.m[k.val]'k.isLt
def State.setMask (s : State) (k : MReg) (x : BitVec 256) : State :=
  s.modTh (fun t => { t with m := t.m.set k.val x k.isLt })

/-- ORs sticky flags into the thread's FFLAGS (R88). -/
def State.orFlags (s : State) (f : BitVec 6) : State := s.modTh (fun t => { t with fflags := t.fflags ||| f })

/-! ## The pool -/

/-- SPG, ACCG and RFG of a partition word (R129). -/
def spg (partw : Word) : Nat := field partw 0 9
def accg (partw : Word) : Nat := field partw 9 9
def rfg (partw : Word) : Nat := field partw 32 8

/-- The end of the scratchpad and of accumulator storage of a core (R129). -/
def State.scratchEnd (s : State) (c : Nat) : Nat := spg (s.core c).partw * granule (kindOfCore c)
def State.accEnd (s : State) (c : Nat) : Nat :=
  (spg (s.core c).partw + accg (s.core c).partw) * granule (kindOfCore c)
/-- The start of the register file (R129). -/
def State.regFileStart (s : State) (c : Nat) : Nat :=
  poolSize (kindOfCore c) - rfg (s.core c).partw * granule (kindOfCore c)

/-- A publish slot's fields (R166). -/
def pubEn (p : Word) : Bool := bit p 63
def pubSel (p : Word) : Bool := bit p 62
def pubAlt (p : Word) : Nat := field p 40 20
def pubLen (p : Word) : Nat := field p 20 20
def pubView (p : Word) : Nat := field p 0 20

/-- The offset lies in the slot's view. -/
def inView (p : Word) (off : Nat) : Bool := pubEn p && decide (pubView p ≤ off) && decide (off < pubView p + pubLen p)

/-- Where an access to an offset of the pool lands: inside the view of an enabled publish slot, in the front storage
(R167). -/
def frontOff (c : Core) (off : Nat) : Nat :=
  match c.pub.toList.find? (fun p => inView p off) with
  | some p => if pubSel p then pubAlt p + (off - pubView p) else off
  | none => off

/-- Where a byte written in published mode lands: in the back storage of the slot (R167). -/
def backOff (p : Word) (off : Nat) : Nat := if pubSel p then off else pubAlt p + (off - pubView p)

/-- One byte of a core's pool, as an access sees it. -/
def State.poolByte (s : State) (c off : Nat) : Byte := s.mem.read (poolKey c (frontOff (s.core c) off))

/-- `n` bytes of a core's pool. -/
def State.poolBytes (s : State) (c off n : Nat) : List Byte := (List.range n).map (fun i => s.poolByte c (off + i))

/-- `n` bytes of a core's pool as a number. -/
def State.poolNat (s : State) (c off n : Nat) : Nat := natOfBytes (s.poolBytes c off n)

/-- The words of the pool that `[off, off+n)` touches. -/
def wordsOf (off n : Nat) : List Nat :=
  if n = 0 then [] else (List.range ((off + n - 1) / 8 - off / 8 + 1)).map (fun i => off / 8 + i)

/-- The words that a write of `[off, off+n)` covers whole. -/
def wholeWords (off n : Nat) : List Nat :=
  (wordsOf off n).filter (fun w => decide (off ≤ 8 * w) && decide (8 * w + 8 ≤ off + n))

/-- Where a word of the pool lies, for an access that `f` sends to front or back storage; views begin and end between words
(R166). -/
def wordAt (f : Nat → Nat) (w : Nat) : Nat := f (8 * w) / 8

/-- An uncorrectable word lies in the range (R137). -/
def State.poolBad (s : State) (c off n : Nat) : Bool :=
  if (s.core c).poisoned.isEmpty then false
  else (wordsOf off n).any (fun w => (s.core c).poisoned.contains (wordAt (frontOff (s.core c)) w))

/-- A store of `n` bytes would have to read an uncorrectable word: it covers the word only in part (R137). -/
def State.poolBadStore (s : State) (c off n : Nat) : Bool :=
  if (s.core c).poisoned.isEmpty then false
  else (wordsOf off n).any (fun w =>
    (s.core c).poisoned.contains (wordAt (frontOff (s.core c)) w) && !(wholeWords off n).contains w)

/-- As `poolBadStore`, for a write that `f` sends to front or back storage. -/
def State.partBad (s : State) (c off n : Nat) (f : Nat → Nat) : Bool :=
  (wordsOf off n).any (fun w => (s.core c).poisoned.contains (wordAt f w) && !(wholeWords off n).contains w)

/-- `n` corrected single-bit errors in a die's pools and caches, whose count saturates (R137, R383). -/
def State.countPoolc (s : State) (d n : Nat) : State :=
  s.modDie d (fun k => { k with poolc := BitVec.ofNat 32 (min (k.poolc.toNat + n) (2 ^ 32 - 1)) })

/-- The single-bit errors among words of a core's array are corrected and counted (R137). -/
def State.correctWords (s : State) (c : Nat) (ws : List Nat) : State :=
  if (s.core c).flipped.isEmpty then s
  else
    let hit := ws.filter (fun w => (s.core c).flipped.contains w)
    if hit.isEmpty then s
    else (s.modCore c (fun k => { k with flipped := k.flipped.filter (fun w => !hit.contains w) })).countPoolc (dieOfCore c) hit.length

/-- Correction of the single-bit errors of a range (R137). -/
def State.poolCorrect (s : State) (c off n : Nat) : State :=
  s.correctWords c ((wordsOf off n).map (wordAt (frontOff (s.core c))))

/-- What a write of `[off, off+n)` does to the errors of its words, where `f` says they lie: a word that it overwrites whole
loses its error, and a single-bit error of the others is corrected by the read that a partial write makes (R137).  DESIGN
CHOICE: a write by an engine or a packet that covers an uncorrectable word only in part leaves it so and raises nothing (R137 names stores;
log 7). -/
def State.poolClean (s : State) (c off n : Nat) (f : Nat → Nat) : State :=
  if (s.core c).poisoned.isEmpty && (s.core c).flipped.isEmpty then s
  else
    let whole := (wholeWords off n).map (wordAt f)
    (s.modCore c (fun k => { k with poisoned := k.poisoned.filter (fun w => !whole.contains w)
                                    flipped := k.flipped.filter (fun w => !whole.contains w) })).correctWords c
      ((wordsOf off n).map (wordAt f))

/-- Bytes into a core's pool, where `f` sends them. -/
def State.setPoolAt (s : State) (c off : Nat) (bs : List Byte) (f : Nat → Nat) : State :=
  let mem := (bs.zipIdx).foldl (fun m (b, i) => m.write (poolKey c (f (off + i))) b) s.mem
  { s with mem := mem }.poolClean c off bs.length f

/-- Bytes into a core's pool, through the front of its views (R167). -/
def State.setPoolBytes (s : State) (c off : Nat) (bs : List Byte) : State := s.setPoolAt c off bs (frontOff (s.core c))

/-- The low `n` bytes of a number into a core's pool. -/
def State.setPoolNat (s : State) (c off n v : Nat) : State := s.setPoolBytes c off (bytesOf n v)

/-- R130 for the issuing core: the access lies below (SPG+ACCG)·G, then it is aligned. -/
def State.checkLocal (s : State) (ea n align : Nat) : Option TrapInfo :=
  if s.accEnd s.myCore < ea + n ∧ 0 < n then some { cause := .localRange, addr := Word.of ea }
  else if aligned ea align then none
  else some { cause := .misalign, addr := Word.of ea }

/-- The oldest store of a thread enters its pool (R249). -/
def State.drainOne (s : State) (tid : Nat) : State :=
  match (s.thread tid).stores with
  | [] => s
  | st :: rest =>
    (s.modThread tid (fun t => { t with stores := rest })).setPoolNat (coreOfThread tid) st.off st.n st.val

/-- Every store of a list enters the pool of core `c`, oldest first. -/
def State.drainList (s : State) (c : Nat) : List PendingStore → State
  | [] => s
  | st :: rest => (s.setPoolNat c st.off st.n st.val).drainList c rest

/-- The stores of a list up to its last one that a test selects, and the rest. -/
def splitAtLast (f : PendingStore → Bool) : List PendingStore → List PendingStore × List PendingStore
  | [] => ([], [])
  | st :: l =>
    match splitAtLast f l with
    | ([], r) => if f st then ([st], r) else ([], st :: l)
    | (p, r) => (st :: p, r)

/-- The thread's stores enter its pool, in order, up to the last one that a test selects (R249). -/
def State.drainThrough (s : State) (tid : Nat) (f : PendingStore → Bool) : State :=
  let (p, r) := splitAtLast f (s.thread tid).stores
  if p.isEmpty then s else (s.drainList (coreOfThread tid) p).modThread tid (fun t => { t with stores := r })

/-- The store covers a byte of `[off, off+n)`. -/
def PendingStore.meets (st : PendingStore) (off n : Nat) : Bool := decide (st.off < off + n) && decide (off < st.off + st.n)

/-- Every earlier store of the thread enters its pool (R249). -/
def State.drainAll (s : State) (tid : Nat) : State :=
  if (s.thread tid).stores.isEmpty then s
  else (s.drainList (coreOfThread tid) (s.thread tid).stores).modThread tid (fun t => { t with stores := [] })

/-- A local store of the issuing thread (R249). -/
def State.storeLocal (s : State) (off n v : Nat) : State :=
  if s.holdStores then s.modTh (fun t => { t with stores := t.stores ++ [⟨off, n, v % 2 ^ (8 * n), s.tick⟩] })
  else (s.drainAll s.cur).setPoolNat s.myCore off n v

/-- A pending store laid over bytes that begin at `off`. -/
def PendingStore.over (st : PendingStore) (off : Nat) (bs : List Byte) : List Byte :=
  bs.zipIdx.map (fun (b, i) =>
    if st.off ≤ off + i ∧ off + i < st.off + st.n then BitVec.ofNat 8 (st.val / 2 ^ (8 * (off + i - st.off))) else b)

/-- Bytes of the pool as a unit reads them on a thread's behalf: after the thread's earlier stores, which need not have
entered the pool for it (R249). -/
def State.ownBytes (s : State) (tid off n : Nat) : List Byte :=
  (s.thread tid).stores.foldl (fun bs st => st.over off bs) (s.poolBytes (coreOfThread tid) off n)

def State.ownNat (s : State) (tid off n : Nat) : Nat := natOfBytes (s.ownBytes tid off n)

/-- A unit that reads for a thread meets an uncorrectable word, of which the thread's pending stores do not hold every byte
that it reads (R137). -/
def State.ownBad (s : State) (tid off n : Nat) : Bool :=
  let c := coreOfThread tid
  if (s.core c).poisoned.isEmpty then false
  else (List.range n).any (fun i =>
    (s.core c).poisoned.contains (wordAt (frontOff (s.core c)) ((off + i) / 8))
      && (s.thread tid).stores.all (fun st => !(decide (st.off ≤ off + i) && decide (off + i < st.off + st.n))))

/-- Bytes that a unit writes into the pool on a thread's behalf, or that the thread's own instruction lands there; pending
stores to the same bytes, which are older, enter the pool first (log 13). -/
def State.ownWrite (s : State) (tid off : Nat) (bs : List Byte) : State :=
  (s.drainThrough tid (fun st => st.meets off bs.length)).setPoolBytes (coreOfThread tid) off bs

/-- A write on a thread's behalf, of `n` bytes, covers only a part of an uncorrectable word that no pending store of the thread
overwrites whole (R137, R249). -/
def State.ownBadStore (s : State) (tid off n : Nat) : Bool :=
  let c := coreOfThread tid
  if (s.core c).poisoned.isEmpty then false
  else (wordsOf off n).any (fun w =>
    (s.core c).poisoned.contains (wordAt (frontOff (s.core c)) w) && !(wholeWords off n).contains w
      && (s.thread tid).stores.all (fun st => !(wholeWords st.off st.n).contains w))

/-- The latest pending store that overlaps `[off, off+n)`. -/
def latestOverlap (ss : List PendingStore) (off n : Nat) : Option PendingStore := (ss.reverse).find? (fun st => st.meets off n)

/-- A local load of the issuing thread: its own latest store where that covers the bytes, else the pool; a store that
covers them only in part enters the pool first (R249). -/
def State.loadLocal (s : State) (off n : Nat) : Nat × State :=
  match latestOverlap s.th.stores off n with
  | none => (s.poolNat s.myCore off n, s.poolCorrect s.myCore off n)
  | some st =>
    if st.off ≤ off ∧ off + n ≤ st.off + st.n then (st.val / 2 ^ (8 * (off - st.off)) % 2 ^ (8 * n), s)
    else
      let s := s.drainThrough s.cur (fun st => st.meets off n)
      (s.poolNat s.myCore off n, s.poolCorrect s.myCore off n)

/-! ## DRAM at its point of order -/

/-- One DRAM byte, by module and physical address. -/
def State.dramByte (s : State) (m pa : Nat) : Byte := s.mem.read (dramKey m (ownedPa pa))
def State.dramBytes (s : State) (m pa n : Nat) : List Byte := (List.range n).map (fun i => s.dramByte m (pa + i))
def State.dramNat (s : State) (m pa n : Nat) : Nat := natOfBytes (s.dramBytes m pa n)
def State.setDramBytes (s : State) (m pa : Nat) (bs : List Byte) : State :=
  { s with mem := (bs.zipIdx).foldl (fun mm (b, i) => mm.write (dramKey m (ownedPa (pa + i))) b) s.mem }
def State.setDramNat (s : State) (m pa n v : Nat) : State := s.setDramBytes m pa (bytesOf n v)

/-- Single-bit errors among words of DRAM are corrected, and counted by the die that holds them; the count saturates
(R383). -/
def State.dramCorrect (s : State) (m : Nat) (ws : List Nat) : State :=
  if (s.module m).flipped.isEmpty then s
  else
    let hit := ws.filter (fun w => (s.module m).flipped.contains w)
    let s := s.modModule m (fun k => { k with flipped := k.flipped.filter (fun w => !hit.contains w) })
    hit.foldl (fun s w => s.modDie (m * 16 + w / 2 ^ 34 % 16) (fun d => { d with
      dramc := BitVec.ofNat 32 (min (d.dramc.toNat + 1) (2 ^ 32 - 1)) })) s

/-- What a write of `n` bytes does to the errors of its words: those that it covers whole lose them (R139), and a
single-bit error of the others is corrected by the read that a partial write makes (R383). -/
def State.dramClean (s : State) (m pa n : Nat) : State :=
  if (s.module m).poisoned.isEmpty && (s.module m).flipped.isEmpty then s
  else
    let o := ownedPa pa
    let whole := fun w => decide (o ≤ 8 * w) && decide (8 * w + 8 ≤ o + n)
    (s.modModule m (fun k => { k with poisoned := k.poisoned.filter (fun w => !whole w)
                                      flipped := k.flipped.filter (fun w => !whole w) })).dramCorrect m (wordsOf o n)

/-- An uncorrectable or poisoned word lies in the range (R139). -/
def State.dramBad (s : State) (m pa n : Nat) : Bool :=
  if (s.module m).poisoned.isEmpty then false
  else (wordsOf (ownedPa pa) n).any (fun w => (s.module m).poisoned.contains w)

/-! ## Memory-side units -/

/-- A frame's candidate list with one access more; a unit follows at most 32 frames (R152). -/
def bumpHot (l : List (Nat × Nat)) (frame : Nat) : List (Nat × Nat) :=
  if l.any (fun e => e.1 == frame) then
    l.map (fun e => if e.1 = frame then (frame, Min.min (e.2 + 1) (2 ^ 32 - 1)) else e)
  else if l.length < 32 then l ++ [(frame, 1)]
  else l

/-- A frame of a pseudo-channel that is reached under PIN = 1 leaves the candidates of the epoch (R152). -/
def Module.pinFrame (k : Module) (ch frame : Nat) : Module :=
  let seen := k.pinnedFrames.getD ch []
  if seen.contains frame then k
  else { k with pinnedFrames := k.pinnedFrames.put ch (seen ++ [frame])
                hot := k.hot.put ch ((k.hot.getD ch []).filter (fun e => e.1 != frame)) }

/-- A DRAM access is counted by its pseudo-channel's unit (R152). -/
def State.touch (s : State) (m pa : Nat) (pin : Bool) : State :=
  let ch := channelOfPa pa
  let frame := pa / 2 ^ 16
  s.modModule m (fun k =>
    if pin then
      { k.pinFrame ch frame with pinnedHot := k.pinnedHot.put ch (Min.min (k.pinnedHot.getD ch 0 + 1) (2 ^ 64 - 1)) }
    else if (k.pinnedFrames.getD ch []).contains frame then k
    else { k with hot := k.hot.put ch (bumpHot (k.hot.getD ch []) frame) })

/-- Bytes written at a memory-side unit. -/
def State.unitWrite (s : State) (m pa : Nat) (bs : List Byte) : State := (s.setDramBytes m pa bs).dramClean m pa bs.length

/-! ## Time, counters and traces -/

/-- The module's TAI nanosecond counter; zero until it is started (R22, R388). -/
def State.timens (s : State) (m : Nat) : Nat := if (s.module m).timeRun then (s.module m).time % 2 ^ 64 else 0

/-- The cycles of a core since its module's reset: those of the nominal clock, less those that droops have held back (R6,
R324, R389). -/
def State.cycleOf (s : State) (c : Nat) : Nat := (s.module (moduleOfCore c)).cycles - (s.die (dieOfCore c)).late

/-- A performance counter counts event `ev` of thread `t` (R345): it is enabled, selects the event, and, for the events
that are counted by thread, its THR names the thread. -/
def counts (sel : Word) (ev : Nat) (t : Option Nat) : Bool :=
  bit sel 31 && field sel 0 8 == ev &&
    (match t with
     | some t => bit sel (8 + t)
     | none => true)

/-- Adds `n` to every performance counter of the core that counts the event (R345). -/
def State.count (s : State) (c ev : Nat) (t : Option Nat) (n : Nat) : State :=
  if (s.core c).psel.toList.any (fun sel => counts sel ev t) then
    s.modCore c (fun k => { k with
      pcnt := Vector.ofFn (fun i => if counts k.psel[i] ev t then k.pcnt[i] + Word.of n else k.pcnt[i]) })
  else s

/-- The place of a core as halt and trace records write it: module [19:12], die [11:8], core [7:0] (R338). -/
def coreWord (c : Nat) : Nat := moduleOfCore c * 2 ^ 12 + (dieOfCore c % 16) * 2 ^ 8 + coreIndex c

/-- A trace record (R343, R344), if its class is enabled: 32 bytes at `TRBASE` + 32·(TRPTR mod ring size); with WRAP = 0 a
full ring drops it and sets FULL. -/
def State.trace (s : State) (c cls code thread unit : Nat) (a b : Word) : State :=
  let k := s.core c
  if bit k.trctl 63 && bit k.trctl (8 + cls) then
    let size := 2 ^ (field k.trctl 0 4 + 7)
    if !bit k.trctl 62 && decide (size ≤ k.trptr.toNat) then
      s.modCore c (fun k => { k with trctl := setField k.trctl 61 1 1 })
    else
      let m := moduleOfCore c
      let rec_ := bytesOf 8 (s.timens m) ++ bytesOf 2 code ++ bytesOf 1 thread ++ bytesOf 1 unit
        ++ bytesOf 4 (coreWord c) ++ bytesOf 8 a.toNat ++ bytesOf 8 b.toNat
      let pa := k.trbase.toNat + 32 * (k.trptr.toNat % size)
      ((s.touch m pa false).unitWrite m pa rec_).modCore c (fun k => { k with trptr := k.trptr + 1 })
  else s

/-! ## Partitions and teams -/

/-- The partition of a core: that of its quad, or its own assignment (R392). -/
def State.partOfCore (s : State) (c : Nat) : Option Nat := (s.quad (quadOfCore c)).part

/-- The partition on whose behalf a thread acts: its team's; a thread without a team is a firmware thread and acts for
none (R392). -/
def State.partOfThread (s : State) (tid : Nat) : Option Nat :=
  match (s.core (coreOfThread tid)).team with
  | some t => t.part
  | none => none

/-- The key under which a module keeps a partition; firmware's translation has a key of its own (log 22). -/
def partKey (p : Option Nat) : Nat := p.getD 256

def State.partition (s : State) (m : Nat) (p : Option Nat) : Partition := (s.module m).parts.getD (partKey p) {}
def State.setPartition (s : State) (m : Nat) (p : Option Nat) (x : Partition) : State :=
  s.modModule m (fun k => { k with parts := k.parts.put (partKey p) x })

/-- The ASID and the root table of a partition (R143). -/
def Partition.asid (p : Partition) : Nat := field p.ptroot 0 12
def Partition.root (p : Partition) : Nat := field p.ptroot 12 40

/-! ## Taking a trap -/

/-- The walks of a requester are given up or have been answered. -/
def State.dropWalks (s : State) (req : Nat) : State := { s with walks := s.walks.filter (fun w => w.req != req) }

/-- Requesters' numbers: a thread's accesses, its fetch, a channel, a lookup operation. -/
def reqThread (tid : Nat) : Nat := 4 * tid
def reqFetch (tid : Nat) : Nat := 4 * tid + 1
def reqChannel (core ch : Nat) : Nat := 4 * (4 * core + ch) + 2
def reqLookup (id : Nat) : Nat := 4 * id + 3


/-- The length of one issue: a bundle, or the words of an instruction. -/
def State.issueBytes (s : State) (words : Nat) : Nat := if s.kind = .dcc then 16 else 4 * words

/-- TSTATUS as R326 lays it out. -/
def Thread.tstatus (t : Thread) : Word :=
  Word.of (t.long.toNat * 4 + t.hnd.toNat * 2 + t.sup.toNat)

/-- TCAUSE as R327 lays it out. -/
def TrapInfo.tcause (t : TrapInfo) : Word :=
  Word.of (t.origin % 16 * 2 ^ 20 + t.unit % 16 * 2 ^ 16 + t.sub % 256 * 2 ^ 8 + t.cause.code)

/-- The place of a thread in a trap message and in a summary word: module [22:15], die [14:11], core [10:3],
thread [2:0] (R268, R334). -/
def threadWord (tid : Nat) : Nat :=
  moduleOfCore (tid / 8) * 2 ^ 15 + (dieOfCore (tid / 8) % 16) * 2 ^ 11 + coreIndex (tid / 8) * 2 ^ 3 + tid % 8

/-- A message of a unit or thread put on its way (R267); it is accepted or refused when it arrives. -/
def State.send (s : State) (r : Req) : State :=
  let (id, s) := s.fresh
  { s with reqs := s.reqs ++ [{ r with id := id }] }.emit (.messageArrival id)

/-- The core-space address of a core (R19). -/
def coreSpace (c off : Nat) : Word :=
  Word.of (2 ^ 63 + moduleOfCore c * 2 ^ 37 + (dieOfCore c % 16) * 2 ^ 33 + coreIndex c * 2 ^ 25 + off)

/-- The message that reports a hardware event to a die's supervisor core (R244, R268 KIND 1, core field 0xFF), on stream 0 of
the die's units (R280; log 20). -/
def State.hardwareRecord (s : State) (d : Nat) (bs : List Byte) : State :=
  s.send { id := 0, tid := (d * 256 + 255) * 8, src := d * 256 + 255, stream := some 0, ea := coreSpace (superOfDie d) 0,
           dst := some (superOfDie d), body := .message 0 1 bs }

/-- The first fault of a launch, for its completion record (R295): the cause that the handler chain halted a team for. -/
def State.noteFault (s : State) (tid cause : Nat) : State :=
  match (s.core (coreOfThread tid)).team with
  | none => s
  | some t =>
    match s.launches.get? t.launch with
    | none => s
    | some l =>
      if l.fault.isSome then s
      else { s with launches := s.launches.put t.launch { l with fault := some (cause, t.index) } }

/-- The mark of a halt on a core: the times are those at which its issue stopped, of a core that an earlier halt has stopped
that halt's, which is the model's choice (R338; log 27). -/
def State.haltMark (s : State) (c cause : Nat) (part : Option Nat) : HaltMark :=
  match (s.core c).halt with
  | some h => ⟨cause, part, h.cycle, h.time, false⟩
  | none => ⟨cause, part, s.cycleOf c, s.timens (moduleOfCore c), false⟩

/-- Stops every thread of a core for a halt: its team, if it has one, is halted, and the core's record is due, over that of an
earlier halt; a window member departs (R299, R337, R338). -/
def State.haltCore (s : State) (c cause : Nat) (part : Option Nat) : State :=
  let mark := s.haltMark c cause part
  let s := match (s.core c).team with
    | some t => s.emit (.windowDepart t.launch)
    | none => s
  let s := s.modCore c (fun k => { k with team := k.team.map (fun t => { t with status := .halted }), halt := some mark })
  (List.range 8).foldl (fun s i =>
    let t := s.thread (8 * c + i)
    if t.status = .running ∨ t.status = .waiting then s.setThread (8 * c + i) { t with status := .stopped } else s) s

/-- The exhausted chain halts the origin thread's quad, or its DCC or supervisor core alone, with cause 2 (R335). -/
def State.haltQuad (s : State) (origin : Nat) : State :=
  let q := quadOfCore (coreOfThread origin)
  let part := s.partOfCore (coreOfThread origin)
  let s := (coresOfQuad q).foldl (fun s c => s.haltCore c 2 part) s
  s.emit (.haltRecords (moduleOfQuad q) (partKey part) 2)

/-- An entry `k` (1–3) of a chain register: V, die, module (R334). -/
def chainEntry (chain : Word) (k : Nat) : Option Nat :=
  let e := field chain (16 * k) 16
  if e / 2 ^ 15 = 1 then some (superOfDie (e % 256 * 16 + e / 256 % 16)) else none

/-- The thread that a chain of trap messages began with: for a thread that handles one, the origin that it names
(R334, R335). -/
def Thread.originOf (t : Thread) (tid : Nat) : Nat := if bit t.tchain 2 then t.origin.getD tid else tid

/-- A trap that the thread cannot take goes to the handler chain as a trap message, and the thread stops (R334).  `epc` is
the address that `TEPC` would receive; of a trap in a handler the message holds the instruction's own.  An exhausted chain
halts the quad of the origin thread (R335). -/
def State.forward (s : State) (tid : Nat) (t : TrapInfo) (epc : Word) : State :=
  let th := s.thread tid
  let c := coreOfThread tid
  let d := dieOfCore c
  let handling := bit th.tchain 2
  let chain := if handling then th.tchain else (s.die d).hchain
  let next := if handling then field th.tchain 0 2 + 1 else if kindOfCore c = .super then 1 else 0
  let origin := th.originOf tid
  let s := s.setThread tid { th with status := .stopped, wait := none, granted := false, windows := [] }
  let s := (s.count c 13 (some (threadIndex tid)) 1).trace c 4 0x0400 (threadIndex tid) t.unit epc t.tcause
  let target := if 3 < next then none else if next = 0 then some (superOfDie d) else chainEntry chain next
  match target with
  | none => (s.noteFault origin t.cause.code).haltQuad origin
  | some sup =>
    let inner := th.hnd && bit th.tvec 0
    let body := bytesOf 8 (if inner then th.pc else epc).toNat ++ bytesOf 8 t.tcause.toNat ++ bytesOf 8 t.addr.toNat
      ++ (if inner then bytesOf 8 th.tepc.toNat ++ bytesOf 8 th.tcause.toNat ++ bytesOf 8 th.taddr.toNat
          else bytesOf 24 0)
      ++ bytesOf 4 (threadWord origin) ++ bytesOf 4 0
      ++ bytesOf 8 (setField (Word.of (chain.toNat / 2 ^ 16 * 2 ^ 16 + 4)) 0 2 next).toNat
    s.send { id := 0, tid := tid, src := c, stream := some 0, ea := coreSpace sup 0, dst := some sup,
             part := s.partOfThread tid, body := .message t.cause.code 2 body }

/-- Trap entry (R329, R330), once the wait of R37 is over: the saved pc, cause and address, the mode and the handler.
`words` are the words of the instruction at the pc.  DEDUCED: a `TRAP` that is the last instruction of a loop's body turns the
loop neither here nor at `RETT` (R73, R75; log 26). -/
def State.enterTrap (s : State) (tid : Nat) (t : TrapInfo) (words : Nat) : State :=
  let th := s.thread tid
  let len := if kindOfCore (coreOfThread tid) = .dcc then 16 else 4 * words
  let epc := if t.next then th.pc + Word.of len else th.pc
  if th.hnd || !bit th.tvec 0 then s.forward tid t epc
  else
    let s := ((s.dropWalks (reqThread tid)).dropWalks (reqFetch tid)).setThread tid { th with
      status := .running, wait := none, granted := false, windows := []
      tsaved := Word.of th.sup.toNat, tepc := epc, tcause := t.tcause, taddr := t.addr
      sup := true, hnd := true, pc := Word.of (field th.tvec 2 55 * 4) }
    (s.count (coreOfThread tid) 13 (some (threadIndex tid)) 1).trace (coreOfThread tid) 4 0x0400 (threadIndex tid) t.unit
      epc t.tcause

/-- Raises a trap of a thread: entry waits until every long-latency instruction has reached an end (R37). -/
def State.raise (s : State) (tid : Nat) (t : TrapInfo) (words : Nat) : State :=
  if (s.thread tid).outstanding.all (fun o => o.ended) then s.enterTrap tid t words
  else s.modThread tid (fun th => { th with status := .waiting, wait := some (.trap t), waitWords := words })

/-- An asynchronous cause becomes pending at a thread, to be taken at an instruction boundary (R331). -/
def State.pend (s : State) (tid : Nat) (t : TrapInfo) : State :=
  s.modThread tid (fun th => { th with pending := th.pending ++ [t] })

/-- The order in which pending causes are taken (R331). -/
def causeRank (t : TrapInfo) : Nat :=
  match t.origin with
  | 1 => t.unit % 4
  | 2 => 4
  | 3 => 5
  | 4 => 6 + t.unit % 16
  | 7 => 22
  | 5 => 23
  | _ => 24

/-- The pending cause that is taken first, and the rest. -/
def takeCause : List TrapInfo → Option (TrapInfo × List TrapInfo)
  | [] => none
  | t :: ts =>
    match takeCause ts with
    | none => some (t, [])
    | some (u, us) => if causeRank u < causeRank t then some (u, t :: us) else some (t, ts)

/-! ## Loops -/

/-- LCBEG's BEG address, PIPE and ACT, and LCEND's END address (R71). -/
def loopBeg (w : Word) : Word := Word.of (field w 2 55 * 4)
def loopAct (w : Word) : Bool := bit w 0
def loopPipe (w : Word) : Bool := bit w 1

/-- The stage predicates move on: `p7` := `p6`, `p6` := `p5`, `p5` := `p4`, and `p4` is new (R73). -/
def shiftStages (p : Vector Bool 8) (p4 : Bool) : Vector Bool 8 :=
  #v[p[0], p[1], p[2], p[3], p4, p[4], p[5], p[6]]

/-- One counter's part of the turn (R73); ITER < REM + ITER − DRAIN is DRAIN < REM: the thread, and the body address where the loop turns. -/
def turnOne (t : Thread) (n : Fin 2) (next : Word) : Thread × Option Word :=
  if loopAct t.lcbeg[n] && next == loopBeg t.lcend[n] then
    let iter := field t.lccnt[n] 32 32 + 1
    let rem := (t.lccnt[n] - 1).toNat % 4294967296
    let cnt := Word.of (iter % 4294967296 * 4294967296 + rem)
    let pipe := loopPipe t.lcbeg[n]
    let t1 := { t with
      lccnt := t.lccnt.set n.val cnt n.isLt
      lpipe := if pipe then BitVec.ofNat 6 (t.drain * 16 + (t.rrb + 15) % 16) else t.lpipe
      p := if pipe then shiftStages t.p (decide (t.drain < rem)) else t.p
      lcbeg := if rem = 0 then t.lcbeg.set n.val (setField t.lcbeg[n] 0 1 0) n.isLt else t.lcbeg }
    (t1, if rem = 0 then none else some (loopBeg t.lcbeg[n]))
  else (t, none)

/-- The turn check (R73): `lc0` first, and `lc1` only where `lc0` does not turn. -/
def turn (t : Thread) (next : Word) : Thread × Option Word :=
  match turnOne t 0 next with
  | (t, some b) => (t, some b)
  | (t, none) => turnOne t 1 next

/-- A taken branch, jump or return whose target lies outside an active counter's body clears its ACT (R74). -/
def leaveLoops (t : Thread) (target : Word) : Thread :=
  let clear := fun (w e : Word) =>
    if loopAct w && !(decide ((loopBeg w).toNat ≤ target.toNat) && decide (target.toNat < (loopBeg e).toNat))
    then setField w 0 1 0 else w
  { t with lcbeg := Vector.ofFn (fun i => clear t.lcbeg[i] t.lcend[i]) }

end Sys2Proof.Machine
end

