-- ==== Sys2Proof/Machine/Mmu.lean ====
section
/-!
DEFINITION. Sys2Proof/Machine/Mmu.lean: translation, memory-side access to DRAM, tolerant pages, cluster caches and write
ownership (R92, R93, R138–R152, R374, R393).
-/
namespace Sys2Proof.Machine

/-! ## Page-table entries (R145) -/

def pteV (e : Word) : Bool := bit e 0
def pteW (e : Word) : Bool := bit e 1
def pteX (e : Word) : Bool := bit e 2
def pteU (e : Word) : Bool := bit e 3
def pteMS (e : Word) : Bool := bit e 4
def pteD (e : Word) : Bool := bit e 6
def pteL (e : Word) : Bool := bit e 7
def pteCT (e : Word) : Bool := bit e 8
def ptePIN (e : Word) : Bool := bit e 9
def pteTOL (e : Word) : Bool := bit e 10
def pteRED (e : Word) : Bool := bit e 11
def pteFrame (e : Word) : Nat := field e 12 40

/-- A page whose instruction lines no cluster cache holds: memory-side and reduction pages, and tolerant ones, whose accesses
the memory-side unit converts (R93, R138, R230). -/
def pteUncached (e : Word) : Bool := pteMS e || pteRED e || pteTOL e

/-- The entry ends the walk as a leaf at this level (R144). -/
def pteLeaf (e : Word) (level : Nat) : Bool := level == 1 || (pteL e && (level == 2 || level == 3))

/-- The first condition of R146 that stops a walk at an entry of this level. -/
def pteStop (e : Word) (level : Nat) : Option Cause :=
  if !pteV e then some .pageFault
  else if bit e 63 || field e 52 7 != 0 then some .pteReserved
  else if pteL e && decide (4 ≤ level) then some .pteReserved
  else if !pteLeaf e level then none
  else if level == 2 && field e 12 9 != 0 then some .pteReserved
  else if level == 3 && field e 12 18 != 0 then some .pteReserved
  else if decide (2 ≤ level) && pteCT e then some .pteReserved
  else if pteTOL e && pteRED e then some .pteReserved
  else none

/-- log2 of what an entry of a level covers (R144). -/
def levelShift (level : Nat) : Nat := 12 + 9 * (level - 1)

/-- The byte offset, in its table, of the entry that an address selects at a level. -/
def levelIndex (va level : Nat) : Nat := 8 * (va / 2 ^ levelShift level % 512)

/-! ## Memory-side units -/

/-- A read at a memory-side unit: it is counted (R152), and the single-bit errors among its words are corrected and counted
(R383). -/
def State.readAt (s : State) (m pa n : Nat) (pin : Bool) : State := (s.dramCorrect m (wordsOf (ownedPa pa) n)).touch m pa pin

/-- What an access at a memory-side unit meets: an error response where there is no memory (R174, R244), or an
uncorrectable word (R139). -/
def State.dramFault (s : State) (m pa n : Nat) : Option (Cause × Nat) :=
  if !memoryAt pa then some (.memsideError, 1)
  else if s.dramBad m pa n then some (.eccUncorr, 0)
  else none

/-- The record of an error response: from the unit that answers, that of `unit`, to the supervisor core of its die, about the
element or line at `pa`; operation 0 is one that R244's table does not name (R244; log 20). -/
def State.memsideRecord (s : State) (m unit pa sub op core : Nat) : State :=
  s.hardwareRecord (m * 16 + dieOfPa unit)
    (bytesOf 8 pa ++ bytesOf 2 (channelOfPa unit) ++ [BitVec.ofNat 8 sub, BitVec.ofNat 8 op] ++ bytesOf 4 (coreWord core))

/-- The ingress translator of a module (R147, R150), which counts as a quad of its die 0. -/
def ingressQuad (m : Nat) : Nat := quadOfCore (ingressCore m)

/-- The module whose DRAM a DRAM-form address names, for a partition on a module (log 30). -/
def State.homeOf (s : State) (m : Nat) (part : Option Nat) (va : Nat) : Nat :=
  match (s.partition m part).remote.find? (fun (base, len, _) => decide (base ≤ va) && decide (va < base + len)) with
  | some (_, _, h) => h
  | none => m

/-- The module that translates an access, and the quad whose TLB serves it: the requester's own, or the ingress translator
of another module (R147, R149). -/
def State.translator (s : State) (x : Miss) : Nat × Nat :=
  let m := moduleOfCore x.core
  let h := if x.own then m else s.homeOf m x.part x.va
  if h = m then (m, quadOfCore x.core) else (h, ingressQuad h)

/-! ## Walks -/

/-- The walk-cache entry that covers an address at a level (R149). -/
def walkHit (l : List WalkEntry) (asid level va : Nat) : Option WalkEntry :=
  l.find? (fun e => e.asid == asid && e.level == level && e.base == va / 2 ^ levelShift level)

/-- Where a walk starts: one level below the deepest entry held, else at level 5 (R374). -/
def walkStart (l : List WalkEntry) (asid root va : Nat) : Nat × Nat :=
  match [2, 3, 4, 5].findSome? (fun level => walkHit l asid level va) with
  | some e => (e.level - 1, e.frame)
  | none => (5, root)

/-- A walk for a missing translation (R144); a requester has at most one walk of a page in progress. -/
def State.startWalk (s : State) (x : Miss) : State :=
  let (m, q) := s.translator x
  let p := s.partition m x.part
  if s.walks.any (fun w => w.req == x.req && w.va / 4096 == x.va / 4096 && w.quad == q) then s
  else
    let (level, table) := walkStart (s.quad q).walkCache p.asid p.root x.va
    let (id, s) := s.fresh
    let s := (s.count x.core 8 none 1).count x.core 9 none (if level = 5 then 0 else 1)
    let w : Walk := { id, quad := q, module := m, part := x.part, asid := p.asid, va := x.va, level, table
                      write := x.write, sup := x.sup, peer := m != moduleOfCore x.core, tol := x.tol, red := x.red
                      req := x.req, core := x.core }
    State.emit { s with walks := s.walks ++ [w] } (.pageWalkRead id)

/-- A TLB of 2048 entries and a walk cache of 256 (R149); which entry gives way is not architectural. -/
def State.fillTlb (s : State) (q : Nat) (e : TlbEntry) : State :=
  let other := fun (f : TlbEntry) => !(f.asid == e.asid && f.size == e.size && f.base == e.base)
  s.modQuad q (fun k => { k with tlb := (e :: k.tlb.filter other).take 2048 })
def State.fillWalkCache (s : State) (q : Nat) (e : WalkEntry) : State :=
  let other := fun (f : WalkEntry) => !(f.asid == e.asid && f.level == e.level && f.base == e.base)
  s.modQuad q (fun k => { k with walkCache := (e :: k.walkCache.filter other).take 256 })

/-- The group of 16 entries makes one 64 KiB translation (R148). -/
def ctGroup (es : List Word) : Bool :=
  match es with
  | [] => false
  | e0 :: _ =>
    es.all (fun e => pteV e && pteCT e)
      && es.all (fun e => (e &&& 0xF9F) == (e0 &&& 0xF9F))
      && pteFrame e0 % 16 == 0
      && (es.zipIdx.all (fun (e, i) => pteFrame e == pteFrame e0 + i))

/-- The physical address of the group of 16 entries that holds the entry at `leaf` for an address (R148). -/
def groupAt (va leaf : Nat) : Nat := leaf - 8 * (va / 4096 % 16)

/-- The TLB entry of a leaf (R144, R148); `leaf` is its physical address. -/
def State.leafEntry (s : State) (m asid va level leaf : Nat) (e : Word) : TlbEntry :=
  if level = 1 ∧ pteCT e then
    let first := groupAt va leaf
    let es := (List.range 16).map (fun i => Word.of (s.dramNat m (first + 8 * i) 8))
    if ctGroup es then
      let d := es.all pteD
      { asid, base := va / 2 ^ 16, size := 16, leaf := first
        pte := setField (setField e 12 40 (pteFrame (es.getD 0 0))) 6 1 d.toNat }
    else { asid, base := va / 4096, size := 12, pte := e, leaf }
  else { asid, base := va / 2 ^ levelShift level, size := levelShift level, pte := e, leaf }

/-- An atomic OR of A or D, or of both, into a page-table entry at its memory-side unit (R147, R152). -/
def State.orPte (s : State) (m leaf bits : Nat) : State :=
  let s := s.readAt m leaf 8 false
  if s.dramBad m leaf 8 then s else s.unitWrite m leaf (bytesOf 8 (s.dramNat m leaf 8 ||| bits))

/-- The bits A and D of an entry. -/
def bitA : Nat := 2 ^ 5
def bitD : Nat := 2 ^ 6

/-- What a walk's read of one entry comes to. -/
inductive WalkStep where
  | fail (c : Cause)
  | descend (frame : Nat)
  | leaf (pa : Nat) (e : Word)

/-- Reads the entry of a walk's level (R144, R146). -/
def State.walkRead (s : State) (m table level va : Nat) : WalkStep :=
  let pa := table * 4096 + levelIndex va level
  match s.dramFault m pa 8 with
  | some (c, _) => .fail c
  | none =>
    let e := Word.of (s.dramNat m pa 8)
    match pteStop e level with
    | some c => .fail c
    | none => if pteLeaf e level then .leaf pa e else .descend (pteFrame e)

/-- What a leaf's TOL and RED are to be for an access (R231, R238, R175). -/
def pteFits (tol : Bool) (red : Option Bool) (e : Word) : Bool := (tol || !pteTOL e) && red.all (fun r => r == pteRED e)

/-- The access that a walk was made for is a write that passes its check (R147, R231, R238). -/
def Walk.writes (w : Walk) (e : Word) : Bool :=
  w.write && pteW e && (w.sup || pteU e) && pteFits w.tol w.red e && (!w.peer || ptePIN e)

/-- A walk whose leaf has CT = 1 reads the leaf's group as well (R148); an uncorrectable word of it fails the walk. -/
def State.readGroup (s : State) (w : Walk) (pa : Nat) (e : Word) : State × Bool :=
  if w.level = 1 ∧ pteCT e then (s.readAt w.module (groupAt w.va pa) 128 false, s.dramBad w.module (groupAt w.va pa) 128)
  else (s, false)

/-- One read of a walk (R144–R149).  A leaf receives A, and for a write that passes its check D in the same step (R374,
R376); the TLB entry is made from the leaf as it then stands. -/
def State.walkOnce (s : State) (w : Walk) : State :=
  let at_ := w.table * 4096 + levelIndex w.va w.level
  let s := s.readAt w.module at_ 8 false
  let upd := fun (s : State) (w' : Walk) =>
    ({ s with walks := s.walks.map (fun x => if x.id = w.id then w' else x) } : State)
  match s.walkRead w.module w.table w.level w.va with
  | .fail c =>
    let s := if c = .memsideError then s.memsideRecord w.module at_ at_ 1 0 w.core else s
    upd s { w with failed := some c }
  | .descend f =>
    ((upd s { w with level := w.level - 1, table := f }).fillWalkCache w.quad
      { asid := w.asid, level := w.level, base := w.va / 2 ^ levelShift w.level, frame := f }).emit (.pageWalkRead w.id)
  | .leaf pa e =>
    let (s, bad) := s.readGroup w pa e
    if bad then upd s { w with failed := some .eccUncorr }
    else
      let s := State.orPte { s with walks := s.walks.filter (fun x => x.id != w.id) } w.module pa
        (if w.writes e then bitA ||| bitD else bitA)
      let e := if w.writes e then setField e 6 1 1 else e
      s.fillTlb w.quad (s.leafEntry w.module w.asid w.va w.level pa e)

/-! ## Translation -/

/-- What an access is, for the checks of R147. -/
inductive Access where
  | read | write | fetch
  deriving DecidableEq, Repr

/-- A translated address: the module, the leaf, the offset in it, and the physical address of the leaf entry that a write
marks. -/
structure Place where
  m : Nat
  pte : Word
  size : Nat
  off : Nat
  leaf : Nat
  deriving DecidableEq, Repr

/-- The frame base of a place. -/
def Place.base (p : Place) : Nat := pteFrame p.pte * 4096 / 2 ^ p.size * 2 ^ p.size

/-- The physical address; on a tolerant page that of the element's `BF16` (R92, R144). -/
def Place.pa (p : Place) : Nat := if pteTOL p.pte then p.base + 2 * (p.off / 4) else p.base + p.off

inductive Trans where
  | ok (p : Place)
  | miss
  | fault (c : Cause) (sub : Nat)
  deriving DecidableEq, Repr

/-- The checks of R147 on a leaf. -/
def leafAllows (e : Word) (acc : Access) (sup : Bool) : Bool :=
  (match acc with
   | .read => true
   | .write => pteW e
   | .fetch => pteX e) && (sup || pteU e)

/-- The place of an address that a TLB entry covers; one of a group of 16 leaves lies in its own 4 KiB leaf (R92, R148). -/
def placeOf (m : Nat) (e : TlbEntry) (va : Nat) : Place :=
  if e.size = 16 then
    { m, pte := setField e.pte 12 40 (pteFrame e.pte + va / 4096 % 16), size := 12, off := va % 4096
      leaf := e.leaf + 8 * (va / 4096 % 16) }
  else { m, pte := e.pte, size := e.size, off := va % 2 ^ e.size, leaf := e.leaf }

/-- The TLB entry that covers an address. -/
def tlbHit (l : List TlbEntry) (asid va : Nat) : Option TlbEntry :=
  l.find? (fun e => e.asid == asid && e.base == va / 2 ^ e.size)

/-- Translation through a core's TLB, or for another module's DRAM through that module's ingress translator (R144–R149): a
missing entry asks for a walk, and a walk that has failed for this requester gives its trap.  A write from another module
to a page with PIN = 0 is refused (R147). -/
def State.translate (s : State) (x : Miss) (sup : Bool) (acc : Access) : Trans :=
  let (m, q) := s.translator x
  let p := s.partition m x.part
  match tlbHit (s.quad q).tlb p.asid x.va with
  | some e =>
    if !leafAllows e.pte acc sup || !pteFits x.tol x.red e.pte then .fault .pageProt 0
    else if m != moduleOfCore x.core && acc == .write && !ptePIN e.pte then .fault .remoteFault 3
    else .ok (placeOf m e x.va)
  | none =>
    match s.walks.findSome? (fun w => if w.req == x.req && w.va / 4096 == x.va / 4096 then w.failed else none) with
    | some c => .fault c 0
    | none => .miss

/-- A write that has passed the checks marks its leaf entry dirty, where its translation was made without D (R374). -/
def State.markDirty (s : State) (p : Place) : State := if pteD p.pte then s else s.orPte p.m p.leaf bitD

/-- A translation that the device makes for itself (R393): a walk of its own, all levels at once, with the entries that it
reads. -/
def State.deviceWalk (s : State) (m : Nat) (va : Nat) : Nat → Nat → Nat → Trans × List Nat
  | 0, _, _ => (.fault .pageFault 0, [])
  | fuel + 1, level, table =>
    let pa := table * 4096 + levelIndex va level
    match s.walkRead m table level va with
    | .fail c => (.fault c 0, [pa])
    | .descend f =>
      let (t, l) := s.deviceWalk m va fuel (level - 1) f
      (t, pa :: l)
    | .leaf leaf e => (.ok { m, pte := e, size := levelShift level, off := va % 2 ^ levelShift level, leaf }, [pa])

/-- The place of a module's own units, where a core is asked for: the core field is 0xFF (R268). -/
def unitCore (m : Nat) : Nat := 4096 * m + 255

/-- A device's access that meets no memory is recorded (R244). -/
def State.deviceError (s : State) (m pa : Nat) (c : Cause) : State :=
  if c = .memsideError then s.memsideRecord m pa pa 1 0 (unitCore m) else s

/-- A device access is checked as one in user mode, and fails on tolerant and reduction pages (R393).  Its walk is counted at
the units, and sets A in the leaf that it ends in, and D for a write that passes (R147, R374). -/
def State.deviceTranslate (s : State) (m : Nat) (part : Option Nat) (va : Nat) (write : Bool) : Except Cause Place × State :=
  if 2 ^ 57 ≤ va then (.error .pageFault, s)
  else
    let (t, l) := s.deviceWalk m va 5 5 (s.partition m part).root
    let s := l.foldl (fun s pa => s.readAt m pa 8 false) s
    match t with
    | .fault c _ => (.error c, s.deviceError m (l.getLastD 0) c)
    | .miss => (.error .pageFault, s)
    | .ok p =>
      let passes := pteU p.pte && (!write || pteW p.pte) && !pteTOL p.pte && !pteRED p.pte
      let s := s.orPte m p.leaf (if write && passes then bitA ||| bitD else bitA)
      (if passes then .ok p else .error .pageProt, s)

/-- A device read of bytes that do not leave a page, and the machine after it. -/
def State.deviceRead (s : State) (m : Nat) (part : Option Nat) (va n : Nat) : Except Cause (List Byte) × State :=
  match s.deviceTranslate m part va false with
  | (.error c, s) => (.error c, s)
  | (.ok p, s) =>
    match s.dramFault m p.pa n with
    | some (c, _) => (.error c, s.deviceError m p.pa c)
    | none => (.ok (s.dramBytes m p.pa n), s.readAt m p.pa n (ptePIN p.pte))

/-- A device write of bytes that do not leave a page: the failure, if it fails, and the machine after it. -/
def State.deviceWrite (s : State) (m : Nat) (part : Option Nat) (va : Nat) (bs : List Byte) : Option Cause × State :=
  match s.deviceTranslate m part va true with
  | (.error c, s) => (some c, s)
  | (.ok p, s) =>
    if !memoryAt p.pa then (some .memsideError, s.deviceError m p.pa .memsideError)
    else (none, (s.touch m p.pa (ptePIN p.pte)).unitWrite m p.pa bs)

/-! ## Cluster caches (R138–R141) -/

/-- The line of a quad's cache that holds a physical address. -/
def State.cacheLine (s : State) (q pa : Nat) : Option CacheLine := (s.quad q).cache.find? (fun l => l.line == pa / 64)

def State.dropLine (s : State) (q line : Nat) : State :=
  s.modQuad q (fun k => { k with cache := k.cache.filter (fun l => l.line != line) })

/-- A line in the place of the one with its number, if there is one. -/
def State.setLine (s : State) (q : Nat) (l : CacheLine) : State :=
  s.modQuad q (fun k => { k with cache := l :: k.cache.filter (fun x => x.line != l.line) })

/-- The bytes of a line. -/
def lineBytes (d : BitVec 512) : List Byte := bytesOf 64 d.toNat

/-- The words of a line that hold bytes written since its last write-back. -/
def CacheLine.dirtyWords (l : CacheLine) : List Nat :=
  (List.range 8).filter (fun i => l.dirty.toNat / 2 ^ (8 * i) % 256 != 0)

/-- The dirty bytes of a line reach DRAM, its single-bit errors corrected and counted; words that are uncorrectable arrive
poisoned (R139, R383). -/
def State.writeBackBytes (s : State) (m : Nat) (l : CacheLine) : State :=
  let s := s.touch m (64 * l.line) l.pin
  let s := (List.range 64).foldl (fun s i =>
    if l.dirty.getLsbD i then s.setDramBytes m (64 * l.line + i) [BitVec.ofNat 8 (l.data.toNat / 2 ^ (8 * i))] else s) s
  let words := (List.range 8).filter (fun i => l.dirty.toNat / 2 ^ (8 * i) % 256 == 255)
  let s := words.foldl (fun s i => s.dramClean m (64 * l.line + 8 * i) 8) s
  let flips := (l.dirtyWords.filter (fun i => l.flip.getLsbD i)).length
  let s := if flips = 0 then s else s.countPoolc (m * 16 + dieOfPa (64 * l.line)) flips
  let bads := l.dirtyWords.filter (fun i => l.bad.getLsbD i)
  if bads.isEmpty then s
  else s.modModule m (fun k => { k with poisoned := bads.map (fun i => ownedPa (64 * l.line) / 8 + i) ++ k.poisoned })

/-- Some quad of the module holds a dirty line of a 64 KiB page. -/
def State.pageDirty (s : State) (m page : Nat) : Bool :=
  s.quads.any (fun (q, k) => moduleOfQuad q == m && k.cache.any (fun l => l.dirty != 0 && l.line / 1024 == page))

/-- Ownership records and memory-side marks of a page are discarded once no cache holds a dirty line of it (R140). -/
def State.prunePage (s : State) (m page : Nat) : State :=
  let d := m * 16 + dieOfPa (page * 2 ^ 16)
  if (s.die d).owners.isEmpty || s.pageDirty m page then s
  else s.modDie d (fun k => { k with owners := k.owners.filter (fun o => o.page != page) })

/-- A line is written back and stays, clean.  One that holds an uncorrectable word goes.  A word of it that the quad had
written is then in DRAM, poisoned, and the event is logged with the line's address in a record to the supervisor of the die
that holds it; a word that the quad had not written stays in DRAM as it is there (R139). -/
def State.cleanLine (s : State) (q : Nat) (l : CacheLine) : State :=
  let m := moduleOfQuad q
  if l.dirty = 0 then s
  else if l.bad = 0 then (s.writeBackBytes m l).setLine q { l with dirty := 0, flip := 0 }
  else
    let s := (s.writeBackBytes m l).dropLine q l.line
    if l.dirtyWords.any (fun i => l.bad.getLsbD i) then
      s.hardwareRecord (m * 16 + dieOfPa (64 * l.line)) (bytesOf 8 (64 * l.line) ++ bytesOf 8 0)
    else s

/-- A line leaves a cache: dirty data are written back, and records of a page that no cache holds dirty go (R139, R140). -/
def State.evictLine (s : State) (q : Nat) (l : CacheLine) : State :=
  ((s.cleanLine q l).dropLine q l.line).prunePage (moduleOfQuad q) (l.line / 1024)

/-- The line that gives way to `l` in a cache of 2 MiB with 16 ways (R14): the one held longest, where the set is full.  A
set is chosen by the low bits of the line's number; which line goes is not architectural (log 8). -/
def victim (cache : List CacheLine) (l : CacheLine) : Option CacheLine :=
  let same := cache.filter (fun x => x.line != l.line && x.line % 2048 == l.line % 2048)
  if 16 ≤ same.length then same.getLast? else none

/-- A line enters a quad's cache. -/
def State.putLine (s : State) (q : Nat) (l : CacheLine) : State :=
  match victim (s.quad q).cache l with
  | some v => (s.evictLine q v).setLine q l
  | none => s.setLine q l

/-- Writes back every dirty line of a quad that a test selects. -/
def State.cleanLines (s : State) (q : Nat) (f : CacheLine → Bool) : State :=
  let ls := (s.quad q).cache.filter (fun l => l.dirty != 0 && f l)
  let s := ls.foldl (fun s l => s.cleanLine q l) s
  ls.foldl (fun s l => s.prunePage (moduleOfQuad q) (l.line / 1024)) s

/-- The write-back half of a release at `DIE` or wider (R141). -/
def State.cleanQuad (s : State) (q : Nat) : State := s.cleanLines q (fun _ => true)

/-- A release at a scope by a core: `CORE` and `QUAD` write back nothing (R141). -/
def State.releaseCore (s : State) (core scope : Nat) : State := if 2 ≤ scope then s.cleanQuad (quadOfCore core) else s

/-- An acquire at a scope by a core: clean lines filled under W = 1 go (R141). -/
def State.acquireCore (s : State) (core scope : Nat) : State :=
  if 2 ≤ scope then
    s.modQuad (quadOfCore core) (fun k => { k with cache := k.cache.filter (fun l => !(l.dirty == 0 && l.w)) })
  else s

/-- A line fetched from DRAM, its uncorrectable words marked. -/
def State.fetchLine (s : State) (m line : Nat) (w pin : Bool) : CacheLine :=
  let bad := (List.range 8).foldl (fun b i => if s.dramBad m (64 * line + 8 * i) 8 then b ||| (1#8 <<< i) else b) 0#8
  { line, data := BitVec.ofNat 512 (s.dramNat m (64 * line) 64), w, pin, bad }

/-- The words of a line that `n` bytes from offset `o` touch. -/
def lineWords (o n : Nat) : List Nat := (List.range 8).filter (fun i => decide (8 * i < o + n) && decide (o < 8 * i + 8))

/-- The `n` bytes from offset `o` of a line. -/
def CacheLine.bytes (l : CacheLine) (o n : Nat) : List Byte :=
  (List.range n).map (fun i => BitVec.ofNat 8 (l.data.toNat / 2 ^ (8 * (o + i))))

/-- Single-bit errors of a line's words are corrected in the array and counted (R139, R383). -/
def State.correctLine (s : State) (q : Nat) (l : CacheLine) (ws : List Nat) : State :=
  let n := (ws.filter (fun i => l.flip.getLsbD i)).length
  if n = 0 then s
  else (s.setLine q { l with flip := ws.foldl (fun b i => b &&& ~~~(1#8 <<< i)) l.flip }).countPoolc (dieOfQuad q) n

/-- A read of `n` bytes that stay in one line, through a quad's cache (R138).  A clean line that has taken a parity error is
fetched again; an uncorrectable word of a dirty line traps at its reader (R139).  A line that DRAM holds poisoned is not
kept. -/
def State.cacheRead (s : State) (core pa n : Nat) (w pin : Bool) : Except (Cause × Nat) (List Byte × State) :=
  let q := quadOfCore core
  let m := moduleOfCore core
  let ws := lineWords (pa % 64) n
  let held := (s.cacheLine q pa).filter (fun l => l.dirty != 0 || (l.bad == 0 && l.flip == 0))
  match held with
  | some l =>
    if ws.any (fun i => l.bad.getLsbD i) then .error (.eccUncorr, 0)
    else .ok (l.bytes (pa % 64) n, s.correctLine q l ws)
  | none =>
    match s.dramFault m pa n with
    | some (c, sub) => .error (c, sub)
    | none =>
      let l := s.fetchLine m (pa / 64) w pin
      let s := (s.readAt m (pa / 64 * 64) 64 pin).count core 7 none 1
      .ok (l.bytes (pa % 64) n, if l.bad = 0 then s.putLine q l else s.dropLine q l.line)

/-- A line with bytes written from offset `o`.  A word that is overwritten whole loses its error; what a write that covers an
uncorrectable word in part leaves is still uncorrectable (log 7). -/
def CacheLine.wr (l : CacheLine) (o : Nat) (bs : List Byte) : CacheLine :=
  let (d, m) := bs.zipIdx.foldl (fun (d, m) (b, i) =>
    (d - d / 2 ^ (8 * (o + i)) % 256 * 2 ^ (8 * (o + i)) + b.toNat * 2 ^ (8 * (o + i)), m ||| 2 ^ (o + i)))
    (l.data.toNat, l.dirty.toNat)
  let whole := (List.range 8).filter (fun i => decide (o ≤ 8 * i) && decide (8 * i + 8 ≤ o + bs.length))
  let clear := fun (x : BitVec 8) => whole.foldl (fun x i => x &&& ~~~(1#8 <<< i)) x
  { l with data := BitVec.ofNat 512 d, dirty := BitVec.ofNat 64 m, flip := clear l.flip, bad := clear l.bad }

/-- The bytes of a tolerant page as an access sees them (R93): element e's `BF16` lies at `base + 2e`. -/
def State.tolerantRead (s : State) (m base off n : Nat) : List Byte :=
  (List.range n).map (fun i =>
    BitVec.ofNat 8 (s.dramNat m (base + 2 * ((off + i) / 4)) 2 * 2 ^ 16 / 2 ^ (8 * ((off + i) % 4))))

/-- Bytes stored on a tolerant page, element by element, partial elements merged (R93). -/
def State.tolerantWrite (s : State) (m base off : Nat) (bs : List Byte) : State :=
  let first := off / 4
  let last := (off + bs.length - 1) / 4
  (List.range (last - first + 1)).foldl (fun s k =>
    let e := first + k
    let old := s.dramNat m (base + 2 * e) 2 * 2 ^ 16
    let new := (List.range 4).foldl (fun x j =>
      let i := 4 * e + j
      if off ≤ i ∧ i < off + bs.length then
        x - x / 2 ^ (8 * j) % 256 * 2 ^ (8 * j) + (bs.getD (i - off) 0).toNat * 2 ^ (8 * j)
      else x) old
    s.unitWrite m (base + 2 * e) (bytesOf 2 (tolerantStore new))) s

/-- The bytes of the backing that an access to `n` bytes of a tolerant page reaches (R92): where they begin, and how many. -/
def Place.backing (p : Place) (n : Nat) : Nat × Nat :=
  (p.base + 2 * (p.off / 4), 2 * ((p.off + n - 1) / 4) + 2 - 2 * (p.off / 4))

/-- The access goes to the memory-side unit: MS and reduction pages, and another module's memory, whose lines no cache of
this module holds (R138, R230; log 30). -/
def Place.memside (p : Place) (core : Nat) : Bool := pteMS p.pte || pteRED p.pte || p.m != moduleOfCore core

/-- A read of `n` bytes of one line, by a transfer or row read of a core; reduction regions count as memory-side (R93,
R138, R230). -/
def State.farRead (s : State) (core : Nat) (p : Place) (n : Nat) : Except (Cause × Nat) (List Byte × State) :=
  if pteTOL p.pte then
    let (pa, k) := p.backing n
    match s.dramFault p.m pa k with
    | some f => .error f
    | none => .ok (s.tolerantRead p.m p.base p.off n, s.readAt p.m pa k (ptePIN p.pte))
  else if p.memside core then
    match s.dramFault p.m p.pa n with
    | some f => .error f
    | none => .ok (s.dramBytes p.m p.pa n, s.readAt p.m p.pa n (ptePIN p.pte))
  else s.cacheRead core p.pa n (pteW p.pte) (ptePIN p.pte)

/-- The ownership record of a page (R140). -/
def State.ownership (s : State) (m pa : Nat) : Ownership :=
  ((s.die (m * 16 + dieOfPa pa)).owners.find? (fun o => o.page == pa / 2 ^ 16)).getD { page := pa / 2 ^ 16 }

def State.setOwnership (s : State) (m : Nat) (o : Ownership) : State :=
  s.modDie (m * 16 + dieOfPa (o.page * 2 ^ 16)) (fun k => { k with
    owners := o :: k.owners.filter (fun x => x.page != o.page) })

/-- What a transfer write comes to. -/
inductive FarWrite where
  | done (s : State)
  | fault (c : Cause) (sub : Nat)
  /-- The ownership of the sub-page is to be decided first. -/
  | decide (pa : Nat)

/-- A quad's own copies of the lines of a physical range of its module leave its cache before it writes there at the
memory-side unit (R140). -/
def State.dropOwn (s : State) (core m pa n : Nat) : State :=
  if m ≠ moduleOfCore core then s
  else
    (List.range ((pa + n - 1) / 64 - pa / 64 + 1)).foldl (fun s i => match s.cacheLine (quadOfCore core) (pa + 64 * i) with
      | some l => s.evictLine (quadOfCore core) l
      | none => s) s

/-- A write at the memory-side unit, after the writing quad's own copy of the line has gone (R140). -/
def State.bypassWrite (s : State) (core : Nat) (p : Place) (bs : List Byte) : State :=
  ((s.dropOwn core p.m p.pa bs.length).touch p.m p.pa (ptePIN p.pte)).unitWrite p.m p.pa bs

/-- A transfer write of bytes of one line (R93, R138, R140, R374).  The line is fetched where the cache does not hold it. -/
def State.farWrite (s : State) (core : Nat) (p : Place) (bs : List Byte) : FarWrite :=
  let q := quadOfCore core
  let m := moduleOfCore core
  if !memoryAt p.pa then .fault .memsideError 1
  else if pteTOL p.pte then
    let (pa, k) := p.backing bs.length
    .done ((((s.markDirty p).dropOwn core p.m pa k).touch p.m p.pa (ptePIN p.pte)).tolerantWrite p.m p.base p.off bs)
  else if p.memside core then .done ((s.markDirty p).bypassWrite core p bs)
  else
    let o := s.ownership m p.pa
    let sub := p.pa / 4096 % 16
    if o.memside.getLsbD sub then .done ((s.markDirty p).bypassWrite core p bs)
    else if o.owners.any (fun (r, mask, _) => r == q && mask.getLsbD sub) then
      let s := (s.markDirty p).setOwnership m { o with
        owners := o.owners.map (fun (r, mask, wr) => if r = q then (r, mask, wr ||| (1#16 <<< sub)) else (r, mask, wr)) }
      let held := (s.cacheLine q p.pa).filter (fun l => l.dirty != 0 || (l.bad == 0 && l.flip == 0))
      match held with
      | some l => .done (s.setLine q (l.wr (p.pa % 64) bs))
      | none =>
        let l := s.fetchLine m (p.pa / 64) (pteW p.pte) (ptePIN p.pte)
        let s := (s.readAt m (p.pa / 64 * 64) 64 (ptePIN p.pte)).count core 7 none 1
        .done (s.putLine q (l.wr (p.pa % 64) bs))
    else .decide p.pa

/-- Write ownership of the sub-page of a physical address is decided for a quad (R140). -/
def State.decideOwner (s : State) (q pa : Nat) : State :=
  let m := moduleOfQuad q
  let o := s.ownership m pa
  let sub := pa / 4096 % 16
  let b : BitVec 16 := 1#16 <<< sub
  let give := fun (l : List (Nat × BitVec 16 × BitVec 16)) (mask : BitVec 16) =>
    if l.any (fun e => e.1 == q) then l.map (fun (r, k, w) => if r = q then (r, k ||| mask, w) else (r, k, w))
    else l ++ [(q, mask, 0)]
  if o.memside.getLsbD sub then s
  else if o.owners.all (fun (_, k, _) => k == 0) && o.memside == 0 then
    s.setOwnership m { o with owners := [(q, 0xFFFF, 0)] }
  else
    match o.owners.find? (fun (_, k, _) => k.getLsbD sub) with
    | none => s.setOwnership m { o with owners := give o.owners b }
    | some (r, _, w) =>
      if r = q then s
      else if w.getLsbD sub then
        let inSub := fun (l : CacheLine) => decide (l.line / 64 = pa / 4096)
        let ls := fun (s : State) (q : Nat) => (s.quad q).cache.filter (fun l => l.dirty != 0 && inSub l)
        let s := (ls s r).foldl (fun s l => s.cleanLine r l) s
        let s := (ls s q).foldl (fun s l => s.cleanLine q l) s
        (s.setOwnership m { o with
          owners := o.owners.map (fun (x, k, w) => if x = r then (x, k &&& ~~~b, w &&& ~~~b) else (x, k, w))
          memside := o.memside ||| b }).prunePage m (pa / 2 ^ 16)
      else
        s.setOwnership m { o with
          owners := give (o.owners.map (fun (x, k, w) => if x = r then (x, k &&& ~~~b, w) else (x, k, w))) b }

/-- Before an atomic executes in module `m`, the sub-page's owners write back their dirty lines of it, it becomes memory-side,
and the requester's quad drops its clean copy of the line (R230). -/
def State.beforeAtomic (s : State) (m q pa : Nat) : State :=
  let o := s.ownership m pa
  let b : BitVec 16 := 1#16 <<< (pa / 4096 % 16)
  let s := (o.owners.filter (fun (_, k, _) => k &&& b != 0)).foldl (fun s (r, _, _) =>
    ((s.quad r).cache.filter (fun l => l.dirty != 0 && l.line / 64 == pa / 4096)).foldl (fun s l => s.cleanLine r l) s) s
  let s := if o.owners.isEmpty then s else s.setOwnership m { o with
    owners := o.owners.map (fun (x, k, w) => (x, k &&& ~~~b, w &&& ~~~b)), memside := o.memside ||| b }
  (match s.cacheLine q pa with
   | some l => if l.dirty = 0 ∧ moduleOfQuad q = m then s.dropLine q l.line else s
   | none => s).prunePage m (pa / 2 ^ 16)

/-- A quad asks its die's fetch agent for a line, once (R55). -/
def State.askFetch (s : State) (q : Nat) (a : FetchAsk) : State :=
  if s.agenda.contains (.fetchMissFill q a.line) then s
  else (s.modQuad q (fun k => { k with asks := k.asks ++ [a] })).emit (.fetchMissFill q a.line)

/-- The lines of a physical range go from every cluster cache of the pod's module, dirty data with them (R177). -/
def State.discardLines (s : State) (m pa n : Nat) : State :=
  let first := pa / 64
  let last := (pa + n - 1) / 64
  let keep := fun (l : CacheLine) => !(decide (first ≤ l.line) && decide (l.line ≤ last))
  let drop := fun (e : Nat × Quad) =>
    if moduleOfQuad e.1 = m then (e.1, { e.2 with cache := e.2.cache.filter keep }) else e
  State.prunePage { s with quads := s.quads.map drop } m (pa / 2 ^ 16)

end Sys2Proof.Machine
end

