-- ==== Sys2Proof/Machine/Issue.lean ====
section
/-!
DEFINITION. Sys2Proof/Machine/Issue.lean: how an instruction issues: the checks of R38 in their order, the guard, the
lookahead windows, and what becomes of the thread afterwards.
-/
namespace Sys2Proof.Machine

/-- What the issue of an instruction needs to know of it besides its effect. -/
structure Meta where
  /-- The major opcode (R43); 64 stands for an affix word. -/
  major : Nat
  guard : Guard
  words : Nat := 1
  reads : List RegName := []
  writes : List RegName := []
  /-- The vector fields, which name long registers in long mode (R110). -/
  vfields : List VField := []
  /-- The lookahead field of a long-latency instruction (R34). -/
  look : Option (Fin 16) := none
  priv : Bool := false
  /-- `NOP` is legal in every slot (R40). -/
  anySlot : Bool := false
  /-- The checks that take the place of `PRIV` for `MFS` and `MTS` (R325). -/
  sys : Option Cause := none

/-- The register names of general registers; `g0` never counts (R35). -/
def gs (l : List GReg) : List RegName := (l.filter (fun r => r != 0)).map .g
/-- The register names of predicates; `p0` never counts. -/
def ps (l : List PReg) : List RegName := (l.filter (fun r => r != 0)).map .p
def vs (l : List VField) : List RegName := l.map .v
/-- The registers that a loop on a counter writes; a pipelined one writes LPIPE as well (R79). -/
def loopRegs (n : Fin 2) (pipe : Bool) : List RegName :=
  [.loop (Fin.ofNat 7 n.val), .loop (Fin.ofNat 7 (2 + n.val)), .loop (Fin.ofNat 7 (4 + n.val))] ++ (if pipe then [.loop 6] else [])

/-- A guard reads its predicate (R79). -/
def Meta.allReads (m : Meta) : List RegName := ps [m.guard.p] ++ m.reads

/-- An instruction whose guard fails: it reads its predicate alone, and opens no window (R33). -/
def Meta.skipped (m : Meta) : Meta := { m with reads := [], look := none }

/-- The classes that a core executes (R13, R43, R181). -/
def classOn (major : Nat) (k : CoreKind) : Bool :=
  match k with
  | .lookup => major < 0x3A || (0x3C ≤ major && major < 64)
  | .dcc => major != 0x29
  | .super =>
    (major ≤ 0x10) || major == 0x13 || (0x24 ≤ major && major ≤ 0x27) || (0x2C ≤ major && major ≤ 0x34)
      || major == 0x36 || major == 0x37 || (0x3C ≤ major && major < 64)

/-- The classes that a slot of a DCC bundle accepts (R40). -/
def slotAccepts (slot major : Nat) : Bool :=
  match slot with
  | 0 => major ≤ 0x0F
  | 1 => major ≤ 0x0B || (0x10 ≤ major && major ≤ 0x15) || (0x24 ≤ major && major ≤ 0x39) || (0x3C ≤ major && major < 64)
  | 2 => 0x18 ≤ major && major ≤ 0x22
  | 3 => major == 0x3A || major == 0x3B || major == 64
  | _ => false

/-- A double-word form takes slots 0 and 1 whole and is legal where either accepts its class (R40). -/
def slotOk (m : Meta) (slot : Nat) : Bool :=
  if m.words = 2 then slot == 0 && (slotAccepts 0 m.major || slotAccepts 1 m.major)
  else m.anySlot || slotAccepts slot m.major

/-- Two register lists share a register. -/
def meets (a b : List RegName) : Bool := a.any (fun x => b.contains x)

/-- J depends on the instruction that opened the window (R35). -/
def dependsOn (m : Meta) (w : LookWindow) : Bool :=
  meets m.allReads w.writes || meets m.writes (w.reads ++ w.writes)

/-- The decode checks of R38, in their order: what the instruction traps, if anything.  DEDUCED: of two slots that write the
same register the later one traps (R41, R42; log 25). -/
def decodeCheck (m : Meta) (s : State) : Option Cause :=
  let slot := match s.bundle with
    | some b => !slotOk m b.slot || meets m.writes b.writes
    | none => false
  if !classOn m.major s.kind || slot then some .illegal
  else if m.vfields.any (fun f => s.src.long && decide (16 ≤ f.val)) then some .illegal
  else if m.major = 0x21 ∧ s.src.long = false then some .illegal
  else if m.sys.isSome then m.sys
  else if m.priv && !s.src.sup then some .priv
  else if s.src.windows.any (dependsOn m) then some .lookaheadBreach
  else none

/-- The instruction must wait for a register that an earlier long-latency instruction has yet to write (R36). One that
has ended in a fault leaves its register unchanged and holds nothing back (R37, R276). -/
def stalled (m : Meta) (s : State) : Bool :=
  s.src.outstanding.any (fun o => !o.ended && (meets m.allReads o.writes || meets m.writes o.writes))

/-- The guard (R33). -/
def State.guardHolds (s : State) (g : Guard) : Bool := s.p g.p != g.neg

/-- What an instruction's effect comes to. -/
inductive Res where
  /-- The effect is done; the thread goes on at the next instruction, or where its loop turns. -/
  | retire (s : State)
  /-- As `retire`, but without a turn the thread goes on at `pc`. -/
  | retireTo (s : State) (pc : Word)
  /-- A taken branch, call, jump or return: no turn check is made (R73). -/
  | jump (s : State) (pc : Word)
  | trap (t : TrapInfo) (s : State)
  /-- The thread waits in the instruction; `s` holds what has already happened. -/
  | block (w : Wait) (s : State)
  /-- The instruction cannot issue yet, for want of a register, of room, or of a translation. -/
  | again (miss : Option Miss)

/-- A trap of the issuing instruction that leaves everything as it was. -/
def trapOf (s : State) (c : Cause) (addr : Word := 0) (sub : Nat := 0) : Res := .trap { cause := c, addr, sub } s

/-- Windows move on by one instruction, and a long-latency instruction opens its own (R34). -/
def advanceWindows (ws : List LookWindow) (opened : List LookWindow) : List LookWindow :=
  (ws.map (fun w => { w with left := w.left - 1 })).filter (fun w => decide (0 < w.left)) ++ opened

/-- The window that an instruction opens; none with N = 0 (R34). -/
def Meta.window (m : Meta) : List LookWindow :=
  match m.look with
  | none => []
  | some n => if n.val = 0 then [] else [⟨n.val, m.allReads, m.writes⟩]

/-- The thread retires an instruction, or a bundle: the turn check (R73) is made with the sequential successor `seq`, the
pc goes to `dflt` where no loop turns, and the windows move on.  A thread that `EXIT` has ended goes nowhere, and one that its own `HALT` has
stopped stays stopped.  DESIGN CHOICE: the turn check after an `MTS` to a loop register sees the value that the `MTS` has written (R71 says
'for the next instruction'; log 26). -/
def State.retireAt (s : State) (seq dflt : Word) (turns : Bool) (opened : List LookWindow) : State :=
  let t := s.th
  if t.status = .ended ∨ t.status = .absent then s.count s.myCore 3 (some (threadIndex s.cur)) 1
  else
  let t := { t with status := if t.status = .stopped then .stopped else .running, wait := none, granted := false, windows := advanceWindows t.windows opened }
  let t :=
    if turns && !t.hnd then
      match turn t seq with
      | (t, some b) => { t with pc := b }
      | (t, none) => { t with pc := dflt }
    else { t with pc := dflt }
  (s.setTh t).count s.myCore 3 (some (threadIndex s.cur)) 1

/-- `MWAIT`, which stands in another slot of a bundle than the other waits, waits by its condition alone: it neither ends
nor uses the mark that a bundle issues again with its wait over. -/
def Wait.repeats : Wait → Bool
  | .entries _ => true
  | _ => false

/-- The second wait of an `EXIT` belongs to the same execution as the first (R296, R336). -/
def Wait.continues (w : Wait) (old : Option Wait) : Bool :=
  match w, old with
  | .exit _ (some _), some (.exit _ none) => true
  | _, _ => false

/-- The thread waits in its instruction (R58); one whose wait was over and whose bundle waits again keeps its place. -/
def State.blockOn (s : State) (w : Wait) (words : Nat) (opened : List LookWindow) : State :=
  { s.modTh (fun t => { t with status := .waiting, wait := some w, granted := t.granted && w.repeats,
                               waitSince := if t.granted then t.waitSince else s.nextId,
                               waitCycle := if w.continues t.wait then t.waitCycle else s.cycleOf s.myCore
                               waitWords := words, waitLook := opened }) with
    nextId := s.nextId + 1 }

/-- What becomes of the thread, outside a bundle. -/
def State.settle (s : State) (words : Nat) (opened : List LookWindow) (r : Res) : State :=
  let seq := s.th.pc + Word.of (s.issueBytes words)
  match r with
  | .retire s' => s'.retireAt seq seq true opened
  | .retireTo s' pc => s'.retireAt seq pc true opened
  | .jump s' pc => s'.retireAt seq pc false opened
  | .trap t s' => s'.raise s.cur t words
  | .block w s' => s'.blockOn w words opened
  | .again none => s
  | .again (some m) => s.startWalk m

/-- What a slot of a bundle comes to; the bundle commits once every slot has been evaluated (R42).  Control goes where slot 0
sends it, since its effect comes after that of the other slots (R41). -/
def State.settleSlot (s : State) (b : Bundle) (m : Meta) (r : Res) : State :=
  let done := fun (s' : State) (j : Option (Word × Bool)) =>
    { s' with bundle := some { b with writes := b.writes ++ m.writes, looks := b.looks ++ m.window
                                      jump := if b.jump.isSome then b.jump else j
                                      ends := b.ends || s'.bundle.any (fun x => x.ends)
                                      leaves := b.leaves || s'.bundle.any (fun x => x.leaves) } }
  match r with
  | .retire s' => done s' none
  | .retireTo s' pc => done s' (some (pc, true))
  | .jump s' pc => done s' (some (pc, false))
  | .trap t s' => { s' with bundle := some { b with trap := if b.trap.isSome then b.trap else some t } }
  | .block w s' => { s' with bundle := some { b with wait := if b.wait.isSome then b.wait else some (b.slot, w)
                                                     writes := b.writes ++ m.writes, looks := b.looks ++ m.window } }
  | .again m => { s with bundle := some { b with retry := if b.retry.isSome then b.retry else some m } }

/-- Vector and long operations are performance event 4 (R345). -/
def Meta.isVector (m : Meta) (long : Bool) : Bool :=
  (0x18 ≤ m.major && m.major ≤ 0x22) || (long && (m.major == 0x11 || m.major == 0x12 || m.major == 0x15))

/-- A vector operation that retires is counted. -/
def Res.counted (r : Res) (m : Meta) (s : State) : Res :=
  match r with
  | .retire s' => if m.isVector s.src.long then .retire (s'.count s.myCore 4 (some (threadIndex s.cur)) 1) else r
  | _ => r

def State.finish (s : State) (m : Meta) (r : Res) : State :=
  match s.bundle with
  | none => s.settle m.words m.window r
  | some b => s.settleSlot b m r

/-- The register-file word that a register name stands for, in the thread's vector mode; long registers and masks have none
(R110, R129). -/
def State.fileWord (s : State) (r : RegName) : Option RegName :=
  match r with
  | .v f => if s.src.long then none else some (.v (physicalV s.src.rrb f))
  | .m _ => none
  | r => some r

/-- A register that the instruction reads is uncorrectable (R137). -/
def badRead (m : Meta) (s : State) : Option RegName :=
  if s.src.badRegs.isEmpty then none
  else m.allReads.find? (fun r => (s.fileWord r).any (fun w => s.src.badRegs.contains w))

/-- Single-bit errors of registers are corrected and counted (R137). -/
def State.correctRegs (s : State) (tid : Nat) (rs : List RegName) : State :=
  if rs.isEmpty then s
  else (s.modThread tid (fun t => { t with flipRegs := t.flipRegs.filter (fun r => !rs.contains r) })).countPoolc
    (dieOfCore (coreOfThread tid)) rs.length

/-- The registers that an instruction reads whose word holds a single-bit error (R137). -/
def flipReads (m : Meta) (s : State) : List RegName :=
  if s.src.flipRegs.isEmpty then []
  else s.src.flipRegs.filter (fun w => m.allReads.any (fun r => s.fileWord r == some w))

/-- An issue cycle is lost to an earlier long-latency instruction (R36, R345); a bundle counts it where it issues again. -/
def State.lostCycle (s : State) : State :=
  match s.bundle with
  | none => s.count s.myCore 15 (some (threadIndex s.cur)) 1
  | some b => { s with bundle := some { b with stall := true } }

/-- A number for a register, for the address of its word. -/
def RegName.number : RegName → Nat
  | .g r => r.val | .v r => 32 + r.val | .p r => 64 + r.val | .m r => 72 + r.val | .loop r => 80 + r.val

/-- The meaning of an instruction word: the checks of R38, the wait for registers of R36, the guard, and its effect. -/
def issue (m : Meta) (s : State) (eff : State → Res) : Host.Outcome State Fault Refusal :=
  if s.src.status ≠ .running then .fault .noThread
  else
    match decodeCheck m s with
    | some c => .next (s.finish m (trapOf s c))
    | none =>
      if stalled m s then .next (s.lostCycle.finish m (.again none))
      else
        let on := s.guardHolds m.guard
        let m' := if on then m else m.skipped
        match badRead m' s with
        | some r => .next (s.finish m' (trapOf s .eccUncorr (Config.registerFileWord (threadIndex s.cur) r.number)))
        | none =>
          let s' := s.correctRegs s.cur (flipReads m' s)
          .next (s.finish m' (if on then (eff s').counted m s else .retire s'))

/-- An instruction that waits: `start` happens when it begins, `fin` when `ready` holds. -/
def await (w : Wait) (start : State → State) (ready : State → Bool) (fin : State → Res) (s : State) : Res :=
  if s.src.granted then fin s
  else if ready (start s) then fin (start s)
  else .block w (start s)

/-- A wait that is over, but that its bundle still needs to know when it issues again. -/
def Wait.kept : Wait → Bool
  | .exit .. | .take .. | .recvred .. => true
  | _ => false

/-- The end of a wait, as an event of its own: on the DCC the bundle issues again with the wait granted, elsewhere the
thread goes on at once. -/
def State.wake (s : State) (tid : Nat) (ready : Wait → State → Bool) (fin : Wait → State → Res) : State :=
  let th := s.thread tid
  match th.wait with
  | none => s
  | some w =>
    let s1 := { s with cur := tid, bundle := none }
    if th.status ≠ .waiting ∨ ready w s1 = false then s
    else if kindOfCore (coreOfThread tid) = .dcc then
      s.setThread tid { th with status := .running, granted := th.granted || !w.repeats, wait := if w.kept then some w else none }
    else { s1.settle th.waitWords th.waitLook (fin w s1) with cur := s.cur, bundle := s.bundle }

/-- A thread that waits gives up its wait; its instruction executes again (R37). -/
def Thread.interrupt (t : Thread) : Thread :=
  if t.status = .waiting then { t with status := .running, wait := none, granted := false } else t

/-- The shape of a register instruction over general registers. -/
def metaG (major : Nat) (g : Guard) (d : List GReg) (src : List GReg) (words : Nat := 1) : Meta :=
  { major, guard := g, words, reads := gs src, writes := gs d }

/-- The shape of a long-latency instruction. -/
def metaL (major : Nat) (g : Guard) (look : Fin 16) (d : List GReg) (src : List GReg) (words : Nat := 1) : Meta :=
  { major, guard := g, words, reads := gs src, writes := gs d, look := some look }

end Sys2Proof.Machine
end

