-- ==== Sys2Proof/Machine/Operands.lean ====
section
/-!
DEFINITION. Sys2Proof/Machine/Operands.lean: operand forms: local effective addresses (R128, R131), 64-bit addresses (R19)
and the targets of control transfers.
-/
namespace Sys2Proof.Machine

/-- A register operand taken as a local address: bits [19:0], [24:0] on the DCC, [20:0] on the supervisor core (R128). -/
def State.localAddr (s : State) (x : Word) : Nat := x.toNat % s.poolP

/-- The effective address of a local access: base plus displacement, modulo P (R131). -/
def State.localEa (s : State) (a : GReg) (disp : Word) : Nat := (s.g a + disp).toNat % s.poolP

/-- The displacement of a single-word access: off6 scaled by the access size (R29, R131). -/
def scaled (n : Nat) (off : BitVec 6) : Word := Word.of n * off.signExtend 64

/-- The forms of a 64-bit address (R19). -/
inductive AddrForm where
  | dram (va : Nat)
  | core (core off : Nat)
  | window (member off : Nat)
  | nonCanonical
  deriving DecidableEq, Repr

/-- The form of an address, identified by its top bits; a field out of range is non-canonical (R19). -/
def addrForm (a : Word) : AddrForm :=
  match field a 62 2 with
  | 2 =>
    if field a 45 17 = 0 ∧ field a 25 8 ≤ 0x81 then
      .core (field a 37 8 * 4096 + field a 33 4 * 256 + field a 25 8) (field a 0 25)
    else .nonCanonical
  | 3 => if field a 31 31 = 0 then .window (field a 25 6) (field a 0 25) else .nonCanonical
  | _ => if field a 57 7 = 0 then .dram a.toNat else .nonCanonical

/-- A control transfer's target is checked for its canonical form first, then for its alignment (R28, R68, R69). -/
def State.checkTarget (s : State) (t : Word) : Option TrapInfo :=
  if field t 57 7 ≠ 0 then some { cause := .pageFault, sub := 1, addr := t }
  else if t.toNat % (if s.kind = .dcc then 16 else 4) ≠ 0 then some { cause := .misalign, addr := t }
  else none

end Sys2Proof.Machine
end

