-- ==== Sys2Proof/Machine/Fabric.lean ====
section
/-!
DEFINITION. Sys2Proof/Machine/Fabric.lean: targets of core-space and window addresses, ordering streams, refusals and
resumption (R19, R266–R279, R297–R298).
-/
namespace Sys2Proof.Machine

/-! ## Links (R9, R10, R279) -/

/-- The boundary between two columns of a row, and the one between a column's two rows (R9). -/
def rowBoundary (row c : Nat) : Nat := 7 * row + c
def columnBoundary (c : Nat) : Nat := 14 + c

/-- The boundaries on the fixed route between two dies of a module: along the source row, then the column (R10). -/
def route (a b : Nat) : List Nat :=
  let (ra, ca, rb, cb) := (a / 8, a % 8, b / 8, b % 8)
  let lo := Min.min ca cb
  ((List.range (Max.max ca cb - lo)).map (fun i => rowBoundary ra (lo + i))) ++ (if ra = rb then [] else [columnBoundary cb])

/-- Links are numbered: boundary b of module m is 32·m + b, and the fabric port of die d (16·module + die) is 2^20 + d. -/
def boundaryLink (m b : Nat) : Nat := 32 * m + b
def portLink (die : Nat) : Nat := 2 ^ 20 + die

/-- The links between two dies (numbered over the pod): boundaries within a module, two fabric ports between modules. -/
def linksBetween (a b : Nat) : List Nat :=
  if a / 16 = b / 16 then (route (a % 16) (b % 16)).map (boundaryLink (a / 16)) else [portLink a, portLink b]

/-- A link on the way has been taken down (R279). -/
def State.routeDown (s : State) (a b : Nat) : Bool :=
  if s.links.isEmpty then false else (linksBetween a b).any (fun l => (s.links.getD l {}).down)

/-- A fabric port refuses every packet but control packets until its module is ready (R384). -/
def State.portShut (s : State) (a b : Nat) : Bool :=
  moduleOfDie a != moduleOfDie b && ((s.module (moduleOfDie a)).state != .ready || (s.module (moduleOfDie b)).state != .ready)

/-- Why a packet from one die cannot reach another, as the SUB of its `REMOTE_FAULT`: 1 where a port is shut, which counts as
an absent module, and 2 where a link on the way is down (R10, R279, R384; log 28). -/
def State.blockedWay (s : State) (a b : Nat) : Option Nat :=
  if s.portShut a b then some 1 else if s.routeDown a b then some 2 else none

/-- An answer on its way back, which takes a route of its own: where that is blocked the requester learns of it in the answer's
stead (R10, R279; log 28). -/
def State.answerWay (s : State) (a b : Nat) (c : Cause) (sub : Nat) : Cause × Nat :=
  match s.blockedWay a b with
  | some k => (.remoteFault, k)
  | none => (c, sub)

/-! ## Targets -/

/-- A field of a launch block's word (R285). -/
def Launch.f (l : Launch) (w : Fin 16) (lo n : Nat) : Nat := field l.words[w] lo n
def Launch.win (l : Launch) : Bool := l.f 0 4 1 == 1
def Launch.teamCount (l : Launch) : Nat := l.f 0 16 16

/-- Where a packet goes. -/
inductive Target where
  | ok (core : Nat)
  | fault (c : Cause) (sub : Nat)
  /-- The team is stopped or saved: refused for retry (R339). -/
  | retry
  deriving DecidableEq, Repr

/-- The launch of the team on a core. -/
def State.launchOf (s : State) (core : Nat) : Option Launch :=
  match (s.core core).team with
  | some t => s.launches.get? t.launch
  | none => none

/-- No member of a gang is still to be stopped: its `STOP` has completed, or it is saved, halted or gone (R367). -/
def State.gangStopped (s : State) (id : Nat) (l : Launch) : Bool :=
  l.teams.zipIdx.all (fun (t, i) => (t.fate != .running && t.fate != .held) || t.saved || (match t.core with
    | some c => (s.core c).team.all (fun x => x.launch != id || x.index != i || x.status == .stopped || x.status == .halted)
    | none => true))

/-- A team counts as stopped for what is sent to its core (R339); the members of a gang that holds a window begin to do so
together, once the `STOP` of every one has completed, and each does so until its own START (R367). -/
def State.countsStopped (s : State) (tm : Team) : Bool :=
  tm.status == .stopped && (tm.latched || (match s.launches.get? tm.launch with
    | some l => !l.win || s.gangStopped tm.launch l
    | none => true))

/-- A window member, seen from a core of the gang (R19, R297, R298). -/
def State.memberTarget (s : State) (core member : Nat) : Target :=
  match s.launchOf core with
  | none => .fault .pluralDetached 0
  | some l =>
    match l.teams[member]? with
    | none => .fault .pluralDetached 0
    | some t =>
      if !l.win then .fault .pluralDetached 0
      else if t.saved then (if t.gone then .fault .pluralDetached 0 else .retry)
      else match t.fate, t.core with
        | .running, some c | .held, some c =>
          match (s.core c).team with
          | some tm =>
            if tm.mdet || tm.status == .halted then .fault .pluralDetached 0
            else if s.countsStopped tm then .retry
            else .ok c
          | none => .fault .pluralDetached 0
        | _, _ => .fault .pluralDetached 0

/-- Firmware runs on a supervisor core without a launched team (R323). -/
def State.hasFirmware (s : State) (core : Nat) : Bool :=
  kindOfCore core == .super && (List.range 8).any (fun i => (s.thread (8 * core + i)).status != .absent)

/-- The team saved from a core (R339). -/
def State.savedAt (s : State) (core : Nat) : Option SavedTeam := s.saved.find? (fun x => x.home == core)

/-- A core addressed in core-space form by a requester of a partition; firmware is not refused for partition, and units'
messages and trap messages (`system`) not at all, but a stopped or saved team takes none (R19, R162, R273, R334, R339,
R392). -/
def State.coreTarget (s : State) (part : Option Nat) (core : Nat) (system : Bool) : Target :=
  if system then
    match (s.core core).team with
    | some t => if s.countsStopped t then .retry else .ok core
    | none => if (s.savedAt core).isSome && !s.hasFirmware core then .retry else .ok core
  else
    let own := s.partOfCore core
    if part.isSome && own != part || part.isNone && !(s.module (moduleOfCore core)).powered then .fault .remoteFault 1
    else match (s.core core).team with
      | some t =>
        if part.isSome && t.part != part then .fault .remoteFault 0
        else if s.countsStopped t then .retry
        else .ok core
      | none =>
        match s.savedAt core with
        | some x => if part.isSome && x.part != part then .fault .remoteFault 0 else .retry
        | none => if part.isNone && s.hasFirmware core then .ok core else .fault .remoteFault 0

/-- The core that a packet of a requester `src` goes to, on the route from where it stands (R10, R279). -/
def State.targetFrom (s : State) (from_ src : Nat) (part : Option Nat) (form : AddrForm) : Target :=
  let t := match form with
    | .core c _ => s.coreTarget part c false
    | .window m _ => s.memberTarget src m
    | _ => .fault .pageFault 1
  match t with
  | .ok c =>
    match s.blockedWay (dieOfCore from_) (dieOfCore c) with
    | some sub => .fault .remoteFault sub
    | none => .ok c
  | t => t

/-- The core that a request's packet goes to. -/
def State.target (s : State) (src : Nat) (part : Option Nat) (form : AddrForm) : Target := s.targetFrom src src part form

/-- The offset of a core-space or window address. -/
def AddrForm.off : AddrForm → Nat
  | .core _ o | .window _ o => o
  | _ => 0

/-- An access of `n` bytes at the target lies in its scratchpad and accumulator storage, for a member in its scratchpad
(R19). -/
def State.targetRange (s : State) (core : Nat) (form : AddrForm) (n : Nat) : Bool :=
  match form with
  | .window _ o => decide (o + n ≤ s.scratchEnd core)
  | f => decide (f.off + n ≤ s.accEnd core)

/-! ## Streams -/

/-- A packet still holds its place on its stream (R266). -/
def Req.queued (r : Req) : Bool :=
  match r.st with
  | .waiting | .refused | .faulted _ | .joined _ => true
  | _ => false

/-- The core that a packet is bound for, whatever its target would answer. -/
def State.boundFor (s : State) (r : Req) : Option Nat :=
  match addrForm r.ea with
  | .core c _ => some c
  | .window m _ =>
    match s.launchOf r.src with
    | some l => (l.teams[m]?).bind (fun t => t.core)
    | none => none
  | _ => none

def Req.isMessage (r : Req) : Bool :=
  match r.body with
  | .message .. => true
  | _ => false

/-- Two packets of a stream stay in their order: requests to one point of order, or messages to one receive queue (R251). -/
def State.sameOrder (s : State) (x r : Req) : Bool :=
  x.isMessage == r.isMessage && (match s.boundFor x, s.boundFor r with
    | some a, some b => a == b
    | _, _ => true)

/-- The request has joined another in a switch (R233). -/
def Req.isJoined (r : Req) : Bool :=
  match r.st with
  | .joined _ => true
  | _ => false

/-- The packet has been refused, and its stream is blocked or frozen (R273, R276). -/
def Req.stops (r : Req) : Bool :=
  match r.st with
  | .refused | .faulted _ => true
  | _ => false

def Req.isFaulted (r : Req) : Bool :=
  match r.st with
  | .faulted _ => true
  | _ => false

/-- No earlier packet of its stream holds the packet back: none that is refused, and none of those whose order it keeps
(R251, R266); packets on no stream never wait. -/
def State.atHead (s : State) (r : Req) : Bool :=
  match r.stream with
  | none => true
  | some k => (s.reqs.takeWhile (fun x => x.id != r.id)).all (fun x =>
      !(x.src == r.src && x.stream == some k && x.queued) || (!x.stops && !s.sameOrder x r))

/-- A stream of a core is frozen (R276). -/
def State.isFrozen (s : State) (core stream : Nat) : Bool := (s.core core).frozen.getLsbD stream

/-- Messages that have not left a core that is halted or whose team is stopped, or is being stopped, stay staged (R335, R337,
R339); but
packets leave in their order, and where a request is to leave behind one, it leaves (R266). -/
def State.staysPut (s : State) (r : Req) : Bool :=
  match r.body with
  | .message _ 0 _ =>
    !r.left && ((s.core r.src).team.any (fun t => t.status == .stopped || t.status == .halted)
      || (s.core r.src).halt.isSome || (s.core r.src).chans[0].stopping)
      && s.reqs.all (fun x => !(x.src == r.src && x.stream == r.stream && x.queued) || x.isMessage || decide (x.id < r.id))
  | _ => false

/-- A packet of a channel that its target has refused for retry blocks the channel's stream (R266, R273). -/
def State.channelBlocked (s : State) (core stream : Nat) : Bool :=
  decide (12 ≤ stream) && ((s.core core).chans[stream - 12]?).any (fun k => k.blocked.isSome)

/-- The packet may be performed now: it waits, nothing earlier of its stream holds it back, and the stream is not frozen, or it
had left before the packet whose fault froze it. -/
def State.mayGo (s : State) (r : Req) : Bool :=
  r.st == .waiting && !s.staysPut r && s.atHead r && (match r.stream with
    | some k => r.underway || (!s.isFrozen r.src k && !s.channelBlocked r.src k)
    | none => true)

/-- A packet has come to its target, so the packets ahead of it on its stream have left their core (R266); the messages among
them count as sent (R267, R338). -/
def State.seen (s : State) (r : Req) : State :=
  match r.stream with
  | none => s
  | some k =>
    let ahead := (s.reqs.takeWhile (fun x => x.id != r.id)).filter (fun x =>
      x.src == r.src && x.stream == some k && x.st == .waiting && !x.underway)
    if ahead.isEmpty then s
    else
      let n := ahead.countP (fun x => x.isMessage && !x.left)
      let s := s.modCore r.src (fun c => { c with
        sent := Vector.ofFn (fun i => if i.val = k then c.sent[i] + BitVec.ofNat 32 n else c.sent[i]) })
      { s with reqs := s.reqs.map (fun x => if ahead.any (fun y => y.id == x.id) then { x with underway := true, left := true }
                                            else x) }

def State.req? (s : State) (id : Nat) : Option Req := s.reqs.find? (fun r => r.id == id)
def State.updReq (s : State) (id : Nat) (f : Req → Req) : State :=
  { s with reqs := s.reqs.map (fun r => if r.id = id then f r else r) }
def State.dropReq (s : State) (id : Nat) : State := { s with reqs := s.reqs.filter (fun r => r.id != id) }

/-- The event that performs a packet. -/
def Req.event (r : Req) : Instr :=
  match r.body with
  | .read .. | .write .. => .remoteRequestArrival r.id
  | .amo .. => .atomicExecute r.id
  | .acc .. => .accArrival r.id
  | .fold .. => .foldArrival r.id
  | .message .. => .messageArrival r.id
  | .bump .. => .remoteBumpArrival r.id
  | .resume .. => .resumeArrival r.id
  | .gain .. => .gainApply r.id

/-- The packets of a stream that nothing holds back any longer go on their way. -/
def State.kick (s : State) (src : Nat) (stream : Option Nat) : State :=
  match stream with
  | none => s
  | some k => s.emits (((s.reqs.filter (fun x => x.src == src && x.stream == some k && s.mayGo x)).map Req.event).filter
      (fun e => !s.agenda.contains e))

/-- A new packet enters its injection queue. -/
def State.inject (s : State) (r : Req) : Nat × State :=
  let (id, s) := s.fresh
  (id, State.emit { s with reqs := s.reqs ++ [{ r with id }] } (Req.event { r with id }))

/-- A packet has been performed: it leaves, and its stream goes on. -/
def State.performed (s : State) (r : Req) : State := (s.dropReq r.id).kick r.src r.stream

def setBit16 (x : BitVec 16) (k : Nat) : BitVec 16 := x ||| (1#16 <<< k)
def clearBit16 (x : BitVec 16) (k : Nat) : BitVec 16 := x &&& ~~~(1#16 <<< k)

/-- A refusal with a fault freezes the stream at its source, and the target refuses it until resumption (R276). -/
def State.freeze (s : State) (src stream : Nat) (dst : Option Nat) : State :=
  let s := s.modCore src (fun k => { k with frozen := setBit16 k.frozen stream })
  match dst with
  | some d => s.modCore d (fun k => { k with refusing := (src, stream) :: k.refusing.filter (fun e => e != (src, stream)) })
  | none => s

/-- A packet accepted from a stream ends what the target refuses of it (R276). -/
def State.heard (s : State) (dst src : Nat) (stream : Option Nat) : State :=
  match stream with
  | some k =>
    if (s.core dst).refusing.isEmpty then s
    else s.modCore dst (fun c => { c with refusing := c.refusing.filter (fun e => e != (src, k)) })
  | none => s

/-- The stream thaws: its faulted packet, or its next one, is marked first after resumption and goes on its way, and what it
does not hold back (R161, R277). -/
def State.thaw (s : State) (src stream : Nat) : State :=
  let s := s.modCore src (fun k => { k with frozen := clearBit16 k.frozen stream })
  let on := s.reqs.filter (fun x => x.src == src && x.stream == some stream && x.queued && !x.underway)
  let first := (on.find? Req.isFaulted).orElse (fun _ => on.head?)
  State.kick { s with reqs := s.reqs.map (fun r =>
    if first.any (fun x => x.id == r.id) then { r with first := true, st := .waiting }
    else if r.src = src ∧ r.stream = some stream ∧ r.isFaulted = true then { r with st := .waiting }
    else r) } src (some stream)

/-- A long-latency instruction has written its registers. -/
def State.endOutstanding (s : State) (tid id : Nat) : State :=
  s.modThread tid (fun t => { t with outstanding := t.outstanding.filter (fun o => o.id != id) })

/-- A long-latency instruction has ended in a fault that leaves its registers (R37). -/
def State.faultOutstanding (s : State) (tid id : Nat) : State :=
  s.modThread tid (fun t => { t with
    outstanding := t.outstanding.map (fun o => if o.id = id then { o with ended := true } else o) })

/-- A packet sent again may write its registers after all, and what reads them waits once more (R277). -/
def State.reviveOutstanding (s : State) (tid id : Nat) : State :=
  s.modThread tid (fun t => { t with
    outstanding := t.outstanding.map (fun o => if o.id = id then { o with ended := false } else o) })

/-- A thread that exists and can take a trap. -/
def Thread.alive (t : Thread) : Bool :=
  match t.status with
  | .running | .waiting | .stopped => true
  | _ => false

/-- A cause becomes pending at a thread that still exists. -/
def State.pendAlive (s : State) (tid : Nat) (t : TrapInfo) : State := if (s.thread tid).alive then s.pend tid t else s

/-- A packet is refused with a fault: its stream freezes and the refusal goes back (R276). -/
def State.refuse (s : State) (r : Req) (dst : Option Nat) (c : Cause) (sub : Nat) : State :=
  let k := r.stream.getD 0
  let s := match r.stream with
    | some k => s.freeze r.src k dst
    | none => s
  (s.updReq r.id (fun x => { x with
    underway := false, st := .faulted { cause := c, sub, origin := 4, unit := k, addr := r.ea } })).emit (.refusalReturn r.id)

/-! ## Channels and their remote bumps (R155, R162) -/

def State.chan (s : State) (core : Nat) (ch : Fin 4) : ChannelState := (s.core core).chans[ch]
def State.modChan (s : State) (core : Nat) (ch : Fin 4) (f : ChannelState → ChannelState) : State :=
  s.modCore core (fun k => { k with chans := k.chans.set ch.val (f k.chans[ch]) ch.isLt })

/-- A channel's number as an event names it. -/
def chOf (ch : Nat) : Fin 4 := Fin.ofNat 4 ch

/-- A remote bump is refused: its channel is faulted, holds the bump, and its stream freezes; one of a lookup operation ends in
a trap of its thread (R160–R162, R201).  DESIGN CHOICE: of a channel that stands faulted already the bump's fault takes the
earlier one's place (log 9). -/
def State.refuseBump (s : State) (r : Req) (cause : Cause) (sub : Nat) : State :=
  match r.body with
  | .bump counter (some (k, len, chained)) =>
    let c := chOf k
    let owner := if chained then (s.chan r.src c).kicker else r.tid
    let s := (s.dropReq r.id).freeze r.src (12 + c.val) r.dst
    let s := s.modChan r.src c (fun x => { x with
      fault := some { cause, sub, addr := r.ea, bump := true }, held := some (r.tid, counter, r.ea, len, chained) })
    s.pendAlive owner { cause, sub, origin := 1, unit := c.val, addr := r.ea }
  | _ => (s.performed r).pendAlive r.tid { cause, sub, origin := 2, addr := r.ea }

/-- Staging bytes in use: the payloads of messages that have not left (R267, R278). -/
def State.staged (s : State) (core : Nat) : Nat :=
  s.reqs.foldl (fun n r => if r.src = core ∧ r.queued = true ∧ r.underway = false then
    (match r.body with
     | .message _ 0 p => n + p.length
     | _ => n) else n) 0

end Sys2Proof.Machine
end

