-- ==== Sys2Proof/Machine/Cache.lean ====
section
/-!
DEFINITION. Sys2Proof/Machine/Cache.lean: cache and TLB maintenance, and the events of the caches, walkers, trackers and
scrubbers (R54–R56, R137–R152; functions 0–2 of major 0x13).
-/
namespace Sys2Proof.Machine

/-- Translation of an operand of a cache instruction, as a read (R142). -/
def State.cacheOperand (s : State) (a : Word) (k : Place → Res) : Res :=
  match addrForm a with
  | .dram va =>
    let x : Miss := { req := reqThread s.cur, core := s.myCore, part := s.partOfThread s.cur, va, sup := s.src.sup }
    match s.translate x s.src.sup .read with
    | .ok p => k p
    | .miss => .again (some x)
    | .fault c sub => trapOf (s.dropWalks (reqThread s.cur)) c a sub
  | _ => trapOf s .pageFault a 1

/-- `CCLEAN` (R142). -/
def execCclean (g : Guard) (a : GReg) (s : State) : Host.Outcome State Fault Refusal :=
  issue (metaG 0x13 g [] [a]) s (fun s =>
    s.cacheOperand (s.g a) (fun p =>
      if p.memside s.myCore then .retire s
      else match s.cacheLine s.myQuad p.pa with
      | some l => .retire ((s.cleanLine s.myQuad l).prunePage s.myModule (p.pa / 2 ^ 16))
      | none => .retire s))

/-- `CINV` (R142). -/
def execCinv (g : Guard) (a : GReg) (s : State) : Host.Outcome State Fault Refusal :=
  issue (metaG 0x13 g [] [a]) s (fun s =>
    s.cacheOperand (s.g a) (fun p =>
      if p.memside s.myCore then .retire s
      else match s.cacheLine s.myQuad p.pa with
      | some l => .retire (s.evictLine s.myQuad l)
      | none => .retire s))

/-! ## `TLBINV` (R150, R151) -/

/-- The entries of one quad that stay after an invalidation of `asid` (none for every ASID) at `va` (none for every
address). -/
def Quad.invalidate (q : Quad) (asid va : Option Nat) : Quad :=
  let mine := fun (a : Nat) => match asid with
    | some b => a == b
    | none => true
  let hits := fun (e : TlbEntry) => mine e.asid && (match va with
    | some v => e.base == v / 2 ^ e.size
    | none => true)
  { q with tlb := q.tlb.filter (fun e => !hits e), walkCache := q.walkCache.filter (fun e => !mine e.asid) }

/-- A walk in progress is discarded and begins again, from the tables as they now are named (R151). -/
def State.restartWalk (s : State) (w : Walk) : Walk :=
  let p := s.partition w.module w.part
  let (level, table) := walkStart (s.quad w.quad).walkCache p.asid p.root w.va
  { w with asid := p.asid, level, table, failed := none }

/-- Invalidates entries in every TLB and walk cache of a module, and restarts its walks; one that had failed reads again
(R150, R151). -/
def State.invalidateTlbs (s : State) (m : Nat) (asid va : Option Nat) : State :=
  let s : State := { s with quads := s.quads.map (fun (q, k) => if moduleOfQuad q = m then (q, k.invalidate asid va) else (q, k)) }
  let again := (s.walks.filter (fun w => w.module == m && w.failed.isSome)).map (fun w => Instr.pageWalkRead w.id)
  State.emits { s with walks := s.walks.map (fun w => if w.module = m then s.restartWalk w else w) } again

/-- The module in which a request was translated: that of its DRAM address, else its own (R147, R151). -/
def Req.transModule (r : Req) : Nat :=
  match r.body with
  | .amo _ _ _ _ _ (some x) => x.m
  | .acc _ _ x _ | .fold _ x _ => x.m
  | _ => moduleOfCore r.src

/-- A request that left under an earlier translation generation has yet to be accepted, by itself or in one that it has joined
(R151). -/
def State.oldRequests (s : State) (m : Nat) : Bool :=
  let gen := (s.module m).gen.toNat
  s.reqs.any (fun r => r.transModule == m && r.gen != gen && (s.mayGo r || r.isJoined) && (match r.body with
    | .message .. | .bump .. | .resume .. | .gain .. => false
    | _ => true)) ||
  s.lookups.any (fun l => l.rows.any (fun r => r.gen != gen && (match r.st with
    | .served h _ => h == m
    | _ => false)))

/-- A thread of the module waits in `TLBINV`; two of them are serialised (R151). -/
def State.tlbinvBusy (s : State) (m : Nat) : Bool :=
  s.threads.any (fun (tid, t) => moduleOfCore (coreOfThread tid) == m && (match t.wait with
    | some (.tlbinv _) => true
    | _ => false))

/-- What `TLBINV` does before it waits. -/
def State.startTlbinv (s : State) (a b : Word) : State :=
  let m := s.myModule
  let asid := if bit b 13 then none else some (field b 0 12)
  let va := if bit b 12 then none else some a.toNat
  (s.modModule m (fun k => { k with gen := k.gen + 1 })).invalidateTlbs m asid va

/-- `TLBINV` (R150, R151). -/
def execTlbinv (g : Guard) (a b : GReg) (s : State) : Host.Outcome State Fault Refusal :=
  issue { metaG 0x13 g [] [a, b] with priv := true } s (fun s =>
    let m := s.myModule
    let form := match addrForm (s.g a) with
      | .dram _ => true
      | _ => false
    if !bit (s.g b) 12 && !form then trapOf s .pageFault (s.g a) 1
    else if !s.src.granted && s.tlbinvBusy m then .again none
    else await (.tlbinv (s.module m).gen.toNat) (fun s => s.startTlbinv (s.g a) (s.g b)) (fun s => !s.oldRequests m) .retire s)

/-- The row `tlbinvComplete` (R151). -/
def execTlbinvComplete (tid : Nat) (s : State) : Host.Outcome State Fault Refusal :=
  .next (s.wake tid
    (fun w s => match w with
      | .tlbinv _ => !s.oldRequests s.myModule
      | _ => false)
    (fun _ s => .retire s))

/-! ## Events -/

/-- The row `pageWalkRead` (R144–R149). -/
def execPageWalkRead (id : Nat) (s : State) : Host.Outcome State Fault Refusal :=
  match s.walks.find? (fun w => w.id == id && w.failed.isNone) with
  | some w => .next (s.walkOnce w)
  | none => .next s

/-- The row `clusterCacheEviction` (R138, R139). -/
def execClusterCacheEviction (quad line : Nat) (s : State) : Host.Outcome State Fault Refusal :=
  match (s.quad quad).cache.find? (fun l => l.line == line) with
  | none => .next s
  | some l => .next (s.evictLine quad l)

/-- The candidate that comes first: the highest count, the earliest of equals. -/
def hottest : List (Nat × Nat) → Option (Nat × Nat)
  | [] => none
  | e :: es =>
    match hottest es with
    | none => some e
    | some f => if e.2 < f.2 then some f else some e

/-- The records of a pseudo-channel's hottest frames, from rank `r` on (R152). -/
def hotRecords (ch : Nat) : Nat → Nat → List (Nat × Nat) → List Byte
  | 0, _, _ => []
  | fuel + 1, r, l =>
    match hottest l with
    | none => []
    | some (frame, n) =>
      bytesOf 8 (frame * 2 ^ 16) ++ bytesOf 4 n ++ bytesOf 2 ch ++ [BitVec.ofNat 8 r, BitVec.ofNat 8 (frame / 2 ^ 25 % 2)]
        ++ hotRecords ch fuel (r + 1) (l.filter (fun e => e.1 != frame))

/-- The row `hotPageEpoch` (R152); pseudo-channel c of module m is number 2048·m + c. -/
def execHotPageEpoch (chan : Nat) (s : State) : Host.Outcome State Fault Refusal :=
  let m := chan / 2048
  let c := chan % 2048
  let bs := hotRecords c 4 0 ((s.module m).hot.getD c [])
  let s := s.modModule m (fun k => { k with hot := k.hot.erase c, pinnedFrames := k.pinnedFrames.erase c })
  .next (if bs.isEmpty then s else s.hardwareRecord (m * 16 + c / 128) bs)

/-- Registers of a core whose single-bit errors lie in a word of its pool (R129, R137). -/
def State.flippedIn (s : State) (core tid word : Nat) : List RegName :=
  (s.thread (8 * core + tid)).flipRegs.filter (fun r => (Config.registerFileWord tid r.number).toNat / 8 == word)

/-- The row `poolScrub` (R137): a single-bit error of the word is corrected and counted; an uncorrectable word stays
poisoned.  A word of the register file holds registers. -/
def execPoolScrub (core word : Nat) (s : State) : Host.Outcome State Fault Refusal :=
  .next ((List.range 8).foldl (fun s i => s.correctRegs (8 * core + i) (s.flippedIn core i word)) (s.correctWords core [word]))

/-- The line that gives way in an instruction cache of 64 KiB with 8 ways (R54): the one held longest, where the set is full;
which line goes is not architectural (log 8). -/
def fetchVictim (cache : List FetchLine) (line : Nat) : Option Nat :=
  let same := cache.filter (fun x => x.line != line && x.line % 128 == line % 128)
  if 8 ≤ same.length then same.getLast?.map (fun l => l.line) else none

/-- An instruction line enters a quad's cache (R54). -/
def State.fillFetch (s : State) (q : Nat) (l : FetchLine) : State :=
  s.modQuad q (fun k =>
    let gone := fetchVictim k.icache l.line
    { k with icache := l :: k.icache.filter (fun x => x.line != l.line && gone != some x.line)
             asks := k.asks.filter (fun a => a.line != l.line) })

/-- How a quad's fetch of a line was translated. -/
def State.askOf (s : State) (q line : Nat) : FetchAsk := ((s.quad q).asks.find? (fun a => a.line == line)).getD { line }

/-- The quads of a die that wait for a line (R55). -/
def State.joinedFetch (s : State) (d line : Nat) : List Nat :=
  s.agenda.filterMap (fun e => match e with
    | .fetchMissFill q l => if dieOfQuad q = d ∧ l = line then some q else none
    | _ => none)

/-- A quad's cluster cache serves an instruction fill (R138): a line that it holds, unless it is a clean one with a parity
error (R139). -/
def State.heldForFetch (s : State) (q line : Nat) : Option CacheLine :=
  ((s.quad q).cache.find? (fun l => l.line == line)).filter (fun l => l.dirty != 0 || (l.bad == 0 && l.flip == 0))

/-- A line is delivered to a quad: from its cluster cache, or as the agent has read it from DRAM; the line then enters the
cluster cache too, unless its page is memory-side (R55, R138). -/
def State.deliverFetch (s : State) (l : CacheLine) (q : Nat) : State :=
  let a := s.askOf q l.line
  match if a.ms then none else s.heldForFetch q l.line with
  | some h => s.fillFetch q { line := h.line, data := h.data, bad := h.bad != 0 }
  | none =>
    let s := s.fillFetch q { line := l.line, data := l.data, bad := l.bad != 0 }
    if a.ms || l.bad != 0 then s else s.putLine q { l with w := a.w, pin := a.pin }

/-- The row `fetchMissFill` (R55, R138): one DRAM read serves every requester of the die that does not hold the line. -/
def execFetchMissFill (quad line : Nat) (s : State) : Host.Outcome State Fault Refusal :=
  let m := moduleOfQuad quad
  let d := dieOfQuad quad
  let qs := quad :: s.joinedFetch d line
  let s := if qs.all (fun q => !(s.askOf q line).ms && (s.heldForFetch q line).isSome) then s
    else s.readAt m (64 * line) 64 (s.askOf quad line).pin
  let s := qs.foldl (fun s q => s.deliverFetch (s.fetchLine m line false false) q) s
  .next { s with agenda := s.agenda.filter (fun e => match e with
    | .fetchMissFill q k => !(decide (dieOfQuad q = d) && k == line)
    | _ => true) }

end Sys2Proof.Machine
end

