-- ==== Sys2Proof/Machine/Region.lean ====
section
/-!
DEFINITION. Sys2Proof/Machine/Region.lean: reduction regions at the memory-side units: accumulates, arrival counts and
folds (R195, R234–R241).
-/
namespace Sys2Proof.Machine

/-- The fields of `ACCR` (R234). -/
def accrSlot (w : Word) : Nat := field w 58 6
def accrNs (w : Word) : Nat := field w 51 7
def accrF64 (w : Word) : Bool := bit w 50
/-- P and D in bytes. -/
def accrStride (w : Word) : Nat := 32 * field w 25 25
def accrDisp (w : Word) : Nat := 4096 * field w 0 25

/-- The virtual address of slot `j` of the line at `x` (R235). -/
def slotAddr (accr : Word) (x j : Nat) : Nat := x + accrDisp accr + j * accrStride accr

/-- The number under which a module counts a line's arrivals. -/
def lineKey (pa : Nat) : Nat := ownedPa pa / 64

def State.arrivals (s : State) (m pa : Nat) : Nat := (s.module m).arrivals.getD (lineKey pa) 0

/-- a := min(a + 1, 16) (R235, R238). -/
def State.arrive (s : State) (m pa : Nat) : State :=
  s.modModule m (fun k => { k with arrivals := k.arrivals.put (lineKey pa) (Min.min (k.arrivals.getD (lineKey pa) 0 + 1) 16) })

/-- Adds elements, lowest first, into slot bytes at `pa` (R236, R238). -/
def State.addElements (s : State) (m : Nat) (f64 : Bool) : Nat → List Nat → State
  | _, [] => s
  | pa, x :: xs =>
    let w := if f64 then 8 else 4
    (s.unitWrite m pa (bytesOf w (memAdd f64 (s.dramNat m pa w) x))).addElements m f64 (pa + w) xs

/-- One arrival at the line that holds `basePa`: elements added into the slot line (R235, R238). -/
def State.accumulate (s : State) (m : Nat) (f64 : Bool) (basePa slotPa : Nat) (xs : List Nat) : State :=
  (s.addElements m f64 slotPa xs).arrive m basePa

/-- The fold of one element: base plus slots in slot order, each step rounded; the slots become +0 (R236). -/
def State.foldElement (s : State) (m : Nat) (f64 : Bool) (base : Nat) (slots : List Nat) : State :=
  let w := if f64 then 8 else 4
  let v := slots.foldl (fun b p => memAdd f64 b (s.dramNat m p w)) (s.dramNat m base w)
  slots.foldl (fun s p => s.unitWrite m p (bytesOf w 0)) (s.unitWrite m base (bytesOf w v))

/-- A fold of a line at physical addresses (R236), in one step. -/
def State.foldLine (s : State) (m : Nat) (f64 : Bool) (line : Nat) (slots : List Nat) : State :=
  let w := if f64 then 8 else 4
  let s := (List.range (64 / w)).foldl (fun s e => s.foldElement m f64 (line + w * e) (slots.map (· + w * e))) s
  s.modModule m (fun k => { k with arrivals := k.arrivals.put (lineKey line) 0 })

/-- A slot lies outside its base's pseudo-channel, that of another module included (R235, R239, R244). -/
def DramAt.astray (base q : DramAt) : Bool := q.m != base.m || channelOfPa q.pa != channelOfPa base.pa

/-- Where a translated operand lies. -/
def Place.at (p : Place) : DramAt := { m := p.m, pa := p.pa, pin := ptePIN p.pte }

/-- Why a packet of a core cannot reach the unit of a physical address of module `m` (R279, R384). -/
def State.unitDown (s : State) (core m pa : Nat) : Option Nat := s.blockedWay (dieOfCore core) (m * 16 + dieOfPa pa)

/-- Why the unit's answer cannot reach the core (R10). -/
def State.unitCut (s : State) (core m pa : Nat) : Option Nat := s.blockedWay (m * 16 + dieOfPa pa) (dieOfCore core)

end Sys2Proof.Machine
end

