-- ==== Sys2Proof/Machine/Objects.lean ====
section
/-!
DEFINITION. Sys2Proof/Machine/Objects.lean: the Conjunction objects, the test that completes a phase, and the counting of
delivered bytes (R257, R261).
-/
namespace Sys2Proof.Machine

/-- A Conjunction object: the holder and the object's number there. -/
inductive ObjRef where
  | quad (q : Nat) (o : Fin 16)
  | die (d : Nat) (o : Fin 16)
  | module (m : Nat) (o : Fin 16)
  | pod (part : Nat) (o : Fin 16)
  deriving DecidableEq, Repr

def State.obj (s : State) : ObjRef → Conj
  | .quad q o => (s.quad q).objs[o]
  | .die d o => (s.die d).objs[o]
  | .module m o => (s.module m).objs[o]
  | .pod p o => s.podObjs.getD (16 * p + o.val) {}

def State.setObj (s : State) (r : ObjRef) (x : Conj) : State :=
  match r with
  | .quad q o => s.modQuad q (fun k => { k with objs := k.objs.set o.val x o.isLt })
  | .die d o => s.modDie d (fun k => { k with objs := k.objs.set o.val x o.isLt })
  | .module m o => s.modModule m (fun k => { k with objs := k.objs.set o.val x o.isLt })
  | .pod p o => { s with podObjs := s.podObjs.put (16 * p + o.val) x }

/-- The phase is complete (R257). -/
def Conj.complete (c : Conj) : Bool := c.memb != 0 && (c.memb &&& ~~~c.arrv) == 0 && c.bytes == 0

/-- The test of R257 after every change of an object; `tid` is the thread whose action it was, and `ga` the object's operand,
for the trace record (R344). -/
def State.objTest (s : State) (r : ObjRef) (tid : Nat) (ga : Word) : State :=
  let c := s.obj r
  if c.complete then
    (s.setObj r { c with phase := c.phase + 1, arrv := 0, expf := false }).trace (coreOfThread tid) 6 0x0600 (threadIndex tid) 0 ga
      ((c.phase + 1).setWidth 64)
  else s

/-- The thread with a member bit at a quad object. -/
def threadOfMember (q bit : Nat) : Nat :=
  if q % 64 < 32 then 8 * (q / 64 * 256 + 4 * (q % 64) + bit / 8) + bit % 8 else 8 * (q / 64 * 256 + 96 + q % 64) + bit

/-- A trap message in place of a thread that is gone, to entry 0 of its die's chain (R261, R334). -/
def State.orphanTrap (s : State) (tid : Nat) (t : TrapInfo) : State :=
  let c := coreOfThread tid
  let d := dieOfCore c
  let sup := superOfDie d
  s.send { id := 0, tid, src := c, stream := some 0, ea := coreSpace sup 0, dst := some sup, part := s.partOfCore c
           body := .message t.cause.code 2 (bytesOf 8 0 ++ bytesOf 8 t.tcause.toNat ++ bytesOf 8 t.addr.toNat ++ bytesOf 24 0
             ++ bytesOf 4 (threadWord tid) ++ bytesOf 4 0 ++ bytesOf 8 ((s.die d).hchain.toNat / 2 ^ 16 * 2 ^ 16 + 4)) }

/-- A cause reaches the thread that posted a byte count, at its next boundary or when its team resumes, and the die's
supervisor where the thread has ended (R261). -/
def State.toPoster (s : State) (tid : Nat) (team : Option (Nat × Nat)) (t : TrapInfo) : State :=
  match team with
  | none => if (s.thread tid).alive then s.pend tid t else s.orphanTrap tid t
  | some (launch, index) =>
    let i := threadIndex tid
    match s.saved.find? (fun x => x.launch == launch && x.index == index) with
    | some _ =>
      { s with saved := s.saved.map (fun x =>
          if x.launch = launch ∧ x.index = index then { x with pending := x.pending ++ [(i, t)] } else x) }
    | none =>
      let core := ((s.launches.get? launch).bind (fun l => (l.teams[index]?).bind (fun x => x.core))).getD (coreOfThread tid)
      if (s.core core).team.any (fun x => x.launch == launch && x.index == index) && (s.thread (8 * core + i)).alive then
        s.pend (8 * core + i) t
      else s.orphanTrap tid t

/-- Bytes accepted count at a quad object, in its phase in progress (R261); BYTES saturates at 2^39 − 1.  `tid` is the thread
whose entry delivered them. -/
def State.countBytes (s : State) (quad obj n tid : Nat) : State :=
  let r := ObjRef.quad quad (Fin.ofNat 16 obj)
  let c := s.obj r
  let bytes := Min.min (c.bytes + n) (2 ^ 39 - 1)
  let s := s.setObj r { c with bytes }
  if c.expf && decide (0 < bytes) then
    s.toPoster (threadOfMember quad c.poster) c.posterTeam { cause := .barrierOverrun, origin := 5, addr := c.posterGa }
  else s.objTest r tid (Word.of (256 + obj % 16))

end Sys2Proof.Machine
end

