-- ==== Sys2Proof/WellFormed.lean ====
section
/-!
DEFINITION. Sys2Proof/WellFormed.lean: which instructions the encoding tables admit.  Register numbers are in range by
their types; what is left are the guard, the literal fields and the extension words.
-/
namespace Sys2Proof

/-- Guard `1000` is reserved (R33). -/
def Guard.ok (g : Guard) : Bool := !(g.neg && g.p == 0)

/-- `CVT` may not target `NONE` or `N4` (R94). -/
def cvtTarget (t : Tag) : Bool := t != .none && t != .n4

/-- A field of the extension word. -/
def extField (x : BitVec 32) (lo n : Nat) : Nat := x.toNat / 2 ^ lo % 2 ^ n

/-- The extension word of majors 0x24 and 0x25 (R157); with RE = 0 field b is unused and must be `g0` (R156). -/
def transferExtOk (stow : Bool) (x : BitVec 32) (b : GReg) : Bool :=
  let land := extField x 18 3
  let pub := extField x 15 1
  (land ≤ 5) && (stow || land == 0) && (3 ≤ land || extField x 21 6 == 0)
    && (pub == 1 || extField x 16 2 == 0) && (pub == 0 || land == 0)
    && (extField x 12 3 ≤ 5)
    && (extField x 7 1 == 1 || extField x 8 4 == 0)
    && (extField x 2 1 == 1 || extField x 3 4 == 0)
    && (extField x 7 1 == 1 || b == 0)

/-- The extension word of `DZERO` and `DCOPY`: CH, LE, LCC and SCOPE; every other bit is reserved (R175). -/
def rowCommandExtOk (x : BitVec 32) : Bool :=
  (extField x 15 17 == 0) && (extField x 7 5 == 0) && (extField x 12 3 ≤ 5)
    && (extField x 2 1 == 1 || extField x 3 4 == 0)

/-- The extension word of major 0x2A (R190). -/
def gatherExtOk (wide : Bool) (x : BitVec 32) : Bool :=
  (extField x 22 10 == 0) && (extField x 0 2 == 0) && (extField x 12 3 ≤ 5)
    && (extField x 7 1 == 1 || extField x 8 4 == 0) && (wide || extField x 7 1 == 0)
    && (extField x 2 1 == 1 || extField x 3 4 == 0)

/-- The extension word of major 0x2B (R199). -/
def segExtOk (scat : Bool) (x : BitVec 32) : Bool :=
  (extField x 16 16 == 0) && (extField x 0 2 == 0) && !(scat && extField x 14 2 == 2)
    && (extField x 2 1 == 1 || extField x 3 4 == 0)

/-- The extension word of major 0x33 (R275). -/
def remoteExtOk (store : Bool) (x : BitVec 32) : Bool :=
  (extField x 7 25 == 0) && (extField x 3 4 ≤ 11) && !(store && extField x 2 1 == 1)

/-- The extension word of major 0x37 (R302). -/
def windowExtOk (store : Bool) (x : BitVec 32) : Bool :=
  (extField x 3 29 == 0) && !(store && extField x 2 1 == 1)

/-- The system-register numbers that R324 lists. -/
def sysRegAssigned (n : Nat) : Bool := n ≤ 0x54 || (0x58 ≤ n && n ≤ 0x67)

/-- The numbers whose `MTS` is not a row of its own: all but `ACCR`, `PUB0`–`PUB3`, `WQRING0`–`WQRING7`, `ICINV` and
`ASGPART`. -/
def mtsPlain (n : Nat) : Bool :=
  sysRegAssigned n && !(n == 0x0C || (0x1C ≤ n && n ≤ 0x1F) || (0x3C ≤ n && n ≤ 0x43) || n == 0x45 || n == 0x54)


/-- How many 32-bit words an instruction takes (R28, R32); an event row has none. -/
def Instr.words (i : Instr) : Nat :=
  match i with
  | .add _ _ _ _ => 1
  | .sub _ _ _ _ => 1
  | .and _ _ _ _ => 1
  | .or _ _ _ _ => 1
  | .xor _ _ _ _ => 1
  | .andn _ _ _ _ => 1
  | .shl _ _ _ _ => 1
  | .shr _ _ _ _ => 1
  | .sar _ _ _ _ => 1
  | .rol _ _ _ _ => 1
  | .mul _ _ _ _ => 1
  | .mulh _ _ _ _ => 1
  | .mulhz _ _ _ _ => 1
  | .div _ _ _ _ => 1
  | .divz _ _ _ _ => 1
  | .rem _ _ _ _ => 1
  | .remz _ _ _ _ => 1
  | .min _ _ _ _ => 1
  | .max _ _ _ _ => 1
  | .minz _ _ _ _ => 1
  | .maxz _ _ _ _ => 1
  | .clz _ _ _ => 1
  | .ctz _ _ _ => 1
  | .popc _ _ _ => 1
  | .sextB _ _ _ => 1
  | .sextH _ _ _ => 1
  | .sextW _ _ _ => 1
  | .zextB _ _ _ => 1
  | .zextH _ _ _ => 1
  | .zextW _ _ _ => 1
  | .bext _ _ _ _ => 1
  | .bins _ _ _ _ => 1
  | .bextDw _ _ _ _ _ => 2
  | .binsDw _ _ _ _ _ => 2
  | .addi _ _ _ _ => 1
  | .andi _ _ _ _ => 1
  | .ori _ _ _ _ => 1
  | .xori _ _ _ _ => 1
  | .addiDw _ _ _ _ => 2
  | .andiDw _ _ _ _ => 2
  | .oriDw _ _ _ _ => 2
  | .xoriDw _ _ _ _ => 2
  | .shli _ _ _ _ => 1
  | .shri _ _ _ _ => 1
  | .sari _ _ _ _ => 1
  | .limm _ _ _ => 1
  | .limmh _ _ _ => 1
  | .addpc _ _ _ => 1
  | .limmDw _ _ _ => 2
  | .limmhDw _ _ _ => 2
  | .addpcDw _ _ _ => 2
  | .cmpCc _ _ _ _ _ => 1
  | .cmpiCcLow _ _ _ _ _ => 1
  | .cmpiCcHigh _ _ _ _ _ => 1
  | .cmpiDw _ _ _ _ _ => 2
  | .pand _ _ _ _ => 1
  | .por _ _ _ _ => 1
  | .pxor _ _ _ _ => 1
  | .pnot _ _ _ => 1
  | .pmov _ _ _ => 1
  | .br _ _ => 1
  | .call _ _ => 1
  | .jr _ _ => 1
  | .ret _ => 1
  | .rot _ => 1
  | .stage _ _ => 1
  | .nop _ => 1
  | .hint _ _ => 1
  | .loop _ _ _ _ => 1
  | .loopP _ _ _ _ => 1
  | .loopDw _ _ _ _ _ => 2
  | .ldb _ _ _ _ => 1
  | .ldh _ _ _ _ => 1
  | .ldw _ _ _ _ => 1
  | .ldd _ _ _ _ => 1
  | .ldbz _ _ _ _ => 1
  | .ldhz _ _ _ _ => 1
  | .ldwz _ _ _ _ => 1
  | .stb _ _ _ _ => 1
  | .sth _ _ _ _ => 1
  | .stw _ _ _ _ => 1
  | .std _ _ _ _ => 1
  | .ldbDw _ _ _ _ => 2
  | .ldhDw _ _ _ _ => 2
  | .ldwDw _ _ _ _ => 2
  | .lddDw _ _ _ _ => 2
  | .ldbzDw _ _ _ _ => 2
  | .ldhzDw _ _ _ _ => 2
  | .ldwzDw _ _ _ _ => 2
  | .stbDw _ _ _ _ => 2
  | .sthDw _ _ _ _ => 2
  | .stwDw _ _ _ _ => 2
  | .stdDw _ _ _ _ => 2
  | .vld _ _ _ _ => 1
  | .vst _ _ _ _ => 1
  | .vldDw _ _ _ _ => 2
  | .vstDw _ _ _ _ => 2
  | .vlds _ _ _ _ => 1
  | .vsts _ _ _ _ => 1
  | .vgathl _ _ _ _ => 1
  | .vscatl _ _ _ _ => 1
  | .cclean _ _ => 1
  | .cinv _ _ => 1
  | .tlbinv _ _ _ => 1
  | .tlbinvComplete _ => 0
  | .dclset _ _ => 1
  | .sylset _ _ _ => 1
  | .vldd _ _ _ _ => 1
  | .vldp _ _ _ _ => 1
  | .vlddDw _ _ _ _ => 2
  | .vldpDw _ _ _ _ => 2
  | .vadd _ _ _ _ => 1
  | .vsub _ _ _ _ => 1
  | .vmul _ _ _ _ => 1
  | .vmin _ _ _ _ => 1
  | .vmax _ _ _ _ => 1
  | .vabs _ _ _ => 1
  | .vneg _ _ _ => 1
  | .vand _ _ _ _ => 1
  | .vor _ _ _ _ => 1
  | .vxor _ _ _ _ => 1
  | .vshl _ _ _ _ => 1
  | .vshr _ _ _ _ => 1
  | .vsar _ _ _ _ => 1
  | .vaddS _ _ _ _ => 1
  | .vsubS _ _ _ _ => 1
  | .vsel _ _ _ _ _ => 1
  | .vfma _ _ _ _ => 1
  | .vfms _ _ _ _ => 1
  | .vnfma _ _ _ _ => 1
  | .vdot _ _ _ _ => 1
  | .vdotf _ _ _ _ => 1
  | .vcmpCc _ _ _ _ _ => 1
  | .vredAdd _ _ _ => 1
  | .vredMin _ _ _ => 1
  | .vredMax _ _ _ => 1
  | .vscanAdd _ _ _ => 1
  | .vscanMin _ _ _ => 1
  | .vscanMax _ _ _ => 1
  | .vperm _ _ _ _ => 1
  | .vbcast _ _ _ => 1
  | .vext _ _ _ _ => 1
  | .vins _ _ _ _ => 1
  | .vrcp _ _ _ => 1
  | .vrsq _ _ _ => 1
  | .vexp2 _ _ _ => 1
  | .vlog2 _ _ _ => 1
  | .vtanh _ _ _ => 1
  | .vsigm _ _ _ => 1
  | .vlong _ => 1
  | .vshort _ => 1
  | .cvtRne _ _ _ _ => 1
  | .cvtRtz _ _ _ _ => 1
  | .cvtRup _ _ _ _ => 1
  | .cvtRdn _ _ _ _ => 1
  | .cvtSat _ _ _ _ => 1
  | .qn4 _ _ _ _ => 1
  | .dqn4 _ _ _ _ => 1
  | .qscale _ _ _ _ => 1
  | .tagset _ _ _ => 1
  | .tagget _ _ _ => 1
  | .fclass _ _ _ => 1
  | .draw _ _ _ _ _ => 1
  | .stow _ _ _ _ _ => 1
  | .draws _ _ _ _ _ => 1
  | .stows _ _ _ _ _ => 1
  | .drawDw _ _ _ _ _ _ => 2
  | .stowDw _ _ _ _ _ _ => 2
  | .drawsDw _ _ _ _ _ _ => 2
  | .stowsDw _ _ _ _ _ _ => 2
  | .dzero _ _ _ _ => 1
  | .dcopy _ _ _ _ _ => 1
  | .dzeroDw _ _ _ _ _ => 2
  | .dcopyDw _ _ _ _ _ _ => 2
  | .chain _ _ _ => 1
  | .kick _ _ => 1
  | .cwait _ _ _ => 1
  | .cwaitSatisfied _ => 0
  | .cpost _ _ _ => 1
  | .wpwait _ _ _ => 1
  | .wpwaitSatisfied _ => 0
  | .publish _ _ _ => 1
  | .publishToggle _ => 0
  | .channelEntryStart _ _ => 0
  | .chainEntryStep _ _ => 0
  | .operationPacket _ _ => 0
  | .dramRequestAccept _ _ => 0
  | .ownershipDecision _ _ => 0
  | .clusterCacheEviction _ _ => 0
  | .entryComplete _ _ => 0
  | .remoteBumpArrival _ => 0
  | .channelFault _ _ _ _ _ => 0
  | .chstFaultResume _ _ => 0
  | .chstAbort _ _ => 0
  | .rowCommandPiece _ _ => 0
  | .landingPacket _ _ => 0
  | .pageWalkRead _ => 0
  | .hotPageEpoch _ => 0
  | .poolScrub _ _ => 0
  | .fetchMissFill _ _ => 0
  | .tblset _ _ _ => 1
  | .tblsetComplete _ => 0
  | .idhash _ _ _ _ => 1
  | .rowwait _ _ => 1
  | .rowwaitSatisfied _ => 0
  | .rowacc _ _ _ => 1
  | .rowset _ _ _ => 1
  | .elide _ _ two _ _ _ => if two then 2 else 1
  | .elidem _ _ two _ _ _ => if two then 2 else 1
  | .elisionComplete _ => 0
  | .rowget _ _ _ _ _ => 1
  | .rowgetw _ _ _ _ _ => 1
  | .rowgetDw _ _ _ _ _ _ => 2
  | .rowgetwDw _ _ _ _ _ _ => 2
  | .segred _ _ _ _ _ => 1
  | .segscat _ _ _ _ _ => 1
  | .segredDw _ _ _ _ _ _ => 2
  | .segscatDw _ _ _ _ _ _ => 2
  | .lookupOpStart _ => 0
  | .rowRequestMerge _ _ _ _ => 0
  | .rowRequestServe _ _ => 0
  | .rowRead _ _ => 0
  | .rowAccumulate _ _ => 0
  | .rowStore _ _ => 0
  | .rowReplyLand _ _ => 0
  | .lookupOpComplete _ => 0
  | .lookupOpFault _ _ _ _ => 0
  | .amoAddW _ _ _ _ _ => 1
  | .amoAddD _ _ _ _ _ => 1
  | .amoAddDw _ _ _ _ _ _ => 2
  | .amoAnd _ _ _ _ _ _ => 2
  | .amoOr _ _ _ _ _ _ => 2
  | .amoXor _ _ _ _ _ _ => 2
  | .amoMin _ _ _ _ _ _ => 2
  | .amoMax _ _ _ _ _ _ => 2
  | .amoMinz _ _ _ _ _ _ => 2
  | .amoMaxz _ _ _ _ _ _ => 2
  | .amoSwap _ _ _ _ _ _ => 2
  | .casW _ _ two _ _ _ => if two then 2 else 1
  | .casD _ _ two _ _ _ => if two then 2 else 1
  | .atomicExecute _ => 0
  | .amoCombine _ _ => 0
  | .atomicFaultReply _ => 0
  | .accF32 _ _ _ => 1
  | .accBf16 _ _ _ => 1
  | .accF64 _ _ _ => 1
  | .fold _ _ => 1
  | .accArrival _ => 0
  | .foldArrival _ => 0
  | .recvred _ _ two _ _ _ => if two then 2 else 1
  | .recvredMessage _ => 0
  | .fence _ _ => 1
  | .fenceComplete _ => 0
  | .bjoin _ _ => 1
  | .barr _ _ => 1
  | .bwait _ _ => 1
  | .barrw _ _ => 1
  | .bexp _ _ _ => 1
  | .bmiss _ _ _ => 1
  | .barrierArrival _ => 0
  | .byteDelivery _ _ _ => 0
  | .bwaitReturn _ => 0
  | .send _ _ _ => 1
  | .sendl _ _ _ => 1
  | .recv _ _ _ => 1
  | .recvTake _ => 0
  | .rpeek _ _ => 1
  | .rqset _ _ _ => 1
  | .resume _ _ _ => 1
  | .resumeArrival _ => 0
  | .messageArrival _ => 0
  | .retryTimer _ _ => 0
  | .rget _ _ _ _ _ => 1
  | .rsto _ _ _ _ _ => 1
  | .rgetDw _ _ _ _ _ _ => 2
  | .rstoDw _ _ _ _ _ _ => 2
  | .remoteRequestArrival _ => 0
  | .remoteReply _ => 0
  | .refusalReturn _ => 0
  | .flitReceive _ _ _ => 0
  | .replayRequest _ _ => 0
  | .linkDown _ => 0
  | .qpush _ _ _ => 1
  | .qpop _ _ _ => 1
  | .queueRefill _ _ => 0
  | .wqringWrite _ _ _ => 1
  | .exit _ _ => 1
  | .exitDrainDone _ => 0
  | .windowDepart _ => 0
  | .detach _ => 1
  | .detachStep _ => 0
  | .teamid _ _ => 1
  | .yield _ => 1
  | .wld _ _ _ _ _ => 1
  | .wst _ _ _ _ _ => 1
  | .wldDw _ _ _ _ _ _ => 2
  | .wstDw _ _ _ _ _ _ => 2
  | .hseed _ _ _ => 1
  | .hseedEntryRead _ => 0
  | .gain _ _ _ => 1
  | .gainApply _ => 0
  | .done _ _ => 1
  | .doneApply _ => 0
  | .resid _ _ => 1
  | .hpeek _ _ => 1
  | .hcount _ _ => 1
  | .take _ _ two _ _ _ => if two then 2 else 1
  | .takeWake _ => 0
  | .heapMaxRefresh _ => 0
  | .heapSteal _ => 0
  | .lexld _ _ _ => 1
  | .mldb _ _ _ => 1
  | .macc _ _ _ => 1
  | .mrd _ _ _ => 1
  | .infl _ _ _ => 1
  | .mwait _ _ => 1
  | .mwaitSatisfied _ => 0
  | .mma _ _ _ _ _ => 1
  | .mgath _ _ _ _ _ => 1
  | .affixI _ _ _ => 1
  | .affixK _ _ _ => 1
  | .affixS _ _ _ => 1
  | .matrixEntryStart _ _ => 0
  | .matrixEntryComplete _ _ => 0
  | .matrixEntryFault _ _ _ => 0
  | .mfs _ _ _ => 1
  | .mts _ _ _ => 1
  | .pubSlotWrite _ _ _ => 1
  | .accrWrite _ _ => 1
  | .icinvWrite _ _ => 1
  | .asgpartWrite _ _ => 1
  | .haltselRun _ _ => 0
  | .trap _ _ => 1
  | .rett _ => 1
  | .halt _ => 1
  | .haltRecords _ _ _ => 0
  | .ctxsvStop _ _ => 1
  | .ctxsvSave _ => 0
  | .ctxsvDiscard _ => 0
  | .ctxldLoad _ _ => 1
  | .ctxldStart _ => 0
  | .ctxldLoadStart _ => 0
  | .brk _ => 1
  | .timens _ _ => 1
  | .sleep _ _ => 1
  | .sleepm _ _ => 1
  | .sleepWake _ => 0
  | .perf _ _ _ => 1
  | .trace _ _ => 1
  | .trapEntry _ => 0
  | .watchdogExpiry _ => 0
  | .hqtailWrite _ _ _ => 0
  | .launchAdmission _ _ => 0
  | .launchForward _ _ => 0
  | .waitCounterPoll _ _ => 0
  | .teamStart _ => 0
  | .launchComplete _ => 0
  | .powerGood _ => 0
  | .clocksStarted _ => 0
  | .romImageVerify _ => 0
  | .trainComplete _ _ => 0
  | .mreset _ => 0
  | .haltreq _ => 0
  | .mgmtRegisterWrite _ _ _ _ _ => 0
  | .mgmtControlPacket _ _ _ _ _ _ => 0
  | .hostBar2Access _ _ _ _ => 0
  | .ident _ => 0
  | .attest _ => 0
  | .fwload _ => 0
  | .fwcommit _ => 0
  | .timesetWrite _ _ => 0
  | .ptpFrame _ _ => 0
  | .lockLoss _ => 0
  | .droopDetect _ => 0
  | .droopRecover _ _ _ => 0
  | .powerWindow _ _ => 0
  | .thermalThrottle _ _ => 0
  | .thermalTrip _ _ => 0
  | .reservedEncoding => 0
  | .powerLoss _ => 0
  | .mailboxBadOperation _ => 0
  | .pcieLinkTraining _ _ _ => 0

/-- The instruction is one the encoding tables admit: the guard is not `?!p0` (R33), and every literal field and
extension word holds a value its table does not mark `ILLEGAL`.  An event row has no word to check. -/
def Instr.wf (i : Instr) : Bool :=
  match i with
  | .add g _ _ _ => g.ok
  | .sub g _ _ _ => g.ok
  | .and g _ _ _ => g.ok
  | .or g _ _ _ => g.ok
  | .xor g _ _ _ => g.ok
  | .andn g _ _ _ => g.ok
  | .shl g _ _ _ => g.ok
  | .shr g _ _ _ => g.ok
  | .sar g _ _ _ => g.ok
  | .rol g _ _ _ => g.ok
  | .mul g _ _ _ => g.ok
  | .mulh g _ _ _ => g.ok
  | .mulhz g _ _ _ => g.ok
  | .div g _ _ _ => g.ok
  | .divz g _ _ _ => g.ok
  | .rem g _ _ _ => g.ok
  | .remz g _ _ _ => g.ok
  | .min g _ _ _ => g.ok
  | .max g _ _ _ => g.ok
  | .minz g _ _ _ => g.ok
  | .maxz g _ _ _ => g.ok
  | .clz g _ _ => g.ok
  | .ctz g _ _ => g.ok
  | .popc g _ _ => g.ok
  | .sextB g _ _ => g.ok
  | .sextH g _ _ => g.ok
  | .sextW g _ _ => g.ok
  | .zextB g _ _ => g.ok
  | .zextH g _ _ => g.ok
  | .zextW g _ _ => g.ok
  | .bext g _ _ _ => g.ok
  | .bins g _ _ _ => g.ok
  | .bextDw g _ _ _ _ => g.ok
  | .binsDw g _ _ _ _ => g.ok
  | .addi g _ _ _ => g.ok
  | .andi g _ _ _ => g.ok
  | .ori g _ _ _ => g.ok
  | .xori g _ _ _ => g.ok
  | .addiDw g _ _ _ => g.ok
  | .andiDw g _ _ _ => g.ok
  | .oriDw g _ _ _ => g.ok
  | .xoriDw g _ _ _ => g.ok
  | .shli g _ _ _ => g.ok
  | .shri g _ _ _ => g.ok
  | .sari g _ _ _ => g.ok
  | .limm g _ _ => g.ok
  | .limmh g _ _ => g.ok
  | .addpc g _ _ => g.ok
  | .limmDw g _ _ => g.ok
  | .limmhDw g _ _ => g.ok
  | .addpcDw g _ _ => g.ok
  | .cmpCc g _ _ _ _ => g.ok
  | .cmpiCcLow g _ _ _ _ => g.ok
  | .cmpiCcHigh g _ _ _ _ => g.ok
  | .cmpiDw g _ _ _ _ => g.ok
  | .pand g _ _ _ => g.ok
  | .por g _ _ _ => g.ok
  | .pxor g _ _ _ => g.ok
  | .pnot g _ _ => g.ok
  | .pmov g _ _ => g.ok
  | .br g _ => g.ok
  | .call g _ => g.ok
  | .jr g _ => g.ok
  | .ret g => g.ok
  | .rot g => g.ok
  | .stage g _ => g.ok
  | .nop g => g.ok
  | .hint g _ => g.ok
  | .loop g _ _ len => g.ok && len != 0
  | .loopP g _ _ len => g.ok && len != 0
  | .loopDw g _ _ len _ => g.ok && len != 0
  | .ldb g _ _ _ => g.ok
  | .ldh g _ _ _ => g.ok
  | .ldw g _ _ _ => g.ok
  | .ldd g _ _ _ => g.ok
  | .ldbz g _ _ _ => g.ok
  | .ldhz g _ _ _ => g.ok
  | .ldwz g _ _ _ => g.ok
  | .stb g _ _ _ => g.ok
  | .sth g _ _ _ => g.ok
  | .stw g _ _ _ => g.ok
  | .std g _ _ _ => g.ok
  | .ldbDw g _ _ _ => g.ok
  | .ldhDw g _ _ _ => g.ok
  | .ldwDw g _ _ _ => g.ok
  | .lddDw g _ _ _ => g.ok
  | .ldbzDw g _ _ _ => g.ok
  | .ldhzDw g _ _ _ => g.ok
  | .ldwzDw g _ _ _ => g.ok
  | .stbDw g _ _ _ => g.ok
  | .sthDw g _ _ _ => g.ok
  | .stwDw g _ _ _ => g.ok
  | .stdDw g _ _ _ => g.ok
  | .vld g _ _ _ => g.ok
  | .vst g _ _ _ => g.ok
  | .vldDw g _ _ _ => g.ok
  | .vstDw g _ _ _ => g.ok
  | .vlds g _ _ _ => g.ok
  | .vsts g _ _ _ => g.ok
  | .vgathl g _ _ _ => g.ok
  | .vscatl g _ _ _ => g.ok
  | .cclean g _ => g.ok
  | .cinv g _ => g.ok
  | .tlbinv g _ _ => g.ok
  | .tlbinvComplete _ => true
  | .dclset g _ => g.ok
  | .sylset g _ _ => g.ok
  | .vldd g _ _ _ => g.ok
  | .vldp g _ _ _ => g.ok
  | .vlddDw g _ _ _ => g.ok
  | .vldpDw g _ _ _ => g.ok
  | .vadd g _ _ _ => g.ok
  | .vsub g _ _ _ => g.ok
  | .vmul g _ _ _ => g.ok
  | .vmin g _ _ _ => g.ok
  | .vmax g _ _ _ => g.ok
  | .vabs g _ _ => g.ok
  | .vneg g _ _ => g.ok
  | .vand g _ _ _ => g.ok
  | .vor g _ _ _ => g.ok
  | .vxor g _ _ _ => g.ok
  | .vshl g _ _ _ => g.ok
  | .vshr g _ _ _ => g.ok
  | .vsar g _ _ _ => g.ok
  | .vaddS g _ _ _ => g.ok
  | .vsubS g _ _ _ => g.ok
  | .vsel g _ _ _ _ => g.ok
  | .vfma g _ _ _ => g.ok
  | .vfms g _ _ _ => g.ok
  | .vnfma g _ _ _ => g.ok
  | .vdot g _ _ _ => g.ok
  | .vdotf g _ _ _ => g.ok
  | .vcmpCc g _ _ _ _ => g.ok
  | .vredAdd g _ _ => g.ok
  | .vredMin g _ _ => g.ok
  | .vredMax g _ _ => g.ok
  | .vscanAdd g _ _ => g.ok
  | .vscanMin g _ _ => g.ok
  | .vscanMax g _ _ => g.ok
  | .vperm g _ _ _ => g.ok
  | .vbcast g _ _ => g.ok
  | .vext g _ _ _ => g.ok
  | .vins g _ _ _ => g.ok
  | .vrcp g _ _ => g.ok
  | .vrsq g _ _ => g.ok
  | .vexp2 g _ _ => g.ok
  | .vlog2 g _ _ => g.ok
  | .vtanh g _ _ => g.ok
  | .vsigm g _ _ => g.ok
  | .vlong g => g.ok
  | .vshort g => g.ok
  | .cvtRne g _ _ t => g.ok && cvtTarget t
  | .cvtRtz g _ _ t => g.ok && cvtTarget t
  | .cvtRup g _ _ t => g.ok && cvtTarget t
  | .cvtRdn g _ _ t => g.ok && cvtTarget t
  | .cvtSat g _ _ t => g.ok && cvtTarget t
  | .qn4 g _ _ _ => g.ok
  | .dqn4 g _ _ _ => g.ok
  | .qscale g _ _ _ => g.ok
  | .tagset g _ _ => g.ok
  | .tagget g _ _ => g.ok
  | .fclass g _ _ => g.ok
  | .draw g _ _ _ b => g.ok && transferExtOk false 0 b
  | .stow g _ _ _ b => g.ok && transferExtOk true 0 b
  | .draws g _ _ _ b => g.ok && transferExtOk false 0 b
  | .stows g _ _ _ b => g.ok && transferExtOk true 0 b
  | .drawDw g _ _ _ b ext => g.ok && transferExtOk false ext b
  | .stowDw g _ _ _ b ext => g.ok && transferExtOk true ext b
  | .drawsDw g _ _ _ b ext => g.ok && transferExtOk false ext b
  | .stowsDw g _ _ _ b ext => g.ok && transferExtOk true ext b
  | .dzero g _ _ _ => g.ok && rowCommandExtOk 0
  | .dcopy g _ _ _ _ => g.ok && rowCommandExtOk 0
  | .dzeroDw g _ _ _ ext => g.ok && rowCommandExtOk ext
  | .dcopyDw g _ _ _ _ ext => g.ok && rowCommandExtOk ext
  | .chain g _ _ => g.ok
  | .kick g _ => g.ok
  | .cwait g _ _ => g.ok
  | .cwaitSatisfied _ => true
  | .cpost g _ _ => g.ok
  | .wpwait g _ _ => g.ok
  | .wpwaitSatisfied _ => true
  | .publish g _ _ => g.ok
  | .publishToggle _ => true
  | .channelEntryStart _ _ => true
  | .chainEntryStep _ _ => true
  | .operationPacket _ _ => true
  | .dramRequestAccept _ _ => true
  | .ownershipDecision _ _ => true
  | .clusterCacheEviction _ _ => true
  | .entryComplete _ _ => true
  | .remoteBumpArrival _ => true
  | .channelFault _ _ _ _ _ => true
  | .chstFaultResume _ _ => true
  | .chstAbort _ _ => true
  | .rowCommandPiece _ _ => true
  | .landingPacket _ _ => true
  | .pageWalkRead _ => true
  | .hotPageEpoch _ => true
  | .poolScrub _ _ => true
  | .fetchMissFill _ _ => true
  | .tblset g _ _ => g.ok
  | .tblsetComplete _ => true
  | .idhash g _ _ _ => g.ok
  | .rowwait g _ => g.ok
  | .rowwaitSatisfied _ => true
  | .rowacc g _ _ => g.ok
  | .rowset g _ _ => g.ok
  | .elide g _ _ _ _ _ => g.ok
  | .elidem g _ _ _ _ _ => g.ok
  | .elisionComplete _ => true
  | .rowget g _ _ _ _ => g.ok && gatherExtOk false 0
  | .rowgetw g _ _ _ _ => g.ok && gatherExtOk true 0
  | .rowgetDw g _ _ _ _ ext => g.ok && gatherExtOk false ext
  | .rowgetwDw g _ _ _ _ ext => g.ok && gatherExtOk true ext
  | .segred g _ _ _ _ => g.ok && segExtOk false 0
  | .segscat g _ _ _ _ => g.ok && segExtOk true 0
  | .segredDw g _ _ _ _ ext => g.ok && segExtOk false ext
  | .segscatDw g _ _ _ _ ext => g.ok && segExtOk true ext
  | .lookupOpStart _ => true
  | .rowRequestMerge _ _ _ _ => true
  | .rowRequestServe _ _ => true
  | .rowRead _ _ => true
  | .rowAccumulate _ _ => true
  | .rowStore _ _ => true
  | .rowReplyLand _ _ => true
  | .lookupOpComplete _ => true
  | .lookupOpFault _ _ _ _ => true
  | .amoAddW g _ _ _ _ => g.ok
  | .amoAddD g _ _ _ _ => g.ok
  | .amoAddDw g _ _ _ _ _ => g.ok
  | .amoAnd g _ _ _ _ _ => g.ok
  | .amoOr g _ _ _ _ _ => g.ok
  | .amoXor g _ _ _ _ _ => g.ok
  | .amoMin g _ _ _ _ _ => g.ok
  | .amoMax g _ _ _ _ _ => g.ok
  | .amoMinz g _ _ _ _ _ => g.ok
  | .amoMaxz g _ _ _ _ _ => g.ok
  | .amoSwap g _ _ _ _ _ => g.ok
  | .casW g _ _ _ _ _ => g.ok
  | .casD g _ _ _ _ _ => g.ok
  | .atomicExecute _ => true
  | .amoCombine _ _ => true
  | .atomicFaultReply _ => true
  | .accF32 g _ _ => g.ok
  | .accBf16 g _ _ => g.ok
  | .accF64 g _ _ => g.ok
  | .fold g _ => g.ok
  | .accArrival _ => true
  | .foldArrival _ => true
  | .recvred g _ _ _ _ _ => g.ok
  | .recvredMessage _ => true
  | .fence g _ => g.ok
  | .fenceComplete _ => true
  | .bjoin g _ => g.ok
  | .barr g _ => g.ok
  | .bwait g _ => g.ok
  | .barrw g _ => g.ok
  | .bexp g _ _ => g.ok
  | .bmiss g _ _ => g.ok
  | .barrierArrival _ => true
  | .byteDelivery _ _ _ => true
  | .bwaitReturn _ => true
  | .send g _ _ => g.ok
  | .sendl g _ _ => g.ok
  | .recv g _ _ => g.ok
  | .recvTake _ => true
  | .rpeek g _ => g.ok
  | .rqset g _ _ => g.ok
  | .resume g _ _ => g.ok
  | .resumeArrival _ => true
  | .messageArrival _ => true
  | .retryTimer _ _ => true
  | .rget g _ _ _ _ => g.ok && remoteExtOk false 0
  | .rsto g _ _ _ _ => g.ok && remoteExtOk true 0
  | .rgetDw g _ _ _ _ ext => g.ok && remoteExtOk false ext
  | .rstoDw g _ _ _ _ ext => g.ok && remoteExtOk true ext
  | .remoteRequestArrival _ => true
  | .remoteReply _ => true
  | .refusalReturn _ => true
  | .flitReceive _ _ _ => true
  | .replayRequest _ _ => true
  | .linkDown _ => true
  | .qpush g _ _ => g.ok
  | .qpop g _ _ => g.ok
  | .queueRefill _ _ => true
  | .wqringWrite g _ _ => g.ok
  | .exit g _ => g.ok
  | .exitDrainDone _ => true
  | .windowDepart _ => true
  | .detach g => g.ok
  | .detachStep _ => true
  | .teamid g _ => g.ok
  | .yield g => g.ok
  | .wld g _ _ _ _ => g.ok && windowExtOk false 0
  | .wst g _ _ _ _ => g.ok && windowExtOk true 0
  | .wldDw g _ _ _ _ ext => g.ok && windowExtOk false ext
  | .wstDw g _ _ _ _ ext => g.ok && windowExtOk true ext
  | .hseed g _ _ => g.ok
  | .hseedEntryRead _ => true
  | .gain g _ _ => g.ok
  | .gainApply _ => true
  | .done g _ => g.ok
  | .doneApply _ => true
  | .resid g _ => g.ok
  | .hpeek g _ => g.ok
  | .hcount g _ => g.ok
  | .take g _ _ _ _ _ => g.ok
  | .takeWake _ => true
  | .heapMaxRefresh _ => true
  | .heapSteal _ => true
  | .lexld g _ _ => g.ok
  | .mldb g _ _ => g.ok
  | .macc g _ _ => g.ok
  | .mrd g _ _ => g.ok
  | .infl g _ _ => g.ok
  | .mwait g _ => g.ok
  | .mwaitSatisfied _ => true
  | .mma g _ _ _ _ => g.ok
  | .mgath g _ _ _ _ => g.ok
  | .affixI _ _ _ => true
  | .affixK _ _ _ => true
  | .affixS _ _ _ => true
  | .matrixEntryStart _ _ => true
  | .matrixEntryComplete _ _ => true
  | .matrixEntryFault _ _ _ => true
  | .mfs g _ r => g.ok && sysRegAssigned r.toNat
  | .mts g _ r => g.ok && mtsPlain r.toNat
  | .pubSlotWrite g _ _ => g.ok
  | .accrWrite g _ => g.ok
  | .icinvWrite g _ => g.ok
  | .asgpartWrite g _ => g.ok
  | .haltselRun _ _ => true
  | .trap g _ => g.ok
  | .rett g => g.ok
  | .halt g => g.ok
  | .haltRecords _ _ _ => true
  | .ctxsvStop g _ => g.ok
  | .ctxsvSave _ => true
  | .ctxsvDiscard _ => true
  | .ctxldLoad g _ => g.ok
  | .ctxldStart _ => true
  | .ctxldLoadStart _ => true
  | .brk g => g.ok
  | .timens g _ => g.ok
  | .sleep g _ => g.ok
  | .sleepm g _ => g.ok
  | .sleepWake _ => true
  | .perf g _ _ => g.ok
  | .trace g _ => g.ok
  | .trapEntry _ => true
  | .watchdogExpiry _ => true
  | .hqtailWrite _ _ _ => true
  | .launchAdmission _ _ => true
  | .launchForward _ _ => true
  | .waitCounterPoll _ _ => true
  | .teamStart _ => true
  | .launchComplete _ => true
  | .powerGood _ => true
  | .clocksStarted _ => true
  | .romImageVerify _ => true
  | .trainComplete _ _ => true
  | .mreset _ => true
  | .haltreq _ => true
  | .mgmtRegisterWrite _ _ _ _ _ => true
  | .mgmtControlPacket _ _ _ _ _ _ => true
  | .hostBar2Access _ _ _ _ => true
  | .ident _ => true
  | .attest _ => true
  | .fwload _ => true
  | .fwcommit _ => true
  | .timesetWrite _ _ => true
  | .ptpFrame _ _ => true
  | .lockLoss _ => true
  | .droopDetect _ => true
  | .droopRecover _ _ _ => true
  | .powerWindow _ _ => true
  | .thermalThrottle _ _ => true
  | .thermalTrip _ _ => true
  | .reservedEncoding => true
  | .powerLoss _ => true
  | .mailboxBadOperation _ => true
  | .pcieLinkTraining _ _ _ => true

/-- The instruction is fetched as a word (and not an event of the part). -/
def Instr.isWord (i : Instr) : Bool := i.words != 0

end Sys2Proof
end

