-- ==== Sys2Proof/Machine/Transfer.lean ====
section
/-!
DEFINITION. Sys2Proof/Machine/Transfer.lean: the transfer engine: `DRAW`, `STOW`, `DRAWS`, `STOWS`, row commands, chains,
completion counters and write pointers, and the channel's own events (R153–R180; majors 0x24–0x27).
-/
namespace Sys2Proof.Machine

/-! ## Entries -/

/-- The channel of an extension word (R157, R175). -/
def extCh (x : BitVec 32) : Fin 4 := Fin.ofNat 4 (extField x 0 2)
def extLe (x : BitVec 32) : Bool := extField x 2 1 == 1
def extLcc (x : BitVec 32) : Nat := extField x 3 4
def extRe (x : BitVec 32) : Bool := extField x 7 1 == 1
def extRcc (x : BitVec 32) : Nat := extField x 8 4
def extScope (x : BitVec 32) : Nat := extField x 12 3
def extPub (x : BitVec 32) : Bool := extField x 15 1 == 1
def extPslot (x : BitVec 32) : Fin 4 := Fin.ofNat 4 (extField x 16 2)
def extLand (x : BitVec 32) : Nat := extField x 18 3
def extSlot (x : BitVec 32) : Nat := extField x 21 6
def extBobj (x : BitVec 32) : Nat := extField x 27 4
def extBe (x : BitVec 32) : Bool := extField x 31 1 == 1

/-- A row command; its operands are destination, source and length (R175). -/
def Entry.row (e : Entry) : Bool := e.kind == .dzero || e.kind == .dcopy
/-- `DRAW` and `DRAWS`. -/
def Entry.draws (e : Entry) : Bool := e.kind == .draw || e.kind == .draws
def Entry.streamed (e : Entry) : Bool := e.kind == .draws || e.kind == .stows
/-- LEN (R156, R175). -/
def Entry.len (e : Entry) : Nat :=
  if e.kind = .counters then 0 else if e.row then field e.opb 0 32 else field e.opd 32 32
/-- LADDR, as wide as the core's pool (R128, R156). -/
def Entry.laddr (e : Entry) (core : Nat) : Nat := field e.opd 0 32 % poolSize (kindOfCore core)
/-- The landing of an entry; none for row commands. -/
def Entry.land (e : Entry) : Nat := if e.row || e.kind == .counters then 0 else extLand e.ext
def Entry.pub (e : Entry) : Bool := !e.row && e.kind != .counters && extPub e.ext
def Entry.bumpsRemote (e : Entry) : Bool := !e.row && extRe e.ext
/-- Bytes of a landing element in the source, and in the destination (R169, R240). -/
def landSrc (land : Nat) : Nat := if land = 2 ∨ land = 5 then 8 else if land = 4 then 2 else 4
def landDst (land : Nat) : Nat := if land = 2 ∨ land = 5 then 8 else 4

/-! ## Checks at issue (R159, R175, R240) -/

/-- A team's own detachment, as its threads see it at issue (R298). -/
def State.detachedFor (s : State) (core : Nat) (tdet : Bool) (form : AddrForm) : Bool :=
  match form with
  | .window _ _ => tdet || (match (s.core core).team with
      | some t => t.mdet
      | none => false)
  | _ => false

/-- The range [off, off+n) lies in a publish slot's enabled view. -/
def viewHolds (p : Word) (off n : Nat) : Bool :=
  pubEn p && decide (pubView p ≤ off) && decide (off + n ≤ pubView p + pubLen p)

/-- The checks of a block transfer that an instruction makes at issue and the engine at a chain entry (R159, R169,
R240). -/
def State.blockCheck (s : State) (core : Nat) (e : Entry) (tdet : Bool) : Option TrapInfo :=
  let far := addrForm e.opa
  let note := addrForm e.opb
  let dram := match far with
    | .dram _ => true
    | _ => false
  let la := e.laddr core
  let pub := (s.core core).pub[extPslot e.ext]
  if far = .nonCanonical then some { cause := .pageFault, sub := 1, addr := e.opa }
  else if extRe e.ext && note == .nonCanonical then some { cause := .pageFault, sub := 1, addr := e.opb }
  else if extRe e.ext && (match note with
      | .dram _ => true
      | _ => false) then some { cause := .pageFault, sub := 1, addr := e.opb }
  else if s.detachedFor core tdet far then some { cause := .pluralDetached, addr := e.opa }
  else if extRe e.ext && s.detachedFor core tdet note then some { cause := .pluralDetached, addr := e.opb }
  else if extPub e.ext && dram then some { cause := .illegal }
  else if extLand e.ext ≠ 0 ∧ dram = false then some { cause := .illegal }
  else if 3 ≤ extLand e.ext ∧ (accrNs e.accr = 0 ∨ accrNs e.accr ≤ extSlot e.ext ∨ (extLand e.ext = 5) ≠ (accrF64 e.accr = true)) then
    some { cause := .illegal }
  else if extPub e.ext && e.draws then
    (if e.len = 0 ∨ viewHolds pub la e.len = true then none else some { cause := .localRange, addr := Word.of la })
  else if 0 < e.len ∧ s.accEnd core < la + e.len then some { cause := .localRange, addr := Word.of la }
  else none

/-- The checks of a row command (R175). -/
def rowCheck (e : Entry) : Option TrapInfo :=
  let isDram := fun (a : Word) => match addrForm a with
    | .dram _ => true
    | _ => false
  if !isDram e.opd then some { cause := .pageFault, sub := 1, addr := e.opd }
  else if e.kind == .dcopy && !isDram e.opa then some { cause := .pageFault, sub := 1, addr := e.opa }
  else if e.opd.toNat % 1024 ≠ 0 then some { cause := .misalign, addr := e.opd }
  else if e.kind = .dcopy ∧ e.opa.toNat % 1024 ≠ 0 then some { cause := .misalign, addr := e.opa }
  else if e.len % 1024 ≠ 0 then some { cause := .misalign, addr := e.opd }
  else none

def State.entryCheck (s : State) (core : Nat) (e : Entry) (tdet : Bool) : Option TrapInfo :=
  if e.kind = .counters then
    (if extRe e.ext then (match addrForm e.opb with
      | .nonCanonical | .dram _ => some { cause := .pageFault, sub := 1, addr := e.opb }
      | f => if s.detachedFor core tdet f then some { cause := .pluralDetached, addr := e.opb } else none) else none)
  else if e.row then rowCheck e
  else s.blockCheck core e tdet

/-- Issues an entry to its channel; a full queue or a running chain makes the thread wait (R153, R173). -/
def State.queueEntry (s : State) (e : Entry) : Res :=
  let c := s.myCore
  let ch := extCh e.ext
  let k := s.chan c ch
  if 16 ≤ k.queue.length ∨ k.running = true then .again none
  else
    match s.entryCheck c e s.src.tdet with
    | some t => .trap t s
    | none => .retire ((s.modChan c ch (fun k => { k with queue := k.queue ++ [e] })).emit (.channelEntryStart c ch.val))

/-- The operands of a transfer instruction, captured (R153). -/
def State.capture (s : State) (kind : EntryKind) (ext : BitVec 32) (d a b : Word) : Entry :=
  { tid := s.cur, kind, ext, opd := d, opa := a, opb := b, accr := s.src.accr, sup := s.src.sup }

/-- A block transfer: field d is LEN and LADDR, a the far address, b the notify address (R156). -/
def blockTransfer (major : Nat) (kind : EntryKind) (words : Nat) (g : Guard) (look : Fin 16) (d a b : GReg)
    (ext : BitVec 32) (s : State) : Host.Outcome State Fault Refusal :=
  issue (metaL major g look [] [d, a, b] words) s (fun s => s.queueEntry (s.capture kind ext (s.g d) (s.g a) (s.g b)))

/-- `DRAW` (R156). -/
def execDraw (g : Guard) (look : Fin 16) (d a b : GReg) (s : State) : Host.Outcome State Fault Refusal :=
  blockTransfer 0x24 .draw 1 g look d a b 0 s

/-- `DRAW` with an extension word (R157). -/
def execDrawDw (g : Guard) (look : Fin 16) (d a b : GReg) (ext : BitVec 32) (s : State) :
    Host.Outcome State Fault Refusal :=
  blockTransfer 0x24 .draw 2 g look d a b ext s

/-- `STOW` (R156). -/
def execStow (g : Guard) (look : Fin 16) (d a b : GReg) (s : State) : Host.Outcome State Fault Refusal :=
  blockTransfer 0x24 .stow 1 g look d a b 0 s

/-- `STOW` with an extension word (R157). -/
def execStowDw (g : Guard) (look : Fin 16) (d a b : GReg) (ext : BitVec 32) (s : State) :
    Host.Outcome State Fault Refusal :=
  blockTransfer 0x24 .stow 2 g look d a b ext s

/-- `DRAWS` (R156, R164). -/
def execDraws (g : Guard) (look : Fin 16) (d a b : GReg) (s : State) : Host.Outcome State Fault Refusal :=
  blockTransfer 0x25 .draws 1 g look d a b 0 s

/-- `DRAWS` with an extension word (R157). -/
def execDrawsDw (g : Guard) (look : Fin 16) (d a b : GReg) (ext : BitVec 32) (s : State) :
    Host.Outcome State Fault Refusal :=
  blockTransfer 0x25 .draws 2 g look d a b ext s

/-- `STOWS` (R156, R164). -/
def execStows (g : Guard) (look : Fin 16) (d a b : GReg) (s : State) : Host.Outcome State Fault Refusal :=
  blockTransfer 0x25 .stows 1 g look d a b 0 s

/-- `STOWS` with an extension word (R157). -/
def execStowsDw (g : Guard) (look : Fin 16) (d a b : GReg) (ext : BitVec 32) (s : State) :
    Host.Outcome State Fault Refusal :=
  blockTransfer 0x25 .stows 2 g look d a b ext s

/-- `DZERO` (R175). -/
def execDzero (g : Guard) (look : Fin 16) (d b : GReg) (s : State) : Host.Outcome State Fault Refusal :=
  issue (metaL 0x26 g look [] [d, b]) s (fun s => s.queueEntry (s.capture .dzero 0 (s.g d) 0 (s.g b)))

/-- `DZERO` with an extension word (R175). -/
def execDzeroDw (g : Guard) (look : Fin 16) (d b : GReg) (ext : BitVec 32) (s : State) :
    Host.Outcome State Fault Refusal :=
  issue (metaL 0x26 g look [] [d, b] 2) s (fun s => s.queueEntry (s.capture .dzero ext (s.g d) 0 (s.g b)))

/-- `DCOPY` (R175). -/
def execDcopy (g : Guard) (look : Fin 16) (d a b : GReg) (s : State) : Host.Outcome State Fault Refusal :=
  blockTransfer 0x26 .dcopy 1 g look d a b 0 s

/-- `DCOPY` with an extension word (R175). -/
def execDcopyDw (g : Guard) (look : Fin 16) (d a b : GReg) (ext : BitVec 32) (s : State) :
    Host.Outcome State Fault Refusal :=
  blockTransfer 0x26 .dcopy 2 g look d a b ext s

/-! ## The life of an entry (R154, R155) -/

/-- The event that moves an entry's next bytes. -/
def Entry.moveEvent (e : Entry) (core ch : Nat) : Instr :=
  if e.row then .rowCommandPiece core ch
  else if e.land ≠ 0 then .landingPacket core ch
  else match addrForm e.opa with
    | .dram _ => .dramRequestAccept core ch
    | _ => .operationPacket core ch

/-- What comes next for the entry at the head of a channel: its bytes, or its completion.  An entry of no bytes completes
without a check of its destination's alignment (R156; log 9). -/
def Entry.nextEvent (e : Entry) (core ch : Nat) : Instr :=
  if e.len ≤ e.done then .entryComplete core ch else e.moveEvent core ch

/-- The first entry that has not started, with whether an earlier streamed entry and any earlier entry are still there. -/
def firstUnstarted : List Entry → Nat → Bool → Option (Nat × Entry × Bool)
  | [], _, _ => none
  | e :: es, i, st => if e.started then firstUnstarted es (i + 1) (st || e.streamed) else some (i, e, st)

/-- The row `channelEntryStart` (R154): entries start in order, a streamed one only after every earlier streamed one has
completed, an entry of no bytes only when it is to complete, and none while the channel is faulted or stopping. -/
def execChannelEntryStart (core ch : Nat) (s : State) : Host.Outcome State Fault Refusal :=
  let c := chOf ch
  let k := s.chan core c
  if k.fault.isSome || k.stopping then .next s
  else
    match firstUnstarted k.queue 0 false with
    | none => .next s
    | some (i, e, st) =>
      if (e.streamed && st) || (e.len == 0 && i != 0) then .next s
      else
        let s := s.modChan core c (fun k => { k with
          queue := k.queue.zipIdx.map (fun (x, j) => if j = i then { x with started := true } else x) })
        let s := if i = 0 then s.emit (e.nextEvent core ch) else s
        .next (s.emit (.channelEntryStart core ch))

/-- A fault that only the channel can find stops it (R160): `at_` is the place of the entry that it concerns. -/
def State.chanFaultAt (s : State) (core ch at_ : Nat) (c : Cause) (sub : Nat) (addr : Nat) : State :=
  (s.modChan core (chOf ch) (fun k => { k with blame := at_, refuser := none })).emit (.channelFault core ch c sub addr)

/-- An entry has started and has bytes left to move (R154). -/
def Entry.moves (e : Entry) : Bool := e.started && decide (e.done < e.len)

/-- The started entry whose bytes move next, with its place: the one chosen, or the channel's first (R154). -/
def ChannelState.mover (k : ChannelState) : Option (Nat × Entry) :=
  match (k.queue[k.pick]?).filter Entry.moves with
  | some e => some (k.pick, e)
  | none => ((k.queue.head?).filter Entry.moves).map (fun e => (0, e))

/-- A fault in the entry that moves, or in a chain entry that has yet to start. -/
def State.chanFault (s : State) (core ch : Nat) (c : Cause) (sub : Nat) (addr : Nat) : State :=
  let at_ := match (s.chan core (chOf ch)).mover with
    | some (i, _) => i
    | none => 0
  s.chanFaultAt core ch at_ c sub addr

/-- A fault by which the target core of a packet refuses it (R161, R276); the refusal comes back on a route of its own (R10). -/
def State.chanRefused (s : State) (core ch : Nat) (target : Option Nat) (c : Cause) (sub : Nat) (addr : Nat) : State :=
  let (c, sub) := s.answerWay (dieOfCore (target.getD core)) (dieOfCore core) c sub
  (s.chanFault core ch c sub addr).modChan core (chOf ch) (fun k => { k with refuser := some target })

/-- The thread after whose stores a chain's entries are read (R249). -/
def ChannelState.reader (k : ChannelState) (core : Nat) : Nat := 8 * core + k.linker % 8

/-- The thread that a channel's trap goes to (R160): for a chain, the one that last executed `KICK`. -/
def ChannelState.owner (k : ChannelState) : Nat :=
  match k.queue[k.blame]? with
  | some e => if e.chained then k.kicker else e.tid
  | none => k.kicker

/-- The row `channelFault` (R160).  A refusal at the target freezes the channel's stream, at the source and for the target
(R161, R276). -/
def execChannelFault (core ch : Nat) (cause : Cause) (sub addr : Nat) (s : State) : Host.Outcome State Fault Refusal :=
  let c := chOf ch
  let k := s.chan core c
  if k.fault.isSome then .next s
  else
    let s := s.modChan core c (fun k => { k with fault := some { cause, sub, addr := Word.of addr } })
    let s := match k.refuser with
      | some target => s.freeze core (12 + c.val) target
      | none => s
    let s := s.dropWalks (reqChannel core c.val)
    .next (s.pendAlive k.owner { cause, sub, origin := 1, unit := c.val, addr := Word.of addr })

/-- The write pointer's count of an entry of which `d` bytes have moved: steps of 64 bytes, and the last partial one
(R164). -/
def Entry.steps (e : Entry) (d : Nat) : Nat := if e.len ≤ d then e.len else d / 64 * 64

/-- What follows a piece of the entry at place `i`: its next piece, the channel's first entry once this one has moved its
bytes, or the completion of the first. -/
def ChannelState.following (k : ChannelState) (core ch : Nat) (i : Nat) (e : Entry) : List Instr :=
  if i = 0 ∨ e.done < e.len then [e.nextEvent core ch]
  else match k.queue with
    | h :: _ => [h.nextEvent core ch]
    | [] => []

/-- `n` bytes delivered of the entry that moves, and `rest` read and carried: DONE, the write pointer of a streamed entry, whose bytes are released at the
entry's scope as it passes them (R255), the bytes counted at a Conjunction object, and what follows (R157, R161, R164,
R261). -/
def State.delivered (s : State) (core ch : Nat) (n : Nat) (quad : Nat) (rest : List Byte) : State :=
  let c := chOf ch
  match (s.chan core c).mover with
  | none => s
  | some (i, e) =>
    let e' := { e with done := e.done + n, carry := rest, cleared := false }
    let s := s.modChan core c (fun k => { k with
      queue := k.queue.set i e', pick := if e'.done < e'.len then k.pick else 0 })
    let step := e.steps e'.done - e.steps e.done
    let s := if e.streamed && step != 0 then
        (s.releaseCore core (extScope e.ext)).modCore core (fun k => { k with
          wp := k.wp.set c.val (k.wp[c] + Word.of step) c.isLt })
      else s
    let s := s.count core 10 none n
    let s := if !e.row && extBe e.ext then s.countBytes quad (extBobj e.ext) n e.tid else s
    s.emits ((s.chan core c).following core ch i e')

/-- A fault that has been found is about to stop the channel (R160). -/
def State.faultDue (s : State) (core ch : Nat) : Bool :=
  s.agenda.any (fun e => match e with
    | .channelFault c k _ _ _ => c == core && chOf k == chOf ch
    | _ => false)

/-- The entry of a channel whose bytes move next; none while the channel is faulted. -/
def State.moving (s : State) (core ch : Nat) : Option Entry :=
  let k := s.chan core (chOf ch)
  if k.fault.isSome || s.faultDue core ch then none else k.mover.map (fun e => e.2)

/-- An event that moves bytes acts on the entry that moves next; where that one moves by another kind of event, it gives
way to it. -/
def State.withMover (s : State) (core ch : Nat) (ev : Instr) (f : Entry → State) : State :=
  match s.moving core ch with
  | none => s
  | some e => if e.moveEvent core ch = ev then f e else s.emit (e.moveEvent core ch)

/-- An event's share of an entry, with its source and destination addresses: the bytes that it reads after those carried, which
stay in one block of the grain in the source, and the bytes that it then writes, which end between aligned 8 bytes of the
destination and stay in one line of it.  Each aligned 8 bytes is so read in one step and written in one step (R154, R250). -/
def Entry.span (e : Entry) (src dst grain : Nat) : Nat × Nat :=
  let r := e.done + e.carry.length
  let hi := Min.min e.len (r + (grain - (src + r) % grain))
  let t := hi - e.done
  let w := if hi = e.len then t else t - Min.min t ((dst + e.done + t) % 8)
  (hi - r, Min.min w (64 - (dst + e.done) % 64))

/-- A published byte goes to the back storage of its slot (R167).  The slot's word is that of the moment: of a slot that has
been disabled or moved since the entry issued, the byte goes to ALT + (offset − VIEW) of the word as it stands (log 9). -/
def State.setPoolBack (s : State) (core : Nat) (p : Word) (off : Nat) (bs : List Byte) : State :=
  s.setPoolAt core off bs (backOff p)

/-- A `DRAW`'s bytes arrive in the pool. -/
def State.land (s : State) (core : Nat) (e : Entry) (bs : List Byte) : State :=
  let la := e.laddr core + e.done
  if e.pub then s.setPoolBack core (s.core core).pub[extPslot e.ext] la bs else s.setPoolBytes core la bs

/-- A `DRAW` would write a part of an uncorrectable word, which it would have to read for that (R137). -/
def State.landBad (s : State) (core : Nat) (e : Entry) (n : Nat) : Bool :=
  s.partBad core (e.laddr core + e.done) n
    (if e.pub then backOff (s.core core).pub[extPslot e.ext] else frontOff (s.core core))

/-- The bytes that a `DRAW` has read arrive: `n` of them land, and the rest are carried. -/
def State.draw (s : State) (core ch : Nat) (e : Entry) (n : Nat) (bs : List Byte) : State :=
  if s.landBad core e n then s.chanFault core ch .eccUncorr 0 (e.laddr core + e.done)
  else (s.land core e (bs.take n)).delivered core ch n (quadOfCore core) (bs.drop n)

/-- The address forms of the bytes still to move. -/
def AddrForm.add (f : AddrForm) (n : Nat) : AddrForm :=
  match f with
  | .core c o => .core c (o + n)
  | .window m o => .window m (o + n)
  | .dram a => if a + n < 2 ^ 57 then .dram (a + n) else .nonCanonical
  | .nonCanonical => .nonCanonical

/-- The core that a core-space address names. -/
def AddrForm.coreOf : AddrForm → Option Nat
  | .core c _ => some c
  | _ => none

/-- The partition in whose translation an entry acts. -/
def State.entryPart (s : State) (e : Entry) : Option Nat := s.partOfThread e.tid

/-- The channel's stream goes on, or is blocked by the packet of the entry that moves (R266, R273). -/
def State.unblock (s : State) (core ch : Nat) : State :=
  if (s.chan core (chOf ch)).blocked.isNone then s
  else (s.modChan core (chOf ch) (fun k => { k with blocked := none })).kick core (some (12 + ch % 4))
def State.chanBlock (s : State) (core ch : Nat) : State :=
  s.modChan core (chOf ch) (fun k => { k with blocked := k.mover.map (fun x => x.1) })

/-- Another entry's packet blocks the channel's stream. -/
def State.behindBlock (s : State) (core ch : Nat) : Bool :=
  let k := s.chan core (chOf ch)
  k.blocked.isSome && k.blocked != k.mover.map (fun x => x.1)

/-- A packet of an entry at its target core, `n` bytes of which it reads or writes there at the address `far`, `i` bytes into
the entry's far range. -/
def State.opPacket (s : State) (core ch : Nat) (e : Entry) (i n : Nat) (act : Nat → Nat → State → State) : State :=
  let far := e.opa.toNat + i
  let form := (addrForm e.opa).add i
  if s.behindBlock core ch then s.emit (.operationPacket core ch)
  else
    match s.target core (s.entryPart e) form with
    | .fault c sub => (s.unblock core ch).chanRefused core ch form.coreOf c sub far
    | .retry => (s.chanBlock core ch).emit (.operationPacket core ch)
    | .ok t =>
      let s := (s.unblock core ch).heard t core (some (12 + ch % 4))
      if !s.targetRange t form n then s.chanRefused core ch (some t) .remoteFault 0 far else act t form.off s

/-- The row `operationPacket` (R135, R159, R167): a `DRAW`'s data comes on a route of its own (R10). -/
def execOperationPacket (core ch : Nat) (s : State) : Host.Outcome State Fault Refusal :=
  .next (s.withMover core ch (.operationPacket core ch) (fun e =>
    let la := e.laddr core
    let r := e.done + e.carry.length
    if e.draws then
      let (k, n) := e.span e.opa.toNat la s.grain
      if k = 0 then s.draw core ch e n e.carry
      else
        s.opPacket core ch e r k (fun t off s =>
          if s.poolBad t off k then s.chanRefused core ch (some t) .eccUncorr 0 (e.opa.toNat + r)
          else
            match s.blockedWay (dieOfCore t) (dieOfCore core) with
            | some sub => s.chanFault core ch .remoteFault sub (e.opa.toNat + r)
            | none => (s.poolCorrect t off k).draw core ch e n (e.carry ++ s.poolBytes t off k))
    else
      let (k, n) := e.span la e.opa.toNat s.grain
      if s.poolBad core (la + r) k then s.chanFault core ch .eccUncorr 0 (la + r)
      else
        let bs := e.carry ++ s.poolBytes core (la + r) k
        let go := fun (s : State) (t : Nat) => (s.poolCorrect core (la + r) k).delivered core ch n (quadOfCore t) (bs.drop n)
        if n = 0 then go s core
        else
          s.opPacket core ch e e.done n (fun t off s =>
            let p := (s.core t).pub[extPslot e.ext]
            if e.pub && !viewHolds p off n then s.chanRefused core ch (some t) .remoteFault 0 (e.opa.toNat + e.done)
            else if s.partBad t off n (if e.pub then backOff p else frontOff (s.core t)) then
              s.chanRefused core ch (some t) .eccUncorr 0 (e.opa.toNat + e.done)
            else if e.pub then go (s.setPoolBack t p off (bs.take n)) t
            else go (s.setPoolBytes t off (bs.take n)) t)))

/-- An access of a plain transfer that its quad's cluster cache serves without asking the memory-side unit (R138, R140). -/
def State.nearby (s : State) (core : Nat) (e : Entry) (p : Place) : Bool :=
  !e.row && e.land == 0 && !pteTOL p.pte && !p.memside core
    && !(s.ownership p.m p.pa).memside.getLsbD (p.pa / 4096 % 16) && (s.cacheLine (quadOfCore core) p.pa).isSome

/-- What the entry's pages are to be: a row command's no reduction pages, a floating-point landing's reduction pages, and no
landing's tolerant ones (R169, R175, R240). -/
def Entry.tol (e : Entry) : Bool := e.land == 0
def Entry.red (e : Entry) : Option Bool := if e.row then some false else if 3 ≤ e.land then some true else none

/-- Translation for a channel's access; a miss starts a walk and the event comes again. -/
def State.chanTranslate (s : State) (core ch : Nat) (e : Entry) (va : Nat) (acc : Access) (again : Instr)
    (k : Place → State → State) : State :=
  let x : Miss := { req := reqChannel core (ch % 4), core, part := s.entryPart e, va, write := acc == .write, sup := e.sup
                    tol := e.tol, red := e.red }
  if 2 ^ 57 ≤ va then s.chanFault core ch .pageFault 1 va
  else
    match s.translate x e.sup acc with
    | .ok p =>
      let way := if s.nearby core e p then none
        else (s.unitDown core p.m p.pa).orElse (fun _ => if acc = .read then s.unitCut core p.m p.pa else none)
      match way with
      | some sub => s.chanFault core ch .remoteFault sub va
      | none => k p s
    | .miss => (s.startWalk x).emit again
    | .fault c sub => s.chanFault core ch c sub va

/-- An error response of a unit of module `m`, with its record (R244); it comes back on a route of its own (R10). -/
def State.unitFault (s : State) (core ch m : Nat) (pa va op : Nat) (c : Cause) (sub : Nat) (unit : Nat := pa) : State :=
  let s := if c = .memsideError then s.memsideRecord m unit pa sub op core else s
  let (c, sub) := s.answerWay (m * 16 + dieOfPa unit) (dieOfCore core) c sub
  s.chanFault core ch c sub va

/-- The row `dramRequestAccept` (R151, R159): one piece of an entry, at its memory-side unit or in the quad's cache. -/
def execDramRequestAccept (core ch : Nat) (s : State) : Host.Outcome State Fault Refusal :=
  let again := Instr.dramRequestAccept core ch
  .next (s.withMover core ch again (fun e =>
    let la := e.laddr core
    let r := e.done + e.carry.length
    if e.draws then
      let (k, n) := e.span e.opa.toNat la s.grain
      let va := e.opa.toNat + r
      if k = 0 then s.draw core ch e n e.carry
      else
        s.chanTranslate core ch e va .read again (fun p s =>
          match s.farRead core p k with
          | .error (c, sub) => s.unitFault core ch p.m p.pa va 0 c sub
          | .ok (bs, s) => s.draw core ch e n (e.carry ++ bs))
    else
      let (k, n) := e.span la e.opa.toNat s.grain
      let va := e.opa.toNat + e.done
      if s.poolBad core (la + r) k then s.chanFault core ch .eccUncorr 0 (la + r)
      else
        let bs := e.carry ++ s.poolBytes core (la + r) k
        let go := fun (s : State) => (s.poolCorrect core (la + r) k).delivered core ch n (quadOfCore core) (bs.drop n)
        if n = 0 then go s
        else
          s.chanTranslate core ch e va .write again (fun p s =>
            match s.farWrite core p (bs.take n) with
            | .fault c sub => s.unitFault core ch p.m p.pa va 0 c sub
            | .decide pa => (s.emit (.ownershipDecision (quadOfCore core) pa)).emit again
            | .done s => go s)))

/-- The row `ownershipDecision` (R140). -/
def execOwnershipDecision (quad pa : Nat) (s : State) : Host.Outcome State Fault Refusal := .next (s.decideOwner quad pa)

/-- Integer elements added modulo their width, lowest first, each an atomic of its own (R169). -/
def State.addIntegers (s : State) (m w : Nat) : Nat → List Nat → State
  | _, [] => s
  | pa, x :: xs => (s.unitWrite m pa (bytesOf w (s.dramNat m pa w + x))).addIntegers m w (pa + w) xs

/-- The row `landingPacket` (R169, R240): up to 64 bytes of one destination line. -/
def execLandingPacket (core ch : Nat) (s : State) : Host.Outcome State Fault Refusal :=
  let again := Instr.landingPacket core ch
  .next (s.withMover core ch again (fun e =>
    let (ss, ds) := (landSrc e.land, landDst e.land)
    let va := e.opa.toNat + e.done / ss * ds
    let la := e.laddr core
    let r := e.done + e.carry.length
    let k := (e.span la e.opa.toNat s.grain).1
    let elems := Min.min ((e.carry.length + k) / ss) ((64 - va % 64) / ds)
    let n := elems * ss
    if e.len % ss ≠ 0 ∨ e.opa.toNat % ds ≠ 0 then s.chanFault core ch .misalign 0 e.opa.toNat
    else if s.poolBad core (la + r) k then s.chanFault core ch .eccUncorr 0 (la + r)
    else
      let bs := e.carry ++ s.poolBytes core (la + r) k
      let go := fun (s : State) => (s.poolCorrect core (la + r) k).delivered core ch n (quadOfCore core) (bs.drop n)
      let xs := (List.range elems).map (fun i =>
        natOfBytes ((bs.drop (ss * i)).take ss) * (if e.land = 4 then 2 ^ 16 else 1))
      if elems = 0 then go s
      else
        s.chanTranslate core ch e va .write again (fun p s =>
          if !memoryAt p.pa then s.unitFault core ch p.m p.pa va 3 .memsideError 1
          else if e.land ≤ 2 then
            let s := (s.markDirty p).beforeAtomic p.m (quadOfCore core) p.pa
            if s.dramBad p.m p.pa (elems * ds) then s.unitFault core ch p.m p.pa va 3 .eccUncorr 0
            else go ((s.readAt p.m p.pa (elems * ds) (ptePIN p.pte)).addIntegers p.m ds p.pa xs)
          else
            let sva := slotAddr e.accr va (extSlot e.ext)
            s.chanTranslate core ch e sva .write again (fun q s =>
              if DramAt.astray p.at q.at then s.unitFault core ch p.m q.pa va 3 .memsideError 2 p.pa
              else
                match s.dramFault q.m q.pa (elems * ds) with
                | some (c, sub) => s.unitFault core ch q.m q.pa va 3 c sub
                | none =>
                  go ((((s.markDirty p).markDirty q).readAt q.m q.pa (elems * ds) (ptePIN q.pte)).accumulate p.m (e.land == 5)
                    p.pa q.pa xs)))))

/-- The parts of a 1 KiB piece that lie together at one memory-side unit: the whole of it in the owned view, its four
granules in the striped view (R174, R176). -/
def rowParts (pa : Nat) : List (Nat × Nat) :=
  if pa / 2 ^ 41 % 2 = 1 then (List.range 4).map (fun i => (pa + 256 * i, 256)) else [(pa, 1024)]

/-- The units that hold a piece count it once each (R176). -/
def State.touchRow (s : State) (m pa : Nat) (pin : Bool) : State :=
  (rowParts pa).foldl (fun s x => s.touch m x.1 pin) s

/-- The units that hold a piece read it. -/
def State.readRow (s : State) (m pa : Nat) (pin : Bool) : State :=
  (rowParts pa).foldl (fun s x => s.readAt m x.1 x.2 pin) s

/-- The units that hold a piece write it. -/
def State.writeRow (s : State) (m pa : Nat) (bs : List Byte) : State :=
  (rowParts pa).foldl (fun s x => s.unitWrite m x.1 ((bs.drop (x.1 - pa)).take x.2)) s

/-- The copy stays inside the DRAM: both rows in the owned view with equal PA[40:19] (R176). -/
def sameSubarray (a b : Nat) : Bool := a / 2 ^ 41 % 2 == 0 && b / 2 ^ 41 % 2 == 0 && a / 2 ^ 19 == b / 2 ^ 19

/-- A unit of the piece cannot read it: an uncorrectable word, or a parity error in the base-die buffer of the copy's path
(R139, R176, R244). -/
def State.rowFault (s : State) (m pa : Nat) (buffer : Bool) : Option (Cause × Nat) :=
  if !memoryAt pa then some (.memsideError, 1)
  else if (rowParts pa).any (fun x => s.dramBad m x.1 x.2) then some (.eccUncorr, 0)
  else if buffer && (rowParts pa).any (fun x => (s.module m).badBuffers.contains (channelOfPa x.1)) then some (.memsideError, 3)
  else none

/-- A base-die buffer is loaded afresh after its error has been answered. -/
def State.renewBuffer (s : State) (m pa : Nat) : State :=
  s.modModule m (fun k => { k with
    badBuffers := k.badBuffers.filter (fun c => !(rowParts pa).any (fun x => channelOfPa x.1 == c)) })

/-- The row `rowCommandPiece` (R175–R177, R370): of one piece, first the invalidation of its cached lines, and then, in a later
event, the piece itself, read whole and then written whole, with its source's lines written back before and its destination's
lines invalidated once more. -/
def execRowCommandPiece (core ch : Nat) (s : State) : Host.Outcome State Fault Refusal :=
  let again := Instr.rowCommandPiece core ch
  .next (s.withMover core ch again (fun e =>
    let va := e.opd.toNat + e.done
    let q := quadOfCore core
    let fits := fun (p : Place) => !pteTOL p.pte ||
      (e.opd.toNat % 2048 == 0 && (e.kind == .dzero || e.opa.toNat % 2048 == 0) && e.len % 2048 == 0)
    let step := fun (p : Place) => if pteTOL p.pte then 2048 else 1024
    let clear := fun (p : Place) (s : State) => (s.markDirty p).discardLines p.m p.pa 1024
    let later := fun (s : State) => (s.modChan core (chOf ch) (fun k => { k with
      queue := k.queue.map (fun x => if x = e then { x with cleared := true } else x) })).emit again
    s.chanTranslate core ch e va .write again (fun p s =>
      if !fits p then s.chanFault core ch .misalign 0 va
      else if !memoryAt p.pa then s.unitFault core ch p.m p.pa va 5 .memsideError 1
      else if e.kind = .dzero then
        let s := clear p s
        if !e.cleared then later s
        else ((s.touchRow p.m p.pa (ptePIN p.pte)).writeRow p.m p.pa (List.replicate 1024 0)).delivered core ch (step p) q []
      else
        let sva := e.opa.toNat + e.done
        s.chanTranslate core ch e sva .read again (fun src s =>
          if pteTOL src.pte != pteTOL p.pte then s.chanFault core ch .pageProt 0 sva
          else
            let s := clear p (s.cleanLines q (fun l =>
              src.m == moduleOfCore core && decide (src.pa / 64 ≤ l.line) && decide (l.line < src.pa / 64 + 16)))
            if !e.cleared then later s
            else
              match s.rowFault src.m src.pa (src.m != p.m || !sameSubarray src.pa p.pa) with
              | some (cause, sub) =>
                (if sub = 3 then s.renewBuffer src.m src.pa else s).unitFault core ch src.m src.pa sva 5 cause sub
              | none =>
                let bs := s.dramBytes src.m src.pa 1024
                (((s.readRow src.m src.pa (ptePIN src.pte)).touchRow p.m p.pa (ptePIN p.pte)).writeRow p.m p.pa bs).delivered
                  core ch (step p) q []))))

/-- A counter takes a bump of `n` modulo 2^32 (R155, R163). -/
def bumpCounter (v : Vector (BitVec 32) 16) (cc n : Nat) : Vector (BitVec 32) 16 :=
  v.set (cc % 16) (v[cc % 16]'(Nat.mod_lt _ (by decide)) + BitVec.ofNat 32 n) (Nat.mod_lt _ (by decide))

def State.bumpCc (s : State) (core cc n : Nat) : State := s.modCore core (fun k => { k with cc := bumpCounter k.cc cc n })

/-- A remote bump on its way, on the stream of its channel (R155); one that is sent again goes before those that wait there
(R161, R276). -/
def State.sendBump (s : State) (tid core ch len : Nat) (chained : Bool) (counter : Nat) (note : Word) (first : Bool) :
    State :=
  let (id, s) := s.fresh
  let r : Req := { id, tid, src := core, stream := some (12 + ch), ea := note, first, part := s.partOfThread tid
                   gen := (s.module (moduleOfCore core)).gen.toNat
                   window := (match addrForm note with
                     | .window _ _ => true
                     | _ => false)
                   body := .bump counter (some (ch, len, chained)) }
  State.emit { s with reqs := if first then r :: s.reqs else s.reqs ++ [r] } r.event

/-- What the channel does once its head entry is gone: the next entry goes on, or the chain. -/
def State.afterHead (s : State) (core : Nat) (c : Fin 4) : State :=
  let k := s.chan core c
  match k.queue with
  | e :: _ =>
    let s := if e.started then s.emit (e.nextEvent core c.val) else s
    s.emit (.channelEntryStart core c.val)
  | [] => if k.running then s.emit (.chainEntryStep core c.val) else s

/-- The row `entryComplete` (R155): the release at the entry's scope, the local bump, then the remote bump. -/
def execEntryComplete (core ch : Nat) (s : State) : Host.Outcome State Fault Refusal :=
  let c := chOf ch
  let k := s.chan core c
  match k.queue with
  | [] => .next s
  | e :: es =>
    if k.fault.isSome || !e.started || decide (e.done < e.len) then .next s
    else
      let s := s.releaseCore core (extScope e.ext)
      let s := if extLe e.ext then s.bumpCc core (extLcc e.ext) 1 else s
      let s := s.modChan core c (fun k => { k with
        queue := es, pick := k.pick - 1, blame := k.blame - 1, blocked := k.blocked.map (fun i => i - 1), cpos := if e.chained then k.next else k.cpos })
      let s := if e.bumpsRemote then s.sendBump e.tid core c.val e.len e.chained (extRcc e.ext) e.opb false else s
      let s := s.trace core 1 0x0100 (threadIndex e.tid) c.val (if e.row then e.opd else e.opa)
        (Word.of (e.len * 2 ^ 32 + c.val))
      .next (s.afterHead core c)

/-! ## Remote bumps (R162) -/

/-- What a remote bump meets. -/
inductive BumpFate where
  | apply (core : Nat)
  /-- The counters of a saved team, by its launch and index. -/
  | saved (launch index : Nat)
  | refuse (c : Cause) (sub : Nat)

def State.bumpFate (s : State) (r : Req) : BumpFate :=
  let reach := fun (c : Nat) =>
    match s.blockedWay (dieOfCore r.src) (dieOfCore c) with
    | some sub => BumpFate.refuse .remoteFault sub
    | none => .apply c
  match addrForm r.ea with
  | .core c _ =>
    let own := s.partOfCore c
    if r.part.isSome && own != r.part || r.part.isNone && !(s.module (moduleOfCore c)).powered then .refuse .remoteFault 1
    else match (s.core c).team with
      | some t => if r.part.isSome && t.part != r.part then .refuse .remoteFault 0 else reach c
      | none =>
        match s.savedAt c with
        | some x => if r.part.isSome && x.part != r.part then .refuse .remoteFault 0 else .saved x.launch x.index
        | none => if r.part.isNone && s.hasFirmware c then reach c else .refuse .remoteFault 0
  | .window m _ =>
    match s.memberTarget r.src m, (s.launchOf r.src).bind (fun l => l.teams[m]?), (s.core r.src).team with
    | .ok c, _, _ => reach c
    | .retry, some t, some me => if t.saved then .saved me.launch m else reach (t.core.getD r.src)
    | .fault c sub, _, _ => .refuse c sub
    | _, _, _ => .refuse .pluralDetached 0
  | _ => .refuse .remoteFault 0

/-- The row `remoteBumpArrival` (R162): applied, applied to saved counters, or refused, which faults the sender's channel
and leaves it holding the bump, in place of a fault that the channel stood in (log 9); a refusal comes back on a route of its own
(R10). -/
def execRemoteBumpArrival (id : Nat) (s : State) : Host.Outcome State Fault Refusal :=
  match s.req? id with
  | none => .next s
  | some r =>
    match r.body with
    | .bump counter _ =>
      if !s.mayGo r then .next s
      else
        let s := s.seen r
        match s.bumpFate r with
        | .apply c => .next (((s.bumpCc c counter 1).heard c r.src r.stream).performed r)
        | .saved launch index =>
          .next (State.performed { s with saved := s.saved.map (fun x =>
            if x.launch = launch ∧ x.index = index then { x with cc := bumpCounter x.cc counter 1 } else x) } r)
        | .refuse cause sub =>
          let (cause, sub) := s.answerWay (dieOfCore ((s.boundFor r).getD r.src)) (dieOfCore r.src) cause sub
          .next (s.refuseBump r cause sub)
    | _ => .next s

/-! ## Resuming and aborting (R161) -/

/-- The stream 12 + n thaws with its channel. -/
def State.thawChannel (s : State) (core : Nat) (c : Fin 4) : State := s.thaw core (12 + c.val)

/-- The channel goes on after a fault: with its head entry, or with the chain entry that it stands on. -/
def State.goOn (s : State) (core : Nat) (c : Fin 4) : State := s.afterHead core c

/-- The row `chstFaultResume` (R161, R162). -/
def execChstFaultResume (core ch : Nat) (s : State) : Host.Outcome State Fault Refusal :=
  let c := chOf ch
  let k := s.chan core c
  match k.fault with
  | none => .next s
  | some _ =>
    let s := s.modChan core c (fun k => { k with fault := none, held := none, first := true })
    let s := match k.held with
      | some (tid, counter, note, len, chained) => s.sendBump tid core c.val len chained counter note true
      | none => s
    .next ((s.thawChannel core c).goOn core c)

/-- The row `chstAbort` (R161, R162): the faulted entry, or only the held bump, is discarded.  Of a chain entry that has
failed its check nothing is queued: the engine goes on at the NEXT that the entry holds (log 9). -/
def execChstAbort (core ch : Nat) (s : State) : Host.Outcome State Fault Refusal :=
  let c := chOf ch
  let k := s.chan core c
  match k.fault with
  | none => .next s
  | some f =>
    let s := (s.modChan core c (fun k => { k with fault := none, held := none, first := true })).thawChannel core c
    if f.bump then .next (s.goOn core c)
    else
      match k.queue[k.blame]? with
      | some e =>
        .next ((s.modChan core c (fun k => { k with
          queue := k.queue.eraseIdx k.blame, pick := 0, blocked := none, cpos := if e.chained then k.next else k.cpos })).goOn core c)
      | none =>
        let next := s.poolNat core (k.cpos + 12) 4 % 2 ^ 20
        .next ((s.modChan core c (fun k => { k with cpos := next })).goOn core c)

/-! ## Chains (R170–R173) -/

/-- The kind of an entry by its chain code (R170). -/
def kindOfCode : Nat → Option EntryKind
  | 1 => some .draw | 2 => some .stow | 3 => some .draws | 4 => some .stows
  | 5 => some .dzero | 6 => some .dcopy | 7 => some .counters | _ => none

/-- The extension word of a chain entry: CH zero, and no bit illegal for its kind (R170). -/
def chainExtOk (kind : EntryKind) (x : BitVec 32) : Bool :=
  extField x 0 2 == 0 &&
  (match kind with
   | .draw | .draws => transferExtOk false x 0 || (extRe x && transferExtOk false x 1)
   | .stow | .stows => transferExtOk true x 0 || (extRe x && transferExtOk true x 1)
   | .dzero | .dcopy => rowCommandExtOk x
   | .counters => extField x 15 17 == 0 && transferExtOk false x (if extRe x then 1 else 0))

/-- ccN has reached a value in wrapping order (R163). -/
def ccReached (k : Core) (cc target : Nat) : Bool :=
  decide (((k.cc[cc % 16]'(Nat.mod_lt _ (by decide))).toNat + 2 ^ 32 - target % 2 ^ 32) % 2 ^ 32 < 2 ^ 31)

/-- The engine reads a chain's entry after the stores that the linking thread had issued before its `CHAIN`, which are in the
pool by then (R171, R249; log 13). -/
def State.linkerStores (s : State) (core : Nat) (k : ChannelState) : State :=
  s.drainThrough (k.reader core) (fun st => decide (st.born < k.linkTick))

/-- The chain entry of a kind at CPOS, as the pool holds it (R170). -/
def State.chainEntry (s : State) (core : Nat) (k : ChannelState) (kind : EntryKind) : Entry :=
  let at_ := fun o n => s.poolNat core (k.cpos + o) n
  { tid := k.kicker, kind, ext := BitVec.ofNat 32 (at_ 4 4), opd := Word.of (at_ 16 8), opa := Word.of (at_ 24 8)
    opb := Word.of (at_ 32 8), accr := (s.thread k.kicker).accr, sup := k.ksup, chained := true, started := true }

/-- The row `chainEntryStep` (R171): the control word at CPOS is read, and the rest of the entry where it parks nothing; the
entry is checked, waited for and performed, or the chain parks.  Nonzero reserved bits of NEXT fail as the other reserved
bits do.  DESIGN CHOICE: an entry that waits under WEN is read and checked anew at each look (log 9). -/
def execChainEntryStep (core ch : Nat) (s : State) : Host.Outcome State Fault Refusal :=
  let c := chOf ch
  let k := s.chan core c
  let s := s.linkerStores core k
  if !k.running || k.fault.isSome || s.faultDue core ch || k.stopping || !k.queue.isEmpty then .next s
  else if k.cpos % 64 ≠ 0 then .next (s.chanFault core ch .misalign 0 k.cpos)
  else if s.accEnd core < k.cpos + 64 then .next (s.chanFault core ch .localRange 0 k.cpos)
  else if s.poolBad core k.cpos 4 then .next (s.chanFault core ch .eccUncorr 0 k.cpos)
  else
    let at_ := fun o n => s.poolNat core (k.cpos + o) n
    let ctl := at_ 0 4
    if ctl % 16 = 0 then
      if ctl / 16 ≠ 0 ∧ (ctl / 2 ^ 5 % 8 ≠ 0 ∨ ctl / 2 ^ 12 ≠ 0) then .next (s.chanFault core ch .illegal 0 k.cpos)
      else if k.kreq then .next ((s.modChan core c (fun k => { k with kreq := false })).emit (.chainEntryStep core ch))
      else .next (s.modChan core c (fun k => { k with running := false }))
    else if s.poolBad core k.cpos 64 then .next (s.chanFault core ch .eccUncorr 0 k.cpos)
    else
      let next := at_ 12 4
      match kindOfCode (ctl % 16) with
      | none => .next (s.chanFault core ch .illegal 0 k.cpos)
      | some kind =>
        let e := s.chainEntry core k kind
        if ctl / 2 ^ 5 % 8 ≠ 0 ∨ ctl / 2 ^ 12 ≠ 0 ∨ chainExtOk kind e.ext = false ∨ next / 2 ^ 20 ≠ 0
            ∨ s.poolBytes core (k.cpos + 40) 24 ≠ List.replicate 24 0 then
          .next (s.chanFault core ch .illegal 0 k.cpos)
        else if next % 64 ≠ 0 then .next (s.chanFault core ch .misalign 0 next)
        else if s.accEnd core < next + 64 then .next (s.chanFault core ch .localRange 0 next)
        else
          match s.entryCheck core e (s.thread k.kicker).tdet with
          | some t => .next (s.chanFault core ch t.cause t.sub t.addr.toNat)
          | none =>
            if ctl / 16 % 2 = 1 ∧ ccReached (s.core core) (ctl / 2 ^ 8 % 16) (at_ 8 4) = false then
              .next (s.emit (.chainEntryStep core ch))
            else
              .next (((s.poolCorrect core k.cpos 64).modChan core c (fun k => { k with queue := [e], next })).emit
                (e.nextEvent core ch))

/-- `CHAIN` (R172): its local address is 20 bits on every core (R128). -/
def execChain (g : Guard) (a b : GReg) (s : State) : Host.Outcome State Fault Refusal :=
  issue (metaG 0x27 g [] [a, b]) s (fun s =>
    let la := field (s.g a) 0 20
    let c := chOf (field (s.g b) 0 2)
    match s.checkLocal la 64 64 with
    | some t => .trap t s
    | none =>
      let k := s.chan s.myCore c
      if !k.queue.isEmpty || k.running then .again none
      else .retire (s.modChan s.myCore c (fun k => { k with
        cpos := la, chn := true, linker := threadIndex s.cur, linkTick := s.tick })))

/-- `KICK` (R173). -/
def execKick (g : Guard) (b : Channel) (s : State) : Host.Outcome State Fault Refusal :=
  issue (metaG 0x27 g [] []) s (fun s =>
    let s := s.drainAll s.cur
    let k := s.chan s.myCore b
    if !k.chn then .retire s
    else
      let s := s.modChan s.myCore b (fun k => { k with kicker := s.cur, ksup := s.src.sup, running := true
                                                       kreq := k.kreq || k.running })
      .retire (if k.running then s else s.emit (.chainEntryStep s.myCore b.val)))

/-! ## Waiting on counters and pointers (R163, R165) -/

/-- `CWAIT` (R163). -/
def execCwait (g : Guard) (d : CcReg) (a : GReg) (s : State) : Host.Outcome State Fault Refusal :=
  issue (metaG 0x27 g [] [a]) s (fun s =>
    await (.counter d (field (s.g a) 0 32)) id
      (fun s' => ccReached (s'.core s'.myCore) d.val (field (s.g a) 0 32)) .retire s)

/-- The row `cwaitSatisfied` (R163). -/
def execCwaitSatisfied (tid : Nat) (s : State) : Host.Outcome State Fault Refusal :=
  .next (s.wake tid
    (fun w s => match w with
      | .counter n t => ccReached (s.core s.myCore) n.val t
      | _ => false)
    (fun _ s => .retire s))

/-- `CPOST` (R163): the thread's earlier local stores become visible first. -/
def execCpost (g : Guard) (d : CcReg) (a : GReg) (s : State) : Host.Outcome State Fault Refusal :=
  issue (metaG 0x27 g [] [a]) s (fun s =>
    .retire ((s.drainAll s.cur).bumpCc s.myCore d.val (field (s.g a) 0 32)))

/-- `WPWAIT` (R165). -/
def execWpwait (g : Guard) (d : WpReg) (a : GReg) (s : State) : Host.Outcome State Fault Refusal :=
  issue (metaG 0x27 g [] [a]) s (fun s =>
    await (.writePointer d (s.g a).toNat) id
      (fun s' => decide ((s.g a).toNat ≤ ((s'.core s'.myCore).wp[d]).toNat)) .retire s)

/-- The row `wpwaitSatisfied` (R165). -/
def execWpwaitSatisfied (tid : Nat) (s : State) : Host.Outcome State Fault Refusal :=
  .next (s.wake tid
    (fun w s => match w with
      | .writePointer n t => decide (t ≤ ((s.core s.myCore).wp[n]).toNat)
      | _ => false)
    (fun _ s => .retire s))

end Sys2Proof.Machine
end

