-- ==== Sys2Proof/Machine/Lookup.lean ====
section
/-!
DEFINITION. Sys2Proof/Machine/Lookup.lean: the table directory, the Elision unit, and lookup operations from issue to
completion (R181–R204; majors 0x28–0x2B).
-/
namespace Sys2Proof.Machine

/-! ## Table descriptors (R182–R186) -/

/-- Bits [lo+n−1:lo] of a descriptor. -/
def dfield (d : BitVec 512) (lo n : Nat) : Nat := d.toNat / 2 ^ lo % 2 ^ n

def tbV (d : BitVec 512) : Bool := d.getLsbD 319
/-- RB, the bytes of a row. -/
def tbRb (d : BitVec 512) : Nat := 32 * dfield d 296 8
def tbSlots (d : BitVec 512) : Nat := dfield d 288 7
def tbK (d : BitVec 512) : Nat := dfield d 280 4
def tbFmt (d : BitVec 512) : Nat := dfield d 272 5
def tbShift (d : BitVec 512) : Nat := dfield d 256 5
def tbShn (d : BitVec 512) : Nat := dfield d 236 20
def tbShfirst (d : BitVec 512) : Nat := dfield d 192 19
def tbRows (d : BitVec 512) : Nat := dfield d 160 32
def tbSstr (d : BitVec 512) : Nat := dfield d 128 32
def tbRbase (d : BitVec 512) : Nat := dfield d 64 57
def tbBase (d : BitVec 512) : Nat := dfield d 0 57

/-- The element formats of a table (R183). -/
def tableFormat (c : Nat) : Option Tag :=
  if c = Tag.f32.code then some .f32
  else if c = Tag.bf16.code then some .bf16
  else if c = Tag.f16.code then some .f16
  else if c = Tag.f8a.code then some .f8a
  else if c = Tag.f8b.code then some .f8b
  else none

/-- RPS (R184). -/
def tbRps (d : BitVec 512) : Nat :=
  let b := tbShn d * 2 ^ tbShift d
  (tbRows d + b - 1) / b * 2 ^ tbShift d

/-- E, the elements of a row (R183). -/
def tbElems (d : BitVec 512) : Nat :=
  match tableFormat (tbFmt d) with
  | some t => tbRb d * 8 / t.width
  | none => 0

/-- The checks of R185 on a valid image. -/
def tableOk (d : BitVec 512) : Bool :=
  [(320, 192), (304, 15), (295, 1), (284, 4), (277, 3), (261, 11), (211, 25), (121, 7), (57, 7)].all
    (fun (lo, n) => dfield d lo n == 0)
  && decide (1 ≤ dfield d 296 8 ∧ dfield d 296 8 ≤ 128) && (tableFormat (tbFmt d)).isSome && decide (tbSlots d ≤ 64)
  && decide (1 ≤ tbRows d ∧ 1 ≤ tbShn d ∧ 1 ≤ tbSstr d ∧ tbShfirst d + tbShn d ≤ 2 ^ 19)
  && tbBase d % 4096 == 0 && tbRbase d % 4096 == 0
  && decide (tbRps d * tbRb d ≤ tbSstr d * 4096)
  && (tbSlots d == 0 || decide (tbSlots d * tbRps d * tbRb d ≤ tbSstr d * 4096))
  && decide (tbBase d + tbShn d * tbSstr d * 4096 ≤ 2 ^ 57)
  && (tbSlots d == 0 || decide (tbRbase d + tbShn d * tbSstr d * 4096 ≤ 2 ^ 57))
  && (tbSlots d == 0 || tbFmt d == Tag.f32.code) && (tbK d == 0 || tbSlots d != 0)

/-- The shard of an identifier, and its local row (R182). -/
def tbShard (d : BitVec 512) (i : Nat) : Nat := i / 2 ^ tbShift d % tbShn d
def tbLocalRow (d : BitVec 512) (i : Nat) : Nat := i / 2 ^ tbShift d / tbShn d * 2 ^ tbShift d + i % 2 ^ tbShift d

/-- The core with a linear number (R182). -/
def coreOfLinear (l : Nat) : Nat := l / 2048 * 4096 + l % 2048 / 128 * 256 + l % 128

/-- The home of an identifier (R182). -/
def tbHome (d : BitVec 512) (i : Nat) : Nat := coreOfLinear (tbShfirst d + tbShard d i)

/-- RowVA (R184). -/
def rowVa (d : BitVec 512) (i : Nat) : Nat := tbBase d + tbShard d i * tbSstr d * 4096 + tbLocalRow d i * tbRb d

/-- Slot `j` of the byte at a row's address (R184, R235). -/
def rowSlot (d : BitVec 512) (x j : Nat) : Nat := x + tbRbase d - tbBase d + j * tbRps d * tbRb d

/-- The slot of the directory that a thread may use (R186). -/
def State.table (s : State) (t : Nat) : Option (BitVec 512) :=
  match (s.die s.myDie).directory.get? t with
  | some e => if e.owner = s.partOfThread s.cur then some e.desc else none
  | none => none

/-- Writes or clears a slot of a die's directory. -/
def State.setTable (s : State) (slot : Nat) (img : BitVec 512) (part : Option Nat) : State :=
  s.modDie s.myDie (fun k => { k with
    directory := if tbV img then k.directory.put slot { desc := img, owner := part } else k.directory.erase slot })

/-- `TBLSET` (R185): it completes when every lookup unit of the die holds the slot. -/
def execTblset (g : Guard) (a b : GReg) (s : State) : Host.Outcome State Fault Refusal :=
  issue (metaG 0x28 g [] [a, b]) s (fun s =>
    let slot := field (s.g a) 0 6
    let la := field (s.g b) 0 20
    match s.checkLocal la 64 64 with
    | some t => .trap t s
    | none =>
      if s.ownBad s.cur la 64 then trapOf s .eccUncorr (Word.of la)
      else
        let s' := s.poolCorrect s.myCore la 64
        let img := BitVec.ofNat 512 (s.ownNat s.cur la 64)
        let part := s.partOfThread s.cur
        let foreign := match (s.die s.myDie).directory.get? slot with
          | some e => e.owner != part
          | none => false
        if foreign || (tbV img && !tableOk img) then trapOf s .tableBad
        else if s.src.granted then .retire (s'.setTable slot img part)
        else .block (.tblset slot img part) s')

/-- The row `tblsetComplete` (R185). -/
def execTblsetComplete (tid : Nat) (s : State) : Host.Outcome State Fault Refusal :=
  .next (s.wake tid
    (fun w _ => match w with
      | .tblset .. => true
      | _ => false)
    (fun w s => match w with
      | .tblset slot img part => .retire (s.setTable slot img part)
      | _ => .again none))

/-- `IDHASH` (R187). -/
def idHash (x y : Word) : Word :=
  let h := x ^^^ y
  let h := (h ^^^ (h >>> 31)) * 0xD6E8FEB86659FD93#64
  let h := (h ^^^ (h >>> 29)) * 0xC2B2AE3D27D4EB4F#64
  (h ^^^ (h >>> 32)) &&& 0xFFFFFFFF#64

/-- `IDHASH` (R187). -/
def execIdhash (g : Guard) (d a b : GReg) (s : State) : Host.Outcome State Fault Refusal :=
  issue (metaG 0x28 g [d] [a, b]) s (fun s => .retire (s.setG d (idHash (s.g a) (s.g b))))

/-! ## The Elision unit (R188, R189) -/

/-- The checks of R189, in an order that is the model's choice: alignment of the output, the number of identifiers, then the
range of output, list and inverse map (log 32). -/
def State.elideCheck (s : State) (out n list inv : Nat) : Option TrapInfo :=
  if out % 4 ≠ 0 then some { cause := .misalign, addr := Word.of out }
  else if 4096 < n then some { cause := .tableBad }
  else
    match s.checkLocal out (4 * n) 4 with
    | some t => some t
    | none =>
      match s.checkLocal list (4 * n) 4 with
      | some t => some t
      | none => s.checkLocal inv (2 * n) 2

/-- `ELIDE` and `ELIDEM` (R189). -/
def elideIssue (merge two : Bool) (g : Guard) (look : Fin 16) (d a b : GReg) (s : State) :
    Host.Outcome State Fault Refusal :=
  issue (metaL 0x29 g look [d] [d, a, b] (if two then 2 else 1)) s (fun s =>
    let out := field (s.g d) 0 20
    let n := field (s.g a) 32 32
    let list := field (s.g a) 0 20
    let inv := field (s.g b) 0 20
    match s.elideCheck out n list inv with
    | some t => .trap t s
    | none =>
      let (id, s) := s.fresh
      let e : Elision := { id, tid := s.cur, core := s.myCore, merge, n, list, out, inv, d }
      let s := { s with elisions := s.elisions ++ [e] }
      .retire ((s.modTh (fun t => { t with outstanding := t.outstanding ++ [{ id, writes := gs [d] }] })).emit
        (.elisionComplete id)))

/-- `ELIDE` (R189). -/
def execElide (g : Guard) (look : Fin 16) (two : Bool) (d a b : GReg) (s : State) : Host.Outcome State Fault Refusal :=
  elideIssue false two g look d a b s

/-- `ELIDEM` (R189). -/
def execElidem (g : Guard) (look : Fin 16) (two : Bool) (d a b : GReg) (s : State) : Host.Outcome State Fault Refusal :=
  elideIssue true two g look d a b s

/-- The place of an identifier in the set. -/
def indexIn (x : BitVec 32) : List (BitVec 32) → Nat → Option Nat
  | [], _ => none
  | y :: ys, i => if x = y then some i else indexIn x ys (i + 1)

/-- How far an operation of the Elision unit has come: identifiers that are new, those that have overflowed, and the address
of a write that met an uncorrectable word, which ends the operation (R137, R189). -/
structure ElideRun where
  new : Nat := 0
  ovf : Nat := 0
  bad : Option Nat := none
  deriving DecidableEq, Repr

/-- A write of the unit; one that covers an uncorrectable word only in part leaves it, and ends the operation (R137). -/
def State.elideWrite (e : Elision) (x : State × ElideRun) (at_ : Nat) (bs : List Byte) : State × ElideRun :=
  if x.1.ownBadStore e.tid at_ bs.length then (x.1, { x.2 with bad := some at_ }) else (x.1.ownWrite e.tid at_ bs, x.2)

/-- One identifier of an operation of the Elision unit (R189). -/
def State.elideOne (e : Elision) (x : State × ElideRun) (i : Nat) : State × ElideRun :=
  if x.2.bad.isSome then x
  else
    let (s, r) := x
    let id := BitVec.ofNat 32 (s.ownNat e.tid (e.list + 4 * i) 4)
    let set := (s.core e.core).elision
    let inv := fun (x : State × ElideRun) (k : Nat) =>
      if x.2.bad.isSome then x else State.elideWrite e x (e.inv + 2 * i) (bytesOf 2 k)
    match indexIn id set 0 with
    | some k => inv (s, r) k
    | none =>
      if set.length < 4096 then
        let s := s.modCore e.core (fun k => { k with elision := set ++ [id] })
        inv (State.elideWrite e (s, { r with new := r.new + 1 }) (e.out + 4 * r.new) (bytesOf 4 id.toNat)) set.length
      else inv (s, { r with ovf := r.ovf + 1 }) 0xFFFF

/-- An operation of the Elision unit: the set empty at first for `ELIDE`, then the list, one identifier after the other
(R189). -/
def State.elide (s : State) (e : Elision) : State × ElideRun :=
  (List.range e.n).foldl (State.elideOne e)
    (if e.merge then s else s.modCore e.core (fun k => { k with elision := [] }), {})

/-- 32-bit values at a place of the pool of a thread's core, as its units read them. -/
def State.ownWords (s : State) (tid la n : Nat) : List (BitVec 32) :=
  (List.range n).map (fun i => BitVec.ofNat 32 (s.ownNat tid (la + 4 * i) 4))

/-- The row `elisionComplete` (R188, R189): a unit takes one operation at a time, in the order of issue. -/
def execElisionComplete (id : Nat) (s : State) : Host.Outcome State Fault Refusal :=
  match s.elisions.find? (fun e => e.id == id) with
  | none => .next s
  | some e =>
    if (s.elisions.find? (fun x => x.core == e.core)).any (fun x => x.id != id) then
      .next (s.emit (.elisionComplete id))
    else
      let s := { s with elisions := s.elisions.filter (fun x => x.id != id) }
      if s.ownBad e.tid e.list (4 * e.n) then
        .next ((s.endOutstanding e.tid id).pendAlive e.tid { cause := .eccUncorr, origin := 2, addr := Word.of e.list })
      else
        let (s, r) := (s.poolCorrect e.core e.list (4 * e.n)).elide e
        let res := Word.of (r.ovf % 2 ^ 16 * 2 ^ 48 + (s.core e.core).elision.length % 2 ^ 16 * 2 ^ 32 + r.new % 2 ^ 16)
        let t := s.thread e.tid
        match r.bad with
        | some a =>
          .next ((s.endOutstanding e.tid id).pendAlive e.tid { cause := .eccUncorr, origin := 2, addr := Word.of a })
        | none =>
          .next (if t.outstanding.any (fun o => o.id == id) then
            (s.setThread e.tid (t.setG e.d res)).endOutstanding e.tid id else s)

/-! ## Lookup operations at issue (R190, R191, R198, R199) -/

/-- A lookup unit holds 16 operations (R202). -/
def State.lookupFull (s : State) : Bool := decide (16 ≤ s.lookups.countP (fun l => l.core == s.myCore))

/-- An operation enters its unit. -/
def State.addLookup (s : State) (l : LookupOp) : State :=
  let (id, s) := s.fresh
  State.emit { s with lookups := s.lookups ++ [{ l with id, tid := s.cur, core := s.myCore, sup := s.src.sup }] }
    (.lookupOpStart id)

/-- The first of several checks that fails. -/
def firstTrap : List (Option TrapInfo) → Option TrapInfo
  | [] => none
  | some t :: _ => some t
  | none :: ts => firstTrap ts

/-- A check that traps where it does not hold. -/
def demand (ok : Bool) (c : Cause) (addr : Nat := 0) : Option TrapInfo :=
  if ok then none else some { cause := c, addr := Word.of addr }

/-- `ROWGET` and `ROWGETW` at issue (R191). -/
def gatherIssue (wide : Bool) (words : Nat) (g : Guard) (look : Fin 16) (d a b : GReg) (x : BitVec 32) (s : State) :
    Host.Outcome State Fault Refusal :=
  issue (metaL 0x2A g look [] [d, a, b] words) s (fun s =>
    let t := extField x 16 6
    let n := field (s.g a) 32 32
    let list := field (s.g a) 0 20
    let laddr := field (s.g d) 0 20
    if s.lookupFull then .again none
    else
      match s.table t with
      | none => trapOf s .tableBad
      | some e =>
        let pitch := if field (s.g b) 0 20 = 0 then tbRb e else field (s.g b) 0 20
        let far := addrForm (s.g d)
        let dest : List (Option TrapInfo) :=
          if wide then
            [(match far with
              | .nonCanonical => some { cause := .pageFault, sub := 1, addr := s.g d }
              | .dram _ => some { cause := .illegal }
              | f => if s.detachedFor s.myCore s.src.tdet f then some { cause := .pluralDetached, addr := s.g d } else none)]
          else
            [demand (laddr % 32 == 0) .misalign laddr,
             demand (n == 0 || decide (laddr + (n - 1) * pitch + tbRb e ≤ s.accEnd s.myCore)) .localRange laddr]
        match firstTrap ([demand (decide (n ≤ 4096)) .tableBad, demand (pitch % 32 == 0 && decide (tbRb e ≤ pitch)) .tableBad,
            s.checkLocal list (4 * n) 4] ++ dest) with
        | some t => .trap t s
        | none =>
          let fresh := extField x 15 1 == 1 || s.src.fb.getLsbD t
          let s := s.modTh (fun th => { th with fb := th.fb &&& ~~~(1#64 <<< t) })
          .retire (s.addLookup { id := 0, tid := 0, core := 0, desc := e, n, list
                                 kind := .gather fresh (if wide then some (s.g d) else none) laddr pitch
                                 scope := extField x 12 3
                                 lcc := if extField x 2 1 = 1 then some (extField x 3 4) else none
                                 rcc := if extField x 7 1 = 1 then some (extField x 8 4) else none, ga := s.g a }))

/-- `ROWGET` (R190). -/
def execRowget (g : Guard) (look : Fin 16) (d a b : GReg) (s : State) : Host.Outcome State Fault Refusal :=
  gatherIssue false 1 g look d a b 0 s

/-- `ROWGET` with an extension word (R190). -/
def execRowgetDw (g : Guard) (look : Fin 16) (d a b : GReg) (ext : BitVec 32) (s : State) :
    Host.Outcome State Fault Refusal :=
  gatherIssue false 2 g look d a b ext s

/-- `ROWGETW` (R190). -/
def execRowgetw (g : Guard) (look : Fin 16) (d a b : GReg) (s : State) : Host.Outcome State Fault Refusal :=
  gatherIssue true 1 g look d a b 0 s

/-- `ROWGETW` with an extension word (R190). -/
def execRowgetwDw (g : Guard) (look : Fin 16) (d a b : GReg) (ext : BitVec 32) (s : State) :
    Host.Outcome State Fault Refusal :=
  gatherIssue true 2 g look d a b ext s

/-- `ROWACC` and `ROWSET` at issue (R198).  DESIGN CHOICE: the order of the checks, with `MISALIGN` of the data before
`LOCAL_RANGE` (log 32). -/
def scatterIssue (acc : Bool) (g : Guard) (a b : GReg) (s : State) : Host.Outcome State Fault Refusal :=
  issue (metaG 0x28 g [] [a, b]) s (fun s =>
    let list := field (s.g a) 32 20
    let data := field (s.g a) 0 20
    let n := field (s.g b) 32 16
    let scope := field (s.g b) 17 3
    let j := field (s.g b) 6 6
    if s.lookupFull then .again none
    else
      match s.table (field (s.g b) 0 6) with
      | none => trapOf s .tableBad
      | some e =>
        match firstTrap [demand (decide (scope ≤ 5)) .illegal, demand (decide (n ≤ 4096)) .tableBad,
            demand (!acc || decide (j < tbSlots e)) .tableBad, s.checkLocal list (4 * n) 4,
            demand (data % 32 == 0) .misalign data, s.checkLocal data (n * tbRb e) 32] with
        | some t => .trap t s
        | none =>
          .retire (s.addLookup
            { id := 0, tid := 0, core := 0, desc := e, n, list, kind := if acc then .accumulate j data else .store data
              scope, lcc := if bit (s.g b) 16 then some (field (s.g b) 12 4) else none, ga := s.g a }))

/-- `ROWACC` (R198). -/
def execRowacc (g : Guard) (a b : GReg) (s : State) : Host.Outcome State Fault Refusal := scatterIssue true g a b s

/-- `ROWSET` (R198). -/
def execRowset (g : Guard) (a b : GReg) (s : State) : Host.Outcome State Fault Refusal := scatterIssue false g a b s

/-- `SEGRED` and `SEGSCAT` at issue (R199).  DESIGN CHOICE: a gradient's address is a multiple of 4 and a map's of any number,
and an output or row that is misaligned and out of range traps `MISALIGN` (log 32). -/
def segIssue (scat : Bool) (words : Nat) (g : Guard) (look : Fin 16) (d a b : GReg) (x : BitVec 32) (s : State) :
    Host.Outcome State Fault Refusal :=
  issue (metaL 0x2B g look [] [d, a, b] words) s (fun s =>
    let kind := extField x 14 2
    let inv := extField x 13 1 == 1
    let hiD := field (s.g d) 32 32
    let out := field (s.g d) 0 20
    let hiA := field (s.g a) 32 32
    let rows := field (s.g a) 0 20
    let map := field (s.g b) 32 20
    let offs := field (s.g b) 0 20
    if s.lookupFull then .again none
    else
      match s.table (extField x 7 6) with
      | none => trapOf s .tableBad
      | some e =>
        let bags := if scat then hiA else hiD
        let outRows := if scat then hiD else bags
        let pitch := if hiA = 0 then tbRb e else hiA
        let outLen := outRows * (4 * tbElems e)
        let shape : List (Option TrapInfo) :=
          [demand (decide (1 ≤ bags) && decide (bags ≤ 4096)) .tableBad,
           demand (decide (1 ≤ outRows) && decide (outRows ≤ 65536)) .tableBad,
           demand (scat || (pitch % 32 == 0 && decide (tbRb e ≤ pitch))) .tableBad,
           demand (out % 32 == 0) .misalign out, demand (rows % (if scat then 4 else 32) == 0) .misalign rows,
           s.checkLocal offs (4 * (bags + 1)) 4, s.checkLocal out outLen 32,
           demand (scat || decide (s.scratchEnd s.myCore ≤ out)) .localRange out,
           if scat then s.checkLocal rows (bags * (4 * tbElems e)) 4 else none]
        match firstTrap shape with
        | some t => .trap t s
        | none =>
          .retire (s.addLookup
            { id := 0, tid := 0, core := 0, desc := e
              kind := if scat then .segscat kind inv bags outRows out rows map offs
                else .segred kind inv bags out rows pitch map offs
              lcc := if extField x 2 1 = 1 then some (extField x 3 4) else none, ga := s.g a }))

/-- `SEGRED` (R199). -/
def execSegred (g : Guard) (look : Fin 16) (d a b : GReg) (s : State) : Host.Outcome State Fault Refusal :=
  segIssue false 1 g look d a b 0 s

/-- `SEGRED` with an extension word (R199). -/
def execSegredDw (g : Guard) (look : Fin 16) (d a b : GReg) (ext : BitVec 32) (s : State) :
    Host.Outcome State Fault Refusal :=
  segIssue false 2 g look d a b ext s

/-- `SEGSCAT` (R199). -/
def execSegscat (g : Guard) (look : Fin 16) (d a b : GReg) (s : State) : Host.Outcome State Fault Refusal :=
  segIssue true 1 g look d a b 0 s

/-- `SEGSCAT` with an extension word (R199). -/
def execSegscatDw (g : Guard) (look : Fin 16) (d a b : GReg) (ext : BitVec 32) (s : State) :
    Host.Outcome State Fault Refusal :=
  segIssue true 2 g look d a b ext s

/-! ## The life of an operation (R200, R201) -/

def State.lookup? (s : State) (id : Nat) : Option LookupOp := s.lookups.find? (fun l => l.id == id)
def State.updLookup (s : State) (id : Nat) (f : LookupOp → LookupOp) : State :=
  { s with lookups := s.lookups.map (fun l => if l.id = id then f l else l) }

/-- Row `i` of an operation. -/
def LookupOp.row? (l : LookupOp) (i : Nat) : Option LookupRow := l.rows[i]?
def LookupOp.setRow (l : LookupOp) (i : Nat) (st : RowStatus) : LookupOp :=
  { l with rows := l.rows.zipIdx.map (fun (r, k) => if k = i then { r with st } else r) }
def State.setRow (s : State) (id i : Nat) (st : RowStatus) : State := s.updLookup id (fun l => l.setRow i st)

/-- The translation generation of a row's packet, once its home has translated it (R151). -/
def State.stampRow (s : State) (id i gen : Nat) : State :=
  s.updLookup id (fun l => { l with rows := l.rows.zipIdx.map (fun (r, k) => if k = i then { r with gen } else r) })

/-- The operation has begun and none of its rows is still on its way. -/
def LookupOp.over (l : LookupOp) : Bool := l.started && l.rows.all (fun r => r.st == .finished)

/-- What a thread's operations may do next: its first may complete, and its first that has not begun may begin. -/
def State.lookupGo (s : State) (tid : Nat) : State :=
  let mine := s.lookups.filter (fun l => l.tid == tid)
  let s := match mine with
    | l :: _ => if l.over then s.emit (.lookupOpComplete l.id) else s
    | [] => s
  match mine.find? (fun l => !l.started) with
  | some l => s.emit (.lookupOpStart l.id)
  | none => s

/-- An operation leaves its unit; requests that had joined one of its own go on alone (R194). -/
def State.removeLookup (s : State) (l : LookupOp) : State :=
  let s := { s with lookups := s.lookups.filter (fun x => x.id != l.id) }
  let joined := s.lookups.flatMap (fun x => x.rows.zipIdx.filterMap (fun (r, i) => match r.st with
    | .merged op _ => if op = l.id then some (x.id, i) else none
    | _ => none))
  joined.foldl (fun s (id, i) => (s.setRow id i .waiting).emit (.rowRequestServe id i)) s

/-- The row `lookupOpComplete` (R191, R198, R200): the release, then LCC, then RCC. -/
def execLookupOpComplete (id : Nat) (s : State) : Host.Outcome State Fault Refusal :=
  match s.lookup? id with
  | none => .next s
  | some l =>
    if !l.over || (s.lookups.find? (fun x => x.tid == l.tid)).any (fun x => x.id != id) then .next s
    else
      let s := (s.releaseCore l.core l.scope).dropWalks (reqLookup id)
      let s := match l.lcc with
        | some c => s.bumpCc l.core c 1
        | none => s
      let s := s.removeLookup l
      let s := match l.kind, l.rcc with
        | .gather _ (some far) _ _, some c =>
          (s.inject { id := 0, tid := l.tid, src := l.core, ea := far, part := s.partOfThread l.tid
                      window := (match addrForm far with
                        | .window _ _ => true
                        | _ => false)
                      body := .bump c none }).2
        | _, _ => s
      .next ((s.trace l.core 2 0x0200 (threadIndex l.tid) 0 l.ga 0).lookupGo l.tid)

/-- The row `lookupOpFault` (R201): the operation ends, bumps nothing, and its thread traps. -/
def execLookupOpFault (id : Nat) (cause : Cause) (sub addr : Nat) (s : State) : Host.Outcome State Fault Refusal :=
  match s.lookup? id with
  | none => .next s
  | some l =>
    let s := (s.dropWalks (reqLookup id)).removeLookup l
    let s := s.trace l.core 2 0x0200 (threadIndex l.tid) 0 l.ga (Word.of cause.code)
    .next ((s.pendAlive l.tid { cause, sub, origin := 2, addr := Word.of addr }).lookupGo l.tid)

/-- A fault of an operation, found now. -/
def State.lookupFault (s : State) (id : Nat) (c : Cause) (sub addr : Nat) : State := s.emit (.lookupOpFault id c sub addr)

/-! ## `SEGRED` and `SEGSCAT` (R200) -/

/-- An element of a table's format widened exactly to `F32`. -/
def widen (t : Tag) (x : Nat) : Nat :=
  match t.float with
  | some f => (f32Fmt.deliver .rne false (f.val x)).1
  | none => x

/-- y / n and y / √n, rounded once to `F32`. -/
def divCount (y n : Nat) : Lane :=
  match f32Fmt.val y with
  | .fin neg m e => f32Fmt.round .rne neg (ratOf m e).1 ((ratOf m e).2 * n)
  | v => f32Fmt.deliver .rne false v
def divRoot (y n : Nat) : Lane :=
  match f32Fmt.val y with
  | .fin neg m e =>
    if m = 0 then (f32Fmt.sign neg, 0)
    else
      let (a, b) := ratOf m e
      let (r, fl) := f32Fmt.roundRsqrt (n * b * b) (a * a)
      (r + f32Fmt.sign neg, fl)
  | v => f32Fmt.deliver .rne false v

/-- The scaling of a kind: 1 mean, 3 square root of the count. -/
def segScale (kind y n : Nat) : Lane := if kind = 1 then divCount y n else if kind = 3 then divRoot y n else (y, 0)

/-- Two rows combined element by element, with their flags. -/
def zipLanes (f : Nat → Nat → Lane) (xs ys : List Nat) : List Nat × BitVec 6 :=
  let ls := List.zipWith f xs ys
  (ls.map (·.1), ls.foldl (fun a l => a ||| l.2) 0)

/-- The bag that a position lies in; positions before the first offset lie in none (log 17). -/
def bagOf (offs : List Nat) (i : Nat) : Option Nat :=
  if i < offs.headD 0 then none else some (offs.countP (fun o => decide (o ≤ i)) - 1)

/-- The first index at which a list of offsets falls. -/
def fallsAt : List Nat → Nat → Option Nat
  | a :: b :: t, k => if b < a then some (k + 1) else fallsAt (b :: t) (k + 1)
  | _, _ => none

/-- A segmented operation's own reads: its offsets, and the row that a position reads (R200). -/
structure SegInput where
  tid : Nat
  /-- The table's elements in a row, and their format. -/
  e : Nat
  fmt : Tag
  kind : Nat
  inv : Bool
  rows : Nat
  pitch : Nat
  map : Nat
  offs : List Nat

/-- The number of positions in a bag. -/
def SegInput.size (x : SegInput) (b : Nat) : Nat := x.offs.getD (b + 1) 0 - x.offs.getD b 0

/-- row(i) of R200. -/
def SegInput.row (x : SegInput) (s : State) (i : Nat) : Nat := if x.inv then s.ownNat x.tid (x.map + 2 * i) 2 else i

/-- Element `k` of a gathered row, widened. -/
def SegInput.elem (x : SegInput) (s : State) (r k : Nat) : Nat :=
  let w := x.fmt.width / 8
  widen x.fmt (s.ownNat x.tid (x.rows + r * x.pitch + k * w) w)

/-- Element `k` of bag `b` of `SEGRED`, from left to right (R200). -/
def SegInput.bag (x : SegInput) (s : State) (b k : Nat) : Lane :=
  let n := x.size b
  let val := fun j => x.elem s (x.row s (x.offs.getD b 0 + j)) k
  if n = 0 then (0, 0)
  else
    let (y, fl) := (List.range (n - 1)).foldl (fun (y, fl) j =>
      let (z, f) := if x.kind = 2 then (f32Fmt.pick true y (val (j + 1)), 0) else f32Fmt.add y (val (j + 1))
      (z, fl ||| f)) (val 0, (0 : BitVec 6))
    let (z, f) := segScale x.kind y n
    (z, fl ||| f)

/-- `SEGRED` (R200): bag after bag, each row of the output written whole as it has been computed, which overwrites its words
(R137); the state and the flags. -/
def SegInput.red (x : SegInput) (s : State) (bags out : Nat) : State × BitVec 6 :=
  (List.range bags).foldl (fun (s, fl) b =>
    let ls := (List.range x.e).map (x.bag s b)
    (s.ownWrite x.tid (out + 4 * (b * x.e)) (ls.flatMap (fun l => bytesOf 4 l.1)), ls.foldl (fun f l => f ||| l.2) fl)) (s, 0)

/-- `SEGSCAT` (R200): the output is zeroed, and then each position's row is added, element by element. -/
def SegInput.scat (x : SegInput) (s : State) (outRows out : Nat) : State × BitVec 6 :=
  let zeroed := s.ownWrite x.tid out (List.replicate (4 * outRows * x.e) 0)
  let first := x.offs.headD 0
  (List.range ((x.offs.getLastD 0 - first) * x.e)).foldl (fun (s, fl) k =>
    let i := first + k / x.e
    match bagOf x.offs i with
    | none => (s, fl)
    | some b =>
      let (c, f1) := segScale x.kind (s.ownNat x.tid (x.rows + 4 * (b * x.e + k % x.e)) 4) (x.size b)
      let at_ := out + 4 * (x.row s i * x.e + k % x.e)
      let (y, f2) := f32Fmt.add (s.ownNat x.tid at_ 4) c
      (s.ownWrite x.tid at_ (bytesOf 4 y), fl ||| f1 ||| f2)) (zeroed, 0)

/-- The checks that a segmented operation makes before it reads (R200): a fault and its address, or the offsets. -/
def State.segCheck (s : State) (tid : Nat) (d : BitVec 512) (scat inv : Bool) (bags outRows rows pitch map offsAt : Nat) :
    Except (Cause × Nat) (List Nat) :=
  let core := coreOfThread tid
  let offs := (List.range (bags + 1)).map (fun i => s.ownNat tid (offsAt + 4 * i) 4)
  let ob := offs.getLastD 0
  let o0 := offs.headD 0
  if s.ownBad tid offsAt (4 * (bags + 1)) then .error (.eccUncorr, offsAt)
  else
    match fallsAt offs 0 with
    | some k => .error (.tableBad, offsAt + 4 * k)
    | none =>
      if 65536 < ob then .error (.tableBad, offsAt + 4 * bags)
      else if inv ∧ s.accEnd core < map + 2 * ob ∧ 0 < ob then .error (.localRange, map)
      else if inv && s.ownBad tid map (2 * ob) then .error (.eccUncorr, map)
      else
        let row := fun i => if inv then s.ownNat tid (map + 2 * i) 2 else i
        let positions := (List.range (ob - o0)).map (fun k => o0 + k)
        match positions.find? (fun i => !scat && decide (s.accEnd core < rows + row i * pitch + tbRb d)) with
        | some i => .error (.localRange, rows + row i * pitch)
        | none =>
          match positions.find? (fun i => scat && decide (outRows ≤ row i)) with
          | some i => .error (.tableBad, if inv then map + 2 * i else offsAt)
          | none =>
            match positions.find? (fun i => !scat && s.ownBad tid (rows + row i * pitch) (tbRb d)) with
            | some i => .error (.eccUncorr, rows + row i * pitch)
            | none => if scat && s.ownBad tid rows (bags * 4 * tbElems d) then .error (.eccUncorr, rows) else .ok offs

/-- Single-bit errors in what a segmented operation reads are corrected (R137). -/
def SegInput.correct (x : SegInput) (s : State) (scat : Bool) (bags offsAt rb : Nat) : State :=
  let c := coreOfThread x.tid
  let first := x.offs.headD 0
  let s := s.poolCorrect c offsAt (4 * (bags + 1))
  let s := if x.inv then s.poolCorrect c x.map (2 * x.offs.getLastD 0) else s
  if scat then s.poolCorrect c x.rows (bags * 4 * x.e)
  else (List.range (x.offs.getLastD 0 - first)).foldl (fun s k =>
    s.poolCorrect c (x.rows + x.row s (first + k) * x.pitch) rb) s

/-- A segmented operation begins, and ends in the same step. -/
def State.segRun (s : State) (l : LookupOp) (scat : Bool) (kind : Nat) (inv : Bool)
    (bags outRows out rows pitch map offs : Nat) : State :=
  match s.segCheck l.tid l.desc scat inv bags outRows rows pitch map offs with
  | .error (c, a) => s.lookupFault l.id c 0 a
  | .ok os =>
    let x : SegInput := { tid := l.tid, e := tbElems l.desc, fmt := (tableFormat (tbFmt l.desc)).getD .f32
                          kind, inv, rows, pitch, map, offs := os }
    let s := x.correct s scat bags offs (tbRb l.desc)
    let (s, fl) := if scat then x.scat s outRows out else x.red s bags out
    let s := s.modThread l.tid (fun t => { t with fflags := t.fflags ||| fl })
    (s.updLookup l.id (fun y => { y with started := true })).lookupGo l.tid

/-! ## Rows on their way (R191–R195) -/

/-- The identifiers of an operation's list. -/
def State.lookupIds (s : State) (l : LookupOp) : List Nat := (s.ownWords l.tid l.list l.n).map BitVec.toNat

/-- An operation begins: it reads its list, and its requests are ready to leave. -/
def State.rowsRun (s : State) (l : LookupOp) (data : Option Nat) : State :=
  let rb := tbRb l.desc
  let ids := s.lookupIds l
  if s.ownBad l.tid l.list (4 * l.n) then s.lookupFault l.id .eccUncorr 0 l.list
  else
    match ids.zipIdx.find? (fun (x, _) => decide (tbRows l.desc ≤ x)) with
    | some (_, k) => s.lookupFault l.id .tableBad 0 (l.list + 4 * k)
    | none =>
      if data.any (fun a => s.ownBad l.tid a (l.n * rb)) then s.lookupFault l.id .eccUncorr 0 (data.getD 0)
      else
        let rows := ids.zipIdx.map (fun (x, k) =>
          ({ rid := x, data := match data with
            | some a => s.ownBytes l.tid (a + k * rb) rb
            | none => [] } : LookupRow))
        let s := s.poolCorrect l.core l.list (4 * l.n)
        let s := match data with
          | some a => s.poolCorrect l.core a (l.n * rb)
          | none => s
        let s := (s.updLookup l.id (fun x => { x with started := true, rows })).lookupGo l.tid
        s.emits ((List.range l.n).map (fun i => .rowRequestServe l.id i))

/-- The row `lookupOpStart` (R200): a gather begins once every earlier operation of its thread has begun, any other once
every earlier one has completed. -/
def execLookupOpStart (id : Nat) (s : State) : Host.Outcome State Fault Refusal :=
  match s.lookup? id with
  | none => .next s
  | some l =>
    let before := (s.lookups.filter (fun x => x.tid == l.tid)).takeWhile (fun x => x.id != id)
    if l.started then .next s
    else
      match l.kind with
      | .gather .. => .next (if before.all (fun x => x.started) then s.rowsRun l none else s)
      | .accumulate _ data => .next (if before.isEmpty then s.rowsRun l (some data) else s)
      | .store data => .next (if before.isEmpty then s.rowsRun l (some data) else s)
      | .segred kind inv bags out rows pitch map offs =>
        .next (if before.isEmpty then s.segRun l false kind inv bags bags out rows pitch map offs else s)
      | .segscat kind inv bags outRows out grads map offs =>
        .next (if before.isEmpty then s.segRun l true kind inv bags outRows out grads 0 map offs else s)

/-- A row's packet has been accepted at its home's memory-side unit. -/
def LookupRow.accepted (r : LookupRow) : Bool :=
  match r.st with
  | .waiting | .served _ _ | .merged _ _ => false
  | _ => true

/-- A request is one of a merged group, whose first members are `lead` (R194). -/
def LookupRow.inGroup (r : LookupRow) (lead : List (Nat × Nat)) (id i : Nat) : Bool :=
  lead.contains (id, i) || (match r.st with
    | .merged op k => lead.contains (op, k)
    | _ => false)

/-- Every earlier packet of the thread to the same home has been accepted (R193), but for those of the groups that `lead`
names. -/
def State.rowFirst (s : State) (l : LookupOp) (i : Nat) (lead : List (Nat × Nat)) : Bool :=
  match l.row? i with
  | none => false
  | some r =>
    let home := tbHome l.desc r.rid
    let clear := fun (x : LookupOp) (rs : List (LookupRow × Nat)) => rs.all (fun (q, k) =>
      q.accepted || tbHome x.desc q.rid != home || q.inGroup lead x.id k)
    ((s.lookups.filter (fun x => x.tid == l.tid)).takeWhile (fun x => x.id != l.id)).all (fun x => clear x x.rows.zipIdx)
      && clear l (l.rows.zipIdx.take i)

/-- The memory-side unit that a DRAM request is to reach, by module and pseudo-channel. -/
def Req.unit (r : Req) : Option (Nat × Nat) :=
  let at_ := fun (p : DramAt) => (p.m, channelOfPa p.pa)
  match r.body with
  | .amo _ _ _ _ _ mem => mem.map at_
  | .acc _ _ base _ => some (at_ base)
  | .fold _ line _ => some (at_ line)
  | _ => none

/-- The request has yet to execute at its unit, by itself or in one that it has joined (R233). -/
def Req.onWay (r : Req) : Bool :=
  match r.st with
  | .waiting | .joined _ => true
  | _ => false

/-- No request of the thread that was issued before `id` is still on its way to a memory-side unit (R229, R251). -/
def State.reqsBefore (s : State) (tid id : Nat) (unit : Nat × Nat) : Bool :=
  s.reqs.all (fun r => !(r.tid == tid && decide (r.id < id) && r.onWay) || r.unit != some unit)

/-- Two row requests are identical (R194). -/
def State.sameRequest (s : State) (l : LookupOp) (r : LookupRow) (l2 : LookupOp) (r2 : LookupRow) : Bool :=
  match l.kind, l2.kind with
  | .gather f .., .gather f2 .. =>
    (s.partition (moduleOfCore l.core) (s.partOfThread l.tid)).asid
        == (s.partition (moduleOfCore l2.core) (s.partOfThread l2.tid)).asid
      && s.partOfThread l.tid == s.partOfThread l2.tid && l.sup == l2.sup
      && tbHome l.desc r.rid == tbHome l2.desc r2.rid && rowVa l.desc r.rid == rowVa l2.desc r2.rid
      && tbRb l.desc == tbRb l2.desc && tbK l.desc == tbK l2.desc && tbSlots l.desc == tbSlots l2.desc && f == f2
  | _, _ => false

/-- The requests that have joined a request (R194). -/
def State.joinedTo (s : State) (id i : Nat) : List (Nat × Nat) :=
  s.lookups.flatMap (fun x => x.rows.zipIdx.filterMap (fun (r, k) => if r.st = .merged id i then some (x.id, k) else none))

/-- A merged group may leave for its home: each of its members has no earlier packet on its way there (R194). -/
def State.groupFirst (s : State) (lead : List (Nat × Nat)) : Bool :=
  lead.all (fun (id, i) => ((id, i) :: s.joinedTo id i).all (fun (x, k) =>
    (s.lookup? x).any (fun l => s.rowFirst l k lead)))

/-- No source of a group has an earlier request of its own on its way to a memory-side unit (R229). -/
def State.soloBefore (s : State) (lead : List (Nat × Nat)) : Bool :=
  lead.all (fun (id, i) => ((id, i) :: s.joinedTo id i).all (fun (x, _) =>
    (s.lookup? x).any (fun l => s.reqs.all (fun r => !(r.tid == l.tid && decide (r.id < x) && r.onWay) || r.unit.isNone))))

/-- The row `rowRequestMerge` (R194): request i2 of operation id2 joins request i of operation id, with what has joined it.
Requests join once none of their sources has an earlier packet on its way to the home, nor an earlier `AMO`, `CAS`, `ACC` or
`FOLD` on its way to a unit (R229). -/
def execRowRequestMerge (id i id2 i2 : Nat) (s : State) : Host.Outcome State Fault Refusal :=
  match s.lookup? id, s.lookup? id2 with
  | some l, some l2 =>
    match l.row? i, l2.row? i2 with
    | some r, some r2 =>
      if (id != id2 || i != i2) && r.st == .waiting && r2.st == .waiting && s.sameRequest l r l2 r2
          && s.groupFirst [(id, i), (id2, i2)] && s.soloBefore [(id, i), (id2, i2)] then
        .next ((((id2, i2) :: s.joinedTo id2 i2).foldl (fun s (x, k) => s.setRow x k (.merged id i)) s).count
          (tbHome l.desc r.rid) 11 none 1)
      else .next s
    | _, _ => .next s
  | _, _ => .next s

/-- The 32-byte pieces of a row, by address; of all its lines where it may be folded. -/
def rowPieces (d : BitVec 512) (va : Nat) (whole : Bool) : List Nat :=
  let lo := if whole then va / 64 * 64 else va
  let hi := if whole then (va + tbRb d + 63) / 64 * 64 else va + tbRb d
  (List.range ((hi - lo) / 32)).map (fun k => lo + 32 * k)

/-- The slots that an operation of a kind touches. -/
def LookupOp.slots (l : LookupOp) : List Nat :=
  match l.kind with
  | .accumulate j _ => [j]
  | _ => List.range (tbSlots l.desc)

/-- A row's packet has yet to be accepted, and is bound for a memory-side unit: where its home has translated it, and else
where the tables would now send it. -/
def State.rowBound (s : State) (l : LookupOp) (r : LookupRow) (unit : Nat × Nat) : Bool :=
  match r.st with
  | .served h ps => ps.any (fun p => (h, channelOfPa p.pa) == unit)
  | .waiting | .merged _ _ =>
    let m := moduleOfCore (tbHome l.desc r.rid)
    (rowPieces l.desc (rowVa l.desc r.rid) false).any (fun va =>
      match (s.deviceWalk m va 5 5 (s.partition m (s.partOfThread l.tid)).root).1 with
      | .ok p => (p.m, channelOfPa p.pa) == unit
      | _ => false)
  | _ => false

/-- The rows of an operation; of one that has not begun, those that its list now names. -/
def State.rowsOf (s : State) (l : LookupOp) : List LookupRow :=
  if l.started then l.rows else (s.lookupIds l).map (fun rid => { rid })

/-- No lookup packet that the thread issued before `id` is still on its way to the unit (R251). -/
def State.rowsBefore (s : State) (tid id : Nat) (unit : Nat × Nat) : Bool :=
  s.lookups.all (fun l => !(l.tid == tid && decide (l.id < id)) || (s.rowsOf l).all (fun r => !s.rowBound l r unit))

/-- A write by the operation? -/
def LookupOp.writes (l : LookupOp) : Bool :=
  match l.kind with
  | .gather .. => false
  | _ => true

/-- The operation may fold whole lines. -/
def LookupOp.folds (l : LookupOp) : Bool :=
  match l.kind with
  | .accumulate .. => false
  | _ => tbSlots l.desc != 0

/-- What the translation of a packet comes to. -/
inductive RowTrans where
  | ok (ps : List RowPiece) (marks : List Place)
  | miss (va : Nat)
  | fault (c : Cause) (sub : Nat)

/-- Who translates at a home: its own core, or, for another module's request, its module's ingress translator (R147,
R192). -/
def LookupOp.translator (l : LookupOp) (home : Nat) : Nat :=
  if moduleOfCore l.core = moduleOfCore home then home else ingressCore (moduleOfCore home)

/-- What an operation asks of the translation of an address at a home. -/
def State.rowMiss (s : State) (l : LookupOp) (home va : Nat) : Miss :=
  { req := reqLookup l.id, core := l.translator home, part := s.partOfThread l.tid, va, write := l.writes, sup := l.sup
    own := true }

/-- Translates addresses one by one at a home (R192). -/
def State.rowTranslate (s : State) (l : LookupOp) (home : Nat) : List Nat → Except RowTrans (List Place)
  | [] => .ok []
  | va :: vas =>
    match s.translate (s.rowMiss l home va) l.sup (if l.writes then .write else .read) with
    | .miss => .error (.miss va)
    | .fault c sub => .error (.fault c sub)
    | .ok p =>
      if l.writes && moduleOfCore l.core != moduleOfCore home && !ptePIN p.pte then .error (.fault .remoteFault 3)
      else
        match s.rowTranslate l home vas with
        | .ok ps => .ok (p :: ps)
        | e => e

/-- Translates the pieces of a packet. -/
def State.piecesTranslate (s : State) (l : LookupOp) (home : Nat) : List Nat → RowTrans
  | [] => .ok [] []
  | va :: vas =>
    match s.rowTranslate l home (va :: l.slots.map (rowSlot l.desc va)) with
    | .error e => e
    | .ok [] => .ok [] []
    | .ok (p :: qs) =>
      match s.piecesTranslate l home vas with
      | .ok ps ms =>
        .ok ({ va, pa := p.pa, tol := pteTOL p.pte, stol := qs.any (fun q => pteTOL q.pte), pin := ptePIN p.pte
               slots := qs.map Place.at } :: ps) (p :: (qs ++ ms))
      | e => e

/-- What happens to a row at the memory-side unit. -/
def LookupOp.unitEvent (l : LookupOp) (i : Nat) : Instr :=
  match l.kind with
  | .accumulate .. => .rowAccumulate l.id i
  | .store _ => .rowStore l.id i
  | _ => .rowRead l.id i

/-- A fault of a packet that its home sends back (R10). -/
def State.homeFault (s : State) (l : LookupOp) (home : Nat) (c : Cause) (sub va : Nat) : State :=
  let (c, sub) := s.answerWay (dieOfCore home) (dieOfCore l.core) c sub
  s.lookupFault l.id c sub va

/-- The row `rowRequestServe` (R192). -/
def execRowRequestServe (id i : Nat) (s : State) : Host.Outcome State Fault Refusal :=
  match s.lookup? id with
  | none => .next s
  | some l =>
    match l.row? i with
    | none => .next s
    | some r =>
      let home := tbHome l.desc r.rid
      let va := rowVa l.desc r.rid
      let part := s.partOfThread l.tid
      if r.st ≠ .waiting then .next s
      else if part.isSome && s.partOfCore home != part then .next (s.lookupFault id .remoteFault 1 va)
      else
        match s.blockedWay (dieOfCore l.core) (dieOfCore home) with
        | some sub => .next (s.lookupFault id .remoteFault sub va)
        | none =>
          match s.piecesTranslate l home (rowPieces l.desc va l.folds) with
          | .miss a =>
            .next ((s.startWalk (s.rowMiss l home a)).emit (.rowRequestServe id i))
          | .fault c sub => .next (s.homeFault l home c sub va)
          | .ok ps marks =>
            let s := if l.writes then marks.foldl State.markDirty s else s
            let gen := (s.module (moduleOfCore home)).gen.toNat
            .next (((s.setRow id i (.served (moduleOfCore home) ps)).stampRow id i gen).emit (l.unitEvent i))

/-- Bytes of memory that a piece takes. -/
def RowPiece.bytes (p : RowPiece) : Nat := if p.tol then 16 else 32

/-- What the memory-side unit makes of a packet before it acts (R244): cause, subcode, the unit and the failed address.
`base` says that the bytes of the row itself are read, `slots` that its slots are. -/
def State.rowUnitFault (s : State) (home m : Nat) (ps : List RowPiece) (base slots : Bool) : Option (Cause × Nat × Nat × Nat) :=
  let fails := fun (unit pa n : Nat) (reads : Bool) =>
    if !memoryAt pa then some (Cause.memsideError, 1, unit, pa)
    else if reads then (s.dramFault m pa n).map (fun (c, sub) => (c, sub, unit, pa))
    else none
  if slots && ps.any (fun p => p.tol || p.stol) then some (.pageProt, 0, 0, 0)
  else
    match (ps.findSome? (fun p => (s.unitDown home m p.pa).map (fun sub => (Cause.remoteFault, sub, 0, 0)))).orElse
        (fun _ => ps.findSome? (fun p => fails p.pa p.pa p.bytes base)) with
    | some f => some f
    | none =>
      if !slots then none
      else
        match ps.findSome? (fun p => (p.slots.find? (DramAt.astray { m, pa := p.pa })).map (fun q => (p.pa, q.pa))) with
        | some (unit, q) => some (.memsideError, 2, unit, q)
        | none => ps.findSome? (fun p => p.slots.findSome? (fun q => fails p.pa q.pa 32 true))

/-- A unit's fault ends the operation; an error response is recorded (R244). -/
def State.rowUnitRefuse (s : State) (l : LookupOp) (home m va : Nat) (f : Cause × Nat × Nat × Nat) : State :=
  let s := if f.1 = .memsideError then s.memsideRecord m f.2.2.1 f.2.2.2 f.2.1 6 l.core else s
  s.homeFault l home f.1 f.2.1 va

/-- Folds the lines of pieces, whole lines at a time (R195, R236). -/
def State.foldPieces (s : State) (m : Nat) (ps : List RowPiece) : State :=
  let s := ps.foldl (fun s p =>
    (List.range 8).foldl (fun s e => s.foldElement m false (p.pa + 4 * e) (p.slots.map (fun q => q.pa + 4 * e))) s) s
  ps.foldl (fun s p => s.modModule m (fun k => { k with arrivals := k.arrivals.put (lineKey p.pa) 0 })) s

/-- The bytes of pieces as a read sees them (R93). -/
def State.piecesRead (s : State) (m : Nat) (ps : List RowPiece) : List Byte :=
  ps.flatMap (fun p => if p.tol then s.tolerantRead m p.pa 0 32 else s.dramBytes m p.pa 32)

/-- The pieces that belong to the row itself. -/
def ownPieces (d : BitVec 512) (va : Nat) (ps : List RowPiece) : List RowPiece :=
  ps.filter (fun p => decide (va ≤ p.va) && decide (p.va < va + tbRb d))

/-- The first piece at each pseudo-channel. -/
def firstPieces : List RowPiece → List Nat → List RowPiece
  | [], _ => []
  | p :: ps, seen =>
    if seen.contains (channelOfPa p.pa) then firstPieces ps seen else p :: firstPieces ps (channelOfPa p.pa :: seen)

/-- A packet is counted at each pseudo-channel that it touches (R152). -/
def State.touchPieces (s : State) (m : Nat) (ps : List RowPiece) : State :=
  (firstPieces ps []).foldl (fun s p => s.touch m p.pa p.pin) s

/-- Slots that a packet reaches are counted likewise. -/
def State.touchSlots (s : State) (ps : List RowPiece) : State :=
  (firstPieces ps []).foldl (fun s p => p.slots.foldl (fun s q => s.touch q.m q.pa q.pin) s) s

/-- The words that a packet reads are corrected where they hold a single-bit error (R383). -/
def State.correctPieces (s : State) (m : Nat) (ps : List RowPiece) (base slots : Bool) : State :=
  ps.foldl (fun s p =>
    let s := if base then s.dramCorrect m (wordsOf (ownedPa p.pa) p.bytes) else s
    if slots then p.slots.foldl (fun s q => s.dramCorrect q.m (wordsOf (ownedPa q.pa) 32)) s else s) s

/-- The packets of a group reach a unit after every earlier request that one of their sources sent there (R194, R229). -/
def State.sourcesClear (s : State) (id i : Nat) (m : Nat) (ps : List RowPiece) : Bool :=
  ((id, i) :: s.joinedTo id i).all (fun (x, _) =>
    (s.lookup? x).any (fun l => ps.all (fun p => s.reqsBefore l.tid x (m, channelOfPa p.pa))))

/-- The packet at its unit, once it is its turn (R193). -/
def State.atUnit (s : State) (id i : Nat) (act : LookupOp → LookupRow → Nat → List RowPiece → State) : State :=
  match s.lookup? id with
  | none => s
  | some l =>
    match l.row? i with
    | none => s
    | some r =>
      match r.st with
      | .served m ps =>
        if s.groupFirst [(id, i)] && s.sourcesClear id i m ps then act l r m ps
        else s.emit (l.unitEvent i)
      | _ => s

/-- The row `rowRead` (R195). -/
def execRowRead (id i : Nat) (s : State) : Host.Outcome State Fault Refusal :=
  .next (s.atUnit id i (fun l r m ps =>
    let va := rowVa l.desc r.rid
    let own := ownPieces l.desc va ps
    let fresh := match l.kind with
      | .gather f .. => f
      | _ => false
    let count := own.foldl (fun a p => Nat.max a (s.arrivals m p.pa)) 0
    let fold := tbSlots l.desc != 0 && (fresh || decide (tbK l.desc < count))
    let read := if fold then ps else own
    match s.rowUnitFault (tbHome l.desc r.rid) m read true fold with
    | some f => s.rowUnitRefuse l (tbHome l.desc r.rid) m va f
    | none =>
      let s := s.correctPieces m read true fold
      let s := if fold then (s.foldPieces m ps).touchSlots ps else s
      let s := s.touchPieces m own
      let bs := s.piecesRead m own
      ((id, i) :: s.joinedTo id i).foldl (fun s (x, k) => (s.setRow x k (.read bs)).emit (.rowReplyLand x k)) s))

/-- The row's packet is done, and its operation may be. -/
def State.rowDone (s : State) (l : LookupOp) (i : Nat) : State := (s.setRow l.id i .finished).lookupGo l.tid

/-- The elements of 32 bytes. -/
def elems32 (bs : List Byte) : List Nat := (List.range (bs.length / 4)).map (fun k => natOfBytes ((bs.drop (4 * k)).take 4))

/-- The row `rowAccumulate` (R195): each line of the row counts one arrival. -/
def execRowAccumulate (id i : Nat) (s : State) : Host.Outcome State Fault Refusal :=
  .next (s.atUnit id i (fun l r m ps =>
    let va := rowVa l.desc r.rid
    match s.rowUnitFault (tbHome l.desc r.rid) m ps false true with
    | some f => s.rowUnitRefuse l (tbHome l.desc r.rid) m va f
    | none =>
      let s := (s.correctPieces m ps false true)
      let s := ps.foldl (fun s p =>
        s.addElements m false (p.slots.headD { m, pa := 0 }).pa (elems32 ((r.data.drop (p.va - va)).take 32))) s
      let lines := (ps.map (fun p => p.pa / 64 * 64)).eraseDups
      let s := lines.foldl (fun s x => s.arrive m x) s
      (s.touchSlots ps).rowDone l i))

/-- The row `rowStore` (R195, R198). -/
def execRowStore (id i : Nat) (s : State) : Host.Outcome State Fault Refusal :=
  .next (s.atUnit id i (fun l r m ps =>
    let va := rowVa l.desc r.rid
    match s.rowUnitFault (tbHome l.desc r.rid) m ps l.folds l.folds with
    | some f => s.rowUnitRefuse l (tbHome l.desc r.rid) m va f
    | none =>
      let s := s.correctPieces m ps l.folds l.folds
      let s := if l.folds then (s.foldPieces m ps).touchSlots ps else s
      let own := ownPieces l.desc va ps
      let s := own.foldl (fun s p =>
        let bs := (r.data.drop (p.va - va)).take 32
        if p.tol then s.tolerantWrite m p.pa 0 bs else s.unitWrite m p.pa bs) s
      (s.touchPieces m own).rowDone l i))

/-- The row `rowReplyLand` (R191): the row's bytes arrive at their destination, on a route from the home (R10). -/
def execRowReplyLand (id i : Nat) (s : State) : Host.Outcome State Fault Refusal :=
  match s.lookup? id with
  | none => .next s
  | some l =>
    match l.row? i, l.kind with
    | some r, .gather _ far laddr pitch =>
      let home := tbHome l.desc r.rid
      match r.st with
      | .read bs =>
        match far with
        | none =>
          match s.blockedWay (dieOfCore home) (dieOfCore l.core) with
          | some sub => .next (s.lookupFault id .remoteFault sub (rowVa l.desc r.rid))
          | none => .next ((s.setPoolBytes l.core (laddr + i * pitch) bs).rowDone l i)
        | some a =>
          let dest := a + Word.of (i * pitch)
          let form := addrForm dest
          match s.targetFrom home l.core (s.partOfThread l.tid) form with
          | .fault c sub => .next (s.lookupFault id c sub dest.toNat)
          | .retry => .next (s.emit (.rowReplyLand id i))
          | .ok c =>
            if !s.targetRange c form bs.length then .next (s.lookupFault id .remoteFault 0 dest.toNat)
            else if s.poolBadStore c form.off bs.length then .next (s.lookupFault id .eccUncorr 0 dest.toNat)
            else .next ((s.setPoolBytes c form.off bs).rowDone l i)
      | _ => .next s
    | _, _ => .next s

/-! ## Waiting (R201) -/

/-- The thread's lookup operations that are not complete. -/
def State.openLookups (s : State) (tid : Nat) : Nat := s.lookups.countP (fun l => l.tid == tid)

/-- `ROWWAIT` (R201): when it succeeds it is an acquire at scope `CORE`. -/
def execRowwait (g : Guard) (a : GReg) (s : State) : Host.Outcome State Fault Refusal :=
  issue (metaG 0x28 g [] [a]) s (fun s =>
    let most := field (s.g a) 0 16
    await (.rows most) id (fun s' => decide (s'.openLookups s.cur ≤ most)) (fun s => .retire (s.acquireCore s.myCore 0)) s)

/-- The row `rowwaitSatisfied` (R201). -/
def execRowwaitSatisfied (tid : Nat) (s : State) : Host.Outcome State Fault Refusal :=
  .next (s.wake tid
    (fun w s => match w with
      | .rows n => decide (s.openLookups tid ≤ n)
      | _ => false)
    (fun _ s => .retire (s.acquireCore s.myCore 0)))

end Sys2Proof.Machine
end

