-- ==== Sys2Proof/Machine/Messages.lean ====
section
/-!
DEFINITION. Sys2Proof/Machine/Messages.lean: messages, receive queues, remote gets and stores, window loads and stores,
refusals, resumption and links (R266–R280, R302; majors 0x32, 0x33, 0x37).
-/
namespace Sys2Proof.Machine

/-! ## The receive queue (R270–R272) -/

def rqEn (w : Word) : Bool := bit w 23
/-- Q (R270). -/
def rqSize (w : Word) : Nat := 1024 * 2 ^ field w 20 3
def rqBase (w : Word) : Nat := field w 0 20
def Core.rqTail (c : Core) : Nat := field c.rqptr 32 32
def Core.rqHead (c : Core) : Nat := field c.rqptr 0 32
/-- Occupied bytes of the ring. -/
def Core.rqUsed (c : Core) : Nat := (c.rqTail + 2 ^ 32 - c.rqHead) % 2 ^ 32

/-- The bytes of an entry with `len` payload bytes (R272). -/
def entrySize (len : Nat) : Nat := 16 + 16 * ((len + 15) / 16)

/-- The summary word (R268). -/
def summary (tag stream len kind tid : Nat) : Nat :=
  tag % 2 ^ 16 * 2 ^ 48 + stream % 16 * 2 ^ 44 + len % 2 ^ 12 * 2 ^ 32 + 2 ^ 31 + kind % 4 * 2 ^ 29 + threadWord tid

/-- Bytes of the ring from count `c` on, which continue at BASE past its end. -/
def ringOffset (w : Word) (c : Nat) : Nat := rqBase w + c % rqSize w

/-- Writes bytes into the ring from count `c` on. -/
def State.ringWrite (s : State) (core c : Nat) (bs : List Byte) : State :=
  let w := (s.core core).rqcfg
  let room := rqSize w - c % rqSize w
  (s.setPoolBytes core (ringOffset w c) (bs.take room)).setPoolBytes core (rqBase w) (bs.drop room)

/-- Reads bytes of the ring from count `c` on. -/
def State.ringRead (s : State) (core c n : Nat) : List Byte :=
  let w := (s.core core).rqcfg
  let room := rqSize w - c % rqSize w
  s.poolBytes core (ringOffset w c) (Min.min n room) ++ s.poolBytes core (rqBase w) (n - room)

/-- A message written into the ring, and TAIL advanced (R272, R273). -/
def State.enqueue (s : State) (core tag stream kind tid : Nat) (payload : List Byte) : State :=
  let k := s.core core
  let t := k.rqTail
  let n := payload.length
  let room := rqSize k.rqcfg - (t + 16) % rqSize k.rqcfg
  let spare := if (t + 16) % rqSize k.rqcfg = 0 then 0 else room
  let wraps := decide (rqSize k.rqcfg < t % rqSize k.rqcfg + 16 + n)
  let header := bytesOf 8 (summary tag stream n kind tid) ++ bytesOf 2 (if wraps then spare else 0)
    ++ bytesOf 6 (if wraps then 1 else 0)
  let padded := payload ++ List.replicate (entrySize n - 16 - n) 0
  ((s.ringWrite core t header).ringWrite core (t + 16) padded).modCore core (fun k => { k with
    rqptr := setField k.rqptr 32 32 ((t + entrySize n) % 2 ^ 32)
    accepted := Vector.ofFn (fun i => if i.val = stream then k.accepted[i] + 1 else k.accepted[i]) })

/-- The summary word of the head message; zero where the queue is empty. -/
def State.headSummary (s : State) (core : Nat) : Word :=
  let k := s.core core
  if k.rqUsed = 0 then 0 else Word.of (natOfBytes (s.ringRead core k.rqHead 8))

/-- The payload length of a summary word. -/
def summaryLen (w : Word) : Nat := field w 32 12

/-- Removes the head message: HEAD moves on by its entry (R274). -/
def State.dequeue (s : State) (core : Nat) : State :=
  let size := entrySize (summaryLen (s.headSummary core))
  s.modCore core (fun k => { k with rqptr := setField k.rqptr 0 32 ((k.rqHead + size) % 2 ^ 32) })

/-- REFUSE, which saturates, after one refusal more (R270). -/
def refusedOnce (rqcfg : Word) : Word := setField rqcfg 32 32 (Min.min (field rqcfg 32 32 + 1) (2 ^ 32 - 1))

/-- A refused arrival is counted in REFUSE, which saturates, and by performance event 12 (R270, R345). -/
def State.countRefusal (s : State) (core : Nat) : State :=
  (s.modCore core (fun k => { k with
    rqcfg := refusedOnce k.rqcfg })).count core 12 none 1

/-! ## Sending (R267–R269) -/

/-- A member's own window accesses trap once it is detached (R298). -/
def State.ownDetached (s : State) (form : AddrForm) : Bool :=
  match form with
  | .window _ _ => s.src.tdet || (match (s.core s.myCore).team with
      | some t => t.mdet
      | none => false)
  | _ => false

/-- The checks of `SEND` and `SENDL` that concern the destination (R269). -/
def State.sendCheck (s : State) (dest : Word) : Option TrapInfo :=
  match addrForm dest with
  | .nonCanonical => some { cause := .pageFault, sub := 1, addr := dest }
  | .dram _ => some { cause := .illegal }
  | f =>
    if 12 ≤ f.off % 16 then some { cause := .illegal }
    else if s.ownDetached f then some { cause := .pluralDetached, addr := dest }
    else none

/-- The injection queue of a core has room for a payload: 8 KiB of staging space (R267), and 1024 messages (log 23). -/
def State.stagingRoom (s : State) (core n : Nat) : Bool :=
  decide (s.staged core + n ≤ 8192) && decide (s.reqs.countP (fun r => r.src == core && r.isMessage && r.queued) < 1024)

/-- Stages a message, once there is room (R267, R269). -/
def State.stage (s : State) (dest : Word) (payload : List Byte) : Res :=
  if !s.stagingRoom s.myCore payload.length then .again none
  else
    let off := (addrForm dest).off
    let form := addrForm dest
    .retire (s.inject { id := 0, tid := s.cur, src := s.myCore, stream := some (off % 16), ea := dest
                        window := (match form with
                          | .window _ _ => true
                          | _ => false)
                        part := s.partOfThread s.cur, sup := s.src.sup
                        gen := (s.module s.myModule).gen.toNat
                        body := .message (off / 16 % 2 ^ 16) 0 payload }).2

/-- `SEND` (R269). -/
def execSend (g : Guard) (a b : GReg) (s : State) : Host.Outcome State Fault Refusal :=
  issue (metaG 0x32 g [] [a, b]) s (fun s =>
    match s.sendCheck (s.g b) with
    | some t => .trap t s
    | none => s.stage (s.g b) (bytesOf 8 (s.g a).toNat))

/-- `SENDL` (R269): the payload is read after the thread's earlier local stores. -/
def execSendl (g : Guard) (a b : GReg) (s : State) : Host.Outcome State Fault Refusal :=
  issue (metaG 0x32 g [] [a, b]) s (fun s =>
    match s.sendCheck (s.g b) with
    | some t => .trap t s
    | none =>
      let len := field (s.g a) 32 12
      let la := s.localAddr (Word.of (field (s.g a) 0 25))
      if 2048 < field (s.g a) 32 12 then trapOf s .illegal
      else
        match s.checkLocal la len 1 with
        | some t => .trap t s
        | none =>
          if s.ownBad s.cur la len then trapOf s .eccUncorr (Word.of la)
          else (s.poolCorrect s.myCore la len).stage (s.g b) (s.ownBytes s.cur la len))

/-- What an arriving message meets (R273). -/
inductive MessageFate where
  | accept (core : Nat)
  | retry (core : Nat)
  /-- Refused for retry, and counted for a saved team, by its launch and index. -/
  | retrySaved (launch index : Nat)
  | fault (dst : Option Nat) (c : Cause) (sub : Nat)
  deriving DecidableEq, Repr

/-- The saved team that a packet is aimed at. -/
def State.savedTarget (s : State) (r : Req) : Option SavedTeam :=
  match addrForm r.ea with
  | .core c _ => if (s.core c).team.isSome then none else s.savedAt c
  | .window m _ => (s.core r.src).team.bind (fun t => s.saved.find? (fun x => x.launch == t.launch && x.index == m))
  | _ => none

/-- An entry is larger than the whole ring (R273). -/
def tooLarge (rqcfg : Word) (size : Nat) : Bool := rqEn rqcfg && decide (rqSize rqcfg < size)

/-- The first row of R273 that applies to a message of `len` bytes.  Trap messages and hardware records are refused by no
partition, but they too need a route (R279). -/
def State.messageFate (s : State) (r : Req) (kind len : Nat) : MessageFate :=
  let size := entrySize len
  let t := if kind = 0 then s.target r.src r.part (addrForm r.ea)
    else match addrForm r.ea with
      | .core c _ =>
        match s.blockedWay (dieOfCore r.src) (dieOfCore c) with
        | some sub => .fault .remoteFault sub
        | none => s.coreTarget r.part c true
      | _ => .fault .remoteFault 0
  match t with
  | .fault c sub => .fault r.dst c sub
  | .retry =>
    match s.savedTarget r with
    | some x => if tooLarge x.rqcfg size then .fault none .remoteFault 0 else .retrySaved x.launch x.index
    | none =>
      let c := (s.boundFor r).getD r.src
      if tooLarge (s.core c).rqcfg size then .fault (some c) .remoteFault 0 else .retry c
  | .ok c =>
    let k := s.core c
    if tooLarge k.rqcfg size then .fault (some c) .remoteFault 0
    else if !rqEn k.rqcfg || decide (rqSize k.rqcfg < k.rqUsed + size) then .retry c
    else .accept c

/-- A message counts as sent once its tail flit has left (R267, R338). -/
def State.countSent (s : State) (r : Req) : State :=
  if r.left then s
  else match r.stream with
    | some k => s.modCore r.src (fun c => { c with sent := Vector.ofFn (fun i => if i.val = k then c.sent[i] + 1 else c.sent[i]) })
    | none => s

/-- The packet has been refused for retry, and its stream waits (R273). -/
def State.waitRetry (s : State) (r : Req) : State :=
  (s.updReq r.id (fun x => { x with st := .refused, left := true, underway := false, retry := true })).emit (.retryTimer r.src (r.stream.getD 16))

/-- The row `messageArrival` (R273). -/
def execMessageArrival (id : Nat) (s : State) : Host.Outcome State Fault Refusal :=
  match s.req? id with
  | some r =>
    match r.body with
    | .message tag kind payload =>
      if !s.mayGo r then .next s
      else
        let s := s.seen r
        match s.messageFate r kind payload.length with
        | .accept c =>
          .next (((s.countSent r).heard c r.src r.stream).enqueue c tag (r.stream.getD 0) kind r.tid payload |>.performed r)
        | .retry c => .next (((s.countSent r).countRefusal c).waitRetry r)
        | .retrySaved launch index =>
          let s := s.countSent r
          .next (State.waitRetry { s with saved := s.saved.map (fun x =>
            if x.launch = launch ∧ x.index = index then { x with rqcfg := refusedOnce x.rqcfg } else x) } r)
        | .fault dst c sub =>
          if kind = 1 then .next (s.performed r)
          else .next (((s.countSent r).updReq id (fun x => { x with left := true })).refuse r dst c sub)
    | _ => .next s
  | none => .next s

/-- The row `retryTimer` (R273): the refused packets of a stream are sent again, from its head. -/
def execRetryTimer (core stream : Nat) (s : State) : Host.Outcome State Fault Refusal :=
  let again := fun (r : Req) => r.src == core && r.stream.getD 16 == stream && r.st == .refused
  let on := s.reqs.filter again
  .next (State.emits { s with reqs := s.reqs.map (fun r => if again r then { r with st := .waiting } else r) } (on.map Req.event))

/-! ## Receiving (R274) -/

/-- Another thread of the core has waited longer in `RECV`.  A thread of the DCC whose wait is over and whose bundle has yet
to issue again keeps its place. -/
def State.recvBehind (s : State) (tid : Nat) : Bool :=
  let me := s.thread tid
  (List.range 8).any (fun i =>
    let u := coreOfThread tid * 8 + i
    let t := s.thread u
    let waits := t.status == .waiting && (match t.wait with
      | some (.recv ..) | some (.recvred ..) => true
      | _ => false)
    u != tid && (waits || (t.status == .running && t.granted))
      && ((me.status == .running && !me.granted) || decide (t.waitSince < me.waitSince)))

/-- A message is there for this thread. -/
def State.recvReady (s : State) (tid : Nat) : Bool :=
  (s.core (coreOfThread tid)).rqUsed != 0 && !s.recvBehind tid

/-- A trap message leaves its chain in `TCHAIN`, and its origin with the thread; any other message leaves them
(R274, R334). -/
def State.chainOf (s : State) (w : Word) (payload : List Byte) : State :=
  if field w 29 2 = 2 then
    s.modTh (fun t => { t with tchain := Word.of (natOfBytes ((payload.drop 56).take 8))
                               origin := some (natOfBytes ((payload.drop 48).take 4)) })
  else s

/-- Where `n` bytes of the ring lie from count `c` on: one range, or two where they pass the ring's end. -/
def State.ringParts (s : State) (core c n : Nat) : List (Nat × Nat) :=
  let w := (s.core core).rqcfg
  let room := rqSize w - c % rqSize w
  [(ringOffset w c, Min.min n room), (rqBase w, n - room)]

/-- An uncorrectable word among bytes of the ring: the address of the part that holds it (R137). -/
def State.ringBad (s : State) (core c n : Nat) : Option Nat :=
  ((s.ringParts core c n).find? (fun x => s.poolBad core x.1 x.2)).map (fun x => x.1)

/-- An uncorrectable word in the head message: in its header, or in its payload. -/
def State.headBad (s : State) (core : Nat) (payload : Bool) : Option Nat :=
  let h := (s.core core).rqHead
  (s.ringBad core h 8).orElse (fun _ => if payload then s.ringBad core (h + 16) (summaryLen (s.headSummary core)) else none)

/-- The single-bit errors of the head message are corrected as it is read (R137). -/
def State.headCorrect (s : State) (core : Nat) (payload : Bool) : State :=
  let h := (s.core core).rqHead
  (s.ringParts core h 8 ++ (if payload then s.ringParts core (h + 16) (summaryLen (s.headSummary core)) else [])).foldl
    (fun s x => s.poolCorrect core x.1 x.2) s

/-- The payload of the head message. -/
def State.headPayload (s : State) (core : Nat) : List Byte :=
  s.ringRead core ((s.core core).rqHead + 16) (summaryLen (s.headSummary core))

/-- The head message leaves the queue: payload to the pool, summary to gD, and a trap message's chain to `TCHAIN`
(R274, R334). -/
def State.landHead (s : State) (d : GReg) (la : Nat) (w : Word) (payload : List Byte) : State :=
  ((((s.headCorrect s.myCore true).dequeue s.myCore).ownWrite s.cur la payload).setG d w).chainOf w payload

/-- A result that `n` bytes at `ea` of the core's window allow; else their trap (R131). -/
def State.withRange (s : State) (ea n : Nat) (r : Res) : Res :=
  match s.checkLocal ea n 1 with
  | some t => .trap t s
  | none => r

/-- Takes the head message, or traps where its payload does not fit, or at an uncorrectable word of the message or of one
that its payload covers in part (R137, R274). -/
def State.recvTake (s : State) (d : GReg) (la : Nat) : Res :=
  let w := s.headSummary s.myCore
  match s.headBad s.myCore false with
  | some a => trapOf s .eccUncorr (Word.of a)
  | none =>
    s.withRange la (summaryLen w)
      (match s.headBad s.myCore true with
       | some a => trapOf s .eccUncorr (Word.of a)
       | none =>
         if s.ownBadStore s.cur la (summaryLen w) then trapOf s .eccUncorr (Word.of la)
         else .retire (s.landHead d la w (s.headPayload s.myCore)))

/-- `RECV` (R274). -/
def execRecv (g : Guard) (d a : GReg) (s : State) : Host.Outcome State Fault Refusal :=
  issue (metaG 0x32 g [d] [a]) s (fun s =>
    let la := s.localAddr (s.g a)
    if s.recvReady s.cur then s.recvTake d la else .block (.recv d la) s)

/-- The row `recvTake` (R274). -/
def execRecvTake (tid : Nat) (s : State) : Host.Outcome State Fault Refusal :=
  .next (s.wake tid
    (fun w s => match w with
      | .recv .. => s.recvReady tid
      | _ => false)
    (fun w s => match w with
      | .recv d la => s.recvTake d la
      | _ => .again none))

/-- `RPEEK` (R274). -/
def execRpeek (g : Guard) (d : GReg) (s : State) : Host.Outcome State Fault Refusal :=
  issue (metaG 0x32 g [d] []) s (fun s =>
    if (s.core s.myCore).rqUsed = 0 then .retire (s.setG d 0)
    else
      match s.headBad s.myCore false with
      | some a => trapOf s .eccUncorr (Word.of a)
      | none => .retire ((s.headCorrect s.myCore false).setG d (s.headSummary s.myCore)))

/-- log2 of a ring size that R271 allows. -/
def ringSizeLog (q : Nat) : Option Nat := (List.range 7).find? (fun k => 1024 * 2 ^ k == q)

/-- `RQSET` (R271). -/
def execRqset (g : Guard) (a b : GReg) (s : State) : Host.Outcome State Fault Refusal :=
  issue (metaG 0x32 g [] [a, b]) s (fun s =>
    let q := (s.g b).toNat
    let base := field (s.g a) 0 20
    if q = 0 then .retire (s.modCore s.myCore (fun k => { k with rqcfg := setField k.rqcfg 23 1 0 }))
    else
      match ringSizeLog q with
      | none => trapOf s .illegal
      | some sz =>
        if base % q ≠ 0 then trapOf s .misalign (Word.of base)
        else if s.scratchEnd s.myCore < base + q then trapOf s .localRange (Word.of base)
        else if (s.core s.myCore).rqUsed ≠ 0 then trapOf s .illegal
        else .retire (s.modCore s.myCore (fun k => { k with rqcfg := Word.of (2 ^ 23 + sz * 2 ^ 20 + base), rqptr := 0 })))

/-! ## Remote gets and stores (R275, R302) -/

/-- The access width of an SZ field. -/
def szBytes (sz : Nat) : Nat := 8 / 2 ^ (sz % 4)

/-- What the extension words of R275 and R302 say: bytes, sign extension, stream. -/
structure RemoteExt where
  n : Nat := 8
  sx : Bool := false
  stream : Nat := 0

def remoteExt (x : BitVec 32) : RemoteExt :=
  { n := szBytes (x.toNat % 4), sx := x.getLsbD 2, stream := x.toNat / 8 % 16 }

/-- A get or store is outstanding until it has been performed. -/
def State.remoteCount (s : State) (tid : Nat) : Nat :=
  s.reqs.countP (fun r => r.tid == tid && (match r.body with
    | .read .. | .write .. => true
    | _ => false))

/-- The checks of R275 and R302, in order; `window` makes check 4 of R302 for a team without a window as well. -/
def State.remoteCheck (s : State) (ea : Word) (n : Nat) (window : Bool) : Option TrapInfo :=
  match addrForm ea with
  | .nonCanonical => some { cause := .pageFault, sub := 1, addr := ea }
  | .dram _ => some { cause := .illegal }
  | f =>
    if ea.toNat % n ≠ 0 then some { cause := .misalign, addr := ea }
    else
      let beyond := match f with
        | .window m _ => window && (match s.launchOf s.myCore with
            | some l => !l.win || decide (l.teamCount ≤ m)
            | none => true)
        | _ => false
      if beyond || s.ownDetached f then some { cause := .pluralDetached, addr := ea } else none

/-- Issues a get or store (R275, R302). -/
def State.remoteIssue (s : State) (get window : Bool) (d a b : GReg) (x : RemoteExt) : Res :=
  let ea := s.g a + s.g b
  match s.remoteCheck ea x.n window with
  | some t => .trap t s
  | none =>
    if 32 ≤ s.remoteCount s.cur then .again none
    else
      let (id, s) := s.inject { id := 0, tid := s.cur, src := s.myCore, stream := some x.stream, ea
                                window := (match addrForm ea with
                                  | .window _ _ => true
                                  | _ => false)
                                part := s.partOfThread s.cur, sup := s.src.sup
                                gen := (s.module s.myModule).gen.toNat
                                body := if get then .read x.n x.sx d else .write x.n ((s.g d).toNat % 2 ^ (8 * x.n)) }
      .retire (if get then s.modTh (fun t => { t with outstanding := t.outstanding ++ [{ id, writes := gs [d] }] }) else s)

/-- `RGET` and `WLD`. -/
def remoteGet (major : Nat) (window : Bool) (words : Nat) (g : Guard) (look : Fin 16) (d a b : GReg) (x : RemoteExt)
    (s : State) : Host.Outcome State Fault Refusal :=
  issue (metaL major g look [d] [a, b] words) s (fun s => s.remoteIssue true window d a b x)

/-- `RSTO` and `WST`: field d names the data. -/
def remotePut (major : Nat) (window : Bool) (words : Nat) (g : Guard) (look : Fin 16) (d a b : GReg) (x : RemoteExt)
    (s : State) : Host.Outcome State Fault Refusal :=
  issue (metaL major g look [] [d, a, b] words) s (fun s => s.remoteIssue false window d a b x)

/-- `RGET` (R275). -/
def execRget (g : Guard) (look : Fin 16) (d a b : GReg) (s : State) : Host.Outcome State Fault Refusal :=
  remoteGet 0x33 false 1 g look d a b {} s

/-- `RGET` with an extension word (R275). -/
def execRgetDw (g : Guard) (look : Fin 16) (d a b : GReg) (ext : BitVec 32) (s : State) :
    Host.Outcome State Fault Refusal :=
  remoteGet 0x33 false 2 g look d a b (remoteExt ext) s

/-- `RSTO` (R275). -/
def execRsto (g : Guard) (look : Fin 16) (d a b : GReg) (s : State) : Host.Outcome State Fault Refusal :=
  remotePut 0x33 false 1 g look d a b {} s

/-- `RSTO` with an extension word (R275). -/
def execRstoDw (g : Guard) (look : Fin 16) (d a b : GReg) (ext : BitVec 32) (s : State) :
    Host.Outcome State Fault Refusal :=
  remotePut 0x33 false 2 g look d a b (remoteExt ext) s

/-- `WLD` (R302), on stream 0. -/
def execWld (g : Guard) (look : Fin 16) (d a b : GReg) (s : State) : Host.Outcome State Fault Refusal :=
  remoteGet 0x37 true 1 g look d a b {} s

/-- `WLD` with an extension word (R302). -/
def execWldDw (g : Guard) (look : Fin 16) (d a b : GReg) (ext : BitVec 32) (s : State) :
    Host.Outcome State Fault Refusal :=
  remoteGet 0x37 true 2 g look d a b { remoteExt ext with stream := 0 } s

/-- `WST` (R302), on stream 0. -/
def execWst (g : Guard) (look : Fin 16) (d a b : GReg) (s : State) : Host.Outcome State Fault Refusal :=
  remotePut 0x37 true 1 g look d a b {} s

/-- `WST` with an extension word (R302). -/
def execWstDw (g : Guard) (look : Fin 16) (d a b : GReg) (ext : BitVec 32) (s : State) :
    Host.Outcome State Fault Refusal :=
  remotePut 0x37 true 2 g look d a b { remoteExt ext with stream := 0 } s

/-- A packet refused for retry (R273, R339). -/
def State.retryLater (s : State) (r : Req) : State :=
  (s.updReq r.id (fun x => { x with st := .refused, underway := false, retry := true })).emit (.retryTimer r.src (r.stream.getD 16))

/-- The row `remoteRequestArrival` (R275). -/
def execRemoteRequestArrival (id : Nat) (s : State) : Host.Outcome State Fault Refusal :=
  match s.req? id with
  | none => .next s
  | some r =>
    if !s.mayGo r then .next s
    else
      let s := s.seen r
      let form := addrForm r.ea
      match s.target r.src r.part form with
      | .fault c sub => .next (s.refuse r none c sub)
      | .retry => .next (s.retryLater r)
      | .ok c =>
        match r.body with
        | .read n sx _ =>
          if !s.targetRange c form n then .next (s.refuse r (some c) .remoteFault 0)
          else if s.poolBad c form.off n then .next (s.refuse r (some c) .eccUncorr 0)
          else
            let x := s.poolNat c form.off n
            let v := if sx then signExt x (8 * n) else zeroExt x (8 * n)
            let s := (((s.poolCorrect c form.off n).heard c r.src r.stream).updReq id
              (fun q => { q with st := .replied v.toNat })).emit (.remoteReply id)
            .next (s.kick r.src r.stream)
        | .write n v =>
          if !s.targetRange c form n then .next (s.refuse r (some c) .remoteFault 0)
          else if s.poolBadStore c form.off n then .next (s.refuse r (some c) .eccUncorr 0)
          else .next (((s.setPoolNat c form.off n v).heard c r.src r.stream).performed r)
        | _ => .next s

/-- The value of a reply reaches gD, if the thread still waits for it. -/
def State.reply (s : State) (r : Req) (d : GReg) (v : Word) : State :=
  let t := s.thread r.tid
  if t.outstanding.any (fun o => o.id == r.id) then
    s.setThread r.tid { (t.setG d v) with outstanding := t.outstanding.filter (fun o => o.id != r.id) }
  else s

/-- The die from which a request's reply comes: that of the memory-side unit, or of the core that it is bound for. -/
def State.replyFrom (s : State) (r : Req) : Nat :=
  match r.body with
  | .amo _ _ _ _ _ (some p) | .acc _ _ p _ | .fold _ p _ => p.m * 16 + dieOfPa p.pa
  | _ => dieOfCore ((s.boundFor r).getD r.src)

/-- What the requester learns of a refusal or a fault that its target sends back (R10). -/
def State.returned (s : State) (r : Req) (t : TrapInfo) : TrapInfo :=
  let (cause, sub) := s.answerWay (s.replyFrom r) (dieOfCore r.src) t.cause t.sub
  { t with cause, sub }

/-- The row `remoteReply` (R275): a reply takes a route of its own (R10), and where that has been taken down the requester
learns of it in its stead (R279; log 28). -/
def execRemoteReply (id : Nat) (s : State) : Host.Outcome State Fault Refusal :=
  match s.req? id with
  | some r =>
    match r.st with
    | .replied v =>
      match s.blockedWay (s.replyFrom r) (dieOfCore r.src) with
      | some sub =>
        let t : TrapInfo := { cause := .remoteFault, sub, origin := if r.stream.isSome then 4 else 7
                              unit := r.stream.getD 0, addr := r.ea }
        .next (((s.dropReq id).endOutstanding r.tid id).pendAlive r.tid t)
      | none =>
        match r.body with
        | .read _ _ d => .next ((s.reply r d (Word.of v)).dropReq id)
        | .amo _ _ _ _ d _ => .next ((s.reply r d (Word.of v)).dropReq id)
        | _ => .next s
    | _ => .next s
  | none => .next s

/-- The row `refusalReturn` (R276): the packet keeps its place at the head of its frozen stream, and its thread traps. -/
def execRefusalReturn (id : Nat) (s : State) : Host.Outcome State Fault Refusal :=
  match s.req? id with
  | some r =>
    match r.st with
    | .faulted t =>
      let s := s.pendAlive r.tid (s.returned r t)
      match r.body with
      | .amo .. => .next (s.endOutstanding r.tid id)
      | _ => .next (s.faultOutstanding r.tid id)
    | _ => .next s
  | none => .next s

/-! ## Resumption (R277) -/

/-- `RESUME` (R277). -/
def execResume (g : Guard) (a b : GReg) (s : State) : Host.Outcome State Fault Refusal :=
  issue (metaG 0x32 g [] [a, b]) s (fun s =>
    let ea := s.g a
    match addrForm ea with
    | .nonCanonical => trapOf s .pageFault ea 1
    | .core c _ =>
      let stream := field (s.g b) 0 4
      let action := field (s.g b) 4 2
      if 12 ≤ stream ∨ action = 3 then trapOf s .illegal
      else if (s.partOfThread s.cur).isSome ∧ s.partOfCore c ≠ s.partOfThread s.cur then trapOf s .remoteFault ea 1
      else .retire (s.inject { id := 0, tid := s.cur, src := s.myCore, ea, dst := some c,
                                 gen := (s.module s.myModule).gen.toNat, body := .resume stream action }).2
    | _ => trapOf s .illegal)

/-- A packet is dropped: a get whose thread still waits for gD, having had no fault of its own, ends in `REMOTE_FAULT`
(R277). -/
def State.dropPacket (s : State) (r : Req) : State :=
  let waits := (s.thread r.tid).outstanding.any (fun o => o.id == r.id && !o.ended)
  let s := (s.dropReq r.id).endOutstanding r.tid r.id
  if waits then s.pendAlive r.tid { cause := .remoteFault, origin := 4, unit := r.stream.getD 0, addr := r.ea }
  else s

/-- The row `resumeArrival` (R277).  A resume packet that finds its way blocked ends in `REMOTE_FAULT` at its thread, on no
stream (R279; log 28). -/
def execResumeArrival (id : Nat) (s : State) : Host.Outcome State Fault Refusal :=
  match s.req? id with
  | some r =>
    match r.body, r.dst with
    | .resume k action, some c =>
      let s := s.dropReq id
      match s.blockedWay (dieOfCore r.src) (dieOfCore c) with
      | some sub => .next (s.pendAlive r.tid { cause := .remoteFault, sub, origin := 7, addr := r.ea })
      | none =>
      if !s.isFrozen c k then .next s
      else
        let on := s.reqs.filter (fun x => x.src == c && x.stream == some k && x.queued && !x.underway)
        let dead := if action = 2 then on
          else if action = 1 then ((on.find? Req.isFaulted).orElse (fun _ => on.head?)).toList else []
        let s := if action = 0 then on.foldl (fun s x => s.reviveOutstanding x.tid x.id) s else s
        .next ((dead.foldl State.dropPacket s).thaw c k)
    | _, _ => .next s
  | none => .next s

/-! ## Links (R279) -/

def State.link (s : State) (l : Nat) : Link := s.links.getD l {}
def State.setLink (s : State) (l : Nat) (x : Link) : State := { s with links := s.links.put l x }

/-- Flits from number `b` up to number `a`, numbers being of 12 bits (R279). -/
def flitsAhead (a b : Nat) : Nat := (a + 4096 - b % 4096) % 4096

/-- The row `flitReceive`: a receiver takes flits strictly in sequence, discards a bad or missing flit and every flit
after it, and asks for replay from the flit it expects (R279). -/
def execFlitReceive (link seq : Nat) (crcOk : Bool) (s : State) : Host.Outcome State Fault Refusal :=
  let l := s.link link
  if l.down then .next s
  else
    let seq := seq % 4096
    let l := if flitsAhead (seq + 1) l.sent < 2048 then { l with sent := (seq + 1) % 4096 } else l
    if crcOk ∧ seq = l.expect then
      .next (s.setLink link { l with expect := (l.expect + 1) % 4096, replays := 0, asked := false })
    else if l.asked then .next (s.setLink link l)
    else .next ((s.setLink link { l with asked := true }).emit (.replayRequest link l.expect))

/-- The row `replayRequest`: the sender resends from the named flit, of the last 256 that it keeps; a link of which sixteen
replays in succession have brought no good flit is taken down (R279).  That resent flits arrive whole is the model's; flits
that do not are inputs (log 28). -/
def execReplayRequest (link seq : Nat) (s : State) : Host.Outcome State Fault Refusal :=
  let l := s.link link
  if l.down then .next s
  else if 16 ≤ l.replays then .next (s.emit (.linkDown link))
  else
    let s := s.setLink link { l with replays := l.replays + 1, asked := false }
    .next (s.emits ((List.range (Min.min 256 (flitsAhead l.sent seq))).map (fun i => .flitReceive link ((seq + i) % 4096) true)))

/-- The die whose supervisor hears of a link: a port's own, and for a boundary, of whose two dies the manual names neither, the
lower (log 28). -/
def linkDie (link : Nat) : Nat :=
  if 2 ^ 20 ≤ link then link - 2 ^ 20
  else
    let b := link % 32
    link / 32 * 16 + (if b < 7 then b else if b < 14 then b + 1 else b - 14)

/-- The row `linkDown`: packets held for the link end with `REMOTE_FAULT`, SUB 2, at their sources, and the die's
supervisor is told (R276, R279); a channel's bump faults its channel (R162). -/
def execLinkDown (link : Nat) (s : State) : Host.Outcome State Fault Refusal :=
  let s := s.setLink link { s.link link with down := true }
  let held := s.reqs.filter (fun r => r.queued && (match s.boundFor r with
    | some c => (linksBetween (dieOfCore r.src) (dieOfCore c)).contains link
    | none => false))
  let s := held.foldl (fun s r =>
    if !s.atHead r then s
    else match r.body with
      | .message _ 1 _ => s.performed r
      | .bump .. => s.refuseBump r .remoteFault 2
      | .resume .. | .gain .. => s
      | _ => s.refuse r none .remoteFault 2) s
  .next (s.hardwareRecord (linkDie link) [])

end Sys2Proof.Machine
end

