-- ==== Sys2Proof/Machine/Atomics.lean ====
section
/-!
DEFINITION. Sys2Proof/Machine/Atomics.lean: `AMO`, `CAS`, `ACC`, `FOLD` and `RECVRED` (R229–R246; majors 0x2C–0x2F).
-/
namespace Sys2Proof.Machine

/-! ## `AMO` and `CAS` -/

/-- The value that an `AMO` writes (R231); every value is `n` bytes. -/
def amoValue (op : AmoOp) (n x b : Nat) : Nat :=
  let w := 8 * n
  match op with
  | .add => (x + b) % 2 ^ w
  | .and => Nat.land x b
  | .or => Nat.lor x b
  | .xor => Nat.xor x b
  | .min => if intVal true w b < intVal true w x then b else x
  | .max => if intVal true w x < intVal true w b then b else x
  | .minz => Nat.min x b
  | .maxz => Nat.max x b
  | .swap | .cas => b

/-- A translated operand, or what the instruction does instead. -/
inductive Operand where
  | ok (p : Place)
  | miss (x : Miss)
  | trap (t : TrapInfo)
  /-- The write is refused at another module (R147), which the thread learns as a fault found after issue (R232). -/
  | refused

/-- Translation of a thread's own access, which it waits for: no tolerant page, and one with this value of RED
(R231, R238). -/
def State.threadPlace (s : State) (va : Nat) (acc : Access) (red : Bool) : Operand :=
  let x : Miss := { req := reqThread s.cur, core := s.myCore, part := s.partOfThread s.cur, va, write := acc == .write
                    sup := s.src.sup, tol := false, red := some red }
  if 2 ^ 57 ≤ va then .trap { cause := .pageFault, sub := 1, addr := Word.of va }
  else
    match s.translate x s.src.sup acc with
    | .ok p => .ok p
    | .miss => .miss x
    | .fault .remoteFault _ => .refused
    | .fault c sub => .trap { cause := c, sub, addr := Word.of va }

/-- A trap of the issuing instruction, after which no walk of its thread goes on. -/
def State.accessTrap (s : State) (t : TrapInfo) : Res := .trap t (s.dropWalks (reqThread s.cur))

/-- Puts a request of the issuing thread on its way, with the translation generation of the module that has translated it
(R151); `gD` waits for the reply. -/
def State.request (s : State) (ea : Word) (stream : Option Nat) (d : List GReg) (body : ReqBody) : State :=
  let r : Req := { id := 0, tid := s.cur, src := s.myCore, stream, ea
                   window := (match addrForm ea with
                     | .window _ _ => true
                     | _ => false)
                   part := s.partOfThread s.cur, sup := s.src.sup, body }
  let (id, s) := s.inject { r with gen := (s.module r.transModule).gen.toNat }
  if d.isEmpty then s
  else s.modTh (fun t => { t with outstanding := t.outstanding ++ [{ id, writes := gs d }] })

/-- A request that another module refuses under R147: it ends in `REMOTE_FAULT`, SUB 3 (R232). -/
def State.refusedRequest (s : State) (ea : Word) (d : List GReg) (body : ReqBody) : State :=
  let s' := s.request ea none d body
  (s'.updReq s.nextId (fun r => { r with
    st := .failed { cause := .remoteFault, sub := 3, origin := 7, addr := ea } })).emit (.atomicFaultReply s.nextId)

/-- `AMO` and `CAS` at issue (R231). -/
def State.amoIssue (s : State) (op : AmoOp) (n : Nat) (d a b : GReg) : Res :=
  let ea := s.g a
  let body := ReqBody.amo op n ((s.g b).toNat % 2 ^ (8 * n)) ((s.g d).toNat % 2 ^ (8 * n)) d
  match addrForm ea with
  | .nonCanonical => trapOf s .pageFault ea 1
  | .dram va =>
    if va % n ≠ 0 then trapOf s .misalign ea
    else
      match s.threadPlace va .write false with
      | .miss x => .again (some x)
      | .trap t => s.accessTrap t
      | .refused => .retire (s.refusedRequest ea [d] (body none))
      | .ok p => .retire ((s.markDirty p).request ea none [d] (body (some p.at)))
  | f =>
    if ea.toNat % n ≠ 0 then trapOf s .misalign ea
    else if s.detachedFor s.myCore s.src.tdet f then trapOf s .pluralDetached ea
    else .retire (s.request ea (some 0) [d] (body none))

/-- An `AMO` instruction. -/
def amo (op : AmoOp) (dbl : Bool) (words : Nat) (g : Guard) (look : Fin 16) (d a b : GReg) (s : State) :
    Host.Outcome State Fault Refusal :=
  issue (metaL 0x2C g look [d] [a, b] words) s (fun s => s.amoIssue op (if dbl then 8 else 4) d a b)

/-- `AMO.ADD.W` (R231). -/
def execAmoAddW (g : Guard) (look : Fin 16) (d a b : GReg) (s : State) : Host.Outcome State Fault Refusal :=
  amo .add false 1 g look d a b s

/-- `AMO.ADD.D` (R231). -/
def execAmoAddD (g : Guard) (look : Fin 16) (d a b : GReg) (s : State) : Host.Outcome State Fault Refusal :=
  amo .add true 1 g look d a b s

/-- `AMO.ADD` with an extension word (R231). -/
def execAmoAddDw (g : Guard) (look : Fin 16) (dbl : Bool) (d a b : GReg) (s : State) :
    Host.Outcome State Fault Refusal :=
  amo .add dbl 2 g look d a b s

/-- `AMO.AND` (R231). -/
def execAmoAnd (g : Guard) (look : Fin 16) (dbl : Bool) (d a b : GReg) (s : State) : Host.Outcome State Fault Refusal :=
  amo .and dbl 2 g look d a b s

/-- `AMO.OR` (R231). -/
def execAmoOr (g : Guard) (look : Fin 16) (dbl : Bool) (d a b : GReg) (s : State) : Host.Outcome State Fault Refusal :=
  amo .or dbl 2 g look d a b s

/-- `AMO.XOR` (R231). -/
def execAmoXor (g : Guard) (look : Fin 16) (dbl : Bool) (d a b : GReg) (s : State) : Host.Outcome State Fault Refusal :=
  amo .xor dbl 2 g look d a b s

/-- `AMO.MIN` (R231). -/
def execAmoMin (g : Guard) (look : Fin 16) (dbl : Bool) (d a b : GReg) (s : State) : Host.Outcome State Fault Refusal :=
  amo .min dbl 2 g look d a b s

/-- `AMO.MAX` (R231). -/
def execAmoMax (g : Guard) (look : Fin 16) (dbl : Bool) (d a b : GReg) (s : State) : Host.Outcome State Fault Refusal :=
  amo .max dbl 2 g look d a b s

/-- `AMO.MINZ` (R231). -/
def execAmoMinz (g : Guard) (look : Fin 16) (dbl : Bool) (d a b : GReg) (s : State) : Host.Outcome State Fault Refusal :=
  amo .minz dbl 2 g look d a b s

/-- `AMO.MAXZ` (R231). -/
def execAmoMaxz (g : Guard) (look : Fin 16) (dbl : Bool) (d a b : GReg) (s : State) : Host.Outcome State Fault Refusal :=
  amo .maxz dbl 2 g look d a b s

/-- `AMO.SWAP` (R231). -/
def execAmoSwap (g : Guard) (look : Fin 16) (dbl : Bool) (d a b : GReg) (s : State) : Host.Outcome State Fault Refusal :=
  amo .swap dbl 2 g look d a b s

/-- A `CAS` instruction: gD holds the compare value as well. -/
def cas (n : Nat) (two : Bool) (g : Guard) (look : Fin 16) (d a b : GReg) (s : State) : Host.Outcome State Fault Refusal :=
  issue (metaL 0x2D g look [d] [d, a, b] (if two then 2 else 1)) s (fun s => s.amoIssue .cas n d a b)

/-- `CAS.W` (R231). -/
def execCasW (g : Guard) (look : Fin 16) (two : Bool) (d a b : GReg) (s : State) : Host.Outcome State Fault Refusal :=
  cas 4 two g look d a b s

/-- `CAS.D` (R231). -/
def execCasD (g : Guard) (look : Fin 16) (two : Bool) (d a b : GReg) (s : State) : Host.Outcome State Fault Refusal :=
  cas 8 two g look d a b s

/-! ## Execution at the unit or pool -/

/-- The value of gD for an old value (R231). -/
def amoResult (n x : Nat) : Nat := if n = 4 then (signExt x 32).toNat else x

/-- A DRAM request may reach its unit: everything that the thread sent there before has arrived (R229, R251). -/
def State.unitTurn (s : State) (r : Req) : Bool :=
  match r.unit with
  | some u => s.reqsBefore r.tid r.id u && s.rowsBefore r.tid r.id u
  | none => true

/-- A request that has reached its place in its thread's order. -/
def State.ready (s : State) (r : Req) : Bool := s.mayGo r && s.unitTurn r

/-- A request ends in a fault that its thread learns by `atomicFaultReply` (R232). -/
def State.failReq (s : State) (r : Req) (c : Cause) (sub : Nat) : State :=
  (s.updReq r.id (fun x => { x with st := .failed { cause := c, sub, origin := 7, addr := r.ea } })).emit
    (.atomicFaultReply r.id)

/-- The requests that are combined into one, with it, in their order of arrival (R233). -/
def State.combined (s : State) (r : Req) : List (Req × Nat) :=
  match r.body with
  | .amo _ _ b _ _ _ => (r, b) :: r.joined.filterMap (fun (id, b) => (s.req? id).map (fun x => (x, b)))
  | _ => [(r, 0)]

/-- Replies to combined requests: the old value plus the operands of those before (R233). -/
def State.replyAll (s : State) (n : Nat) : Nat → List (Req × Nat) → State
  | _, [] => s
  | v, (r, b) :: rs =>
    let s := (s.updReq r.id (fun x => { x with st := .replied (amoResult n v) })).emit (.remoteReply r.id)
    (s.kick r.src r.stream).replyAll n ((v + b) % 2 ^ (8 * n)) rs

/-- The operand that combined requests bring. -/
def combinedOperand (n : Nat) (rs : List (Req × Nat)) : Nat := (rs.foldl (fun a x => a + x.2) 0) % 2 ^ (8 * n)

/-- The row `atomicExecute` (R229–R233). -/
def execAtomicExecute (id : Nat) (s : State) : Host.Outcome State Fault Refusal :=
  match s.req? id with
  | none => .next s
  | some r =>
    match r.body with
    | .amo op n b cmp _ pa =>
      if !s.mayGo r then .next s
      else if !s.unitTurn r then .next (s.emit r.event)
      else
        let rs := s.combined r
        let b := if op = .add then combinedOperand n rs else b
        match pa with
        | some p =>
          let fail := fun (s : State) (c : Cause) (sub : Nat) => rs.foldl (fun s (x, _) => s.failReq x c sub) s
          match s.unitDown r.src p.m p.pa with
          | some sub => .next (fail s .remoteFault sub)
          | none =>
            let s := s.beforeAtomic p.m (quadOfCore r.src) p.pa
            match s.dramFault p.m p.pa n with
            | some (c, sub) =>
              let s := if c = .memsideError then s.memsideRecord p.m p.pa p.pa sub (if op = .cas then 2 else 1) r.src else s
              .next (fail s c sub)
            | none =>
              let s := s.readAt p.m p.pa n p.pin
              let x := s.dramNat p.m p.pa n
              let s := if op = .cas ∧ x ≠ cmp then s else s.unitWrite p.m p.pa (bytesOf n (amoValue op n x b))
              .next (s.replyAll n x rs)
        | none =>
          let s := s.seen r
          let form := addrForm r.ea
          let refuseAll := fun (s : State) (dst : Option Nat) (c : Cause) (sub : Nat) =>
            rs.foldl (fun s (x, _) => s.refuse x dst c sub) s
          match s.target r.src r.part form with
          | .fault c sub => .next (refuseAll s none c sub)
          | .retry => .next (rs.foldl (fun s (x, _) => s.retryLater x) s)
          | .ok c =>
            if !s.targetRange c form n then .next (refuseAll s (some c) .remoteFault 0)
            else if s.poolBad c form.off n then .next (refuseAll s (some c) .eccUncorr 0)
            else
              let s := rs.foldl (fun s (x, _) => s.heard c x.src x.stream) (s.poolCorrect c form.off n)
              let x := s.poolNat c form.off n
              let s := if op = .cas ∧ x ≠ cmp then s else s.setPoolNat c form.off n (amoValue op n x b)
              .next (s.replyAll n x rs)
    | _ => .next s

/-- Two requests that a fabric switch on their way may combine (R233): both come to the target module from others. -/
def State.combinable (s : State) (r q : Req) : Bool :=
  let asid := fun (x : Req) => (s.partition (moduleOfCore x.src) x.part).asid
  let far := fun (m : Nat) => moduleOfCore r.src != m && moduleOfCore q.src != m
  match r.body, q.body with
  | .amo .add n _ _ _ (some p), .amo .add n2 _ _ _ (some p2) =>
    n == n2 && r.ea == q.ea && p.m == p2.m && p.pa == p2.pa && asid r == asid q && far p.m
  | .amo .add n _ _ _ none, .amo .add n2 _ _ _ none =>
    n == n2 && r.window == q.window && (addrForm r.ea).off == (addrForm q.ea).off
      && (match s.boundFor r, s.boundFor q with
        | some c, some c2 => c == c2 && far (moduleOfCore c)
        | _, _ => false)
  | _, _ => false

/-- The row `amoCombine` (R233): request id2 joins request id, which is still waiting; each source's earlier packets have
arrived. -/
def execAmoCombine (id id2 : Nat) (s : State) : Host.Outcome State Fault Refusal :=
  match s.req? id, s.req? id2 with
  | some r, some q =>
    match q.body with
    | .amo _ _ b _ _ _ =>
      if id != id2 && s.ready r && s.ready q && s.combinable r q then
        .next ((s.updReq id2 (fun x => { x with st := .joined id, joined := [] })).updReq id
          (fun x => { x with joined := x.joined ++ (id2, b) :: q.joined }))
      else .next s
    | _ => .next s
  | _, _ => .next s

/-- The row `atomicFaultReply` (R232): gD is left unchanged, and the thread traps at its next boundary. -/
def execAtomicFaultReply (id : Nat) (s : State) : Host.Outcome State Fault Refusal :=
  match s.req? id with
  | some r =>
    match r.st with
    | .failed t => .next (((s.dropReq id).endOutstanding r.tid id).pendAlive r.tid (s.returned r t))
    | _ => .next s
  | none => .next s

/-! ## `ACC` and `FOLD` (R238, R239) -/

/-- Translations of a region's lines as writes, the first of which that fails in another way than by permission traps;
then the permissions, in the same order (R238); then what another module refuses (R147). -/
def State.regionPlaces (s : State) : List Nat → Option TrapInfo → Except Operand (List Place)
  | [], none => .ok []
  | [], some t => .error (.trap t)
  | va :: vas, bad =>
    match s.threadPlace va .write true with
    | .miss x => .error (.miss x)
    | .trap t =>
      if t.cause = .pageProt then s.regionPlaces vas (if bad.isSome then bad else some t) else .error (.trap t)
    | .refused =>
      match s.regionPlaces vas bad with
      | .ok _ => .error .refused
      | e => e
    | .ok p =>
      match s.regionPlaces vas bad with
      | .ok ps => .ok (p :: ps)
      | e => e

/-- Translates a line and slots, and goes on with their places; `empty` is the packet where another module refuses it. -/
def State.region (s : State) (ea : Word) (empty : ReqBody) (vas : List Nat) (k : List Place → Res) : Res :=
  match s.regionPlaces vas none with
  | .error (.miss x) => .again (some x)
  | .error (.trap t) => s.accessTrap t
  | .error .refused => .retire (s.refusedRequest ea [] empty)
  | .error (.ok _) => .again none
  | .ok ps => k ps

/-- `ACC` at issue (R238). -/
def accIssue (f64 : Bool) (value : Word → Word) (g : Guard) (a b : GReg) (s : State) : Host.Outcome State Fault Refusal :=
  issue (metaG 0x2E g [] [a, b]) s (fun s =>
    let ea := s.g a
    let accr := s.src.accr
    match addrForm ea with
    | .dram va =>
      if accrNs accr = 0 ∨ accrF64 accr ≠ f64 then trapOf s .illegal
      else if va % (if f64 then 8 else 4) ≠ 0 then trapOf s .misalign ea
      else
        let none_ : DramAt := { m := s.myModule, pa := 0 }
        s.region ea (.acc f64 (value (s.g b)) none_ none_) [va, slotAddr accr va (accrSlot accr)] (fun ps =>
          match ps with
          | [p, q] =>
            .retire (((s.markDirty p).markDirty q).request ea none [] (.acc f64 (value (s.g b)) p.at q.at))
          | _ => .again none)
    | _ => trapOf s .pageFault ea 1)

/-- `ACC.F32` (R238). -/
def execAccF32 (g : Guard) (a b : GReg) (s : State) : Host.Outcome State Fault Refusal :=
  accIssue false (fun x => Word.of (field x 0 32)) g a b s

/-- `ACC.BF16` (R238). -/
def execAccBf16 (g : Guard) (a b : GReg) (s : State) : Host.Outcome State Fault Refusal :=
  accIssue false (fun x => Word.of (field x 0 16 * 2 ^ 16)) g a b s

/-- `ACC.F64` (R238). -/
def execAccF64 (g : Guard) (a b : GReg) (s : State) : Host.Outcome State Fault Refusal := accIssue true id g a b s

/-- `FOLD` (R239). -/
def execFold (g : Guard) (a : GReg) (s : State) : Host.Outcome State Fault Refusal :=
  issue (metaG 0x2E g [] [a]) s (fun s =>
    let ea := s.g a
    let accr := s.src.accr
    match addrForm ea with
    | .dram va =>
      let line := va / 64 * 64
      if accrNs accr = 0 then trapOf s .illegal
      else
        let none_ : DramAt := { m := s.myModule, pa := 0 }
        s.region ea (.fold (accrF64 accr) none_ []) (va :: (List.range (accrNs accr)).map (slotAddr accr line)) (fun ps =>
          match ps with
          | p :: qs =>
            .retire ((ps.foldl State.markDirty s).request ea none []
              (.fold (accrF64 accr) { p.at with pa := p.pa / 64 * 64 } (qs.map Place.at)))
          | [] => .again none)
    | _ => trapOf s .pageFault ea 1)

/-- What the unit makes of an accumulate or fold before it acts (R244): cause, subcode and the failed address.  An accumulate
reads and writes its slot alone, a fold the base as well (`reads`). -/
def State.regionFault (s : State) (r : Req) (base : DramAt) (reads : Bool) (n : Nat) (slots : List DramAt) :
    Option (Cause × Nat × Nat) :=
  match s.unitDown r.src base.m base.pa with
  | some sub => some (.remoteFault, sub, base.pa)
  | none =>
    if !memoryAt base.pa then some (.memsideError, 1, base.pa)
    else
      match slots.find? base.astray with
      | some q => some (.memsideError, 2, q.pa)
      | none =>
        ((if reads then [base] else []) ++ slots).findSome? (fun q =>
          (s.dramFault q.m q.pa n).map (fun (c, sub) => (c, sub, q.pa)))

/-- The unit's refusal, with its record. -/
def State.regionRefuse (s : State) (r : Req) (base : DramAt) (op : Nat) (f : Cause × Nat × Nat) : State :=
  let s := if f.1 = .memsideError then s.memsideRecord base.m base.pa f.2.2 f.2.1 op r.src else s
  s.failReq r f.1 f.2.1

/-- The row `accArrival` (R238). -/
def execAccArrival (id : Nat) (s : State) : Host.Outcome State Fault Refusal :=
  match s.req? id with
  | none => .next s
  | some r =>
    match r.body with
    | .acc f64 v base slot =>
      let n := if f64 then 8 else 4
      if !s.mayGo r then .next s
      else if !s.unitTurn r then .next (s.emit r.event)
      else
        match s.regionFault r base false n [slot] with
        | some f => .next (s.regionRefuse r base 3 f)
        | none =>
          .next (((s.readAt slot.m slot.pa n slot.pin).accumulate base.m f64 base.pa slot.pa [v.toNat]).dropReq id)
    | _ => .next s

/-- The row `foldArrival` (R236, R239). -/
def execFoldArrival (id : Nat) (s : State) : Host.Outcome State Fault Refusal :=
  match s.req? id with
  | none => .next s
  | some r =>
    match r.body with
    | .fold f64 line slots =>
      if !s.mayGo r then .next s
      else if !s.unitTurn r then .next (s.emit r.event)
      else
        match s.regionFault r line true 64 slots with
        | some f => .next (s.regionRefuse r line 4 f)
        | none =>
          let s := slots.foldl (fun s q => s.readAt q.m q.pa 64 q.pin) (s.readAt line.m line.pa 64 line.pin)
          .next ((s.foldLine line.m f64 line.pa (slots.map DramAt.pa)).dropReq id)
    | _ => .next s

/-! ## `RECVRED` (R242, R243) -/

/-- The payload and accumulator widths of a format; `BF16` accumulates in `F32`. -/
def recvFormat (c : Nat) : Option (Tag × Nat × Nat) :=
  if c = Tag.f32.code then some (.f32, 4, 4)
  else if c = Tag.f64.code then some (.f64, 8, 8)
  else if c = Tag.bf16.code then some (.bf16, 2, 4)
  else if c = Tag.i32.code then some (.i32, 4, 4)
  else if c = Tag.i64.code then some (.i64, 8, 8)
  else none

/-- `RECVRED` at issue (R242); the order of its checks is the model's choice (log 32). -/
def execRecvred (g : Guard) (look : Fin 16) (two : Bool) (d a b : GReg) (s : State) : Host.Outcome State Fault Refusal :=
  issue (metaL 0x2F g look [d] [d, a, b] (if two then 2 else 1)) s (fun s =>
    let p := s.localAddr (s.g a)
    let e := field (s.g b) 0 16
    let m := field (s.g b) 32 32
    match recvFormat (field (s.g b) 16 5) with
    | none => trapOf s .illegal
    | some (t, pw, aw) =>
      if e = 0 then trapOf s .illegal
      else if p % 32 ≠ 0 then trapOf s .misalign (Word.of p)
      else if p < s.scratchEnd s.myCore ∨ s.accEnd s.myCore < p + e * aw then trapOf s .localRange (Word.of p)
      else if 2048 < e * pw then trapOf s .illegal
      else if m ≤ field (s.g d) 0 32 ∨ s.src.granted = true then .retire s
      else .block (.recvred d p (field (s.g d) 0 32) m t e (s.g d)) s)

/-- One element added to the partial sum: its bytes and flags (R242). -/
def recvElement (t : Tag) (aw k acc x : Nat) : Lane :=
  match t with
  | .f64 => if k = 0 then (if (f64Fmt.val x).isNan then f64Fmt.nanBits else x, 0) else f64Fmt.add acc x
  | .f32 | .bf16 =>
    let x := if t = .bf16 then x * 2 ^ 16 else x
    if k = 0 then (if (f32Fmt.val x).isNan then f32Fmt.nanBits else x, 0) else f32Fmt.add acc x
  | _ => ((if k = 0 then x else acc + x) % 2 ^ (8 * aw), 0)

/-- The message at the head summed into the partial sum: message `k` of the sum (R242). -/
def State.recvSum (s : State) (tid core : Nat) (d : GReg) (p k : Nat) (t : Tag) (pw aw e : Nat) : State :=
  let bs := s.ringRead core ((s.core core).rqHead + 16) (e * pw)
  let ls := (List.range e).map (fun i =>
    recvElement t aw k (s.ownNat tid (p + i * aw) aw) (natOfBytes ((bs.drop (i * pw)).take pw)))
  let s := (((s.headCorrect core true).poolCorrect core p (if k = 0 then 0 else e * aw)).dequeue core).ownWrite tid p
    (ls.flatMap (fun l => bytesOf aw l.1))
  s.modThread tid (fun th => { (th.setG d (Word.of (k + 1))) with fflags := ls.foldl (fun f l => f ||| l.2) th.fflags })

/-- The row `recvredMessage` (R242, R243): one message of the sum; the instruction ends with the last, and traps at a
message of another length, which stays. -/
def execRecvredMessage (tid : Nat) (s : State) : Host.Outcome State Fault Refusal :=
  let th := s.thread tid
  let core := coreOfThread tid
  match th.status, th.wait with
  | .waiting, some (.recvred d p k m t e old) =>
    if !s.recvReady tid then .next s
    else
      match recvFormat t.code with
      | none => .next s
      | some (_, pw, aw) =>
        let trap := fun (t : TrapInfo) => (s.modThread tid Thread.interrupt).raise tid t th.waitWords
        match s.headBad core false with
        | some a => .next (trap { cause := .eccUncorr, addr := Word.of a })
        | none =>
        if summaryLen (s.headSummary core) ≠ e * pw then .next (trap { cause := .illegal })
        else
        match s.headBad core true with
        | some a => .next (trap { cause := .eccUncorr, addr := Word.of a })
        | none =>
        if (if 0 < k then s.ownBad tid p (e * aw) else s.ownBadStore tid p (e * aw)) then
          .next (trap { cause := .eccUncorr, addr := Word.of p })
        else
          let s := s.recvSum tid core d p k t pw aw e
          if k + 1 < m then .next (s.modThread tid (fun th => { th with wait := some (.recvred d p (k + 1) m t e old) }))
          else .next (s.wake tid (fun _ _ => true) (fun _ s => .retire s))
  | _, _ => .next s

end Sys2Proof.Machine
end

