-- ==== Sys2Proof/Machine/Fence.lean ====
section
/-!
DEFINITION. Sys2Proof/Machine/Fence.lean: `FENCE`, `PUBLISH` and the Conjunction barriers (R168, R247–R265; functions
8–13 of major 0x27, majors 0x30 and 0x31).
-/
namespace Sys2Proof.Machine

/-! ## `FENCE` (R252) -/

/-- A scope as its code names it (R46). -/
def scopeHolds (core scope target : Nat) : Bool :=
  match scope with
  | 0 => core == target
  | 1 => quadOfCore core == quadOfCore target
  | 2 => dieOfCore core == dieOfCore target
  | 3 => moduleOfCore core == moduleOfCore target
  | _ => true

/-- The memory-side unit of a DRAM address lies in a core's scope (R247). -/
def unitInScope (core scope : Nat) (p : DramAt) : Bool :=
  match scope with
  | 0 | 1 => false
  | 2 => dieOfCore core == p.m * 16 + dieOfPa p.pa
  | 3 => moduleOfCore core == p.m
  | _ => true

/-- The target of a request on a stream, as its issue fixed it (R247). -/
def State.requestCore (s : State) (r : Req) : Nat := (s.boundFor r).getD r.src

/-- A request of the thread that a fence at this scope waits for (R252); a request that has ended in a fault counts as
performed. -/
def State.fenceWaits (s : State) (scope : Nat) (r : Req) : Bool :=
  let under := match r.st with
    | .waiting | .refused | .joined _ | .replied _ => true
    | _ => false
  under && (match r.body with
    | .acc .. | .fold .. => true
    | .read .. | .write .. => scopeHolds r.src scope (s.requestCore r)
    | .amo _ _ _ _ _ (some p) => unitInScope r.src scope p
    | .amo _ _ _ _ _ none => scopeHolds r.src scope (s.requestCore r)
    | .message _ kind _ => kind == 0 && scopeHolds r.src scope (s.requestCore r)
    | _ => false)

/-- Nothing is left that a fence of the thread waits for (R252). -/
def State.fenceReady (s : State) (tid scope : Nat) : Bool :=
  (s.thread tid).stores.isEmpty && s.reqs.all (fun r => !(r.tid == tid && s.fenceWaits scope r))

/-- The end of a fence: release, then acquire, and FB (R252). -/
def State.fenceEnd (s : State) (scope : Nat) : State :=
  ((s.releaseCore s.myCore scope).acquireCore s.myCore scope).modTh (fun t => { t with fb := BitVec.allOnes 64 })

/-- `FENCE` (R252). -/
def execFence (g : Guard) (sc : Scope) (s : State) : Host.Outcome State Fault Refusal :=
  issue (metaG 0x30 g [] []) s (fun s =>
    await (.fence sc.code) (fun s => s.drainAll s.cur) (fun s => s.fenceReady s.cur sc.code)
      (fun s => .retire (s.fenceEnd sc.code)) s)

/-- The row `fenceComplete` (R252). -/
def execFenceComplete (tid : Nat) (s : State) : Host.Outcome State Fault Refusal :=
  .next (s.wake tid
    (fun w s => match w with
      | .fence sc => s.fenceReady tid sc
      | _ => false)
    (fun w s => match w with
      | .fence sc => .retire (s.fenceEnd sc)
      | _ => .again none))

/-! ## `PUBLISH` (R168) -/

/-- No published-mode `DRAW` or `DRAWS` of the thread to the slot is incomplete. -/
def State.publishedDone (s : State) (tid : Nat) (slot : Fin 4) : Bool :=
  (s.core (coreOfThread tid)).chans.toList.all (fun k =>
    k.queue.all (fun e => !(e.tid == tid && !e.chained && e.pub && e.draws && extPslot e.ext == slot)))

/-- The release, and the toggle as one step (R168). -/
def State.publishEnd (s : State) (scope : Nat) (slot : Fin 4) : State :=
  let s := s.releaseCore s.myCore scope
  s.modCore s.myCore (fun k =>
    let w := k.pub[slot]
    if pubEn w then { k with pub := k.pub.set slot.val (setField w 62 1 (1 - (pubSel w).toNat)) slot.isLt } else k)

/-- What `PUBLISH` waits for. -/
def State.publishReady (s : State) (tid scope slot : Nat) : Bool :=
  s.publishedDone tid (Fin.ofNat 4 slot) && s.fenceReady tid scope

/-- `PUBLISH` (R168). -/
def execPublish (g : Guard) (sc : Scope) (a : GReg) (s : State) : Host.Outcome State Fault Refusal :=
  issue (metaG 0x27 g [] [a]) s (fun s =>
    let slot := field (s.g a) 0 2
    if !pubEn (s.core s.myCore).pub[Fin.ofNat 4 slot] then trapOf s .illegal
    else
      await (.publish sc.code slot) (fun s => s.drainAll s.cur) (fun s => s.publishReady s.cur sc.code slot)
        (fun s => .retire (s.publishEnd sc.code (Fin.ofNat 4 slot))) s)

/-- The row `publishToggle` (R168). -/
def execPublishToggle (tid : Nat) (s : State) : Host.Outcome State Fault Refusal :=
  .next (s.wake tid
    (fun w s => match w with
      | .publish sc slot => s.publishReady tid sc slot
      | _ => false)
    (fun w s => match w with
      | .publish sc slot => .retire (s.publishEnd sc (Fin.ofNat 4 slot))
      | _ => .again none))

/-! ## Conjunction objects (R257, R258) -/

/-- A number for an object, as LASTB keeps it. -/
def ObjRef.num : ObjRef → Nat
  | .quad q o => 4 * (16 * q + o.val)
  | .die d o => 4 * (16 * d + o.val) + 1
  | .module m o => 4 * (16 * m + o.val) + 2
  | .pod p o => 4 * (16 * p + o.val) + 3

/-- LEVEL of an object operand (R258). -/
def objLevel (ga : Word) : Nat := field ga 8 3

/-- The object that a thread names (R257, R258). -/
def State.objRef (s : State) (tid : Nat) (ga : Word) : ObjRef :=
  let o := Fin.ofNat 16 (field ga 0 4)
  let c := coreOfThread tid
  match objLevel ga with
  | 0 | 1 => .quad (quadOfCore c) o
  | 2 => .die (dieOfCore c) o
  | 3 => .module (moduleOfCore c) o
  | _ => .pod (partKey (s.partOfThread tid)) o

/-- The partition that an object belongs to (R257, R291, R392); `none` where it belongs to no partition. -/
def State.objOwner (s : State) : ObjRef → Option Nat
  | .quad q _ => (s.quad q).part
  | .die d o =>
    match (s.die d).claims.find? (fun e => e.1 / 2 ^ o.val % 2 == 1) with
    | some (_, l) => (s.launches.get? l).bind (fun x => x.part)
    | none => (s.die d).objPart[o]
  | .module m o => (s.module m).objPart[o]
  | .pod p _ => some p

/-- The thread may name the object: it is its partition's, or, for a firmware thread, some partition's (R392). -/
def State.objAllowed (s : State) (tid : Nat) (r : ObjRef) : Bool :=
  match s.partOfThread tid, s.objOwner r with
  | some p, some q => p == q
  | none, some _ => true
  | _, none => false

/-- The member bit of a thread at a level (R257, R259). -/
def memberBit (tid level : Nat) : Nat :=
  let c := coreOfThread tid
  match level with
  | 0 | 1 => if coreIndex c < 128 then 8 * (coreIndex c % 4) + threadIndex tid else threadIndex tid
  | 2 => 8 * coreIndex c + threadIndex tid
  | 3 => dieIndex (dieOfCore c)
  | _ => moduleOfCore c

/-- The checks of R258 that every barrier instruction makes; `member` for those that join, arrive or post. -/
def State.objCheck (s : State) (ga : Word) (member : Bool) : Option TrapInfo :=
  if 4 < objLevel ga then some { cause := .illegal }
  else if member && objLevel ga == 2 && s.kind != .lookup then some { cause := .illegal }
  else if s.objAllowed s.cur (s.objRef s.cur ga) then none
  else some { cause := .remoteFault, sub := 1, addr := ga }

def setBit1024 (x : BitVec 1024) (k : Nat) : BitVec 1024 := x ||| (1#1024 <<< k)
def clearBit1024 (x : BitVec 1024) (k : Nat) : BitVec 1024 := x &&& ~~~(1#1024 <<< k)

/-- Clears a thread's member and arrival bits (R259). -/
def State.objLeave (s : State) (r : ObjRef) (bit tid : Nat) (ga : Word) : State :=
  let c := s.obj r
  if c.memb.getLsbD bit then
    (s.setObj r { c with memb := clearBit1024 c.memb bit, arrv := clearBit1024 c.arrv bit }).objTest r tid ga
  else s

/-- `BJOIN` (R259). -/
def execBjoin (g : Guard) (a : GReg) (s : State) : Host.Outcome State Fault Refusal :=
  issue (metaG 0x31 g [] [a]) s (fun s =>
    let ga := s.g a
    match s.objCheck ga true with
    | some t => .trap t s
    | none =>
      let r := s.objRef s.cur ga
      let b := memberBit s.cur (objLevel ga)
      if bit ga 15 then
        let c := s.obj r
        .retire ((s.setObj r { c with memb := clearBit1024 c.memb b, arrv := clearBit1024 c.arrv b }).objTest r s.cur ga)
      else
        let c := s.obj r
        .retire (s.setObj r { c with memb := setBit1024 c.memb b }))

/-- `EXIT` leaves every quad and die object of which the thread is a member (R259). -/
def State.leaveObjects (s : State) (tid : Nat) : State :=
  let c := coreOfThread tid
  let os := (List.range 16).map (Fin.ofNat 16)
  let s := os.foldl (fun s o => s.objLeave (.quad (quadOfCore c) o) (memberBit tid 0) tid (Word.of o.val)) s
  if coreIndex c < 128 then
    os.foldl (fun s o => s.objLeave (.die (dieOfCore c) o) (memberBit tid 2) tid (Word.of (0x200 + o.val))) s
  else s

/-! ## Arriving and waiting (R260) -/

/-- The member of a thread at an object has arrived in the phase in progress. -/
def State.hasArrived (s : State) (tid : Nat) (ga : Word) : Bool :=
  (s.obj (s.objRef tid ga)).arrv.getLsbD (memberBit tid (objLevel ga))

/-- `BARR` may record its arrival (R260): its fence is complete, and its member has not yet arrived in this phase, or, where
it had arrived when the fence was complete, the phase has changed since. -/
def State.arriveReady (s : State) (tid : Nat) (ga : Word) (phase : Option Nat) : Bool :=
  match phase with
  | some p => p != (s.obj (s.objRef tid ga)).phase.toNat
  | none => s.fenceReady tid (objLevel ga) && !s.hasArrived tid ga

/-- The phase whose end a `BARR` is to wait for, once its fence is complete (R260). -/
def State.arrivePhase (s : State) (tid : Nat) (ga : Word) : Option Nat :=
  if s.fenceReady tid (objLevel ga) && s.hasArrived tid ga then some (s.obj (s.objRef tid ga)).phase.toNat else none

/-- The fence's effect, the arrival, LASTB, and the test (R260). -/
def State.arriveEnd (s : State) (ga : Word) : State :=
  let r := s.objRef s.cur ga
  let s := s.fenceEnd (objLevel ga)
  let c := s.obj r
  let s := s.setObj r { c with arrv := setBit1024 c.arrv (memberBit s.cur (objLevel ga)) }
  (s.modTh (fun t => { t with lastb := some (r.num, c.phase.toNat) })).objTest r s.cur ga

/-- `BWAIT` may return (R260); `wt` asks for phase TPH. -/
def State.phaseReady (s : State) (tid : Nat) (ga : Word) (wt : Bool) : Bool :=
  let r := s.objRef tid ga
  let phase := (s.obj r).phase
  if wt then decide ((phase - BitVec.ofNat 16 (field ga 32 16)).toNat < 2 ^ 15)
  else (s.thread tid).lastb != some (r.num, phase.toNat)

/-- The acquire that ends `BWAIT` (R260); a `BARRW` at the pc, if it is one, is over. -/
def State.awaitEnd (s : State) (ga : Word) : State :=
  (s.acquireCore s.myCore (objLevel ga)).modTh (fun t => { t with barrw := t.barrw.filter (fun b => b.2 != t.pc) })

/-- The thread is a member of the object. -/
def State.isMember (s : State) (ga : Word) : Bool :=
  (s.obj (s.objRef s.cur ga)).memb.getLsbD (memberBit s.cur (objLevel ga))

/-- `BARR` (R260). -/
def execBarr (g : Guard) (a : GReg) (s : State) : Host.Outcome State Fault Refusal :=
  issue (metaG 0x31 g [] [a]) s (fun s =>
    let ga := s.g a
    match s.objCheck ga true with
    | some t => .trap t s
    | none =>
      if !s.isMember ga then trapOf s .illegal
      else if s.src.granted then .retire s
      else
        let s := s.drainAll s.cur
        if s.arriveReady s.cur ga none then .retire (s.arriveEnd ga)
        else .block (.barrier ga true false (s.arrivePhase s.cur ga)) s)

/-- `BWAIT` (R260). -/
def execBwait (g : Guard) (a : GReg) (s : State) : Host.Outcome State Fault Refusal :=
  issue (metaG 0x31 g [] [a]) s (fun s =>
    let ga := s.g a
    match s.objCheck ga false with
    | some t => .trap t s
    | none =>
      await (.barrier ga false true none) id (fun s => s.phaseReady s.cur ga (bit ga 48)) (fun s => .retire (s.awaitEnd ga)) s)

/-- The second half of `BARRW`: wait, or return at once. -/
def State.barrwAwait (s : State) (ga : Word) : Res :=
  let w := setField ga 48 1 0
  if s.phaseReady s.cur w false then .retire (s.awaitEnd ga) else .block (.barrier w false true none) s

/-- The arrival of `BARRW`, which no re-execution repeats (R264); beside one of the interrupted program there can be one of the
handler. -/
def State.barrwArrive (s : State) (ga : Word) : State :=
  let r := s.objRef s.cur ga
  (s.arriveEnd ga).modTh (fun t => { t with barrw := ((r.num, t.pc) :: t.barrw.filter (fun b => b.2 != t.pc)).take 2 })

/-- `BARRW` (R260, R264). -/
def execBarrw (g : Guard) (a : GReg) (s : State) : Host.Outcome State Fault Refusal :=
  issue (metaG 0x31 g [] [a]) s (fun s =>
    let ga := s.g a
    match s.objCheck ga true with
    | some t => .trap t s
    | none =>
      if !s.isMember ga then trapOf s .illegal
      else if s.src.granted then .retire (s.awaitEnd ga)
      else if s.src.barrw.contains ((s.objRef s.cur ga).num, s.src.pc) then s.barrwAwait ga
      else
        let s := s.drainAll s.cur
        if s.arriveReady s.cur ga none then (s.barrwArrive ga).barrwAwait ga
        else .block (.barrier (setField ga 48 1 0) true true (s.arrivePhase s.cur ga)) s)

/-- The row `barrierArrival` (R257, R260): the arrival of a thread that waits to record it; a `BARR` then ends, and a `BARRW`
waits on. -/
def execBarrierArrival (tid : Nat) (s : State) : Host.Outcome State Fault Refusal :=
  match (s.thread tid).status, (s.thread tid).wait with
  | .waiting, some (.barrier ga true await phase) =>
    if s.arriveReady tid ga phase then
      let s' : State := { s with cur := tid, bundle := none }
      if await then
        .next { (s'.barrwArrive ga).modThread tid (fun t => { t with wait := some (.barrier ga false true none) }) with
          cur := s.cur, bundle := s.bundle }
      else .next (({ s'.arriveEnd ga with cur := s.cur, bundle := s.bundle } : State).wake tid (fun _ _ => true)
        (fun _ s => .retire s))
    else if phase.isNone then
      .next (s.modThread tid (fun t => { t with wait := some (.barrier ga true await (s.arrivePhase tid ga)) }))
    else .next s
  | _, _ => .next s

/-- The row `bwaitReturn` (R260). -/
def execBwaitReturn (tid : Nat) (s : State) : Host.Outcome State Fault Refusal :=
  .next (s.wake tid
    (fun w s => match w with
      | .barrier ga false true _ => s.phaseReady tid ga (bit ga 48)
      | _ => false)
    (fun w s => match w with
      | .barrier ga _ _ _ => .retire (s.awaitEnd ga)
      | _ => .again none))

/-! ## Byte counts (R261, R262) -/

/-- `BEXP` (R261). -/
def execBexp (g : Guard) (a b : GReg) (s : State) : Host.Outcome State Fault Refusal :=
  issue (metaG 0x31 g [] [a, b]) s (fun s =>
    let ga := s.g a
    let n := (s.g b).toNat
    if 2 ≤ objLevel ga ∨ n = 0 ∨ 2 ^ 39 ≤ n then trapOf s .illegal
    else
      match s.objCheck ga true with
      | some t => .trap t s
      | none =>
        let r := s.objRef s.cur ga
        let c := s.obj r
        let bytes := c.bytes - n
        let s := s.setObj r { c with
          bytes, expf := true, poster := memberBit s.cur 0, posterGa := ga
          posterTeam := (s.core s.myCore).team.map (fun t => (t.launch, t.index)) }
        if 0 < bytes then .trap { cause := .barrierOverrun, addr := ga, next := true } s
        else .retire (s.objTest r s.cur ga))

/-- The row `byteDelivery` (R261), for bytes of an entry of the thread that posted last. -/
def execByteDelivery (quad obj n : Nat) (s : State) : Host.Outcome State Fault Refusal :=
  .next (s.countBytes quad obj n (threadOfMember quad (s.obj (.quad quad (Fin.ofNat 16 obj))).poster))

/-- `BMISS` (R262). -/
def bmissWord (c : Conj) (w : Nat) : Word :=
  if w ≤ 15 then (c.memb &&& ~~~c.arrv).extractLsb' (64 * w) 64
  else if w = 16 then
    Word.of (c.phase.toNat * 2 ^ 48 + c.expf.toNat * 2 ^ 47 + c.poster % 32 * 2 ^ 40 + wrap 40 c.bytes)
  else 0

/-- `BMISS` (R262). -/
def execBmiss (g : Guard) (d a : GReg) (s : State) : Host.Outcome State Fault Refusal :=
  issue (metaG 0x31 g [d] [a]) s (fun s =>
    let ga := s.g a
    match s.objCheck ga false with
    | some t => .trap t s
    | none => .retire (s.setG d (bmissWord (s.obj (s.objRef s.cur ga)) (field ga 16 8))))

end Sys2Proof.Machine
end

