-- ==== Sys2Proof/Machine/Heap.lean ====
section
/-!
DEFINITION. Sys2Proof/Machine/Heap.lean: heap kernels and the instructions of majors 0x38 and 0x39 (R305–R322, R394).
-/
namespace Sys2Proof.Machine

/-! ## Tasks and dies (R305) -/

/-- The heap dies in ascending order. -/
def Heap.dieList (h : Heap) : List Nat := (List.range 16).filter (fun d => h.dies.getLsbD d)

/-- The home die of a task. -/
def Heap.home (h : Heap) (t : Nat) : Nat := h.dieList.getD (t % h.dieList.length) 0

/-- The gain of a task as `F32` bits without the sign; such bits compare as their values do. -/
def Task.gain (t : Task) : Nat := t.r.toNat % 2 ^ 31

/-- A residual or sum that is NaN or infinite. -/
def notFinite (x : Nat) : Bool := decide (0x7F800000 ≤ x % 2 ^ 31)

/-- The task that a take on a die prefers: the largest gain of at least `floor`, and among equals the lowest id (R311). -/
def Heap.best (h : Heap) (die floor : Nat) : Option (Nat × Task) :=
  h.tasks.foldl (fun best (t, x) =>
    if x.mode = .queued ∧ h.home t = die ∧ floor ≤ x.gain then
      match best with
      | none => some (t, x)
      | some (_, y) => if y.gain < x.gain then some (t, x) else best
    else best) none

/-- The largest gain queued on a die, or 0 (R312). -/
def Heap.localMax (h : Heap) (die : Nat) : Nat :=
  match h.best die 0 with
  | some (_, x) => x.gain
  | none => 0

def State.setHeap (s : State) (l : Nat) (h : Heap) : State := { s with heaps := s.heaps.put l h }

/-- The heap kernel of a thread's launch. -/
def State.heapOf (s : State) (tid : Nat) : Option (Nat × Heap) :=
  match (s.core (coreOfThread tid)).team with
  | some t => (s.heaps.get? t.launch).map (fun h => (t.launch, h))
  | none => none

/-- A task's mode when it is not taken (R308). -/
def restMode (r : Nat) : TaskMode := if r % 2 ^ 31 = 0 then .idle else .queued

/-! ## The end of a kernel (R317, R318) -/

/-- A device write of the kernel; a fault is reported to the supervisor of its lowest die (R318, R393). -/
def State.heapWrite (s : State) (l va : Nat) (bs : List Byte) : State :=
  match s.heaps.get? l with
  | none => s
  | some h =>
    match s.deviceWrite h.module h.part va bs with
    | (none, s) => s
    | (some _, s) =>
      let s := s.hardwareRecord (h.module * 16 + h.dieList.headD 0) (bytesOf 8 va)
      match s.launches.get? l with
      | some x => { s with launches := s.launches.put l { x with wfault := true } }
      | none => s

/-- Entries `t` and up, in order (R318). -/
def State.writeEntries (s : State) (l : Nat) (h : Heap) : Nat → Nat → State
  | 0, _ => s
  | fuel + 1, t =>
    let x := h.tasks.getD t {}
    (s.heapWrite l (h.table + 64 + 8 * t) (bytesOf 4 x.r.toNat ++ bytesOf 4 x.runs.toNat)).writeEntries l h fuel (t + 1)

/-- The end of a kernel (R318): ENDED, the entries, then FINAL and CAUSE; sleeping takes wake on ENDED. -/
def State.heapEnd (s : State) (l : Nat) (cause final : Nat) : State :=
  match s.heaps.get? l with
  | none => s
  | some h =>
    if h.ended then s
    else
      let s := s.setHeap l { h with ended := true, cause, final := BitVec.ofNat 64 final }
      let s := s.writeEntries l h h.n 0
      (s.heapWrite l (h.table + 8) (bytesOf 8 final)).heapWrite l (h.table + 16) (bytesOf 2 cause)

/-- The canonical NaN of `F64`, written as FINAL under CAUSE 2 and 3. -/
def f64Nan : Nat := f64Fmt.nanBits

/-- S of R317: the gains re-added in ascending order; tasks that are not listed add +0. -/
def Heap.sum (h : Heap) : Nat :=
  h.tasks.foldl (fun acc (_, x) =>
    (f64Fmt.deliver .rne false ((f64Fmt.val acc).add (f32Fmt.val x.gain)).1).1) 0

/-- x < y for finite `F64` bits. -/
def f64Less (x y : Nat) : Bool := ((f64Fmt.val x).cmp (f64Fmt.val y)).1

/-- The end test, with its re-sum (R317). -/
def State.endTest (s : State) (l : Nat) : State :=
  match s.heaps.get? l with
  | none => s
  | some h =>
    if h.armed && !h.ended && h.taken == 0 && f64Less h.res.toNat h.tol.toNat then
      let sum := h.sum
      let s := s.setHeap l { h with res := BitVec.ofNat 64 sum }
      if f64Less sum h.tol.toNat then s.heapEnd l 1 sum else s
    else s

/-- RES after a residual has changed: the exact sum, rounded once (R309). -/
def resAfter (res old new : Nat) : Nat :=
  let (x, _) := (f64Fmt.val res).add (f32Fmt.val (new % 2 ^ 31))
  let (y, _) := x.add (f32Fmt.val (old % 2 ^ 31)).neg
  (f64Fmt.deliver .rne false y).1

/-- A task takes a new residual (R309); `h` is the kernel with whatever else the step changes. -/
def State.setResidual (s : State) (l : Nat) (h : Heap) (t : Nat) (x : Task) (new : Nat) : State :=
  let x' := { x with r := BitVec.ofNat 32 new, mode := restMode new }
  if notFinite new then (s.setHeap l { h with tasks := h.tasks.put t x' }).heapEnd l 2 f64Nan
  else
    (s.setHeap l { h with
      tasks := h.tasks.put t x', res := BitVec.ofNat 64 (resAfter h.res.toNat x.r.toNat new) }).endTest l

/-- A `GAIN` applied at the task's home die (R313). -/
def State.applyGain (s : State) (l t delta : Nat) : State :=
  match s.heaps.get? l with
  | none => s
  | some h =>
    let x := h.tasks.getD t {}
    if h.ended then s
    else if x.mode = .taken then
      s.setHeap l { h with tasks := h.tasks.put t { x with pend := BitVec.ofNat 32 (f32Fmt.add x.pend.toNat delta).1 } }
    else s.setResidual l h t x (f32Fmt.add x.r.toNat delta).1

/-- The kernel's end at its launch's end (R320, R394). -/
def State.heapAbandon (s : State) (l : Nat) (halted : Bool) : State :=
  match s.heaps.get? l with
  | none => s
  | some h =>
    if h.ended then s
    else if halted then s.heapEnd l 3 f64Nan
    else (s.setHeap l { h with res := BitVec.ofNat 64 h.sum }).heapEnd l 4 h.sum

/-! ## `GAIN` (R313) -/

/-- The shape of a heap instruction. -/
def metaH (g : Guard) (d : List GReg) (src : List GReg) : Meta := metaG 0x38 g d src

/-- Runs an instruction that needs a heap kernel (R307). -/
def withHeap (s : State) (k : Nat → Heap → Res) : Res :=
  match s.heapOf s.cur with
  | none => trapOf s .illegal
  | some (l, h) => k l h

/-- `GAIN` (R313). -/
def execGain (g : Guard) (a b : GReg) (s : State) : Host.Outcome State Fault Refusal :=
  issue (metaH g [] [a, b]) s (fun s => withHeap s (fun l h =>
    let t := field (s.g a) 0 32
    let delta := field (s.g b) 0 32
    if h.n ≤ t then trapOf s .heapFull
    else if notFinite delta then trapOf s .illegal
    else
      .retire (s.inject { id := 0, tid := s.cur, src := s.myCore, part := s.partOfThread s.cur,
                          gen := (s.module s.myModule).gen.toNat,
                          body := .gain l t (BitVec.ofNat 32 delta) }).2))

/-- Why a core's packet cannot reach the home die of a task (R10, R279). -/
def State.homeWay (s : State) (core : Nat) (h : Heap) (t : Nat) : Option Nat :=
  s.blockedWay (dieOfCore core) (h.module * 16 + h.home t)

/-- What a thread learns of a packet to a heap die that found its way blocked, on no stream (R279; log 28). -/
def wayTrap (sub : Nat) : TrapInfo := { cause := .remoteFault, sub, origin := 7 }

/-- Every earlier `GAIN` of the thread to a home die has been applied; `none` asks for all of them. -/
def State.gainsBefore (s : State) (tid : Nat) (id : Option Nat) (die : Option Nat) : Bool :=
  s.reqs.all (fun r =>
    match r.body with
    | .gain l t _ =>
      r.tid != tid || (match id with
        | some i => decide (i ≤ r.id)
        | none => false)
      || (match die, s.heaps.get? l with
        | some d, some h => h.home t != d
        | _, _ => false)
    | _ => true)

/-- The row `gainApply` (R313): a thread's `GAIN`s to one die are applied in issue order. -/
def execGainApply (id : Nat) (s : State) : Host.Outcome State Fault Refusal :=
  match s.req? id with
  | none => .next s
  | some r =>
    match r.body with
    | .gain l t delta =>
      match s.heaps.get? l with
      | none => .next (s.dropReq id)
      | some h =>
        if !s.gainsBefore r.tid (some id) (some (h.home t)) then .next (s.emit r.event)
        else
          match s.homeWay r.src h t with
          | some sub => .next ((s.dropReq id).pendAlive r.tid (wayTrap sub))
          | none => .next ((s.dropReq id).applyGain l t delta.toNat)
    | _ => .next s

/-! ## `DONE` (R314) -/

/-- What `DONE` waits for. -/
def State.doneReady (s : State) (tid : Nat) : Bool := s.fenceReady tid 3 && s.gainsBefore tid none none

/-- The release, and the step at the task's home die, which an ended kernel skips (R314). -/
def State.doneEnd (s : State) (t : Nat) (keep : BitVec 32) : State :=
  let s := (s.fenceEnd 3).modTh (fun th => { th with held := none })
  let s := match s.heapOf s.cur with
    | none => s
    | some (l, h) =>
      if h.ended then s
      else
        let x := h.tasks.getD t {}
        let new := (f32Fmt.add keep.toNat x.pend.toNat).1
        s.setResidual l { h with taken := h.taken - 1 } t { x with pend := 0, runs := x.runs + 1 } new
  s.trace s.myCore 5 0x0500 (threadIndex s.cur) 0 (Word.of (keep.toNat * 2 ^ 32 + t)) 1

/-- The end of `DONE`; its step finds its way to the home die blocked, and the instruction traps (R279; log 28). -/
def State.doneRes (s : State) (t : Nat) (keep : BitVec 32) : Res :=
  match (s.heapOf s.cur).bind (fun x => s.homeWay s.myCore x.2 t) with
  | some sub => .trap { wayTrap sub with origin := 0 } s
  | none => .retire (s.doneEnd t keep)

/-- `DONE` (R314). -/
def execDone (g : Guard) (a : GReg) (s : State) : Host.Outcome State Fault Refusal :=
  issue (metaH g [] [a]) s (fun s => withHeap s (fun _ _ =>
    let t := field (s.g a) 0 32
    let keep := field (s.g a) 32 32
    if s.src.held ≠ some t then trapOf s .illegal
    else if notFinite keep then trapOf s .illegal
    else
      await (.done t (BitVec.ofNat 32 keep)) (fun s => s.drainAll s.cur) (fun s => s.doneReady s.cur)
        (fun s => s.doneRes t (BitVec.ofNat 32 keep)) s))

/-- The row `doneApply` (R314). -/
def execDoneApply (tid : Nat) (s : State) : Host.Outcome State Fault Refusal :=
  .next (s.wake tid
    (fun w s => match w with
      | .done _ _ => s.doneReady tid
      | _ => false)
    (fun w s => match w with
      | .done t keep => s.doneRes t keep
      | _ => .again none))

/-! ## `HSEED` (R315) -/

/-- The end of `HSEED`: it arms the end test. -/
def State.seedEnd (s : State) (arm : Bool) : State :=
  match s.heapOf s.cur with
  | none => s
  | some (l, h) => if arm && !h.ended then (s.setHeap l { h with armed := true }).endTest l else s

/-- `HSEED` (R315): the thread waits while its entries are read and applied one by one. -/
def execHseed (g : Guard) (a b : GReg) (s : State) : Host.Outcome State Fault Refusal :=
  issue (metaH g [] [a, b]) s (fun s => withHeap s (fun _ h =>
    let f := field (s.g a) 0 32
    let c := field (s.g b) 0 32
    let arm := bit (s.g a) 63
    if h.n < f + c then trapOf s .heapFull
    else await (.hseed f (f + c) arm) id (fun _ => c == 0) (fun s => .retire (s.seedEnd arm)) s))

/-- The row `hseedEntryRead` (R315): the next entry, or the end of the `HSEED`. -/
def execHseedEntryRead (tid : Nat) (s : State) : Host.Outcome State Fault Refusal :=
  match (s.thread tid).wait, s.heapOf tid with
  | some (.hseed t stop arm), some (l, h) =>
    if t < stop then
      if !s.gainsBefore tid none (some (h.home t)) then .next s
      else
        let va := h.table + 64 + 8 * t
        match s.deviceRead h.module h.part va 8 with
        | (.error c, s) =>
          let sub := if c = .memsideError ∨ c = .pageFault ∧ 2 ^ 57 ≤ va then 1 else 0
          .next (s.raise tid { cause := c, sub, addr := Word.of va } (s.thread tid).waitWords)
        | (.ok bs, s) =>
          match s.homeWay (coreOfThread tid) h t with
          | some sub => .next (s.raise tid { wayTrap sub with origin := 0, addr := Word.of va } (s.thread tid).waitWords)
          | none =>
            .next ((s.applyGain l t (natOfBytes (bs.take 4))).modThread tid (fun th =>
              { th with wait := some (.hseed (t + 1) stop arm) }))
    else
      .next (s.wake tid (fun _ _ => true) (fun _ s => .retire (s.seedEnd arm)))
  | _, _ => .next s

/-! ## `TAKE` (R310–R312) -/

/-- The two status words of `TAKE` (R310). -/
def takeNone : Word := 0xFFFFFFFFFFFFFFFE
def takeEnded : Word := 0xFFFFFFFFFFFFFFFF

/-- A take: the task is taken for a thread, whose `gD` receives its residual and id (R310, R319). -/
def State.takeTask (s : State) (l : Nat) (h : Heap) (t : Nat) (x : Task) : Word × State :=
  let s := s.setHeap l { h with tasks := h.tasks.put t { x with mode := .taken, pend := 0 }, taken := h.taken + 1 }
  (Word.of (x.r.toNat * 2 ^ 32 + t), (s.acquireCore s.myCore 3).modTh (fun th => { th with held := some t }))

/-- M̂ is sampled (R312). -/
def Heap.refresh (h : Heap) (cyc : Nat) : Heap :=
  let (m, d) := h.dieList.foldl (fun (best : Nat × Nat) d => if best.1 < h.localMax d then (h.localMax d, d) else best)
    (0, h.dieList.headD 0)
  { h with mhat := BitVec.ofNat 32 m, mdie := d, mcyc := cyc }

/-- A take on die `d` asks die d* first (R312): the gap exceeds the slack, exactly. -/
def Heap.steals (h : Heap) (d : Nat) : Bool :=
  h.global && h.mdie != d &&
    (match f32Fmt.val h.slack.toNat, ((f32Fmt.val h.mhat.toNat).add (f32Fmt.val (h.localMax d)).neg).1 with
     | s, gap => (s.cmp gap).1)

/-- A sleeping take makes a new attempt at a refresh (R312). -/
def Heap.attempt (h : Heap) (s : State) (l tid : Nat) (th : Thread) : Thread :=
  match th.status, th.wait, (s.core (coreOfThread tid)).team with
  | .waiting, some (.take nowait false f d Option.none), some tm =>
    let die := dieIndex (dieOfCore (coreOfThread tid))
    if tm.launch = l ∧ h.steals die = true ∧ h.ended = false then
      { th with wait := some (.take nowait false f d (some (h.mdie, h.localMax die))) }
    else th
  | _, _, _ => th

/-- M̂ and d* are sampled, and every sleeping take of the kernel makes a new attempt (R312). -/
def State.refreshHeap (s : State) (l : Nat) (h : Heap) : State :=
  let h := h.refresh (s.module h.module).cycles
  let s := s.setHeap l h
  { s with threads := s.threads.map (fun (tid, th) => (tid, h.attempt s l tid th)) }

/-- The M̂ that a take sees is at most 128 cycles old: an older one is sampled again (R312). -/
def State.freshHeap (s : State) (l : Nat) : State :=
  match s.heaps.get? l with
  | none => s
  | some h => if h.global && decide (h.mcyc + 128 < (s.module h.module).cycles) then s.refreshHeap l h else s

/-- What a take comes to at a moment. -/
inductive Taken where
  | done (x : Word) (s : State)
  | steal (die gd : Nat) (s : State)
  | none

/-- The choice of a take on the serving die `d` with floor `f`, among the tasks of the die alone (R310, R311). -/
def State.takeLocal (s : State) (d f : Nat) : Taken :=
  match s.heapOf s.cur with
  | Option.none => .none
  | some (l, h) =>
    if h.ended then .done takeEnded (s.acquireCore s.myCore 3)
    else
      match h.best d f with
      | some (t, x) => let (w, s) := s.takeTask l h t x; .done w s
      | Option.none => .none

/-- A take on the serving die `d` with floor `f`, which asks die d* first where the gap is too wide (R312); `loc` forbids
that. -/
def State.takeAt (s : State) (d f : Nat) (loc : Bool) : Taken :=
  match s.heapOf s.cur with
  | Option.none => .none
  | some (l, h) =>
    if h.ended || loc then s.takeLocal d f
    else
      let s := s.freshHeap l
      match s.heaps.get? l with
      | Option.none => .none
      | some h => if h.steals d then .steal h.mdie (h.localMax d) s else s.takeLocal d f

/-- A take with floor `f` could have a task now: one of its die, or the top task of die d* (R310, R312). -/
def Heap.couldTake (h : Heap) (die f : Nat) (loc : Bool) : Bool :=
  (h.best die f).isSome
    || (!loc && h.steals die && (h.best h.mdie f).any (fun x => decide (h.localMax die < x.2.gain)))

/-- The thread sleeps in a take, or its bundle of the DCC has yet to issue again after it. -/
def Thread.taking (t : Thread) : Bool := t.status == .waiting || (t.status == .running && t.granted)

/-- A sleeping take of the same die that began to wait before `since` and could have a task now (R310). -/
def State.earlierTaker (s : State) (l die since : Nat) : Bool :=
  s.threads.any (fun (tid, th) =>
    th.taking && decide (th.waitSince < since) && dieOfCore (coreOfThread tid) == die
      && (match th.wait, (s.core (coreOfThread tid)).team with
        | some (.take _ loc f _ _), some tm =>
          tm.launch == l && (s.heaps.get? l).any (fun h => h.couldTake (dieIndex die) f.toNat loc)
        | _, _ => false))

/-- The result of `TAKE` in `gD`, with its trace record (R344). -/
def State.takeResult (s : State) (d : GReg) (x : Word) : Res :=
  .retire ((s.setG d x).trace s.myCore 5 0x0500 (threadIndex s.cur) 0 x 0)

/-- Why the steal of a thread cannot reach die `die` of its module, or its answer come back (R10, R279). -/
def State.stealWay (s : State) (core die : Nat) : Option Nat :=
  let d := moduleOfCore core * 16 + die
  (s.blockedWay (dieOfCore core) d).orElse (fun _ => s.blockedWay d (dieOfCore core))

/-- A steal applied at another die (R312): its top task, if that beats the requester's local maximum `gd` and the floor, else a
local take. -/
def State.stealNow (s : State) (f die gd : Nat) : Taken :=
  let here := s.takeLocal (dieIndex s.myDie) f
  match s.heapOf s.cur with
  | Option.none => .none
  | some (l, h) =>
    if h.ended then here
    else
      match h.best die f with
      | some (t, x) => if gd < x.gain then (let (w, s) := s.takeTask l h t x; .done w s) else here
      | Option.none => here

/-- `TAKE` (R310).  On the DCC a take that has slept issues again with its bundle, and then makes its steal at once. -/
def execTake (g : Guard) (look : Fin 16) (two : Bool) (d a b : GReg) (s : State) : Host.Outcome State Fault Refusal :=
  issue (metaL 0x39 g look [d] [a, b] (if two then 2 else 1)) s (fun s => withHeap s (fun l h =>
    let die := dieIndex s.myDie
    let f := field (s.g b) 0 31
    let nowait := bit (s.g a) 0
    let loc := bit (s.g a) 1
    let w := fun (st : Option (Nat × Nat)) => Wait.take nowait loc (BitVec.ofNat 32 f) d st
    let sleep := fun (s : State) => if nowait then s.takeResult d takeNone else .block (w Option.none) s
    if !h.dies.getLsbD die then trapOf s .illegal
    else if s.src.held.isSome then trapOf s .illegal
    else if notFinite f then trapOf s .illegal
    else if !h.ended && s.earlierTaker l s.myDie (if s.src.granted then s.src.waitSince else s.nextId) then .again Option.none
    else
      match s.takeAt die f loc with
      | .done x s => s.takeResult d x
      | .steal die gd s' =>
        if s.src.granted then
          match s'.stealWay s'.myCore die, s'.stealNow f die gd with
          | some sub, _ => .trap { wayTrap sub with origin := 0 } s
          | none, .done x s => s.takeResult d x
          | none, _ => sleep s'
        else .block (w (some (die, gd))) s'
      | .none => sleep s))

/-- The end of a take that waited, with its result; on the DCC its bundle issues again, before the take takes effect, and
until then the thread keeps its place among the takes that wait. -/
def State.takeReturn (s s1 : State) (tid : Nat) (d : GReg) (x : Word) : State :=
  let th := s.thread tid
  if kindOfCore (coreOfThread tid) = .dcc then s.setThread tid { th with status := .running, granted := true }
  else { s1.settle th.waitWords th.waitLook (s1.takeResult d x) with cur := s.cur, bundle := s.bundle }

/-- The row `takeWake` (R310): a sleeping take is served, the longest-waiting first, or learns that the kernel has ended.  A
task of its die lets it choose again, so that it may ask die d* first (R312). -/
def execTakeWake (tid : Nat) (s : State) : Host.Outcome State Fault Refusal :=
  let th := s.thread tid
  let die := dieOfCore (coreOfThread tid)
  match th.status, th.wait, (s.core (coreOfThread tid)).team with
  | .waiting, some (.take nowait loc f d Option.none), some tm =>
    match s.heaps.get? tm.launch with
    | Option.none => .next s
    | some h =>
      if !h.ended && (s.earlierTaker tm.launch die th.waitSince || (h.best (dieIndex die) f.toNat).isNone) then .next s
      else
        match { s with cur := tid, bundle := Option.none }.takeAt (dieIndex die) f.toNat loc with
        | .done x s1 => .next (s.takeReturn s1 tid d x)
        | .steal die gd s1 =>
          .next ({ s1 with cur := s.cur, bundle := s.bundle }.modThread tid (fun th => { th with
            wait := some (.take nowait loc f d (some (die, gd))) }))
        | .none => .next s
  | _, _, _ => .next s

/-- The row `heapSteal` (R312): die d* gives its top task if that beats the requester; otherwise the take goes on
locally.  An earlier take of the requester's die that could have a task goes first (R310). -/
def execHeapSteal (tid : Nat) (s : State) : Host.Outcome State Fault Refusal :=
  let th := s.thread tid
  match th.status, th.wait, (s.core (coreOfThread tid)).team with
  | .waiting, some (.take nowait loc f d (some (die, gd))), some tm =>
    if (s.heaps.get? tm.launch).any (fun h => !h.ended)
        && s.earlierTaker tm.launch (dieOfCore (coreOfThread tid)) th.waitSince then .next s
    else
      match s.stealWay (coreOfThread tid) die with
      | some sub =>
        .next ((s.modThread tid Thread.interrupt).raise tid { wayTrap sub with origin := 0 } th.waitWords)
      | Option.none =>
      let s0 := { s with cur := tid, bundle := Option.none }
      match s0.stealNow f.toNat die gd with
      | .done x s1 => .next (s.takeReturn s1 tid d x)
      | _ =>
        if nowait then .next (s.takeReturn s0 tid d takeNone)
        else .next (s.modThread tid (fun th => { th with wait := some (.take nowait loc f d Option.none) }))
  | _, _, _ => .next s

/-- The row `heapMaxRefresh` (R312); it comes again while the kernel runs. -/
def execHeapMaxRefresh (launch : Nat) (s : State) : Host.Outcome State Fault Refusal :=
  match s.heaps.get? launch with
  | Option.none => .next s
  | some h =>
    if h.ended || !h.global then .next s
    else .next ((s.refreshHeap launch h).emit (.heapMaxRefresh launch))

/-! ## Reading heap state (R316) -/

/-- `RESID` (R316). -/
def execResid (g : Guard) (d : GReg) (s : State) : Host.Outcome State Fault Refusal :=
  issue (metaH g [d] []) s (fun s => withHeap s (fun _ h => .retire (s.setG d (if h.ended then h.final else h.res))))

/-- `HPEEK` (R316). -/
def execHpeek (g : Guard) (d : GReg) (s : State) : Host.Outcome State Fault Refusal :=
  issue (metaH g [d] []) s (fun s => withHeap s (fun _ h =>
    if !h.dies.getLsbD (dieIndex s.myDie) then trapOf s .illegal
    else if h.ended then .retire (s.setG d takeEnded)
    else
      match h.best (dieIndex s.myDie) 0 with
      | some (t, x) => .retire (s.setG d (Word.of (x.r.toNat * 2 ^ 32 + t)))
      | Option.none => .retire (s.setG d takeNone)))

/-- `HCOUNT` (R316). -/
def execHcount (g : Guard) (d : GReg) (s : State) : Host.Outcome State Fault Refusal :=
  issue (metaH g [d] []) s (fun s => withHeap s (fun _ h =>
    if !h.dies.getLsbD (dieIndex s.myDie) then trapOf s .illegal
    else
      let queued := h.tasks.countP (fun (t, x) => x.mode == .queued && h.home t == dieIndex s.myDie)
      .retire (s.setG d (Word.of (h.taken * 2 ^ 32 + queued)))))

end Sys2Proof.Machine
end

