-- ==== Sys2Proof/Machine/Local.lean ====
section
/-!
DEFINITION. Sys2Proof/Machine/Local.lean: scalar and vector accesses to the core's own pool (R131–R133).
-/
namespace Sys2Proof.Machine

/-- The access reads an uncorrectable word (R137). -/
def eccTrap (ea : Nat) : TrapInfo := { cause := .eccUncorr, addr := Word.of ea }

/-- A load of `[ea, ea+n)` reads an uncorrectable word of the pool (R137): the thread's own latest store may hold all of its
bytes, and one that holds a part of them enters the pool first (R249). -/
def State.loadBad (s : State) (ea n : Nat) : Bool :=
  match latestOverlap s.th.stores ea n with
  | none => s.poolBad s.myCore ea n
  | some st => !(decide (st.off ≤ ea) && decide (ea + n ≤ st.off + st.n)) && 
    (s.drainThrough s.cur (fun st => st.meets ea n)).poolBad s.myCore ea n

/-- A load of `n` bytes at `ea` (R130, R131, R137), and what it does with the value. -/
def State.withLoad (s : State) (ea n align : Nat) (k : Nat → State → Res) : Res :=
  match s.checkLocal ea n align with
  | some t => .trap t s
  | none => if s.loadBad ea n then .trap (eccTrap ea) s else k (s.loadLocal ea n).1 (s.loadLocal ea n).2

/-- A store of the low `n` bytes of `v` at `ea` (R130, R131, R137). -/
def State.withStore (s : State) (ea n align v : Nat) : Res :=
  match s.checkLocal ea n align with
  | some t => .trap t s
  | none =>
    if s.ownBadStore s.cur ea n then .trap (eccTrap ea) s
    else .retire (s.storeLocal ea n v)

/-- The value a scalar load leaves (R131): `signed` loads of fewer than 8 bytes extend the sign. -/
def extended (signed : Bool) (n : Nat) (x : Nat) : Word := if signed then signExt x (8 * n) else zeroExt x (8 * n)

/-- A scalar load. -/
def scalarLoad (words n : Nat) (signed : Bool) (g : Guard) (d a : GReg) (disp : Word) (s : State) :
    Host.Outcome State Fault Refusal :=
  issue (metaG 0x10 g [d] [a] words) s (fun s =>
    s.withLoad (s.localEa a disp) n n (fun x s' => .retire (s'.setG d (extended signed n x))))

/-- A scalar store; field d names the data register. -/
def scalarStore (words n : Nat) (g : Guard) (d a : GReg) (disp : Word) (s : State) :
    Host.Outcome State Fault Refusal :=
  issue (metaG 0x10 g [] [d, a] words) s (fun s => s.withStore (s.localEa a disp) n n (s.g d).toNat)

/-- `LDB` (R131). -/
def execLdb (g : Guard) (d a : GReg) (off : BitVec 6) (s : State) : Host.Outcome State Fault Refusal :=
  scalarLoad 1 1 true g d a (scaled 1 off) s

/-- `LDB` with a 32-bit byte displacement (R32, R131). -/
def execLdbDw (g : Guard) (d a : GReg) (disp : BitVec 32) (s : State) : Host.Outcome State Fault Refusal :=
  scalarLoad 2 1 true g d a (disp.signExtend 64) s

/-- `LDH` (R131). -/
def execLdh (g : Guard) (d a : GReg) (off : BitVec 6) (s : State) : Host.Outcome State Fault Refusal :=
  scalarLoad 1 2 true g d a (scaled 2 off) s

/-- `LDH` with a 32-bit byte displacement (R32, R131). -/
def execLdhDw (g : Guard) (d a : GReg) (disp : BitVec 32) (s : State) : Host.Outcome State Fault Refusal :=
  scalarLoad 2 2 true g d a (disp.signExtend 64) s

/-- `LDW` (R131). -/
def execLdw (g : Guard) (d a : GReg) (off : BitVec 6) (s : State) : Host.Outcome State Fault Refusal :=
  scalarLoad 1 4 true g d a (scaled 4 off) s

/-- `LDW` with a 32-bit byte displacement (R32, R131). -/
def execLdwDw (g : Guard) (d a : GReg) (disp : BitVec 32) (s : State) : Host.Outcome State Fault Refusal :=
  scalarLoad 2 4 true g d a (disp.signExtend 64) s

/-- `LDD` (R131). -/
def execLdd (g : Guard) (d a : GReg) (off : BitVec 6) (s : State) : Host.Outcome State Fault Refusal :=
  scalarLoad 1 8 false g d a (scaled 8 off) s

/-- `LDD` with a 32-bit byte displacement (R32, R131). -/
def execLddDw (g : Guard) (d a : GReg) (disp : BitVec 32) (s : State) : Host.Outcome State Fault Refusal :=
  scalarLoad 2 8 false g d a (disp.signExtend 64) s

/-- `LDBZ` (R131). -/
def execLdbz (g : Guard) (d a : GReg) (off : BitVec 6) (s : State) : Host.Outcome State Fault Refusal :=
  scalarLoad 1 1 false g d a (scaled 1 off) s

/-- `LDBZ` with a 32-bit byte displacement (R32, R131). -/
def execLdbzDw (g : Guard) (d a : GReg) (disp : BitVec 32) (s : State) : Host.Outcome State Fault Refusal :=
  scalarLoad 2 1 false g d a (disp.signExtend 64) s

/-- `LDHZ` (R131). -/
def execLdhz (g : Guard) (d a : GReg) (off : BitVec 6) (s : State) : Host.Outcome State Fault Refusal :=
  scalarLoad 1 2 false g d a (scaled 2 off) s

/-- `LDHZ` with a 32-bit byte displacement (R32, R131). -/
def execLdhzDw (g : Guard) (d a : GReg) (disp : BitVec 32) (s : State) : Host.Outcome State Fault Refusal :=
  scalarLoad 2 2 false g d a (disp.signExtend 64) s

/-- `LDWZ` (R131). -/
def execLdwz (g : Guard) (d a : GReg) (off : BitVec 6) (s : State) : Host.Outcome State Fault Refusal :=
  scalarLoad 1 4 false g d a (scaled 4 off) s

/-- `LDWZ` with a 32-bit byte displacement (R32, R131). -/
def execLdwzDw (g : Guard) (d a : GReg) (disp : BitVec 32) (s : State) : Host.Outcome State Fault Refusal :=
  scalarLoad 2 4 false g d a (disp.signExtend 64) s

/-- `STB` (R131). -/
def execStb (g : Guard) (d a : GReg) (off : BitVec 6) (s : State) : Host.Outcome State Fault Refusal :=
  scalarStore 1 1 g d a (scaled 1 off) s

/-- `STB` with a 32-bit byte displacement (R32, R131). -/
def execStbDw (g : Guard) (d a : GReg) (disp : BitVec 32) (s : State) : Host.Outcome State Fault Refusal :=
  scalarStore 2 1 g d a (disp.signExtend 64) s

/-- `STH` (R131). -/
def execSth (g : Guard) (d a : GReg) (off : BitVec 6) (s : State) : Host.Outcome State Fault Refusal :=
  scalarStore 1 2 g d a (scaled 2 off) s

/-- `STH` with a 32-bit byte displacement (R32, R131). -/
def execSthDw (g : Guard) (d a : GReg) (disp : BitVec 32) (s : State) : Host.Outcome State Fault Refusal :=
  scalarStore 2 2 g d a (disp.signExtend 64) s

/-- `STW` (R131). -/
def execStw (g : Guard) (d a : GReg) (off : BitVec 6) (s : State) : Host.Outcome State Fault Refusal :=
  scalarStore 1 4 g d a (scaled 4 off) s

/-- `STW` with a 32-bit byte displacement (R32, R131). -/
def execStwDw (g : Guard) (d a : GReg) (disp : BitVec 32) (s : State) : Host.Outcome State Fault Refusal :=
  scalarStore 2 4 g d a (disp.signExtend 64) s

/-- `STD` (R131). -/
def execStd (g : Guard) (d a : GReg) (off : BitVec 6) (s : State) : Host.Outcome State Fault Refusal :=
  scalarStore 1 8 g d a (scaled 8 off) s

/-- `STD` with a 32-bit byte displacement (R32, R131). -/
def execStdDw (g : Guard) (d a : GReg) (disp : BitVec 32) (s : State) : Host.Outcome State Fault Refusal :=
  scalarStore 2 8 g d a (disp.signExtend 64) s

/-- A vector load of the thread's vector size at alignment 32, bit for bit; the tag is kept (R132). -/
def vectorLoad (words : Nat) (g : Guard) (d : VField) (a : GReg) (disp : Word) (s : State) :
    Host.Outcome State Fault Refusal :=
  issue { major := 0x11, guard := g, words, reads := gs [a], writes := vs [d], vfields := [d] } s (fun s =>
    s.withLoad (s.localEa a disp) (s.vecBits / 8) 32 (fun x s' => .retire (s'.putVec d x (s.vec d).2)))

/-- A vector store; the tag is ignored (R132). -/
def vectorStore (words : Nat) (g : Guard) (d : VField) (a : GReg) (disp : Word) (s : State) :
    Host.Outcome State Fault Refusal :=
  issue { major := 0x11, guard := g, words, reads := gs [a] ++ vs [d], vfields := [d] } s (fun s =>
    s.withStore (s.localEa a disp) (s.vecBits / 8) 32 (s.vec d).1)

/-- `VLD` (R132). -/
def execVld (g : Guard) (d : VField) (a : GReg) (off : BitVec 6) (s : State) : Host.Outcome State Fault Refusal :=
  vectorLoad 1 g d a (scaled 32 off) s

/-- `VLD` with a 32-bit byte displacement (R32, R132). -/
def execVldDw (g : Guard) (d : VField) (a : GReg) (disp : BitVec 32) (s : State) : Host.Outcome State Fault Refusal :=
  vectorLoad 2 g d a (disp.signExtend 64) s

/-- `VST` (R132). -/
def execVst (g : Guard) (d : VField) (a : GReg) (off : BitVec 6) (s : State) : Host.Outcome State Fault Refusal :=
  vectorStore 1 g d a (scaled 32 off) s

/-- `VST` with a 32-bit byte displacement (R32, R132). -/
def execVstDw (g : Guard) (d : VField) (a : GReg) (disp : BitVec 32) (s : State) : Host.Outcome State Fault Refusal :=
  vectorStore 2 g d a (disp.signExtend 64) s

/-! ## Strided and gathered accesses -/

/-- The first element that fails R130. -/
def State.checkElements (s : State) (es : List Nat) (n : Nat) : Option TrapInfo :=
  es.findSome? (fun e => s.checkLocal e n n)

/-- The first element in an uncorrectable word. -/
def State.badElement (s : State) (es : List Nat) (n : Nat) (store : Bool) : Option Nat :=
  es.find? (fun e => if store then s.ownBadStore s.cur e n else s.loadBad e n)

/-- Loads of elements in ascending order of lanes, each an access of its own (R133, R135). -/
def State.loadElements (s : State) (n : Nat) : List Nat → List Nat × State
  | [] => ([], s)
  | e :: es =>
    let (x, s) := s.loadLocal e n
    let (xs, s) := s.loadElements n es
    (x :: xs, s)

/-- Stores of elements in ascending order of lanes (R133). -/
def State.storeElements (s : State) (n : Nat) : List (Nat × Nat) → State
  | [] => s
  | (e, x) :: es => (s.storeLocal e n x).storeElements n es

/-- A strided or gathered access (R133): every element is checked before anything is read or written. -/
def State.elementAccess (s : State) (d : VField) (load : Bool) (addr : Nat → Nat) : Res :=
  let (bits, tag) := s.vec d
  let w := tag.width
  let n := s.vecBits / w
  let es := (List.range n).map addr
  match s.checkElements es (w / 8) with
  | some t => .trap t s
  | none =>
    match s.badElement es (w / 8) (!load) with
    | some e => .trap (eccTrap e) s
    | none =>
      if load then
        let (xs, s) := s.loadElements (w / 8) es
        .retire (s.setVec d (ofLanes w xs) tag)
      else .retire (s.storeElements (w / 8) (es.zipIdx.map (fun (e, i) => (e, lane bits w i))))

/-- `VLDS` and `VSTS`: element i at gA + i·gB (R133). -/
def strided (load : Bool) (g : Guard) (d : VField) (a b : GReg) (s : State) : Host.Outcome State Fault Refusal :=
  issue { major := 0x12, guard := g, reads := gs [a, b] ++ vs [d], writes := if load then vs [d] else [], vfields := [d] } s
    (fun s =>
      if (s.vec d).2.width = 4 then trapOf s .tagMismatch
      else s.elementAccess d load (fun i => (s.g a + Word.of i * s.g b).toNat % s.poolP))

/-- `VGATHL` and `VSCATL`: element i at gA plus lane i of vB, read as an unsigned byte offset (R133). -/
def gathered (load : Bool) (g : Guard) (d : VField) (a : GReg) (b : VField) (s : State) :
    Host.Outcome State Fault Refusal :=
  issue { major := 0x12, guard := g, reads := gs [a] ++ vs [d, b], writes := if load then vs [d] else [],
          vfields := [d, b] } s
    (fun s =>
      let (offs, ob) := s.vec b
      if (s.vec d).2.width = 4 ∨ ob.isInt = false ∨ (s.vec d).2.width < ob.width then trapOf s .tagMismatch
      else s.elementAccess d load (fun i => (s.g a + Word.of (lane offs ob.width i)).toNat % s.poolP))

/-- `VLDS` (R133). -/
def execVlds (g : Guard) (d : VField) (a b : GReg) (s : State) : Host.Outcome State Fault Refusal :=
  strided true g d a b s

/-- `VSTS` (R133). -/
def execVsts (g : Guard) (d : VField) (a b : GReg) (s : State) : Host.Outcome State Fault Refusal :=
  strided false g d a b s

/-- `VGATHL` (R133). -/
def execVgathl (g : Guard) (d : VField) (a : GReg) (b : VField) (s : State) : Host.Outcome State Fault Refusal :=
  gathered true g d a b s

/-- `VSCATL` (R133). -/
def execVscatl (g : Guard) (d : VField) (a : GReg) (b : VField) (s : State) : Host.Outcome State Fault Refusal :=
  gathered false g d a b s

end Sys2Proof.Machine
end

