-- ==== Sys2Proof/Machine/Matrix.lean ====
section
/-!
DEFINITION. Sys2Proof/Machine/Matrix.lean: the matrix instructions and affix words of the dense block, and its sequencer
(R205–R228; majors 0x3A, 0x3B and the affix frame).
-/
namespace Sys2Proof.Machine

/-! ## Formats and templates -/

/-- Kmax and the record size W in 32-byte words of an array format (R207). -/
def arrayFormat : Tag → Option (Nat × Nat)
  | .f64 => some (64, 16)
  | .f32 => some (128, 16)
  | .bf16 | .f16 => some (512, 32)
  | .f8a | .f8b | .i8 | .z8 => some (1024, 32)
  | .i4 | .z4 => some (2048, 32)
  | .n4 => some (2048, 34)
  | _ => none

/-- The width of an accumulator in bytes (R207). -/
def accWidth (t : Tag) : Nat := if t = .f64 then 8 else 4

/-- The tag with a code (R80). -/
def tagOfCode (c : Nat) : Option Tag :=
  [Tag.none, .i8, .z8, .i16, .z16, .i32, .z32, .i64, .i4, .z4, .f8a, .f8b, .f6, .n4, .bf16, .f16, .f32, .f64, .idx][c]?

/-- A template of the Lexicon (R208). -/
abbrev Template := BitVec 256

/-- Field `f` of a template. -/
def tplField (t : Template) (f : Nat) : Nat := t.toNat / 2 ^ (16 * f) % 2 ^ 16

/-- The template with field `f` replaced. -/
def setTplField (t : Template) (f v : Nat) : Template :=
  BitVec.ofNat 256 (t.toNat - tplField t f * 2 ^ (16 * f) + v % 2 ^ 16 * 2 ^ (16 * f))

def tKind (t : Template) : Nat := tplField t 0 % 16
def tFmt (t : Template) : Option Tag := tagOfCode (tplField t 0 / 2 ^ 4 % 2 ^ 5)
def tArr (t : Template) : Nat := tplField t 0 / 2 ^ 9 % 2
def tBuf (t : Template) : Nat := tplField t 0 / 2 ^ 10 % 2
def tAcc (t : Template) : Bool := (tplField t 0).testBit 11
def tInf (t : Template) : Bool := (tplField t 0).testBit 12
def tM (t : Template) : Nat := tplField t 1
def tKlen (t : Template) : Nat := tplField t 2
def tNcol (t : Template) : Nat := tplField t 3
def tLrow (t : Template) : Nat := tplField t 4
def tApitch (t : Template) : Nat := tplField t 5
def tCpitch (t : Template) : Nat := tplField t 6
def tRows (t : Template) : Nat := tplField t 13

/-- A pool address that spans the fields `f` and `f + 1`: CADDR 7, SADDR 9, XADDR 11 (R208). -/
def tplAddr (t : Template) (f : Nat) : Nat := tplField t (f + 1) % 2 ^ 9 * 2 ^ 16 + tplField t f

/-- An address replaced from a register; the reserved bits of its high field stay (R211). -/
def setTplAddr (t : Template) (f v : Nat) : Template :=
  setTplField (setTplField t f v) (f + 1) (tplField t (f + 1) / 2 ^ 9 * 2 ^ 9 + v / 2 ^ 16 % 2 ^ 9)

/-- The B buffer that a template names, among the four of the block. -/
def tBuffer (t : Template) : Fin 4 := Fin.ofNat 4 (2 * tArr t + tBuf t)

/-! ## The checks at issue (R211) -/

/-- The KIND that a form requires. -/
def MatrixOp.kind : MatrixOp → Nat
  | .mma | .macc _ => 1
  | .mgath => 2
  | .mldb => 3

/-- The first check; a field that the form does not use is ignored (R208, R211). -/
def lexiconBad (c : Core) (op : MatrixOp) (t : Template) : Bool :=
  let high := fun (f : Nat) => tplField t f / 2 ^ 9 != 0
  let rowsBad := tM t == 0 || decide (256 < tM t)
  let latchBad := tplField t 4 / 2 ^ 8 != 0 || decide (256 < tLrow t + tM t)
  tKind t != op.kind || tplField t 0 / 2 ^ 13 != 0 ||
  (match tFmt t with
   | none => true
   | some fmt =>
     match arrayFormat fmt with
     | none => true
     | some (kmax, w) =>
       let tileBad := tNcol t == 0 || decide (64 < tNcol t) || decide (32 * tCpitch t < tNcol t * accWidth fmt)
       match op with
       | .mma => high 8 || rowsBad || latchBad || tKlen t == 0 || decide (kmax < tKlen t) || tileBad
           || (tInf t && ((fmt != .f32 && fmt != .f64) || (c.infl[tArr t]?.getD none).isNone))
       | .mgath => high 12 || high 10 || rowsBad || latchBad || decide (tApitch t < w) || tRows t == 0
       | .mldb => high 10 || decide (tApitch t < w)
       | .macc _ => high 8 || rowsBad || tileBad)

/-- The format of a template that has passed the first check. -/
def tTag (t : Template) : Tag := (tFmt t).getD .none
def tW (t : Template) : Nat := ((arrayFormat (tTag t)).getD (0, 0)).2

/-- A buffer's tag is compatible with FMT (R212). -/
def compatible (inf : Bool) (fmt b : Tag) : Bool :=
  fmt == b || (!inf && ([(Tag.f8a, Tag.f8b), (.i8, .z8), (.i4, .z4)].any (fun (x, y) =>
    (fmt == x && b == y) || (fmt == y && b == x))))

/-- The second check, of `MMA` only (R212). -/
def matrixTagBad (c : Core) (t : Template) : Bool :=
  (List.range (tM t)).any (fun j => (c.latch.getD (tLrow t + j) {}).tag != tTag t)
    || !compatible (tInf t) (tTag t) (c.bbufs[tBuffer t]).tag

/-- The bytes of SADDR's records that a form may read (R211). -/
def sourceSpan (op : MatrixOp) (t : Template) : Nat :=
  match op with
  | .mgath => 32 * ((tRows t - 1) * tApitch t + tW t)
  | _ => 32 * (63 * tApitch t + tW t)

/-- The rows of a tile: address and length. -/
def tileRows (t : Template) (base : Nat) : List (Nat × Nat) :=
  (List.range (tM t)).map (fun j => (base + 32 * tCpitch t * j, tNcol t * accWidth (tTag t)))

/-- The third and fourth checks (R211). -/
def matrixAddrs (s : State) (op : MatrixOp) (t : Template) : Option TrapInfo :=
  let c := s.myCore
  let mis := fun (l : List (Nat × Nat)) => (l.find? (fun (x, al) => x % al != 0)).map
    (fun (x, _) => ({ cause := .misalign, addr := Word.of x } : TrapInfo))
  let low := fun (l : List (Nat × Nat)) => (l.find? (fun (x, n) => decide (s.accEnd c < x + n))).map
    (fun (x, _) => ({ cause := .localRange, addr := Word.of x } : TrapInfo))
  let tile := fun (l : List (Nat × Nat)) =>
    (l.find? (fun (x, n) => decide (x < s.scratchEnd c) || decide (s.accEnd c < x + n))).map
      (fun (x, _) => ({ cause := .localRange, addr := Word.of x } : TrapInfo))
  let ca := tplAddr t 7
  let sa := tplAddr t 9
  let xa := tplAddr t 11
  match op with
  | .mma => (mis [(ca, 32)]).or (tile (tileRows t ca))
  | .mgath => (mis [(sa, 32), (xa, 4)]).or (low [(xa, 4 * tM t), (sa, sourceSpan op t)])
  | .mldb => (mis [(sa, 32)]).or (low [(sa, sourceSpan op t)])
  | .macc src => (mis [(ca, 32), (src, 32)]).or (tile (tileRows t ca ++ tileRows t src))

/-- Enqueues an entry (R211–R213): the checks in their order, the tags that issue decides, and the captures. -/
def State.matrixIssue (s : State) (op : MatrixOp) (num : Nat) (t : Template) : Res :=
  let c := s.core s.myCore
  if 16 ≤ c.mqueue.length then .again none
  else if lexiconBad c op t then trapOf s .lexiconBad
  else if op == .mma && matrixTagBad c t then trapOf s .tagMismatch
  else
    match matrixAddrs s op t with
    | some ti => .trap ti s
    | none =>
      let (id, s) := s.fresh
      let fmt := tTag t
      let e : MatrixEntry :=
        { id, tid := s.cur, bundle := s.src.pc, num, op, template := t, btag := (c.bbufs[tBuffer t]).tag,
          infl := if op = .mma ∧ tInf t then c.infl[tArr t]?.getD none else none
          inflBad := op == .mma && tInf t && c.inflBad.contains (tArr t) }
      let s := s.modCore s.myCore (fun k => { k with
        mqueue := k.mqueue ++ [e]
        latch := if op = .mgath then
            (List.range (tM t)).foldl (fun l j =>
              l.put (tLrow t + j) { l.getD (tLrow t + j) {} with tag := fmt }) k.latch
          else k.latch
        bbufs := if op = .mldb then k.bbufs.set (tBuffer t) { k.bbufs[tBuffer t] with tag := fmt } else k.bbufs })
      .retire (s.emit (.matrixEntryStart s.myCore id))

/-! ## The instructions -/

/-- The shape of a matrix instruction. -/
def metaMx (major : Nat) (g : Guard) (d : List GReg) (src : List GReg) (look : Option (Fin 16) := none) : Meta :=
  { major, guard := g, reads := gs src, writes := gs d, look }

/-- The template that a register names. -/
def State.template (s : State) (n : Nat) : Template := (s.core s.myCore).lexicon[n]?.getD 0

def State.setTemplate (s : State) (n : Nat) (t : Template) : State :=
  s.modCore s.myCore (fun k => { k with lexicon := k.lexicon.setIfInBounds n t })

/-- `MMA gD, gA, gB` (R211, R217). -/
def execMma (g : Guard) (look : Fin 16) (d a b : GReg) (s : State) : Host.Outcome State Fault Refusal :=
  issue (metaMx 0x3B g [] [d, a, b] (some look)) s (fun s =>
    let n := field (s.g b) 0 6
    let t := s.template n
    let t := if d = 0 then t else setTplAddr t 7 (field (s.g d) 0 25)
    let t := if a = 0 then t else setTplField (setTplField t 4 (field (s.g a) 0 8)) 1 (field (s.g a) 16 9)
    s.matrixIssue .mma n t)

/-- `MGATH gD, gA, gB` (R211, R215). -/
def execMgath (g : Guard) (look : Fin 16) (d a b : GReg) (s : State) : Host.Outcome State Fault Refusal :=
  issue (metaMx 0x3B g [] [d, a, b] (some look)) s (fun s =>
    let n := field (s.g b) 0 6
    let t := s.template n
    let t := if d = 0 then t else setTplAddr t 9 (field (s.g d) 0 25)
    let t := if a = 0 then t else setTplAddr t 11 (field (s.g a) 0 25)
    s.matrixIssue .mgath n t)

/-- `MLDB gA, gB` (R211, R216). -/
def execMldb (g : Guard) (a b : GReg) (s : State) : Host.Outcome State Fault Refusal :=
  issue (metaMx 0x3A g [] [a, b]) s (fun s =>
    let n := field (s.g b) 0 6
    let t := s.template n
    s.matrixIssue .mldb n (if a = 0 then t else setTplAddr t 9 (field (s.g a) 0 25)))

/-- `MACC gA, gB` (R211, R222). -/
def execMacc (g : Guard) (a b : GReg) (s : State) : Host.Outcome State Fault Refusal :=
  issue (metaMx 0x3A g [] [a, b]) s (fun s =>
    let n := field (s.g b) 0 6
    s.matrixIssue (.macc (field (s.g a) 0 25)) n (s.template n))

/-- Issue of a template's own KIND, as an affix word does (R210). -/
def State.issueKind (s : State) (kind n : Nat) (t : Template) : Res :=
  match kind with
  | 1 => s.matrixIssue .mma n t
  | 2 => s.matrixIssue .mgath n t
  | 3 => s.matrixIssue .mldb n t
  | _ => trapOf s .lexiconBad

/-- An affix word of the template and field; both must exist, and the template must not be empty (R39, R210). -/
def affix (t f : Fin 64) (k : Template → State → Res) (s : State) : Host.Outcome State Fault Refusal :=
  issue { major := 64, guard := { p := 0, neg := false } } s (fun s =>
    if 16 ≤ f.val ∨ tKind (s.template t.val) = 0 then trapOf s .lexiconBad else k (s.template t.val) s)

/-- `AFFIX.I`: mode `00` (R210). -/
def execAffixI (t f : Fin 64) (x : BitVec 16) (s : State) : Host.Outcome State Fault Refusal :=
  affix t f (fun w s => s.issueKind (tKind w) t.val (setTplField w f.val x.toNat)) s

/-- `AFFIX.K`: mode `01` (R210). -/
def execAffixK (t f : Fin 64) (x : BitVec 16) (s : State) : Host.Outcome State Fault Refusal :=
  affix t f (fun w s =>
    let w := setTplField w f.val x.toNat
    match (s.setTemplate t.val w).issueKind (tKind w) t.val w with
    | .trap ti _ => .trap ti s
    | r => r) s

/-- `AFFIX.S`: mode `10` (R210). -/
def execAffixS (t f : Fin 64) (x : BitVec 16) (s : State) : Host.Outcome State Fault Refusal :=
  affix t f (fun w s => .retire (s.setTemplate t.val (setTplField w f.val x.toNat))) s

/-- Reads 32 bytes of the pool for `LEXLD` and `INFL`, after the thread's earlier stores (R130, R209, R220, R249). -/
def State.image32 (s : State) (addr : Nat) (k : Nat → State → Res) : Res :=
  match s.checkLocal addr 32 32 with
  | some t => .trap t s
  | none =>
    if s.ownBad s.cur addr 32 then .trap (eccTrap addr) s
    else k (s.ownNat s.cur addr 32) (s.poolCorrect s.myCore addr 32)

/-- `LEXLD` (R209). -/
def execLexld (g : Guard) (a b : GReg) (s : State) : Host.Outcome State Fault Refusal :=
  issue (metaMx 0x3A g [] [a, b]) s (fun s =>
    s.image32 (field (s.g b) 0 25) (fun x s => .retire (s.setTemplate (field (s.g a) 0 6) (BitVec.ofNat 256 x))))

/-- Operation `i` of an Inflection program (R220). -/
def inflWord (p : BitVec 256) (i : Nat) : Nat := p.toNat / 2 ^ (32 * i) % 2 ^ 32
def inflCount (p : BitVec 256) : Nat := p.toNat / 2 ^ 128 % 256

/-- An operation word passes the checks of R220. -/
def inflWordOk (w : Nat) : Bool :=
  let z := w / 2 ^ 16 % 8
  let y := w / 2 ^ 12 % 8
  let x := w / 2 ^ 8 % 8
  let opc := w % 16
  w / 2 ^ 19 == 0 && !w.testBit 15 && !w.testBit 11 && !w.testBit 7 && decide (w / 2 ^ 4 % 8 ≤ 2) && decide (opc ≤ 8)
    && x != 7 && y != 7 && z != 7 && (opc == 5 || z == 0) && ((opc != 6 && opc != 7) || y == 0)

/-- The program image passes the checks of R220; operations beyond the count are ignored. -/
def inflOk (p : BitVec 256) : Bool :=
  decide (1 ≤ inflCount p) && decide (inflCount p ≤ 4) && p.toNat / 2 ^ 136 % 2 ^ 56 == 0
    && (List.range (inflCount p)).all (fun i => inflWordOk (inflWord p i))

/-- `INFL` (R220). -/
def execInfl (g : Guard) (a b : GReg) (s : State) : Host.Outcome State Fault Refusal :=
  issue (metaMx 0x3A g [] [a, b]) s (fun s =>
    s.image32 (field (s.g a) 0 25) (fun x s' =>
      if inflOk (BitVec.ofNat 256 x) then
        .retire (s'.modCore s'.myCore (fun k => { k with
          infl := k.infl.set (field (s.g b) 0 1 % 2) (some (BitVec.ofNat 256 x)) (Nat.mod_lt _ (by decide))
          inflBad := k.inflBad.filter (fun i => i != field (s.g b) 0 1 % 2) }))
      else trapOf s .illegal))

/-- The thread's unretired entries (R213, R224). -/
def State.matrixOut (s : State) (tid : Nat) : Nat :=
  ((s.core (coreOfThread tid)).mqueue.filter (fun e => e.tid == tid)).length

/-- `MSTAT` of a thread (R224). -/
def State.mstat (s : State) (tid : Nat) : Word :=
  let t := s.thread tid
  Word.of (t.frow.toNat * 2 ^ 40 + t.fop.toNat * 2 ^ 32 + t.disc.toNat * 2 ^ 24 + t.oob.toNat * 2 ^ 16 + s.matrixOut tid)

/-- `MRD` (R224). -/
def execMrd (g : Guard) (d a : GReg) (s : State) : Host.Outcome State Fault Refusal :=
  issue (metaMx 0x3A g [d] [a]) s (fun s =>
    match field (s.g a) 14 2 with
    | 0 => .retire (s.setG d (Word.of ((s.template (field (s.g a) 0 6)).toNat / 2 ^ (64 * field (s.g a) 8 2))))
    | 1 => .retire ((s.setG d (s.mstat s.cur)).modTh (fun t => { t with oob := false }))
    | 2 => .retire (s.setG d s.src.mfpc)
    | _ => .retire (s.setG d 0))

/-- `MWAIT` may go on (R223). -/
def mwaitReady (tid most : Nat) (s : State) : Bool := decide (s.matrixOut tid ≤ most)

/-- `MWAIT`: on success an acquire at scope `CORE` (R223). -/
def execMwait (g : Guard) (a : GReg) (s : State) : Host.Outcome State Fault Refusal :=
  issue (metaMx 0x3A g [] [a]) s (fun s =>
    let most := field (s.g a) 0 16
    if mwaitReady s.cur most s then .retire (s.acquireCore s.myCore 0) else .block (.entries most) s)

/-- The row `mwaitSatisfied` (R223). -/
def execMwaitSatisfied (tid : Nat) (s : State) : Host.Outcome State Fault Refusal :=
  .next (s.wake tid
    (fun w s => match w with
      | .entries n => mwaitReady tid n s
      | _ => false)
    (fun _ s => .retire (s.acquireCore s.myCore 0)))

/-! ## Arithmetic of `MMA` -/

/-- A partial sum with the flags so far. -/
abbrev Partial := Option Nat × BitVec 6

/-- One level of the tree: neighbours added and rounded to `F32` (R217). -/
def treeLevel : List Num → BitVec 6 → List Num × BitVec 6
  | a :: b :: l, fl =>
    let (v, f1) := a.add b
    let (r, f2) := f32Fmt.deliver .rne false v
    let (rest, fl) := treeLevel l (fl ||| f1 ||| f2)
    (f32Fmt.val r :: rest, fl)
  | l, fl => (l, fl)

/-- `Tree` over a power of two of exact products (R217). -/
def tree : Nat → List Num → BitVec 6 → Num × BitVec 6
  | 0, l, fl => (l.headD (.fin false 0 0), fl)
  | fuel + 1, l, fl =>
    match l with
    | [x] => (x, fl)
    | l => let (l, fl) := treeLevel l fl; tree fuel l fl

/-- One cell of a floating-point column: z with the sum of the cell's products (R217). -/
def cellFloat (fmt : FloatFmt) (ps : List (Num × BitVec 6)) (z : Partial) : Partial :=
  let fl := ps.foldl (fun f p => f ||| p.2) z.2
  let (sum, fl) := tree 6 (ps.map (fun p => p.1)) fl
  let (v, f1) := match z.1 with
    | none => (sum, 0)
    | some x => (fmt.val x).add sum
  let (r, f2) := fmt.deliver .rne false v
  (some r, fl ||| f1 ||| f2)

/-- The products of one cell; indices from KLEN up give +0 (R217). -/
def cellProducts (ta tb : Tag) (a b klen g i : Nat) : List (Num × BitVec 6) :=
  (List.range g).map (fun t =>
    let k := i * g + t
    if klen ≤ k then (Num.fin false 0 0, 0)
    else (laneVal ta (lane a ta.width k)).mul (laneVal tb (lane b tb.width k)))

/-- The cells of a floating-point column in their order (R217). -/
def columnFloat (ta tb : Tag) (a b klen : Nat) (z : Option Nat) : Partial :=
  let g := ((arrayFormat ta).getD (64, 0)).1 / 64
  let fmt := if ta = .f64 then f64Fmt else f32Fmt
  ((List.range 64).filter (fun i => decide (i * g < klen))).foldl
    (fun z i => cellFloat fmt (cellProducts ta tb a b klen g i) z) (z, 0)

/-- The exact sum of integer products (R219). -/
def columnInt (ta tb : Tag) (a b klen : Nat) (z : Option Nat) : Partial :=
  let start : Int := match z with
    | none => 0
    | some c => intVal true 32 c
  let x := (List.range klen).foldl (fun acc k =>
    acc + intVal ta.isSigned ta.width (lane a ta.width k) * intVal tb.isSigned tb.width (lane b tb.width k)) start
  let c := Sys2Proof.sat true 32 x
  (some (wrap 32 c), if c = x then 0 else flagSAT)

/-- v_b of a block of an `N4` group (R219). -/
def blockN4 (a b klen j : Nat) : Num × BitVec 6 :=
  let sum : Int := ((List.range 64).filter (fun t => decide (64 * j + t < klen))).foldl (fun acc t =>
    acc + n4K (lane a 4 (64 * j + t)) * n4K (lane b 4 (64 * j + t))) 0
  let q := lane a 8 (1024 + j) * lane b 8 (1024 + j)
  let v := Num.fin (decide (sum < 0)) (sum.natAbs * q) (-16)
  let (u, f1) := v.mul (f32Fmt.val (lane a 32 264))
  let (w, f2) := u.mul (f32Fmt.val (lane b 32 264))
  (w, f1 ||| f2)

def columnN4 (a b klen : Nat) (z : Option Nat) : Partial :=
  ((List.range 32).filter (fun j => decide (64 * j < klen))).foldl (fun z j =>
    let (v, f0) := blockN4 a b klen j
    let (r, f1) := f32Fmt.deliver .rne false v
    match z.1 with
    | none => (some r, z.2 ||| f0 ||| f1)
    | some x =>
      let (y, f2) := f32Fmt.add x r
      (some y, z.2 ||| f0 ||| f1 ||| f2)) (z, 0)

/-! ## Inflection (R221) -/

/-- log2(1 + 2^−n/d) in fixed point with `k` fraction bits, to within 2^20 units. -/
def log2Fixed (k n d : Nat) : Nat :=
  let t :=
    if n % d = 0 then 2 ^ k / 2 ^ (n / d)
    else expFixed k ((d - n % d) * ln2Fixed k / d) / 2 ^ (n / d + 1)
  lnRatio k (t * 2 ^ k / (2 ^ (k + 1) + t)) * 2 ^ k / ln2Fixed k

/-- log2(2^x + 2^y) for finite x > y, with x = ±p/q and x − y = n/d: x + log2(1 + 2^−n/d), rounded once.  Where the
logarithm is far below every value of the format it serves as a sign of inexactness. -/
def lse2Finite (f : FloatFmt) (neg : Bool) (p q n d : Nat) : Lane :=
  let x : Int := if neg then -(p : Int) else p
  if 2300 * d < n then
    let v : Int := x * ((2 ^ 2400 : Nat) : Int) + q
    let (r, fl) := f.round .rne (decide (v < 0)) v.natAbs (q * 2 ^ 2400)
    (r, fl ||| flagNX)
  else
    let at_ := fun (k : Nat) (e : Int) => x * ((2 ^ k : Nat) : Int) + ((log2Fixed k n d : Nat) + e) * q
    let sgn := decide (at_ 2600 0 < 0)
    let mag := fun (v : Int) => if sgn then (-v).toNat else v.toNat
    f.settle sgn (fun k => ((mag (at_ k (-(2 ^ 20 : Nat))), q * 2 ^ k), (mag (at_ k (2 ^ 20 : Nat)), q * 2 ^ k)))
      [128, 320, 2600]

/-- `LSE2` (R221). -/
def lse2 (f : FloatFmt) (x y : Nat) : Lane :=
  match f.val x, f.val y with
  | .nan _, _ | _, .nan _ => (f.nanBits, 0)
  | .inf false, _ | _, .inf false => (f.infBits, 0)
  | .inf true, _ => (y, 0)
  | _, .inf true => (x, 0)
  | .fin sa a ea, .fin sb b eb =>
    let e := if ea ≤ eb then ea else eb
    let u := alignTo sa a ea e
    let v := alignTo sb b eb e
    if u = v then f.add x (f.round .rne false 1 1).1
    else
      let hi := if v < u then u else v
      let (p, q) := ratOf hi.natAbs e
      let (n, d) := ratOf (u - v).natAbs e
      lse2Finite f (decide (hi < 0)) p q n d

/-- One operation of an Inflection program (R221). -/
def inflOp (t : Tag) (f : FloatFmt) (opc x y z : Nat) : Lane :=
  match opc with
  | 0 => f.add x y
  | 1 => f.sub x y
  | 2 => f.mul x y
  | 3 => (f.pick true x y, 0)
  | 4 => (f.pick false x y, 0)
  | 5 =>
    let above := match f.val x with
      | .nan _ => false
      | .inf neg => !neg
      | .fin neg m _ => !neg && m != 0
    (if above then y else z, 0)
  | 6 => (laneNeg t x, 0)
  | 7 => (laneAbs t x, 0)
  | _ => lse2 f x y

/-- The registers of a run: s′, t0, t1. -/
structure Run where
  s' : Nat
  t0 : Nat
  t1 : Nat
  fl : BitVec 6

/-- The program applied at one index (R221): reads of s see the old s. -/
def inflStep (t : Tag) (f : FloatFmt) (p : BitVec 256) (a b z : Nat) (fl : BitVec 6) : Run :=
  let one := (f.round .rne false 1 1).1
  (List.range (inflCount p)).foldl (fun (r : Run) i =>
    let w := inflWord p i
    let src := fun (c : Nat) => match c with
      | 0 => z | 1 => a | 2 => b | 3 => r.t0 | 4 => r.t1 | 5 => 0 | _ => one
    let (v, f1) := inflOp t f (w % 16) (src (w / 2 ^ 8 % 8)) (src (w / 2 ^ 12 % 8)) (src (w / 2 ^ 16 % 8))
    match w / 2 ^ 4 % 8 with
    | 0 => { r with s' := v, fl := r.fl ||| f1 }
    | 1 => { r with t0 := v, fl := r.fl ||| f1 }
    | _ => { r with t1 := v, fl := r.fl ||| f1 }) ⟨z, 0, 0, fl⟩

/-- A column under Inflection, in K order (R221); an `F32` run starts from RNE(INIT, F32) (R220). -/
def columnInfl (t : Tag) (p : BitVec 256) (a b klen : Nat) (z : Option Nat) : Partial :=
  let f := if t = .f64 then f64Fmt else f32Fmt
  let init := p.toNat / 2 ^ 192
  let (z0, f0) : Lane := match z with
    | some x => (x, 0)
    | none => if t = .f64 then (init, 0) else f32Fmt.deliver .rne false (f64Fmt.val init)
  let (r, fl) := (List.range klen).foldl (fun (acc : Nat × BitVec 6) k =>
    let u := inflStep t f p (lane a t.width k) (lane b t.width k) acc.1 acc.2
    (u.s', u.fl)) (z0, f0)
  (some r, fl)

/-- C[j][n] of an entry (R217–R221). -/
def matrixCell (e : MatrixEntry) (a b : Nat) (z : Option Nat) : Partial :=
  let t := tTag e.template
  let klen := tKlen e.template
  match e.infl with
  | some p => columnInfl t p a b klen z
  | none =>
    if t = .n4 then columnN4 a b klen z
    else if t.isInt then columnInt t e.btag a b klen z
    else columnFloat t e.btag a b klen z

/-! ## Performing an entry -/

/-- The first word of `[off, off+n)` with a property, as a pool address; the property sees the part of it in the range. -/
def firstWord (off n : Nat) (p : Nat → Nat → Bool) : Option Nat :=
  ((wordsOf off n).find? (fun w => p (max off (8 * w)) (min (off + n) (8 * w + 8) - max off (8 * w)))).map (8 * ·)

/-- The first uncorrectable word among the bytes that an entry reads (R225). -/
def State.readsBad (s : State) (e : MatrixEntry) (off n : Nat) : Option Nat := firstWord off n (s.ownBad e.tid)

/-- The first uncorrectable word that a store of an entry covers only in part (R137, R225). -/
def State.storesBad (s : State) (core off n : Nat) : Option Nat := firstWord off n (s.poolBadStore core)

/-- An entry meets an uncorrectable word of row `r` of the latch: of the words of its record (R225, log 7). -/
def latchRowBad (c : Core) (e : MatrixEntry) (r : Nat) : Bool :=
  c.latchBad.any (fun (x, w) => x == r && decide (w < 4 * tW e.template))

/-- An `MMA` meets an uncorrectable word of the columns that it computes (R225, log 7). -/
def columnsBad (c : Core) (e : MatrixEntry) : Bool :=
  c.bufBad.any (fun (b, n, w) =>
    b == (tBuffer e.template).val && decide (n < tNcol e.template) && decide (w < 4 * tW e.template))

/-- What a row of an entry comes to: the state and its flags, or the address that `TADDR` holds for an uncorrectable word
(R225): its pool address, or the bundle's address for a word of the latch or of a buffer. -/
abbrev RowRes := Except Nat (State × BitVec 6)

/-- A row of the latch, written whole (R215). -/
def Core.putLatch (k : Core) (r x : Nat) : Core :=
  { k with latch := k.latch.put r { k.latch.getD r {} with data := BitVec.ofNat 8704 x }
           latchBad := k.latchBad.filter (fun y => y.1 != r) }

/-- A column of a B buffer, written whole (R216). -/
def Core.putColumn (k : Core) (b : Fin 4) (n x : Nat) : Core :=
  { k with bbufs := k.bbufs.set b { k.bbufs[b] with cols := k.bbufs[b].cols.put n (BitVec.ofNat 8704 x) }
           bufBad := k.bufBad.filter (fun y => y.1 != b.val || y.2.1 != n) }

/-- The sum of two accumulators of an entry's format (R222). -/
def addCell (t : Tag) (c x : Nat) : Nat × BitVec 6 :=
  if t.isInt then
    let sum := intVal true 32 c + intVal true 32 x
    let r := Sys2Proof.sat true 32 sum
    (wrap 32 r, if r = sum then 0 else flagSAT)
  else (if t = .f64 then f64Fmt else f32Fmt).add c x

/-- The cells of a row of `MACC`, one after the other (R222). -/
def State.addCells (e : MatrixEntry) (row from_ : Nat) : List Nat → State → BitVec 6 → State × BitVec 6
  | [], s, fl => (s, fl)
  | n :: ns, s, fl =>
    let aw := accWidth (tTag e.template)
    let r := addCell (tTag e.template) (s.ownNat e.tid (row + n * aw) aw) (s.ownNat e.tid (from_ + n * aw) aw)
    State.addCells e row from_ ns (s.ownWrite e.tid (row + n * aw) (bytesOf aw r.1)) (fl ||| r.2)

/-- Row `j` of an entry (R215–R219, R222); `idx` holds the indices of an `MGATH`.  Every word that the row needs is tested
before anything of it is written (R225). -/
def State.matrixRow (s : State) (core : Nat) (e : MatrixEntry) (idx : List Nat) (j : Nat) : RowRes :=
  let t := e.template
  let w := tW t
  let aw := accWidth (tTag t)
  let row := tplAddr t 7 + 32 * tCpitch t * j
  let n := tNcol t * aw
  let load := fun (addr : Nat) (k : Nat → State → State) => match s.readsBad e addr (32 * w) with
    | some x => (Except.error x : RowRes)
    | none => .ok (k (s.ownNat e.tid addr (32 * w)) (s.poolCorrect core addr (32 * w)), 0)
  match e.op with
  | .mgath =>
    let put := fun (x : Nat) (s : State) => s.modCore core (fun k => k.putLatch (tLrow t + j) x)
    match s.readsBad e (tplAddr t 11 + 4 * j) 4 with
    | some x => .error x
    | none =>
      if idx.getD j 0 < tRows t then load (tplAddr t 9 + 32 * tApitch t * idx.getD j 0) put
      else .ok ((put 0 s).modThread e.tid (fun th => { th with oob := true }), 0)
  | .mldb =>
    load (tplAddr t 9 + 32 * tApitch t * j) (fun x s => s.modCore core (fun k => k.putColumn (tBuffer t) j x))
  | .mma =>
    let k := s.core core
    if e.inflBad || latchRowBad k e (tLrow t + j) || columnsBad k e then .error e.bundle.toNat
    else
      match (if tAcc t then s.readsBad e row n else none).or (s.storesBad core row n) with
      | some x => .error x
      | none =>
        let a := (k.latch.getD (tLrow t + j) {}).data.toNat
        let cells := (List.range (tNcol t)).map (fun n =>
          let z := if tAcc t then some (s.ownNat e.tid (row + n * aw) aw) else none
          let (v, fl) := matrixCell e a ((k.bbufs[tBuffer t]).cols.getD n 0).toNat z
          (v.getD 0, fl))
        let s := if tAcc t then s.poolCorrect core row n else s
        .ok (s.ownWrite e.tid row (cells.flatMap (fun c => bytesOf aw c.1)), cells.foldl (fun f c => f ||| c.2) 0)
  | .macc src =>
    let from_ := src + 32 * tCpitch t * j
    match (s.readsBad e row n).or (s.readsBad e from_ n) with
    | some x => .error x
    | none =>
      .ok (State.addCells e row from_ (List.range (tNcol t)) ((s.poolCorrect core row n).poolCorrect core from_ n) 0)

/-- The rows, or columns, of an entry. -/
def MatrixEntry.count (e : MatrixEntry) : Nat :=
  match e.op with
  | .mldb => 64
  | _ => tM e.template

/-- Rows `j` and up, in order, until one meets an uncorrectable word: its number and address. -/
def State.matrixRows (core : Nat) (e : MatrixEntry) (idx : List Nat) :
    Nat → Nat → State → BitVec 6 → State × BitVec 6 × Option (Nat × Nat)
  | 0, _, s, fl => (s, fl, none)
  | fuel + 1, j, s, fl =>
    match s.matrixRow core e idx j with
    | .error a => (s, fl, some (j, a))
    | .ok (s, f) => State.matrixRows core e idx fuel (j + 1) s (fl ||| f)

/-- Performs an entry, after the stores that its thread made before it (R214): the indices of an `MGATH` are all read first
(R215). -/
def State.matrixPerform (s : State) (core : Nat) (e : MatrixEntry) : State × BitVec 6 × Option (Nat × Nat) :=
  let x := tplAddr e.template 11
  let m := tM e.template
  let gath := e.op == .mgath
  let idx := if gath then (List.range m).map (fun j => s.ownNat e.tid (x + 4 * j) 4) else []
  State.matrixRows core e idx e.count 0 (if gath then s.poolCorrect core x (4 * m) else s) 0

/-! ## The sequencer (R213, R214) -/

/-- What an entry reads and what it writes, as ranges: pool bytes, latch rows from 2^30, buffers from 2^31. -/
def MatrixEntry.reads (e : MatrixEntry) : List (Nat × Nat) :=
  let t := e.template
  match e.op with
  | .mma => [(2 ^ 30 + tLrow t, tM t), (2 ^ 31 + (tBuffer t).val, 1)] ++ (if tAcc t then tileRows t (tplAddr t 7) else [])
  | .mgath => [(tplAddr t 11, 4 * tM t), (tplAddr t 9, sourceSpan e.op t)]
  | .mldb => [(tplAddr t 9, sourceSpan e.op t)]
  | .macc src => tileRows t src ++ tileRows t (tplAddr t 7)

def MatrixEntry.writes (e : MatrixEntry) : List (Nat × Nat) :=
  let t := e.template
  match e.op with
  | .mma | .macc _ => tileRows t (tplAddr t 7)
  | .mgath => [(2 ^ 30 + tLrow t, tM t)]
  | .mldb => [(2 ^ 31 + (tBuffer t).val, 1)]

def rangesMeet (a b : List (Nat × Nat)) : Bool :=
  a.any (fun (x, n) => b.any (fun (y, m) => decide (x < y + m) && decide (y < x + n)))

def MatrixEntry.gathers (e : MatrixEntry) : Bool := e.op == .mgath || e.op == .mldb

/-- Two entries conflict (R213). -/
def entriesConflict (a b : MatrixEntry) : Bool :=
  rangesMeet a.writes (b.reads ++ b.writes) || rangesMeet a.reads b.writes || (a.gathers && b.gathers)
    || (a.op == .mma && b.op == .mma && tArr a.template == tArr b.template)

/-- The entries before one, in queue order. -/
def entriesBefore (q : List MatrixEntry) (id : Nat) : List MatrixEntry := q.takeWhile (fun e => e.id != id)

/-- Entries start in queue order, each once every earlier entry with which it conflicts has completed. -/
def mayStart (q : List MatrixEntry) (e : MatrixEntry) : Bool :=
  !e.started && (entriesBefore q e.id).all (fun x => x.started && (x.complete || !entriesConflict x e))

/-- An entry may complete: the thread's earlier entries have, so that a fault of one of them finds it unperformed (R225). -/
def mayComplete (q : List MatrixEntry) (e : MatrixEntry) : Bool :=
  e.started && !e.complete && (entriesBefore q e.id).all (fun x => x.complete || x.tid != e.tid)

/-- The next entry to start is tried, and those that may now complete. -/
def State.matrixNext (s : State) (core : Nat) : State :=
  let q := (s.core core).mqueue
  let s := s.emits ((q.filter (mayComplete q)).map (fun e => .matrixEntryComplete core e.id))
  match q.find? (fun e => !e.started) with
  | some e => s.emit (.matrixEntryStart core e.id)
  | none => s

/-- Entries at the head of the queue that have completed retire, with their flags and trace records (R214, R344). -/
def State.matrixRetire (core : Nat) : List MatrixEntry → State → State
  | [], s => s.modCore core (fun k => { k with mqueue := [] })
  | e :: q, s =>
    if e.complete then
      State.matrixRetire core q ((s.modThread e.tid (fun t => { t with fflags := t.fflags ||| e.flags })).trace core 3 0x0300
        (threadIndex e.tid) 0 (Word.of e.num) e.bundle)
    else s.modCore core (fun k => { k with mqueue := e :: q })

/-- The row `matrixEntryStart` (R213); `idx` is the entry's number. -/
def execMatrixEntryStart (core idx : Nat) (s : State) : Host.Outcome State Fault Refusal :=
  let q := (s.core core).mqueue
  match q.find? (fun e => e.id == idx) with
  | none => .next s
  | some e =>
    if mayStart q e then
      let s := s.modCore core (fun k => { k with
        mqueue := q.map (fun x => if x.id = idx then { x with started := true } else x) })
      .next (s.matrixNext core)
    else .next s

def MatrixOp.code : MatrixOp → Nat
  | .mma => 1 | .mgath => 2 | .mldb => 3 | .macc _ => 4

/-- An entry stops at an uncorrectable word (R225): it and the thread's later entries leave the queue. -/
def State.matrixStop (s : State) (core : Nat) (e : MatrixEntry) (row addr : Nat) : State :=
  let q := (s.core core).mqueue
  let after := (q.dropWhile (fun x => x.id != e.id)).filter (fun x => x.tid == e.tid && x.id != e.id)
  let rest := q.filter (fun x => x.id != e.id && !after.any (fun y => y.id == x.id))
  let s := s.modThread e.tid (fun t => { t with
    frow := BitVec.ofNat 8 row, fop := BitVec.ofNat 8 e.op.code, disc := BitVec.ofNat 8 after.length, mfpc := e.bundle })
  ((State.matrixRetire core rest s).pendAlive e.tid { cause := .eccUncorr, origin := 3, addr := Word.of addr }).matrixNext core

/-- Performs a started entry, as far as its first uncorrectable word. -/
def State.matrixRun (s : State) (core : Nat) (e : MatrixEntry) : State :=
  match s.matrixPerform core e with
  | (s, _, some (row, addr)) => s.matrixStop core e row addr
  | (s, fl, none) =>
    let q := (s.core core).mqueue.map (fun x => if x.id = e.id then { x with complete := true, flags := fl } else x)
    (State.matrixRetire core q s).matrixNext core

/-- The row `matrixEntryComplete` (R214). -/
def execMatrixEntryComplete (core idx : Nat) (s : State) : Host.Outcome State Fault Refusal :=
  let q := (s.core core).mqueue
  match q.find? (fun e => e.id == idx && mayComplete q e) with
  | none => .next s
  | some e => .next (s.matrixRun core e)

/-- The row `matrixEntryFault` (R225): the oldest entry that may complete stops at a row, for the uncorrectable word whose
address `TADDR` is to hold. -/
def execMatrixEntryFault (core row addr : Nat) (s : State) : Host.Outcome State Fault Refusal :=
  match (s.core core).mqueue.find? (mayComplete (s.core core).mqueue) with
  | none => .next s
  | some e =>
    if (s.matrixPerform core e).2.2 = some (row, addr) then .next (s.matrixRun core e)
    else .next s

end Sys2Proof.Machine
end

