-- ==== Sys2Proof/Machine/Launch.lean ====
section
/-!
DEFINITION. Sys2Proof/Machine/Launch.lean: launch blocks, admission, team start and completion, and the instructions of
major 0x36 (R285–R304).
-/
namespace Sys2Proof.Machine

/-! ## The launch block (R285) -/

def Launch.kind (l : Launch) : Nat := l.f 0 0 2
def Launch.prog (l : Launch) : Nat := l.f 0 2 2
def Launch.isHeap (l : Launch) : Bool := l.f 0 5 1 == 1
def Launch.qset (l : Launch) : Bool := l.f 0 6 1 == 1
def Launch.pin (l : Launch) : Bool := l.f 0 7 1 == 1
def Launch.stages (l : Launch) : Nat := l.f 0 8 3 + 1
def Launch.threads (l : Launch) : Nat := l.f 0 11 4 + 1
def Launch.prio (l : Launch) : Nat := l.f 0 32 8
def Launch.dieMap (l : Launch) : Nat := l.f 1 0 16
def Launch.modFirst (l : Launch) : Nat := l.f 1 16 8
def Launch.modCnt (l : Launch) : Nat := l.f 1 24 8
def Launch.cFirst (l : Launch) : Nat := l.f 1 32 7
def Launch.cLast (l : Launch) : Nat := l.f 1 40 7
def Launch.spgF (l : Launch) : Nat := l.f 2 0 9
def Launch.accgF (l : Launch) : Nat := l.f 2 9 9
def Launch.qobj (l : Launch) : Nat := l.f 2 32 16
def Launch.dobj (l : Launch) : Nat := l.f 2 48 16
def Launch.entry (l : Launch) : Nat := l.f 3 0 57
def Launch.qfirst (l : Launch) : Nat := l.f 4 48 3
def Launch.heapDies (l : Launch) : Nat := l.f 11 32 16
def Launch.table (l : Launch) : Nat := l.f 12 0 57

/-- OFF of a stage, in words; stage 0 stands at ENTRY. -/
def Launch.stageOff (l : Launch) : Nat → Nat
  | 1 => l.f 4 0 16
  | 2 => l.f 4 16 16
  | 3 => l.f 4 32 16
  | _ => 0

/-- The entry of a stage. -/
def Launch.stageEntry (l : Launch) (s : Nat) : Word := Word.of (l.entry + 4 * l.stageOff s)

/-- The threads that start in a stage. -/
def Launch.stageThreads (l : Launch) : Nat → Nat
  | 0 => l.threads - l.f 4 52 3 - l.f 4 55 3 - l.f 4 58 3
  | 1 => l.f 4 52 3
  | 2 => l.f 4 55 3
  | _ => l.f 4 58 3

/-- The stage in which thread `t` starts: threads are dealt in ascending order (R291). -/
def Launch.startStage (l : Launch) (t : Nat) : Nat :=
  let n0 := l.stageThreads 0
  let n1 := n0 + l.stageThreads 1
  let n2 := n1 + l.stageThreads 2
  if t < n0 then 0 else if t < n1 then 1 else if t < n2 then 2 else 3

/-- The FIFOs that join the stages (R285). -/
def Launch.fifoMap (l : Launch) : Nat :=
  (List.range (l.stages - 1)).foldl (fun m i => m ||| 2 ^ (l.qfirst + i)) 0

def Launch.coreKind (l : Launch) : CoreKind := if l.kind = 0 then .lookup else if l.kind = 1 then .dcc else .super

/-- RFG (R129). -/
def Launch.rfgF (l : Launch) : Nat := (l.threads * 1344 + granule l.coreKind - 1) / granule l.coreKind

/-- The reserved fields of the block are zero. -/
def Launch.reservedOk (l : Launch) : Bool :=
  l.f 0 40 24 == 0 && l.f 0 15 1 == 0 && l.f 1 47 17 == 0 && l.f 1 39 1 == 0 && l.f 2 18 14 == 0 && l.f 3 57 7 == 0
    && l.f 4 61 3 == 0 && l.f 4 51 1 == 0 && l.f 5 57 7 == 0 && l.f 5 1 2 == 0 && l.f 9 57 7 == 0 && l.f 9 1 5 == 0
    && (!l.isHeap || (l.f 11 50 14 == 0 && l.f 12 57 7 == 0))

/-- Word 4 obeys its rules: fields of absent stages are zero, and every stage starts with a thread. -/
def Launch.stagesOk (l : Launch) : Bool :=
  let n := l.stages
  if n = 1 then l.words[4] == 0
  else
    (List.range 4).all (fun s =>
      if s = 0 then l.f 4 52 3 + l.f 4 55 3 + l.f 4 58 3 + 1 ≤ l.threads
      else if s < n then 1 ≤ l.stageThreads s
      else l.stageThreads s == 0 && l.stageOff s == 0)
    && l.qfirst + n - 2 ≤ 7

/-- A finite `F64` above zero; a finite `F32` of at least zero. -/
def tolOk (x : Nat) : Bool :=
  match f64Fmt.val x with
  | .fin neg m _ => !neg && m != 0
  | _ => false
def slackOk (x : Nat) : Bool :=
  match f32Fmt.val x with
  | .fin neg m _ => !neg || m == 0
  | _ => false

/-- The heap fields that the block alone decides (R307). -/
def Launch.heapOk (l : Launch) : Bool :=
  !l.isHeap || (l.modCnt == 0 && l.heapDies != 0 && Nat.land l.heapDies l.dieMap == l.heapDies && tolOk l.words[10].toNat
    && slackOk (l.f 11 0 32) && l.table % 64 == 0)

/-- Every limit of R285 and R307 that the block alone decides; a KIND 2 block needs SUPQ (R288). -/
def Launch.formatOk (l : Launch) : Bool :=
  l.reservedOk && l.kind != 3 && l.prog != 3 && l.teamCount != 0 && l.dieMap != 0
    && decide (l.threads ≤ threadsOfKind l.coreKind) && decide (l.stages ≤ 4) && (l.kind == 0 || l.stages == 1)
    && (!l.qset || (l.kind == 0 && decide (l.teamCount ≤ 4)))
    && (!l.win || (l.prog == 2 && decide (l.teamCount ≤ 64)))
    && decide (l.cFirst ≤ l.cLast) && decide (l.modFirst + l.modCnt ≤ 255)
    && l.entry % (if l.kind = 1 then 16 else 4) == 0 && l.stagesOk && l.heapOk && (l.kind != 2 || l.supq)

/-! ## Eligible and free cores (R288, R290) -/

/-- A core is one of those that the block names. -/
def Launch.names (l : Launch) (c : Nat) : Bool :=
  kindOfCore c == l.coreKind && decide (l.modFirst ≤ moduleOfCore c) && decide (moduleOfCore c ≤ l.modFirst + l.modCnt)
    && l.dieMap.testBit (dieIndex (dieOfCore c))
    && (l.kind != 0 || (decide (l.cFirst ≤ coreIndex c) && decide (coreIndex c ≤ l.cLast)))

/-- The eligible cores in ascending order of (module, die, core) (R288, R290). -/
def State.eligible (s : State) (l : Launch) : List Nat :=
  s.quads.flatMap (fun (q, k) => if k.part == l.part && l.part.isSome then (coresOfQuad q).filter l.names else [])

/-- No team is resident on the core, and no firmware runs there. -/
def State.coreFree (s : State) (c : Nat) : Bool :=
  (s.core c).team.isNone && (List.range 8).all (fun i => (s.thread (8 * c + i)).status == .absent)

/-- The objects and stage FIFOs that the launch claims are free, or its own, on the core's quad and die; claimed die objects
belong to its partition or to none (R288, R291, R392). -/
def State.claimsOk (s : State) (id : Nat) (l : Launch) (c : Nat) : Bool :=
  let q := s.quad (quadOfCore c)
  let d := s.die (dieOfCore c)
  q.claims.all (fun (o, f, x) => x == id || (Nat.land o l.qobj == 0 && Nat.land f l.fifoMap == 0))
    && d.claims.all (fun (o, x) => x == id || Nat.land o l.dobj == 0)
    && (List.range 16).all (fun i => !l.dobj.testBit i || (match d.objPart[i]?.getD none with
      | some p => l.part == some p
      | none => true))
    && (q.claims.any (fun (_, _, x) => x == id) || (List.range 8).all (fun i => !l.fifoMap.testBit i ||
      (match q.fifos[i]? with
       | some f => f.recs.isEmpty && f.rcnt == 0
       | none => true)))

/-- The core with which a pinned team is placed. -/
def State.pinned (s : State) (l : Launch) (i : Nat) : Option Nat := (s.eligible l)[i]?

/-- Teams that have yet to be placed. -/
def Launch.pending (l : Launch) : List Nat :=
  (l.teams.zipIdx.filter (fun (t, _) => t.fate == .pending)).map (fun (_, i) => i)

/-- The launch could place a team on the core, as far as its own fields and claims go. -/
def State.canTake (s : State) (id : Nat) (l : Launch) (c : Nat) : Bool :=
  (s.eligible l).contains c && l.heard.contains (moduleOfCore c) && s.coreFree c && s.claimsOk id l c
    && (!l.pin || l.pending.any (fun i => s.pinned l i == some c))

/-- A launch was admitted before another. -/
def Launch.before (y l : Launch) : Bool :=
  match y.order, l.order with
  | some a, some b => decide (a < b)
  | some _, none => true
  | none, _ => false

/-- Cores that the launch may take now: those that no launch admitted before it, on whatever die, can take (R288). -/
def State.available (s : State) (id : Nat) (l : Launch) : List Nat :=
  let before := s.launches.filter (fun (_, y) => y.before l)
  (s.eligible l).filter (fun c => s.canTake id l c && before.all (fun (x, y) => y.pending.isEmpty || !s.canTake x y c))

/-- Teams to be started now, with their cores (R290): a quad-placed set or a gang whole, otherwise one team. -/
def State.placement (s : State) (id : Nat) (l : Launch) : Option (List (Nat × Nat)) :=
  let av := s.available id l
  let n := l.teamCount
  if l.qset then
    (av.find? (fun c => c % 4 == 0 && (List.range n).all (fun i => av.contains (c + i)))).map
      (fun c => (List.range n).map (fun i => (i, c + i)))
  else if l.prog = 2 then
    if l.pin then
      let cs := (s.eligible l).take n
      if cs.length = n ∧ cs.all av.contains = true then some ((List.range n).zip cs) else none
    else if n ≤ av.length then some ((List.range n).zip av)
    else none
  else if l.pin then
    l.pending.findSome? (fun i => match s.pinned l i with
      | some c => if av.contains c then some [(i, c)] else none
      | none => none)
  else
    match l.pending, av with
    | i :: _, c :: _ => some [(i, c)]
    | _, _ => none

/-! ## Team start (R291) -/

/-- The claims of a launch in a quad and a die, with the claimed objects reset; once for each (R291). -/
def State.claim (s : State) (id : Nat) (l : Launch) (c : Nat) : State :=
  let q := quadOfCore c
  let d := dieOfCore c
  let s :=
    if (s.quad q).claims.any (fun (_, _, x) => x == id) then s
    else s.modQuad q (fun k => { k with
      claims := k.claims ++ [(l.qobj, l.fifoMap, id)]
      objs := Vector.ofFn (fun i => if l.qobj.testBit i.val then {} else k.objs[i]) })
  if (s.die d).claims.any (fun (_, x) => x == id) then s
  else s.modDie d (fun k => { k with
    claims := k.claims ++ [(l.dobj, id)]
    objs := Vector.ofFn (fun i => if l.dobj.testBit i.val then {} else k.objs[i]) })

/-- `g1`–`g6` at team start; a heap kernel's ARG0–ARG2 read as zero (R285, R291). -/
def Launch.args (l : Launch) : Vector Word 32 :=
  Vector.ofFn (fun i =>
    if 1 ≤ i.val ∧ i.val ≤ 6 ∧ (l.isHeap = false ∨ 4 ≤ i.val) then l.words[9 + i.val]?.getD 0 else 0)

/-- A core as a team finds it at its start: what belongs to the core itself stays (R291, R324). -/
def Core.start (k : Core) (l : Launch) (id i : Nat) : Core :=
  { partw := Word.of (l.spgF + l.accgF * 2 ^ 9 + l.rfgF * 2 ^ 32)
    rtvec := k.rtvec, wdog := k.wdog, trctl := k.trctl, trbase := k.trbase, trptr := k.trptr, psel := k.psel, pcnt := k.pcnt
    sent := k.sent, accepted := k.accepted
    winst := if l.win then Word.of (2 ^ 16 + (l.teamCount - 1) * 2 ^ 8 + i) else 0
    team := some { launch := id, index := i, threads := l.threads, part := l.part } }

/-- A thread as R291 starts it. -/
def Thread.start (l : Launch) (rtvec : Word) (t : Nat) : Thread :=
  { status := .running, pc := l.stageEntry (l.startStage t), g := l.args, tvec := rtvec, stage := l.startStage t }

/-- A team starts on a core (R291): the pool is cleared, the start is an acquire at scope `DIE`. -/
def State.startTeam (s : State) (id : Nat) (l : Launch) (i c : Nat) : State :=
  let s := s.claim id l c
  let s := s.modCore c (fun k => k.start l id i)
  let s := { s with mem := s.mem.clear (poolKey c 0) (poolKey c (poolSize (kindOfCore c))) }
  let s := (List.range l.threads).foldl (fun s t => s.setThread (8 * c + t) (Thread.start l (s.core c).rtvec t)) s
  let s := match s.launches.get? id with
    | some x => { s with launches := s.launches.put id { x with teams := x.teams.set i { core := some c, fate := .running } } }
    | none => s
  s.acquireCore c 2

def State.startTeams (s : State) (id : Nat) (l : Launch) (ps : List (Nat × Nat)) : State :=
  ps.foldl (fun s (i, c) => s.startTeam id l i c) s

/-! ## Queues (R286, R287) -/

/-- EN, SUPQ, PART, QPRI and the ring's size of a host queue. -/
def HostQueue.en (q : HostQueue) : Bool := bit q.ctl 63
def HostQueue.supq (q : HostQueue) : Bool := bit q.ctl 61
def HostQueue.part (q : HostQueue) : Nat := field q.ctl 48 8
def HostQueue.qpri (q : HostQueue) : Nat := field q.ctl 32 3
def HostQueue.size (q : HostQueue) : Nat := 2 ^ (field q.ctl 0 4 + 4)

def State.hostQueue (s : State) (d q : Nat) : HostQueue := (s.die d).queues.getD q {}
def State.setHostQueue (s : State) (d q : Nat) (x : HostQueue) : State :=
  s.modDie d (fun k => { k with queues := k.queues.put q x })

/-- The queue holds a block that may be read. -/
def State.queueHas (s : State) (d q : Nat) : Bool :=
  if q = 256 then !(s.die d).successors.isEmpty
  else let h := s.hostQueue d q; h.en && !h.stopped && h.head != h.tail

/-- The launch that a queue's head holds. -/
def State.queueCur (s : State) (d q : Nat) : Option Nat :=
  if q = 256 then (s.die d).succCur else (s.hostQueue d q).cur

def State.setQueueCur (s : State) (d q : Nat) (x : Option Nat) : State :=
  if q = 256 then s.modDie d (fun k => { k with succCur := x })
  else s.setHostQueue d q { s.hostQueue d q with cur := x }

/-- The queue is enabled and has not stopped: its head may be admitted or rejected (R286). -/
def State.queueRuns (s : State) (d q : Nat) : Bool :=
  q == 256 || ((s.hostQueue d q).en && !(s.hostQueue d q).stopped)

/-- The head block is consumed, and the next one is considered (R286). -/
def State.consume (s : State) (d q : Nat) : State :=
  let s := s.setQueueCur d q none
  let s := if q = 256 then s.modDie d (fun k => { k with successors := k.successors.drop 1 })
    else s.setHostQueue d q { s.hostQueue d q with head := (s.hostQueue d q).head + 1 }
  if s.queueHas d q then s.emit (.launchAdmission d q) else s

/-- Where the head block lies: address, partition and SUPQ. -/
def State.headBlock (s : State) (d q : Nat) : Option (Nat × Option Nat × Bool) :=
  if q = 256 then
    match (s.die d).successors with
    | b :: _ => some (b.addr.toNat, b.part, b.supq)
    | [] => none
  else
    let h := s.hostQueue d q
    some (field h.base 12 45 * 2 ^ 12 + 128 * (h.head.toNat % h.size), some h.part, h.supq)

/-- Every queue head and admitted launch is considered again: cores, objects or a heap became free, or a counter changed
(R287, R289). -/
def State.redispatch (s : State) : State :=
  s.emits (s.dies.flatMap (fun (d, k) =>
    k.admitted.map .teamStart
      ++ (k.queues.filter (fun (q, _) => s.queueHas d q)).map (fun (q, _) => .launchAdmission d q)
      ++ (if s.queueHas d 256 then [.launchAdmission d 256] else [])))

/-- The row `hqtailWrite` (R286). -/
def execHqtailWrite (die q val : Nat) (s : State) : Host.Outcome State Fault Refusal :=
  let h := s.hostQueue die q
  let tail := BitVec.ofNat 32 val
  if h.size < (tail - h.head).toNat then
    .next (s.setHostQueue die q { h with tail, ctl := setField h.ctl 62 1 1, stopped := true })
  else
    let h := { h with tail, stopped := h.stopped && bit h.ctl 62 }
    let s := s.setHostQueue die q h
    .next (if s.queueHas die q then s.emit (.launchAdmission die q) else s)

/-! ## Completion (R294, R295) -/

/-- A device write for a launch: whether it was performed; a failure is reported to the die's supervisor (R393). -/
def State.launchWrite (s : State) (l : Launch) (va : Nat) (bs : List Byte) : Bool × State :=
  match s.deviceWrite (moduleOfDie l.die) l.part va bs with
  | (none, s) => (true, s)
  | (some _, s) => (false, s.hardwareRecord l.die (bytesOf 8 va))

/-- The signal: 1 is added to the 8-byte word of counter SIG, and wait counters are read again (R289, R295). -/
def State.signal (s : State) (l : Launch) : State :=
  if l.f 5 0 1 = 0 then s
  else
    let m := moduleOfDie l.die
    let va := l.f 5 3 54 * 8 + 8 * l.f 6 52 12
    match s.deviceTranslate m l.part va true with
    | (.error _, s) => s.hardwareRecord l.die (bytesOf 8 va)
    | (.ok p, s) =>
      match s.dramFault m p.pa 8 with
      | some _ => s.hardwareRecord l.die (bytesOf 8 va)
      | none =>
        let s := (s.readAt m p.pa 8 (ptePIN p.pte)).beforeAtomic m (64 * l.die + 33) p.pa
        (s.unitWrite m p.pa (bytesOf 8 (s.dramNat m p.pa 8 + 1))).redispatch

/-- The completion record: bytes 8–63, then bytes 0–7 (R295). -/
def State.record (s : State) (l : Launch) (status ended : Nat) (fault : Nat) (tRead : Nat) : State :=
  if l.f 9 0 1 = 0 then s
  else
    let va := l.f 9 6 51 * 64
    match s.launchWrite l (va + 8) (bytesOf 8 tRead ++ bytesOf 8 (s.timens (moduleOfDie l.die)) ++ bytesOf 8 fault ++ bytesOf 32 0) with
    | (false, s) => s
    | (true, s) => (s.launchWrite l va (bytesOf 8 (status + ended * 2 ^ 32))).2

/-- A rejection (R294, R295): the signal and the record, and the queue moves on.  A failed read is timed at the failure. -/
def State.reject (s : State) (d q id status : Nat) : State :=
  match s.launches.get? id with
  | none => s.consume d q
  | some l =>
    let t := if status = 7 then s.timens (moduleOfDie l.die) else l.tRead
    let s := (s.signal l).record l status 0 0 t
    { s with launches := s.launches.erase id }.consume d q

/-- Every team has ended, been halted or withdrawn, and no held exit is left. -/
def Launch.over (l : Launch) : Bool :=
  l.teams.all (fun t => match t.fate with
    | .exited | .halted | .withdrawn | .departed => true
    | _ => false)

/-- Frees what a launch holds: its claims and its heap dies (R24, R291). -/
def State.release (s : State) (id : Nat) : State :=
  { s with
    quads := s.quads.map (fun (q, k) => (q, { k with claims := k.claims.filter (fun (_, _, x) => x != id) }))
    dies := s.dies.map (fun (d, k) => (d, { k with
      claims := k.claims.filter (fun (_, x) => x != id)
      admitted := k.admitted.filter (fun x => x != id)
      heap := if k.heap = some id then none else k.heap }))
    heaps := s.heaps.erase id
    launches := s.launches.erase id }

/-- The row `launchComplete` (R295, R320, R394). -/
def execLaunchComplete (launch : Nat) (s : State) : Host.Outcome State Fault Refusal :=
  match s.launches.get? launch with
  | none => .next s
  | some l =>
    if !l.over then .next s
    else if s.reqs.any (fun r => match r.body with
        | .gain x _ _ => x == launch
        | _ => false) then .next (s.emit (.launchComplete launch))
    else
      let halted := l.teams.any (fun t => t.fate == .halted)
      let withdrawn := l.teams.any (fun t => t.fate == .withdrawn)
      let s := (l.teams.filterMap (fun t => t.core)).foldl (fun s c => s.releaseCore c 4) s
      let s := s.heapAbandon launch (halted || withdrawn)
      let wf := ((s.launches.get? launch).map (fun x => x.wfault)).getD false
      let status := if halted || wf then 8 else if withdrawn then 9 else 1
      let n := l.teams.countP (fun t => t.fate == .exited || t.fate == .departed)
      let fault := match l.fault with
        | some (c, i) => c + i * 2 ^ 16
        | none => 0
      let s := (s.signal l).record l status n fault l.tRead
      .next (s.release launch).redispatch

/-! ## Admission (R288, R289) -/

/-- A launch block's words. -/
def wordsOfBytes (bs : List Byte) : Vector Word 16 := Vector.ofFn (fun i => Word.of (natOfBytes ((bs.drop (8 * i.val)).take 8)))

/-- The block at the head of a queue is read (R286, R393).  One that cannot be read is consumed; it names no place for a
record. -/
def State.readBlock (s : State) (d q : Nat) : State :=
  match s.headBlock d q with
  | none => s
  | some (va, part, supq) =>
    match s.deviceRead (moduleOfDie d) part va 128 with
    | (.error _, s) => s.consume d q
    | (.ok bs, s) =>
      let (id, s) := s.fresh
      let words := wordsOfBytes bs
      let l : Launch :=
        { words, die := d, addr := Word.of va, part, supq, queue := q, tRead := s.timens (moduleOfDie d)
          heard := [moduleOfDie d], teams := List.replicate (field words[0] 16 16) {} }
      State.emit ({ s with launches := s.launches.put id l }.setQueueCur d q (some id)) (.launchAdmission d q)

/-- No placement exists (R288). -/
def State.unplaceable (s : State) (l : Launch) : Bool :=
  let e := s.eligible l
  e.isEmpty || (l.pin && decide (e.length < l.teamCount))
    || (l.qset && !e.any (fun c => c % 4 == 0 && (List.range l.teamCount).all (fun i => e.contains (c + i))))

/-- A die of the heap is busy (R24). -/
def State.heapBusy (s : State) (l : Launch) : Bool :=
  (List.range 16).any (fun d => l.heapDies.testBit d && (s.die (l.modFirst * 16 + d)).heap.isSome)

/-- A launch under `PAR` or `CONC` is rejected where a die of its heap is busy (R24), also where another kernel has taken
the die since the launch was checked. -/
def State.heapRefused (s : State) (l : Launch) : Bool := l.isHeap && l.prog != 0 && s.heapBusy l

/-- The status with which the checks that come before every wait reject the launch (R288). -/
def State.rejection (s : State) (l : Launch) : Option Nat :=
  if !l.formatOk then some 2
  else if 256 < l.spgF + l.accgF + l.rfgF then some 3
  else if s.unplaceable l then some 4
  else if l.prog = 2 ∧ (s.eligible l).length < l.teamCount then some 5
  else if s.heapRefused l then some 6
  else none

/-- Wait counter `i` is met for the value `c` (R289). -/
def Launch.met (l : Launch) (i c : Nat) : Bool :=
  let th := if i < 2 then l.f 7 (32 * i) 32 else l.f 8 (32 * (i - 2)) 32
  decide ((c % 2 ^ 32 + 2 ^ 32 - th) % 2 ^ 32 < 2 ^ 31)

/-- Reads the wait counters `is`: all met, or not, or a read that fails (R289). -/
def State.readCounters (s : State) (l : Launch) : List Nat → Except Cause Bool × State
  | [] => (.ok true, s)
  | i :: is =>
    if l.f 6 48 4 / 2 ^ i % 2 = 0 then s.readCounters l is
    else
      match s.deviceRead (moduleOfDie l.die) l.part (l.f 5 3 54 * 8 + 8 * l.f 6 (Fin.ofNat 64 (12 * i)).val 12) 8 with
      | (.error c, s) => (.error c, s)
      | (.ok bs, s) =>
        match s.readCounters l is with
        | (.ok b, s) => (.ok (l.met i (natOfBytes bs) && b), s)
        | r => r

def State.waitsMet (s : State) (l : Launch) : Except Cause Bool × State := s.readCounters l [0, 1, 2, 3]

/-- The launch's partition is held by a halt (R337). -/
def State.partHeld (s : State) (l : Launch) : Bool := (s.partition (moduleOfDie l.die) l.part).halted

/-- A head that has passed its checks could start now. -/
def State.headReady (s : State) (id : Nat) : Bool :=
  match s.launches.get? id with
  | none => false
  | some l =>
    l.checked && !s.partHeld l && !(l.isHeap && s.heapBusy l) && (s.placement id l).isSome
      && (match (s.waitsMet l).1 with
        | .ok b => b
        | .error _ => false)

/-- A queue's class: 8 for the successor queue, QPRI for a host queue (R286, R287). -/
def State.queueClass (s : State) (d q : Nat) : Nat := if q = 256 then 8 else (s.hostQueue d q).qpri

/-- The rank of a queue's head (R287): class, then PRIO, both higher first, then the queue's number. -/
def State.headRank (s : State) (d q id : Nat) : Nat :=
  let cls := s.queueClass d q
  let prio := ((s.launches.get? id).map (fun l => l.prio)).getD 0
  (8 - cls) * 2 ^ 20 + (255 - prio) * 2 ^ 10 + q

/-- Another queue of the die, of the same class or a higher one, holds a head that has not been read and checked yet; it
may go first (R287). -/
def State.unreadHead (s : State) (d q : Nat) : Option Nat :=
  let others : List Nat := (s.die d).queues.map (fun e => e.1) ++ [256]
  others.find? (fun x =>
    x != q && s.queueHas d x && decide (s.queueClass d q ≤ s.queueClass d x)
      && (match (s.queueCur d x).bind (fun i => s.launches.get? i) with
        | some l => !l.checked
        | none => true))

/-- Another head of the die that can start and goes first; that of a queue that is disabled or has stopped cannot (R286, R287). -/
def State.betterHead (s : State) (d q id : Nat) : Option Nat :=
  let others := (s.die d).queues.filterMap (fun (x, k) => k.cur.map (fun i => (x, i)))
    ++ (match (s.die d).succCur with
      | some i => [(256, i)]
      | none => [])
  (others.find? (fun (x, i) =>
    x != q && s.queueRuns d x && decide (s.headRank d x i < s.headRank d q id) && s.headReady i)).map (fun (x, _) => x)

/-- Tasks `t` and up of a new kernel are seeded (R308); false where an entry cannot be read. -/
def State.seedTasks (s : State) (id : Nat) (l : Launch) : Nat → Nat → Bool × State
  | 0, _ => (true, s)
  | fuel + 1, t =>
    match s.deviceRead l.modFirst l.part (l.table + 64 + 8 * t) 8 with
    | (.error _, s) => (false, s)
    | (.ok bs, s) => (s.applyGain id t (natOfBytes (bs.take 4))).seedTasks id l fuel (t + 1)

/-- The end test is armed, unless the kernel has ended. -/
def State.arm (s : State) (id : Nat) : State :=
  match s.heaps.get? id with
  | some h => if h.ended then s else (s.setHeap id { h with armed := true }).endTest id
  | none => s

/-- A heap kernel begins (R307, R308): N is read; under SEED = 1 its tasks are seeded.  With a rejection's status, if it
cannot. -/
def State.heapBegin (s : State) (id : Nat) (l : Launch) : Option Nat × State :=
  let m := l.modFirst
  match s.deviceRead m l.part l.table 4 with
  | (.error _, s) => (some 7, s)
  | (.ok bs, s) =>
    let n := natOfBytes bs
    let dies := (List.range 16).filter (fun d => l.heapDies.testBit d)
    if n = 0 ∨ 65536 * dies.length < n then (some 2, s)
    else
      let h : Heap :=
        { module := m, dies := BitVec.ofNat 16 l.heapDies, n, tol := BitVec.ofNat 64 l.words[10].toNat
          slack := BitVec.ofNat 32 (l.f 11 0 32), global := l.f 11 48 1 == 1, table := l.table, part := l.part
          mdie := dies.headD 0, mcyc := (s.module m).cycles }
      let s := dies.foldl (fun s d => s.modDie (m * 16 + d) (fun k => { k with heap := some id })) (s.setHeap id h)
      let s := if h.global then s.emit (.heapMaxRefresh id) else s
      if l.f 11 49 1 = 0 then (none, s)
      else
        match s.seedTasks id l n 0 with
        | (false, s) => (some 7, s)
        | (true, s) => (none, s.arm id)

/-- A heap kernel that could not be seeded leaves its dies. -/
def State.dropHeap (s : State) (id : Nat) : State :=
  { s with dies := s.dies.map (fun (d, k) => (d, { k with heap := if k.heap = some id then none else k.heap }))
           heaps := s.heaps.erase id }

/-- The head launch is admitted (R288): it leaves its queue, its first teams start, and the others wait on the die's list. -/
def State.takeHead (s : State) (d q id : Nat) (l : Launch) (ps : List (Nat × Nat)) : State :=
  match (if l.isHeap then s.heapBegin id l else (none, s)) with
  | (some st, s) => (s.dropHeap id).reject d q id st
  | (none, s) =>
    let (n, s) := s.fresh
    let s := match s.launches.get? id with
      | some x => { s with launches := s.launches.put id { x with order := some n } }
      | none => s
    let s := (s.consume d q).startTeams id l ps
    if ps.length < l.teamCount then (s.modDie d (fun k => { k with admitted := k.admitted ++ [id] })).emit (.teamStart id)
    else s

/-- The launch leaves for the dispatchers of the other eligible modules (R288). -/
def State.forwardLaunch (s : State) (d id : Nat) (l : Launch) : State :=
  let first := ((List.range 16).find? (fun i => l.dieMap.testBit i)).getD 0
  s.emits (((List.range (l.modCnt + 1)).filter (fun i => l.modFirst + i != moduleOfDie d)).map
    (fun i => .launchForward ((l.modFirst + i) * 16 + first) id))

/-- The row `launchAdmission` (R288): the head block of a queue is read, checked, and admitted, rejected or held. -/
def execLaunchAdmission (die q : Nat) (s : State) : Host.Outcome State Fault Refusal :=
  match s.queueCur die q with
  | none => .next (if s.queueHas die q then s.readBlock die q else s)
  | some id =>
    match s.launches.get? id with
    | none => .next s
    | some l =>
      if !s.queueRuns die q then .next s
      else match (if l.checked then (if s.heapRefused l then some 6 else none) else s.rejection l) with
      | some st => .next (s.reject die q id st)
      | none =>
        let l' := { l with checked := true }
        let s' := { s with launches := s.launches.put id l' }
        let s := if l.checked then s' else s'.forwardLaunch die id l'
        if s.partHeld l' || (l'.isHeap && s.heapBusy l') then .next s
        else
          match s.waitsMet l' with
          | (.error _, s) => .next (s.reject die q id 7)
          | (.ok false, s) => .next (s.emit (.waitCounterPoll die q))
          | (.ok true, s) =>
            match (s.unreadHead die q).orElse (fun _ => s.betterHead die q id) with
            | some b => .next ((s.emit (.launchAdmission die b)).emit (.launchAdmission die q))
            | none =>
              match s.placement id l' with
              | none => .next s
              | some ps => .next (s.takeHead die q id l' ps)

/-- The row `launchForward` (R288): the block reaches another module's dispatcher. -/
def execLaunchForward (die launch : Nat) (s : State) : Host.Outcome State Fault Refusal :=
  match s.launches.get? launch with
  | none => .next s
  | some l =>
    if l.heard.contains (moduleOfDie die) then .next s
    else
      .next (State.redispatch { s with launches := s.launches.put launch { l with heard := l.heard ++ [moduleOfDie die] } })

/-- The row `waitCounterPoll` (R289): the counters of a held head are read again. -/
def execWaitCounterPoll (die q : Nat) (s : State) : Host.Outcome State Fault Refusal :=
  match s.queueCur die q with
  | none => .next s
  | some id =>
    match s.launches.get? id with
    | none => .next s
    | some l =>
      if !s.queueRuns die q then .next s
      else match s.waitsMet l with
      | (.error _, s) => .next (s.reject die q id 7)
      | (.ok b, s) => .next (s.emit (if b then .launchAdmission die q else .waitCounterPoll die q))

/-- The row `teamStart` (R288, R290, R291): the next team of an admitted launch starts where a core is free for it. -/
def execTeamStart (launch : Nat) (s : State) : Host.Outcome State Fault Refusal :=
  match s.launches.get? launch with
  | none => .next s
  | some l =>
    if !(s.die l.die).admitted.contains launch || s.partHeld l then .next s
    else
      match s.placement launch l with
      | none => .next s
      | some ps =>
        let s := s.startTeams launch l ps
        if l.pending.length ≤ ps.length then
          .next (s.modDie l.die (fun k => { k with admitted := k.admitted.filter (fun x => x != launch) }))
        else .next (s.emit (.teamStart launch))

/-! ## The end of teams (R296–R299) -/

def State.modLaunch (s : State) (id : Nat) (f : Launch → Launch) : State :=
  match s.launches.get? id with
  | some l => { s with launches := s.launches.put id (f l) }
  | none => s

/-- A team of a launch meets its fate; the launch may be over. -/
def State.setFate (s : State) (id i : Nat) (fate : TeamFate) : State :=
  let s := s.modLaunch id (fun l => { l with
    teams := l.teams.set i { (l.teams[i]?.getD {}) with fate, gone := fate != .running && fate != .pending && fate != .held } })
  match s.launches.get? id with
  | some l => if l.over then s.emit (.launchComplete id) else s
  | none => s

/-- A thread after its team's end: its registers stand until the core's next team starts. -/
def Thread.gone (t : Thread) : Thread :=
  { t with status := .absent, wait := none, granted := false, windows := [], outstanding := [], pending := [] }

/-- A request that has ended in a fault. -/
def Req.ended (r : Req) : Bool :=
  match r.st with
  | .faulted _ => true
  | _ => false

/-- The core becomes free: its team and threads are gone, the threads' last stores have entered the pool, and requests of
theirs that ended in a fault no longer hold a stream (R276, R291). -/
def State.freeCore (s : State) (c : Nat) : State :=
  let s := (List.range 8).foldl (fun s i => s.drainAll (8 * c + i)) s
  let s := s.modCore c (fun k => { k with team := none, halt := none, mqueue := [], winst := 0 })
  State.redispatch { s with
    threads := s.threads.map (fun (t, th) => (t, if coreOfThread t = c then th.gone else th))
    reqs := s.reqs.filter (fun r => !(r.src == c && r.ended)) }

/-- NGONE is brought up to date in every resident member (R297, R298). -/
def State.countGone (s : State) (id : Nat) : State :=
  match s.launches.get? id with
  | none => s
  | some l =>
    let n := l.teams.countP (fun t => t.gone)
    l.teams.foldl (fun s t =>
      match t.core with
      | some c => if (s.core c).team.any (fun tm => tm.launch == id)
          then s.modCore c (fun k => { k with winst := setField k.winst 32 7 n }) else s
      | none => s) s

/-- What a member has become, as its peers see it: halted members have departed (R298, R299). -/
def State.memberGone (s : State) (id : Nat) (t : LaunchTeam) : Bool :=
  t.gone || (match t.core with
    | some c => (s.core c).team.any (fun tm => tm.launch == id && (tm.mdet || tm.status == .halted))
    | none => false)

/-- The row `windowDepart` (R299): halted members depart at once, and held ones together once every member is detached,
held or departed. -/
def execWindowDepart (launch : Nat) (s : State) : Host.Outcome State Fault Refusal :=
  match s.launches.get? launch with
  | none => .next s
  | some l =>
    if !l.win then .next s
    else
      let s := s.modLaunch launch (fun l => { l with teams := l.teams.map (fun t => { t with gone := s.memberGone launch t }) })
      let ready := l.teams.all (fun t => s.memberGone launch t || t.fate == .held)
      let s :=
        if ready then
          l.teams.zipIdx.foldl (fun s (t, i) =>
            if t.fate = .held then
              let s := if t.saved then { s with saved := s.saved.filter (fun y => !(y.launch == launch && y.index == i)) }
                else match t.core with
                  | some c => s.freeCore c
                  | none => s
              s.setFate launch i .departed
            else s) s
        else s
      .next (s.countGone launch)

/-- A team has ended with `EXIT` (R298, R299). -/
def State.teamExit (s : State) (c : Nat) (tm : Team) : State :=
  let win := ((s.launches.get? tm.launch).map (fun l => l.win)).getD false
  if win then
    ((s.modCore c (fun k => { k with team := some { tm with status := .held } })).setFate tm.launch tm.index .held).emit
      (.windowDepart tm.launch)
  else (s.freeCore c).setFate tm.launch tm.index .exited

/-- The thread ends; with the team's last thread the team ends (R296).  Its stores need not have entered the pool yet. -/
def State.endThread (s : State) (tid : Nat) : State :=
  let c := coreOfThread tid
  let s := s.modThread tid (fun t => { t with status := .ended, wait := none, granted := false, windows := [] })
  match (s.core c).team with
  | none => (s.drainAll tid).modThread tid (fun t => { t with status := .absent })
  | some tm =>
    if (List.range tm.threads).all (fun i => (s.thread (8 * c + i)).status == .ended) then s.teamExit c tm else s

/-! ## `EXIT` (R296) -/

/-- Nothing is left that `EXIT` waits for. -/
def State.exitReady (s : State) (tid : Nat) : Bool :=
  let c := s.core (coreOfThread tid)
  (s.thread tid).outstanding.all (fun o => o.ended)
    && c.chans.toList.all (fun k => k.queue.all (fun e => e.tid != tid) && !(k.running && k.kicker == tid && k.fault.isNone)
      && (match k.held with
        | some (t, _) => t != tid
        | none => true))
    && s.openLookups tid == 0 && s.matrixOut tid == 0
    && s.reqs.all (fun r => r.tid != tid || (match r.body with
      | .message _ kind _ => kind != 0 || (r.left && (match r.st with
        | .refused | .faulted _ => false
        | _ => true))
      | .gain .. | .resume .. => true
      | .bump .. => false
      | _ => match r.st with
        | .faulted _ => true
        | _ => false))

/-- The entries of a successor list that are present, as the thread reads them (R249). -/
def State.successors (s : State) (tid list : Nat) : List Word :=
  ((List.range 4).map (fun i => Word.of (s.ownNat tid (list + 8 * i) 8))).filter (fun w => bit w 0)

/-- The end of `EXIT` once its waits are over, with the successors that it submits; in a bundle the thread ends with the
bundle. -/
def State.exitEnd (s : State) (es : List Word) : Res :=
  let (part, supq) := match s.launchOf s.myCore with
    | some l => (l.part, l.supq)
    | none => (none, false)
  let s := s.modDie s.myDie (fun k => { k with
    successors := k.successors ++ es.map (fun w => { addr := Word.of (field w 7 50 * 2 ^ 7), part, supq }) })
  let s := if es.isEmpty then s else s.emit (.launchAdmission s.myDie 256)
  match s.bundle with
  | some b => .retire { s with bundle := some { b with ends := true } }
  | none => .retire ((s.leaveObjects s.cur).endThread s.cur)

/-- `EXIT` after its first waits (R296): the successor list is read and checked, then comes its release as `FENCE.POD`. -/
def State.exitRead (s : State) (list : Option Nat) : Res :=
  match list with
  | none => s.exitEnd []
  | some a =>
    let es := s.successors s.cur a
    if s.ownBad s.cur a 32 then .trap (eccTrap a) s
    else if es.any (fun w => field w 1 6 != 0 || field w 57 7 != 0) then trapOf s .illegal
    else
      let s := (s.poolCorrect s.myCore a 32).drainAll s.cur
      if s.fenceReady s.cur 4 then (s.fenceEnd 4).exitEnd es else .block (.exit list (some es)) s

/-- `EXIT` where a wait of it is over: the first ones, or that of its release. -/
def State.exitGo (s : State) (list : Option Nat) (read : Option (List Word)) : Res :=
  match read with
  | none => s.exitRead list
  | some es => (s.fenceEnd 4).exitEnd es

/-- The successors that an `EXIT` has read whose bundle issues again. -/
def Thread.exitList (t : Thread) : Option (List Word) :=
  match t.wait with
  | some (.exit _ read) => read
  | _ => none

/-- `EXIT` (R296).  A thread that ends does not go on to a next instruction.  That a list both misaligned and out of range traps
`MISALIGN` is the model's choice (log 32). -/
def execExit (g : Guard) (a : GReg) (s : State) : Host.Outcome State Fault Refusal :=
  issue (metaG 0x36 g [] [a]) s (fun s =>
    let list := if a = 0 then none else some (s.localAddr (s.g a))
    let bad : Option TrapInfo :=
      if s.src.sup || s.src.held.isSome then some { cause := .illegal }
      else match list with
        | none => none
        | some x => if x % 32 ≠ 0 then some { cause := .misalign, addr := Word.of x } else s.checkLocal x 32 32
    match bad with
    | some t => .trap t s
    | none => await (.exit list) id (fun s => s.exitReady s.cur) (fun s => s.exitGo list s.src.exitList) s)

/-- The row `exitDrainDone` (R296): a wait of an `EXIT` is over. -/
def execExitDrainDone (tid : Nat) (s : State) : Host.Outcome State Fault Refusal :=
  .next (s.wake tid
    (fun w s => match w with
      | .exit _ read => if read.isSome then s.fenceReady tid 4 else s.exitReady tid
      | _ => false)
    (fun w s => match w with
      | .exit list read => s.exitGo list read
      | _ => .again none))

/-! ## `DETACH` (R298, R300) -/

def isWindow (a : Word) : Bool :=
  match addrForm a with
  | .window _ _ => true
  | _ => false

/-- A transfer entry has a window-form far or notify address (R300). -/
def Entry.windowForm (e : Entry) : Bool := (!e.row && e.kind != .counters && isWindow e.opa) || (e.bumpsRemote && isWindow e.opb)

/-- Among the entries of a running chain that are still to be performed, as the pool holds them, one is of window form.  The
walk ends at a park, and after as many entries as the pool can hold (R171, R300). -/
def State.chainWindow (s : State) (core : Nat) (k : ChannelState) : Nat → Nat → Bool
  | 0, _ => false
  | fuel + 1, at_ =>
    match kindOfCode (s.poolNat core at_ 4 % 16) with
    | none => false
    | some kind =>
      (s.chainEntry core { k with cpos := at_ } kind).windowForm || s.chainWindow core k fuel (s.poolNat core (at_ + 12) 4 % 2 ^ 20)

/-- Every earlier window-form operation of the thread has been performed or refused (R300). -/
def State.detachReady (s : State) (tid : Nat) : Bool :=
  let c := s.core (coreOfThread tid)
  s.reqs.all (fun r => r.tid != tid || !r.window || (match r.st with
    | .waiting | .refused | .joined _ => false
    | _ => true))
    && c.chans.toList.all (fun k =>
      k.queue.all (fun e => e.tid != tid || !e.windowForm)
        && !(k.running && k.kicker == tid && k.fault.isNone
          && s.chainWindow (coreOfThread tid) k (s.accEnd (coreOfThread tid) / 64) k.cpos))
    && s.lookups.all (fun l => l.tid != tid || (match l.kind with
      | .gather _ (some far) _ _ => !isWindow far
      | _ => true))

/-- The detach step (R298): TDET, MDET, and NGONE in every member. -/
def State.detachEnd (s : State) : State :=
  let s := s.modTh (fun t => { t with tdet := true })
  match (s.core s.myCore).team with
  | none => s
  | some tm =>
    let s := s.modCore s.myCore (fun k => { k with team := some { tm with mdet := true } })
    let s := s.modLaunch tm.launch (fun l => { l with
      teams := l.teams.set tm.index { (l.teams[tm.index]?.getD {}) with gone := true } })
    (s.countGone tm.launch).emit (.windowDepart tm.launch)

/-- `DETACH` (R300). -/
def execDetach (g : Guard) (s : State) : Host.Outcome State Fault Refusal :=
  issue (metaG 0x36 g [] []) s (fun s =>
    if !bit (s.core s.myCore).winst 16 then trapOf s .illegal
    else await .detach id (fun s => s.detachReady s.cur) (fun s => .retire s.detachEnd) s)

/-- The row `detachStep` (R298, R300). -/
def execDetachStep (tid : Nat) (s : State) : Host.Outcome State Fault Refusal :=
  .next (s.wake tid
    (fun w s => match w with
      | .detach => s.detachReady tid
      | _ => false)
    (fun _ s => .retire s.detachEnd))

/-! ## `TEAMID` and `YIELD` (R292, R293) -/

/-- What `TEAMID` returns. -/
def teamidWord (l : Launch) (tm : Team) (tid stage : Nat) : Word :=
  Word.of (l.win.toNat * 2 ^ 47 + (if l.win then tm.index else 0) * 2 ^ 41 + stage * 2 ^ 39 + tm.threads * 2 ^ 35
    + threadIndex tid * 2 ^ 32 + l.teamCount * 2 ^ 16 + tm.index)

/-- `TEAMID` (R292).  To a thread without a team, a firmware thread, the manual states no result: a free value (log 5). -/
def execTeamid (g : Guard) (d : GReg) (s : State) : Host.Outcome State Fault Refusal :=
  issue (metaG 0x36 g [d] []) s (fun s =>
    match (s.core s.myCore).team, s.launchOf s.myCore with
    | some tm, some l => .retire (s.setG d (teamidWord l tm s.cur s.src.stage))
    | _, _ => .retire { s.setG d (Config.freeWord s.free) with free := s.free + 1 })

/-- Threads of the team in a stage. -/
def State.stageCount (s : State) (c : Nat) (tm : Team) (stage : Nat) : Nat :=
  (List.range tm.threads).countP (fun i => (s.thread (8 * c + i)).status != .ended && (s.thread (8 * c + i)).stage == stage)

/-- The stage to which `YIELD` moves a thread of stage `k` (R293). -/
def State.yieldStage (s : State) (l : Launch) (tm : Team) (k : Nat) : Nat :=
  let fifo := fun (i : Nat) => (s.quad s.myQuad).fifos[i]?.getD {}
  let many := decide (1 < s.stageCount s.myCore tm k)
  if k + 1 < l.stages ∧ 24 ≤ (fifo (l.qfirst + k)).recs.length ∧ many = true then k + 1
  else if 0 < k ∧ (fifo (l.qfirst + k - 1)).recs.length + (fifo (l.qfirst + k - 1)).rcnt = 0 ∧ many = true then k - 1
  else k

/-- `YIELD` (R293). -/
def execYield (g : Guard) (s : State) : Host.Outcome State Fault Refusal :=
  issue (metaG 0x36 g [] []) s (fun s =>
    match (s.core s.myCore).team, s.launchOf s.myCore with
    | some tm, some l =>
      let k := s.src.stage
      let t := s.yieldStage l tm k
      if l.stages = 1 ∨ t = k then .retire s
      else .jump (s.modTh (fun th => { th with stage := t })) (l.stageEntry t)
    | _, _ => .retire s)

end Sys2Proof.Machine
end

