-- ==== Sys2Proof/Machine/Queues.lean ====
section
/-!
DEFINITION. Sys2Proof/Machine/Queues.lean: who may read and write which system register (R324, R325), and the hardware
work queues (R281, R282; major 0x34).
-/
namespace Sys2Proof.Machine

/-! ## Access to system registers (R324, R325) -/

/-- A number lies in a range. -/
def within (n lo hi : Nat) : Bool := decide (lo ≤ n) && decide (n ≤ hi)

/-- User mode has no access. -/
def sysClosed (n : Nat) : Bool :=
  within n 0x001 0x006 || n == 0x017 || within n 0x03C 0x050 || within n 0x052 0x054 || within n 0x058 0x067

/-- The register is read-only in both modes. -/
def sysReadOnly (n : Nat) : Bool :=
  n == 0x000 || within n 0x008 0x00B || within n 0x020 0x03B || n == 0x051

/-- User mode reads the register, and only the supervisor writes it. -/
def sysUserReads (n : Nat) : Bool := within n 0x00D 0x00F || within n 0x018 0x01B

/-- The checks of R325, in their order. -/
def sysCheck (n : Nat) (write sup : Bool) : Option Cause :=
  if !sysRegAssigned n then some .illegal
  else if !sup && sysClosed n then some .priv
  else if write && sysReadOnly n then some .illegal
  else if write && !sup && sysUserReads n then some .priv
  else if !write && n == 0x045 then some .illegal
  else none

/-- The loop registers a write of system register `n` writes: `LCCNT0` to `LPIPE` stand at 0x010 to 0x016 (R41, R79). -/
def sysLoops (n : Nat) : List RegName := (List.finRange 7).filterMap (fun r => if 0x010 + r.val = n then some (.loop r) else none)

/-- The shape of an `MTS`. -/
def metaMts (g : Guard) (a : GReg) (n : Nat) (s : State) : Meta :=
  { metaG 0x3D g [] [a] with writes := sysLoops n, sys := sysCheck n true s.src.sup }

/-! ## Work queues (R281, R282) -/

def State.fifo (s : State) (q : Nat) (n : Fin 8) : Fifo := (s.quad q).fifos[n]
def State.setFifo (s : State) (q : Nat) (n : Fin 8) (f : Fifo) : State :=
  s.modQuad q (fun k => { k with fifos := k.fifos.set n.val f n.isLt })

/-- C, the records of the ring; none with SZ = 0 (R281). -/
def Fifo.cap (f : Fifo) : Nat := if field f.ring 0 4 = 0 then 0 else 2 ^ (field f.ring 0 4 + 4)
/-- BASE. -/
def Fifo.base (f : Fifo) : Nat := field f.ring 12 45 * 4096
/-- The address of the record with a count. -/
def Fifo.slot (f : Fifo) (count : Nat) : Nat := if f.cap = 0 then 0 else f.base + 32 * (count % f.cap)

/-- `WQST` (R281). -/
def Fifo.status (f : Fifo) : Word :=
  Word.of ((if 0 < f.rcnt then 2 ^ 63 else 0) + f.rcnt % 2 ^ 20 * 2 ^ 32 + f.recs.length % 64)

/-- The requester number of a FIFO's refill. -/
def reqFifo (q : Nat) (n : Fin 8) : Nat := 4 * (2 ^ 40 + 8 * q + n.val) + 2

/-- A ring access, through the quad's TLB, checked as one in user mode; it fails on tolerant and reduction pages (R282,
R393); a fault comes with the module and the address of the unit that found it. -/
def State.ringPlace (s : State) (q core req va : Nat) (acc : Access) : Except (Cause × Nat × Nat × Nat) Place ⊕ Miss :=
  let x : Miss := { req, core, part := (s.quad q).part, va, write := acc == .write, tol := false, red := some false }
  if 2 ^ 57 ≤ va then .inl (.error (.pageFault, 1, 0, 0))
  else
    match s.translate x false acc with
    | .miss => .inr x
    | .fault c sub => .inl (.error (c, sub, 0, 0))
    | .ok p =>
      match s.dramFault p.m p.pa 32 with
      | some (c, sub) => if acc = .write ∧ c = .eccUncorr then .inl (.ok p) else .inl (.error (c, sub, p.m, p.pa))
      | none => .inl (.ok p)

/-- An error response of a unit is recorded, for an access that R244's table of operations does not name (R244; log 20). -/
def State.errorRecord (s : State) (c : Cause) (sub m pa core : Nat) : State :=
  if c = .memsideError then s.memsideRecord m pa pa sub 0 core else s

/-- Hardware refills a FIFO that has room from its ring (R282). -/
def State.refillDue (s : State) (q : Nat) (n : Fin 8) : State :=
  let f := s.fifo q n
  if f.recs.length < 32 ∧ 0 < f.rcnt then s.emit (.queueRefill q n.val) else s

/-- `QPUSH` (R282). -/
def execQpush (g : Guard) (a b : GReg) (s : State) : Host.Outcome State Fault Refusal :=
  issue (metaG 0x34 g [] [a, b]) s (fun s =>
    let la := s.localAddr (s.g a)
    let q := s.myQuad
    let n : Fin 8 := Fin.ofNat 8 (field (s.g b) 0 3)
    match s.checkLocal la 32 32 with
    | some t => .trap t s
    | none =>
      let s' := s.drainAll s.cur
      if s'.poolBad s.myCore la 32 then trapOf s .eccUncorr (Word.of la)
      else
        let s' := s'.poolCorrect s.myCore la 32
        let r := s'.poolNat s.myCore la 32
        let f := s'.fifo q n
        if f.rcnt = 0 ∧ f.recs.length < 32 then
          .retire (s'.setFifo q n { f with recs := f.recs ++ [BitVec.ofNat 256 r] })
        else if f.rcnt < f.cap then
          let va := f.slot f.tail
          match s'.ringPlace q s.myCore (reqThread s.cur) va .write with
          | .inr x => .again (some x)
          | .inl (.error (c, sub, m, pa)) =>
            .trap { cause := c, sub, addr := Word.of va } ((s.errorRecord c sub m pa s.myCore).dropWalks (reqThread s.cur))
          | .inl (.ok p) =>
            let s' := (s'.markDirty p).bypassWrite s.myCore p (bytesOf 32 r)
            .retire ((s'.setFifo q n { f with tail := f.tail + 1, rcnt := f.rcnt + 1 }).refillDue q n)
        else trapOf s .queueOverflow (Word.of (f.slot f.tail)))

/-- The FIFO's head reaches the pool and gD (R282). -/
def State.popHead (s : State) (q : Nat) (n : Fin 8) (d : GReg) (la : Nat) : State :=
  let f := s.fifo q n
  match f.recs with
  | [] => s.setG d 0
  | r :: rs =>
    (((s.setFifo q n { f with recs := rs }).ownWrite s.cur la (bytesOf 32 r.toNat)).setG d 1).refillDue q n

/-- `QPOP` (R282). -/
def execQpop (g : Guard) (d a : GReg) (s : State) : Host.Outcome State Fault Refusal :=
  issue (metaG 0x34 g [d] [a]) s (fun s =>
    let la := s.localAddr (s.g a)
    let q := s.myQuad
    let n : Fin 8 := Fin.ofNat 8 (field (s.g a) 32 3)
    match s.checkLocal la 32 32 with
    | some t => .trap t s
    | none =>
      let f := s.fifo q n
      if f.recs.isEmpty && decide (0 < f.rcnt) then .block (.qpop d n.val la) (s.refillDue q n)
      else .retire (s.popHead q n d la))

/-- The threads of a quad that wait to pop a FIFO; the longest wait comes first. -/
def State.popWaiters (s : State) (q : Nat) (n : Fin 8) : Option Nat :=
  let ws := (coresOfQuad q).flatMap (fun c => (List.range 8).filterMap (fun i =>
    let t := s.thread (8 * c + i)
    match t.status, t.wait with
    | .waiting, some (.qpop _ m _) => if m = n.val then some (8 * c + i, t.waitSince) else none
    | _, _ => none))
  (ws.foldl (fun best w => match best with
    | none => some w
    | some b => if w.2 < b.2 then some w else some b) (none : Option (Nat × Nat))).map (·.1)

/-- A waiting `QPOP` takes the head. -/
def State.popWake (s : State) (q : Nat) (n : Fin 8) : State :=
  match s.popWaiters q n with
  | none => s
  | some tid =>
    s.wake tid
      (fun w s => match w with
        | .qpop _ m _ => m == n.val && (!(s.fifo q n).recs.isEmpty || (s.fifo q n).rcnt == 0)
        | _ => false)
      (fun w s => match w with
        | .qpop d _ la => .retire (s.popHead q n d la)
        | _ => .again none)

/-- The operations of a FIFO go on, one at a time. -/
def State.popOn (s : State) (q : Nat) (n : Fin 8) : State :=
  if (s.popWaiters q n).isSome then s.emit (.queueRefill q n.val) else s.refillDue q n

/-- The row `queueRefill` (R282): the ring's oldest record moves to the FIFO's tail; a fault is taken by the `QPOP` that
waits for the record, which stays in the ring. -/
def execQueueRefill (quad n : Nat) (s : State) : Host.Outcome State Fault Refusal :=
  let k : Fin 8 := Fin.ofNat 8 n
  let f := s.fifo quad k
  if f.rcnt = 0 ∨ 32 ≤ f.recs.length then .next (if (s.popWaiters quad k).isSome then (s.popWake quad k).popOn quad k else s)
  else
    let core := (coresOfQuad quad).headD 0
    let va := f.slot (f.tail - f.rcnt)
    match s.ringPlace quad core (reqFifo quad k) va .read with
    | .inr x => .next ((s.startWalk x).emit (.queueRefill quad n))
    | .inl (.error (c, sub, m, pa)) =>
      let s := (s.errorRecord c sub m pa core).dropWalks (reqFifo quad k)
      match s.popWaiters quad k with
      | none => .next s
      | some tid =>
        let words := (s.thread tid).waitWords
        .next ((s.modThread tid Thread.interrupt).raise tid { cause := c, sub, addr := Word.of va } words)
    | .inl (.ok p) =>
      let r := BitVec.ofNat 256 (s.dramNat p.m p.pa 32)
      let s := (s.readAt p.m p.pa 32 (ptePIN p.pte)).setFifo quad k { f with recs := f.recs ++ [r], rcnt := f.rcnt - 1 }
      .next ((s.popWake quad k).popOn quad k)

/-- The row `wqringWrite`: `MTS` to `WQRINGn` (R281). -/
def execWqringWrite (g : Guard) (n : Fin 8) (a : GReg) (s : State) : Host.Outcome State Fault Refusal :=
  issue (metaMts g a (0x3C + n.val) s) s (fun s =>
    let x := s.g a
    let f := s.fifo s.myQuad n
    let new : Fifo := { f with ring := Word.of (field x 12 45 * 4096 + field x 0 4) }
    if new.base % (Nat.max 4096 (32 * new.cap)) ≠ 0 ∨ 0 < f.rcnt then trapOf s .illegal
    else .retire (s.setFifo s.myQuad n new))

end Sys2Proof.Machine
end

