-- ==== Sys2Proof/Machine/Context.lean ====
section
/-!
DEFINITION. Sys2Proof/Machine/Context.lean: context images, and `CTXSV` and `CTXLD` (R339, R340).

R340 gives the image's sections, their order and the header.  Where it leaves the place of a register inside a section open,
the layout here is the model's (log 23): the state of R340's own table first, then the registers that R324 marks, then what
the chapters add.
-/
namespace Sys2Proof.Machine

/-! ## Fields of fixed size -/

/-- A field of a section: its bytes, and how it is read and written. -/
structure Slot (α : Type) where
  n : Nat
  get : α → Nat
  set : Nat → α → α

/-- The bytes of a section whose next free offset is `off`: each field at the next offset aligned to its size. -/
def encodeSlots {α : Type} (x : α) : List (Slot α) → Nat → List Byte
  | [], _ => []
  | f :: fs, off =>
    let pad := (f.n - off % f.n) % f.n
    List.replicate pad 0 ++ bytesOf f.n (f.get x) ++ encodeSlots x fs (off + pad + f.n)

/-- Reads a section back; the rest of the bytes follow. -/
def decodeSlots {α : Type} : List (Slot α) → Nat → List Byte → α → α × List Byte
  | [], _, bs, x => (x, bs)
  | f :: fs, off, bs, x =>
    let pad := (f.n - off % f.n) % f.n
    decodeSlots fs (off + pad + f.n) (bs.drop (pad + f.n)) (f.set (natOfBytes ((bs.drop pad).take f.n)) x)

/-- The words that follow the fields of a section. -/
def encodeWords (ws : List Nat) : List Byte := ws.flatMap (bytesOf 8)

def decodeWords : Nat → List Byte → List Nat
  | 0, _ => []
  | fuel + 1, bs => if bs.isEmpty then [] else natOfBytes (bs.take 8) :: decodeWords fuel (bs.drop 8)

/-- A reader of words. -/
abbrev Rd (α : Type) := StateM (List Nat) α

def rd : Rd Nat := fun l => (l.headD 0, l.tail)
def rdBool : Rd Bool := fun l => (l.headD 0 == 1, l.tail)

def rdMany {α : Type} (p : Rd α) : Nat → Rd (List α)
  | 0 => pure []
  | n + 1 => do
    let x ← p
    let xs ← rdMany p n
    pure (x :: xs)

/-- A list with its length in front; a length beyond `cap` is not believed. -/
def rdList {α : Type} (cap : Nat) (p : Rd α) : Rd (List α) := do
  let n ← rd
  rdMany p (Min.min n cap)

def optWords (x : Option Nat) : List Nat :=
  match x with
  | none => [0, 0]
  | some v => [1, v]

def rdOpt : Rd (Option Nat) := do
  let some_ ← rdBool
  let v ← rd
  pure (if some_ then some v else none)

/-! ## Threads -/

def setVecAt {α : Type} {n : Nat} (v : Vector α n) (i : Nat) (x : α) : Vector α n := v.setIfInBounds i x

def causeOfCode (n : Nat) : Cause :=
  [Cause.illegal, .priv, .misalign, .localRange, .tagMismatch, .lookaheadBreach, .divZero, .pageFault, .pageProt, .pteReserved,
   .eccUncorr, .remoteFault, .pluralDetached, .barrierOverrun, .queueOverflow, .heapFull, .tableBad, .lexiconBad,
   .statusReserved, .software, .break, .handlerFault, .watchdog, .memsideError].getD (n - 1) .illegal

def TrapInfo.words (t : TrapInfo) : List Nat := [t.tcause.toNat + t.next.toNat * 2 ^ 32, t.addr.toNat]

def rdTrap : Rd TrapInfo := do
  let w ← rd
  let a ← rd
  pure { cause := causeOfCode (w % 256), sub := w / 2 ^ 8 % 256, unit := w / 2 ^ 16 % 16, origin := w / 2 ^ 20 % 16
         addr := Word.of a, next := w / 2 ^ 32 % 2 == 1 }

/-- The state of a thread in the order of R340's table.  DESIGN CHOICE: a reserved code of a tag in an image whose CRC matches
reads as NONE (R80 and R340 do not say; log 23). -/
def threadSlots : List (Slot Thread) :=
  [⟨8, fun t => t.pc.toNat, fun x t => { t with pc := Word.of x }⟩]
  ++ (List.range 31).map (fun i => ⟨8, fun t => (t.g[i + 1]?.getD 0).toNat, fun x t => { t with g := setVecAt t.g (i + 1) (Word.of x) }⟩)
  ++ (List.range 7).map (fun i => ⟨1, fun t => (t.p[i + 1]?.getD false).toNat, fun x t => { t with p := setVecAt t.p (i + 1) (x == 1) }⟩)
  ++ (List.range 32).map (fun i => ⟨32, fun t => (t.v[i]?.getD {}).bits.toNat, fun x t =>
      { t with v := setVecAt t.v i { (t.v[i]?.getD {}) with bits := BitVec.ofNat 256 x } }⟩)
  ++ (List.range 32).map (fun i => ⟨1, fun t => (t.v[i]?.getD {}).tag.code, fun x t =>
      { t with v := setVecAt t.v i { (t.v[i]?.getD {}) with tag := (tagOfCode x).getD .none } }⟩)
  ++ (List.range 16).map (fun i => ⟨256, fun t => (t.w[i]?.getD {}).bits.toNat, fun x t =>
      { t with w := setVecAt t.w i { (t.w[i]?.getD {}) with bits := BitVec.ofNat 2048 x } }⟩)
  ++ (List.range 16).map (fun i => ⟨1, fun t => (t.w[i]?.getD {}).tag.code, fun x t =>
      { t with w := setVecAt t.w i { (t.w[i]?.getD {}) with tag := (tagOfCode x).getD .none } }⟩)
  ++ (List.range 8).map (fun i => ⟨32, fun t => (t.m[i]?.getD 0).toNat, fun x t => { t with m := setVecAt t.m i (BitVec.ofNat 256 x) }⟩)
  ++ [⟨1, fun t => t.long.toNat, fun x t => { t with long := x == 1 }⟩]
  ++ (List.range 16).map (fun i => ⟨16, fun t => (t.decl[i]?.getD 0).toNat, fun x t => { t with decl := setVecAt t.decl i (BitVec.ofNat 128 x) }⟩)
  ++ (List.range 16).map (fun i => ⟨64, fun t => (t.syl[i]?.getD 0).toNat, fun x t => { t with syl := setVecAt t.syl i (BitVec.ofNat 512 x) }⟩)
  ++ [⟨8, fun t => t.fb.toNat, fun x t => { t with fb := BitVec.ofNat 64 x }⟩,
      ⟨8, fun t => match t.lastb with
        | some (o, p) => 2 ^ 63 + o * 2 ^ 16 + p
        | none => 0, fun x t => { t with lastb := if x / 2 ^ 63 = 1 then some (x / 2 ^ 16 % 2 ^ 47, x % 2 ^ 16) else none }⟩,
      ⟨8, fun t => match t.held with
        | some h => 2 ^ 63 + h
        | none => 0, fun x t => { t with held := if x / 2 ^ 63 = 1 then some (x % 2 ^ 63) else none }⟩]

/-- The registers that R324 marks T, in the order of their numbers, and the matrix class's own (R227). -/
def threadRegSlots : List (Slot Thread) :=
  [⟨8, fun t => t.tstatus.toNat, fun x t => { t with hnd := x / 2 % 2 == 1, sup := x % 2 == 1 }⟩,
   ⟨8, fun t => t.tsaved.toNat, fun x t => { t with tsaved := Word.of x }⟩,
   ⟨8, fun t => t.tepc.toNat, fun x t => { t with tepc := Word.of x }⟩,
   ⟨8, fun t => t.tcause.toNat, fun x t => { t with tcause := Word.of x }⟩,
   ⟨8, fun t => t.taddr.toNat, fun x t => { t with taddr := Word.of x }⟩,
   ⟨8, fun t => t.tvec.toNat, fun x t => { t with tvec := Word.of x }⟩,
   ⟨8, fun t => t.tscratch.toNat, fun x t => { t with tscratch := Word.of x }⟩,
   ⟨8, fun t => t.fflags.toNat, fun x t => { t with fflags := BitVec.ofNat 6 x }⟩,
   ⟨8, fun t => t.accr.toNat, fun x t => { t with accr := Word.of x }⟩]
  ++ (List.range 2).map (fun i => ⟨8, fun t => (t.lccnt[i]?.getD 0).toNat, fun x t => { t with lccnt := setVecAt t.lccnt i (Word.of x) }⟩)
  ++ (List.range 2).map (fun i => ⟨8, fun t => (t.lcbeg[i]?.getD 0).toNat, fun x t => { t with lcbeg := setVecAt t.lcbeg i (Word.of x) }⟩)
  ++ (List.range 2).map (fun i => ⟨8, fun t => (t.lcend[i]?.getD 0).toNat, fun x t => { t with lcend := setVecAt t.lcend i (Word.of x) }⟩)
  ++ [⟨8, fun t => t.lpipe.toNat, fun x t => { t with lpipe := BitVec.ofNat 6 x }⟩,
      ⟨8, fun t => t.tchain.toNat, fun x t => { t with tchain := Word.of x }⟩,
      ⟨8, fun t => t.frow.toNat * 2 ^ 40 + t.fop.toNat * 2 ^ 32 + t.disc.toNat * 2 ^ 24 + t.oob.toNat * 2 ^ 16, fun x t =>
        { t with frow := BitVec.ofNat 8 (x / 2 ^ 40), fop := BitVec.ofNat 8 (x / 2 ^ 32), disc := BitVec.ofNat 8 (x / 2 ^ 24)
                 oob := x / 2 ^ 16 % 2 == 1 }⟩,
      ⟨8, fun t => t.mfpc.toNat, fun x t => { t with mfpc := Word.of x }⟩,
      ⟨8, fun t => t.stage, fun x t => { t with stage := x % 4 }⟩,
      ⟨8, fun t => t.tdet.toNat, fun x t => { t with tdet := x == 1 }⟩,
      ⟨8, fun t => if t.status = .ended then 1 else 0, fun x t => { t with status := if x = 1 then .ended else .stopped }⟩,
      ⟨8, fun t => match t.origin with
        | some o => 2 ^ 63 + o
        | none => 0, fun x t => { t with origin := if x / 2 ^ 63 = 1 then some (x % 2 ^ 63) else none }⟩]

/-- The arrivals of `BARRW`s that have yet to end (R264): of each its object and its pc. -/
def arrivalSlots : List (Slot Thread) :=
  (List.range 2).flatMap (fun i =>
    [⟨8, fun t => match t.barrw[i]? with
       | some (o, _) => 2 ^ 63 + o
       | none => 0, fun x t => { t with barrw := if x / 2 ^ 63 = 1 then t.barrw ++ [(x % 2 ^ 63, 0)] else t.barrw }⟩,
     ⟨8, fun t => match t.barrw[i]? with
       | some (_, p) => p.toNat
       | none => 0, fun x t => { t with barrw := t.barrw.zipIdx.map (fun (b, j) => if j = i then (b.1, Word.of x) else b) }⟩])

def allThreadSlots : List (Slot Thread) := threadSlots ++ threadRegSlots ++ arrivalSlots

/-- The offset after the fields of a section that begins at `off`. -/
def slotsEnd {α : Type} : List (Slot α) → Nat → Nat
  | [], off => off
  | f :: fs, off => slotsEnd fs (off + (f.n - off % f.n) % f.n + f.n)

/-- Pending causes for which a thread's section has room; further ones go with the supervisor's record (R340; log 23). -/
def causesFit : Nat := (0x2000 - slotsEnd allThreadSlots 0 - 8) / 16

/-- The section of a thread, and its pending asynchronous causes. -/
def threadSection (t : Thread) : List Byte :=
  let ps := t.pending.take causesFit
  encodeSlots t allThreadSlots 0 ++ encodeWords (ps.length :: ps.flatMap TrapInfo.words)

def readThread (bs : List Byte) : Thread :=
  let (t, rest) := decodeSlots allThreadSlots 0 bs ({} : Thread)
  let (ps, _) := (rdList 64 rdTrap) (decodeWords 256 rest)
  { t with pending := ps }

/-! ## Teams -/

def EntryKind.code : EntryKind → Nat
  | .draw => 1 | .stow => 2 | .draws => 3 | .stows => 4 | .dzero => 5 | .dcopy => 6 | .counters => 7

/-- Bits laid side by side, the first lowest. -/
def packBits (bs : List Bool) : Nat := bs.foldr (fun b n => b.toNat + 2 * n) 0

/-- Bytes in whole words, the last filled with zeros. -/
def wholeWords8 (bs : List Byte) : List Nat := (List.range ((bs.length + 7) / 8)).map (fun i => natOfBytes ((bs.drop (8 * i)).take 8))

/-- `n` bytes written in whole words. -/
def rdBytes (n : Nat) : Rd (List Byte) := do
  let ws ← rdMany rd ((n + 7) / 8)
  pure ((ws.flatMap (bytesOf 8)).take n)

/-- A transfer entry, with the bytes read from its source that wait to be delivered; threads are written by their place on the
core. -/
def Entry.words (e : Entry) : List Nat :=
  [threadIndex e.tid + e.kind.code * 2 ^ 3 + packBits [e.sup, e.chained, e.started, e.cleared] * 2 ^ 6
     + e.carry.length * 2 ^ 12 + e.ext.toNat * 2 ^ 32,
   e.opd.toNat, e.opa.toNat, e.opb.toNat, e.accr.toNat, e.done] ++ wholeWords8 e.carry

def rdEntry (core : Nat) : Rd Entry := do
  let w ← rd
  let opd ← rd
  let opa ← rd
  let opb ← rd
  let accr ← rd
  let done ← rd
  let carry ← rdBytes (w / 2 ^ 12 % 2 ^ 16)
  pure { tid := 8 * core + w % 8, kind := (kindOfCode (w / 2 ^ 3 % 8)).getD .counters, ext := BitVec.ofNat 32 (w / 2 ^ 32)
         opd := Word.of opd, opa := Word.of opa, opb := Word.of opb, accr := Word.of accr, done, carry
         sup := w.testBit 6, chained := w.testBit 7, started := w.testBit 8, cleared := w.testBit 9 }

def ChannelState.words (k : ChannelState) : List Nat :=
  (match k.fault with
   | some f => [1, f.cause.code, f.sub, f.addr.toNat, f.bump.toNat]
   | none => [0, 0, 0, 0, 0])
  ++ (match k.held with
   | some (t, c, a, n, x) => [1, threadIndex t, c, a.toNat, n, x.toNat]
   | none => [0, 0, 0, 0, 0, 0])
  ++ (match k.refuser with
   | some c => 1 :: optWords c
   | none => [0, 0, 0])
  ++ [k.first.toNat, k.chn.toNat, k.running.toNat, k.kreq.toNat, k.cpos, k.next, threadIndex k.kicker, k.ksup.toNat,
      k.linker, k.pick, k.blame, k.queue.length]
  ++ k.queue.flatMap Entry.words

def rdChannel (core : Nat) : Rd ChannelState := do
  let f ← rdBool
  let fc ← rd
  let fs ← rd
  let fa ← rd
  let fb ← rdBool
  let h ← rdBool
  let ht ← rd
  let hc ← rd
  let ha ← rd
  let hn ← rd
  let hx ← rdBool
  let u ← rdBool
  let ua ← rdOpt
  let first ← rdBool
  let chn ← rdBool
  let running ← rdBool
  let kreq ← rdBool
  let cpos ← rd
  let next ← rd
  let kicker ← rd
  let ksup ← rdBool
  let linker ← rd
  let pick ← rd
  let blame ← rd
  let queue ← rdList 16 (rdEntry core)
  pure { queue, fault := if f then some ⟨causeOfCode fc, fs, Word.of fa, fb⟩ else none
         held := if h then some (8 * core + ht % 8, hc, Word.of ha, hn, hx) else none
         refuser := if u then some ua else none
         first, chn, running, kreq, cpos, next, kicker := 8 * core + kicker % 8, ksup, linker, pick, blame, stopping := true }

/-- A staged message (R267): three words for its header and state, its fault if it has one, and its payload. -/
def Req.words (r : Req) : List Nat :=
  let fault := match r.st with
    | .faulted t => t.words
    | _ => []
  let st := match r.st with
    | .refused => 1
    | .faulted _ => 2
    | _ => 0
  let (tag, kind, p) := match r.body with
    | .message tag kind p => (tag, kind, p)
    | _ => (0, 0, [])
  let w := threadIndex r.tid + packBits [r.stream.isSome, r.dst.isSome, r.window, r.sup, r.first, r.left, r.retry] * 2 ^ 3
    + r.stream.getD 0 * 2 ^ 10 + st * 2 ^ 14 + kind * 2 ^ 16 + p.length * 2 ^ 19 + r.dst.getD 0 * 2 ^ 33
  [w, r.ea.toNat, tag % 2 ^ 32 + r.gen * 2 ^ 32] ++ fault ++ wholeWords8 p

def rdReq (core : Nat) (part : Option Nat) : Rd Req := do
  let w ← rd
  let ea ← rd
  let x ← rd
  let st := w / 2 ^ 14 % 4
  let ti ← if st = 2 then rdTrap else pure { cause := .illegal }
  let p ← rdBytes (w / 2 ^ 19 % 2 ^ 14)
  pure { id := 0, tid := 8 * core + w % 8, src := core, ea := Word.of ea, part, gen := x / 2 ^ 32
         stream := if w.testBit 3 then some (w / 2 ^ 10 % 16) else none
         dst := if w.testBit 4 then some (w / 2 ^ 33) else none
         window := w.testBit 5, sup := w.testBit 6, first := w.testBit 7, left := w.testBit 8, retry := w.testBit 9
         st := if st = 1 then .refused else if st = 2 then .faulted ti else .waiting
         body := .message (x % 2 ^ 32) (w / 2 ^ 16 % 8) p }

/-- The team registers that R324 marks M, in the order of their numbers. -/
def coreSlots : List (Slot Core) :=
  [⟨8, fun k => k.partw.toNat, fun x k => { k with partw := Word.of x }⟩,
   ⟨8, fun k => k.winst.toNat, fun x k => { k with winst := Word.of x }⟩,
   ⟨8, fun k => k.frozen.toNat * 2 ^ 48, fun x k => { k with frozen := BitVec.ofNat 16 (x / 2 ^ 48) }⟩,
   ⟨8, fun k => k.rqcfg.toNat, fun x k => { k with rqcfg := Word.of x }⟩,
   ⟨8, fun k => k.rqptr.toNat, fun x k => { k with rqptr := Word.of x }⟩]
  ++ (List.range 4).map (fun i => ⟨8, fun k => (k.pub[i]?.getD 0).toNat, fun x k => { k with pub := setVecAt k.pub i (Word.of x) }⟩)
  ++ (List.range 16).map (fun i => ⟨8, fun k => (k.cc[i]?.getD 0).toNat, fun x k => { k with cc := setVecAt k.cc i (BitVec.ofNat 32 x) }⟩)
  ++ (List.range 4).map (fun i => ⟨8, fun k => (k.wp[i]?.getD 0).toNat, fun x k => { k with wp := setVecAt k.wp i (Word.of x) }⟩)

/-- Identifiers of the Elision set, two in a word. -/
def pairWords : List (BitVec 32) → List Nat
  | a :: b :: l => (a.toNat + b.toNat * 2 ^ 32) :: pairWords l
  | [a] => [a.toNat]
  | [] => []

/-- The section of a team: its registers, whether it was halted, its detachment, its channels, its staged messages and its
Elision set. -/
def teamSection (k : Core) (tm : Team) (staged : List Req) : List Byte :=
  encodeSlots k coreSlots 0 ++ encodeWords (
    [if tm.status = .halted then 1 else 0, tm.mdet.toNat]
    ++ k.chans.toList.flatMap ChannelState.words
    ++ staged.length :: staged.flatMap Req.words
    ++ k.elision.length :: pairWords k.elision)

/-- What a team section restores. -/
structure TeamImage where
  core : Core
  halted : Bool
  mdet : Bool
  staged : List Req

/-- A team section read back into a core. -/
def readTeam (core : Nat) (part : Option Nat) (bs : List Byte) (k : Core) : TeamImage :=
  let (k, rest) := decodeSlots coreSlots 0 bs k
  let p : Rd TeamImage := do
    let halted ← rdBool
    let mdet ← rdBool
    let chans ← rdMany (rdChannel core) 4
    let staged ← rdList 1024 (rdReq core part)
    let n ← rd
    let el ← rdMany rd ((Min.min n 4096 + 1) / 2)
    let ids := (el.flatMap (fun x => [BitVec.ofNat 32 x, BitVec.ofNat 32 (x / 2 ^ 32)])).take n
    pure { core := { k with chans := Vector.ofFn (fun i => chans.getD i.val {}), elision := ids }, halted, mdet, staged }
  (p (decodeWords 8192 rest)).1

/-! ## Matrix state (R227) -/

def matrixSection (k : Core) : List Byte :=
  k.lexicon.toList.flatMap (fun t => bytesOf 32 t.toNat)
  ++ (List.range 256).flatMap (fun i => bytesOf 1088 (k.latch.getD i {}).data.toNat)
  ++ (List.range 256).flatMap (fun i => bytesOf 1 (k.latch.getD i {}).tag.code)
  ++ k.bbufs.toList.flatMap (fun b => (List.range 64).flatMap (fun i => bytesOf 1088 (b.cols.getD i 0).toNat))
  ++ k.bbufs.toList.flatMap (fun b => bytesOf 1 b.tag.code)
  ++ k.infl.toList.flatMap (fun p => match p with
    | some x => bytesOf 32 x.toNat ++ [1]
    | none => bytesOf 33 0)

def readMatrix (bs : List Byte) (k : Core) : Core :=
  let num := fun (o n : Nat) => natOfBytes ((bs.drop o).take n)
  let o1 := 64 * 32
  let o2 := o1 + 256 * 1088
  let o3 := o2 + 256
  let o4 := o3 + 4 * 64 * 1088
  let o5 := o4 + 4
  { k with
    lexicon := Vector.ofFn (fun i => BitVec.ofNat 256 (num (32 * i.val) 32))
    latch := (List.range 256).map (fun i =>
      (i, { data := BitVec.ofNat 8704 (num (o1 + 1088 * i) 1088), tag := (tagOfCode (num (o2 + i) 1)).getD .none }))
    bbufs := Vector.ofFn (fun b =>
      { tag := (tagOfCode (num (o4 + b.val) 1)).getD .none
        cols := (List.range 64).map (fun i => (i, BitVec.ofNat 8704 (num (o3 + 1088 * (64 * b.val + i)) 1088))) })
    infl := Vector.ofFn (fun a => if num (o5 + 33 * a.val + 32) 1 = 1 then some (BitVec.ofNat 256 (num (o5 + 33 * a.val) 32)) else none) }

/-! ## The image (R340) -/

/-- CRC-64/ECMA-182. -/
def crcStep (c : BitVec 64) : Nat → BitVec 64
  | 0 => c
  | n + 1 => crcStep (if c.msb then (c <<< 1) ^^^ 0x42F0E1EBA9EA3693#64 else c <<< 1) n

def crc64 (bs : List Byte) : BitVec 64 :=
  bs.foldl (fun c b => crcStep (c ^^^ ((b.setWidth 64 : BitVec 64) <<< 56)) 8) 0

/-- A section filled with zeros to its length. -/
def padTo (n : Nat) (bs : List Byte) : List Byte := (bs ++ List.replicate (n - bs.length) 0).take n

def kindCode : CoreKind → Nat
  | .lookup => 0 | .dcc => 1 | .super => 2

def imageSize (k : CoreKind) : Nat := 2 ^ 17 + poolSize k + (if k = .dcc then 2 ^ 20 else 0)

/-- A request is a message. -/
def Req.staged (r : Req) : Bool :=
  match r.body with
  | .message .. => true
  | _ => false

/-- Packets of the core's threads that go with the context: messages in the image, others with the supervisor's record. -/
def State.stagedReqs (s : State) (c : Nat) : List Req := s.reqs.filter (fun r => r.src == c)

/-- Bytes 64 onward of the image of the team on a core. -/
def State.imageBody (s : State) (c : Nat) (tm : Team) : List Byte :=
  let kind := kindOfCore c
  List.replicate (0x1000 - 64) 0
  ++ (List.range 8).flatMap (fun i => padTo 0x2000 (if i < tm.threads then threadSection (s.thread (8 * c + i)) else []))
  ++ padTo 0xF000 (teamSection (s.core c) tm ((s.stagedReqs c).filter Req.staged))
  ++ (List.range (poolSize kind)).map (fun o => s.mem.read (poolKey c o))
  ++ (if kind = .dcc then padTo (2 ^ 20) (matrixSection (s.core c)) else [])

/-- The header. -/
def State.imageHeader (s : State) (c : Nat) (tm : Team) (crc : BitVec 64) : List Byte :=
  let addr := ((s.launches.get? tm.launch).map (fun l => l.addr.toNat)).getD 0
  bytesOf 8 (kindCode (kindOfCore c) + tm.threads * 256) ++ bytesOf 8 (imageSize (kindOfCore c))
  ++ bytesOf 8 (s.timens (moduleOfCore c)) ++ bytesOf 8 addr ++ bytesOf 4 tm.index ++ bytesOf 20 0 ++ bytesOf 8 crc.toNat

/-- Translation of an access to an image: in the target's partition, by the supervisor's right (R147, R339), with a walk of
its own, which sets A, and D for a write that passes (R374).  DESIGN CHOICE: a tolerant or reduction page is refused with
`PAGE_PROT` (R93 and R340 do not say; log 23). -/
def State.imagePlace (s : State) (m : Nat) (part : Option Nat) (va : Nat) (write : Bool) : Except Cause Place × State :=
  if 2 ^ 57 ≤ va then (.error .pageFault, s)
  else
    let (t, l) := s.deviceWalk m va 5 5 (s.partition m part).root
    let s := l.foldl (fun s pa => s.readAt m pa 8 false) s
    match t with
    | .fault c _ => (.error c, s)
    | .miss => (.error .pageFault, s)
    | .ok p =>
      let passes := (!write || pteW p.pte) && !pteTOL p.pte && !pteRED p.pte
      let s := s.orPte m p.leaf (if write && passes then bitA ||| bitD else bitA)
      (if passes then .ok p else .error .pageProt, s)

/-- Writes the image 64 bytes at a time: the failure, if it fails. -/
def State.imageWrite (s : State) (m : Nat) (part : Option Nat) : Nat → Nat → List Byte → Option Cause × State
  | 0, _, _ => (none, s)
  | fuel + 1, va, bs =>
    if bs.isEmpty then (none, s)
    else
      match s.imagePlace m part va true with
      | (.error c, s) => (some c, s)
      | (.ok p, s) =>
        if !memoryAt p.pa then (some .memsideError, s)
        else State.imageWrite ((s.touch m p.pa (ptePIN p.pte)).unitWrite m p.pa (bs.take 64)) m part fuel (va + 64) (bs.drop 64)

/-- Reads `n` times 64 bytes of the image. -/
def State.imageRead (s : State) (m : Nat) (part : Option Nat) (va : Nat) : Nat → Except Cause (List Byte) × State
  | 0 => (.ok [], s)
  | n + 1 =>
    match s.imagePlace m part va false with
    | (.error c, s) => (.error c, s)
    | (.ok p, s) =>
      match s.dramFault m p.pa 64 with
      | some (c, _) => (.error c, s)
      | none =>
        match (s.readAt m p.pa 64 (ptePIN p.pte)).imageRead m part (va + 64) n with
        | (.ok bs, t) => (.ok (s.dramBytes m p.pa 64 ++ bs), t)
        | r => r

/-! ## Stopping (R339) -/

/-- Waits that run on to their end before the thread stops: an `HSEED`, whose entries would otherwise be applied twice, and
a trap on its way. -/
def Wait.uninterruptible : Wait → Bool
  | .trap _ | .hseed _ _ _ | .context _ _ => true
  | _ => false

/-- The thread stops at its next boundary, a waiting one at its waiting instruction; a bundle whose wait is over has its
effect first. -/
def Thread.halted (t : Thread) : Thread :=
  match t.status, t.wait with
  | .running, _ => if t.granted then t else { t with status := .stopped, granted := false, windows := [] }
  | .waiting, some w =>
    if w.uninterruptible then t else { t with status := .stopped, wait := none, granted := false, windows := [] }
  | .waiting, none => { t with status := .stopped }
  | _, _ => t

/-- Issue stops on a core, and its channels start no further entry. -/
def State.requestStop (s : State) (c : Nat) : State :=
  let s := (List.range 8).foldl (fun s i =>
    let t := s.thread (8 * c + i)
    if t.status = .running ∨ t.status = .waiting then s.setThread (8 * c + i) t.halted else s) s
  s.modCore c (fun k => { k with chans := k.chans.map (fun h => { h with stopping := true }) })

/-- A packet that the context takes with it: a staged message that has not left, or one that waits on a frozen stream. -/
def State.stays (s : State) (r : Req) : Bool :=
  match r.st with
  | .faulted _ => true
  | .refused => true
  | .waiting =>
    (match r.stream with
     | some k => s.isFrozen r.src k
     | none => false) || (match r.body with
     | .message .. => !r.left
     | _ => false)
  | _ => false

/-- The work in flight of a core has come to its end (R339); a remote bump that its target has refused is waited for until it
has been accepted or discarded (R162). -/
def State.quiet (s : State) (c : Nat) : Bool :=
  (List.range 8).all (fun i => let t := s.thread (8 * c + i)
    t.status != .running && t.status != .waiting && t.outstanding.all (fun o => o.ended || s.reqs.any (fun r => r.id == o.id && s.stays r)))
  && (s.core c).chans.toList.all (fun k => k.held.isNone && (k.fault.isSome || k.queue.all (fun e => !e.started)))
  && (s.core c).mqueue.isEmpty
  && s.lookups.all (fun l => l.core != c) && s.elisions.all (fun l => l.core != c)
  && s.reqs.all (fun r => r.src != c || s.stays r)

/-- The team of a core stops for good: its status says so. -/
def State.markStopped (s : State) (c : Nat) : State :=
  s.modCore c (fun k => { k with
    team := k.team.map (fun t => if t.status = .running ∨ t.status = .held then { t with status := .stopped } else t) })

/-- What the operations of `CTXSV` and `CTXLD` end with: a state and a STATUS. -/
abbrev ContextEnd := State × Nat

/-- The core is freed of its team, with the packets, the walks and the channel faults still to be reported that were its. -/
def State.vacate (s : State) (c : Nat) : State :=
  let s := { s with
    reqs := s.reqs.filter (fun r => r.src != c)
    walks := s.walks.filter (fun w => !((List.range 8).any (fun i => w.req == reqThread (8 * c + i) || w.req == reqFetch (8 * c + i))
      || (List.range 4).any (fun ch => w.req == reqChannel c ch)))
    agenda := s.agenda.filter (fun e => match e with
      | .channelFault core _ _ _ _ => core != c
      | _ => true) }
  s.freeCore c

/-- What the die supervisor keeps of a team that is saved. -/
def State.savedRecord (s : State) (c : Nat) (tm : Team) : SavedTeam :=
  let k := s.core c
  { home := c, launch := tm.launch, index := tm.index, part := tm.part, cc := k.cc, rqcfg := k.rqcfg
    held := (s.stagedReqs c).map (fun r => if r.staged then none else some r)
    pending := (List.range tm.threads).flatMap (fun i => ((s.thread (8 * c + i)).pending.drop causesFit).map (fun y => (i, y)))
    flipped := k.flipped, poisoned := k.poisoned, latchBad := k.latchBad, bufBad := k.bufBad, inflBad := k.inflBad
    badRegs := (List.range 8).map (fun i => (s.thread (8 * c + i)).badRegs)
    flipRegs := (List.range 8).map (fun i => (s.thread (8 * c + i)).flipRegs) }

/-- SAVE of a quiet team (R339, R340).  What the team has written through its quad's cache is released first (R254, R295). -/
def State.saveTeam (s : State) (c : Nat) (tm : Team) (area : Nat) : ContextEnd :=
  let m := moduleOfCore c
  let s := ((List.range 8).foldl (fun s i => s.drainAll (8 * c + i)) s).releaseCore c 4
  let body := s.imageBody c tm
  let image := s.imageHeader c tm (crc64 body) ++ body
  match s.imageWrite m (s.partOfCore c) (image.length / 64 + 1) area image with
  | (some e, s) => (s.markStopped c, 5 + e.code * 256)
  | (none, s) =>
    let s : State := { s with saved := s.saved ++ [s.savedRecord c tm] }
    let s := s.modLaunch tm.launch (fun l => { l with
      teams := l.teams.modify tm.index (fun t => { t with saved := true, gone := s.memberGone tm.launch t }) })
    (s.vacate c, 1)

/-- DISCARD of a quiet team (R339). -/
def State.discardTeam (s : State) (c : Nat) (tm : Team) : ContextEnd :=
  let s := s.vacate c
  let win := ((s.launches.get? tm.launch).map (fun l => l.win)).getD false
  let s := s.setFate tm.launch tm.index (if tm.status = .halted then .halted else .withdrawn)
  (if win then s.emit (.windowDepart tm.launch) else s, 1)

/-- A packet comes back into the machine with its context; a read that waits on it holds its registers (R36). -/
def State.restoreReq (s : State) (r : Req) : State :=
  let (id, s) := s.fresh
  let s := { s with reqs := s.reqs ++ [{ r with id }] }
  let ended := match r.st with
    | .faulted _ => true
    | _ => false
  match r.body with
  | .read _ _ d | .amo _ _ _ _ d _ => s.modThread r.tid (fun t => { t with outstanding := t.outstanding ++ [{ id, writes := gs [d], ended }] })
  | _ => s

/-- The saved team that an image's block address and index name. -/
def State.savedOf (s : State) (addr index : Nat) : Option SavedTeam :=
  s.saved.find? (fun x => x.index == index && (s.launches.get? x.launch).any (fun l => l.addr.toNat == addr))

/-- Bytes of a saved team's body; the offsets are the image's (R340). -/
def bodyAt (body : List Byte) (o n : Nat) : List Byte := (body.drop (o - 64)).take n

/-- The team's section of a body. -/
def teamImage (c : Nat) (part : Option Nat) (body : List Byte) (k : Core) : TeamImage :=
  readTeam c part (bodyAt body 0x11000 0xF000) k

/-- What takes the place of the supervisor's record for an image of which it keeps none: a team of the core's partition and of
the launch that the header names, or of none (log 23). -/
def State.strayTeam (s : State) (c addr index : Nat) (body : List Byte) : SavedTeam :=
  let k := (teamImage c (s.partOfCore c) body {}).core
  let launch := ((s.launches.find? (fun (_, l) => l.addr.toNat == addr)).map (fun e => e.1)).getD s.nextId
  { home := c, launch, index, part := s.partOfCore c, cc := k.cc, rqcfg := k.rqcfg }

/-- The core that a saved team returns to, with its state of R340. -/
def Core.landed (k : Core) (c : Nat) (x : SavedTeam) (threads : Nat) (body : List Byte) : Core :=
  let i := teamImage c x.part body { k with refusing := [], halt := none, mqueue := [] }
  let k := { i.core with
    cc := x.cc, rqcfg := x.rqcfg, flipped := x.flipped, poisoned := x.poisoned
    latchBad := x.latchBad, bufBad := x.bufBad, inflBad := x.inflBad
    team := some { launch := x.launch, index := x.index, threads, part := x.part
                   status := if i.halted then .halted else .stopped, mdet := i.mdet, latched := true } }
  if kindOfCore c = .dcc then readMatrix (bodyAt body (0x20000 + poolSize .dcc) (2 ^ 20)) k else k

/-- A thread of a saved team, with the causes that came for it meanwhile. -/
def SavedTeam.thread (x : SavedTeam) (i : Nat) (body : List Byte) : Thread :=
  let t := readThread (bodyAt body (0x1000 + 0x2000 * i) 0x2000)
  { t with pending := t.pending ++ (x.pending.filter (fun y => y.1 == i)).map (fun y => y.2)
           badRegs := x.badRegs.getD i [], flipRegs := x.flipRegs.getD i [] }

/-- Packets in their order: those of the record, with the messages of the image in their places. -/
def mergeHeld : List (Option Req) → List Req → List Req
  | some r :: l, ms => r :: mergeHeld l ms
  | none :: l, m :: ms => m :: mergeHeld l ms
  | none :: l, [] => mergeHeld l []
  | [], ms => ms

/-- The packets of a saved team, on a core. -/
def SavedTeam.reqs (x : SavedTeam) (c : Nat) (body : List Byte) : List Req :=
  mergeHeld (x.held.map (fun o => o.map (fun r => { r with src := c, tid := 8 * c + threadIndex r.tid })))
    (teamImage c x.part body {}).staged

/-- The pool of a saved team comes back. -/
def State.landPool (s : State) (c : Nat) (body : List Byte) : State :=
  { s with mem := (s.mem.clear (poolKey c 0) (poolKey c (poolSize (kindOfCore c)))).writeBytes (poolKey c 0)
             (bodyAt body 0x20000 (poolSize (kindOfCore c))) }

/-- A saved team comes into a free core (R339, R340); its NGONE counts the members that have gone meanwhile (R298). -/
def State.landTeam (s : State) (c : Nat) (x : SavedTeam) (threads : Nat) (body : List Byte) : State :=
  let s := s.setCore c ((s.core c).landed c x threads body)
  let s := (List.range (Min.min threads 8)).foldl (fun s i => s.setThread (8 * c + i) (x.thread i body)) s
  let s := { s.landPool c body with saved := s.saved.filter (fun y => !(y.launch == x.launch && y.index == x.index)) }
  let s := (x.reqs c body).foldl State.restoreReq s
  let s := s.modLaunch x.launch (fun l => { l with
    teams := l.teams.modify x.index (fun t => { t with core := some c, saved := false }) })
  if ((s.launches.get? x.launch).map Launch.win).getD false then s.countGone x.launch else s

/-- LOAD (R339, R340). -/
def State.loadTeam (s : State) (c : Nat) (area : Nat) : ContextEnd :=
  let kind := kindOfCore c
  let m := moduleOfCore c
  let part := s.partOfCore c
  if !s.coreFree c then (s, 3)
  else
    match s.imageRead m part area 1 with
    | (.error e, s) => (s, 5 + e.code * 256)
    | (.ok h, s) =>
      let num := fun (o n : Nat) => natOfBytes ((h.drop o).take n)
      if num 0 1 ≠ kindCode kind then (s, 4)
      else
        match s.imageRead m part (area + 64) (imageSize kind / 64 - 1) with
        | (.error e, s) => (s, 5 + e.code * 256)
        | (.ok body, s) =>
          if num 56 8 ≠ (crc64 body).toNat then (s, 4)
          else
            match s.savedOf (num 24 8) (num 32 4) with
            | some x => (s.landTeam c x (num 1 1) body, 1)
            | none =>
              let x := s.strayTeam c (num 24 8) (num 32 4) body
              ({ s with nextId := s.nextId + 1 }.landTeam c x (num 1 1) body, 1)

/-- The members of a launch that count as stopped go on doing so until each one's own START (R367). -/
def State.latchStopped (s : State) (id : Nat) : State :=
  { s with cores := s.cores.map (fun e => (e.1, { e.2 with team := e.2.team.map (fun t =>
      if t.launch = id ∧ s.countsStopped t = true then { t with latched := true } else t) })) }

/-- What a stopped team is after START: a window member whose threads have all exited is held again (R299). -/
def State.startedStatus (s : State) (tm : Team) : TeamStatus :=
  if ((s.launches.get? tm.launch).bind (fun l => l.teams[tm.index]?)).any (fun t => t.fate == .held) then .held else .running

/-- START (R339): every thread of the stopped team resumes issue, and its channels and staged packets go on. -/
def State.startStopped (s : State) (c : Nat) : ContextEnd :=
  match (s.core c).team with
  | none => (s, 2)
  | some tm =>
    if tm.status ≠ .stopped then (s, 2)
    else
      let s := (s.latchStopped tm.launch).modCore c (fun k => { k with
        team := some { tm with status := s.startedStatus tm, latched := false }, chans := k.chans.map (fun h => { h with stopping := false }) })
      let s := (List.range 8).foldl (fun s i =>
        let t := s.thread (8 * c + i)
        if t.status = .stopped then s.setThread (8 * c + i) { t with status := .running, windows := [] } else s) s
      let s := (List.range 4).foldl (fun s i => s.goOn c (chOf i)) s
      let s := s.emits ((s.stagedReqs c).filterMap (fun r => match r.st with
        | .waiting => some r.event
        | .refused => some (.retryTimer c (r.stream.getD 0))
        | _ => none))
      (s, 1)

/-! ## The instructions -/

/-- TARGET, AREA and OP of a command block; AREA is a multiple of 4096, and lower bits count as zero (log 23). -/
def State.ctxTarget (s : State) (tid block : Nat) : Word := Word.of (s.ownNat tid block 8)
def State.ctxArea (s : State) (tid block : Nat) : Nat := s.ownNat tid (block + 8) 8 / 4096 * 4096
def State.ctxOp (s : State) (tid block : Nat) : Nat := s.ownNat tid (block + 16) 1

def targetCore (a : Word) : Nat :=
  match addrForm a with
  | .core c _ => c
  | _ => 0

/-- The issue of `CTXSV` and `CTXLD` (R339); operations 0–2 and 3–5.  The block's address is checked under R130; the order of
the checks after it is the model's (log 32). -/
def contextIssue (load : Bool) (g : Guard) (a : GReg) (s : State) : Host.Outcome State Fault Refusal :=
  issue { metaG 0x3E g [] [a] with priv := true } s (fun s =>
    let b := s.localAddr (s.g a)
    match s.checkLocal b 32 32 with
    | some t => .trap t s
    | none =>
      let target := s.ctxTarget s.cur b
      let op := s.ctxOp s.cur b
      if s.ownBad s.cur b 24 then .trap (eccTrap b) s
      else if addrForm target = .nonCanonical then trapOf s .pageFault target 1
      else if (match addrForm target with
          | .core c _ => c == s.myCore
          | _ => true) || decide (2 < op) || s.ownNat s.cur (b + 17) 7 != 0 then trapOf s .illegal
      else if s.src.granted then .retire s
      else .block (.context (op + (if load then 3 else 0)) b) (s.poolCorrect s.myCore b 24))

/-- The word `CTXSV`: the row `ctxsvStop`, with SAVE and DISCARD as rows of their own (R339). -/
def execCtxsvStop (g : Guard) (a : GReg) (s : State) : Host.Outcome State Fault Refusal := contextIssue false g a s

/-- The word `CTXLD`: the row `ctxldLoad`, with START and LOAD and START as rows of their own (R339). -/
def execCtxldLoad (g : Guard) (a : GReg) (s : State) : Host.Outcome State Fault Refusal := contextIssue true g a s

/-- The team of a quiet core stays, goes to memory, or is discarded (R339). -/
def State.contextEnd (s : State) (op c : Nat) (tm : Team) (area : Nat) : State × Option Nat :=
  match op with
  | 0 => (s.markStopped c, some 1)
  | 1 => ((s.saveTeam c tm area).1, some (s.saveTeam c tm area).2)
  | _ => ((s.discardTeam c tm).1, some (s.discardTeam c tm).2)

/-- What an operation comes to now: nothing yet while a team's work is in flight. -/
def State.contextTry (s : State) (op c area : Nat) : State × Option Nat :=
  if op < 3 then
    if (s.core c).team.isNone then (s, some 2)
    else if !(s.requestStop c).quiet c then (s.requestStop c, none)
    else
      match ((s.requestStop c).core c).team with
      | none => (s.requestStop c, some 2)
      | some tm => (s.requestStop c).contextEnd op c tm area
  else if op = 3 then ((s.loadTeam c area).1, some (s.loadTeam c area).2)
  else if op = 4 then ((s.startStopped c).1, some (s.startStopped c).2)
  else if (s.loadTeam c area).2 = 1 then
    (((s.loadTeam c area).1.startStopped c).1, some ((s.loadTeam c area).1.startStopped c).2)
  else ((s.loadTeam c area).1, some (s.loadTeam c area).2)

/-- A waiting `CTXSV` or `CTXLD` goes on: its operation, and then its STATUS. -/
def State.contextGo (s : State) (tid : Nat) (op : Nat) : State :=
  match (s.thread tid).status, (s.thread tid).wait with
  | .waiting, some (.context o b) =>
    if o ≠ op then s
    else
      match s.contextTry op (targetCore (s.ctxTarget tid b)) (s.ctxArea tid b) with
      | (s, none) => s
      | (s, some st) =>
        (s.ownWrite tid (b + 24) (bytesOf 8 st)).wake tid (fun _ _ => true) (fun _ s => .retire s)
  | _, _ => s

/-- The row `ctxsvSave` (R339). -/
def execCtxsvSave (tid : Nat) (s : State) : Host.Outcome State Fault Refusal := .next (s.contextGo tid 1)

/-- The row `ctxsvDiscard` (R339). -/
def execCtxsvDiscard (tid : Nat) (s : State) : Host.Outcome State Fault Refusal := .next (s.contextGo tid 2)

/-- The row `ctxldStart` (R339). -/
def execCtxldStart (tid : Nat) (s : State) : Host.Outcome State Fault Refusal := .next (s.contextGo tid 4)

/-- The row `ctxldLoadStart` (R339). -/
def execCtxldLoadStart (tid : Nat) (s : State) : Host.Outcome State Fault Refusal := .next (s.contextGo tid 5)

end Sys2Proof.Machine
end

