-- ==== Sys2Proof/Machine/Control.lean ====
section
/-!
DEFINITION. Sys2Proof/Machine/Control.lean: branches, calls, jumps, hints, and hardware loops (R68–R79).
-/
namespace Sys2Proof.Machine

/-- The address after the instruction, or after its bundle on the DCC. -/
def State.nextPc (s : State) (words : Nat) : Word := s.src.pc + Word.of (s.issueBytes words)

/-- A branch's target (R29): offset20 counts words, or bundles on the DCC. -/
def State.branchTarget (s : State) (off : BitVec 20) : Word :=
  s.src.pc + (if s.kind = .dcc then 16 else 4) * off.signExtend 64

/-- A branch, jump or return that leaves a loop's body ends the loop, but not while a handler runs (R74, R75). -/
def State.leave (s : State) (t : Word) : State := if s.th.hnd then s else s.modTh (fun th => leaveLoops th t)

/-- Goes to a checked target; a branch, jump or return ends the loops that it leaves (R28, R69, R74), in a bundle after the
other slots (R41). -/
def State.goTo (s : State) (t : Word) (leaves : Bool) : Res :=
  match s.checkTarget t with
  | some ti => .trap ti s
  | none =>
    if !leaves then .jump s t
    else match s.bundle with
      | some b => .jump { s with bundle := some { b with leaves := true } } t
      | none => .jump (s.leave t) t

/-- `BR` (R68). -/
def execBr (g : Guard) (off : BitVec 20) (s : State) : Host.Outcome State Fault Refusal :=
  issue { major := 0x0C, guard := g } s (fun s => s.goTo (s.branchTarget off) true)

/-- `CALL`: `g31` receives the address after it; a call never ends a loop (R68, R74). -/
def execCall (g : Guard) (off : BitVec 20) (s : State) : Host.Outcome State Fault Refusal :=
  issue { major := 0x0D, guard := g, writes := gs [31] } s (fun s =>
    match s.checkTarget (s.branchTarget off) with
    | some ti => .trap ti s
    | none => .jump (s.setG 31 (s.nextPc 1)) (s.branchTarget off))

/-- `JR` (R69). -/
def execJr (g : Guard) (a : GReg) (s : State) : Host.Outcome State Fault Refusal :=
  issue { major := 0x0E, guard := g, reads := gs [a] } s (fun s => s.goTo (s.g a) true)

/-- `RET` jumps to `g31` (R69). -/
def execRet (g : Guard) (s : State) : Host.Outcome State Fault Refusal :=
  issue { major := 0x0E, guard := g, reads := gs [31] } s (fun s => s.goTo (s.g 31) true)

/-- LPIPE from DRAIN and RRB (R71). -/
def lpipeOf (drain rrb : Nat) : BitVec 6 := BitVec.ofNat 6 (drain % 4 * 16 + rrb % 16)

/-- `ROT`: RRB := (RRB − 1) mod 16 (R77). -/
def execRot (g : Guard) (s : State) : Host.Outcome State Fault Refusal :=
  issue { major := 0x0E, guard := g, reads := [.loop 6], writes := [.loop 6] } s (fun s =>
    .retire (s.modTh (fun t => { t.renew (.loop 6) with lpipe := lpipeOf t.drain (t.rrb + 15) })))

/-- `STAGE`: DRAIN := gA[1:0] (R76). -/
def execStage (g : Guard) (a : GReg) (s : State) : Host.Outcome State Fault Refusal :=
  issue { major := 0x0E, guard := g, reads := gs [a] ++ [.loop 6], writes := [.loop 6] } s (fun s =>
    .retire (s.modTh (fun t => { t.renew (.loop 6) with lpipe := lpipeOf (field (s.g a) 0 2) t.rrb })))

/-- `NOP` (R69). -/
def execNop (g : Guard) (s : State) : Host.Outcome State Fault Refusal :=
  issue { major := 0x0E, guard := g, anySlot := true } s (fun s => .retire s)

/-- The fetch agent is asked for the line at a virtual address that the thread may come to (R70): one whose translation the
quad holds and which its instruction cache does not.  Nothing is raised for a line that is not reached (R55). -/
def State.prefetch (s : State) (va : Nat) : State :=
  let x : Miss := { req := reqFetch s.cur, core := s.myCore, part := s.partOfThread s.cur, va, sup := s.src.sup, own := true }
  match s.translate x s.src.sup .fetch with
  | .ok p =>
    let line := p.pa / 64
    if va < 2 ^ 57 ∧ memoryAt (64 * line) = true ∧ (s.quad s.myQuad).icache.all (fun l => l.line != line) = true then
      s.askFetch s.myQuad { line, ms := pteUncached p.pte, w := pteW p.pte, pin := ptePIN p.pte }
    else s
  | _ => s

/-- `HINT` (R70): hint 0 asks for the next two sequential lines; hint 1 concerns the order of issue alone (log 6), and every
other number acts as `NOP`. -/
def execHint (g : Guard) (b : Fin 32) (s : State) : Host.Outcome State Fault Refusal :=
  issue { major := 0x0E, guard := g } s (fun s =>
    let next := s.src.pc.toNat / 64 * 64 + 64
    .retire (if b.val = 0 then (s.prefetch next).prefetch (next + 64) else s))

/-- The start of a loop (R72) with `trips` executions asked for. -/
def State.startLoop (s : State) (n : LcReg) (pipe : Bool) (trips : Nat) (len : Nat) (words : Nat) : Res :=
  let drain := s.src.drain
  let trips := if pipe then min trips (4294967295 - drain) else trips
  let total := if pipe then (if trips = 0 then 0 else trips + drain) else trips
  let beg := s.nextPc words
  let stop := beg + Word.of ((if s.kind = .dcc then 16 else 4) * len)
  let s := s.modTh (fun t => { t.renewAll (loopRegs n pipe ++ if pipe then ps [4, 5, 6, 7] else []) with
    lccnt := t.lccnt.set n.val (Word.of total) n.isLt
    lcbeg := t.lcbeg.set n.val (Word.of (field beg 2 55 * 4 + pipe.toNat * 2 + (decide (0 < total)).toNat)) n.isLt
    lcend := t.lcend.set n.val (Word.of (field stop 2 55 * 4)) n.isLt
    lpipe := if pipe then lpipeOf drain 0 else t.lpipe
    p := if pipe then #v[t.p[0], t.p[1], t.p[2], t.p[3], decide (0 < trips), false, false, false] else t.p })
  if total = 0 then .retireTo s stop else .retire s

/-- `LOOP` (R72): at most 2^32 − 1 executions. -/
def execLoop (g : Guard) (n : LcReg) (a : GReg) (len : BitVec 10) (s : State) : Host.Outcome State Fault Refusal :=
  issue { major := 0x0F, guard := g, reads := gs [a], writes := loopRegs n false } s (fun s =>
    s.startLoop n false (min (s.g a).toNat 4294967295) len.toNat 1)

/-- `LOOP.P` (R72, R76): it reads DRAIN, and writes `p4`–`p7` as well (R79). -/
def execLoopP (g : Guard) (n : LcReg) (a : GReg) (len : BitVec 10) (s : State) : Host.Outcome State Fault Refusal :=
  issue { major := 0x0F, guard := g, reads := gs [a] ++ [.loop 6], writes := ps [4, 5, 6, 7] ++ loopRegs n true } s (fun s =>
    s.startLoop n true (min (s.g a).toNat 4294967295) len.toNat 1)

/-- `LOOP` and `LOOP.P` with the trip count in the second word (R72). -/
def execLoopDw (g : Guard) (pipe : Bool) (n : LcReg) (len : BitVec 10) (trips : BitVec 32) (s : State) :
    Host.Outcome State Fault Refusal :=
  issue { major := 0x0F, guard := g, words := 2, reads := if pipe then [.loop 6] else []
          writes := (if pipe then ps [4, 5, 6, 7] else []) ++ loopRegs n pipe } s (fun s =>
    s.startLoop n pipe trips.toNat len.toNat 2)

end Sys2Proof.Machine
end

