-- ==== Sys2Proof/Machine/Vector.lean ====
section
/-!
DEFINITION. Sys2Proof/Machine/Vector.lean: the vector and special-function instructions, majors 0x18–0x1D (R108–R124).
-/
namespace Sys2Proof.Machine

/-- The lanes of a vector field's register, with its tag. -/
def State.vlanes (s : State) (f : VField) : List Nat × Tag :=
  (lanesOf s.vecBits (s.vec f).2.width (s.vec f).1, (s.vec f).2)

/-- Tags that count as equal: `Z32` and `IDX` do (R113). -/
def sameTag (a b : Tag) : Bool := a == b || ((a == .z32 || a == .idx) && (b == .z32 || b == .idx))

/-- Writes a result register and ORs the flags of its lanes into FFLAGS (R88, R114). -/
def State.vresult (s : State) (d : VField) (t : Tag) (ls : List Lane) : Res :=
  .retire ((s.setVec d (ofLanes t.width (ls.map (fun l => l.1))) t).orFlags (ls.foldl (fun f l => f ||| l.2) 0))

/-- The shape of a vector instruction of fields d and a. -/
def metaV1 (major : Nat) (g : Guard) (d a : VField) : Meta :=
  { major, guard := g, reads := vs [a], writes := vs [d], vfields := [d, a] }

/-- The shape of a vector instruction of fields d, a and b. -/
def metaV (major : Nat) (g : Guard) (d a b : VField) : Meta :=
  { major, guard := g, reads := vs [a, b], writes := vs [d], vfields := [d, a, b] }

/-- A two-operand lane-wise instruction: tags as `ok` asks, and a lane function. -/
def lanewise (m : Meta) (d a b : VField) (ok : Tag → Tag → Bool) (f : Tag → Nat → Nat → Lane) (s : State) :
    Host.Outcome State Fault Refusal :=
  issue m s (fun s =>
    let (xs, ta) := s.vlanes a
    let (ys, tb) := s.vlanes b
    if ok ta tb then s.vresult d ta (List.zipWith (f ta) xs ys) else trapOf s .tagMismatch)

/-- A one-operand lane-wise instruction. -/
def lanewise1 (m : Meta) (d a : VField) (ok : Tag → Bool) (f : Tag → Nat → Lane) (s : State) :
    Host.Outcome State Fault Refusal :=
  issue m s (fun s =>
    let (xs, ta) := s.vlanes a
    if ok ta then s.vresult d ta (xs.map (f ta)) else trapOf s .tagMismatch)

def numbers (a b : Tag) : Bool := a.isNumber && sameTag a b
def integers (a b : Tag) : Bool := a.isInt && sameTag a b

/-! ## Major 0x18 (R115, R116) -/

/-- `VADD` (R115). -/
def execVadd (g : Guard) (d a b : VField) (s : State) : Host.Outcome State Fault Refusal :=
  lanewise (metaV 0x18 g d a b) d a b numbers (laneOp .add) s

/-- `VSUB` (R115). -/
def execVsub (g : Guard) (d a b : VField) (s : State) : Host.Outcome State Fault Refusal :=
  lanewise (metaV 0x18 g d a b) d a b numbers (laneOp .sub) s

/-- `VMUL` (R115). -/
def execVmul (g : Guard) (d a b : VField) (s : State) : Host.Outcome State Fault Refusal :=
  lanewise (metaV 0x18 g d a b) d a b numbers (laneOp .mul) s

/-- `VMIN` (R115, R116). -/
def execVmin (g : Guard) (d a b : VField) (s : State) : Host.Outcome State Fault Refusal :=
  lanewise (metaV 0x18 g d a b) d a b numbers (laneOp .min) s

/-- `VMAX` (R115, R116). -/
def execVmax (g : Guard) (d a b : VField) (s : State) : Host.Outcome State Fault Refusal :=
  lanewise (metaV 0x18 g d a b) d a b numbers (laneOp .max) s

/-- `VABS` (R115). -/
def execVabs (g : Guard) (d a : VField) (s : State) : Host.Outcome State Fault Refusal :=
  lanewise1 (metaV1 0x18 g d a) d a Tag.isNumber (fun t x => (laneAbs t x, 0)) s

/-- `VNEG` (R115). -/
def execVneg (g : Guard) (d a : VField) (s : State) : Host.Outcome State Fault Refusal :=
  lanewise1 (metaV1 0x18 g d a) d a Tag.isNumber (fun t x => (laneNeg t x, 0)) s

/-- A bitwise instruction on all bits of the register, regardless of lane boundaries (R113, R115). -/
def bitwise (g : Guard) (d a b : VField) (f : Nat → Nat → Nat) (s : State) : Host.Outcome State Fault Refusal :=
  issue (metaV 0x18 g d a b) s (fun s => .retire (s.putVec d (f (s.vec a).1 (s.vec b).1) (s.vec a).2))

/-- `VAND` (R115). -/
def execVand (g : Guard) (d a b : VField) (s : State) : Host.Outcome State Fault Refusal := bitwise g d a b (· &&& ·) s

/-- `VOR` (R115). -/
def execVor (g : Guard) (d a b : VField) (s : State) : Host.Outcome State Fault Refusal := bitwise g d a b (· ||| ·) s

/-- `VXOR` (R115). -/
def execVxor (g : Guard) (d a b : VField) (s : State) : Host.Outcome State Fault Refusal := bitwise g d a b (· ^^^ ·) s

/-- Both integer, of one width (R113). -/
def shiftTags (a b : Tag) : Bool := a.isInt && b.isInt && a.width == b.width

/-- `VSHL` (R115). -/
def execVshl (g : Guard) (d a b : VField) (s : State) : Host.Outcome State Fault Refusal :=
  lanewise (metaV 0x18 g d a b) d a b shiftTags
    (fun t x n => (if t.width ≤ n then 0 else x * 2 ^ n % 2 ^ t.width, 0)) s

/-- `VSHR` (R115). -/
def execVshr (g : Guard) (d a b : VField) (s : State) : Host.Outcome State Fault Refusal :=
  lanewise (metaV 0x18 g d a b) d a b shiftTags (fun t x n => (if t.width ≤ n then 0 else x / 2 ^ n, 0)) s

/-- `VSAR`: the sign is the lane's top bit, and the count at most w − 1 (R115). -/
def execVsar (g : Guard) (d a b : VField) (s : State) : Host.Outcome State Fault Refusal :=
  lanewise (metaV 0x18 g d a b) d a b shiftTags
    (fun t x n => (wrap t.width (Int.fdiv (intVal true t.width x) ((2 ^ Min.min n (t.width - 1) : Nat) : Int)), 0)) s

/-- `VADD.S` (R115). -/
def execVaddS (g : Guard) (d a b : VField) (s : State) : Host.Outcome State Fault Refusal :=
  lanewise (metaV 0x18 g d a b) d a b integers (laneOp .addS) s

/-- `VSUB.S` (R115). -/
def execVsubS (g : Guard) (d a b : VField) (s : State) : Host.Outcome State Fault Refusal :=
  lanewise (metaV 0x18 g d a b) d a b integers (laneOp .subS) s

/-- The mask bit of lane `i` (R109). -/
def maskIndex (long : Bool) (t : Tag) (i : Nat) : Nat := if long && t.width == 4 then i / 2 else i

/-- What a lane written with a tag keeps of its bits: six of an `F6` lane (R81). -/
def cleanLane (t : Tag) (x : Nat) : Nat := if t = .f6 then x % 64 else x % 2 ^ t.width

/-- `VSEL` (R109, R115).  DESIGN CHOICE: a result of another 8-bit tag than `F6` takes all 8 bits of a lane that it selects from
an `F6` source (R81 does not say; log 15). -/
def execVsel (g : Guard) (d a b : VField) (k : MReg) (s : State) : Host.Outcome State Fault Refusal :=
  issue { metaV 0x18 g d a b with reads := vs [a, b] ++ [.m k] } s (fun s =>
    let (xs, ta) := s.vlanes a
    let (ys, tb) := s.vlanes b
    if ta.width = tb.width then
      s.vresult d ta ((List.zip xs ys).zipIdx.map (fun ((x, y), i) =>
        (cleanLane ta (if (s.mask k).getLsbD (maskIndex s.src.long ta i) then x else y), 0)))
    else trapOf s .tagMismatch)

/-! ## Major 0x19 (R117–R119) -/

/-- A fused product (R117): field d names the addend as well. -/
def fused (g : Guard) (d a b : VField) (negProduct negAddend : Bool) (s : State) : Host.Outcome State Fault Refusal :=
  issue { metaV 0x19 g d a b with reads := vs [a, b, d] } s (fun s =>
    let (xs, ta) := s.vlanes a
    let (ys, tb) := s.vlanes b
    let (zs, td) := s.vlanes d
    if numbers ta tb && sameTag ta td then
      s.vresult d ta (List.zipWith (fun (x, y) z => laneFma ta negProduct negAddend x y z) (List.zip xs ys) zs)
    else trapOf s .tagMismatch)

/-- `VFMA` (R117). -/
def execVfma (g : Guard) (d a b : VField) (s : State) : Host.Outcome State Fault Refusal := fused g d a b false false s

/-- `VFMS` (R117). -/
def execVfms (g : Guard) (d a b : VField) (s : State) : Host.Outcome State Fault Refusal := fused g d a b false true s

/-- `VNFMA` (R117). -/
def execVnfma (g : Guard) (d a b : VField) (s : State) : Host.Outcome State Fault Refusal := fused g d a b true false s

/-- The elements of a group, `n` at a time. -/
def chunks {α : Type} (n : Nat) (l : List α) : Nat → List (List α)
  | 0 => []
  | fuel + 1 => l.take n :: chunks n (l.drop n) fuel

/-- The exact sum of a group of products (R118). -/
def dotSum (ta tb : Tag) (ps : List (Nat × Nat)) : Int :=
  ps.foldl (fun acc (x, y) => acc + intVal ta.isSigned ta.width x * intVal tb.isSigned tb.width y) 0

/-- `I8`/`Z8`, `I4`/`Z4` or `I16`/`Z16`, of one width (R113). -/
def dotTags (a b : Tag) : Bool :=
  let ok := fun t => t == Tag.i8 || t == .z8 || t == .i4 || t == .z4 || t == .i16 || t == .z16
  ok a && ok b && a.width == b.width

/-- `VDOT` (R118). -/
def execVdot (g : Guard) (d a b : VField) (s : State) : Host.Outcome State Fault Refusal :=
  issue { metaV 0x19 g d a b with reads := vs [a, b, d] } s (fun s =>
    let (xs, ta) := s.vlanes a
    let (ys, tb) := s.vlanes b
    let (zs, td) := s.vlanes d
    if dotTags ta tb && td == .i32 then
      s.vresult d .i32 (List.zipWith (fun ps z =>
          let total := intVal true 32 z + dotSum ta tb ps
          let r := Sys2Proof.sat true 32 total
          (wrap 32 r, if r = total then 0 else flagSAT))
        (chunks (32 / ta.width) (List.zip xs ys) zs.length) zs)
    else trapOf s .tagMismatch)

/-- The tree of `VDOTF` over 2 or 4 exact products (R119). -/
def dotTree : List (Num × BitVec 6) → Lane
  | [p0, p1] =>
    let (v, f) := p0.1.add p1.1
    let (r, f') := f32Fmt.deliver .rne false v
    (r, p0.2 ||| p1.2 ||| f ||| f')
  | [p0, p1, p2, p3] =>
    let (u, f0) := p0.1.add p1.1
    let (x, f1) := f32Fmt.deliver .rne false u
    let (v, f2) := p2.1.add p3.1
    let (y, f3) := f32Fmt.deliver .rne false v
    let (r, f4) := f32Fmt.add x y
    (r, p0.2 ||| p1.2 ||| p2.2 ||| p3.2 ||| f0 ||| f1 ||| f2 ||| f3 ||| f4)
  | _ => (0, 0)

/-- One lane of `VDOTF`: the products of a group, their tree, and the addend (R119). -/
def dotfLane (ta tb : Tag) (ps : List (Nat × Nat)) (z : Nat) : Lane :=
  let (t, f) := dotTree (ps.map (fun (x, y) => (laneVal ta x).mul (laneVal tb y)))
  let (r, f') := f32Fmt.add z t
  (r, f ||| f')

/-- The tags that `VDOTF` takes (R113). -/
def dotfTags (a b : Tag) : Bool :=
  let ok := fun t => t == Tag.bf16 || t == .f16 || t == .f8a || t == .f8b || t == .f6
  let f8 := fun t => t == Tag.f8a || t == .f8b
  ok a && ok b && (a == b || (f8 a && f8 b))

/-- `VDOTF` (R119). -/
def execVdotf (g : Guard) (d a b : VField) (s : State) : Host.Outcome State Fault Refusal :=
  issue { metaV 0x19 g d a b with reads := vs [a, b, d] } s (fun s =>
    let (xs, ta) := s.vlanes a
    let (ys, tb) := s.vlanes b
    let (zs, td) := s.vlanes d
    if dotfTags ta tb && td == .f32 then
      s.vresult d .f32 (List.zipWith (dotfLane ta tb) (chunks (32 / ta.width) (List.zip xs ys) zs.length) zs)
    else trapOf s .tagMismatch)

/-! ## Compares (R120) -/

/-- The conditions of a 4-bit format in long mode, by bytes. -/
def pairAnd : List Bool → List Bool
  | a :: b :: t => (a && b) :: pairAnd t
  | _ => []

/-- A mask from its bits, bit 0 first. -/
def maskOf (bs : List Bool) : BitVec 256 := BitVec.ofNat 256 (ofLanes 1 (bs.map Bool.toNat))

/-- `VCMP.cc` (R109, R120). -/
def execVcmpCc (g : Guard) (c : Fin 7) (d : MReg) (a b : VField) (s : State) : Host.Outcome State Fault Refusal :=
  issue { major := 0x1A, guard := g, reads := vs [a, b], writes := [.m d], vfields := [a, b] } s (fun s =>
    let (xs, ta) := s.vlanes a
    let (ys, tb) := s.vlanes b
    if numbers ta tb then
      let bs := List.zipWith (laneCmp c.val ta) xs ys
      .retire (s.setMask d (maskOf (if s.src.long && ta.width == 4 then pairAnd bs else bs)))
    else trapOf s .tagMismatch)

/-! ## Major 0x1B (R121, R122) -/

/-- One level of the tree: neighbours combined (R122). -/
def pairUp (op : Nat → Nat → Lane) : List Lane → List Lane
  | a :: b :: t => ((op a.1 b.1).1, a.2 ||| b.2 ||| (op a.1 b.1).2) :: pairUp op t
  | l => l

/-- The pairwise tree of `VRED` (R122), over a power of two of lanes. -/
def reduceTree (op : Nat → Nat → Lane) : Nat → List Lane → List Lane
  | 0, l => l
  | fuel + 1, l => reduceTree op fuel (pairUp op l)

/-- The prefixes of `VSCAN` (R122). -/
def scanFrom (op : Nat → Nat → Lane) (acc : Nat) : List Nat → List Lane
  | [] => []
  | x :: xs => op acc x :: scanFrom op (op acc x).1 xs

/-- The lanes with the tag's clean bits: the tree's operands are read as the format reads them (R81). -/
def reduce (g : Guard) (d a : VField) (op : LaneOp) (s : State) : Host.Outcome State Fault Refusal :=
  issue (metaV1 0x1B g d a) s (fun s =>
    let (xs, ta) := s.vlanes a
    if ta.isNumber then s.vresult d ta ((reduceTree (laneOp op ta) 10 (xs.map (fun x => (x, 0)))).take 1)
    else trapOf s .tagMismatch)

def scan (g : Guard) (d a : VField) (op : LaneOp) (s : State) : Host.Outcome State Fault Refusal :=
  issue (metaV1 0x1B g d a) s (fun s =>
    let (xs, ta) := s.vlanes a
    if ta.isNumber then
      match xs with
      | [] => .retire s
      | x :: xs => s.vresult d ta ((cleanLane ta x, 0) :: scanFrom (laneOp op ta) x xs)
    else trapOf s .tagMismatch)

/-- `VRED.ADD` (R122). -/
def execVredAdd (g : Guard) (d a : VField) (s : State) : Host.Outcome State Fault Refusal := reduce g d a .add s

/-- `VRED.MIN` (R122). -/
def execVredMin (g : Guard) (d a : VField) (s : State) : Host.Outcome State Fault Refusal := reduce g d a .min s

/-- `VRED.MAX` (R122). -/
def execVredMax (g : Guard) (d a : VField) (s : State) : Host.Outcome State Fault Refusal := reduce g d a .max s

/-- `VSCAN.ADD` (R122). -/
def execVscanAdd (g : Guard) (d a : VField) (s : State) : Host.Outcome State Fault Refusal := scan g d a .add s

/-- `VSCAN.MIN` (R122). -/
def execVscanMin (g : Guard) (d a : VField) (s : State) : Host.Outcome State Fault Refusal := scan g d a .min s

/-- `VSCAN.MAX` (R122). -/
def execVscanMax (g : Guard) (d a : VField) (s : State) : Host.Outcome State Fault Refusal := scan g d a .max s

/-- `VPERM` (R121). -/
def execVperm (g : Guard) (d a b : VField) (s : State) : Host.Outcome State Fault Refusal :=
  issue (metaV 0x1B g d a b) s (fun s =>
    let (xs, ta) := s.vlanes a
    let (ys, tb) := s.vlanes b
    if ta.width ≠ 4 ∧ tb.isInt ∧ xs.length ≤ ys.length then
      s.vresult d ta ((ys.take xs.length).map (fun i => (cleanLane ta (xs.getD (i % xs.length) 0), 0)))
    else trapOf s .tagMismatch)

/-- `VBCAST` (R121). -/
def execVbcast (g : Guard) (d : VField) (a : GReg) (s : State) : Host.Outcome State Fault Refusal :=
  issue { major := 0x1B, guard := g, reads := gs [a], writes := vs [d], vfields := [d] } s (fun s =>
    let (zs, td) := s.vlanes d
    s.vresult d td (zs.map (fun _ => (cleanLane td (s.g a).toNat, 0))))

/-- `VEXT` (R121). -/
def execVext (g : Guard) (d : GReg) (a : VField) (b : GReg) (s : State) : Host.Outcome State Fault Refusal :=
  issue { major := 0x1B, guard := g, reads := vs [a] ++ gs [b], writes := gs [d], vfields := [a] } s (fun s =>
    let (xs, ta) := s.vlanes a
    let x := cleanLane ta (xs.getD (s.g b).toNat 0)
    .retire (s.setG d (if ta.isSigned then signExt x ta.width else Word.of x)))

/-- `VINS` (R121). -/
def execVins (g : Guard) (d : VField) (a b : GReg) (s : State) : Host.Outcome State Fault Refusal :=
  issue { major := 0x1B, guard := g, reads := gs [a, b] ++ vs [d], writes := vs [d], vfields := [d] } s (fun s =>
    let (zs, td) := s.vlanes d
    if (s.g b).toNat < zs.length then
      .retire (s.putVec d (ofLanes td.width (zs.set (s.g b).toNat (cleanLane td (s.g a).toNat))) td)
    else .retire s)

/-! ## Special functions (R123, R124) -/

/-- A special function of each lane; `F64` only where `wide` (R113). -/
def special (g : Guard) (d a : VField) (fn : SpecialFn) (wide : Bool) (s : State) : Host.Outcome State Fault Refusal :=
  lanewise1 (metaV1 0x1C g d a) d a
    (fun t => t == .bf16 || t == .f16 || t == .f32 || (wide && t == .f64))
    (fun t x => match t.float with
      | some f => specialLane fn f x
      | none => (0, 0)) s

/-- `VRCP` (R123, R124). -/
def execVrcp (g : Guard) (d a : VField) (s : State) : Host.Outcome State Fault Refusal := special g d a .rcp true s

/-- `VRSQ` (R123, R124). -/
def execVrsq (g : Guard) (d a : VField) (s : State) : Host.Outcome State Fault Refusal := special g d a .rsq true s

/-- `VEXP2` (R123, R124). -/
def execVexp2 (g : Guard) (d a : VField) (s : State) : Host.Outcome State Fault Refusal := special g d a .exp2 false s

/-- `VLOG2` (R123, R124). -/
def execVlog2 (g : Guard) (d a : VField) (s : State) : Host.Outcome State Fault Refusal := special g d a .log2 false s

/-- `VTANH` (R123, R124). -/
def execVtanh (g : Guard) (d a : VField) (s : State) : Host.Outcome State Fault Refusal := special g d a .tanh false s

/-- `VSIGM` (R123, R124). -/
def execVsigm (g : Guard) (d a : VField) (s : State) : Host.Outcome State Fault Refusal := special g d a .sigm false s

/-! ## Modes (R110) -/

/-- `VLONG`: on entry from short mode the long registers are zero and untagged (R110). -/
def execVlong (g : Guard) (s : State) : Host.Outcome State Fault Refusal :=
  issue { major := 0x1D, guard := g } s (fun s =>
    .retire (if s.src.long then s else s.modTh (fun t => { t with w := Vector.replicate 16 {}, long := true })))

/-- `VSHORT` (R110). -/
def execVshort (g : Guard) (s : State) : Host.Outcome State Fault Refusal :=
  issue { major := 0x1D, guard := g } s (fun s => .retire (s.modTh (fun t => { t with long := false })))

end Sys2Proof.Machine
end

