-- ==== Sys2Proof/Machine/Convert.lean ====
section
/-!
DEFINITION. Sys2Proof/Machine/Convert.lean: conversion, tags and quantisation, majors 0x20–0x22 (R94–R99).
-/
namespace Sys2Proof.Machine

/-- `CVT.m` (R94, R95): the low lanes are converted, and the upper lanes of a wider target are zero. -/
def cvt (mode : Rounding) (g : Guard) (d a : VField) (t : Tag) (s : State) : Host.Outcome State Fault Refusal :=
  issue (metaV1 0x20 g d a) s (fun s =>
    let (xs, ta) := s.vlanes a
    if ta.isNumber then s.vresult d t ((xs.take (s.vecBits / t.width)).map (convert ta t mode))
    else trapOf s .tagMismatch)

/-- `CVT.RNE` (R94). -/
def execCvtRne (g : Guard) (d a : VField) (t : Tag) (s : State) : Host.Outcome State Fault Refusal := cvt .rne g d a t s

/-- `CVT.RTZ` (R94). -/
def execCvtRtz (g : Guard) (d a : VField) (t : Tag) (s : State) : Host.Outcome State Fault Refusal := cvt .rtz g d a t s

/-- `CVT.RUP` (R94). -/
def execCvtRup (g : Guard) (d a : VField) (t : Tag) (s : State) : Host.Outcome State Fault Refusal := cvt .rup g d a t s

/-- `CVT.RDN` (R94). -/
def execCvtRdn (g : Guard) (d a : VField) (t : Tag) (s : State) : Host.Outcome State Fault Refusal := cvt .rdn g d a t s

/-- `CVT.SAT` (R94). -/
def execCvtSat (g : Guard) (d a : VField) (t : Tag) (s : State) : Host.Outcome State Fault Refusal := cvt .sat g d a t s

/-- `TAGSET` (R96). -/
def execTagset (g : Guard) (d : VField) (t : Tag) (s : State) : Host.Outcome State Fault Refusal :=
  issue { major := 0x22, guard := g, writes := vs [d], vfields := [d] } s (fun s => .retire (s.putVec d (s.vec d).1 t))

/-- `TAGGET` (R96). -/
def execTagget (g : Guard) (d : GReg) (a : VField) (s : State) : Host.Outcome State Fault Refusal :=
  issue { major := 0x22, guard := g, reads := vs [a], writes := gs [d], vfields := [a] } s (fun s =>
    .retire (s.setG d (Word.of (s.vec a).2.code)))

/-- The tag of an `FCLASS` result (R96). -/
def classTag (t : Tag) : Tag :=
  match t.width with
  | 8 => .z8
  | 16 => .z16
  | 32 => .z32
  | _ => .i64

/-- `FCLASS` (R96). -/
def execFclass (g : Guard) (d a : VField) (s : State) : Host.Outcome State Fault Refusal :=
  issue (metaV1 0x22 g d a) s (fun s =>
    let (xs, ta) := s.vlanes a
    match ta.float with
    | some f => s.vresult d (classTag ta) (xs.map (fun x => (fclass f x, 0)))
    | none => trapOf s .tagMismatch)

/-! ## Quantisation (R97–R99) -/

/-- `QSCALE` (R98). -/
def execQscale (g : Guard) (d a b : VField) (s : State) : Host.Outcome State Fault Refusal :=
  issue (metaV 0x21 g d a b) s (fun s =>
    let (xs, ta) := s.vlanes a
    let (ys, tb) := s.vlanes b
    if ta = .f32 ∧ tb = .f32 then
      let (sc, fl) := superScale (ys.getD 0 0 % 2 ^ 31)
      let qs := xs.map (fun x => scaleByte (x % 2 ^ 31) sc)
      let x := ofLanes 8 (qs.map (fun l => l.1)) + sc * 2 ^ 2016
      .retire ((s.setVec d x .z8).orFlags (qs.foldl (fun f l => f ||| l.2) fl))
    else trapOf s .tagMismatch)

/-- The scale byte, the super-scale and the block slot that a scale vector names (R97, R99). -/
def scaleOf (x : Nat) : Nat × Nat × Nat :=
  let sel := lane x 8 64 % 64
  (lane x 8 sel, lane x 32 63, sel % 8)

/-- `QN4` (R99): the other seven slots are kept where field d's register already holds codes. -/
def execQn4 (g : Guard) (d a b : VField) (s : State) : Host.Outcome State Fault Refusal :=
  issue { metaV 0x21 g d a b with reads := vs [a, b, d] } s (fun s =>
    let (xs, ta) := s.vlanes a
    let (q, sc, slot) := scaleOf (s.vec b).1
    if (s.vec b).2 = .z8 ∧ ta = .f32 then
      let cs := xs.map (fun x => qn4Element x q sc)
      let old := if (s.vec d).2 = .n4 then (s.vec d).1 else 0
      let x := ofLanes 256 ((lanesOf 2048 256 old).set slot (ofLanes 4 (cs.map (fun l => l.1))))
      .retire ((s.setVec d x .n4).orFlags (cs.foldl (fun f l => f ||| l.2) 0))
    else trapOf s .tagMismatch)

/-- `DQN4` (R99). -/
def execDqn4 (g : Guard) (d a b : VField) (s : State) : Host.Outcome State Fault Refusal :=
  issue (metaV 0x21 g d a b) s (fun s =>
    let (q, sc, slot) := scaleOf (s.vec b).1
    if (s.vec b).2 = .z8 ∧ (s.vec a).2 = .n4 then
      s.vresult d .f32 ((lanesOf 256 4 (lane (s.vec a).1 256 slot)).map (fun c => dqn4Element c q sc))
    else trapOf s .tagMismatch)

end Sys2Proof.Machine
end

