-- ==== Sys2Proof/Machine/Declension.lean ====
section
/-!
DEFINITION. Sys2Proof/Machine/Declension.lean: the Declension table, the Syllable unit and the loads through them, majors
0x14 and 0x15 (R100–R105).
-/
namespace Sys2Proof.Machine

/-- The tag of a code (R80). -/
def tagOf (n : Nat) : Option Tag :=
  [.none, .i8, .z8, .i16, .z16, .i32, .z32, .i64, .i4, .z4, .f8a, .f8b, .f6, .n4, .bf16, .f16, .f32, .f64, .idx][n]?

/-- A field of a Declension entry (R100). -/
def entryField (e : BitVec 128) (lo n : Nat) : Nat := e.toNat / 2 ^ lo % 2 ^ n

/-- The checks of an entry (R101). -/
def entryOk (e : BitVec 128) : Bool :=
  let res := entryField e 116 12 + entryField e 84 12 + entryField e 52 12 + entryField e 14 2 + entryField e 6 2
  let scale := entryField e 12 2
  let sylen := entryField e 5 1 == 1
  match tagOf (entryField e 0 5) with
  | none => false
  | some t =>
    res == 0 && scale != 3 && (!sylen || (scale == 0 && t.isInt)) && (scale != 1 || t == .n4)
      && (scale != 2 || (t != .none && t != .n4 && t != .idx && entryField e 16 16 != 0))

/-- `DCLSET` (R101). -/
def execDclset (g : Guard) (a : GReg) (s : State) : Host.Outcome State Fault Refusal :=
  issue (metaG 0x14 g [] [a]) s (fun s =>
    s.withLoad (s.localAddr (s.g a)) 256 16 (fun x s' =>
      let es : Vector (BitVec 128) 16 := Vector.ofFn (fun i => BitVec.ofNat 128 (lane x 128 i.val))
      if es.toList.all entryOk then .retire (s'.modTh (fun t => { t with decl := es })) else trapOf s .illegal))

/-- Field `j` of a Syllable pattern: OFF, W and SGN (R103). -/
def sylField (x : Nat) (j : Nat) : Nat × Nat × Bool :=
  let d := x / 2 ^ (64 + 16 * j)
  (d % 128, d / 2 ^ 7 % 16 + 1, d / 2 ^ 11 % 2 == 1)

/-- P and F of a Syllable pattern (R103). -/
def sylPeriod (x : Nat) : Nat := 8 * (x % 16 + 1)
def sylCount (x : Nat) : Nat := x / 16 % 16 + 1

/-- The checks of a Syllable image (R103). -/
def sylOk (x : Nat) : Bool :=
  x / 2 ^ 8 % 2 ^ 56 == 0 &&
    (List.range (sylCount x)).all (fun j =>
      x / 2 ^ (64 + 16 * j + 12) % 16 == 0 && decide ((sylField x j).1 + (sylField x j).2.1 ≤ sylPeriod x))

/-- `SYLSET` (R103). -/
def execSylset (g : Guard) (d : Fin 16) (a : GReg) (s : State) : Host.Outcome State Fault Refusal :=
  issue (metaG 0x14 g [] [a]) s (fun s =>
    s.withLoad (s.localAddr (s.g a)) 40 8 (fun x s' =>
      if sylOk x then .retire (s'.modTh (fun t => { t with syl := t.syl.set d.val (BitVec.ofNat 512 x) d.isLt }))
      else trapOf s .illegal))

/-- The current entry: min(LCCNT1.ITER, 15) (R102). -/
def State.currentEntry (s : State) : BitVec 128 :=
  let i := Min.min (field s.src.lccnt[1] 32 32) 15
  s.src.decl[i]'(by omega)

/-- A read of `n` bytes that is subject only to the range checks (R104). -/
def State.rawLoad (s : State) (ea n : Nat) : Except TrapInfo (Nat × State) :=
  if s.accEnd s.myCore < ea + n then .error { cause := .localRange, addr := Word.of ea }
  else if s.loadBad ea n then .error (eccTrap ea)
  else .ok (s.loadLocal ea n)

/-- Reads made one after another; the first that fails decides. -/
def State.rawLoads (s : State) : List (Nat × Nat) → Except TrapInfo (List Nat × State)
  | [] => .ok ([], s)
  | (ea, n) :: t =>
    match s.rawLoad ea n with
    | .error e => .error e
    | .ok (x, s) =>
      match s.rawLoads t with
      | .error e => .error e
      | .ok (xs, s) => .ok (x :: xs, s)

/-- The range and alignment that `VLD` would be checked for, where the load itself may reach further or less far. -/
def State.declCheck (s : State) (ea : Nat) : Option TrapInfo := s.checkLocal ea (s.vecBits / 8) 32

/-- Lane `i` of a Syllable unpacking (R104). -/
def sylLane (pat x w i : Nat) : Nat :=
  let f := sylField pat (i % sylCount pat)
  let v := x / 2 ^ (i / sylCount pat * sylPeriod pat + f.1) % 2 ^ f.2.1
  if f.2.2 then wrap w (intVal true f.2.1 v) else v

/-- Reads, and a result of them. -/
def State.withRaw (s : State) (l : List (Nat × Nat)) (k : List Nat → State → Res) : Res :=
  match s.rawLoads l with
  | .error t => .trap t s
  | .ok (xs, s) => k xs s

/-- `VLDD` (R104) at a checked address. -/
def State.vldd (s : State) (d : VField) (ea : Nat) (e : BitVec 128) : Res :=
  let tag := (tagOf (entryField e 0 5)).getD .none
  let w := tag.width
  let scale := entryField e 12 2
  if entryField e 5 1 = 1 then
    let pat := s.src.syl[entryField e 8 4]'(Nat.mod_lt _ (by decide))
    let n := s.vecBits / w
    let f := sylCount pat.toNat
    if (List.range f).any (fun j => decide (w < (sylField pat.toNat j).2.1)) then trapOf s .tagMismatch
    else
      s.withRaw [(ea, (n + f - 1) / f * (sylPeriod pat.toNat / 8))] (fun xs s =>
        .retire (s.setVec d (ofLanes w ((List.range n).map (sylLane pat.toNat (xs.getD 0 0) w))) tag))
  else if scale = 0 then
    s.withRaw [(ea, s.vecBits / 8)] (fun xs s => .retire (s.setVec d (xs.getD 0 0) tag))
  else
    let n := s.vecBits / 32
    let rel := (ea + 2 ^ 20 - entryField e 32 20) % 2 ^ 20
    let sbase := entryField e 64 20
    let at_ := fun x => x % 2 ^ 20
    if scale = 1 then
      let blocks := (List.range n).map (fun i => (rel * 2 + i) / 64)
      s.withRaw ((ea, n / 2) :: blocks.flatMap (fun b =>
          [(at_ (sbase + b), 1), (at_ (entryField e 96 20 + 4 * (b / 256)), 4)])) (fun xs s =>
        s.vresult d .f32 ((List.range n).map (fun i =>
          dqn4Element (lane (xs.getD 0 0) 4 i) (xs.getD (2 * i + 1) 0) (xs.getD (2 * i + 2) 0))))
    else
      let e0 := rel * 8 / w
      s.withRaw ((ea, n * w / 8) :: (List.range n).map (fun i =>
          (at_ (sbase + 4 * ((e0 + i) / Max.max 1 (entryField e 16 16))), 4))) (fun xs s =>
        s.vresult d .f32 ((List.range n).map (fun i =>
          let (v, fl) := (laneVal tag (lane (xs.getD 0 0) w i)).mul (f32Fmt.val (xs.getD (i + 1) 0))
          let (r, fl') := f32Fmt.deliver .rne false v
          (r, fl ||| fl'))))

/-- `VLDP` (R104): whole vectors of the entry's format. -/
def State.vldp (s : State) (d : VField) (ea : Nat) (e : BitVec 128) : Res :=
  s.withRaw [(ea, s.vecBits / 8)] (fun xs s =>
    .retire (s.setVec d (xs.getD 0 0) ((tagOf (entryField e 0 5)).getD .none)))

/-- A load through the current entry (R102, R104); the effective address is 20 bits on every core (R127). -/
def declLoad (words : Nat) (scaled_ : Bool) (g : Guard) (d : VField) (a : GReg) (disp : Word) (s : State) :
    Host.Outcome State Fault Refusal :=
  issue { major := 0x15, guard := g, words, reads := gs [a], writes := vs [d], vfields := [d] } s (fun s =>
    let ea := (s.g a + disp).toNat % 2 ^ 20
    match s.declCheck ea with
    | some t => .trap t s
    | none => if scaled_ then s.vldd d ea s.currentEntry else s.vldp d ea s.currentEntry)

/-- `VLDD` (R104). -/
def execVldd (g : Guard) (d : VField) (a : GReg) (off : BitVec 6) (s : State) : Host.Outcome State Fault Refusal :=
  declLoad 1 true g d a (scaled 32 off) s

/-- `VLDD` with a 32-bit byte displacement (R32, R104). -/
def execVlddDw (g : Guard) (d : VField) (a : GReg) (disp : BitVec 32) (s : State) : Host.Outcome State Fault Refusal :=
  declLoad 2 true g d a (disp.signExtend 64) s

/-- `VLDP` (R104). -/
def execVldp (g : Guard) (d : VField) (a : GReg) (off : BitVec 6) (s : State) : Host.Outcome State Fault Refusal :=
  declLoad 1 false g d a (scaled 32 off) s

/-- `VLDP` with a 32-bit byte displacement (R32, R104). -/
def execVldpDw (g : Guard) (d : VField) (a : GReg) (disp : BitVec 32) (s : State) : Host.Outcome State Fault Refusal :=
  declLoad 2 false g d a (disp.signExtend 64) s

end Sys2Proof.Machine
end

