-- ==== Sys2Proof/Machine/System.lean ====
section
/-!
DEFINITION. Sys2Proof/Machine/System.lean: system registers, traps, the halt tree, time, traces and counters (R323–R348,
R392; majors 0x3C–0x3E).
-/
namespace Sys2Proof.Machine

/-- The state that an event of the machine leaves. -/
def afterEvent (o : Host.Outcome State Fault Refusal) (s : State) : State :=
  match o with
  | .next s' => s'
  | _ => s

/-! ## Reading system registers (R324) -/

/-- `CHSTn` (R161): DONE is that of the entry that a fault concerns, else of the oldest. -/
def ChannelState.status (k : ChannelState) : Word :=
  let done := match k.held with
    | some (_, _, _, len, _) => len
    | none => ((k.queue[if k.fault.isSome then k.blame else 0]?).map (fun e => e.done)).getD 0
  let cause := match k.fault with
    | some f => f.cause.code
    | none => 0
  Word.of (k.fault.isSome.toNat * 2 ^ 63 + cause % 64 * 2 ^ 56 + (!k.queue.isEmpty || k.running).toNat * 2 ^ 55
    + k.chn.toNat * 2 ^ 54 + k.kreq.toNat * 2 ^ 53 + k.cpos % 2 ^ 20 * 2 ^ 32 + done % 2 ^ 32)

/-- `INJST` (R278). -/
def State.injst (s : State) (c : Nat) : Word :=
  let blocked := (List.range 16).foldl (fun m i =>
    if s.reqs.any (fun r => r.src == c && r.stream == some i && r.st == .refused && (match r.body with
      | .message .. => true
      | _ => false)) then m + 2 ^ i else m) 0
  Word.of ((s.core c).frozen.toNat * 2 ^ 48 + blocked * 2 ^ 32 + (8192 - s.staged c) % 2 ^ 14)

/-- `WINST` as a thread sees it (R297). -/
def State.winstOf (s : State) (tid : Nat) : Word :=
  let k := s.core (coreOfThread tid)
  setField (setField k.winst 17 1 (k.team.any (fun t => t.mdet)).toNat) 18 1 (s.thread tid).tdet.toNat

/-- The holder that `ASGSEL` selects (R392). -/
inductive AsgTarget where
  | quad (q : Nat) | dieObj (o : Nat) | moduleObj (o : Nat) | none
  deriving DecidableEq, Repr

def State.asgTarget (s : State) (d : Nat) : AsgTarget :=
  let w := (s.die d).asgsel
  match field w 16 3 with
  | 0 =>
    let h := field w 8 8
    if h < 32 then .quad (64 * d + h) else if h = 0x80 then .quad (64 * d + 32) else if h = 0x81 then .quad (64 * d + 33)
    else .none
  | 1 => .dieObj (field w 0 4)
  | 2 => .moduleObj (field w 0 4)
  | _ => .none

/-- The assignment of a holder or object. -/
def State.assignment (s : State) (d : Nat) : AsgTarget → Option Nat
  | .quad q => (s.quad q).part
  | .dieObj o => (s.die d).objPart[o]?.getD Option.none
  | .moduleObj o => (s.module (moduleOfDie d)).objPart[o]?.getD Option.none
  | .none => Option.none

def asgWord (p : Option Nat) : Word :=
  match p with
  | some x => Word.of (2 ^ 8 + x % 256)
  | Option.none => 0

/-- The value that `MFS` returns (R324); the issuing thread's own registers stand as they were before its bundle (R41). -/
def State.readSys (s : State) (tid n : Nat) : Word :=
  let t := if tid = s.cur then s.src else s.thread tid
  let c := coreOfThread tid
  let k := s.core c
  let d := dieOfCore c
  let m := moduleOfCore c
  let q := s.quad (quadOfCore c)
  let hq := s.hostQueue d (field (s.die d).hqsel 0 8)
  if n = 0x000 then t.tstatus
  else if n = 0x001 then t.tsaved
  else if n = 0x002 then t.tepc
  else if n = 0x003 then t.tcause
  else if n = 0x004 then t.taddr
  else if n = 0x005 then t.tvec
  else if n = 0x006 then t.tscratch
  else if n = 0x007 then t.fflags.setWidth 64
  else if n = 0x008 then Word.of (s.timens m)
  else if n = 0x009 then Word.of (s.cycleOf c)
  else if n = 0x00A then k.partw
  else if n = 0x00B then s.winstOf tid
  else if n = 0x00C then t.accr
  else if n = 0x00D then s.injst c
  else if n = 0x00E then k.rqcfg
  else if n = 0x00F then k.rqptr
  else if n ≤ 0x011 then t.lccnt[n - 0x010]?.getD 0
  else if n ≤ 0x013 then t.lcbeg[n - 0x012]?.getD 0
  else if n ≤ 0x015 then t.lcend[n - 0x014]?.getD 0
  else if n = 0x016 then t.lpipe.setWidth 64
  else if n = 0x017 then t.tchain
  else if n ≤ 0x01B then (k.chans[n - 0x018]?.getD {}).status
  else if n ≤ 0x01F then k.pub[n - 0x01C]?.getD 0
  else if n ≤ 0x02F then (k.cc[n - 0x020]?.getD 0).setWidth 64
  else if n ≤ 0x033 then k.wp[n - 0x030]?.getD 0
  else if n ≤ 0x03B then (q.fifos[n - 0x034]?.getD {}).status
  else if n ≤ 0x043 then (q.fifos[n - 0x03C]?.getD {}).ring
  else if n = 0x044 then (s.partition m (s.partOfCore c)).ptroot
  else if n = 0x046 then (s.die d).hchain
  else if n = 0x047 then
    setField (s.die d).haltsel 9 1 (s.partition m (some (field (s.die d).haltsel 0 8))).halted.toNat
  else if n = 0x048 then (s.module m).haltbase
  else if n = 0x049 then k.wdog
  else if n = 0x04A then (s.die d).hqsel
  else if n = 0x04B then hq.ctl
  else if n = 0x04C then hq.base
  else if n = 0x04D then hq.tail.setWidth 64
  else if n = 0x04E then hq.head.setWidth 64
  else if n = 0x04F then k.trctl
  else if n = 0x050 then k.trbase
  else if n = 0x051 then k.trptr
  else if n = 0x052 then k.rtvec
  else if n = 0x053 then (s.die d).asgsel
  else if n = 0x054 then asgWord (s.assignment d (s.asgTarget d))
  else if n ≤ 0x05F then k.psel[n - 0x058]?.getD 0
  else k.pcnt[n - 0x060]?.getD 0

/-- `MFS` (R325). -/
def execMfs (g : Guard) (d : GReg) (r : BitVec 10) (s : State) : Host.Outcome State Fault Refusal :=
  issue { metaG 0x3C g [d] [] with sys := sysCheck r.toNat false s.src.sup, reads := sysLoops r.toNat } s (fun s =>
    if r = 0x054 ∧ s.asgTarget s.myDie = .none then trapOf s .illegal
    else .retire (s.setG d (s.readSys s.cur r.toNat)))

/-! ## Writing system registers (R3, R325) -/

/-- The fields of a register that a write reaches: every field that is RW. -/
def keep (mask : Nat) (w : Word) : Word := w &&& Word.of mask

def mask57 : Nat := 2 ^ 57 - 4
def maskFrame : Nat := 2 ^ 52 - 2 ^ 12

/-- Fields of `HQCTL`: EN, SUPQ, PART, QPRI and SZ are written; ERR is cleared by writing 1 (R286). -/
def hqctlWrite (old w : Word) : Word :=
  let m := 2 ^ 63 + 2 ^ 61 + 255 * 2 ^ 48 + 7 * 2 ^ 32 + 15
  keep m w ||| (if bit old 62 && !bit w 62 then Word.of (2 ^ 62) else 0)

/-- Fields of `TRCTL`: FULL is cleared by writing 1 (R343). -/
def trctlWrite (old w : Word) : Word :=
  let m := 2 ^ 63 + 2 ^ 62 + 255 * 2 ^ 8 + 15
  keep m w ||| (if bit old 61 && !bit w 61 then Word.of (2 ^ 61) else 0)

/-- A write of `CHSTn` (R161): ABORT alone counts where both bits are set. -/
def State.writeChst (s : State) (c n : Nat) (w : Word) : State :=
  if bit w 62 then afterEvent (execChstAbort c n s) s
  else if bit w 63 then afterEvent (execChstFaultResume c n s) s
  else s

/-- The row `haltselRun` (R337): the admission hold of a partition ends, in every module. -/
def execHaltselRun (module part : Nat) (s : State) : Host.Outcome State Fault Refusal :=
  let release := fun (k : Module) => { k with parts := k.parts.map (fun (p, x) => (p, if p = part then { x with halted := false } else x)) }
  if (s.partition module (some part)).halted then
    .next (State.redispatch { s with modules := s.modules.map (fun (m, k) => (m, release k)) })
  else .next s

/-- An `MTS` to a register without behaviour of its own, field by field (R3, R325); fields that are RO or RES ignore it.
DESIGN CHOICE: bits [14:12] of an entry of `HCHAIN` or `TCHAIN`, which R334 says are zero, are not written (log 20). -/
def State.writeSys (s : State) (tid n : Nat) (w : Word) : State :=
  let c := coreOfThread tid
  let d := dieOfCore c
  let m := moduleOfCore c
  let qn := field (s.die d).hqsel 0 8
  let th := fun (f : Thread → Thread) => s.modThread tid (fun t => f (t.renewAll (sysLoops n)))
  let co := fun (f : Core → Core) => s.modCore c f
  if n = 0x001 then th (fun t => { t with tsaved := w })
  else if n = 0x002 then th (fun t => { t with tepc := w })
  else if n = 0x003 then th (fun t => { t with tcause := keep (2 ^ 24 - 1) w })
  else if n = 0x004 then th (fun t => { t with taddr := w })
  else if n = 0x005 then th (fun t => { t with tvec := keep (mask57 + 1) w })
  else if n = 0x006 then th (fun t => { t with tscratch := w })
  else if n = 0x007 then th (fun t => { t with fflags := w.setWidth 6 })
  else if n = 0x010 ∨ n = 0x011 then th (fun t => { t with lccnt := setVecAt t.lccnt (n - 0x010) w })
  else if n = 0x012 ∨ n = 0x013 then th (fun t => { t with lcbeg := setVecAt t.lcbeg (n - 0x012) (keep (2 ^ 57 - 1) w) })
  else if n = 0x014 ∨ n = 0x015 then th (fun t => { t with lcend := setVecAt t.lcend (n - 0x014) (keep mask57 w) })
  else if n = 0x016 then th (fun t => { t with lpipe := w.setWidth 6 })
  else if n = 0x017 then th (fun t => { t with tchain := keep (0x8FFF * 2 ^ 48 + 0x8FFF * 2 ^ 32 + 0x8FFF * 2 ^ 16 + 7) w })
  else if 0x018 ≤ n ∧ n ≤ 0x01B then s.writeChst c (n - 0x018) w
  else if n = 0x044 then
    s.setPartition m (s.partOfCore c) { s.partition m (s.partOfCore c) with ptroot := keep (2 ^ 52 - 1) w }
  else if n = 0x046 then
    s.modDie d (fun k => { k with hchain := keep (0x8FFF * 2 ^ 48 + 0x8FFF * 2 ^ 32 + 0x8FFF * 2 ^ 16) w })
  else if n = 0x047 then
    let s := s.modDie d (fun k => { k with haltsel := keep 255 w })
    if bit w 8 then afterEvent (execHaltselRun m (field w 0 8) s) s else s
  else if n = 0x048 then s.modModule m (fun k => { k with haltbase := keep maskFrame w })
  else if n = 0x049 then co (fun k => { k with wdog := keep (2 ^ 16 - 1) w })
  else if n = 0x04A then s.modDie d (fun k => { k with hqsel := keep 255 w })
  else if n = 0x04B then
    let h := s.hostQueue d qn
    let s := s.setHostQueue d qn { h with ctl := hqctlWrite h.ctl w }
    if s.queueHas d qn then s.emit (.launchAdmission d qn) else s
  else if n = 0x04C then s.setHostQueue d qn { s.hostQueue d qn with base := keep (2 ^ 57 - 2 ^ 12) w }
  else if n = 0x04D then afterEvent (execHqtailWrite d qn (field w 0 32) s) s
  else if n = 0x04F then co (fun k => { k with trctl := trctlWrite k.trctl w })
  else if n = 0x050 then co (fun k => { k with trbase := keep maskFrame w })
  else if n = 0x052 then co (fun k => { k with rtvec := keep (mask57 + 1) w })
  else if n = 0x053 then s.modDie d (fun k => { k with asgsel := keep (7 * 2 ^ 16 + 255 * 2 ^ 8 + 15) w })
  else if 0x058 ≤ n ∧ n ≤ 0x05F then
    co (fun k => { k with psel := setVecAt k.psel (n - 0x058) (keep (2 ^ 31 + 2 ^ 30 + 2 ^ 16 - 1) w) })
  else if 0x060 ≤ n ∧ n ≤ 0x067 then co (fun k => { k with pcnt := setVecAt k.pcnt (n - 0x060) w })
  else s

/-- `MTS` (R325). -/
def execMts (g : Guard) (a : GReg) (r : BitVec 10) (s : State) : Host.Outcome State Fault Refusal :=
  issue (metaMts g a r.toNat s) s (fun s => .retire (s.writeSys s.cur r.toNat (s.g a)))

/-- A value of `PUBn` with EN = 1 that breaks R166. -/
def State.pubBad (s : State) (c : Nat) (n : Fin 4) (w : Word) : Bool :=
  let v := pubView w
  let l := pubLen w
  let a := pubAlt w
  v % 256 != 0 || l % 256 != 0 || a % 256 != 0 || l == 0 || decide (s.accEnd c < v + l)
    || decide (a < s.accEnd c) || decide (s.regFileStart c < a + l)
    || (List.range 4).any (fun i => i != n.val && (let p := (s.core c).pub[i]?.getD 0
        pubEn p && decide (pubView p < v + l) && decide (v < pubView p + pubLen p)))

/-- Pending stores of a thread that would land elsewhere once slot `p` becomes `w` enter the pool first (R166, R249, log 13). -/
def State.settleView (s : State) (tid : Nat) (p w : Word) : State :=
  let meets := fun (v : Word) (st : PendingStore) =>
    pubEn v && decide (st.off < pubView v + pubLen v) && decide (pubView v < st.off + st.n)
  s.drainThrough tid (fun st => meets p st || meets w st)

/-- The row `pubSlotWrite`: an `MTS` to `PUBn` (R166). -/
def execPubSlotWrite (g : Guard) (n : Fin 4) (a : GReg) (s : State) : Host.Outcome State Fault Refusal :=
  issue (metaMts g a (0x01C + n.val) s) s (fun s =>
    let w := keep (2 ^ 63 + 2 ^ 60 - 1) (s.g a)
    if bit w 63 && s.pubBad s.myCore n w then trapOf s .illegal
    else
      let s := s.settleView s.cur (s.core s.myCore).pub[n] w
      .retire (s.modCore s.myCore (fun k => { k with
        pub := k.pub.set n.val (if bit w 63 then setField w 62 1 (pubSel k.pub[n]).toNat else w) n.isLt })))

/-- The row `accrWrite`: an `MTS` to `ACCR` (R234). -/
def execAccrWrite (g : Guard) (a : GReg) (s : State) : Host.Outcome State Fault Refusal :=
  issue (metaMts g a 0x00C s) s (fun s =>
    let w := s.g a
    let ns := field w 51 7
    if 64 < ns ∨ (0 < ns ∧ ns ≤ field w 58 6) ∨ field w 25 1 = 1 then trapOf s .illegal
    else .retire (s.modTh (fun t => { t with accr := w })))

/-- The row `icinvWrite`: an `MTS` to `ICINV` (R347); fills begun before it are discarded. -/
def execIcinvWrite (g : Guard) (a : GReg) (s : State) : Host.Outcome State Fault Refusal :=
  issue (metaMts g a 0x045 s) s (fun s =>
    let hit := fun (q : Nat) => if bit (s.g a) 0 then moduleOfQuad q == s.myModule else dieOfQuad q == s.myDie
    .retire { s with quads := s.quads.map (fun (q, k) => (q, if hit q then { k with icache := [] } else k)) })

/-- A team is resident, stopped or saved on a core of the quad (R392). -/
def State.quadOccupied (s : State) (q : Nat) : Bool :=
  (coresOfQuad q).any (fun c => (s.core c).team.isSome || (s.savedAt c).isSome)

/-- An assignment that R392 forbids. -/
def State.asgBad (s : State) (d : Nat) (t : AsgTarget) (p : Option Nat) : Bool :=
  match t with
  | .none => true
  | .quad q => (s.quad q).part != p && s.quadOccupied q
  | .dieObj o => s.assignment d t != p && (s.die d).claims.any (fun (m, _) => m.testBit o)
  | .moduleObj _ => false

/-- A quad enters a partition, or leaves it; the message counts of its cores begin anew (R338, log 20). -/
def State.assignQuad (s : State) (q : Nat) (p : Option Nat) : State :=
  let s' := s.modQuad q (fun k => { k with part := p })
  if (s.quad q).part = p then s'
  else (coresOfQuad q).foldl (fun s c => s.modCore c (fun k => { k with
    sent := Vector.replicate 16 0, accepted := Vector.replicate 16 0 })) s'

/-- The row `asgpartWrite`: an `MTS` to `ASGPART` (R392). -/
def execAsgpartWrite (g : Guard) (a : GReg) (s : State) : Host.Outcome State Fault Refusal :=
  issue (metaMts g a 0x054 s) s (fun s =>
    let d := s.myDie
    let t := s.asgTarget d
    let p := if bit (s.g a) 8 then some (field (s.g a) 0 8) else none
    if s.asgBad d t p then trapOf s .illegal
    else
      let s := match t with
        | .quad q => s.assignQuad q p
        | .dieObj o => s.modDie d (fun k => { k with objPart := setVecAt k.objPart o p })
        | .moduleObj o => s.modModule (moduleOfDie d) (fun k => { k with objPart := setVecAt k.objPart o p })
        | .none => s
      .retire s.redispatch)

/-! ## Traps (R329–R333) -/

def metaE (g : Guard) (d : List GReg) (src : List GReg) : Meta := metaG 0x3E g d src

/-- `TRAP` (R332). -/
def execTrap (g : Guard) (b : Fin 32) (s : State) : Host.Outcome State Fault Refusal :=
  issue (metaE g [] []) s (fun s => .trap { cause := .software, sub := b.val, next := true } s)

/-- `BRK` (R332). -/
def execBrk (g : Guard) (s : State) : Host.Outcome State Fault Refusal :=
  issue (metaE g [] []) s (fun s => trapOf s .break)

/-- `RETT` (R333).  A `BARRW` whose arrival stands is remembered only where it returns to that `BARRW` (R264).  DESIGN CHOICE:
a lookahead window that the handler opened and that is still open ends here (R34 does not say; log 26). -/
def execRett (g : Guard) (s : State) : Host.Outcome State Fault Refusal :=
  issue (metaE g [] []) s (fun s =>
    if !s.src.hnd then trapOf s .illegal
    else if field s.src.tsaved 1 63 ≠ 0 then trapOf s .statusReserved
    else .jump (s.modTh (fun t => { t with
      sup := bit t.tsaved 0, hnd := false, windows := [], barrw := t.barrw.filter (fun b => b.2 == t.tepc) })) s.src.tepc)

/-- An encoding that traps `ILLEGAL` at decode, even under a failing guard (R38, R43). -/
def execReservedEncoding (s : State) : Host.Outcome State Fault Refusal :=
  if s.src.status ≠ .running then .fault .noThread
  else .next (s.finish { major := 0, guard := { p := 0, neg := false } } (trapOf s .illegal))

/-- The row `trapEntry` (R329): the wait of R37 is over. -/
def execTrapEntry (tid : Nat) (s : State) : Host.Outcome State Fault Refusal :=
  let th := s.thread tid
  match th.status, th.wait with
  | .waiting, some (.trap t) =>
    if th.outstanding.all (fun o => o.ended) then .next (s.enterTrap tid t th.waitWords) else .next s
  | _, _ => .next s

/-- The waits that `WDOG` limits (R336). -/
def Wait.watched : Wait → Bool
  | .counter .. | .writePointer .. | .barrier .. | .rows .. | .entries .. | .fence .. | .qpop .. | .done .. | .exit .. => true
  | _ => false

/-- A thread has waited beyond LIMIT × 65,536 cycles (R336). -/
def State.overdue (s : State) (tid : Nat) : Bool :=
  let th := s.thread tid
  let limit := field (s.core (coreOfThread tid)).wdog 0 16
  th.status == .waiting && th.wait.any Wait.watched && limit != 0
    && decide (limit * 65536 < s.cycleOf (coreOfThread tid) - th.waitCycle)
    && th.pending.all (fun t => t.origin != 6)

/-- The row `watchdogExpiry` (R336). -/
def execWatchdogExpiry (tid : Nat) (s : State) : Host.Outcome State Fault Refusal :=
  .next (if s.overdue tid then s.pend tid { cause := .watchdog, origin := 6 } else s)

/-! ## The halt tree (R337, R338) -/

/-- Cores of the pod whose team belongs to a partition: lookup cores and DCCs (R337). -/
def State.partitionCores (s : State) (part : Nat) : List Nat :=
  (s.cores.filter (fun (c, k) => kindOfCore c != .super && k.team.any (fun t => t.part == some part))).map (fun (c, _) => c)

/-- A core is part of a halt of the partition that is still in progress: a further request joins that halt (R382). -/
def State.haltJoins (s : State) (c part : Nat) : Bool :=
  let of := fun (h : HaltMark) => h.part == some part && h.cause != 2
  (s.core c).halt.any of && s.cores.any (fun e => e.2.halt.any (fun h => of h && !h.written))

/-- The halt of one partition, over every module, with a cause (R337, R382). -/
def State.haltPartition (s : State) (part cause : Nat) : State :=
  let hold := fun (k : Module) => { k with parts := k.parts.put part { (k.parts.getD part {}) with halted := true } }
  let s : State := { s with modules := s.modules.map (fun (m, k) => (m, hold k)) }
  let s := ((s.partitionCores part).filter (fun c => !s.haltJoins c part)).foldl (fun s c => s.haltCore c cause (some part)) s
  s.emits (s.modules.map (fun (m, _) => .haltRecords m part cause))

/-- `HALT` (R337; log 26): on the supervisor core the partition that `HALTSEL` names, elsewhere the core's own.  A thread of a core
that halts stops after it. -/
def execHalt (g : Guard) (s : State) : Host.Outcome State Fault Refusal :=
  issue { metaE g [] [] with priv := true } s (fun s =>
    let part := if s.kind = .super then some (field (s.die s.myDie).haltsel 0 8) else s.partOfCore s.myCore
    match part with
    | some p => .retire (s.haltPartition p 1)
    | none => .retire s)

/-- The halt record of a core (R338). -/
def State.haltRecord (s : State) (c : Nat) (h : HaltMark) : List Byte :=
  let k := s.core c
  bytesOf 8 h.cycle ++ bytesOf 8 h.time ++ bytesOf 4 h.cause ++ bytesOf 4 (coreWord c)
  ++ k.sent.toList.flatMap (fun x => bytesOf 4 x.toNat) ++ k.accepted.toList.flatMap (fun x => bytesOf 4 x.toNat)
  ++ bytesOf 104 0

/-- Cores of a module that a halt stopped and whose records are due. -/
def State.haltDue (s : State) (module part cause : Nat) : List (Nat × HaltMark) :=
  s.cores.filterMap (fun (c, k) =>
    match k.halt with
    | some h => if moduleOfCore c = module ∧ h.cause = cause ∧ partKey h.part = part ∧ h.written = false then some (c, h) else none
    | none => none)

/-- The row `haltRecords` (R338): once every message that those cores have sent has been accepted or refused. -/
def execHaltRecords (module part cause : Nat) (s : State) : Host.Outcome State Fault Refusal :=
  let due := s.haltDue module part cause
  let open_ := s.reqs.any (fun r => r.left && r.st == .waiting && due.any (fun (c, _) => c == r.src) && (match r.body with
    | .message .. => true
    | _ => false))
  if open_ then .next (s.emit (.haltRecords module part cause))
  else
    .next (due.foldl (fun s (c, h) =>
      let at_ := (s.module module).haltbase.toNat + 256 * (130 * dieIndex (dieOfCore c) + coreIndex c)
      ((s.touch module at_ false).unitWrite module at_ (s.haltRecord c h)).modCore c (fun k => { k with halt := some { h with written := true } })) s)

/-! ## Time (R341, R342) -/

/-- `TIMENS` (R341). -/
def execTimens (g : Guard) (d : GReg) (s : State) : Host.Outcome State Fault Refusal :=
  issue (metaE g [d] []) s (fun s => .retire (s.setG d (Word.of (s.timens s.myModule))))

/-- The receive queue of a core holds a message. -/
def State.hasMessage (s : State) (c : Nat) : Bool := field (s.core c).rqptr 32 32 != field (s.core c).rqptr 0 32

/-- A sleep is over (R342). -/
def State.awake (s : State) (tid : Nat) (deadline : Word) (orMessage : Bool) : Bool :=
  decide (deadline.toNat ≤ s.timens (moduleOfCore (coreOfThread tid))) || (orMessage && s.hasMessage (coreOfThread tid))

/-- `SLEEP` (R342). -/
def execSleep (g : Guard) (a : GReg) (s : State) : Host.Outcome State Fault Refusal :=
  issue (metaE g [] [a]) s (fun s => await (.sleep (s.g a) false) id (fun s' => s'.awake s.cur (s.g a) false) .retire s)

/-- `SLEEPM` (R342). -/
def execSleepm (g : Guard) (a : GReg) (s : State) : Host.Outcome State Fault Refusal :=
  issue (metaE g [] [a]) s (fun s => await (.sleep (s.g a) true) id (fun s' => s'.awake s.cur (s.g a) true) .retire s)

/-- The row `sleepWake` (R342). -/
def execSleepWake (tid : Nat) (s : State) : Host.Outcome State Fault Refusal :=
  .next (s.wake tid
    (fun w s => match w with
      | .sleep dl m => s.awake tid dl m
      | _ => false)
    (fun _ s => .retire s))

/-! ## Counters and traces (R344, R346) -/

/-- `PERF` (R346). -/
def execPerf (g : Guard) (d a : GReg) (s : State) : Host.Outcome State Fault Refusal :=
  issue (metaE g [d] [a]) s (fun s =>
    let i := Fin.ofNat 8 (field (s.g a) 0 3)
    let k := s.core s.myCore
    if !s.src.sup && (bit (s.g a) 3 || !bit k.psel[i] 30) then trapOf s .priv
    else
      let s' := s.setG d k.pcnt[i]
      .retire (if bit (s.g a) 3 then s'.modCore s.myCore (fun k => { k with pcnt := k.pcnt.set i.val 0 i.isLt }) else s'))

/-- `TRACE` (R344). -/
def execTrace (g : Guard) (a : GReg) (s : State) : Host.Outcome State Fault Refusal :=
  issue (metaE g [] [a]) s (fun s => .retire (s.trace s.myCore 0 0x0001 (threadIndex s.cur) 0 (s.g a) s.src.pc))

end Sys2Proof.Machine
end

