-- ==== Sys2Proof/Machine/Module.lean ====
section
/-!
DEFINITION. Sys2Proof/Machine/Module.lean: the module around its dies: the host bridge and management space, bring-up, the
firmware image, the mailbox, attestation, the time counter, droop, power and heat (R379–R391).
-/
namespace Sys2Proof.Machine

/-! ## Bring-up (R384) -/

/-- STATE's code (R384). -/
def BringUp.code : BringUp → Nat
  | .reset => 0 | .rom => 1 | .train => 2 | .ready => 3 | .recovery => 4 | .failed => 6

/-- The group's members (R380). -/
def groupSize (bridge : Nat) : Nat := (Config.groupCount bridge).toNat + 1

/-- The lowest-numbered module that holds a core of a partition, where its pod objects live (R257). -/
def State.podHome (s : State) (part : Nat) : Option Nat :=
  (s.quads.find? (fun (_, k) => k.part == some part)).map (fun (q, _) => moduleOfQuad q)

/-- A table without the parts of one module. -/
def Tbl.without {α : Type} (t : Tbl α) (moduleOf : Nat → Nat) (m : Nat) : Tbl α := t.filter (fun e => moduleOf e.1 != m)

/-- A team that ran on a module whose context is discarded counts as halted, whichever module's launch it belongs to. -/
def LaunchTeam.lose (m : Nat) (t : LaunchTeam) : LaunchTeam :=
  match t.core with
  | some c => if moduleOfCore c = m ∧ (t.fate = .running ∨ t.fate = .held) then { t with fate := .halted } else t
  | none => t

/-- Every core of a module stops without records, and all that its cores, caches, units, queues and pools held is gone
(R382, R386, R391). -/
def State.discardModule (s : State) (m : Nat) : State :=
  let mine := fun (c : Nat) => moduleOfCore c == m
  let lost := fun (e : Nat × Launch) => (e.1, { e.2 with teams := e.2.teams.map (LaunchTeam.lose m) })
  let s : State := { s with
    podObjs := s.podObjs.filter (fun e => s.podHome (e.1 / 16) != some m)
    mem := s.mem.clear (poolKey (4096 * m) 0) (poolKey (4096 * (m + 1)) 0)
    threads := s.threads.without (fun t => moduleOfCore (coreOfThread t)) m
    cores := s.cores.without moduleOfCore m
    quads := s.quads.without moduleOfQuad m
    dies := s.dies.without moduleOfDie m
    links := s.links.filter (fun e => if e.1 < 2 ^ 20 then e.1 / 32 != m else (e.1 - 2 ^ 20) / 16 != m)
    reqs := s.reqs.filter (fun r => !mine r.src)
    lookups := s.lookups.filter (fun x => !mine x.core)
    elisions := s.elisions.filter (fun x => !mine x.core)
    walks := s.walks.filter (fun w => w.module != m)
    saved := s.saved.filter (fun x => !mine x.home)
    heaps := s.heaps.filter (fun e => e.2.module != m)
    launches := (s.launches.filter (fun e => moduleOfDie e.2.die != m)).map lost }
  s.emits (s.launches.map (fun (i, _) => .launchComplete i))

/-- A module as reset leaves it, but for its flash, its supply and its PCIe link. -/
def Module.renew (k : Module) : Module :=
  { flash := k.flash, powered := k.powered, clocks := k.clocks, msix := k.msix, pcieWidth := k.pcieWidth, pcieRate := k.pcieRate }

/-- The row `powerGood` (R384). -/
def execPowerGood (module : Nat) (s : State) : Host.Outcome State Fault Refusal :=
  if (s.module module).powered then .next s
  else
    .next ((s.modModule module (fun k => { k with powered := true, clocks := false, state := .reset })).emit (.clocksStarted module))

/-- The row `clocksStarted` (R384). -/
def execClocksStarted (module : Nat) (s : State) : Host.Outcome State Fault Refusal :=
  if (s.module module).powered ∧ (s.module module).state = .reset then
    .next ((s.modModule module (fun k => { k with clocks := true, state := .rom })).emit (.romImageVerify module))
  else .next s

/-- The version in an image's header (R385). -/
def imageVersion (bs : List Byte) : Nat := natOfBytes ((bs.drop 4).take 4)

/-- An image verifies (R385): its length, its header, its version and its signature. -/
def imageOk (module : Nat) (bs : List Byte) : Bool :=
  let n := bs.length
  decide (128 ≤ n) && decide (n ≤ 48 * 2 ^ 20) && natOfBytes (bs.take 4) == 1
    && natOfBytes ((bs.drop 8).take 4) + 128 == n
    && ((bs.drop 12).take 52).all (fun b => b == 0)
    && decide ((Config.minVersion module).toNat ≤ imageVersion bs)
    && Config.ed25519Verify (Config.vendorKey module).toList (bs.take (n - 64)) (bs.drop (n - 64))

/-- The row `romImageVerify` (R384, R385). -/
def execRomImageVerify (module : Nat) (s : State) : Host.Outcome State Fault Refusal :=
  let k := s.module module
  if k.state ≠ .rom then .next s
  else if imageOk module k.flash then .next (s.setModule module { k with state := .train, image := k.flash })
  else .next (s.setModule module { k with state := .recovery })

/-- The supervisor cores of a module start their firmware threads, in supervisor mode (R323, R384). -/
def State.startFirmware (s : State) (m : Nat) : State :=
  (List.range 16).foldl (fun s d =>
    (List.range 8).foldl (fun s i =>
      let tid := 8 * superOfDie (16 * m + d) + i
      match Config.firmwareStart tid with
      | some pc => s.setThread tid { status := .running, pc, sup := true }
      | none => s) s) s

/-- The row `trainComplete` (R384): all DRAM is zeroed, and firmware runs. -/
def execTrainComplete (module : Nat) (ok : Bool) (s : State) : Host.Outcome State Fault Refusal :=
  let k := s.module module
  if k.state ≠ .train then .next s
  else if ok then
    let s := { s with mem := s.mem.clear (dramKey module 0) (dramKey (module + 1) 0) }
    let s := s.setModule module { k with state := .ready, fwver := BitVec.ofNat 32 (imageVersion k.image), poisoned := [], flipped := [] }
    .next (s.startFirmware module)
  else .next (s.setModule module { k with state := .failed })

/-- The row `mreset` (R382). -/
def execMreset (module : Nat) (s : State) : Host.Outcome State Fault Refusal :=
  if (s.module module).powered then
    let s := s.discardModule module
    .next ((s.modModule module (fun k => { k.renew with state := .rom })).emit (.romImageVerify module))
  else .next s

/-- The row `haltreq` (R382). -/
def execHaltreq (module : Nat) (s : State) : Host.Outcome State Fault Refusal :=
  .next (s.haltPartition (s.module module).hpart.toNat 3)

/-- A flash that was being written holds no image that verifies (R386). -/
def Module.spoil (k : Module) : Module := if k.flashing then { k with flash := [], flashing := false } else k

/-- The row `powerLoss` (R386). -/
def execPowerLoss (module : Nat) (s : State) : Host.Outcome State Fault Refusal :=
  let s := s.discardModule module
  let s := { s with mem := s.mem.clear (dramKey module 0) (dramKey (module + 1) 0) }
  .next (s.modModule module (fun k => { flash := k.spoil.flash }))

/-- The row `pcieLinkTraining` (R379): the enabled bridge trains to a width and a rate that the standard has. -/
def execPcieLinkTraining (module width rate : Nat) (s : State) : Host.Outcome State Fault Refusal :=
  if Config.bridgeEnabled module && [1, 2, 4, 8, 16].contains width && decide (1 ≤ rate) && decide (rate ≤ 6) then
    .next (s.modModule module (fun k => { k with pcieWidth := width, pcieRate := rate }))
  else .next s

/-! ## The mailbox (R386, R387) -/

/-- The mailbox is busy with this operation. -/
def Module.doing (k : Module) (op : Nat) : Bool := k.mbcode == 1 && k.mbrun == BitVec.ofNat 8 op

/-- The command ends with a code and a length. -/
def Module.reply (k : Module) (code len : Nat) : Module := { k with mbcode := BitVec.ofNat 8 code, mblen := BitVec.ofNat 16 len }

/-- The seed of the identity key (R387). -/
def identitySeed (module : Nat) : List Byte :=
  let label := "ulidin-identity".toList.map (fun c => BitVec.ofNat 8 c.toNat)
  (Config.sha512 (label ++ (Config.fusedSecret module).toList)).toList.take 32

/-- The identity public key. -/
def identityPublic (module : Nat) : List Byte := (Config.ed25519Public (identitySeed module)).toList

/-- `MID` (R381). -/
def midWord (module : Nat) : Nat :=
  module % 256 * 2 ^ 40 + (Config.member module).toNat * 2 ^ 36 + (Config.bridgeEnabled module).toNat * 2 ^ 35
    + (Config.revision module).toNat * 2 ^ 16 + 0x16

/-- The row `ident` (R386). -/
def execIdent (module : Nat) (s : State) : Host.Outcome State Fault Refusal :=
  let k := s.module module
  if !k.doing 1 then .next s
  else if k.state = .reset then .next (s.setModule module (k.reply 5 0))
  else
    let bs := identityPublic module ++ (Config.certificate module).take 1024
    .next (s.setModule module ({ k with mbbuf := k.mbbuf.writeBytes 0 bs }.reply 2 bs.length))

/-- The first 160 bytes of a report (R387). -/
def State.reportBody (s : State) (m : Nat) : List Byte :=
  let k := s.module m
  bytesOf 4 1 ++ bytesOf 4 0 ++ bytesOf 8 (Config.serial m).toNat ++ k.mbbuf.readBytes 0 32
    ++ (Config.sha512 k.image).toList ++ identityPublic m ++ bytesOf 8 (s.timens m) ++ bytesOf 8 (midWord m)

/-- The row `attest` (R387). -/
def execAttest (module : Nat) (s : State) : Host.Outcome State Fault Refusal :=
  let k := s.module module
  if !k.doing 2 then .next s
  else if k.state ≠ .ready then .next (s.setModule module (k.reply 5 0))
  else
    let body := s.reportBody module
    let bs := body ++ (Config.ed25519Sign (identitySeed module) body).toList
    .next (s.setModule module ({ k with mbbuf := k.mbbuf.writeBytes 0 bs }.reply 2 224))

/-- The row `fwload` (R386). -/
def execFwload (module : Nat) (s : State) : Host.Outcome State Fault Refusal :=
  let k := s.module module
  let n := Min.min 8192 (field k.mbval 48 16 + 1)
  let off := field k.mbval 0 32
  if !k.doing 3 then .next s
  else if k.state ≠ .ready ∧ k.state ≠ .recovery then .next (s.setModule module (k.reply 5 0))
  else if 48 * 2 ^ 20 < off + n then .next (s.setModule module (k.reply 3 0))
  else .next (s.setModule module ({ k with staging := k.staging.writeBytes off (k.mbbuf.readBytes 0 n) }.reply 2 0))

/-- The staged image that `FWCOMMIT` names; none where its length is beyond an image's. -/
def Module.staged (k : Module) : List Byte :=
  if 48 * 2 ^ 20 < field k.mbval 0 32 then [] else k.staging.readBytes 0 (field k.mbval 0 32)

/-- The row `fwcommit` (R386): the image is verified, then written to flash, which takes its time; in state 4 the module then
restarts at state 1. -/
def execFwcommit (module : Nat) (s : State) : Host.Outcome State Fault Refusal :=
  let k := s.module module
  if !k.doing 4 then .next s
  else if k.state ≠ .ready ∧ k.state ≠ .recovery then .next (s.setModule module (k.reply 5 0))
  else if k.flashing then
    let k := { k with flash := k.staged, flashing := false }.reply 2 0
    if k.state = .recovery then .next ((s.setModule module { k with state := .rom }).emit (.romImageVerify module))
    else .next (s.setModule module k)
  else if imageOk module k.staged then .next ((s.setModule module { k with flashing := true }).emit (.fwcommit module))
  else .next (s.setModule module (k.reply 4 0))

/-- The row `mailboxBadOperation` (R386). -/
def execMailboxBadOperation (module : Nat) (s : State) : Host.Outcome State Fault Refusal :=
  let k := s.module module
  if k.mbcode = 1 ∧ (k.mbrun.toNat < 1 ∨ 4 < k.mbrun.toNat) then .next (s.setModule module (k.reply 3 0)) else .next s

/-- The event that carries out an operation. -/
def mailboxEvent (module op : Nat) : Instr :=
  if op = 1 then .ident module else if op = 2 then .attest module else if op = 3 then .fwload module
  else if op = 4 then .fwcommit module else .mailboxBadOperation module

/-- A write of `MBCMD`: with GO = 1 it starts a command, unless one is in progress, which goes on unchanged (R386). -/
def State.mailboxCommand (s : State) (m : Nat) (w : Word) : State :=
  let k := s.module m
  if !bit w 63 then s.setModule m { k with mbop := w.setWidth 8 }
  else if k.mbcode = 1 then s
  else (s.setModule m { k with
    mbop := w.setWidth 8, mbrun := w.setWidth 8, mbval := k.mbarg, mbcode := 1, mblen := 0 }).emit (mailboxEvent m (field w 0 8))

/-! ## Time (R388) -/

/-- A signed number of nanoseconds as OFFS holds it. -/
def saturate32 (x : Int) : BitVec 32 := BitVec.ofInt 32 (Max.max (-2 ^ 31) (Min.min (2 ^ 31 - 1) x))

/-- The row `timesetWrite` (R388). -/
def execTimesetWrite (module val : Nat) (s : State) : Host.Outcome State Fault Refusal :=
  let k := s.module module
  if k.state ≠ .ready ∨ k.timeRun then .next s
  else .next (s.setModule module { k with start := Word.of val, time := val % 2 ^ 64, timeRun := true })

/-- The row `ptpFrame` (R388): the servo measures the offset from the grandmaster, whose time at this moment is `gm`.  A
stopped counter starts there; a running one is slewed towards it.  DEDUCED: an offset beyond the bound clears LOCK at once,
since with LOCK = 1 the counter lies within it; the loss is reported after 2^31 cycles (log 27). -/
def execPtpFrame (module gm : Nat) (s : State) : Host.Outcome State Fault Refusal :=
  let k := s.module module
  if k.state ≠ .ready then .next s
  else
    let diff : Int := Int.ofNat (s.timens module) - Int.ofNat gm
    let k := { k with offs := saturate32 diff }
    let locked := { k with lock := true, lockHeld := true, lastLock := k.cycles }
    if !k.timeRun then .next (s.setModule module { locked with time := gm % 2 ^ 64, timeRun := true, slew := 0 })
    else if -50 ≤ diff ∧ diff ≤ 50 then .next (s.setModule module { locked with slew := -diff })
    else .next (s.setModule module { k with lock := false, slew := -diff })

/-- The counter runs on by `dt` nanoseconds of its own and is slewed by at most one nanosecond in ten thousand: it neither
steps nor decreases (R388). -/
def Module.advance (k : Module) (dt : Nat) : Module :=
  if !k.timeRun then k
  else
    let acc := k.slewAcc + dt
    let room := acc / 10000
    let used : Int := Max.max (-Int.ofNat room) (Min.min (Int.ofNat room) k.slew)
    { k with time := (Int.ofNat (k.time + dt) + used).toNat, slew := k.slew - used, slewAcc := acc % 10000 }

/-- Lock has been lost for more than 2^31 cycles, which is still to be reported (R388). -/
def Module.lockLost (k : Module) : Bool := k.lockHeld && decide (2 ^ 31 < k.cycles - k.lastLock)

/-- The row `lockLoss` (R388). -/
def execLockLoss (module : Nat) (s : State) : Host.Outcome State Fault Refusal :=
  let k := s.module module
  if k.lockLost then .next (s.setModule module { k with lock := false, lockHeld := false, msix := k.msix + 1 })
  else .next s

/-! ## Droop, power and heat (R389–R391) -/

/-- The row `droopDetect` (R389): a stretch episode begins. -/
def execDroopDetect (die : Nat) (s : State) : Host.Outcome State Fault Refusal :=
  if (s.die die).droop then .next s
  else .next (s.modDie die (fun d => { d with droop := true, stretched := 0, episode := 0, slip := 0 }))

/-- The row `droopRecover` (R389): a stretch episode ends, with a record of class 7 at each core of the die (R344).  The record
holds the die's own counts of the episode, which are the machine's, not what the event says of its length (log 6). -/
def execDroopRecover (die _cycles _ns : Nat) (s : State) : Host.Outcome State Fault Refusal :=
  let k := s.die die
  if k.droop then
    let s := s.modDie die (fun d => { d with droop := false, slip := 0 })
    .next ((s.cores.filter (fun (c, _) => dieOfCore c == die)).foldl (fun s (c, _) =>
      s.trace c 7 0x0700 0 0 (Word.of k.stretched) (Word.of (k.episode / 1000))) s)
  else .next s

/-- The power limit and the throttle temperature that act (R390). -/
def Module.limit (k : Module) : Nat := Max.max 1500 (Min.min 4800 k.pwrlim.toNat)
def Module.throttleAt (k : Module) : Nat := Max.max 60 (Min.min 100 k.tthr.toNat)

/-- Throttling is due (R391). -/
def Module.throttled (k : Module) : Bool := decide (k.limit < k.avgw.toNat) || decide (k.throttleAt ≤ k.tmax.toNat)

/-- The row `powerWindow` (R390, R391). -/
def execPowerWindow (module watts : Nat) (s : State) : Host.Outcome State Fault Refusal :=
  .next (s.modModule module (fun k =>
    let k := { k with avgw := BitVec.ofNat 16 watts, peakw := BitVec.ofNat 16 (Max.max k.peakw.toNat (watts % 2 ^ 16)) }
    { k with throt := k.throttled }))

/-- A sample of the hottest junction, and the throttling that it decides (R390, R391). -/
def Module.heated (k : Module) (temp : Nat) : Module :=
  let k := { k with tmax := BitVec.ofNat 8 temp }
  { k with throt := k.throttled }

/-- The module is as hot as its trip temperature, and has not tripped yet (R391). -/
def Module.trips (k : Module) : Bool := !k.tripped && decide (k.ttrip.toNat ≤ k.tmax.toNat)

/-- The row `thermalThrottle` (R391): a sample below the trip temperature; one that reaches it trips the module. -/
def execThermalThrottle (module temp : Nat) (s : State) : Host.Outcome State Fault Refusal :=
  let s := s.modModule module (fun k => k.heated temp)
  .next (if (s.module module).trips then s.emit (.thermalTrip module temp) else s)

/-- The partitions of a module: those of its quads, of its teams, and those that it holds translations or a hold of. -/
def State.partitionsOn (s : State) (m : Nat) : List Nat :=
  ((s.cores.filterMap (fun (c, k) => if moduleOfCore c = m then k.team.bind (fun t => t.part) else none))
    ++ (s.quads.filterMap (fun (q, k) => if moduleOfQuad q = m then k.part else none))
    ++ ((s.module m).parts.map (fun e => e.1)).filter (fun p => p != partKey none)).eraseDups

/-- A halt record of a module's core is still to be written. -/
def State.recordsDue (s : State) (m : Nat) : Bool :=
  s.cores.any (fun (c, k) => moduleOfCore c == m && k.halt.any (fun h => !h.written))

/-- The row `thermalTrip` (R391): the trip halts every partition with cause 3, and once the halt records are written the
cores lose their power. -/
def execThermalTrip (module temp : Nat) (s : State) : Host.Outcome State Fault Refusal :=
  let k := s.module module
  if k.tripped then
    if s.recordsDue module then .next (s.emit (.thermalTrip module temp))
    else .next (s.discardModule module)
  else
    let s := s.setModule module (k.heated temp)
    if (s.module module).trips then
      let k := { (s.module module).spoil with tripped := true, msix := k.msix + 1 }
      let s := s.setModule module (if k.doing 4 then k.reply 4 0 else k)
      .next (((s.partitionsOn module).foldl (fun s p => s.haltPartition p 3) s).emit (.thermalTrip module temp))
    else .next s

/-! ## Management space (R380, R381, R384) -/

/-- The 8-byte register at an offset is assigned: the queue windows and the registers beyond the first ones answer only in
state `READY` (R381, R384). -/
def Module.assigned (k : Module) (base : Nat) : Bool :=
  [0x0000, 0x0008, 0x0010, 0x0018, 0x1000, 0x1008, 0x1010].contains base || (decide (0x2000 ≤ base) && decide (base < 0x4000))
    || (k.state == .ready && ([0x40, 0x48, 0x50, 0x100, 0x108].contains base || (decide (0x80 ≤ base) && decide (base < 0x100))
      || (decide (0x10000 ≤ base) && decide (base < 0x30000))))

/-- An access that R380 allows: 4 or 8 bytes, naturally aligned, of an assigned register. -/
def Module.accessOk (k : Module) (off size : Nat) : Bool :=
  (size == 4 || size == 8) && off % size == 0 && k.assigned (off / 8 * 8)

/-- The die and the queue of an offset in the queue windows. -/
def windowQueue (m base : Nat) : Nat × Nat := (16 * m + (base - 0x10000) / 0x2000, (base - 0x10000) % 0x2000 / 32)

/-- The 8 bytes that the host reads at an offset. -/
def State.mgmtRead (s : State) (m base : Nat) : Nat :=
  let k := s.module m
  if base = 0x00 then midWord m
  else if base = 0x08 then k.fwver.toNat * 2 ^ 32 + k.throt.toNat * 2 ^ 10 + k.badacc.toNat * 2 ^ 9 + k.state.code
  else if base = 0x10 then k.hpart.toNat
  else if base = 0x18 then (Config.groupCount m).toNat * 2 ^ 8 + (Config.groupFirst m).toNat
  else if base = 0x40 then k.pwrlim.toNat
  else if base = 0x48 then k.peakw.toNat * 2 ^ 32 + k.avgw.toNat
  else if base = 0x50 then k.tmax.toNat * 2 ^ 16 + k.tthr.toNat * 2 ^ 8 + k.ttrip.toNat
  else if base < 0x100 then
    let d := s.die (16 * m + (base - 0x80) / 8)
    d.dramc.toNat * 2 ^ 32 + d.poolc.toNat
  else if base = 0x100 then k.lock.toNat * 2 ^ 63 + k.timeRun.toNat * 2 ^ 62 + k.offs.toNat
  else if base = 0x108 then k.start.toNat
  else if base = 0x1000 then k.mbop.toNat
  else if base = 0x1008 then k.mbarg.toNat
  else if base = 0x1010 then k.mblen.toNat * 2 ^ 16 + k.mbcode.toNat
  else if base < 0x4000 then natOfBytes (k.mbbuf.readBytes (base - 0x2000) 8)
  else
    let (d, q) := windowQueue m base
    let h := s.hostQueue d q
    match base % 32 / 8 with
    | 0 => h.ctl.toNat
    | 1 => h.base.toNat
    | 2 => h.tail.toNat
    | _ => h.head.toNat

/-- The bits that are cleared by writing 1: a host write that does not reach them leaves them. -/
def clearedByOne (base : Nat) : Nat :=
  if base = 0x08 then 2 ^ 9 else if 0x10000 ≤ base ∧ base % 32 = 0 then 2 ^ 62 else 0

/-- The host's write of the queue windows (R286, R381). -/
def State.windowWrite (s : State) (m base : Nat) (low : Bool) (w : Word) : State :=
  let (d, q) := windowQueue m base
  let h := s.hostQueue d q
  match base % 32 / 8 with
  | 0 =>
    let s := s.setHostQueue d q { h with ctl := hqctlWrite h.ctl w }
    if s.queueHas d q then s.emit (.launchAdmission d q) else s
  | 1 => s.setHostQueue d q { h with base := keep (2 ^ 57 - 2 ^ 12) w }
  | 2 => if low then afterEvent (execHqtailWrite d q (field w 0 32) s) s else s
  | _ => s

/-- The host's write of `size` bytes of a register.  A register of which a part is written keeps the rest. -/
def State.mgmtWrite (s : State) (m off size val : Nat) : State :=
  let base := off / 8 * 8
  let sh := 8 * (off % 8)
  let mask := (2 ^ (8 * size) - 1) * 2 ^ sh
  let put := val % 2 ^ (8 * size) * 2 ^ sh
  let stay := Word.of (s.mgmtRead m base) &&& ~~~Word.of (mask ||| clearedByOne base)
  let w := stay ||| Word.of put
  let low := decide (sh = 0)
  let md := fun (f : Module → Module) => s.modModule m f
  if base = 0x08 then (if bit w 9 then md (fun k => { k with badacc := false }) else s)
  else if base = 0x10 then
    let s := md (fun k => { k with hpart := w.setWidth 8 })
    let s := if bit w 15 then afterEvent (execHaltreq m s) s else s
    if bit w 31 then afterEvent (execMreset m s) s else s
  else if base = 0x40 then md (fun k => { k with pwrlim := w.setWidth 16 })
  else if base = 0x50 then md (fun k => { k with tthr := BitVec.ofNat 8 (field w 8 8) })
  else if 0x80 ≤ base ∧ base < 0x100 then
    s.modDie (16 * m + (base - 0x80) / 8) (fun d => { d with dramc := BitVec.ofNat 32 (field w 32 32), poolc := w.setWidth 32 })
  else if base = 0x108 then afterEvent (execTimesetWrite m w.toNat s) s
  else if base = 0x1000 then s.mailboxCommand m w
  else if base = 0x1008 then md (fun k => { k with mbarg := w })
  else if 0x2000 ≤ base ∧ base < 0x4000 then
    md (fun k => { k with mbbuf := k.mbbuf.writeBytes (off - 0x2000) (bytesOf size val) })
  else if 0x10000 ≤ base then s.windowWrite m base low w
  else s

/-- The bytes that a host read brings. -/
def State.answer (s : State) (bs : List Byte) : State := { s with toHost := s.toHost ++ [bs] }

/-- An access that R380 does not allow: a write is dropped, a read returns all ones, and the bridge's BADACC is set. -/
def State.badAccess (s : State) (bridge n : Nat) (write : Bool) : State :=
  let s := s.modModule bridge (fun k => { k with badacc := true })
  if write then s else s.answer (List.replicate n 0xFF)

/-- A BAR0 access at the module that it names (R380, R381). -/
def State.mgmtAccess (s : State) (m bridge off size : Nat) (write : Bool) (val : Nat) : State :=
  if !(s.module m).accessOk off size then s.badAccess bridge size write
  else if write then s.mgmtWrite m off size val
  else s.answer (bytesOf size (s.mgmtRead m (off / 8 * 8) / 2 ^ (8 * (off % 8))))

/-- The host reaches a module's bridge: it is the enabled one of its group, and has power (R26, R379). -/
def State.bridgeUp (s : State) (m : Nat) : Bool := Config.bridgeEnabled m && (s.module m).powered

/-- The row `mgmtRegisterWrite` (R380, R381, R384): a host access through a module's bridge, to BAR0 offset `off`; one to
another member of the group leaves as a control packet. -/
def execMgmtRegisterWrite (module off size : Nat) (write : Bool) (val : Nat) (s : State) : Host.Outcome State Fault Refusal :=
  if !s.bridgeUp module then .next s
  else
    let i := off / 2 ^ 20
    let m := (Config.groupFirst module).toNat + i
    if groupSize module ≤ i then .next (s.badAccess module size write)
    else if m = module then .next (s.mgmtAccess module module (off % 2 ^ 20) size write val)
    else .next (s.emit (.mgmtControlPacket m module (off % 2 ^ 20) size write val))

/-- The row `mgmtControlPacket` (R384): a member's fabric port accepts such packets from state `ROM` on.  They go from the
bridge's die 0 to the member's (R26); where a fabric link between them is down the access is completed as one that R380 does
not allow (log 27). -/
def execMgmtControlPacket (module bridge off size : Nat) (write : Bool) (val : Nat) (s : State) :
    Host.Outcome State Fault Refusal :=
  if (s.module module).state = .reset ∨ s.routeDown (16 * bridge) (16 * module) = true then
    .next (s.badAccess bridge size write)
  else .next (s.mgmtAccess module bridge off size write val)

/-- The bytes of a host read of DRAM; what an uncorrectable word gives it is not stated (log 5). -/
def State.hostBytes (s : State) (m pa n : Nat) : List Byte :=
  if s.dramBad m pa n then (List.range n).map (fun i => (Config.freeWord (s.free + i)).setWidth 8) else s.dramBytes m pa n

/-- The dies of the bytes that a BAR2 access reaches, and whether the way from the bridge's die 0 to each of them, and for a
read the way back, is open (R26, R279). -/
def State.barOpen (s : State) (bridge m pa n : Nat) (write : Bool) : Bool :=
  [pa, pa + (n - 1)].all (fun x =>
    (s.blockedWay (16 * bridge) (16 * m + dieOfPa x)).isNone
      && (write || (s.blockedWay (16 * m + dieOfPa x) (16 * bridge)).isNone))

/-- The row `hostBar2Access` (R380): `bytes` are those written, or as many as are read.  An access whose way is blocked is
completed as one that R380 does not allow (log 27). -/
def execHostBar2Access (module off : Nat) (write : Bool) (bytes : List (BitVec 8)) (s : State) :
    Host.Outcome State Fault Refusal :=
  let i := off / 2 ^ 41
  let m := (Config.groupFirst module).toNat + i
  let pa := off % 2 ^ 41
  if !s.bridgeUp module then .next s
  else if groupSize module ≤ i ∨ (s.module m).state ≠ .ready ∨ 2 ^ 41 < pa + bytes.length
      ∨ s.barOpen module m pa bytes.length write = false then
    .next (s.badAccess module bytes.length write)
  else if write then .next ((s.unitWrite m pa bytes).touch m pa false)
  else .next ({ s.answer (s.hostBytes m pa bytes.length) with free := s.free + bytes.length }.readAt m pa bytes.length false)

end Sys2Proof.Machine
end

