-- ==== Sys2Proof/Machine/Scalar.lean ====
section
/-!
DEFINITION. Sys2Proof/Machine/Scalar.lean: scalar integer operations, constants, compares and predicate operations
(R61–R67).
-/
namespace Sys2Proof.Machine

/-- The shift and rotate count: bits [5:0] (R61). -/
def shiftCount (b : Word) : Nat := b.toNat % 64

/-- The high half of a signed product (R61). -/
def mulHigh (a b : Word) : Word := BitVec.ofInt 64 (a.toInt * b.toInt / 2 ^ 64)
/-- The high half of an unsigned product. -/
def mulHighZ (a b : Word) : Word := Word.of (a.toNat * b.toNat / 2 ^ 64)

/-- Signed division truncates toward zero; −2^63 by −1 gives −2^63 (R61, R62). -/
def divS (a b : Word) : Word := BitVec.ofInt 64 (a.toInt.tdiv b.toInt)
/-- The remainder has the sign of the dividend (R61). -/
def remS (a b : Word) : Word := BitVec.ofInt 64 (a.toInt.tmod b.toInt)
def divU (a b : Word) : Word := Word.of (a.toNat / b.toNat)
def remU (a b : Word) : Word := Word.of (a.toNat % b.toNat)

/-- Leading zero bits of the low `n` bits, from the top. -/
def leadingZeros (x : Nat) : Nat → Nat
  | 0 => 0
  | n + 1 => if x.testBit n then 0 else 1 + leadingZeros x n

/-- Trailing zero bits, from bit `i`, of `n` bits. -/
def trailingZeros (x i : Nat) : Nat → Nat
  | 0 => 0
  | n + 1 => if x.testBit i then 0 else 1 + trailingZeros x (i + 1) n

/-- One bits among the low `n`. -/
def onesOf (x : Nat) : Nat → Nat
  | 0 => 0
  | n + 1 => (x.testBit n).toNat + onesOf x n

/-- BEXT (R63): the field of `wid` bits at `pos`, cut at bit 63. -/
def bitExtract (a : Word) (pos wid : Nat) : Word :=
  let k := min (min wid 64) (64 - pos)
  Word.of (a.toNat / 2 ^ pos % 2 ^ k)

/-- BINS (R63): the low bits of `a` into the field of `old`, the other bits kept. -/
def bitInsert (old a : Word) (pos wid : Nat) : Word :=
  let k := min (min wid 64) (64 - pos)
  setField old pos k a.toNat

/-- A three-register operation. -/
def scalar3 (g : Guard) (d a b : GReg) (f : Word → Word → Word) (s : State) : Host.Outcome State Fault Refusal :=
  issue (metaG 0x01 g [d] [a, b]) s (fun s => .retire (s.setG d (f (s.g a) (s.g b))))

/-- A two-register operation. -/
def scalar2 (g : Guard) (d a : GReg) (f : Word → Word) (s : State) : Host.Outcome State Fault Refusal :=
  issue (metaG 0x01 g [d] [a]) s (fun s => .retire (s.setG d (f (s.g a))))

/-- A division traps `DIV_ZERO` on a zero divisor (R62). -/
def division (g : Guard) (d a b : GReg) (f : Word → Word → Word) (s : State) : Host.Outcome State Fault Refusal :=
  issue (metaG 0x01 g [d] [a, b]) s (fun s =>
    if s.g b = 0 then trapOf s .divZero else .retire (s.setG d (f (s.g a) (s.g b))))

/-- An operation with an immediate (R64). -/
def scalarImm (major : Nat) (words : Nat) (g : Guard) (d a : GReg) (f : Word → Word) (s : State) :
    Host.Outcome State Fault Refusal :=
  issue (metaG major g [d] [a] words) s (fun s => .retire (s.setG d (f (s.g a))))

/-- `ADD` (R61). -/
def execAdd (g : Guard) (d a b : GReg) (s : State) : Host.Outcome State Fault Refusal :=
  scalar3 g d a b (fun x y => x + y) s

/-- `SUB` (R61). -/
def execSub (g : Guard) (d a b : GReg) (s : State) : Host.Outcome State Fault Refusal :=
  scalar3 g d a b (fun x y => x - y) s

/-- `AND` (R61). -/
def execAnd (g : Guard) (d a b : GReg) (s : State) : Host.Outcome State Fault Refusal :=
  scalar3 g d a b (fun x y => x &&& y) s

/-- `OR` (R61). -/
def execOr (g : Guard) (d a b : GReg) (s : State) : Host.Outcome State Fault Refusal :=
  scalar3 g d a b (fun x y => x ||| y) s

/-- `XOR` (R61). -/
def execXor (g : Guard) (d a b : GReg) (s : State) : Host.Outcome State Fault Refusal :=
  scalar3 g d a b (fun x y => x ^^^ y) s

/-- `ANDN` (R61). -/
def execAndn (g : Guard) (d a b : GReg) (s : State) : Host.Outcome State Fault Refusal :=
  scalar3 g d a b (fun x y => x &&& ~~~y) s

/-- `SHL` (R61). -/
def execShl (g : Guard) (d a b : GReg) (s : State) : Host.Outcome State Fault Refusal :=
  scalar3 g d a b (fun x y => x <<< shiftCount y) s

/-- `SHR` (R61). -/
def execShr (g : Guard) (d a b : GReg) (s : State) : Host.Outcome State Fault Refusal :=
  scalar3 g d a b (fun x y => x >>> shiftCount y) s

/-- `SAR` (R61). -/
def execSar (g : Guard) (d a b : GReg) (s : State) : Host.Outcome State Fault Refusal :=
  scalar3 g d a b (fun x y => x.sshiftRight (shiftCount y)) s

/-- `ROL` (R61). -/
def execRol (g : Guard) (d a b : GReg) (s : State) : Host.Outcome State Fault Refusal :=
  scalar3 g d a b (fun x y => x.rotateLeft (shiftCount y)) s

/-- `MUL` (R61). -/
def execMul (g : Guard) (d a b : GReg) (s : State) : Host.Outcome State Fault Refusal :=
  scalar3 g d a b (fun x y => x * y) s

/-- `MULH` (R61). -/
def execMulh (g : Guard) (d a b : GReg) (s : State) : Host.Outcome State Fault Refusal :=
  scalar3 g d a b (fun x y => mulHigh x y) s

/-- `MULHZ` (R61). -/
def execMulhz (g : Guard) (d a b : GReg) (s : State) : Host.Outcome State Fault Refusal :=
  scalar3 g d a b (fun x y => mulHighZ x y) s

/-- `MIN` (R61). -/
def execMin (g : Guard) (d a b : GReg) (s : State) : Host.Outcome State Fault Refusal :=
  scalar3 g d a b (fun x y => if x.slt y then x else y) s

/-- `MAX` (R61). -/
def execMax (g : Guard) (d a b : GReg) (s : State) : Host.Outcome State Fault Refusal :=
  scalar3 g d a b (fun x y => if x.slt y then y else x) s

/-- `MINZ` (R61). -/
def execMinz (g : Guard) (d a b : GReg) (s : State) : Host.Outcome State Fault Refusal :=
  scalar3 g d a b (fun x y => if x.ult y then x else y) s

/-- `MAXZ` (R61). -/
def execMaxz (g : Guard) (d a b : GReg) (s : State) : Host.Outcome State Fault Refusal :=
  scalar3 g d a b (fun x y => if x.ult y then y else x) s

/-- `DIV` (R61, R62). -/
def execDiv (g : Guard) (d a b : GReg) (s : State) : Host.Outcome State Fault Refusal :=
  division g d a b divS s

/-- `DIVZ` (R61, R62). -/
def execDivz (g : Guard) (d a b : GReg) (s : State) : Host.Outcome State Fault Refusal :=
  division g d a b divU s

/-- `REM` (R61, R62). -/
def execRem (g : Guard) (d a b : GReg) (s : State) : Host.Outcome State Fault Refusal :=
  division g d a b remS s

/-- `REMZ` (R61, R62). -/
def execRemz (g : Guard) (d a b : GReg) (s : State) : Host.Outcome State Fault Refusal :=
  division g d a b remU s

/-- `Clz` (R61). -/
def execClz (g : Guard) (d a : GReg) (s : State) : Host.Outcome State Fault Refusal :=
  scalar2 g d a (fun x => Word.of (leadingZeros x.toNat 64)) s

/-- `Ctz` (R61). -/
def execCtz (g : Guard) (d a : GReg) (s : State) : Host.Outcome State Fault Refusal :=
  scalar2 g d a (fun x => Word.of (trailingZeros x.toNat 0 64)) s

/-- `Popc` (R61). -/
def execPopc (g : Guard) (d a : GReg) (s : State) : Host.Outcome State Fault Refusal :=
  scalar2 g d a (fun x => Word.of (onesOf x.toNat 64)) s

/-- `SextB` (R61). -/
def execSextB (g : Guard) (d a : GReg) (s : State) : Host.Outcome State Fault Refusal :=
  scalar2 g d a (fun x => signExt x.toNat 8) s

/-- `SextH` (R61). -/
def execSextH (g : Guard) (d a : GReg) (s : State) : Host.Outcome State Fault Refusal :=
  scalar2 g d a (fun x => signExt x.toNat 16) s

/-- `SextW` (R61). -/
def execSextW (g : Guard) (d a : GReg) (s : State) : Host.Outcome State Fault Refusal :=
  scalar2 g d a (fun x => signExt x.toNat 32) s

/-- `ZextB` (R61). -/
def execZextB (g : Guard) (d a : GReg) (s : State) : Host.Outcome State Fault Refusal :=
  scalar2 g d a (fun x => zeroExt x.toNat 8) s

/-- `ZextH` (R61). -/
def execZextH (g : Guard) (d a : GReg) (s : State) : Host.Outcome State Fault Refusal :=
  scalar2 g d a (fun x => zeroExt x.toNat 16) s

/-- `ZextW` (R61). -/
def execZextW (g : Guard) (d a : GReg) (s : State) : Host.Outcome State Fault Refusal :=
  scalar2 g d a (fun x => zeroExt x.toNat 32) s

/-- `BEXT` with position and width in gB[5:0] and gB[14:8] (R63). -/
def execBext (g : Guard) (d a b : GReg) (s : State) : Host.Outcome State Fault Refusal :=
  scalar3 g d a b (fun x y => bitExtract x (field y 0 6) (field y 8 7)) s

/-- `BINS`; gD is a source as well (R63). -/
def execBins (g : Guard) (d a b : GReg) (s : State) : Host.Outcome State Fault Refusal :=
  issue (metaG 0x01 g [d] [d, a, b]) s (fun s =>
    .retire (s.setG d (bitInsert (s.g d) (s.g a) (field (s.g b) 0 6) (field (s.g b) 8 7))))

/-- `BEXT` with position and width in its second word (R32, R63). -/
def execBextDw (g : Guard) (d a : GReg) (pos : Fin 64) (wid : Fin 128) (s : State) :
    Host.Outcome State Fault Refusal :=
  issue (metaG 0x01 g [d] [a] 2) s (fun s => .retire (s.setG d (bitExtract (s.g a) pos.val wid.val)))

/-- `BINS` with position and width in its second word (R32, R63). -/
def execBinsDw (g : Guard) (d a : GReg) (pos : Fin 64) (wid : Fin 128) (s : State) :
    Host.Outcome State Fault Refusal :=
  issue (metaG 0x01 g [d] [d, a] 2) s (fun s => .retire (s.setG d (bitInsert (s.g d) (s.g a) pos.val wid.val)))

/-- `ADDI` with imm10 (R64). -/
def execAddi (g : Guard) (d a : GReg) (imm : BitVec 10) (s : State) : Host.Outcome State Fault Refusal :=
  scalarImm 0x02 1 g d a (fun x => let y := imm.signExtend 64; x + y) s

/-- `ADDI` with imm32 (R32, R64). -/
def execAddiDw (g : Guard) (d a : GReg) (imm : BitVec 32) (s : State) : Host.Outcome State Fault Refusal :=
  scalarImm 0x02 2 g d a (fun x => let y := imm.signExtend 64; x + y) s

/-- `ANDI` with imm10 (R64). -/
def execAndi (g : Guard) (d a : GReg) (imm : BitVec 10) (s : State) : Host.Outcome State Fault Refusal :=
  scalarImm 0x03 1 g d a (fun x => let y := imm.signExtend 64; x &&& y) s

/-- `ANDI` with imm32 (R32, R64). -/
def execAndiDw (g : Guard) (d a : GReg) (imm : BitVec 32) (s : State) : Host.Outcome State Fault Refusal :=
  scalarImm 0x03 2 g d a (fun x => let y := imm.signExtend 64; x &&& y) s

/-- `ORI` with imm10 (R64). -/
def execOri (g : Guard) (d a : GReg) (imm : BitVec 10) (s : State) : Host.Outcome State Fault Refusal :=
  scalarImm 0x04 1 g d a (fun x => let y := imm.signExtend 64; x ||| y) s

/-- `ORI` with imm32 (R32, R64). -/
def execOriDw (g : Guard) (d a : GReg) (imm : BitVec 32) (s : State) : Host.Outcome State Fault Refusal :=
  scalarImm 0x04 2 g d a (fun x => let y := imm.signExtend 64; x ||| y) s

/-- `XORI` with imm10 (R64). -/
def execXori (g : Guard) (d a : GReg) (imm : BitVec 10) (s : State) : Host.Outcome State Fault Refusal :=
  scalarImm 0x05 1 g d a (fun x => let y := imm.signExtend 64; x ^^^ y) s

/-- `XORI` with imm32 (R32, R64). -/
def execXoriDw (g : Guard) (d a : GReg) (imm : BitVec 32) (s : State) : Host.Outcome State Fault Refusal :=
  scalarImm 0x05 2 g d a (fun x => let y := imm.signExtend 64; x ^^^ y) s

/-- `SHLI` (R64). -/
def execShli (g : Guard) (d a : GReg) (n : Fin 64) (s : State) : Host.Outcome State Fault Refusal :=
  scalarImm 0x06 1 g d a (fun x => x <<< n.val) s

/-- `SHRI` (R64). -/
def execShri (g : Guard) (d a : GReg) (n : Fin 64) (s : State) : Host.Outcome State Fault Refusal :=
  scalarImm 0x06 1 g d a (fun x => x >>> n.val) s

/-- `SARI` (R64). -/
def execSari (g : Guard) (d a : GReg) (n : Fin 64) (s : State) : Host.Outcome State Fault Refusal :=
  scalarImm 0x06 1 g d a (fun x => x.sshiftRight n.val) s

/-- `LIMM` (R65). -/
def execLimm (g : Guard) (d : GReg) (imm : BitVec 10) (s : State) : Host.Outcome State Fault Refusal :=
  issue (metaG 0x07 g [d] [] 1) s (fun s => .retire (s.setG d (imm.signExtend 64)))

/-- `LIMMH`: the high half from the immediate, the low half of gD kept; gD is a source (R65). -/
def execLimmh (g : Guard) (d : GReg) (imm : BitVec 10) (s : State) : Host.Outcome State Fault Refusal :=
  issue (metaG 0x07 g [d] [d] 1) s (fun s =>
    .retire (s.setG d (setField (s.g d) 32 32 (imm.signExtend 64).toNat)))

/-- `ADDPC`: the address of the instruction, or of its bundle on the DCC, plus the immediate (R65). -/
def execAddpc (g : Guard) (d : GReg) (imm : BitVec 10) (s : State) : Host.Outcome State Fault Refusal :=
  issue (metaG 0x07 g [d] [] 1) s (fun s => .retire (s.setG d (s.src.pc + imm.signExtend 64)))

/-- `LIMM` (R65). -/
def execLimmDw (g : Guard) (d : GReg) (imm : BitVec 32) (s : State) : Host.Outcome State Fault Refusal :=
  issue (metaG 0x07 g [d] [] 2) s (fun s => .retire (s.setG d (imm.signExtend 64)))

/-- `LIMMH`: the high half from the immediate, the low half of gD kept; gD is a source (R65). -/
def execLimmhDw (g : Guard) (d : GReg) (imm : BitVec 32) (s : State) : Host.Outcome State Fault Refusal :=
  issue (metaG 0x07 g [d] [d] 2) s (fun s =>
    .retire (s.setG d (setField (s.g d) 32 32 (imm.signExtend 64).toNat)))

/-- `ADDPC`: the address of the instruction, or of its bundle on the DCC, plus the immediate (R65). -/
def execAddpcDw (g : Guard) (d : GReg) (imm : BitVec 32) (s : State) : Host.Outcome State Fault Refusal :=
  issue (metaG 0x07 g [d] [] 2) s (fun s => .retire (s.setG d (s.src.pc + imm.signExtend 64)))

/-- The conditions of `CMP` and `CMPI`, by code (R45, R66). -/
def condition (c : Fin 8) (x y : Word) : Bool :=
  match c with
  | 0 => x == y
  | 1 => x != y
  | 2 => x.slt y
  | 3 => !x.slt y
  | 4 => !y.slt x
  | 5 => y.slt x
  | 6 => x.ult y
  | 7 => !x.ult y

/-- The shape of a compare: it writes one predicate. -/
def compareImm (words : Nat) (major : Nat) (g : Guard) (c : Fin 8) (p : PReg) (a : GReg) (y : Word) (s : State) :
    Host.Outcome State Fault Refusal :=
  issue { major, guard := g, words, reads := gs [a], writes := ps [p] } s (fun s =>
    .retire (s.setP p (condition c (s.g a) y)))

/-- `CMP.cc` (R66). -/
def execCmpCc (g : Guard) (c : Fin 8) (p : PReg) (a b : GReg) (s : State) : Host.Outcome State Fault Refusal :=
  issue { major := 0x08, guard := g, reads := gs [a, b], writes := ps [p] } s (fun s =>
    .retire (s.setP p (condition c (s.g a) (s.g b))))

/-- `CMPI.cc` with a code below 4, major 0x09 (R45, R66). -/
def execCmpiCcLow (g : Guard) (c : Fin 4) (p : PReg) (a : GReg) (imm : BitVec 10) (s : State) :
    Host.Outcome State Fault Refusal :=
  compareImm 1 0x09 g (c.castLE (by decide)) p a (imm.signExtend 64) s

/-- `CMPI.cc` with a code from 4 on, major 0x0A (R45, R66). -/
def execCmpiCcHigh (g : Guard) (c : Fin 4) (p : PReg) (a : GReg) (imm : BitVec 10) (s : State) :
    Host.Outcome State Fault Refusal :=
  compareImm 1 0x0A g (c.natAdd 4) p a (imm.signExtend 64) s

/-- `CMPI.cc` with imm32 (R32, R66). -/
def execCmpiDw (g : Guard) (c : Fin 8) (p : PReg) (a : GReg) (imm : BitVec 32) (s : State) :
    Host.Outcome State Fault Refusal :=
  compareImm 2 (0x09 + c.val / 4) g c p a (imm.signExtend 64) s

/-- A predicate operation (R67). -/
def predicate3 (g : Guard) (d a b : PReg) (f : Bool → Bool → Bool) (s : State) : Host.Outcome State Fault Refusal :=
  issue { major := 0x0B, guard := g, reads := ps [a, b], writes := ps [d] } s (fun s =>
    .retire (s.setP d (f (s.p a) (s.p b))))

/-- `PAND` (R67). -/
def execPand (g : Guard) (d a b : PReg) (s : State) : Host.Outcome State Fault Refusal :=
  predicate3 g d a b (fun x y => x && y) s

/-- `POR` (R67). -/
def execPor (g : Guard) (d a b : PReg) (s : State) : Host.Outcome State Fault Refusal :=
  predicate3 g d a b (fun x y => x || y) s

/-- `PXOR` (R67). -/
def execPxor (g : Guard) (d a b : PReg) (s : State) : Host.Outcome State Fault Refusal :=
  predicate3 g d a b (fun x y => x != y) s

/-- `PNOT` (R67). -/
def execPnot (g : Guard) (d a : PReg) (s : State) : Host.Outcome State Fault Refusal :=
  predicate3 g d a 0 (fun x _ => !x) s

/-- `PMOV` (R67). -/
def execPmov (g : Guard) (d a : PReg) (s : State) : Host.Outcome State Fault Refusal :=
  predicate3 g d a 0 (fun x _ => x) s

end Sys2Proof.Machine
end

