-- ==== Sys2Proof/Machine/Dispatch.lean ====
section
/-!
DEFINITION. Sys2Proof/Machine/Dispatch.lean: one arm per constructor of `Instr`, each a direct call of that row's own
meaning.
-/
namespace Sys2Proof.Machine

/-- What each row of the opcode table does to the machine. -/
def exec (i : Instr) (s : State) : Host.Outcome State Fault Refusal :=
  match i with
  | .add g d a b => Sys2Proof.Machine.execAdd g d a b s
  | .sub g d a b => Sys2Proof.Machine.execSub g d a b s
  | .and g d a b => Sys2Proof.Machine.execAnd g d a b s
  | .or g d a b => Sys2Proof.Machine.execOr g d a b s
  | .xor g d a b => Sys2Proof.Machine.execXor g d a b s
  | .andn g d a b => Sys2Proof.Machine.execAndn g d a b s
  | .shl g d a b => Sys2Proof.Machine.execShl g d a b s
  | .shr g d a b => Sys2Proof.Machine.execShr g d a b s
  | .sar g d a b => Sys2Proof.Machine.execSar g d a b s
  | .rol g d a b => Sys2Proof.Machine.execRol g d a b s
  | .mul g d a b => Sys2Proof.Machine.execMul g d a b s
  | .mulh g d a b => Sys2Proof.Machine.execMulh g d a b s
  | .mulhz g d a b => Sys2Proof.Machine.execMulhz g d a b s
  | .div g d a b => Sys2Proof.Machine.execDiv g d a b s
  | .divz g d a b => Sys2Proof.Machine.execDivz g d a b s
  | .rem g d a b => Sys2Proof.Machine.execRem g d a b s
  | .remz g d a b => Sys2Proof.Machine.execRemz g d a b s
  | .min g d a b => Sys2Proof.Machine.execMin g d a b s
  | .max g d a b => Sys2Proof.Machine.execMax g d a b s
  | .minz g d a b => Sys2Proof.Machine.execMinz g d a b s
  | .maxz g d a b => Sys2Proof.Machine.execMaxz g d a b s
  | .clz g d a => Sys2Proof.Machine.execClz g d a s
  | .ctz g d a => Sys2Proof.Machine.execCtz g d a s
  | .popc g d a => Sys2Proof.Machine.execPopc g d a s
  | .sextB g d a => Sys2Proof.Machine.execSextB g d a s
  | .sextH g d a => Sys2Proof.Machine.execSextH g d a s
  | .sextW g d a => Sys2Proof.Machine.execSextW g d a s
  | .zextB g d a => Sys2Proof.Machine.execZextB g d a s
  | .zextH g d a => Sys2Proof.Machine.execZextH g d a s
  | .zextW g d a => Sys2Proof.Machine.execZextW g d a s
  | .bext g d a b => Sys2Proof.Machine.execBext g d a b s
  | .bins g d a b => Sys2Proof.Machine.execBins g d a b s
  | .bextDw g d a pos wid => Sys2Proof.Machine.execBextDw g d a pos wid s
  | .binsDw g d a pos wid => Sys2Proof.Machine.execBinsDw g d a pos wid s
  | .addi g d a imm => Sys2Proof.Machine.execAddi g d a imm s
  | .andi g d a imm => Sys2Proof.Machine.execAndi g d a imm s
  | .ori g d a imm => Sys2Proof.Machine.execOri g d a imm s
  | .xori g d a imm => Sys2Proof.Machine.execXori g d a imm s
  | .addiDw g d a imm => Sys2Proof.Machine.execAddiDw g d a imm s
  | .andiDw g d a imm => Sys2Proof.Machine.execAndiDw g d a imm s
  | .oriDw g d a imm => Sys2Proof.Machine.execOriDw g d a imm s
  | .xoriDw g d a imm => Sys2Proof.Machine.execXoriDw g d a imm s
  | .shli g d a n => Sys2Proof.Machine.execShli g d a n s
  | .shri g d a n => Sys2Proof.Machine.execShri g d a n s
  | .sari g d a n => Sys2Proof.Machine.execSari g d a n s
  | .limm g d imm => Sys2Proof.Machine.execLimm g d imm s
  | .limmh g d imm => Sys2Proof.Machine.execLimmh g d imm s
  | .addpc g d imm => Sys2Proof.Machine.execAddpc g d imm s
  | .limmDw g d imm => Sys2Proof.Machine.execLimmDw g d imm s
  | .limmhDw g d imm => Sys2Proof.Machine.execLimmhDw g d imm s
  | .addpcDw g d imm => Sys2Proof.Machine.execAddpcDw g d imm s
  | .cmpCc g c p a b => Sys2Proof.Machine.execCmpCc g c p a b s
  | .cmpiCcLow g c p a imm => Sys2Proof.Machine.execCmpiCcLow g c p a imm s
  | .cmpiCcHigh g c p a imm => Sys2Proof.Machine.execCmpiCcHigh g c p a imm s
  | .cmpiDw g c p a imm => Sys2Proof.Machine.execCmpiDw g c p a imm s
  | .pand g d a b => Sys2Proof.Machine.execPand g d a b s
  | .por g d a b => Sys2Proof.Machine.execPor g d a b s
  | .pxor g d a b => Sys2Proof.Machine.execPxor g d a b s
  | .pnot g d a => Sys2Proof.Machine.execPnot g d a s
  | .pmov g d a => Sys2Proof.Machine.execPmov g d a s
  | .br g off => Sys2Proof.Machine.execBr g off s
  | .call g off => Sys2Proof.Machine.execCall g off s
  | .jr g a => Sys2Proof.Machine.execJr g a s
  | .ret g => Sys2Proof.Machine.execRet g s
  | .rot g => Sys2Proof.Machine.execRot g s
  | .stage g a => Sys2Proof.Machine.execStage g a s
  | .nop g => Sys2Proof.Machine.execNop g s
  | .hint g b => Sys2Proof.Machine.execHint g b s
  | .loop g n a len => Sys2Proof.Machine.execLoop g n a len s
  | .loopP g n a len => Sys2Proof.Machine.execLoopP g n a len s
  | .loopDw g pipe n len trips => Sys2Proof.Machine.execLoopDw g pipe n len trips s
  | .ldb g d a off => Sys2Proof.Machine.execLdb g d a off s
  | .ldh g d a off => Sys2Proof.Machine.execLdh g d a off s
  | .ldw g d a off => Sys2Proof.Machine.execLdw g d a off s
  | .ldd g d a off => Sys2Proof.Machine.execLdd g d a off s
  | .ldbz g d a off => Sys2Proof.Machine.execLdbz g d a off s
  | .ldhz g d a off => Sys2Proof.Machine.execLdhz g d a off s
  | .ldwz g d a off => Sys2Proof.Machine.execLdwz g d a off s
  | .stb g d a off => Sys2Proof.Machine.execStb g d a off s
  | .sth g d a off => Sys2Proof.Machine.execSth g d a off s
  | .stw g d a off => Sys2Proof.Machine.execStw g d a off s
  | .std g d a off => Sys2Proof.Machine.execStd g d a off s
  | .ldbDw g d a disp => Sys2Proof.Machine.execLdbDw g d a disp s
  | .ldhDw g d a disp => Sys2Proof.Machine.execLdhDw g d a disp s
  | .ldwDw g d a disp => Sys2Proof.Machine.execLdwDw g d a disp s
  | .lddDw g d a disp => Sys2Proof.Machine.execLddDw g d a disp s
  | .ldbzDw g d a disp => Sys2Proof.Machine.execLdbzDw g d a disp s
  | .ldhzDw g d a disp => Sys2Proof.Machine.execLdhzDw g d a disp s
  | .ldwzDw g d a disp => Sys2Proof.Machine.execLdwzDw g d a disp s
  | .stbDw g d a disp => Sys2Proof.Machine.execStbDw g d a disp s
  | .sthDw g d a disp => Sys2Proof.Machine.execSthDw g d a disp s
  | .stwDw g d a disp => Sys2Proof.Machine.execStwDw g d a disp s
  | .stdDw g d a disp => Sys2Proof.Machine.execStdDw g d a disp s
  | .vld g d a off => Sys2Proof.Machine.execVld g d a off s
  | .vst g d a off => Sys2Proof.Machine.execVst g d a off s
  | .vldDw g d a disp => Sys2Proof.Machine.execVldDw g d a disp s
  | .vstDw g d a disp => Sys2Proof.Machine.execVstDw g d a disp s
  | .vlds g d a b => Sys2Proof.Machine.execVlds g d a b s
  | .vsts g d a b => Sys2Proof.Machine.execVsts g d a b s
  | .vgathl g d a b => Sys2Proof.Machine.execVgathl g d a b s
  | .vscatl g d a b => Sys2Proof.Machine.execVscatl g d a b s
  | .cclean g a => Sys2Proof.Machine.execCclean g a s
  | .cinv g a => Sys2Proof.Machine.execCinv g a s
  | .tlbinv g a b => Sys2Proof.Machine.execTlbinv g a b s
  | .tlbinvComplete tid => Sys2Proof.Machine.execTlbinvComplete tid s
  | .dclset g a => Sys2Proof.Machine.execDclset g a s
  | .sylset g d a => Sys2Proof.Machine.execSylset g d a s
  | .vldd g d a off => Sys2Proof.Machine.execVldd g d a off s
  | .vldp g d a off => Sys2Proof.Machine.execVldp g d a off s
  | .vlddDw g d a disp => Sys2Proof.Machine.execVlddDw g d a disp s
  | .vldpDw g d a disp => Sys2Proof.Machine.execVldpDw g d a disp s
  | .vadd g d a b => Sys2Proof.Machine.execVadd g d a b s
  | .vsub g d a b => Sys2Proof.Machine.execVsub g d a b s
  | .vmul g d a b => Sys2Proof.Machine.execVmul g d a b s
  | .vmin g d a b => Sys2Proof.Machine.execVmin g d a b s
  | .vmax g d a b => Sys2Proof.Machine.execVmax g d a b s
  | .vabs g d a => Sys2Proof.Machine.execVabs g d a s
  | .vneg g d a => Sys2Proof.Machine.execVneg g d a s
  | .vand g d a b => Sys2Proof.Machine.execVand g d a b s
  | .vor g d a b => Sys2Proof.Machine.execVor g d a b s
  | .vxor g d a b => Sys2Proof.Machine.execVxor g d a b s
  | .vshl g d a b => Sys2Proof.Machine.execVshl g d a b s
  | .vshr g d a b => Sys2Proof.Machine.execVshr g d a b s
  | .vsar g d a b => Sys2Proof.Machine.execVsar g d a b s
  | .vaddS g d a b => Sys2Proof.Machine.execVaddS g d a b s
  | .vsubS g d a b => Sys2Proof.Machine.execVsubS g d a b s
  | .vsel g d a b k => Sys2Proof.Machine.execVsel g d a b k s
  | .vfma g d a b => Sys2Proof.Machine.execVfma g d a b s
  | .vfms g d a b => Sys2Proof.Machine.execVfms g d a b s
  | .vnfma g d a b => Sys2Proof.Machine.execVnfma g d a b s
  | .vdot g d a b => Sys2Proof.Machine.execVdot g d a b s
  | .vdotf g d a b => Sys2Proof.Machine.execVdotf g d a b s
  | .vcmpCc g c d a b => Sys2Proof.Machine.execVcmpCc g c d a b s
  | .vredAdd g d a => Sys2Proof.Machine.execVredAdd g d a s
  | .vredMin g d a => Sys2Proof.Machine.execVredMin g d a s
  | .vredMax g d a => Sys2Proof.Machine.execVredMax g d a s
  | .vscanAdd g d a => Sys2Proof.Machine.execVscanAdd g d a s
  | .vscanMin g d a => Sys2Proof.Machine.execVscanMin g d a s
  | .vscanMax g d a => Sys2Proof.Machine.execVscanMax g d a s
  | .vperm g d a b => Sys2Proof.Machine.execVperm g d a b s
  | .vbcast g d a => Sys2Proof.Machine.execVbcast g d a s
  | .vext g d a b => Sys2Proof.Machine.execVext g d a b s
  | .vins g d a b => Sys2Proof.Machine.execVins g d a b s
  | .vrcp g d a => Sys2Proof.Machine.execVrcp g d a s
  | .vrsq g d a => Sys2Proof.Machine.execVrsq g d a s
  | .vexp2 g d a => Sys2Proof.Machine.execVexp2 g d a s
  | .vlog2 g d a => Sys2Proof.Machine.execVlog2 g d a s
  | .vtanh g d a => Sys2Proof.Machine.execVtanh g d a s
  | .vsigm g d a => Sys2Proof.Machine.execVsigm g d a s
  | .vlong g => Sys2Proof.Machine.execVlong g s
  | .vshort g => Sys2Proof.Machine.execVshort g s
  | .cvtRne g d a t => Sys2Proof.Machine.execCvtRne g d a t s
  | .cvtRtz g d a t => Sys2Proof.Machine.execCvtRtz g d a t s
  | .cvtRup g d a t => Sys2Proof.Machine.execCvtRup g d a t s
  | .cvtRdn g d a t => Sys2Proof.Machine.execCvtRdn g d a t s
  | .cvtSat g d a t => Sys2Proof.Machine.execCvtSat g d a t s
  | .qn4 g d a b => Sys2Proof.Machine.execQn4 g d a b s
  | .dqn4 g d a b => Sys2Proof.Machine.execDqn4 g d a b s
  | .qscale g d a b => Sys2Proof.Machine.execQscale g d a b s
  | .tagset g d t => Sys2Proof.Machine.execTagset g d t s
  | .tagget g d a => Sys2Proof.Machine.execTagget g d a s
  | .fclass g d a => Sys2Proof.Machine.execFclass g d a s
  | .draw g look d a b => Sys2Proof.Machine.execDraw g look d a b s
  | .stow g look d a b => Sys2Proof.Machine.execStow g look d a b s
  | .draws g look d a b => Sys2Proof.Machine.execDraws g look d a b s
  | .stows g look d a b => Sys2Proof.Machine.execStows g look d a b s
  | .drawDw g look d a b ext => Sys2Proof.Machine.execDrawDw g look d a b ext s
  | .stowDw g look d a b ext => Sys2Proof.Machine.execStowDw g look d a b ext s
  | .drawsDw g look d a b ext => Sys2Proof.Machine.execDrawsDw g look d a b ext s
  | .stowsDw g look d a b ext => Sys2Proof.Machine.execStowsDw g look d a b ext s
  | .dzero g look d b => Sys2Proof.Machine.execDzero g look d b s
  | .dcopy g look d a b => Sys2Proof.Machine.execDcopy g look d a b s
  | .dzeroDw g look d b ext => Sys2Proof.Machine.execDzeroDw g look d b ext s
  | .dcopyDw g look d a b ext => Sys2Proof.Machine.execDcopyDw g look d a b ext s
  | .chain g a b => Sys2Proof.Machine.execChain g a b s
  | .kick g b => Sys2Proof.Machine.execKick g b s
  | .cwait g d a => Sys2Proof.Machine.execCwait g d a s
  | .cwaitSatisfied tid => Sys2Proof.Machine.execCwaitSatisfied tid s
  | .cpost g d a => Sys2Proof.Machine.execCpost g d a s
  | .wpwait g d a => Sys2Proof.Machine.execWpwait g d a s
  | .wpwaitSatisfied tid => Sys2Proof.Machine.execWpwaitSatisfied tid s
  | .publish g sc a => Sys2Proof.Machine.execPublish g sc a s
  | .publishToggle tid => Sys2Proof.Machine.execPublishToggle tid s
  | .channelEntryStart core ch => Sys2Proof.Machine.execChannelEntryStart core ch s
  | .chainEntryStep core ch => Sys2Proof.Machine.execChainEntryStep core ch s
  | .operationPacket core ch => Sys2Proof.Machine.execOperationPacket core ch s
  | .dramRequestAccept core ch => Sys2Proof.Machine.execDramRequestAccept core ch s
  | .ownershipDecision quad pa => Sys2Proof.Machine.execOwnershipDecision quad pa s
  | .clusterCacheEviction quad line => Sys2Proof.Machine.execClusterCacheEviction quad line s
  | .entryComplete core ch => Sys2Proof.Machine.execEntryComplete core ch s
  | .remoteBumpArrival id => Sys2Proof.Machine.execRemoteBumpArrival id s
  | .channelFault core ch cause sub addr => Sys2Proof.Machine.execChannelFault core ch cause sub addr s
  | .chstFaultResume core ch => Sys2Proof.Machine.execChstFaultResume core ch s
  | .chstAbort core ch => Sys2Proof.Machine.execChstAbort core ch s
  | .rowCommandPiece core ch => Sys2Proof.Machine.execRowCommandPiece core ch s
  | .landingPacket core ch => Sys2Proof.Machine.execLandingPacket core ch s
  | .pageWalkRead id => Sys2Proof.Machine.execPageWalkRead id s
  | .hotPageEpoch chan => Sys2Proof.Machine.execHotPageEpoch chan s
  | .poolScrub core word => Sys2Proof.Machine.execPoolScrub core word s
  | .fetchMissFill quad line => Sys2Proof.Machine.execFetchMissFill quad line s
  | .tblset g a b => Sys2Proof.Machine.execTblset g a b s
  | .tblsetComplete tid => Sys2Proof.Machine.execTblsetComplete tid s
  | .idhash g d a b => Sys2Proof.Machine.execIdhash g d a b s
  | .rowwait g a => Sys2Proof.Machine.execRowwait g a s
  | .rowwaitSatisfied tid => Sys2Proof.Machine.execRowwaitSatisfied tid s
  | .rowacc g a b => Sys2Proof.Machine.execRowacc g a b s
  | .rowset g a b => Sys2Proof.Machine.execRowset g a b s
  | .elide g look two d a b => Sys2Proof.Machine.execElide g look two d a b s
  | .elidem g look two d a b => Sys2Proof.Machine.execElidem g look two d a b s
  | .elisionComplete id => Sys2Proof.Machine.execElisionComplete id s
  | .rowget g look d a b => Sys2Proof.Machine.execRowget g look d a b s
  | .rowgetw g look d a b => Sys2Proof.Machine.execRowgetw g look d a b s
  | .rowgetDw g look d a b ext => Sys2Proof.Machine.execRowgetDw g look d a b ext s
  | .rowgetwDw g look d a b ext => Sys2Proof.Machine.execRowgetwDw g look d a b ext s
  | .segred g look d a b => Sys2Proof.Machine.execSegred g look d a b s
  | .segscat g look d a b => Sys2Proof.Machine.execSegscat g look d a b s
  | .segredDw g look d a b ext => Sys2Proof.Machine.execSegredDw g look d a b ext s
  | .segscatDw g look d a b ext => Sys2Proof.Machine.execSegscatDw g look d a b ext s
  | .lookupOpStart id => Sys2Proof.Machine.execLookupOpStart id s
  | .rowRequestMerge id row id2 row2 => Sys2Proof.Machine.execRowRequestMerge id row id2 row2 s
  | .rowRequestServe id row => Sys2Proof.Machine.execRowRequestServe id row s
  | .rowRead id row => Sys2Proof.Machine.execRowRead id row s
  | .rowAccumulate id row => Sys2Proof.Machine.execRowAccumulate id row s
  | .rowStore id row => Sys2Proof.Machine.execRowStore id row s
  | .rowReplyLand id row => Sys2Proof.Machine.execRowReplyLand id row s
  | .lookupOpComplete id => Sys2Proof.Machine.execLookupOpComplete id s
  | .lookupOpFault id cause sub addr => Sys2Proof.Machine.execLookupOpFault id cause sub addr s
  | .amoAddW g look d a b => Sys2Proof.Machine.execAmoAddW g look d a b s
  | .amoAddD g look d a b => Sys2Proof.Machine.execAmoAddD g look d a b s
  | .amoAddDw g look dbl d a b => Sys2Proof.Machine.execAmoAddDw g look dbl d a b s
  | .amoAnd g look dbl d a b => Sys2Proof.Machine.execAmoAnd g look dbl d a b s
  | .amoOr g look dbl d a b => Sys2Proof.Machine.execAmoOr g look dbl d a b s
  | .amoXor g look dbl d a b => Sys2Proof.Machine.execAmoXor g look dbl d a b s
  | .amoMin g look dbl d a b => Sys2Proof.Machine.execAmoMin g look dbl d a b s
  | .amoMax g look dbl d a b => Sys2Proof.Machine.execAmoMax g look dbl d a b s
  | .amoMinz g look dbl d a b => Sys2Proof.Machine.execAmoMinz g look dbl d a b s
  | .amoMaxz g look dbl d a b => Sys2Proof.Machine.execAmoMaxz g look dbl d a b s
  | .amoSwap g look dbl d a b => Sys2Proof.Machine.execAmoSwap g look dbl d a b s
  | .casW g look two d a b => Sys2Proof.Machine.execCasW g look two d a b s
  | .casD g look two d a b => Sys2Proof.Machine.execCasD g look two d a b s
  | .atomicExecute id => Sys2Proof.Machine.execAtomicExecute id s
  | .amoCombine id id2 => Sys2Proof.Machine.execAmoCombine id id2 s
  | .atomicFaultReply id => Sys2Proof.Machine.execAtomicFaultReply id s
  | .accF32 g a b => Sys2Proof.Machine.execAccF32 g a b s
  | .accBf16 g a b => Sys2Proof.Machine.execAccBf16 g a b s
  | .accF64 g a b => Sys2Proof.Machine.execAccF64 g a b s
  | .fold g a => Sys2Proof.Machine.execFold g a s
  | .accArrival id => Sys2Proof.Machine.execAccArrival id s
  | .foldArrival id => Sys2Proof.Machine.execFoldArrival id s
  | .recvred g look two d a b => Sys2Proof.Machine.execRecvred g look two d a b s
  | .recvredMessage tid => Sys2Proof.Machine.execRecvredMessage tid s
  | .fence g sc => Sys2Proof.Machine.execFence g sc s
  | .fenceComplete tid => Sys2Proof.Machine.execFenceComplete tid s
  | .bjoin g a => Sys2Proof.Machine.execBjoin g a s
  | .barr g a => Sys2Proof.Machine.execBarr g a s
  | .bwait g a => Sys2Proof.Machine.execBwait g a s
  | .barrw g a => Sys2Proof.Machine.execBarrw g a s
  | .bexp g a b => Sys2Proof.Machine.execBexp g a b s
  | .bmiss g d a => Sys2Proof.Machine.execBmiss g d a s
  | .barrierArrival tid => Sys2Proof.Machine.execBarrierArrival tid s
  | .byteDelivery quad obj n => Sys2Proof.Machine.execByteDelivery quad obj n s
  | .bwaitReturn tid => Sys2Proof.Machine.execBwaitReturn tid s
  | .send g a b => Sys2Proof.Machine.execSend g a b s
  | .sendl g a b => Sys2Proof.Machine.execSendl g a b s
  | .recv g d a => Sys2Proof.Machine.execRecv g d a s
  | .recvTake tid => Sys2Proof.Machine.execRecvTake tid s
  | .rpeek g d => Sys2Proof.Machine.execRpeek g d s
  | .rqset g a b => Sys2Proof.Machine.execRqset g a b s
  | .resume g a b => Sys2Proof.Machine.execResume g a b s
  | .resumeArrival id => Sys2Proof.Machine.execResumeArrival id s
  | .messageArrival id => Sys2Proof.Machine.execMessageArrival id s
  | .retryTimer core stream => Sys2Proof.Machine.execRetryTimer core stream s
  | .rget g look d a b => Sys2Proof.Machine.execRget g look d a b s
  | .rsto g look d a b => Sys2Proof.Machine.execRsto g look d a b s
  | .rgetDw g look d a b ext => Sys2Proof.Machine.execRgetDw g look d a b ext s
  | .rstoDw g look d a b ext => Sys2Proof.Machine.execRstoDw g look d a b ext s
  | .remoteRequestArrival id => Sys2Proof.Machine.execRemoteRequestArrival id s
  | .remoteReply id => Sys2Proof.Machine.execRemoteReply id s
  | .refusalReturn id => Sys2Proof.Machine.execRefusalReturn id s
  | .flitReceive link seq crcOk => Sys2Proof.Machine.execFlitReceive link seq crcOk s
  | .replayRequest link seq => Sys2Proof.Machine.execReplayRequest link seq s
  | .linkDown link => Sys2Proof.Machine.execLinkDown link s
  | .qpush g a b => Sys2Proof.Machine.execQpush g a b s
  | .qpop g d a => Sys2Proof.Machine.execQpop g d a s
  | .queueRefill quad n => Sys2Proof.Machine.execQueueRefill quad n s
  | .wqringWrite g n a => Sys2Proof.Machine.execWqringWrite g n a s
  | .exit g a => Sys2Proof.Machine.execExit g a s
  | .exitDrainDone tid => Sys2Proof.Machine.execExitDrainDone tid s
  | .windowDepart launch => Sys2Proof.Machine.execWindowDepart launch s
  | .detach g => Sys2Proof.Machine.execDetach g s
  | .detachStep tid => Sys2Proof.Machine.execDetachStep tid s
  | .teamid g d => Sys2Proof.Machine.execTeamid g d s
  | .yield g => Sys2Proof.Machine.execYield g s
  | .wld g look d a b => Sys2Proof.Machine.execWld g look d a b s
  | .wst g look d a b => Sys2Proof.Machine.execWst g look d a b s
  | .wldDw g look d a b ext => Sys2Proof.Machine.execWldDw g look d a b ext s
  | .wstDw g look d a b ext => Sys2Proof.Machine.execWstDw g look d a b ext s
  | .hseed g a b => Sys2Proof.Machine.execHseed g a b s
  | .hseedEntryRead tid => Sys2Proof.Machine.execHseedEntryRead tid s
  | .gain g a b => Sys2Proof.Machine.execGain g a b s
  | .gainApply id => Sys2Proof.Machine.execGainApply id s
  | .done g a => Sys2Proof.Machine.execDone g a s
  | .doneApply tid => Sys2Proof.Machine.execDoneApply tid s
  | .resid g d => Sys2Proof.Machine.execResid g d s
  | .hpeek g d => Sys2Proof.Machine.execHpeek g d s
  | .hcount g d => Sys2Proof.Machine.execHcount g d s
  | .take g look two d a b => Sys2Proof.Machine.execTake g look two d a b s
  | .takeWake tid => Sys2Proof.Machine.execTakeWake tid s
  | .heapMaxRefresh launch => Sys2Proof.Machine.execHeapMaxRefresh launch s
  | .heapSteal tid => Sys2Proof.Machine.execHeapSteal tid s
  | .lexld g a b => Sys2Proof.Machine.execLexld g a b s
  | .mldb g a b => Sys2Proof.Machine.execMldb g a b s
  | .macc g a b => Sys2Proof.Machine.execMacc g a b s
  | .mrd g d a => Sys2Proof.Machine.execMrd g d a s
  | .infl g a b => Sys2Proof.Machine.execInfl g a b s
  | .mwait g a => Sys2Proof.Machine.execMwait g a s
  | .mwaitSatisfied tid => Sys2Proof.Machine.execMwaitSatisfied tid s
  | .mma g look d a b => Sys2Proof.Machine.execMma g look d a b s
  | .mgath g look d a b => Sys2Proof.Machine.execMgath g look d a b s
  | .affixI t f x => Sys2Proof.Machine.execAffixI t f x s
  | .affixK t f x => Sys2Proof.Machine.execAffixK t f x s
  | .affixS t f x => Sys2Proof.Machine.execAffixS t f x s
  | .matrixEntryStart core idx => Sys2Proof.Machine.execMatrixEntryStart core idx s
  | .matrixEntryComplete core idx => Sys2Proof.Machine.execMatrixEntryComplete core idx s
  | .matrixEntryFault core row addr => Sys2Proof.Machine.execMatrixEntryFault core row addr s
  | .mfs g d r => Sys2Proof.Machine.execMfs g d r s
  | .mts g a r => Sys2Proof.Machine.execMts g a r s
  | .pubSlotWrite g n a => Sys2Proof.Machine.execPubSlotWrite g n a s
  | .accrWrite g a => Sys2Proof.Machine.execAccrWrite g a s
  | .icinvWrite g a => Sys2Proof.Machine.execIcinvWrite g a s
  | .asgpartWrite g a => Sys2Proof.Machine.execAsgpartWrite g a s
  | .haltselRun module part => Sys2Proof.Machine.execHaltselRun module part s
  | .trap g b => Sys2Proof.Machine.execTrap g b s
  | .rett g => Sys2Proof.Machine.execRett g s
  | .halt g => Sys2Proof.Machine.execHalt g s
  | .haltRecords module part cause => Sys2Proof.Machine.execHaltRecords module part cause s
  | .ctxsvStop g a => Sys2Proof.Machine.execCtxsvStop g a s
  | .ctxsvSave tid => Sys2Proof.Machine.execCtxsvSave tid s
  | .ctxsvDiscard tid => Sys2Proof.Machine.execCtxsvDiscard tid s
  | .ctxldLoad g a => Sys2Proof.Machine.execCtxldLoad g a s
  | .ctxldStart tid => Sys2Proof.Machine.execCtxldStart tid s
  | .ctxldLoadStart tid => Sys2Proof.Machine.execCtxldLoadStart tid s
  | .brk g => Sys2Proof.Machine.execBrk g s
  | .timens g d => Sys2Proof.Machine.execTimens g d s
  | .sleep g a => Sys2Proof.Machine.execSleep g a s
  | .sleepm g a => Sys2Proof.Machine.execSleepm g a s
  | .sleepWake tid => Sys2Proof.Machine.execSleepWake tid s
  | .perf g d a => Sys2Proof.Machine.execPerf g d a s
  | .trace g a => Sys2Proof.Machine.execTrace g a s
  | .trapEntry tid => Sys2Proof.Machine.execTrapEntry tid s
  | .watchdogExpiry tid => Sys2Proof.Machine.execWatchdogExpiry tid s
  | .hqtailWrite die q val => Sys2Proof.Machine.execHqtailWrite die q val s
  | .launchAdmission die q => Sys2Proof.Machine.execLaunchAdmission die q s
  | .launchForward die launch => Sys2Proof.Machine.execLaunchForward die launch s
  | .waitCounterPoll die q => Sys2Proof.Machine.execWaitCounterPoll die q s
  | .teamStart launch => Sys2Proof.Machine.execTeamStart launch s
  | .launchComplete launch => Sys2Proof.Machine.execLaunchComplete launch s
  | .powerGood module => Sys2Proof.Machine.execPowerGood module s
  | .clocksStarted module => Sys2Proof.Machine.execClocksStarted module s
  | .romImageVerify module => Sys2Proof.Machine.execRomImageVerify module s
  | .trainComplete module ok => Sys2Proof.Machine.execTrainComplete module ok s
  | .mreset module => Sys2Proof.Machine.execMreset module s
  | .haltreq module => Sys2Proof.Machine.execHaltreq module s
  | .mgmtRegisterWrite module off size write val => Sys2Proof.Machine.execMgmtRegisterWrite module off size write val s
  | .mgmtControlPacket module bridge off size write val => Sys2Proof.Machine.execMgmtControlPacket module bridge off size write val s
  | .hostBar2Access module off write bytes => Sys2Proof.Machine.execHostBar2Access module off write bytes s
  | .ident module => Sys2Proof.Machine.execIdent module s
  | .attest module => Sys2Proof.Machine.execAttest module s
  | .fwload module => Sys2Proof.Machine.execFwload module s
  | .fwcommit module => Sys2Proof.Machine.execFwcommit module s
  | .timesetWrite module val => Sys2Proof.Machine.execTimesetWrite module val s
  | .ptpFrame module gm => Sys2Proof.Machine.execPtpFrame module gm s
  | .lockLoss module => Sys2Proof.Machine.execLockLoss module s
  | .droopDetect die => Sys2Proof.Machine.execDroopDetect die s
  | .droopRecover die cycles ns => Sys2Proof.Machine.execDroopRecover die cycles ns s
  | .powerWindow module watts => Sys2Proof.Machine.execPowerWindow module watts s
  | .thermalThrottle module temp => Sys2Proof.Machine.execThermalThrottle module temp s
  | .thermalTrip module temp => Sys2Proof.Machine.execThermalTrip module temp s
  | .reservedEncoding => Sys2Proof.Machine.execReservedEncoding s
  | .powerLoss module => Sys2Proof.Machine.execPowerLoss module s
  | .mailboxBadOperation module => Sys2Proof.Machine.execMailboxBadOperation module s
  | .pcieLinkTraining module width rate => Sys2Proof.Machine.execPcieLinkTraining module width rate s

end Sys2Proof.Machine
end

