-- ==== Sys2Proof/Decode.lean ====
section
/-!
DEFINITION. Sys2Proof/Decode.lean: from words to instructions, and back.  A word that no table lists is refused, with
its reason; the encoder is written from the same tables.
-/
namespace Sys2Proof

-- Lean's runtime has no object tags for more than 244 constructors with fields, so the functions that build the later
-- rows of `Instr` have no compiled code; the kernel evaluates them.
noncomputable section

/-- Bits [lo+n−1:lo] of a word. -/
def bits (w lo n : Nat) : Nat := w / 2 ^ lo % 2 ^ n

/-! The fields of R29. -/

def fFrame (w : Nat) : Nat := bits w 30 2
def fMajor (w : Nat) : Nat := bits w 24 6
def fD (w : Nat) : Nat := bits w 19 5
def fA (w : Nat) : Nat := bits w 14 5
def fB (w : Nat) : Nat := bits w 9 5
def fFn (w : Nat) : Nat := bits w 4 5
def fImm (w : Nat) : Nat := bits w 4 10
def fOff6 (w : Nat) : Nat := bits w 4 6
def fOff20 (w : Nat) : Nat := bits w 4 20
def fLook (w : Nat) : Nat := bits w 5 4
def fMode (w : Nat) : Nat := bits w 4 1

/-- A register field of a kind with `k` registers (R30). -/
def finOf (k n : Nat) : Option (Fin k) := if h : n < k then some ⟨n, h⟩ else none

/-- A field that the instruction does not use must hold zero (R31). -/
def zeroField (n : Nat) : Option Unit := if n = 0 then some () else none

/-- The guard of a word (R33). -/
def guardOf (w : Nat) : Option Guard := do
  let p ← finOf 8 (bits w 0 3)
  some ⟨bits w 3 1 == 1, p⟩

/-- A tag literal (R80). -/
def tagOf (n : Nat) : Option Tag :=
  match n with
  | 0 => some .none | 1 => some .i8 | 2 => some .z8 | 3 => some .i16 | 4 => some .z16 | 5 => some .i32
  | 6 => some .z32 | 7 => some .i64 | 8 => some .i4 | 9 => some .z4 | 10 => some .f8a | 11 => some .f8b
  | 12 => some .f6 | 13 => some .n4 | 14 => some .bf16 | 15 => some .f16 | 16 => some .f32 | 17 => some .f64
  | 18 => some .idx | _ => none

/-- A scope literal (R46). -/
def scopeOf (n : Nat) : Option Scope :=
  match n with
  | 0 => some .core | 1 => some .quad | 2 => some .die | 3 => some .pkg | 4 => some .pod | 5 => some .sys | _ => none


/-- Single-word instructions of major opcode 0x01 (R43–R47). -/
def decode1_1 (w : Nat) : Option Instr :=
  match fFn w with
  | 0 => do
      let g ← guardOf w
      let d ← finOf 32 (fD w)
      let a ← finOf 32 (fA w)
      let b ← finOf 32 (fB w)
      some (.add g d a b)
  | 1 => do
      let g ← guardOf w
      let d ← finOf 32 (fD w)
      let a ← finOf 32 (fA w)
      let b ← finOf 32 (fB w)
      some (.sub g d a b)
  | 2 => do
      let g ← guardOf w
      let d ← finOf 32 (fD w)
      let a ← finOf 32 (fA w)
      let b ← finOf 32 (fB w)
      some (.and g d a b)
  | 3 => do
      let g ← guardOf w
      let d ← finOf 32 (fD w)
      let a ← finOf 32 (fA w)
      let b ← finOf 32 (fB w)
      some (.or g d a b)
  | 4 => do
      let g ← guardOf w
      let d ← finOf 32 (fD w)
      let a ← finOf 32 (fA w)
      let b ← finOf 32 (fB w)
      some (.xor g d a b)
  | 5 => do
      let g ← guardOf w
      let d ← finOf 32 (fD w)
      let a ← finOf 32 (fA w)
      let b ← finOf 32 (fB w)
      some (.andn g d a b)
  | 6 => do
      let g ← guardOf w
      let d ← finOf 32 (fD w)
      let a ← finOf 32 (fA w)
      let b ← finOf 32 (fB w)
      some (.shl g d a b)
  | 7 => do
      let g ← guardOf w
      let d ← finOf 32 (fD w)
      let a ← finOf 32 (fA w)
      let b ← finOf 32 (fB w)
      some (.shr g d a b)
  | 8 => do
      let g ← guardOf w
      let d ← finOf 32 (fD w)
      let a ← finOf 32 (fA w)
      let b ← finOf 32 (fB w)
      some (.sar g d a b)
  | 9 => do
      let g ← guardOf w
      let d ← finOf 32 (fD w)
      let a ← finOf 32 (fA w)
      let b ← finOf 32 (fB w)
      some (.rol g d a b)
  | 10 => do
      let g ← guardOf w
      let d ← finOf 32 (fD w)
      let a ← finOf 32 (fA w)
      let b ← finOf 32 (fB w)
      some (.mul g d a b)
  | 11 => do
      let g ← guardOf w
      let d ← finOf 32 (fD w)
      let a ← finOf 32 (fA w)
      let b ← finOf 32 (fB w)
      some (.mulh g d a b)
  | 12 => do
      let g ← guardOf w
      let d ← finOf 32 (fD w)
      let a ← finOf 32 (fA w)
      let b ← finOf 32 (fB w)
      some (.mulhz g d a b)
  | 13 => do
      let g ← guardOf w
      let d ← finOf 32 (fD w)
      let a ← finOf 32 (fA w)
      let b ← finOf 32 (fB w)
      some (.div g d a b)
  | 14 => do
      let g ← guardOf w
      let d ← finOf 32 (fD w)
      let a ← finOf 32 (fA w)
      let b ← finOf 32 (fB w)
      some (.divz g d a b)
  | 15 => do
      let g ← guardOf w
      let d ← finOf 32 (fD w)
      let a ← finOf 32 (fA w)
      let b ← finOf 32 (fB w)
      some (.rem g d a b)
  | 16 => do
      let g ← guardOf w
      let d ← finOf 32 (fD w)
      let a ← finOf 32 (fA w)
      let b ← finOf 32 (fB w)
      some (.remz g d a b)
  | 17 => do
      let g ← guardOf w
      let d ← finOf 32 (fD w)
      let a ← finOf 32 (fA w)
      let b ← finOf 32 (fB w)
      some (.min g d a b)
  | 18 => do
      let g ← guardOf w
      let d ← finOf 32 (fD w)
      let a ← finOf 32 (fA w)
      let b ← finOf 32 (fB w)
      some (.max g d a b)
  | 19 => do
      let g ← guardOf w
      let d ← finOf 32 (fD w)
      let a ← finOf 32 (fA w)
      let b ← finOf 32 (fB w)
      some (.minz g d a b)
  | 20 => do
      let g ← guardOf w
      let d ← finOf 32 (fD w)
      let a ← finOf 32 (fA w)
      let b ← finOf 32 (fB w)
      some (.maxz g d a b)
  | 21 => do
      let g ← guardOf w
      let d ← finOf 32 (fD w)
      let a ← finOf 32 (fA w)
      zeroField (fB w)
      some (.clz g d a)
  | 22 => do
      let g ← guardOf w
      let d ← finOf 32 (fD w)
      let a ← finOf 32 (fA w)
      zeroField (fB w)
      some (.ctz g d a)
  | 23 => do
      let g ← guardOf w
      let d ← finOf 32 (fD w)
      let a ← finOf 32 (fA w)
      zeroField (fB w)
      some (.popc g d a)
  | 24 => do
      let g ← guardOf w
      let d ← finOf 32 (fD w)
      let a ← finOf 32 (fA w)
      zeroField (fB w)
      some (.sextB g d a)
  | 25 => do
      let g ← guardOf w
      let d ← finOf 32 (fD w)
      let a ← finOf 32 (fA w)
      zeroField (fB w)
      some (.sextH g d a)
  | 26 => do
      let g ← guardOf w
      let d ← finOf 32 (fD w)
      let a ← finOf 32 (fA w)
      zeroField (fB w)
      some (.sextW g d a)
  | 27 => do
      let g ← guardOf w
      let d ← finOf 32 (fD w)
      let a ← finOf 32 (fA w)
      zeroField (fB w)
      some (.zextB g d a)
  | 28 => do
      let g ← guardOf w
      let d ← finOf 32 (fD w)
      let a ← finOf 32 (fA w)
      zeroField (fB w)
      some (.zextH g d a)
  | 29 => do
      let g ← guardOf w
      let d ← finOf 32 (fD w)
      let a ← finOf 32 (fA w)
      zeroField (fB w)
      some (.zextW g d a)
  | 30 => do
      let g ← guardOf w
      let d ← finOf 32 (fD w)
      let a ← finOf 32 (fA w)
      let b ← finOf 32 (fB w)
      some (.bext g d a b)
  | 31 => do
      let g ← guardOf w
      let d ← finOf 32 (fD w)
      let a ← finOf 32 (fA w)
      let b ← finOf 32 (fB w)
      some (.bins g d a b)
  | _ => none

/-- Double-word instructions of major opcode 0x01 (R32). -/
def decode2_1 (w x : Nat) : Option Instr :=
  match fFn w with
  | 30 => do
      let g ← guardOf w
      let d ← finOf 32 (fD w)
      let a ← finOf 32 (fA w)
      zeroField (fB w)
      zeroField (bits x 6 2)
      zeroField (bits x 15 17)
      let pos ← finOf 64 (bits x 0 6)
      let wid ← finOf 128 (bits x 8 7)
      some (.bextDw g d a pos wid)
  | 31 => do
      let g ← guardOf w
      let d ← finOf 32 (fD w)
      let a ← finOf 32 (fA w)
      zeroField (fB w)
      zeroField (bits x 6 2)
      zeroField (bits x 15 17)
      let pos ← finOf 64 (bits x 0 6)
      let wid ← finOf 128 (bits x 8 7)
      some (.binsDw g d a pos wid)
  | _ => none

/-- Single-word instructions of major opcode 0x02 (R43–R47). -/
def decode1_2 (w : Nat) : Option Instr :=
  do
      let g ← guardOf w
      let d ← finOf 32 (fD w)
      let a ← finOf 32 (fA w)
      let imm := BitVec.ofNat 10 (fImm w)
      some (.addi g d a imm)

/-- Double-word instructions of major opcode 0x02 (R32). -/
def decode2_2 (w x : Nat) : Option Instr :=
  do
      let g ← guardOf w
      let d ← finOf 32 (fD w)
      let a ← finOf 32 (fA w)
      zeroField (fImm w)
      let imm := BitVec.ofNat 32 x
      some (.addiDw g d a imm)

/-- Single-word instructions of major opcode 0x03 (R43–R47). -/
def decode1_3 (w : Nat) : Option Instr :=
  do
      let g ← guardOf w
      let d ← finOf 32 (fD w)
      let a ← finOf 32 (fA w)
      let imm := BitVec.ofNat 10 (fImm w)
      some (.andi g d a imm)

/-- Double-word instructions of major opcode 0x03 (R32). -/
def decode2_3 (w x : Nat) : Option Instr :=
  do
      let g ← guardOf w
      let d ← finOf 32 (fD w)
      let a ← finOf 32 (fA w)
      zeroField (fImm w)
      let imm := BitVec.ofNat 32 x
      some (.andiDw g d a imm)

/-- Single-word instructions of major opcode 0x04 (R43–R47). -/
def decode1_4 (w : Nat) : Option Instr :=
  do
      let g ← guardOf w
      let d ← finOf 32 (fD w)
      let a ← finOf 32 (fA w)
      let imm := BitVec.ofNat 10 (fImm w)
      some (.ori g d a imm)

/-- Double-word instructions of major opcode 0x04 (R32). -/
def decode2_4 (w x : Nat) : Option Instr :=
  do
      let g ← guardOf w
      let d ← finOf 32 (fD w)
      let a ← finOf 32 (fA w)
      zeroField (fImm w)
      let imm := BitVec.ofNat 32 x
      some (.oriDw g d a imm)

/-- Single-word instructions of major opcode 0x05 (R43–R47). -/
def decode1_5 (w : Nat) : Option Instr :=
  do
      let g ← guardOf w
      let d ← finOf 32 (fD w)
      let a ← finOf 32 (fA w)
      let imm := BitVec.ofNat 10 (fImm w)
      some (.xori g d a imm)

/-- Double-word instructions of major opcode 0x05 (R32). -/
def decode2_5 (w x : Nat) : Option Instr :=
  do
      let g ← guardOf w
      let d ← finOf 32 (fD w)
      let a ← finOf 32 (fA w)
      zeroField (fImm w)
      let imm := BitVec.ofNat 32 x
      some (.xoriDw g d a imm)

/-- Single-word instructions of major opcode 0x06 (R43–R47). -/
def decode1_6 (w : Nat) : Option Instr :=
  match fImm w / 256 with
  | 0 => do
      let g ← guardOf w
      let d ← finOf 32 (fD w)
      let a ← finOf 32 (fA w)
      let n ← finOf 64 (fImm w % 256)
      some (.shli g d a n)
  | 1 => do
      let g ← guardOf w
      let d ← finOf 32 (fD w)
      let a ← finOf 32 (fA w)
      let n ← finOf 64 (fImm w % 256)
      some (.shri g d a n)
  | 2 => do
      let g ← guardOf w
      let d ← finOf 32 (fD w)
      let a ← finOf 32 (fA w)
      let n ← finOf 64 (fImm w % 256)
      some (.sari g d a n)
  | _ => none

/-- Single-word instructions of major opcode 0x07 (R43–R47). -/
def decode1_7 (w : Nat) : Option Instr :=
  match fA w with
  | 0 => do
      let g ← guardOf w
      let d ← finOf 32 (fD w)
      let imm := BitVec.ofNat 10 (fImm w)
      some (.limm g d imm)
  | 1 => do
      let g ← guardOf w
      let d ← finOf 32 (fD w)
      let imm := BitVec.ofNat 10 (fImm w)
      some (.limmh g d imm)
  | 2 => do
      let g ← guardOf w
      let d ← finOf 32 (fD w)
      let imm := BitVec.ofNat 10 (fImm w)
      some (.addpc g d imm)
  | _ => none

/-- Double-word instructions of major opcode 0x07 (R32). -/
def decode2_7 (w x : Nat) : Option Instr :=
  match fA w with
  | 0 => do
      let g ← guardOf w
      let d ← finOf 32 (fD w)
      zeroField (fImm w)
      let imm := BitVec.ofNat 32 x
      some (.limmDw g d imm)
  | 1 => do
      let g ← guardOf w
      let d ← finOf 32 (fD w)
      zeroField (fImm w)
      let imm := BitVec.ofNat 32 x
      some (.limmhDw g d imm)
  | 2 => do
      let g ← guardOf w
      let d ← finOf 32 (fD w)
      zeroField (fImm w)
      let imm := BitVec.ofNat 32 x
      some (.addpcDw g d imm)
  | _ => none

/-- Single-word instructions of major opcode 0x08 (R43–R47). -/
def decode1_8 (w : Nat) : Option Instr :=
  do
      let g ← guardOf w
      let c ← finOf 8 (fFn w)
      let p ← finOf 8 (fD w)
      let a ← finOf 32 (fA w)
      let b ← finOf 32 (fB w)
      some (.cmpCc g c p a b)

/-- Single-word instructions of major opcode 0x09 (R43–R47). -/
def decode1_9 (w : Nat) : Option Instr :=
  do
      let g ← guardOf w
      let c ← finOf 4 (fD w / 8)
      let p ← finOf 8 (fD w % 8)
      let a ← finOf 32 (fA w)
      let imm := BitVec.ofNat 10 (fImm w)
      some (.cmpiCcLow g c p a imm)

/-- Double-word instructions of major opcode 0x09 (R32). -/
def decode2_9 (w x : Nat) : Option Instr :=
  do
      let g ← guardOf w
      let c ← finOf 8 (4 * (fMajor w - 9) + fD w / 8)
      let p ← finOf 8 (fD w % 8)
      let a ← finOf 32 (fA w)
      zeroField (fImm w)
      let imm := BitVec.ofNat 32 x
      some (.cmpiDw g c p a imm)

/-- Single-word instructions of major opcode 0x0a (R43–R47). -/
def decode1_10 (w : Nat) : Option Instr :=
  do
      let g ← guardOf w
      let c ← finOf 4 (fD w / 8)
      let p ← finOf 8 (fD w % 8)
      let a ← finOf 32 (fA w)
      let imm := BitVec.ofNat 10 (fImm w)
      some (.cmpiCcHigh g c p a imm)

/-- Double-word instructions of major opcode 0x0a (R32). -/
def decode2_10 (w x : Nat) : Option Instr :=
  do
      let g ← guardOf w
      let c ← finOf 8 (4 * (fMajor w - 9) + fD w / 8)
      let p ← finOf 8 (fD w % 8)
      let a ← finOf 32 (fA w)
      zeroField (fImm w)
      let imm := BitVec.ofNat 32 x
      some (.cmpiDw g c p a imm)

/-- Single-word instructions of major opcode 0x0b (R43–R47). -/
def decode1_11 (w : Nat) : Option Instr :=
  match fFn w with
  | 0 => do
      let g ← guardOf w
      let d ← finOf 8 (fD w)
      let a ← finOf 8 (fA w)
      let b ← finOf 8 (fB w)
      some (.pand g d a b)
  | 1 => do
      let g ← guardOf w
      let d ← finOf 8 (fD w)
      let a ← finOf 8 (fA w)
      let b ← finOf 8 (fB w)
      some (.por g d a b)
  | 2 => do
      let g ← guardOf w
      let d ← finOf 8 (fD w)
      let a ← finOf 8 (fA w)
      let b ← finOf 8 (fB w)
      some (.pxor g d a b)
  | 3 => do
      let g ← guardOf w
      let d ← finOf 8 (fD w)
      let a ← finOf 8 (fA w)
      zeroField (fB w)
      some (.pnot g d a)
  | 4 => do
      let g ← guardOf w
      let d ← finOf 8 (fD w)
      let a ← finOf 8 (fA w)
      zeroField (fB w)
      some (.pmov g d a)
  | _ => none

/-- Single-word instructions of major opcode 0x0c (R43–R47). -/
def decode1_12 (w : Nat) : Option Instr :=
  do
      let g ← guardOf w
      let off := BitVec.ofNat 20 (fOff20 w)
      some (.br g off)

/-- Single-word instructions of major opcode 0x0d (R43–R47). -/
def decode1_13 (w : Nat) : Option Instr :=
  do
      let g ← guardOf w
      let off := BitVec.ofNat 20 (fOff20 w)
      some (.call g off)

/-- Single-word instructions of major opcode 0x0e (R43–R47). -/
def decode1_14 (w : Nat) : Option Instr :=
  match fFn w with
  | 0 => do
      let g ← guardOf w
      zeroField (fD w)
      let a ← finOf 32 (fA w)
      zeroField (fB w)
      some (.jr g a)
  | 1 => do
      let g ← guardOf w
      zeroField (fD w)
      zeroField (fA w)
      zeroField (fB w)
      some (.ret g)
  | 2 => do
      let g ← guardOf w
      zeroField (fD w)
      zeroField (fA w)
      zeroField (fB w)
      some (.rot g)
  | 3 => do
      let g ← guardOf w
      zeroField (fD w)
      let a ← finOf 32 (fA w)
      zeroField (fB w)
      some (.stage g a)
  | 4 => do
      let g ← guardOf w
      zeroField (fD w)
      zeroField (fA w)
      zeroField (fB w)
      some (.nop g)
  | 5 => do
      let g ← guardOf w
      zeroField (fD w)
      zeroField (fA w)
      let b ← finOf 32 (fB w)
      some (.hint g b)
  | _ => none

/-- Single-word instructions of major opcode 0x0f (R43–R47). -/
def decode1_15 (w : Nat) : Option Instr :=
  match fD w / 2 with
  | 0 => do
      let g ← guardOf w
      let n ← finOf 2 (fD w % 2)
      let a ← finOf 32 (fA w)
      let len := BitVec.ofNat 10 (fImm w)
      some (.loop g n a len)
  | 1 => do
      let g ← guardOf w
      let n ← finOf 2 (fD w % 2)
      let a ← finOf 32 (fA w)
      let len := BitVec.ofNat 10 (fImm w)
      some (.loopP g n a len)
  | _ => none

/-- Double-word instructions of major opcode 0x0f (R32). -/
def decode2_15 (w x : Nat) : Option Instr :=
  do
      let g ← guardOf w
      zeroField (fD w / 4)
      let pipe := fD w / 2 % 2 == 1
      let n ← finOf 2 (fD w % 2)
      zeroField (fA w)
      let len := BitVec.ofNat 10 (fImm w)
      let trips := BitVec.ofNat 32 x
      some (.loopDw g pipe n len trips)

/-- Single-word instructions of major opcode 0x10 (R43–R47). -/
def decode1_16 (w : Nat) : Option Instr :=
  match bits w 10 4 with
  | 0 => do
      let g ← guardOf w
      let d ← finOf 32 (fD w)
      let a ← finOf 32 (fA w)
      let off := BitVec.ofNat 6 (fOff6 w)
      some (.ldb g d a off)
  | 1 => do
      let g ← guardOf w
      let d ← finOf 32 (fD w)
      let a ← finOf 32 (fA w)
      let off := BitVec.ofNat 6 (fOff6 w)
      some (.ldh g d a off)
  | 2 => do
      let g ← guardOf w
      let d ← finOf 32 (fD w)
      let a ← finOf 32 (fA w)
      let off := BitVec.ofNat 6 (fOff6 w)
      some (.ldw g d a off)
  | 3 => do
      let g ← guardOf w
      let d ← finOf 32 (fD w)
      let a ← finOf 32 (fA w)
      let off := BitVec.ofNat 6 (fOff6 w)
      some (.ldd g d a off)
  | 4 => do
      let g ← guardOf w
      let d ← finOf 32 (fD w)
      let a ← finOf 32 (fA w)
      let off := BitVec.ofNat 6 (fOff6 w)
      some (.ldbz g d a off)
  | 5 => do
      let g ← guardOf w
      let d ← finOf 32 (fD w)
      let a ← finOf 32 (fA w)
      let off := BitVec.ofNat 6 (fOff6 w)
      some (.ldhz g d a off)
  | 6 => do
      let g ← guardOf w
      let d ← finOf 32 (fD w)
      let a ← finOf 32 (fA w)
      let off := BitVec.ofNat 6 (fOff6 w)
      some (.ldwz g d a off)
  | 8 => do
      let g ← guardOf w
      let d ← finOf 32 (fD w)
      let a ← finOf 32 (fA w)
      let off := BitVec.ofNat 6 (fOff6 w)
      some (.stb g d a off)
  | 9 => do
      let g ← guardOf w
      let d ← finOf 32 (fD w)
      let a ← finOf 32 (fA w)
      let off := BitVec.ofNat 6 (fOff6 w)
      some (.sth g d a off)
  | 10 => do
      let g ← guardOf w
      let d ← finOf 32 (fD w)
      let a ← finOf 32 (fA w)
      let off := BitVec.ofNat 6 (fOff6 w)
      some (.stw g d a off)
  | 11 => do
      let g ← guardOf w
      let d ← finOf 32 (fD w)
      let a ← finOf 32 (fA w)
      let off := BitVec.ofNat 6 (fOff6 w)
      some (.std g d a off)
  | _ => none

/-- Double-word instructions of major opcode 0x10 (R32). -/
def decode2_16 (w x : Nat) : Option Instr :=
  match bits w 10 4 with
  | 0 => do
      let g ← guardOf w
      let d ← finOf 32 (fD w)
      let a ← finOf 32 (fA w)
      zeroField (fOff6 w)
      let disp := BitVec.ofNat 32 x
      some (.ldbDw g d a disp)
  | 1 => do
      let g ← guardOf w
      let d ← finOf 32 (fD w)
      let a ← finOf 32 (fA w)
      zeroField (fOff6 w)
      let disp := BitVec.ofNat 32 x
      some (.ldhDw g d a disp)
  | 2 => do
      let g ← guardOf w
      let d ← finOf 32 (fD w)
      let a ← finOf 32 (fA w)
      zeroField (fOff6 w)
      let disp := BitVec.ofNat 32 x
      some (.ldwDw g d a disp)
  | 3 => do
      let g ← guardOf w
      let d ← finOf 32 (fD w)
      let a ← finOf 32 (fA w)
      zeroField (fOff6 w)
      let disp := BitVec.ofNat 32 x
      some (.lddDw g d a disp)
  | 4 => do
      let g ← guardOf w
      let d ← finOf 32 (fD w)
      let a ← finOf 32 (fA w)
      zeroField (fOff6 w)
      let disp := BitVec.ofNat 32 x
      some (.ldbzDw g d a disp)
  | 5 => do
      let g ← guardOf w
      let d ← finOf 32 (fD w)
      let a ← finOf 32 (fA w)
      zeroField (fOff6 w)
      let disp := BitVec.ofNat 32 x
      some (.ldhzDw g d a disp)
  | 6 => do
      let g ← guardOf w
      let d ← finOf 32 (fD w)
      let a ← finOf 32 (fA w)
      zeroField (fOff6 w)
      let disp := BitVec.ofNat 32 x
      some (.ldwzDw g d a disp)
  | 8 => do
      let g ← guardOf w
      let d ← finOf 32 (fD w)
      let a ← finOf 32 (fA w)
      zeroField (fOff6 w)
      let disp := BitVec.ofNat 32 x
      some (.stbDw g d a disp)
  | 9 => do
      let g ← guardOf w
      let d ← finOf 32 (fD w)
      let a ← finOf 32 (fA w)
      zeroField (fOff6 w)
      let disp := BitVec.ofNat 32 x
      some (.sthDw g d a disp)
  | 10 => do
      let g ← guardOf w
      let d ← finOf 32 (fD w)
      let a ← finOf 32 (fA w)
      zeroField (fOff6 w)
      let disp := BitVec.ofNat 32 x
      some (.stwDw g d a disp)
  | 11 => do
      let g ← guardOf w
      let d ← finOf 32 (fD w)
      let a ← finOf 32 (fA w)
      zeroField (fOff6 w)
      let disp := BitVec.ofNat 32 x
      some (.stdDw g d a disp)
  | _ => none

/-- Single-word instructions of major opcode 0x11 (R43–R47). -/
def decode1_17 (w : Nat) : Option Instr :=
  match bits w 10 4 with
  | 0 => do
      let g ← guardOf w
      let d ← finOf 32 (fD w)
      let a ← finOf 32 (fA w)
      let off := BitVec.ofNat 6 (fOff6 w)
      some (.vld g d a off)
  | 1 => do
      let g ← guardOf w
      let d ← finOf 32 (fD w)
      let a ← finOf 32 (fA w)
      let off := BitVec.ofNat 6 (fOff6 w)
      some (.vst g d a off)
  | _ => none

/-- Double-word instructions of major opcode 0x11 (R32). -/
def decode2_17 (w x : Nat) : Option Instr :=
  match bits w 10 4 with
  | 0 => do
      let g ← guardOf w
      let d ← finOf 32 (fD w)
      let a ← finOf 32 (fA w)
      zeroField (fOff6 w)
      let disp := BitVec.ofNat 32 x
      some (.vldDw g d a disp)
  | 1 => do
      let g ← guardOf w
      let d ← finOf 32 (fD w)
      let a ← finOf 32 (fA w)
      zeroField (fOff6 w)
      let disp := BitVec.ofNat 32 x
      some (.vstDw g d a disp)
  | _ => none

/-- Single-word instructions of major opcode 0x12 (R43–R47). -/
def decode1_18 (w : Nat) : Option Instr :=
  match fFn w with
  | 0 => do
      let g ← guardOf w
      let d ← finOf 32 (fD w)
      let a ← finOf 32 (fA w)
      let b ← finOf 32 (fB w)
      some (.vlds g d a b)
  | 1 => do
      let g ← guardOf w
      let d ← finOf 32 (fD w)
      let a ← finOf 32 (fA w)
      let b ← finOf 32 (fB w)
      some (.vsts g d a b)
  | 2 => do
      let g ← guardOf w
      let d ← finOf 32 (fD w)
      let a ← finOf 32 (fA w)
      let b ← finOf 32 (fB w)
      some (.vgathl g d a b)
  | 3 => do
      let g ← guardOf w
      let d ← finOf 32 (fD w)
      let a ← finOf 32 (fA w)
      let b ← finOf 32 (fB w)
      some (.vscatl g d a b)
  | _ => none

/-- Single-word instructions of major opcode 0x13 (R43–R47). -/
def decode1_19 (w : Nat) : Option Instr :=
  match fFn w with
  | 0 => do
      let g ← guardOf w
      zeroField (fD w)
      let a ← finOf 32 (fA w)
      zeroField (fB w)
      some (.cclean g a)
  | 1 => do
      let g ← guardOf w
      zeroField (fD w)
      let a ← finOf 32 (fA w)
      zeroField (fB w)
      some (.cinv g a)
  | 2 => do
      let g ← guardOf w
      zeroField (fD w)
      let a ← finOf 32 (fA w)
      let b ← finOf 32 (fB w)
      some (.tlbinv g a b)
  | _ => none

/-- Single-word instructions of major opcode 0x14 (R43–R47). -/
def decode1_20 (w : Nat) : Option Instr :=
  match fFn w with
  | 0 => do
      let g ← guardOf w
      zeroField (fD w)
      let a ← finOf 32 (fA w)
      zeroField (fB w)
      some (.dclset g a)
  | 1 => do
      let g ← guardOf w
      let d ← finOf 16 (fD w)
      let a ← finOf 32 (fA w)
      zeroField (fB w)
      some (.sylset g d a)
  | _ => none

/-- Single-word instructions of major opcode 0x15 (R43–R47). -/
def decode1_21 (w : Nat) : Option Instr :=
  match bits w 10 4 with
  | 0 => do
      let g ← guardOf w
      let d ← finOf 32 (fD w)
      let a ← finOf 32 (fA w)
      let off := BitVec.ofNat 6 (fOff6 w)
      some (.vldd g d a off)
  | 1 => do
      let g ← guardOf w
      let d ← finOf 32 (fD w)
      let a ← finOf 32 (fA w)
      let off := BitVec.ofNat 6 (fOff6 w)
      some (.vldp g d a off)
  | _ => none

/-- Double-word instructions of major opcode 0x15 (R32). -/
def decode2_21 (w x : Nat) : Option Instr :=
  match bits w 10 4 with
  | 0 => do
      let g ← guardOf w
      let d ← finOf 32 (fD w)
      let a ← finOf 32 (fA w)
      zeroField (fOff6 w)
      let disp := BitVec.ofNat 32 x
      some (.vlddDw g d a disp)
  | 1 => do
      let g ← guardOf w
      let d ← finOf 32 (fD w)
      let a ← finOf 32 (fA w)
      zeroField (fOff6 w)
      let disp := BitVec.ofNat 32 x
      some (.vldpDw g d a disp)
  | _ => none

/-- Single-word instructions of major opcode 0x18 (R43–R47). -/
def decode1_24 (w : Nat) : Option Instr :=
  match fFn w with
  | 0 => do
      let g ← guardOf w
      let d ← finOf 32 (fD w)
      let a ← finOf 32 (fA w)
      let b ← finOf 32 (fB w)
      some (.vadd g d a b)
  | 1 => do
      let g ← guardOf w
      let d ← finOf 32 (fD w)
      let a ← finOf 32 (fA w)
      let b ← finOf 32 (fB w)
      some (.vsub g d a b)
  | 2 => do
      let g ← guardOf w
      let d ← finOf 32 (fD w)
      let a ← finOf 32 (fA w)
      let b ← finOf 32 (fB w)
      some (.vmul g d a b)
  | 3 => do
      let g ← guardOf w
      let d ← finOf 32 (fD w)
      let a ← finOf 32 (fA w)
      let b ← finOf 32 (fB w)
      some (.vmin g d a b)
  | 4 => do
      let g ← guardOf w
      let d ← finOf 32 (fD w)
      let a ← finOf 32 (fA w)
      let b ← finOf 32 (fB w)
      some (.vmax g d a b)
  | 5 => do
      let g ← guardOf w
      let d ← finOf 32 (fD w)
      let a ← finOf 32 (fA w)
      zeroField (fB w)
      some (.vabs g d a)
  | 6 => do
      let g ← guardOf w
      let d ← finOf 32 (fD w)
      let a ← finOf 32 (fA w)
      zeroField (fB w)
      some (.vneg g d a)
  | 7 => do
      let g ← guardOf w
      let d ← finOf 32 (fD w)
      let a ← finOf 32 (fA w)
      let b ← finOf 32 (fB w)
      some (.vand g d a b)
  | 8 => do
      let g ← guardOf w
      let d ← finOf 32 (fD w)
      let a ← finOf 32 (fA w)
      let b ← finOf 32 (fB w)
      some (.vor g d a b)
  | 9 => do
      let g ← guardOf w
      let d ← finOf 32 (fD w)
      let a ← finOf 32 (fA w)
      let b ← finOf 32 (fB w)
      some (.vxor g d a b)
  | 10 => do
      let g ← guardOf w
      let d ← finOf 32 (fD w)
      let a ← finOf 32 (fA w)
      let b ← finOf 32 (fB w)
      some (.vshl g d a b)
  | 11 => do
      let g ← guardOf w
      let d ← finOf 32 (fD w)
      let a ← finOf 32 (fA w)
      let b ← finOf 32 (fB w)
      some (.vshr g d a b)
  | 12 => do
      let g ← guardOf w
      let d ← finOf 32 (fD w)
      let a ← finOf 32 (fA w)
      let b ← finOf 32 (fB w)
      some (.vsar g d a b)
  | 13 => do
      let g ← guardOf w
      let d ← finOf 32 (fD w)
      let a ← finOf 32 (fA w)
      let b ← finOf 32 (fB w)
      some (.vaddS g d a b)
  | 14 => do
      let g ← guardOf w
      let d ← finOf 32 (fD w)
      let a ← finOf 32 (fA w)
      let b ← finOf 32 (fB w)
      some (.vsubS g d a b)
  | _ => if fFn w < 16 then none else do
      let g ← guardOf w
      let k ← finOf 8 (fFn w - 16)
      let d ← finOf 32 (fD w)
      let a ← finOf 32 (fA w)
      let b ← finOf 32 (fB w)
      some (.vsel g d a b k)

/-- Single-word instructions of major opcode 0x19 (R43–R47). -/
def decode1_25 (w : Nat) : Option Instr :=
  match fFn w with
  | 0 => do
      let g ← guardOf w
      let d ← finOf 32 (fD w)
      let a ← finOf 32 (fA w)
      let b ← finOf 32 (fB w)
      some (.vfma g d a b)
  | 1 => do
      let g ← guardOf w
      let d ← finOf 32 (fD w)
      let a ← finOf 32 (fA w)
      let b ← finOf 32 (fB w)
      some (.vfms g d a b)
  | 2 => do
      let g ← guardOf w
      let d ← finOf 32 (fD w)
      let a ← finOf 32 (fA w)
      let b ← finOf 32 (fB w)
      some (.vnfma g d a b)
  | 3 => do
      let g ← guardOf w
      let d ← finOf 32 (fD w)
      let a ← finOf 32 (fA w)
      let b ← finOf 32 (fB w)
      some (.vdot g d a b)
  | 4 => do
      let g ← guardOf w
      let d ← finOf 32 (fD w)
      let a ← finOf 32 (fA w)
      let b ← finOf 32 (fB w)
      some (.vdotf g d a b)
  | _ => none

/-- Single-word instructions of major opcode 0x1a (R43–R47). -/
def decode1_26 (w : Nat) : Option Instr :=
  do
      let g ← guardOf w
      let c ← finOf 7 (fFn w)
      let d ← finOf 8 (fD w)
      let a ← finOf 32 (fA w)
      let b ← finOf 32 (fB w)
      some (.vcmpCc g c d a b)

/-- Single-word instructions of major opcode 0x1b (R43–R47). -/
def decode1_27 (w : Nat) : Option Instr :=
  match fFn w with
  | 0 => do
      let g ← guardOf w
      let d ← finOf 32 (fD w)
      let a ← finOf 32 (fA w)
      zeroField (fB w)
      some (.vredAdd g d a)
  | 1 => do
      let g ← guardOf w
      let d ← finOf 32 (fD w)
      let a ← finOf 32 (fA w)
      zeroField (fB w)
      some (.vredMin g d a)
  | 2 => do
      let g ← guardOf w
      let d ← finOf 32 (fD w)
      let a ← finOf 32 (fA w)
      zeroField (fB w)
      some (.vredMax g d a)
  | 3 => do
      let g ← guardOf w
      let d ← finOf 32 (fD w)
      let a ← finOf 32 (fA w)
      zeroField (fB w)
      some (.vscanAdd g d a)
  | 4 => do
      let g ← guardOf w
      let d ← finOf 32 (fD w)
      let a ← finOf 32 (fA w)
      zeroField (fB w)
      some (.vscanMin g d a)
  | 5 => do
      let g ← guardOf w
      let d ← finOf 32 (fD w)
      let a ← finOf 32 (fA w)
      zeroField (fB w)
      some (.vscanMax g d a)
  | 6 => do
      let g ← guardOf w
      let d ← finOf 32 (fD w)
      let a ← finOf 32 (fA w)
      let b ← finOf 32 (fB w)
      some (.vperm g d a b)
  | 7 => do
      let g ← guardOf w
      let d ← finOf 32 (fD w)
      let a ← finOf 32 (fA w)
      zeroField (fB w)
      some (.vbcast g d a)
  | 8 => do
      let g ← guardOf w
      let d ← finOf 32 (fD w)
      let a ← finOf 32 (fA w)
      let b ← finOf 32 (fB w)
      some (.vext g d a b)
  | 9 => do
      let g ← guardOf w
      let d ← finOf 32 (fD w)
      let a ← finOf 32 (fA w)
      let b ← finOf 32 (fB w)
      some (.vins g d a b)
  | _ => none

/-- Single-word instructions of major opcode 0x1c (R43–R47). -/
def decode1_28 (w : Nat) : Option Instr :=
  match fFn w with
  | 0 => do
      let g ← guardOf w
      let d ← finOf 32 (fD w)
      let a ← finOf 32 (fA w)
      zeroField (fB w)
      some (.vrcp g d a)
  | 1 => do
      let g ← guardOf w
      let d ← finOf 32 (fD w)
      let a ← finOf 32 (fA w)
      zeroField (fB w)
      some (.vrsq g d a)
  | 2 => do
      let g ← guardOf w
      let d ← finOf 32 (fD w)
      let a ← finOf 32 (fA w)
      zeroField (fB w)
      some (.vexp2 g d a)
  | 3 => do
      let g ← guardOf w
      let d ← finOf 32 (fD w)
      let a ← finOf 32 (fA w)
      zeroField (fB w)
      some (.vlog2 g d a)
  | 4 => do
      let g ← guardOf w
      let d ← finOf 32 (fD w)
      let a ← finOf 32 (fA w)
      zeroField (fB w)
      some (.vtanh g d a)
  | 5 => do
      let g ← guardOf w
      let d ← finOf 32 (fD w)
      let a ← finOf 32 (fA w)
      zeroField (fB w)
      some (.vsigm g d a)
  | _ => none

/-- Single-word instructions of major opcode 0x1d (R43–R47). -/
def decode1_29 (w : Nat) : Option Instr :=
  match fFn w with
  | 0 => do
      let g ← guardOf w
      zeroField (fD w)
      zeroField (fA w)
      zeroField (fB w)
      some (.vlong g)
  | 1 => do
      let g ← guardOf w
      zeroField (fD w)
      zeroField (fA w)
      zeroField (fB w)
      some (.vshort g)
  | _ => none

/-- Single-word instructions of major opcode 0x20 (R43–R47). -/
def decode1_32 (w : Nat) : Option Instr :=
  match fFn w with
  | 0 => do
      let g ← guardOf w
      let d ← finOf 32 (fD w)
      let a ← finOf 32 (fA w)
      let t ← tagOf (fB w)
      some (.cvtRne g d a t)
  | 1 => do
      let g ← guardOf w
      let d ← finOf 32 (fD w)
      let a ← finOf 32 (fA w)
      let t ← tagOf (fB w)
      some (.cvtRtz g d a t)
  | 2 => do
      let g ← guardOf w
      let d ← finOf 32 (fD w)
      let a ← finOf 32 (fA w)
      let t ← tagOf (fB w)
      some (.cvtRup g d a t)
  | 3 => do
      let g ← guardOf w
      let d ← finOf 32 (fD w)
      let a ← finOf 32 (fA w)
      let t ← tagOf (fB w)
      some (.cvtRdn g d a t)
  | 4 => do
      let g ← guardOf w
      let d ← finOf 32 (fD w)
      let a ← finOf 32 (fA w)
      let t ← tagOf (fB w)
      some (.cvtSat g d a t)
  | _ => none

/-- Single-word instructions of major opcode 0x21 (R43–R47). -/
def decode1_33 (w : Nat) : Option Instr :=
  match fFn w with
  | 0 => do
      let g ← guardOf w
      let d ← finOf 32 (fD w)
      let a ← finOf 32 (fA w)
      let b ← finOf 32 (fB w)
      some (.qn4 g d a b)
  | 1 => do
      let g ← guardOf w
      let d ← finOf 32 (fD w)
      let a ← finOf 32 (fA w)
      let b ← finOf 32 (fB w)
      some (.dqn4 g d a b)
  | 2 => do
      let g ← guardOf w
      let d ← finOf 32 (fD w)
      let a ← finOf 32 (fA w)
      let b ← finOf 32 (fB w)
      some (.qscale g d a b)
  | _ => none

/-- Single-word instructions of major opcode 0x22 (R43–R47). -/
def decode1_34 (w : Nat) : Option Instr :=
  match fFn w with
  | 0 => do
      let g ← guardOf w
      let d ← finOf 32 (fD w)
      zeroField (fA w)
      let t ← tagOf (fB w)
      some (.tagset g d t)
  | 1 => do
      let g ← guardOf w
      let d ← finOf 32 (fD w)
      let a ← finOf 32 (fA w)
      zeroField (fB w)
      some (.tagget g d a)
  | 2 => do
      let g ← guardOf w
      let d ← finOf 32 (fD w)
      let a ← finOf 32 (fA w)
      zeroField (fB w)
      some (.fclass g d a)
  | _ => none

/-- Single-word instructions of major opcode 0x24 (R43–R47). -/
def decode1_36 (w : Nat) : Option Instr :=
  match fMode w with
  | 0 => do
      let g ← guardOf w
      let look ← finOf 16 (fLook w)
      let d ← finOf 32 (fD w)
      let a ← finOf 32 (fA w)
      let b ← finOf 32 (fB w)
      some (.draw g look d a b)
  | 1 => do
      let g ← guardOf w
      let look ← finOf 16 (fLook w)
      let d ← finOf 32 (fD w)
      let a ← finOf 32 (fA w)
      let b ← finOf 32 (fB w)
      some (.stow g look d a b)
  | _ => none

/-- Double-word instructions of major opcode 0x24 (R32). -/
def decode2_36 (w x : Nat) : Option Instr :=
  match fMode w with
  | 0 => do
      let g ← guardOf w
      let look ← finOf 16 (fLook w)
      let d ← finOf 32 (fD w)
      let a ← finOf 32 (fA w)
      let b ← finOf 32 (fB w)
      let ext := BitVec.ofNat 32 x
      some (.drawDw g look d a b ext)
  | 1 => do
      let g ← guardOf w
      let look ← finOf 16 (fLook w)
      let d ← finOf 32 (fD w)
      let a ← finOf 32 (fA w)
      let b ← finOf 32 (fB w)
      let ext := BitVec.ofNat 32 x
      some (.stowDw g look d a b ext)
  | _ => none

/-- Single-word instructions of major opcode 0x25 (R43–R47). -/
def decode1_37 (w : Nat) : Option Instr :=
  match fMode w with
  | 0 => do
      let g ← guardOf w
      let look ← finOf 16 (fLook w)
      let d ← finOf 32 (fD w)
      let a ← finOf 32 (fA w)
      let b ← finOf 32 (fB w)
      some (.draws g look d a b)
  | 1 => do
      let g ← guardOf w
      let look ← finOf 16 (fLook w)
      let d ← finOf 32 (fD w)
      let a ← finOf 32 (fA w)
      let b ← finOf 32 (fB w)
      some (.stows g look d a b)
  | _ => none

/-- Double-word instructions of major opcode 0x25 (R32). -/
def decode2_37 (w x : Nat) : Option Instr :=
  match fMode w with
  | 0 => do
      let g ← guardOf w
      let look ← finOf 16 (fLook w)
      let d ← finOf 32 (fD w)
      let a ← finOf 32 (fA w)
      let b ← finOf 32 (fB w)
      let ext := BitVec.ofNat 32 x
      some (.drawsDw g look d a b ext)
  | 1 => do
      let g ← guardOf w
      let look ← finOf 16 (fLook w)
      let d ← finOf 32 (fD w)
      let a ← finOf 32 (fA w)
      let b ← finOf 32 (fB w)
      let ext := BitVec.ofNat 32 x
      some (.stowsDw g look d a b ext)
  | _ => none

/-- Single-word instructions of major opcode 0x26 (R43–R47). -/
def decode1_38 (w : Nat) : Option Instr :=
  match fMode w with
  | 0 => do
      let g ← guardOf w
      let look ← finOf 16 (fLook w)
      let d ← finOf 32 (fD w)
      zeroField (fA w)
      let b ← finOf 32 (fB w)
      some (.dzero g look d b)
  | 1 => do
      let g ← guardOf w
      let look ← finOf 16 (fLook w)
      let d ← finOf 32 (fD w)
      let a ← finOf 32 (fA w)
      let b ← finOf 32 (fB w)
      some (.dcopy g look d a b)
  | _ => none

/-- Double-word instructions of major opcode 0x26 (R32). -/
def decode2_38 (w x : Nat) : Option Instr :=
  match fMode w with
  | 0 => do
      let g ← guardOf w
      let look ← finOf 16 (fLook w)
      let d ← finOf 32 (fD w)
      zeroField (fA w)
      let b ← finOf 32 (fB w)
      let ext := BitVec.ofNat 32 x
      some (.dzeroDw g look d b ext)
  | 1 => do
      let g ← guardOf w
      let look ← finOf 16 (fLook w)
      let d ← finOf 32 (fD w)
      let a ← finOf 32 (fA w)
      let b ← finOf 32 (fB w)
      let ext := BitVec.ofNat 32 x
      some (.dcopyDw g look d a b ext)
  | _ => none

/-- Single-word instructions of major opcode 0x27 (R43–R47). -/
def decode1_39 (w : Nat) : Option Instr :=
  match fFn w with
  | 0 => do
      let g ← guardOf w
      zeroField (fD w)
      let a ← finOf 32 (fA w)
      let b ← finOf 32 (fB w)
      some (.chain g a b)
  | 1 => do
      let g ← guardOf w
      zeroField (fD w)
      zeroField (fA w)
      let b ← finOf 4 (fB w)
      some (.kick g b)
  | 2 => do
      let g ← guardOf w
      let d ← finOf 16 (fD w)
      let a ← finOf 32 (fA w)
      zeroField (fB w)
      some (.cwait g d a)
  | 3 => do
      let g ← guardOf w
      let d ← finOf 16 (fD w)
      let a ← finOf 32 (fA w)
      zeroField (fB w)
      some (.cpost g d a)
  | 4 => do
      let g ← guardOf w
      let d ← finOf 4 (fD w)
      let a ← finOf 32 (fA w)
      zeroField (fB w)
      some (.wpwait g d a)
  | _ => if fFn w < 8 then none else do
      let g ← guardOf w
      let sc ← scopeOf (fFn w - 8)
      zeroField (fD w)
      let a ← finOf 32 (fA w)
      zeroField (fB w)
      some (.publish g sc a)

/-- Single-word instructions of major opcode 0x28 (R43–R47). -/
def decode1_40 (w : Nat) : Option Instr :=
  match fFn w with
  | 0 => do
      let g ← guardOf w
      zeroField (fD w)
      let a ← finOf 32 (fA w)
      let b ← finOf 32 (fB w)
      some (.tblset g a b)
  | 1 => do
      let g ← guardOf w
      let d ← finOf 32 (fD w)
      let a ← finOf 32 (fA w)
      let b ← finOf 32 (fB w)
      some (.idhash g d a b)
  | 2 => do
      let g ← guardOf w
      zeroField (fD w)
      let a ← finOf 32 (fA w)
      zeroField (fB w)
      some (.rowwait g a)
  | 3 => do
      let g ← guardOf w
      zeroField (fD w)
      let a ← finOf 32 (fA w)
      let b ← finOf 32 (fB w)
      some (.rowacc g a b)
  | 4 => do
      let g ← guardOf w
      zeroField (fD w)
      let a ← finOf 32 (fA w)
      let b ← finOf 32 (fB w)
      some (.rowset g a b)
  | _ => none

/-- Single-word instructions of major opcode 0x29 (R43–R47). -/
def decode1_41 (w : Nat) : Option Instr :=
  match fMode w with
  | 0 => do
      let g ← guardOf w
      let look ← finOf 16 (fLook w)
      let d ← finOf 32 (fD w)
      let a ← finOf 32 (fA w)
      let b ← finOf 32 (fB w)
      let two := false
      some (.elide g look two d a b)
  | 1 => do
      let g ← guardOf w
      let look ← finOf 16 (fLook w)
      let d ← finOf 32 (fD w)
      let a ← finOf 32 (fA w)
      let b ← finOf 32 (fB w)
      let two := false
      some (.elidem g look two d a b)
  | _ => none

/-- Double-word instructions of major opcode 0x29 (R32). -/
def decode2_41 (w x : Nat) : Option Instr :=
  match fMode w with
  | 0 => do
      let g ← guardOf w
      let look ← finOf 16 (fLook w)
      let d ← finOf 32 (fD w)
      let a ← finOf 32 (fA w)
      let b ← finOf 32 (fB w)
      zeroField (x)
      let two := true
      some (.elide g look two d a b)
  | 1 => do
      let g ← guardOf w
      let look ← finOf 16 (fLook w)
      let d ← finOf 32 (fD w)
      let a ← finOf 32 (fA w)
      let b ← finOf 32 (fB w)
      zeroField (x)
      let two := true
      some (.elidem g look two d a b)
  | _ => none

/-- Single-word instructions of major opcode 0x2a (R43–R47). -/
def decode1_42 (w : Nat) : Option Instr :=
  match fMode w with
  | 0 => do
      let g ← guardOf w
      let look ← finOf 16 (fLook w)
      let d ← finOf 32 (fD w)
      let a ← finOf 32 (fA w)
      let b ← finOf 32 (fB w)
      some (.rowget g look d a b)
  | 1 => do
      let g ← guardOf w
      let look ← finOf 16 (fLook w)
      let d ← finOf 32 (fD w)
      let a ← finOf 32 (fA w)
      let b ← finOf 32 (fB w)
      some (.rowgetw g look d a b)
  | _ => none

/-- Double-word instructions of major opcode 0x2a (R32). -/
def decode2_42 (w x : Nat) : Option Instr :=
  match fMode w with
  | 0 => do
      let g ← guardOf w
      let look ← finOf 16 (fLook w)
      let d ← finOf 32 (fD w)
      let a ← finOf 32 (fA w)
      let b ← finOf 32 (fB w)
      let ext := BitVec.ofNat 32 x
      some (.rowgetDw g look d a b ext)
  | 1 => do
      let g ← guardOf w
      let look ← finOf 16 (fLook w)
      let d ← finOf 32 (fD w)
      let a ← finOf 32 (fA w)
      let b ← finOf 32 (fB w)
      let ext := BitVec.ofNat 32 x
      some (.rowgetwDw g look d a b ext)
  | _ => none

/-- Single-word instructions of major opcode 0x2b (R43–R47). -/
def decode1_43 (w : Nat) : Option Instr :=
  match fMode w with
  | 0 => do
      let g ← guardOf w
      let look ← finOf 16 (fLook w)
      let d ← finOf 32 (fD w)
      let a ← finOf 32 (fA w)
      let b ← finOf 32 (fB w)
      some (.segred g look d a b)
  | 1 => do
      let g ← guardOf w
      let look ← finOf 16 (fLook w)
      let d ← finOf 32 (fD w)
      let a ← finOf 32 (fA w)
      let b ← finOf 32 (fB w)
      some (.segscat g look d a b)
  | _ => none

/-- Double-word instructions of major opcode 0x2b (R32). -/
def decode2_43 (w x : Nat) : Option Instr :=
  match fMode w with
  | 0 => do
      let g ← guardOf w
      let look ← finOf 16 (fLook w)
      let d ← finOf 32 (fD w)
      let a ← finOf 32 (fA w)
      let b ← finOf 32 (fB w)
      let ext := BitVec.ofNat 32 x
      some (.segredDw g look d a b ext)
  | 1 => do
      let g ← guardOf w
      let look ← finOf 16 (fLook w)
      let d ← finOf 32 (fD w)
      let a ← finOf 32 (fA w)
      let b ← finOf 32 (fB w)
      let ext := BitVec.ofNat 32 x
      some (.segscatDw g look d a b ext)
  | _ => none

/-- Single-word instructions of major opcode 0x2c (R43–R47). -/
def decode1_44 (w : Nat) : Option Instr :=
  match fMode w with
  | 0 => do
      let g ← guardOf w
      let look ← finOf 16 (fLook w)
      let d ← finOf 32 (fD w)
      let a ← finOf 32 (fA w)
      let b ← finOf 32 (fB w)
      some (.amoAddW g look d a b)
  | 1 => do
      let g ← guardOf w
      let look ← finOf 16 (fLook w)
      let d ← finOf 32 (fD w)
      let a ← finOf 32 (fA w)
      let b ← finOf 32 (fB w)
      some (.amoAddD g look d a b)
  | _ => none

/-- Double-word instructions of major opcode 0x2c (R32). -/
def decode2_44 (w x : Nat) : Option Instr :=
  match x with
  | 0 => do
      let g ← guardOf w
      let look ← finOf 16 (fLook w)
      let d ← finOf 32 (fD w)
      let a ← finOf 32 (fA w)
      let b ← finOf 32 (fB w)
      let dbl := fMode w == 1
      some (.amoAddDw g look dbl d a b)
  | 1 => do
      let g ← guardOf w
      let look ← finOf 16 (fLook w)
      let d ← finOf 32 (fD w)
      let a ← finOf 32 (fA w)
      let b ← finOf 32 (fB w)
      let dbl := fMode w == 1
      some (.amoAnd g look dbl d a b)
  | 2 => do
      let g ← guardOf w
      let look ← finOf 16 (fLook w)
      let d ← finOf 32 (fD w)
      let a ← finOf 32 (fA w)
      let b ← finOf 32 (fB w)
      let dbl := fMode w == 1
      some (.amoOr g look dbl d a b)
  | 3 => do
      let g ← guardOf w
      let look ← finOf 16 (fLook w)
      let d ← finOf 32 (fD w)
      let a ← finOf 32 (fA w)
      let b ← finOf 32 (fB w)
      let dbl := fMode w == 1
      some (.amoXor g look dbl d a b)
  | 4 => do
      let g ← guardOf w
      let look ← finOf 16 (fLook w)
      let d ← finOf 32 (fD w)
      let a ← finOf 32 (fA w)
      let b ← finOf 32 (fB w)
      let dbl := fMode w == 1
      some (.amoMin g look dbl d a b)
  | 5 => do
      let g ← guardOf w
      let look ← finOf 16 (fLook w)
      let d ← finOf 32 (fD w)
      let a ← finOf 32 (fA w)
      let b ← finOf 32 (fB w)
      let dbl := fMode w == 1
      some (.amoMax g look dbl d a b)
  | 6 => do
      let g ← guardOf w
      let look ← finOf 16 (fLook w)
      let d ← finOf 32 (fD w)
      let a ← finOf 32 (fA w)
      let b ← finOf 32 (fB w)
      let dbl := fMode w == 1
      some (.amoMinz g look dbl d a b)
  | 7 => do
      let g ← guardOf w
      let look ← finOf 16 (fLook w)
      let d ← finOf 32 (fD w)
      let a ← finOf 32 (fA w)
      let b ← finOf 32 (fB w)
      let dbl := fMode w == 1
      some (.amoMaxz g look dbl d a b)
  | 8 => do
      let g ← guardOf w
      let look ← finOf 16 (fLook w)
      let d ← finOf 32 (fD w)
      let a ← finOf 32 (fA w)
      let b ← finOf 32 (fB w)
      let dbl := fMode w == 1
      some (.amoSwap g look dbl d a b)
  | _ => none

/-- Single-word instructions of major opcode 0x2d (R43–R47). -/
def decode1_45 (w : Nat) : Option Instr :=
  match fMode w with
  | 0 => do
      let g ← guardOf w
      let look ← finOf 16 (fLook w)
      let d ← finOf 32 (fD w)
      let a ← finOf 32 (fA w)
      let b ← finOf 32 (fB w)
      let two := false
      some (.casW g look two d a b)
  | 1 => do
      let g ← guardOf w
      let look ← finOf 16 (fLook w)
      let d ← finOf 32 (fD w)
      let a ← finOf 32 (fA w)
      let b ← finOf 32 (fB w)
      let two := false
      some (.casD g look two d a b)
  | _ => none

/-- Double-word instructions of major opcode 0x2d (R32). -/
def decode2_45 (w x : Nat) : Option Instr :=
  match fMode w with
  | 0 => do
      let g ← guardOf w
      let look ← finOf 16 (fLook w)
      let d ← finOf 32 (fD w)
      let a ← finOf 32 (fA w)
      let b ← finOf 32 (fB w)
      zeroField (x)
      let two := true
      some (.casW g look two d a b)
  | 1 => do
      let g ← guardOf w
      let look ← finOf 16 (fLook w)
      let d ← finOf 32 (fD w)
      let a ← finOf 32 (fA w)
      let b ← finOf 32 (fB w)
      zeroField (x)
      let two := true
      some (.casD g look two d a b)
  | _ => none

/-- Single-word instructions of major opcode 0x2e (R43–R47). -/
def decode1_46 (w : Nat) : Option Instr :=
  match fFn w with
  | 0 => do
      let g ← guardOf w
      zeroField (fD w)
      let a ← finOf 32 (fA w)
      let b ← finOf 32 (fB w)
      some (.accF32 g a b)
  | 1 => do
      let g ← guardOf w
      zeroField (fD w)
      let a ← finOf 32 (fA w)
      let b ← finOf 32 (fB w)
      some (.accBf16 g a b)
  | 2 => do
      let g ← guardOf w
      zeroField (fD w)
      let a ← finOf 32 (fA w)
      let b ← finOf 32 (fB w)
      some (.accF64 g a b)
  | 3 => do
      let g ← guardOf w
      zeroField (fD w)
      let a ← finOf 32 (fA w)
      zeroField (fB w)
      some (.fold g a)
  | _ => none

/-- Single-word instructions of major opcode 0x2f (R43–R47). -/
def decode1_47 (w : Nat) : Option Instr :=
  match fMode w with
  | 0 => do
      let g ← guardOf w
      let look ← finOf 16 (fLook w)
      let d ← finOf 32 (fD w)
      let a ← finOf 32 (fA w)
      let b ← finOf 32 (fB w)
      let two := false
      some (.recvred g look two d a b)
  | _ => none

/-- Double-word instructions of major opcode 0x2f (R32). -/
def decode2_47 (w x : Nat) : Option Instr :=
  match fMode w with
  | 0 => do
      let g ← guardOf w
      let look ← finOf 16 (fLook w)
      let d ← finOf 32 (fD w)
      let a ← finOf 32 (fA w)
      let b ← finOf 32 (fB w)
      zeroField (x)
      let two := true
      some (.recvred g look two d a b)
  | _ => none

/-- Single-word instructions of major opcode 0x30 (R43–R47). -/
def decode1_48 (w : Nat) : Option Instr :=
  do
      let g ← guardOf w
      let sc ← scopeOf (fFn w)
      zeroField (fD w)
      zeroField (fA w)
      zeroField (fB w)
      some (.fence g sc)

/-- Single-word instructions of major opcode 0x31 (R43–R47). -/
def decode1_49 (w : Nat) : Option Instr :=
  match fFn w with
  | 0 => do
      let g ← guardOf w
      zeroField (fD w)
      let a ← finOf 32 (fA w)
      zeroField (fB w)
      some (.bjoin g a)
  | 1 => do
      let g ← guardOf w
      zeroField (fD w)
      let a ← finOf 32 (fA w)
      zeroField (fB w)
      some (.barr g a)
  | 2 => do
      let g ← guardOf w
      zeroField (fD w)
      let a ← finOf 32 (fA w)
      zeroField (fB w)
      some (.bwait g a)
  | 3 => do
      let g ← guardOf w
      zeroField (fD w)
      let a ← finOf 32 (fA w)
      zeroField (fB w)
      some (.barrw g a)
  | 4 => do
      let g ← guardOf w
      zeroField (fD w)
      let a ← finOf 32 (fA w)
      let b ← finOf 32 (fB w)
      some (.bexp g a b)
  | 5 => do
      let g ← guardOf w
      let d ← finOf 32 (fD w)
      let a ← finOf 32 (fA w)
      zeroField (fB w)
      some (.bmiss g d a)
  | _ => none

/-- Single-word instructions of major opcode 0x32 (R43–R47). -/
def decode1_50 (w : Nat) : Option Instr :=
  match fFn w with
  | 0 => do
      let g ← guardOf w
      zeroField (fD w)
      let a ← finOf 32 (fA w)
      let b ← finOf 32 (fB w)
      some (.send g a b)
  | 1 => do
      let g ← guardOf w
      zeroField (fD w)
      let a ← finOf 32 (fA w)
      let b ← finOf 32 (fB w)
      some (.sendl g a b)
  | 2 => do
      let g ← guardOf w
      let d ← finOf 32 (fD w)
      let a ← finOf 32 (fA w)
      zeroField (fB w)
      some (.recv g d a)
  | 3 => do
      let g ← guardOf w
      let d ← finOf 32 (fD w)
      zeroField (fA w)
      zeroField (fB w)
      some (.rpeek g d)
  | 4 => do
      let g ← guardOf w
      zeroField (fD w)
      let a ← finOf 32 (fA w)
      let b ← finOf 32 (fB w)
      some (.rqset g a b)
  | 5 => do
      let g ← guardOf w
      zeroField (fD w)
      let a ← finOf 32 (fA w)
      let b ← finOf 32 (fB w)
      some (.resume g a b)
  | _ => none

/-- Single-word instructions of major opcode 0x33 (R43–R47). -/
def decode1_51 (w : Nat) : Option Instr :=
  match fMode w with
  | 0 => do
      let g ← guardOf w
      let look ← finOf 16 (fLook w)
      let d ← finOf 32 (fD w)
      let a ← finOf 32 (fA w)
      let b ← finOf 32 (fB w)
      some (.rget g look d a b)
  | 1 => do
      let g ← guardOf w
      let look ← finOf 16 (fLook w)
      let d ← finOf 32 (fD w)
      let a ← finOf 32 (fA w)
      let b ← finOf 32 (fB w)
      some (.rsto g look d a b)
  | _ => none

/-- Double-word instructions of major opcode 0x33 (R32). -/
def decode2_51 (w x : Nat) : Option Instr :=
  match fMode w with
  | 0 => do
      let g ← guardOf w
      let look ← finOf 16 (fLook w)
      let d ← finOf 32 (fD w)
      let a ← finOf 32 (fA w)
      let b ← finOf 32 (fB w)
      let ext := BitVec.ofNat 32 x
      some (.rgetDw g look d a b ext)
  | 1 => do
      let g ← guardOf w
      let look ← finOf 16 (fLook w)
      let d ← finOf 32 (fD w)
      let a ← finOf 32 (fA w)
      let b ← finOf 32 (fB w)
      let ext := BitVec.ofNat 32 x
      some (.rstoDw g look d a b ext)
  | _ => none

/-- Single-word instructions of major opcode 0x34 (R43–R47). -/
def decode1_52 (w : Nat) : Option Instr :=
  match fFn w with
  | 0 => do
      let g ← guardOf w
      zeroField (fD w)
      let a ← finOf 32 (fA w)
      let b ← finOf 32 (fB w)
      some (.qpush g a b)
  | 1 => do
      let g ← guardOf w
      let d ← finOf 32 (fD w)
      let a ← finOf 32 (fA w)
      zeroField (fB w)
      some (.qpop g d a)
  | _ => none

/-- Single-word instructions of major opcode 0x36 (R43–R47). -/
def decode1_54 (w : Nat) : Option Instr :=
  match fFn w with
  | 0 => do
      let g ← guardOf w
      zeroField (fD w)
      let a ← finOf 32 (fA w)
      zeroField (fB w)
      some (.exit g a)
  | 1 => do
      let g ← guardOf w
      zeroField (fD w)
      zeroField (fA w)
      zeroField (fB w)
      some (.detach g)
  | 2 => do
      let g ← guardOf w
      let d ← finOf 32 (fD w)
      zeroField (fA w)
      zeroField (fB w)
      some (.teamid g d)
  | 3 => do
      let g ← guardOf w
      zeroField (fD w)
      zeroField (fA w)
      zeroField (fB w)
      some (.yield g)
  | _ => none

/-- Single-word instructions of major opcode 0x37 (R43–R47). -/
def decode1_55 (w : Nat) : Option Instr :=
  match fMode w with
  | 0 => do
      let g ← guardOf w
      let look ← finOf 16 (fLook w)
      let d ← finOf 32 (fD w)
      let a ← finOf 32 (fA w)
      let b ← finOf 32 (fB w)
      some (.wld g look d a b)
  | 1 => do
      let g ← guardOf w
      let look ← finOf 16 (fLook w)
      let d ← finOf 32 (fD w)
      let a ← finOf 32 (fA w)
      let b ← finOf 32 (fB w)
      some (.wst g look d a b)
  | _ => none

/-- Double-word instructions of major opcode 0x37 (R32). -/
def decode2_55 (w x : Nat) : Option Instr :=
  match fMode w with
  | 0 => do
      let g ← guardOf w
      let look ← finOf 16 (fLook w)
      let d ← finOf 32 (fD w)
      let a ← finOf 32 (fA w)
      let b ← finOf 32 (fB w)
      let ext := BitVec.ofNat 32 x
      some (.wldDw g look d a b ext)
  | 1 => do
      let g ← guardOf w
      let look ← finOf 16 (fLook w)
      let d ← finOf 32 (fD w)
      let a ← finOf 32 (fA w)
      let b ← finOf 32 (fB w)
      let ext := BitVec.ofNat 32 x
      some (.wstDw g look d a b ext)
  | _ => none

/-- Single-word instructions of major opcode 0x38 (R43–R47). -/
def decode1_56 (w : Nat) : Option Instr :=
  match fFn w with
  | 0 => do
      let g ← guardOf w
      zeroField (fD w)
      let a ← finOf 32 (fA w)
      let b ← finOf 32 (fB w)
      some (.hseed g a b)
  | 1 => do
      let g ← guardOf w
      zeroField (fD w)
      let a ← finOf 32 (fA w)
      let b ← finOf 32 (fB w)
      some (.gain g a b)
  | 2 => do
      let g ← guardOf w
      zeroField (fD w)
      let a ← finOf 32 (fA w)
      zeroField (fB w)
      some (.done g a)
  | 3 => do
      let g ← guardOf w
      let d ← finOf 32 (fD w)
      zeroField (fA w)
      zeroField (fB w)
      some (.resid g d)
  | 4 => do
      let g ← guardOf w
      let d ← finOf 32 (fD w)
      zeroField (fA w)
      zeroField (fB w)
      some (.hpeek g d)
  | 5 => do
      let g ← guardOf w
      let d ← finOf 32 (fD w)
      zeroField (fA w)
      zeroField (fB w)
      some (.hcount g d)
  | _ => none

/-- Single-word instructions of major opcode 0x39 (R43–R47). -/
def decode1_57 (w : Nat) : Option Instr :=
  match fMode w with
  | 0 => do
      let g ← guardOf w
      let look ← finOf 16 (fLook w)
      let d ← finOf 32 (fD w)
      let a ← finOf 32 (fA w)
      let b ← finOf 32 (fB w)
      let two := false
      some (.take g look two d a b)
  | _ => none

/-- Double-word instructions of major opcode 0x39 (R32). -/
def decode2_57 (w x : Nat) : Option Instr :=
  match fMode w with
  | 0 => do
      let g ← guardOf w
      let look ← finOf 16 (fLook w)
      let d ← finOf 32 (fD w)
      let a ← finOf 32 (fA w)
      let b ← finOf 32 (fB w)
      zeroField (x)
      let two := true
      some (.take g look two d a b)
  | _ => none

/-- Single-word instructions of major opcode 0x3a (R43–R47). -/
def decode1_58 (w : Nat) : Option Instr :=
  match fFn w with
  | 0 => do
      let g ← guardOf w
      zeroField (fD w)
      let a ← finOf 32 (fA w)
      let b ← finOf 32 (fB w)
      some (.lexld g a b)
  | 1 => do
      let g ← guardOf w
      zeroField (fD w)
      let a ← finOf 32 (fA w)
      let b ← finOf 32 (fB w)
      some (.mldb g a b)
  | 2 => do
      let g ← guardOf w
      zeroField (fD w)
      let a ← finOf 32 (fA w)
      let b ← finOf 32 (fB w)
      some (.macc g a b)
  | 3 => do
      let g ← guardOf w
      let d ← finOf 32 (fD w)
      let a ← finOf 32 (fA w)
      zeroField (fB w)
      some (.mrd g d a)
  | 4 => do
      let g ← guardOf w
      zeroField (fD w)
      let a ← finOf 32 (fA w)
      let b ← finOf 32 (fB w)
      some (.infl g a b)
  | 5 => do
      let g ← guardOf w
      zeroField (fD w)
      let a ← finOf 32 (fA w)
      zeroField (fB w)
      some (.mwait g a)
  | _ => none

/-- Single-word instructions of major opcode 0x3b (R43–R47). -/
def decode1_59 (w : Nat) : Option Instr :=
  match fMode w with
  | 0 => do
      let g ← guardOf w
      let look ← finOf 16 (fLook w)
      let d ← finOf 32 (fD w)
      let a ← finOf 32 (fA w)
      let b ← finOf 32 (fB w)
      some (.mma g look d a b)
  | 1 => do
      let g ← guardOf w
      let look ← finOf 16 (fLook w)
      let d ← finOf 32 (fD w)
      let a ← finOf 32 (fA w)
      let b ← finOf 32 (fB w)
      some (.mgath g look d a b)
  | _ => none

/-- Single-word instructions of major opcode 0x3c (R43–R47). -/
def decode1_60 (w : Nat) : Option Instr :=
  do
      let g ← guardOf w
      let d ← finOf 32 (fD w)
      zeroField (fA w)
      let r := BitVec.ofNat 10 (fImm w)
      some (.mfs g d r)

/-- Single-word instructions of major opcode 0x3d (R43–R47). -/
def decode1_61 (w : Nat) : Option Instr :=
  if 60 ≤ fImm w ∧ fImm w < 68 then do
      let g ← guardOf w
      zeroField (fD w)
      let a ← finOf 32 (fA w)
      let n ← finOf 8 (fImm w - 60)
      some (.wqringWrite g n a)
  else if 28 ≤ fImm w ∧ fImm w < 32 then do
      let g ← guardOf w
      zeroField (fD w)
      let a ← finOf 32 (fA w)
      let n ← finOf 4 (fImm w - 28)
      some (.pubSlotWrite g n a)
  else if fImm w = 12 then do
      let g ← guardOf w
      zeroField (fD w)
      let a ← finOf 32 (fA w)
      some (.accrWrite g a)
  else if fImm w = 69 then do
      let g ← guardOf w
      zeroField (fD w)
      let a ← finOf 32 (fA w)
      some (.icinvWrite g a)
  else if fImm w = 84 then do
      let g ← guardOf w
      zeroField (fD w)
      let a ← finOf 32 (fA w)
      some (.asgpartWrite g a)
  else do
      let g ← guardOf w
      zeroField (fD w)
      let a ← finOf 32 (fA w)
      let r := BitVec.ofNat 10 (fImm w)
      some (.mts g a r)

/-- Single-word instructions of major opcode 0x3e (R43–R47). -/
def decode1_62 (w : Nat) : Option Instr :=
  match fFn w with
  | 0 => do
      let g ← guardOf w
      zeroField (fD w)
      zeroField (fA w)
      let b ← finOf 32 (fB w)
      some (.trap g b)
  | 1 => do
      let g ← guardOf w
      zeroField (fD w)
      zeroField (fA w)
      zeroField (fB w)
      some (.rett g)
  | 2 => do
      let g ← guardOf w
      zeroField (fD w)
      zeroField (fA w)
      zeroField (fB w)
      some (.halt g)
  | 3 => do
      let g ← guardOf w
      zeroField (fD w)
      let a ← finOf 32 (fA w)
      zeroField (fB w)
      some (.ctxsvStop g a)
  | 4 => do
      let g ← guardOf w
      zeroField (fD w)
      let a ← finOf 32 (fA w)
      zeroField (fB w)
      some (.ctxldLoad g a)
  | 5 => do
      let g ← guardOf w
      zeroField (fD w)
      zeroField (fA w)
      zeroField (fB w)
      some (.brk g)
  | 6 => do
      let g ← guardOf w
      let d ← finOf 32 (fD w)
      zeroField (fA w)
      zeroField (fB w)
      some (.timens g d)
  | 7 => do
      let g ← guardOf w
      zeroField (fD w)
      let a ← finOf 32 (fA w)
      zeroField (fB w)
      some (.sleep g a)
  | 8 => do
      let g ← guardOf w
      zeroField (fD w)
      let a ← finOf 32 (fA w)
      zeroField (fB w)
      some (.sleepm g a)
  | 9 => do
      let g ← guardOf w
      let d ← finOf 32 (fD w)
      let a ← finOf 32 (fA w)
      zeroField (fB w)
      some (.perf g d a)
  | 10 => do
      let g ← guardOf w
      zeroField (fD w)
      let a ← finOf 32 (fA w)
      zeroField (fB w)
      some (.trace g a)
  | _ => none

/-- A single-word instruction, frame `00` (R27, R43). -/
def decode1 (w : Nat) : Option Instr :=
  match fMajor w with
  | 1 => decode1_1 w
  | 2 => decode1_2 w
  | 3 => decode1_3 w
  | 4 => decode1_4 w
  | 5 => decode1_5 w
  | 6 => decode1_6 w
  | 7 => decode1_7 w
  | 8 => decode1_8 w
  | 9 => decode1_9 w
  | 10 => decode1_10 w
  | 11 => decode1_11 w
  | 12 => decode1_12 w
  | 13 => decode1_13 w
  | 14 => decode1_14 w
  | 15 => decode1_15 w
  | 16 => decode1_16 w
  | 17 => decode1_17 w
  | 18 => decode1_18 w
  | 19 => decode1_19 w
  | 20 => decode1_20 w
  | 21 => decode1_21 w
  | 24 => decode1_24 w
  | 25 => decode1_25 w
  | 26 => decode1_26 w
  | 27 => decode1_27 w
  | 28 => decode1_28 w
  | 29 => decode1_29 w
  | 32 => decode1_32 w
  | 33 => decode1_33 w
  | 34 => decode1_34 w
  | 36 => decode1_36 w
  | 37 => decode1_37 w
  | 38 => decode1_38 w
  | 39 => decode1_39 w
  | 40 => decode1_40 w
  | 41 => decode1_41 w
  | 42 => decode1_42 w
  | 43 => decode1_43 w
  | 44 => decode1_44 w
  | 45 => decode1_45 w
  | 46 => decode1_46 w
  | 47 => decode1_47 w
  | 48 => decode1_48 w
  | 49 => decode1_49 w
  | 50 => decode1_50 w
  | 51 => decode1_51 w
  | 52 => decode1_52 w
  | 54 => decode1_54 w
  | 55 => decode1_55 w
  | 56 => decode1_56 w
  | 57 => decode1_57 w
  | 58 => decode1_58 w
  | 59 => decode1_59 w
  | 60 => decode1_60 w
  | 61 => decode1_61 w
  | 62 => decode1_62 w
  | _ => none

/-- A double-word instruction, frame `01` (R27, R32). -/
def decode2 (w x : Nat) : Option Instr :=
  match fMajor w with
  | 1 => decode2_1 w x
  | 2 => decode2_2 w x
  | 3 => decode2_3 w x
  | 4 => decode2_4 w x
  | 5 => decode2_5 w x
  | 7 => decode2_7 w x
  | 9 => decode2_9 w x
  | 10 => decode2_10 w x
  | 15 => decode2_15 w x
  | 16 => decode2_16 w x
  | 17 => decode2_17 w x
  | 21 => decode2_21 w x
  | 36 => decode2_36 w x
  | 37 => decode2_37 w x
  | 38 => decode2_38 w x
  | 41 => decode2_41 w x
  | 42 => decode2_42 w x
  | 43 => decode2_43 w x
  | 44 => decode2_44 w x
  | 45 => decode2_45 w x
  | 47 => decode2_47 w x
  | 51 => decode2_51 w x
  | 55 => decode2_55 w x
  | 57 => decode2_57 w x
  | _ => none

/-- An affix word, frame `10` (R39); mode `11` is no instruction. -/
def decodeAffix (w : Nat) : Option Instr :=
  match bits w 16 2 with
  | 0 => do
      let t ← finOf 64 (bits w 24 6)
      let f ← finOf 64 (bits w 18 6)
      let x := BitVec.ofNat 16 w
      some (.affixI t f x)
  | 1 => do
      let t ← finOf 64 (bits w 24 6)
      let f ← finOf 64 (bits w 18 6)
      let x := BitVec.ofNat 16 w
      some (.affixK t f x)
  | 2 => do
      let t ← finOf 64 (bits w 24 6)
      let f ← finOf 64 (bits w 18 6)
      let x := BitVec.ofNat 16 w
      some (.affixS t f x)
  | _ => none

/-- Why a word is no instruction.  Each of them traps `ILLEGAL` (R38). -/
inductive DecodeError where
  /-- Frame `11`, or an affix word with mode `11` (R27, R39). -/
  | frame
  /-- An unused major opcode, or a double-word frame on an instruction without such a form (R43, R32). -/
  | major
  /-- An unused function, op, mode or sub-field value, a register out of range, or a nonzero unused field (R38). -/
  | field
  /-- The guard `?!p0`, or a literal or extension word its table marks `ILLEGAL` (R33, R32). -/
  | illFormed
  deriving DecidableEq, Repr

/-- The major opcodes that R43 assigns. -/
def majorAssigned (m : Nat) : Bool :=
  (1 ≤ m && m ≤ 0x15) || (0x18 ≤ m && m ≤ 0x1D) || (0x20 ≤ m && m ≤ 0x22) || (0x24 ≤ m && m ≤ 0x34)
    || (0x36 ≤ m && m ≤ 0x3E)

/-- The fields of the first word `w` (and, in frame `01`, of the second word `x`) as an instruction, before the checks of
`Instr.wf`. -/
def decodeRaw (w x : Nat) : Option Instr :=
  match fFrame w with
  | 0 => decode1 w
  | 1 => decode2 w x
  | 2 => decodeAffix w
  | _ => none

/-- The decoder (R38): a total function of the instruction's words; the second word counts only in frame `01`. -/
def decode (w x : Nat) : Except DecodeError Instr :=
  match decodeRaw w x with
  | some i => if i.wf then .ok i else .error .illFormed
  | none =>
    if fFrame w = 3 ∨ (fFrame w = 2 ∧ bits w 16 2 = 3) then .error .frame
    else if majorAssigned (fMajor w) then .error .field
    else .error .major

/-! ## The encoder -/

/-- The guard field (R33). -/
def Guard.code (g : Guard) : Nat := 8 * g.neg.toNat + g.p.val

def wordR (maj d a b fn g : Nat) : Nat := maj * 2 ^ 24 + d * 2 ^ 19 + a * 2 ^ 14 + b * 2 ^ 9 + fn * 2 ^ 4 + g
def wordI (maj d a imm g : Nat) : Nat := maj * 2 ^ 24 + d * 2 ^ 19 + a * 2 ^ 14 + imm * 2 ^ 4 + g
def wordM (maj d a op off g : Nat) : Nat := maj * 2 ^ 24 + d * 2 ^ 19 + a * 2 ^ 14 + op * 2 ^ 10 + off * 2 ^ 4 + g
def wordL (maj d a b look mode g : Nat) : Nat :=
  maj * 2 ^ 24 + d * 2 ^ 19 + a * 2 ^ 14 + b * 2 ^ 9 + look * 2 ^ 5 + mode * 2 ^ 4 + g
def wordB (maj off g : Nat) : Nat := maj * 2 ^ 24 + off * 2 ^ 4 + g
def wordA (t f mode x : Nat) : Nat := 2 * 2 ^ 30 + t * 2 ^ 24 + f * 2 ^ 18 + mode * 2 ^ 16 + x


/-- The first word of an instruction, from the encoding tables R29, R32, R39, R43–R47; 0 for an event row, which has no word. -/
def Instr.word0 (i : Instr) : Nat :=
  match i with
  | .add g d a b => wordR 1 d.val a.val b.val 0 g.code
  | .sub g d a b => wordR 1 d.val a.val b.val 1 g.code
  | .and g d a b => wordR 1 d.val a.val b.val 2 g.code
  | .or g d a b => wordR 1 d.val a.val b.val 3 g.code
  | .xor g d a b => wordR 1 d.val a.val b.val 4 g.code
  | .andn g d a b => wordR 1 d.val a.val b.val 5 g.code
  | .shl g d a b => wordR 1 d.val a.val b.val 6 g.code
  | .shr g d a b => wordR 1 d.val a.val b.val 7 g.code
  | .sar g d a b => wordR 1 d.val a.val b.val 8 g.code
  | .rol g d a b => wordR 1 d.val a.val b.val 9 g.code
  | .mul g d a b => wordR 1 d.val a.val b.val 10 g.code
  | .mulh g d a b => wordR 1 d.val a.val b.val 11 g.code
  | .mulhz g d a b => wordR 1 d.val a.val b.val 12 g.code
  | .div g d a b => wordR 1 d.val a.val b.val 13 g.code
  | .divz g d a b => wordR 1 d.val a.val b.val 14 g.code
  | .rem g d a b => wordR 1 d.val a.val b.val 15 g.code
  | .remz g d a b => wordR 1 d.val a.val b.val 16 g.code
  | .min g d a b => wordR 1 d.val a.val b.val 17 g.code
  | .max g d a b => wordR 1 d.val a.val b.val 18 g.code
  | .minz g d a b => wordR 1 d.val a.val b.val 19 g.code
  | .maxz g d a b => wordR 1 d.val a.val b.val 20 g.code
  | .clz g d a => wordR 1 d.val a.val 0 21 g.code
  | .ctz g d a => wordR 1 d.val a.val 0 22 g.code
  | .popc g d a => wordR 1 d.val a.val 0 23 g.code
  | .sextB g d a => wordR 1 d.val a.val 0 24 g.code
  | .sextH g d a => wordR 1 d.val a.val 0 25 g.code
  | .sextW g d a => wordR 1 d.val a.val 0 26 g.code
  | .zextB g d a => wordR 1 d.val a.val 0 27 g.code
  | .zextH g d a => wordR 1 d.val a.val 0 28 g.code
  | .zextW g d a => wordR 1 d.val a.val 0 29 g.code
  | .bext g d a b => wordR 1 d.val a.val b.val 30 g.code
  | .bins g d a b => wordR 1 d.val a.val b.val 31 g.code
  | .bextDw g d a _ _ => 2 ^ 30 + wordR 1 d.val a.val 0 30 g.code
  | .binsDw g d a _ _ => 2 ^ 30 + wordR 1 d.val a.val 0 31 g.code
  | .addi g d a imm => wordI 2 d.val a.val imm.toNat g.code
  | .andi g d a imm => wordI 3 d.val a.val imm.toNat g.code
  | .ori g d a imm => wordI 4 d.val a.val imm.toNat g.code
  | .xori g d a imm => wordI 5 d.val a.val imm.toNat g.code
  | .addiDw g d a _ => 2 ^ 30 + wordI 2 d.val a.val 0 g.code
  | .andiDw g d a _ => 2 ^ 30 + wordI 3 d.val a.val 0 g.code
  | .oriDw g d a _ => 2 ^ 30 + wordI 4 d.val a.val 0 g.code
  | .xoriDw g d a _ => 2 ^ 30 + wordI 5 d.val a.val 0 g.code
  | .shli g d a n => wordI 6 d.val a.val (0 * 256 + n.val) g.code
  | .shri g d a n => wordI 6 d.val a.val (1 * 256 + n.val) g.code
  | .sari g d a n => wordI 6 d.val a.val (2 * 256 + n.val) g.code
  | .limm g d imm => wordI 7 d.val 0 imm.toNat g.code
  | .limmh g d imm => wordI 7 d.val 1 imm.toNat g.code
  | .addpc g d imm => wordI 7 d.val 2 imm.toNat g.code
  | .limmDw g d _ => 2 ^ 30 + wordI 7 d.val 0 0 g.code
  | .limmhDw g d _ => 2 ^ 30 + wordI 7 d.val 1 0 g.code
  | .addpcDw g d _ => 2 ^ 30 + wordI 7 d.val 2 0 g.code
  | .cmpCc g c p a b => wordR 8 p.val a.val b.val c.val g.code
  | .cmpiCcLow g c p a imm => wordI 9 (8 * c.val + p.val) a.val imm.toNat g.code
  | .cmpiCcHigh g c p a imm => wordI 10 (8 * c.val + p.val) a.val imm.toNat g.code
  | .cmpiDw g c p a _ => 2 ^ 30 + wordI (9 + c.val / 4) (8 * (c.val % 4) + p.val) a.val 0 g.code
  | .pand g d a b => wordR 11 d.val a.val b.val 0 g.code
  | .por g d a b => wordR 11 d.val a.val b.val 1 g.code
  | .pxor g d a b => wordR 11 d.val a.val b.val 2 g.code
  | .pnot g d a => wordR 11 d.val a.val 0 3 g.code
  | .pmov g d a => wordR 11 d.val a.val 0 4 g.code
  | .br g off => wordB 12 off.toNat g.code
  | .call g off => wordB 13 off.toNat g.code
  | .jr g a => wordR 14 0 a.val 0 0 g.code
  | .ret g => wordR 14 0 0 0 1 g.code
  | .rot g => wordR 14 0 0 0 2 g.code
  | .stage g a => wordR 14 0 a.val 0 3 g.code
  | .nop g => wordR 14 0 0 0 4 g.code
  | .hint g b => wordR 14 0 0 b.val 5 g.code
  | .loop g n a len => wordI 15 (n.val + 2 * 0) a.val len.toNat g.code
  | .loopP g n a len => wordI 15 (n.val + 2 * 1) a.val len.toNat g.code
  | .loopDw g pipe n len _ => 2 ^ 30 + wordI 15 (n.val + 2 * pipe.toNat) 0 len.toNat g.code
  | .ldb g d a off => wordM 16 d.val a.val 0 off.toNat g.code
  | .ldh g d a off => wordM 16 d.val a.val 1 off.toNat g.code
  | .ldw g d a off => wordM 16 d.val a.val 2 off.toNat g.code
  | .ldd g d a off => wordM 16 d.val a.val 3 off.toNat g.code
  | .ldbz g d a off => wordM 16 d.val a.val 4 off.toNat g.code
  | .ldhz g d a off => wordM 16 d.val a.val 5 off.toNat g.code
  | .ldwz g d a off => wordM 16 d.val a.val 6 off.toNat g.code
  | .stb g d a off => wordM 16 d.val a.val 8 off.toNat g.code
  | .sth g d a off => wordM 16 d.val a.val 9 off.toNat g.code
  | .stw g d a off => wordM 16 d.val a.val 10 off.toNat g.code
  | .std g d a off => wordM 16 d.val a.val 11 off.toNat g.code
  | .ldbDw g d a _ => 2 ^ 30 + wordM 16 d.val a.val 0 0 g.code
  | .ldhDw g d a _ => 2 ^ 30 + wordM 16 d.val a.val 1 0 g.code
  | .ldwDw g d a _ => 2 ^ 30 + wordM 16 d.val a.val 2 0 g.code
  | .lddDw g d a _ => 2 ^ 30 + wordM 16 d.val a.val 3 0 g.code
  | .ldbzDw g d a _ => 2 ^ 30 + wordM 16 d.val a.val 4 0 g.code
  | .ldhzDw g d a _ => 2 ^ 30 + wordM 16 d.val a.val 5 0 g.code
  | .ldwzDw g d a _ => 2 ^ 30 + wordM 16 d.val a.val 6 0 g.code
  | .stbDw g d a _ => 2 ^ 30 + wordM 16 d.val a.val 8 0 g.code
  | .sthDw g d a _ => 2 ^ 30 + wordM 16 d.val a.val 9 0 g.code
  | .stwDw g d a _ => 2 ^ 30 + wordM 16 d.val a.val 10 0 g.code
  | .stdDw g d a _ => 2 ^ 30 + wordM 16 d.val a.val 11 0 g.code
  | .vld g d a off => wordM 17 d.val a.val 0 off.toNat g.code
  | .vst g d a off => wordM 17 d.val a.val 1 off.toNat g.code
  | .vldDw g d a _ => 2 ^ 30 + wordM 17 d.val a.val 0 0 g.code
  | .vstDw g d a _ => 2 ^ 30 + wordM 17 d.val a.val 1 0 g.code
  | .vlds g d a b => wordR 18 d.val a.val b.val 0 g.code
  | .vsts g d a b => wordR 18 d.val a.val b.val 1 g.code
  | .vgathl g d a b => wordR 18 d.val a.val b.val 2 g.code
  | .vscatl g d a b => wordR 18 d.val a.val b.val 3 g.code
  | .cclean g a => wordR 19 0 a.val 0 0 g.code
  | .cinv g a => wordR 19 0 a.val 0 1 g.code
  | .tlbinv g a b => wordR 19 0 a.val b.val 2 g.code
  | .tlbinvComplete _ => 0
  | .dclset g a => wordR 20 0 a.val 0 0 g.code
  | .sylset g d a => wordR 20 d.val a.val 0 1 g.code
  | .vldd g d a off => wordM 21 d.val a.val 0 off.toNat g.code
  | .vldp g d a off => wordM 21 d.val a.val 1 off.toNat g.code
  | .vlddDw g d a _ => 2 ^ 30 + wordM 21 d.val a.val 0 0 g.code
  | .vldpDw g d a _ => 2 ^ 30 + wordM 21 d.val a.val 1 0 g.code
  | .vadd g d a b => wordR 24 d.val a.val b.val 0 g.code
  | .vsub g d a b => wordR 24 d.val a.val b.val 1 g.code
  | .vmul g d a b => wordR 24 d.val a.val b.val 2 g.code
  | .vmin g d a b => wordR 24 d.val a.val b.val 3 g.code
  | .vmax g d a b => wordR 24 d.val a.val b.val 4 g.code
  | .vabs g d a => wordR 24 d.val a.val 0 5 g.code
  | .vneg g d a => wordR 24 d.val a.val 0 6 g.code
  | .vand g d a b => wordR 24 d.val a.val b.val 7 g.code
  | .vor g d a b => wordR 24 d.val a.val b.val 8 g.code
  | .vxor g d a b => wordR 24 d.val a.val b.val 9 g.code
  | .vshl g d a b => wordR 24 d.val a.val b.val 10 g.code
  | .vshr g d a b => wordR 24 d.val a.val b.val 11 g.code
  | .vsar g d a b => wordR 24 d.val a.val b.val 12 g.code
  | .vaddS g d a b => wordR 24 d.val a.val b.val 13 g.code
  | .vsubS g d a b => wordR 24 d.val a.val b.val 14 g.code
  | .vsel g d a b k => wordR 24 d.val a.val b.val (16 + k.val) g.code
  | .vfma g d a b => wordR 25 d.val a.val b.val 0 g.code
  | .vfms g d a b => wordR 25 d.val a.val b.val 1 g.code
  | .vnfma g d a b => wordR 25 d.val a.val b.val 2 g.code
  | .vdot g d a b => wordR 25 d.val a.val b.val 3 g.code
  | .vdotf g d a b => wordR 25 d.val a.val b.val 4 g.code
  | .vcmpCc g c d a b => wordR 26 d.val a.val b.val c.val g.code
  | .vredAdd g d a => wordR 27 d.val a.val 0 0 g.code
  | .vredMin g d a => wordR 27 d.val a.val 0 1 g.code
  | .vredMax g d a => wordR 27 d.val a.val 0 2 g.code
  | .vscanAdd g d a => wordR 27 d.val a.val 0 3 g.code
  | .vscanMin g d a => wordR 27 d.val a.val 0 4 g.code
  | .vscanMax g d a => wordR 27 d.val a.val 0 5 g.code
  | .vperm g d a b => wordR 27 d.val a.val b.val 6 g.code
  | .vbcast g d a => wordR 27 d.val a.val 0 7 g.code
  | .vext g d a b => wordR 27 d.val a.val b.val 8 g.code
  | .vins g d a b => wordR 27 d.val a.val b.val 9 g.code
  | .vrcp g d a => wordR 28 d.val a.val 0 0 g.code
  | .vrsq g d a => wordR 28 d.val a.val 0 1 g.code
  | .vexp2 g d a => wordR 28 d.val a.val 0 2 g.code
  | .vlog2 g d a => wordR 28 d.val a.val 0 3 g.code
  | .vtanh g d a => wordR 28 d.val a.val 0 4 g.code
  | .vsigm g d a => wordR 28 d.val a.val 0 5 g.code
  | .vlong g => wordR 29 0 0 0 0 g.code
  | .vshort g => wordR 29 0 0 0 1 g.code
  | .cvtRne g d a t => wordR 32 d.val a.val t.code 0 g.code
  | .cvtRtz g d a t => wordR 32 d.val a.val t.code 1 g.code
  | .cvtRup g d a t => wordR 32 d.val a.val t.code 2 g.code
  | .cvtRdn g d a t => wordR 32 d.val a.val t.code 3 g.code
  | .cvtSat g d a t => wordR 32 d.val a.val t.code 4 g.code
  | .qn4 g d a b => wordR 33 d.val a.val b.val 0 g.code
  | .dqn4 g d a b => wordR 33 d.val a.val b.val 1 g.code
  | .qscale g d a b => wordR 33 d.val a.val b.val 2 g.code
  | .tagset g d t => wordR 34 d.val 0 t.code 0 g.code
  | .tagget g d a => wordR 34 d.val a.val 0 1 g.code
  | .fclass g d a => wordR 34 d.val a.val 0 2 g.code
  | .draw g look d a b => wordL 36 d.val a.val b.val look.val 0 g.code
  | .stow g look d a b => wordL 36 d.val a.val b.val look.val 1 g.code
  | .draws g look d a b => wordL 37 d.val a.val b.val look.val 0 g.code
  | .stows g look d a b => wordL 37 d.val a.val b.val look.val 1 g.code
  | .drawDw g look d a b _ => 2 ^ 30 + wordL 36 d.val a.val b.val look.val 0 g.code
  | .stowDw g look d a b _ => 2 ^ 30 + wordL 36 d.val a.val b.val look.val 1 g.code
  | .drawsDw g look d a b _ => 2 ^ 30 + wordL 37 d.val a.val b.val look.val 0 g.code
  | .stowsDw g look d a b _ => 2 ^ 30 + wordL 37 d.val a.val b.val look.val 1 g.code
  | .dzero g look d b => wordL 38 d.val 0 b.val look.val 0 g.code
  | .dcopy g look d a b => wordL 38 d.val a.val b.val look.val 1 g.code
  | .dzeroDw g look d b _ => 2 ^ 30 + wordL 38 d.val 0 b.val look.val 0 g.code
  | .dcopyDw g look d a b _ => 2 ^ 30 + wordL 38 d.val a.val b.val look.val 1 g.code
  | .chain g a b => wordR 39 0 a.val b.val 0 g.code
  | .kick g b => wordR 39 0 0 b.val 1 g.code
  | .cwait g d a => wordR 39 d.val a.val 0 2 g.code
  | .cwaitSatisfied _ => 0
  | .cpost g d a => wordR 39 d.val a.val 0 3 g.code
  | .wpwait g d a => wordR 39 d.val a.val 0 4 g.code
  | .wpwaitSatisfied _ => 0
  | .publish g sc a => wordR 39 0 a.val 0 (8 + sc.code) g.code
  | .publishToggle _ => 0
  | .channelEntryStart _ _ => 0
  | .chainEntryStep _ _ => 0
  | .operationPacket _ _ => 0
  | .dramRequestAccept _ _ => 0
  | .ownershipDecision _ _ => 0
  | .clusterCacheEviction _ _ => 0
  | .entryComplete _ _ => 0
  | .remoteBumpArrival _ => 0
  | .channelFault _ _ _ _ _ => 0
  | .chstFaultResume _ _ => 0
  | .chstAbort _ _ => 0
  | .rowCommandPiece _ _ => 0
  | .landingPacket _ _ => 0
  | .pageWalkRead _ => 0
  | .hotPageEpoch _ => 0
  | .poolScrub _ _ => 0
  | .fetchMissFill _ _ => 0
  | .tblset g a b => wordR 40 0 a.val b.val 0 g.code
  | .tblsetComplete _ => 0
  | .idhash g d a b => wordR 40 d.val a.val b.val 1 g.code
  | .rowwait g a => wordR 40 0 a.val 0 2 g.code
  | .rowwaitSatisfied _ => 0
  | .rowacc g a b => wordR 40 0 a.val b.val 3 g.code
  | .rowset g a b => wordR 40 0 a.val b.val 4 g.code
  | .elide g look two d a b => (if two then 2 ^ 30 else 0) + wordL 41 d.val a.val b.val look.val 0 g.code
  | .elidem g look two d a b => (if two then 2 ^ 30 else 0) + wordL 41 d.val a.val b.val look.val 1 g.code
  | .elisionComplete _ => 0
  | .rowget g look d a b => wordL 42 d.val a.val b.val look.val 0 g.code
  | .rowgetw g look d a b => wordL 42 d.val a.val b.val look.val 1 g.code
  | .rowgetDw g look d a b _ => 2 ^ 30 + wordL 42 d.val a.val b.val look.val 0 g.code
  | .rowgetwDw g look d a b _ => 2 ^ 30 + wordL 42 d.val a.val b.val look.val 1 g.code
  | .segred g look d a b => wordL 43 d.val a.val b.val look.val 0 g.code
  | .segscat g look d a b => wordL 43 d.val a.val b.val look.val 1 g.code
  | .segredDw g look d a b _ => 2 ^ 30 + wordL 43 d.val a.val b.val look.val 0 g.code
  | .segscatDw g look d a b _ => 2 ^ 30 + wordL 43 d.val a.val b.val look.val 1 g.code
  | .lookupOpStart _ => 0
  | .rowRequestMerge _ _ _ _ => 0
  | .rowRequestServe _ _ => 0
  | .rowRead _ _ => 0
  | .rowAccumulate _ _ => 0
  | .rowStore _ _ => 0
  | .rowReplyLand _ _ => 0
  | .lookupOpComplete _ => 0
  | .lookupOpFault _ _ _ _ => 0
  | .amoAddW g look d a b => wordL 44 d.val a.val b.val look.val 0 g.code
  | .amoAddD g look d a b => wordL 44 d.val a.val b.val look.val 1 g.code
  | .amoAddDw g look dbl d a b => 2 ^ 30 + wordL 44 d.val a.val b.val look.val dbl.toNat g.code
  | .amoAnd g look dbl d a b => 2 ^ 30 + wordL 44 d.val a.val b.val look.val dbl.toNat g.code
  | .amoOr g look dbl d a b => 2 ^ 30 + wordL 44 d.val a.val b.val look.val dbl.toNat g.code
  | .amoXor g look dbl d a b => 2 ^ 30 + wordL 44 d.val a.val b.val look.val dbl.toNat g.code
  | .amoMin g look dbl d a b => 2 ^ 30 + wordL 44 d.val a.val b.val look.val dbl.toNat g.code
  | .amoMax g look dbl d a b => 2 ^ 30 + wordL 44 d.val a.val b.val look.val dbl.toNat g.code
  | .amoMinz g look dbl d a b => 2 ^ 30 + wordL 44 d.val a.val b.val look.val dbl.toNat g.code
  | .amoMaxz g look dbl d a b => 2 ^ 30 + wordL 44 d.val a.val b.val look.val dbl.toNat g.code
  | .amoSwap g look dbl d a b => 2 ^ 30 + wordL 44 d.val a.val b.val look.val dbl.toNat g.code
  | .casW g look two d a b => (if two then 2 ^ 30 else 0) + wordL 45 d.val a.val b.val look.val 0 g.code
  | .casD g look two d a b => (if two then 2 ^ 30 else 0) + wordL 45 d.val a.val b.val look.val 1 g.code
  | .atomicExecute _ => 0
  | .amoCombine _ _ => 0
  | .atomicFaultReply _ => 0
  | .accF32 g a b => wordR 46 0 a.val b.val 0 g.code
  | .accBf16 g a b => wordR 46 0 a.val b.val 1 g.code
  | .accF64 g a b => wordR 46 0 a.val b.val 2 g.code
  | .fold g a => wordR 46 0 a.val 0 3 g.code
  | .accArrival _ => 0
  | .foldArrival _ => 0
  | .recvred g look two d a b => (if two then 2 ^ 30 else 0) + wordL 47 d.val a.val b.val look.val 0 g.code
  | .recvredMessage _ => 0
  | .fence g sc => wordR 48 0 0 0 sc.code g.code
  | .fenceComplete _ => 0
  | .bjoin g a => wordR 49 0 a.val 0 0 g.code
  | .barr g a => wordR 49 0 a.val 0 1 g.code
  | .bwait g a => wordR 49 0 a.val 0 2 g.code
  | .barrw g a => wordR 49 0 a.val 0 3 g.code
  | .bexp g a b => wordR 49 0 a.val b.val 4 g.code
  | .bmiss g d a => wordR 49 d.val a.val 0 5 g.code
  | .barrierArrival _ => 0
  | .byteDelivery _ _ _ => 0
  | .bwaitReturn _ => 0
  | .send g a b => wordR 50 0 a.val b.val 0 g.code
  | .sendl g a b => wordR 50 0 a.val b.val 1 g.code
  | .recv g d a => wordR 50 d.val a.val 0 2 g.code
  | .recvTake _ => 0
  | .rpeek g d => wordR 50 d.val 0 0 3 g.code
  | .rqset g a b => wordR 50 0 a.val b.val 4 g.code
  | .resume g a b => wordR 50 0 a.val b.val 5 g.code
  | .resumeArrival _ => 0
  | .messageArrival _ => 0
  | .retryTimer _ _ => 0
  | .rget g look d a b => wordL 51 d.val a.val b.val look.val 0 g.code
  | .rsto g look d a b => wordL 51 d.val a.val b.val look.val 1 g.code
  | .rgetDw g look d a b _ => 2 ^ 30 + wordL 51 d.val a.val b.val look.val 0 g.code
  | .rstoDw g look d a b _ => 2 ^ 30 + wordL 51 d.val a.val b.val look.val 1 g.code
  | .remoteRequestArrival _ => 0
  | .remoteReply _ => 0
  | .refusalReturn _ => 0
  | .flitReceive _ _ _ => 0
  | .replayRequest _ _ => 0
  | .linkDown _ => 0
  | .qpush g a b => wordR 52 0 a.val b.val 0 g.code
  | .qpop g d a => wordR 52 d.val a.val 0 1 g.code
  | .queueRefill _ _ => 0
  | .wqringWrite g n a => wordI 61 0 a.val (60 + n.val) g.code
  | .exit g a => wordR 54 0 a.val 0 0 g.code
  | .exitDrainDone _ => 0
  | .windowDepart _ => 0
  | .detach g => wordR 54 0 0 0 1 g.code
  | .detachStep _ => 0
  | .teamid g d => wordR 54 d.val 0 0 2 g.code
  | .yield g => wordR 54 0 0 0 3 g.code
  | .wld g look d a b => wordL 55 d.val a.val b.val look.val 0 g.code
  | .wst g look d a b => wordL 55 d.val a.val b.val look.val 1 g.code
  | .wldDw g look d a b _ => 2 ^ 30 + wordL 55 d.val a.val b.val look.val 0 g.code
  | .wstDw g look d a b _ => 2 ^ 30 + wordL 55 d.val a.val b.val look.val 1 g.code
  | .hseed g a b => wordR 56 0 a.val b.val 0 g.code
  | .hseedEntryRead _ => 0
  | .gain g a b => wordR 56 0 a.val b.val 1 g.code
  | .gainApply _ => 0
  | .done g a => wordR 56 0 a.val 0 2 g.code
  | .doneApply _ => 0
  | .resid g d => wordR 56 d.val 0 0 3 g.code
  | .hpeek g d => wordR 56 d.val 0 0 4 g.code
  | .hcount g d => wordR 56 d.val 0 0 5 g.code
  | .take g look two d a b => (if two then 2 ^ 30 else 0) + wordL 57 d.val a.val b.val look.val 0 g.code
  | .takeWake _ => 0
  | .heapMaxRefresh _ => 0
  | .heapSteal _ => 0
  | .lexld g a b => wordR 58 0 a.val b.val 0 g.code
  | .mldb g a b => wordR 58 0 a.val b.val 1 g.code
  | .macc g a b => wordR 58 0 a.val b.val 2 g.code
  | .mrd g d a => wordR 58 d.val a.val 0 3 g.code
  | .infl g a b => wordR 58 0 a.val b.val 4 g.code
  | .mwait g a => wordR 58 0 a.val 0 5 g.code
  | .mwaitSatisfied _ => 0
  | .mma g look d a b => wordL 59 d.val a.val b.val look.val 0 g.code
  | .mgath g look d a b => wordL 59 d.val a.val b.val look.val 1 g.code
  | .affixI t f x => wordA t.val f.val 0 x.toNat
  | .affixK t f x => wordA t.val f.val 1 x.toNat
  | .affixS t f x => wordA t.val f.val 2 x.toNat
  | .matrixEntryStart _ _ => 0
  | .matrixEntryComplete _ _ => 0
  | .matrixEntryFault _ _ _ => 0
  | .mfs g d r => wordI 60 d.val 0 r.toNat g.code
  | .mts g a r => wordI 61 0 a.val r.toNat g.code
  | .pubSlotWrite g n a => wordI 61 0 a.val (28 + n.val) g.code
  | .accrWrite g a => wordI 61 0 a.val 12 g.code
  | .icinvWrite g a => wordI 61 0 a.val 69 g.code
  | .asgpartWrite g a => wordI 61 0 a.val 84 g.code
  | .haltselRun _ _ => 0
  | .trap g b => wordR 62 0 0 b.val 0 g.code
  | .rett g => wordR 62 0 0 0 1 g.code
  | .halt g => wordR 62 0 0 0 2 g.code
  | .haltRecords _ _ _ => 0
  | .ctxsvStop g a => wordR 62 0 a.val 0 3 g.code
  | .ctxsvSave _ => 0
  | .ctxsvDiscard _ => 0
  | .ctxldLoad g a => wordR 62 0 a.val 0 4 g.code
  | .ctxldStart _ => 0
  | .ctxldLoadStart _ => 0
  | .brk g => wordR 62 0 0 0 5 g.code
  | .timens g d => wordR 62 d.val 0 0 6 g.code
  | .sleep g a => wordR 62 0 a.val 0 7 g.code
  | .sleepm g a => wordR 62 0 a.val 0 8 g.code
  | .sleepWake _ => 0
  | .perf g d a => wordR 62 d.val a.val 0 9 g.code
  | .trace g a => wordR 62 0 a.val 0 10 g.code
  | .trapEntry _ => 0
  | .watchdogExpiry _ => 0
  | .hqtailWrite _ _ _ => 0
  | .launchAdmission _ _ => 0
  | .launchForward _ _ => 0
  | .waitCounterPoll _ _ => 0
  | .teamStart _ => 0
  | .launchComplete _ => 0
  | .powerGood _ => 0
  | .clocksStarted _ => 0
  | .romImageVerify _ => 0
  | .trainComplete _ _ => 0
  | .mreset _ => 0
  | .haltreq _ => 0
  | .mgmtRegisterWrite _ _ _ _ _ => 0
  | .mgmtControlPacket _ _ _ _ _ _ => 0
  | .hostBar2Access _ _ _ _ => 0
  | .ident _ => 0
  | .attest _ => 0
  | .fwload _ => 0
  | .fwcommit _ => 0
  | .timesetWrite _ _ => 0
  | .ptpFrame _ _ => 0
  | .lockLoss _ => 0
  | .droopDetect _ => 0
  | .droopRecover _ _ _ => 0
  | .powerWindow _ _ => 0
  | .thermalThrottle _ _ => 0
  | .thermalTrip _ _ => 0
  | .reservedEncoding => 0
  | .powerLoss _ => 0
  | .mailboxBadOperation _ => 0
  | .pcieLinkTraining _ _ _ => 0

/-- The second word of a double-word form (R32); 0 where there is none. -/
def Instr.word1 (i : Instr) : Nat :=
  match i with
  | .add _ _ _ _ => 0
  | .sub _ _ _ _ => 0
  | .and _ _ _ _ => 0
  | .or _ _ _ _ => 0
  | .xor _ _ _ _ => 0
  | .andn _ _ _ _ => 0
  | .shl _ _ _ _ => 0
  | .shr _ _ _ _ => 0
  | .sar _ _ _ _ => 0
  | .rol _ _ _ _ => 0
  | .mul _ _ _ _ => 0
  | .mulh _ _ _ _ => 0
  | .mulhz _ _ _ _ => 0
  | .div _ _ _ _ => 0
  | .divz _ _ _ _ => 0
  | .rem _ _ _ _ => 0
  | .remz _ _ _ _ => 0
  | .min _ _ _ _ => 0
  | .max _ _ _ _ => 0
  | .minz _ _ _ _ => 0
  | .maxz _ _ _ _ => 0
  | .clz _ _ _ => 0
  | .ctz _ _ _ => 0
  | .popc _ _ _ => 0
  | .sextB _ _ _ => 0
  | .sextH _ _ _ => 0
  | .sextW _ _ _ => 0
  | .zextB _ _ _ => 0
  | .zextH _ _ _ => 0
  | .zextW _ _ _ => 0
  | .bext _ _ _ _ => 0
  | .bins _ _ _ _ => 0
  | .bextDw _ _ _ pos wid => pos.val + 256 * wid.val
  | .binsDw _ _ _ pos wid => pos.val + 256 * wid.val
  | .addi _ _ _ _ => 0
  | .andi _ _ _ _ => 0
  | .ori _ _ _ _ => 0
  | .xori _ _ _ _ => 0
  | .addiDw _ _ _ imm => imm.toNat
  | .andiDw _ _ _ imm => imm.toNat
  | .oriDw _ _ _ imm => imm.toNat
  | .xoriDw _ _ _ imm => imm.toNat
  | .shli _ _ _ _ => 0
  | .shri _ _ _ _ => 0
  | .sari _ _ _ _ => 0
  | .limm _ _ _ => 0
  | .limmh _ _ _ => 0
  | .addpc _ _ _ => 0
  | .limmDw _ _ imm => imm.toNat
  | .limmhDw _ _ imm => imm.toNat
  | .addpcDw _ _ imm => imm.toNat
  | .cmpCc _ _ _ _ _ => 0
  | .cmpiCcLow _ _ _ _ _ => 0
  | .cmpiCcHigh _ _ _ _ _ => 0
  | .cmpiDw _ _ _ _ imm => imm.toNat
  | .pand _ _ _ _ => 0
  | .por _ _ _ _ => 0
  | .pxor _ _ _ _ => 0
  | .pnot _ _ _ => 0
  | .pmov _ _ _ => 0
  | .br _ _ => 0
  | .call _ _ => 0
  | .jr _ _ => 0
  | .ret _ => 0
  | .rot _ => 0
  | .stage _ _ => 0
  | .nop _ => 0
  | .hint _ _ => 0
  | .loop _ _ _ _ => 0
  | .loopP _ _ _ _ => 0
  | .loopDw _ _ _ _ trips => trips.toNat
  | .ldb _ _ _ _ => 0
  | .ldh _ _ _ _ => 0
  | .ldw _ _ _ _ => 0
  | .ldd _ _ _ _ => 0
  | .ldbz _ _ _ _ => 0
  | .ldhz _ _ _ _ => 0
  | .ldwz _ _ _ _ => 0
  | .stb _ _ _ _ => 0
  | .sth _ _ _ _ => 0
  | .stw _ _ _ _ => 0
  | .std _ _ _ _ => 0
  | .ldbDw _ _ _ disp => disp.toNat
  | .ldhDw _ _ _ disp => disp.toNat
  | .ldwDw _ _ _ disp => disp.toNat
  | .lddDw _ _ _ disp => disp.toNat
  | .ldbzDw _ _ _ disp => disp.toNat
  | .ldhzDw _ _ _ disp => disp.toNat
  | .ldwzDw _ _ _ disp => disp.toNat
  | .stbDw _ _ _ disp => disp.toNat
  | .sthDw _ _ _ disp => disp.toNat
  | .stwDw _ _ _ disp => disp.toNat
  | .stdDw _ _ _ disp => disp.toNat
  | .vld _ _ _ _ => 0
  | .vst _ _ _ _ => 0
  | .vldDw _ _ _ disp => disp.toNat
  | .vstDw _ _ _ disp => disp.toNat
  | .vlds _ _ _ _ => 0
  | .vsts _ _ _ _ => 0
  | .vgathl _ _ _ _ => 0
  | .vscatl _ _ _ _ => 0
  | .cclean _ _ => 0
  | .cinv _ _ => 0
  | .tlbinv _ _ _ => 0
  | .tlbinvComplete _ => 0
  | .dclset _ _ => 0
  | .sylset _ _ _ => 0
  | .vldd _ _ _ _ => 0
  | .vldp _ _ _ _ => 0
  | .vlddDw _ _ _ disp => disp.toNat
  | .vldpDw _ _ _ disp => disp.toNat
  | .vadd _ _ _ _ => 0
  | .vsub _ _ _ _ => 0
  | .vmul _ _ _ _ => 0
  | .vmin _ _ _ _ => 0
  | .vmax _ _ _ _ => 0
  | .vabs _ _ _ => 0
  | .vneg _ _ _ => 0
  | .vand _ _ _ _ => 0
  | .vor _ _ _ _ => 0
  | .vxor _ _ _ _ => 0
  | .vshl _ _ _ _ => 0
  | .vshr _ _ _ _ => 0
  | .vsar _ _ _ _ => 0
  | .vaddS _ _ _ _ => 0
  | .vsubS _ _ _ _ => 0
  | .vsel _ _ _ _ _ => 0
  | .vfma _ _ _ _ => 0
  | .vfms _ _ _ _ => 0
  | .vnfma _ _ _ _ => 0
  | .vdot _ _ _ _ => 0
  | .vdotf _ _ _ _ => 0
  | .vcmpCc _ _ _ _ _ => 0
  | .vredAdd _ _ _ => 0
  | .vredMin _ _ _ => 0
  | .vredMax _ _ _ => 0
  | .vscanAdd _ _ _ => 0
  | .vscanMin _ _ _ => 0
  | .vscanMax _ _ _ => 0
  | .vperm _ _ _ _ => 0
  | .vbcast _ _ _ => 0
  | .vext _ _ _ _ => 0
  | .vins _ _ _ _ => 0
  | .vrcp _ _ _ => 0
  | .vrsq _ _ _ => 0
  | .vexp2 _ _ _ => 0
  | .vlog2 _ _ _ => 0
  | .vtanh _ _ _ => 0
  | .vsigm _ _ _ => 0
  | .vlong _ => 0
  | .vshort _ => 0
  | .cvtRne _ _ _ _ => 0
  | .cvtRtz _ _ _ _ => 0
  | .cvtRup _ _ _ _ => 0
  | .cvtRdn _ _ _ _ => 0
  | .cvtSat _ _ _ _ => 0
  | .qn4 _ _ _ _ => 0
  | .dqn4 _ _ _ _ => 0
  | .qscale _ _ _ _ => 0
  | .tagset _ _ _ => 0
  | .tagget _ _ _ => 0
  | .fclass _ _ _ => 0
  | .draw _ _ _ _ _ => 0
  | .stow _ _ _ _ _ => 0
  | .draws _ _ _ _ _ => 0
  | .stows _ _ _ _ _ => 0
  | .drawDw _ _ _ _ _ ext => ext.toNat
  | .stowDw _ _ _ _ _ ext => ext.toNat
  | .drawsDw _ _ _ _ _ ext => ext.toNat
  | .stowsDw _ _ _ _ _ ext => ext.toNat
  | .dzero _ _ _ _ => 0
  | .dcopy _ _ _ _ _ => 0
  | .dzeroDw _ _ _ _ ext => ext.toNat
  | .dcopyDw _ _ _ _ _ ext => ext.toNat
  | .chain _ _ _ => 0
  | .kick _ _ => 0
  | .cwait _ _ _ => 0
  | .cwaitSatisfied _ => 0
  | .cpost _ _ _ => 0
  | .wpwait _ _ _ => 0
  | .wpwaitSatisfied _ => 0
  | .publish _ _ _ => 0
  | .publishToggle _ => 0
  | .channelEntryStart _ _ => 0
  | .chainEntryStep _ _ => 0
  | .operationPacket _ _ => 0
  | .dramRequestAccept _ _ => 0
  | .ownershipDecision _ _ => 0
  | .clusterCacheEviction _ _ => 0
  | .entryComplete _ _ => 0
  | .remoteBumpArrival _ => 0
  | .channelFault _ _ _ _ _ => 0
  | .chstFaultResume _ _ => 0
  | .chstAbort _ _ => 0
  | .rowCommandPiece _ _ => 0
  | .landingPacket _ _ => 0
  | .pageWalkRead _ => 0
  | .hotPageEpoch _ => 0
  | .poolScrub _ _ => 0
  | .fetchMissFill _ _ => 0
  | .tblset _ _ _ => 0
  | .tblsetComplete _ => 0
  | .idhash _ _ _ _ => 0
  | .rowwait _ _ => 0
  | .rowwaitSatisfied _ => 0
  | .rowacc _ _ _ => 0
  | .rowset _ _ _ => 0
  | .elide _ _ _ _ _ _ => 0
  | .elidem _ _ _ _ _ _ => 0
  | .elisionComplete _ => 0
  | .rowget _ _ _ _ _ => 0
  | .rowgetw _ _ _ _ _ => 0
  | .rowgetDw _ _ _ _ _ ext => ext.toNat
  | .rowgetwDw _ _ _ _ _ ext => ext.toNat
  | .segred _ _ _ _ _ => 0
  | .segscat _ _ _ _ _ => 0
  | .segredDw _ _ _ _ _ ext => ext.toNat
  | .segscatDw _ _ _ _ _ ext => ext.toNat
  | .lookupOpStart _ => 0
  | .rowRequestMerge _ _ _ _ => 0
  | .rowRequestServe _ _ => 0
  | .rowRead _ _ => 0
  | .rowAccumulate _ _ => 0
  | .rowStore _ _ => 0
  | .rowReplyLand _ _ => 0
  | .lookupOpComplete _ => 0
  | .lookupOpFault _ _ _ _ => 0
  | .amoAddW _ _ _ _ _ => 0
  | .amoAddD _ _ _ _ _ => 0
  | .amoAddDw _ _ _ _ _ _ => 0
  | .amoAnd _ _ _ _ _ _ => 1
  | .amoOr _ _ _ _ _ _ => 2
  | .amoXor _ _ _ _ _ _ => 3
  | .amoMin _ _ _ _ _ _ => 4
  | .amoMax _ _ _ _ _ _ => 5
  | .amoMinz _ _ _ _ _ _ => 6
  | .amoMaxz _ _ _ _ _ _ => 7
  | .amoSwap _ _ _ _ _ _ => 8
  | .casW _ _ _ _ _ _ => 0
  | .casD _ _ _ _ _ _ => 0
  | .atomicExecute _ => 0
  | .amoCombine _ _ => 0
  | .atomicFaultReply _ => 0
  | .accF32 _ _ _ => 0
  | .accBf16 _ _ _ => 0
  | .accF64 _ _ _ => 0
  | .fold _ _ => 0
  | .accArrival _ => 0
  | .foldArrival _ => 0
  | .recvred _ _ _ _ _ _ => 0
  | .recvredMessage _ => 0
  | .fence _ _ => 0
  | .fenceComplete _ => 0
  | .bjoin _ _ => 0
  | .barr _ _ => 0
  | .bwait _ _ => 0
  | .barrw _ _ => 0
  | .bexp _ _ _ => 0
  | .bmiss _ _ _ => 0
  | .barrierArrival _ => 0
  | .byteDelivery _ _ _ => 0
  | .bwaitReturn _ => 0
  | .send _ _ _ => 0
  | .sendl _ _ _ => 0
  | .recv _ _ _ => 0
  | .recvTake _ => 0
  | .rpeek _ _ => 0
  | .rqset _ _ _ => 0
  | .resume _ _ _ => 0
  | .resumeArrival _ => 0
  | .messageArrival _ => 0
  | .retryTimer _ _ => 0
  | .rget _ _ _ _ _ => 0
  | .rsto _ _ _ _ _ => 0
  | .rgetDw _ _ _ _ _ ext => ext.toNat
  | .rstoDw _ _ _ _ _ ext => ext.toNat
  | .remoteRequestArrival _ => 0
  | .remoteReply _ => 0
  | .refusalReturn _ => 0
  | .flitReceive _ _ _ => 0
  | .replayRequest _ _ => 0
  | .linkDown _ => 0
  | .qpush _ _ _ => 0
  | .qpop _ _ _ => 0
  | .queueRefill _ _ => 0
  | .wqringWrite _ _ _ => 0
  | .exit _ _ => 0
  | .exitDrainDone _ => 0
  | .windowDepart _ => 0
  | .detach _ => 0
  | .detachStep _ => 0
  | .teamid _ _ => 0
  | .yield _ => 0
  | .wld _ _ _ _ _ => 0
  | .wst _ _ _ _ _ => 0
  | .wldDw _ _ _ _ _ ext => ext.toNat
  | .wstDw _ _ _ _ _ ext => ext.toNat
  | .hseed _ _ _ => 0
  | .hseedEntryRead _ => 0
  | .gain _ _ _ => 0
  | .gainApply _ => 0
  | .done _ _ => 0
  | .doneApply _ => 0
  | .resid _ _ => 0
  | .hpeek _ _ => 0
  | .hcount _ _ => 0
  | .take _ _ _ _ _ _ => 0
  | .takeWake _ => 0
  | .heapMaxRefresh _ => 0
  | .heapSteal _ => 0
  | .lexld _ _ _ => 0
  | .mldb _ _ _ => 0
  | .macc _ _ _ => 0
  | .mrd _ _ _ => 0
  | .infl _ _ _ => 0
  | .mwait _ _ => 0
  | .mwaitSatisfied _ => 0
  | .mma _ _ _ _ _ => 0
  | .mgath _ _ _ _ _ => 0
  | .affixI _ _ _ => 0
  | .affixK _ _ _ => 0
  | .affixS _ _ _ => 0
  | .matrixEntryStart _ _ => 0
  | .matrixEntryComplete _ _ => 0
  | .matrixEntryFault _ _ _ => 0
  | .mfs _ _ _ => 0
  | .mts _ _ _ => 0
  | .pubSlotWrite _ _ _ => 0
  | .accrWrite _ _ => 0
  | .icinvWrite _ _ => 0
  | .asgpartWrite _ _ => 0
  | .haltselRun _ _ => 0
  | .trap _ _ => 0
  | .rett _ => 0
  | .halt _ => 0
  | .haltRecords _ _ _ => 0
  | .ctxsvStop _ _ => 0
  | .ctxsvSave _ => 0
  | .ctxsvDiscard _ => 0
  | .ctxldLoad _ _ => 0
  | .ctxldStart _ => 0
  | .ctxldLoadStart _ => 0
  | .brk _ => 0
  | .timens _ _ => 0
  | .sleep _ _ => 0
  | .sleepm _ _ => 0
  | .sleepWake _ => 0
  | .perf _ _ _ => 0
  | .trace _ _ => 0
  | .trapEntry _ => 0
  | .watchdogExpiry _ => 0
  | .hqtailWrite _ _ _ => 0
  | .launchAdmission _ _ => 0
  | .launchForward _ _ => 0
  | .waitCounterPoll _ _ => 0
  | .teamStart _ => 0
  | .launchComplete _ => 0
  | .powerGood _ => 0
  | .clocksStarted _ => 0
  | .romImageVerify _ => 0
  | .trainComplete _ _ => 0
  | .mreset _ => 0
  | .haltreq _ => 0
  | .mgmtRegisterWrite _ _ _ _ _ => 0
  | .mgmtControlPacket _ _ _ _ _ _ => 0
  | .hostBar2Access _ _ _ _ => 0
  | .ident _ => 0
  | .attest _ => 0
  | .fwload _ => 0
  | .fwcommit _ => 0
  | .timesetWrite _ _ => 0
  | .ptpFrame _ _ => 0
  | .lockLoss _ => 0
  | .droopDetect _ => 0
  | .droopRecover _ _ _ => 0
  | .powerWindow _ _ => 0
  | .thermalThrottle _ _ => 0
  | .thermalTrip _ _ => 0
  | .reservedEncoding => 0
  | .powerLoss _ => 0
  | .mailboxBadOperation _ => 0
  | .pcieLinkTraining _ _ _ => 0

/-- The words of an instruction, first word first; an event row has none. -/
def encode (i : Instr) : List Nat :=
  if i.words = 0 then [] else if i.words = 1 then [i.word0] else [i.word0, i.word1]

/-- A word in memory is little-endian (R2). -/
def wordOfBytes : List (BitVec 8) → Nat
  | [] => 0
  | b :: t => b.toNat + 256 * wordOfBytes t

/-- `n` bytes of a number, lowest first (R2). -/
def bytesOfNat : Nat → Nat → List (BitVec 8)
  | 0, _ => []
  | n + 1, v => BitVec.ofNat 8 v :: bytesOfNat n (v / 256)

/-- The instruction at the head of a list of bytes and the bytes that follow it.  A missing byte counts as zero. -/
def decodeBytes (bs : List (BitVec 8)) : Except DecodeError (Instr × List (BitVec 8)) :=
  match decode (wordOfBytes (bs.take 4)) (wordOfBytes ((bs.drop 4).take 4)) with
  | .ok i => .ok (i, bs.drop (4 * i.words))
  | .error e => .error e

/-- The bytes of an instruction as memory holds them. -/
def encodeBytes (i : Instr) : List (BitVec 8) := (encode i).flatMap (bytesOfNat 4)

/-- The instruction the decoder reads from `nbits` bits numbered as the opcode table numbers them: bit 0 is the least
significant bit of the first word.  The bits above `nbits` are zero. -/
def decodeTableWord (nbits w : Nat) : Option Instr :=
  match decodeBytes (bytesOfNat 8 (w % 2 ^ nbits)) with
  | .ok (i, _) => some i
  | .error _ => none

end

end Sys2Proof
end

