-- ==== Sys2Proof/Machine/Fetch.lean ====
section
/-!
DEFINITION. Sys2Proof/Machine/Fetch.lean: fetching the words of an instruction or a bundle (R28, R38, R40, R54–R56, R333).
-/
namespace Sys2Proof.Machine

/-- What a fetch comes to. -/
inductive Fetched where
  | word (w : Nat)
  | walk (x : Miss)
  /-- The line is on its way from DRAM (R55). -/
  | fill (quad : Nat) (ask : FetchAsk)
  | trap (t : TrapInfo)
  /-- A trap at an error response of a unit of module `m`, about the address `pa` (R174, R244). -/
  | error (m pa : Nat) (t : TrapInfo)
  deriving DecidableEq, Repr

/-- The bytes of a line's word for a fetch: four of them as they lie; on a tolerant page the element whose `BF16` lies there,
widened (R92, R93; log 7). -/
def fetchedWord (p : Place) (pa : Nat) (line : BitVec 512) : Nat :=
  if pteTOL p.pte then line.toNat / 2 ^ (8 * (pa % 64)) % 2 ^ 16 * 2 ^ 16 else line.toNat / 2 ^ (8 * (pa % 64)) % 2 ^ 32

/-- The word at a virtual address: a translation as a fetch, then the quad's instruction cache; a line with a parity error is
fetched again (R54, R55). -/
def State.fetchWord (s : State) (tid va : Nat) : Fetched :=
  let c := coreOfThread tid
  let x : Miss := { req := reqFetch tid, core := c, part := s.partOfThread tid, va, sup := (s.thread tid).sup, own := true }
  let addr := Word.of va
  if 2 ^ 57 ≤ va then .trap { cause := .pageFault, sub := 1, addr }
  else
    match s.translate x (s.thread tid).sup .fetch with
    | .miss => .walk x
    | .fault cause sub => .trap { cause, sub, addr }
    | .ok p =>
      let pa := p.pa
      if !memoryAt pa then .error p.m pa { cause := .memsideError, sub := 1, addr }
      else
        match (s.quad (quadOfCore c)).icache.find? (fun l => l.line == pa / 64 && !l.parity) with
        | none => .fill (quadOfCore c) { line := pa / 64, ms := pteUncached p.pte, w := pteW p.pte, pin := ptePIN p.pte }
        | some l =>
          if l.bad then .trap { cause := .eccUncorr, addr }
          else .word (fetchedWord p pa l.data)

/-- The words to be issued, or why there are none yet. -/
inductive Ready where
  /-- The words: one or two of an instruction, or the four of a bundle. -/
  | words (ws : List Nat)
  | wait (f : Fetched)
  deriving DecidableEq, Repr

/-- `n` words from an address. -/
def State.fetchWords (s : State) (tid : Nat) : Nat → Nat → Ready
  | 0, _ => .words []
  | n + 1, va =>
    match s.fetchWord tid va with
    | .word w =>
      match s.fetchWords tid n (va + 4) with
      | .words ws => .words (w :: ws)
      | r => r
    | f => .wait f

/-- The word takes a second one with it (R27, R32). -/
noncomputable def takesSecond (w : Nat) : Bool := fFrame w == 1 && (decodeRaw w 0).isSome

/-- The pc is fit to be fetched from: canonical first, then aligned (R28, R333). -/
def State.pcTrap (s : State) (tid : Nat) : Option TrapInfo :=
  let pc := (s.thread tid).pc
  if field pc 57 7 ≠ 0 then some { cause := .pageFault, sub := 1, addr := pc }
  else if pc.toNat % (if kindOfCore (coreOfThread tid) = .dcc then 16 else 4) ≠ 0 then some { cause := .misalign, addr := pc }
  else none

/-- What the thread is to issue. -/
noncomputable def State.fetch (s : State) (tid : Nat) : Ready :=
  let pc := (s.thread tid).pc.toNat
  match s.pcTrap tid with
  | some t => .wait (.trap t)
  | none =>
    if kindOfCore (coreOfThread tid) = .dcc then s.fetchWords tid 4 pc
    else
      match s.fetchWord tid pc with
      | .word w => if takesSecond w then s.fetchWords tid 2 pc else .words [w]
      | f => .wait f

/-- A fetch that brings no word: a walk or a line is asked for once, or the thread traps. -/
def State.fetchMiss (s : State) (tid : Nat) (f : Fetched) : State :=
  match f with
  | .word _ => s
  | .walk x => s.startWalk x
  | .fill q a => s.askFetch q a
  | .trap t => (s.dropWalks (reqFetch tid)).raise tid t 1
  | .error m pa t =>
    (((s.memsideRecord m pa pa t.sub 0 (coreOfThread tid)).dropWalks (reqFetch tid))).raise tid t 1

/-- The instruction that a word stands for; a word that stands for none traps (R38). -/
noncomputable def instrOf (w x : Nat) : Instr :=
  match decode w x with
  | .ok i => i
  | .error _ => .reservedEncoding

/-- The slots of a bundle with their instructions: a double-word instruction takes slots 0 and 1 (R40). -/
noncomputable def slotsOf (ws : List Nat) : List (Nat × Instr) :=
  match ws with
  | [a, b, c, d] =>
    if takesSecond a then [(0, instrOf a b), (2, instrOf c 0), (3, instrOf d 0)]
    else [(0, instrOf a 0), (1, instrOf b 0), (2, instrOf c 0), (3, instrOf d 0)]
  | _ => []

/-! ## Placing a program -/

/-- A translation of a page onto the physical page of the same number, for a partition of a core's module. -/
def State.mapPage (s : State) (c : Nat) (part : Option Nat) (page : Nat) : State :=
  s.fillTlb (quadOfCore c)
    { asid := (s.partition (moduleOfCore c) part).asid, base := page, size := 12
      pte := Word.of (page % 2 ^ 29 * 2 ^ 12 + 0x2F), leaf := 0 }

/-- The line of a physical address enters the instruction cache of a core's quad. -/
def State.cacheCode (s : State) (c pa : Nat) : State :=
  s.fillFetch (quadOfCore c) { line := pa / 64, data := BitVec.ofNat 512 (s.dramNat (moduleOfCore c) (pa / 64 * 64) 64) }

/-- Code at a virtual address of a thread, in DRAM, translated, and in the instruction cache. -/
def State.placeCode (s : State) (tid va : Nat) (bs : List Byte) : State :=
  let c := coreOfThread tid
  let part := s.partOfThread tid
  let pa := va % 2 ^ 41
  let last := va + bs.length - 1
  let s := (s.mapPage c part (last / 4096)).mapPage c part (va / 4096)
  let s := s.setDramBytes (moduleOfCore c) pa bs
  (s.cacheCode c (last % 2 ^ 41)).cacheCode c pa

end Sys2Proof.Machine
end

