-- ==== Sys2Proof/Machine/Turn.lean ====
section
/-!
DEFINITION. Sys2Proof/Machine/Turn.lean: what one step does: whose turn it is, the instruction boundary, a bundle's
commitment, and the passing of time (R41, R42, R57–R59, R329, R331; logs 3 and 6).
-/
namespace Sys2Proof.Machine

/-! ## Bundles (R41, R42) -/

/-- How the evaluation of a bundle ends. -/
inductive BundleEnd where
  /-- Every slot has had its effect. -/
  | commit (s : State)
  /-- A slot traps. -/
  | trap (t : TrapInfo)
  /-- A slot cannot issue yet; it may be for want of a register that is outstanding. -/
  | retry (m : Option Miss) (stall : Bool)
  /-- The slot waits. -/
  | wait (i : Instr) (b : Bundle)
  | stop (o : Host.Outcome State Fault Refusal)

/-- Evaluates the slots in order over the registers `old`.  The first slot that traps or cannot issue decides; otherwise the
first that waits. -/
noncomputable def State.runSlots (s : State) (old : Thread) : List (Nat × Instr) → Option (Instr × Bundle) → BundleEnd
  | [], none => .commit s
  | [], some (i, b) => .wait i b
  | (n, i) :: rest, w =>
    match s.bundle with
    | none => .commit s
    | some b =>
      let b := { b with slot := n, old }
      match exec i { s with bundle := some b } with
      | .next s' =>
        match s'.bundle with
        | none => .commit s'
        | some b' =>
          match b'.trap, b'.retry with
          | some t, _ => .trap t
          | none, some m => .retry m b'.stall
          | none, none => s'.runSlots old rest (if w.isNone && b'.wait.isSome then some (i, b) else w)
      | o => .stop o

/-- A bundle whose slots have all had their effect goes on, or its thread ends (R42, R73, R296). -/
def State.commitBundle (s : State) : State :=
  match s.bundle with
  | none => s
  | some b =>
    let s := { s with bundle := none }
    let seq := b.old.pc + 16
    let s := match b.leaves, b.jump with
      | true, some (pc, _) => s.leave pc
      | _, _ => s
    if b.ends then ((s.leaveObjects s.cur).endThread s.cur).retireAt seq seq true b.looks
    else match b.jump with
      | none => s.retireAt seq seq true b.looks
      | some (pc, turns) => s.retireAt seq pc turns b.looks

/-- The registers that the slots of a bundle read: of one that issues again after a `RECVRED`, whose register has counted
messages meanwhile, as they stood when it issued first (R41, R242). -/
def Thread.beforeBundle (t : Thread) : Thread :=
  match t.granted, t.wait with
  | true, some (.recvred d _ _ _ _ _ old) => { t with g := t.g.set d.val old d.isLt }
  | _, _ => t

/-- The bundle of the current thread. -/
noncomputable def State.runBundle (s : State) (slots : List (Nat × Instr)) : Host.Outcome State Fault Refusal :=
  let old := s.th.beforeBundle
  match { s with bundle := some { slot := 0, old } }.runSlots old slots none with
  | .commit s' => .next s'.commitBundle
  | .retry m stall => .next (match m with
      | some x => s.startWalk x
      | none => if stall then s.lostCycle else s)
  | .stop o => o
  | .trap t => .next (s.raise s.cur t 1)
  | .wait i b =>
    match exec i { s with bundle := some b } with
    | .next s' =>
      match s'.bundle.bind (fun b => b.wait) with
      | some (_, w) => .next ({ s' with bundle := none }.blockOn w 1 [])
      | none => .next s
    | o => o

/-! ## A thread's turn -/

/-- The thread that `cur` names issues the words at its pc. -/
noncomputable def State.issueWords (s : State) (ws : List Nat) : Host.Outcome State Fault Refusal :=
  if s.kind = .dcc then s.runBundle (slotsOf ws) else exec (instrOf (ws.headD 0) (ws.tail.headD 0)) s

/-- The event that may end a wait. -/
def waitEvent (tid : Nat) (w : Wait) : Option Instr :=
  match w with
  | .trap _ => some (.trapEntry tid)
  | .counter .. => some (.cwaitSatisfied tid)
  | .writePointer .. => some (.wpwaitSatisfied tid)
  | .publish .. => some (.publishToggle tid)
  | .tblset .. => some (.tblsetComplete tid)
  | .rows _ => some (.rowwaitSatisfied tid)
  | .recvred .. => some (.recvredMessage tid)
  | .fence _ => some (.fenceComplete tid)
  | .barrier _ true .. => some (.barrierArrival tid)
  | .barrier _ false .. => some (.bwaitReturn tid)
  | .recv .. => some (.recvTake tid)
  | .exit .. => some (.exitDrainDone tid)
  | .detach => some (.detachStep tid)
  | .hseed .. => some (.hseedEntryRead tid)
  | .done .. => some (.doneApply tid)
  | .take _ _ _ _ none => some (.takeWake tid)
  | .take _ _ _ _ (some _) => some (.heapSteal tid)
  | .entries _ => some (.mwaitSatisfied tid)
  | .context 1 _ => some (.ctxsvSave tid)
  | .context 2 _ => some (.ctxsvDiscard tid)
  | .context 4 _ => some (.ctxldStart tid)
  | .context 5 _ => some (.ctxldLoadStart tid)
  | .context _ _ => none
  | .sleep .. => some (.sleepWake tid)
  | .tlbinv _ => some (.tlbinvComplete tid)
  | .qpop _ n _ => some (.queueRefill (quadOfCore (coreOfThread tid)) n)

/-- The asynchronous cause that the thread takes at this boundary: none while a handler runs, nor in a wait that runs on to
its end, nor where a wait is over whose bundle has yet to have its effect (R331, R37, R315). -/
def State.dueCause (s : State) (tid : Nat) : Option (TrapInfo × List TrapInfo) :=
  let th := s.thread tid
  if th.hnd || th.granted || (th.status == .waiting && th.wait.any Wait.uninterruptible) then none else takeCause th.pending

/-- A thread's turn: a pending cause first, then its wait, else the instruction at its pc. -/
noncomputable def State.turnOf (s : State) (tid : Nat) : Host.Outcome State Fault Refusal :=
  let th := s.thread tid
  let s : State := { s with cur := tid, bundle := none }
  match s.dueCause tid with
  | some (t, rest) =>
    if th.status = .running ∨ th.status = .waiting then
      .next ((s.setThread tid { th.interrupt with pending := rest }).raise tid t 1)
    else .next s
  | none =>
    match th.status, th.wait with
    | .running, _ =>
      match s.fetch tid with
      | .words ws => s.issueWords ws
      | .wait f => .next (s.fetchMiss tid f)
    | .waiting, some w =>
      if s.overdue tid then exec (.watchdogExpiry tid) s
      else match w, waitEvent tid w with
        | _, some e => exec e s
        | .context op _, none => .next (s.contextGo tid op)
        | _, none => .next s
    | _, _ => .next s

/-! ## Whose turn it is -/

/-- The thread may act: it issues or waits. -/
def Thread.active (t : Thread) : Bool := t.status == .running || t.status == .waiting

/-- The thread after `cur`, in rotation, that may act (R59). -/
def State.nextThread (s : State) : Option Nat :=
  let act := (s.threads.filter (fun (_, t) => t.active)).map (fun (i, _) => i)
  match act.find? (fun i => decide (s.cur < i)) with
  | some i => some i
  | none => act.head?

/-- The event at a place of the agenda takes place. -/
noncomputable def State.eventAt (s : State) (k : Nat) : Host.Outcome State Fault Refusal :=
  match s.agenda[k]? with
  | some e => exec e { s with agenda := s.agenda.eraseIdx k }
  | none => .next s

/-- Where nothing is chosen, events and threads take turns, and threads rotate. -/
noncomputable def State.defaultTurn (s : State) : Host.Outcome State Fault Refusal :=
  match s.nextThread with
  | none => s.eventAt 0
  | some tid => if s.tick % 2 = 1 ∧ s.agenda.isEmpty = false then s.eventAt 0 else s.turnOf tid

/-- A started entry of a channel that has bytes left is the one whose bytes move next (R154). -/
def State.pickEntry (s : State) (core : Nat) (ch : Fin 4) (k : Nat) : State :=
  if ((s.core core).chans[ch].queue[k]?).any Entry.moves then s.modChan core ch (fun h => { h with pick := k }) else s

/-- A choice is obeyed. -/
noncomputable def State.obey (s : State) (c : Choice) : Host.Outcome State Fault Refusal :=
  match c with
  | .event k => s.eventAt k
  | .issue tid => s.turnOf tid
  | .drain tid => .next (s.drainOne tid)
  | .entry core ch k => .next (s.pickEntry core (chOf ch) k)
  | .hold on => .next { s with holdStores := on }
  | .grain k => .next { s with grain := 64 / 2 ^ (k % 4) }
  | .home m part base len h =>
    let k := s.partition m (some part)
    .next (s.setPartition m (some part) { k with remote := (base, len, h) :: k.remote })

/-! ## Time -/

/-- A module's nominal clock and its time counter, which no droop reaches, go on by `ps` picoseconds (R6, R22, R389;
log 6). -/
def Module.pass (k : Module) (ps : Nat) : Module :=
  { k with cycles := k.cycles + 1, timePs := (k.timePs + ps) % 1000 }.advance ((k.timePs + ps) / 1000)

/-- A die in a droop has a cycle each time it has run for as long as a lengthened one lasts (R389). -/
def Die.ticks (k : Die) (dt stretch : Nat) : Bool := !k.droop || decide (dt + stretch ≤ k.slip + dt)

/-- A die's clock goes on by `dt` picoseconds; a cycle that a droop has yet to let pass leaves it behind (R6, R389). -/
def Die.pass (k : Die) (dt stretch : Nat) : Die :=
  if !k.droop then k
  else if k.ticks dt stretch then
    { k with slip := k.slip - stretch, stretched := k.stretched + 1, episode := k.episode + dt }
  else { k with slip := k.slip + dt, late := k.late + 1, episode := k.episode + dt }

/-- A thread is asleep (R342). -/
def Thread.asleep (t : Thread) : Bool :=
  t.status == .waiting && (match t.wait with
    | some (.sleep ..) => true
    | _ => false)

/-- The cycle of a core that its counters count: as its own, as a lengthened one, and for its sleeping threads (R345). -/
def State.countCycle (s : State) (c : Nat) : State :=
  let s := s.count c 1 none 1
  let s := if (s.die (dieOfCore c)).droop then s.count c 2 none 1 else s
  ((List.range 8).filter (fun i => (s.thread (8 * c + i)).asleep)).foldl (fun s i => s.count c 14 (some i) 1) s

/-- A cycle passes; a lock lost for too long is reported (R388). -/
def State.pass (s : State) : State :=
  let on := (s.cores.filter (fun e => e.2.psel.toList.any (fun w => bit w 31)
    && (s.die (dieOfCore e.1)).ticks s.dt s.stretch)).map (fun e => e.1)
  let s : State := { s with
    tick := s.tick + 1
    modules := s.modules.map (fun e => (e.1, Module.pass e.2 s.dt))
    dies := s.dies.map (fun e => (e.1, e.2.pass s.dt s.stretch)) }
  let s := on.foldl (fun s c => s.countCycle c) s
  s.emits ((s.modules.filter (fun e => e.2.lockLost)).map (fun e => .lockLoss e.1))

/-- One step, after its cycle has passed. -/
noncomputable def State.act (s : State) : Host.Outcome State Fault Refusal :=
  match s.sched with
  | c :: rest => { s with sched := rest }.obey c
  | [] => s.defaultTurn

/-! ## Placing one instruction (log 4) -/

/-- Words that the matrix class or an affix word needs the DCC for (R43). -/
def dccWord (w : Nat) : Bool := bits w 30 2 == 2 || bits w 24 6 == 0x3A || bits w 24 6 == 0x3B

/-- Words that only supervisor mode may run. -/
def privilegedWord (w : Nat) : Bool :=
  let maj := bits w 24 6
  let fn := bits w 4 5
  maj == 0x3C || maj == 0x3D || (maj == 0x13 && fn == 2) || (maj == 0x3E && [2, 3, 4].contains fn)

/-- The thread that runs a placed instruction: the current one if it issues, else the first of lookup core 0, or of the DCC,
as the only thread of a team of partition 0. -/
def State.placed (s : State) (w : Nat) : Nat × State :=
  if s.th.status = .running then (s.cur, s)
  else
    let c := if dccWord w then 128 else 0
    let s := s.modModule 0 (fun k => { k with state := .ready, powered := true, clocks := true })
    let s := s.modQuad (quadOfCore c) (fun k => { k with part := some 0 })
    let s := s.modCore c (fun k => { k with team := some { launch := 0, index := 0, threads := 1, part := some 0 } })
    (8 * c, s.setThread (8 * c) { status := .running, pc := 0x10000, sup := privilegedWord w })

/-- `NOP` (R70). -/
def nopWord : Nat := 0x0E000040

/-- The bytes of a placed instruction: its words, or a bundle that holds it in the first slot that accepts its class, with
`NOP` in the others (R40). -/
def placedBytes (dcc : Bool) (w : Nat) : List Byte :=
  let lo := w % 2 ^ 32
  let maj := if bits w 30 2 = 2 then 64 else bits w 24 6
  if !dcc then bytesOf 8 w
  else if bits w 30 2 = 1 then bytesOf 8 w ++ bytesOf 4 nopWord ++ bytesOf 4 nopWord
  else
    let slot := ((List.range 4).find? (fun i => slotAccepts i maj)).getD 3
    (List.range 4).flatMap (fun i => bytesOf 4 (if i = slot then lo else nopWord))

end Sys2Proof.Machine
end

