-- ==== Sys2Proof/Machine/Step.lean ====
section
/-!
DEFINITION. Sys2Proof/Machine/Step.lean: one step of the pod, and the placing of one instruction for it.
-/
namespace Sys2Proof.Machine

/-- One step: a cycle passes, and one agent acts: an event takes place, or a thread issues, waits or takes a cause. -/
noncomputable def step (s : State) : Host.Outcome State Fault Refusal := s.pass.act

/-- The state with the instruction whose bits are `w` in DRAM, translated and in the instruction cache, where the next step
fetches it (log 4). -/
def State.withFetchWord (s : State) (nbits w : Nat) : State :=
  let w := w % 2 ^ nbits
  let (tid, s) := s.placed w
  let s := s.modThread tid (fun t => { t with windows := [], outstanding := [], pending := [], granted := false })
  let s := s.placeCode tid (s.thread tid).pc.toNat (placedBytes (kindOfCore (coreOfThread tid) == .dcc) w)
  { s with sched := .issue tid :: s.sched, bundle := none }

end Sys2Proof.Machine
end

