-- ==== Sys2Proof/Safety.lean ====
section
/-!
DEFINITION. Sys2Proof/Safety.lean: what counts as a safe run: the machine goes on, its memories keep their canonical form,
and its agenda holds events only; and the terms in which statements speak of an instruction that issues, and of numbers.
-/
namespace Sys2Proof.Machine

/-- The machine goes on: it neither faults nor refuses. -/
def GoesOn (o : Host.Outcome State Fault Refusal) : Prop := ∃ s, o = .next s

/-- A row of the opcode table that is an event of the machine and no instruction word.  `reservedEncoding`, which stands for
the words that no instruction has, is a word. -/
def isEvent (i : Instr) : Bool := i.words == 0 && i != .reservedEncoding

/-- The agenda holds events only. -/
def State.eventsOnly (s : State) : Bool := s.agenda.all isEvent

/-- The thread that `cur` names is about to issue, outside a bundle. -/
def State.issues (s : State) : Bool := s.th.status == .running && s.bundle == none

/-! ## The issue of an instruction -/

/-- An instruction of this shape issues and executes: its thread runs, it passes the checks of R38, its registers have been
written (R36) and are read without an error to correct (R137), and its guard holds (R33). -/
def State.executes (s : State) (m : Meta) : Prop :=
  s.src.status = .running ∧ decodeCheck m s = none ∧ stalled m s = false ∧ badRead m s = none ∧ flipReads m s = []
    ∧ s.guardHolds m.guard = true

/-- The instruction completes, with `s'` for its effect: outside a bundle its thread goes on (R57, R73), in a bundle its
slot is done (R42). -/
def State.completes (s : State) (m : Meta) (s' : State) : Host.Outcome State Fault Refusal :=
  .next (s.finish m ((Res.retire s').counted m s))

/-- The instruction transfers control to `pc`, with `s'` for its other effects; no turn check follows (R73). -/
def State.jumps (s : State) (m : Meta) (s' : State) (pc : Word) : Host.Outcome State Fault Refusal :=
  .next (s.finish m (.jump s' pc))

/-- The instruction traps (R38, R42, R329). -/
def State.traps (s : State) (m : Meta) (t : TrapInfo) : Host.Outcome State Fault Refusal :=
  .next (s.finish m (.trap t s))

/-- The thread waits in the instruction, and `s'` holds what has already happened (R58). -/
def State.waitsIn (s : State) (m : Meta) (w : Wait) (s' : State) : Host.Outcome State Fault Refusal :=
  .next (s.finish m (.block w s'))

/-! ## The end of a wait -/

/-- Thread `tid` waits in an instruction, on a core that has no bundles. -/
def State.waits (s : State) (tid : Nat) (w : Wait) : Prop :=
  (s.thread tid).status = .waiting ∧ (s.thread tid).wait = some w ∧ kindOfCore (coreOfThread tid) ≠ .dcc

/-- The machine with thread `tid` at work, outside a bundle. -/
def State.as (s : State) (tid : Nat) : State := { s with cur := tid, bundle := none }

/-- The wait of thread `tid` ends with the result `r`, and whoever was at work still is. -/
def State.ends (s : State) (tid : Nat) (r : Res) : Host.Outcome State Fault Refusal :=
  .next { ((s.as tid).settle (s.thread tid).waitWords (s.thread tid).waitLook r) with cur := s.cur, bundle := s.bundle }

/-! ## Results of many lanes -/

/-- The outcome `o` completes an instruction that writes vector register `d`: its tag is `t`, lane `k` of its first `n` lanes
holds `f k`, the lanes above are zero, and the flags of those lanes are ORed into FFLAGS (R81, R88, R114). -/
def State.writesLanes (s : State) (o : Host.Outcome State Fault Refusal) (m : Meta) (d : VField) (t : Tag) (n : Nat)
    (f : Nat → Lane) : Prop :=
  ∃ r fl, o = s.completes m ((s.setVec d r t).orFlags fl) ∧ r < 2 ^ s.vecBits
    ∧ (∀ k < s.vecBits / t.width, lane r t.width k = if k < n then (f k).1 % 2 ^ t.width else 0)
    ∧ ∀ b < 6, (fl.getLsbD b = true ↔ ∃ k < n, (f k).2.getLsbD b = true)

end Sys2Proof.Machine

namespace Sys2Proof

/-! ## Values of floating-point formats, in integers -/

/-- The value of the magnitude bits `b`, in units of the format's smallest subnormal (R83); `b` runs on beyond the format's
largest, as if the exponent field had no end. -/
def FloatFmt.mag (f : FloatFmt) (b : Nat) : Nat :=
  if b < 2 ^ f.m then b else (b % 2 ^ f.m + 2 ^ f.m) * 2 ^ (b / 2 ^ f.m - 1)

/-- Such units in 1. -/
def FloatFmt.perOne (f : FloatFmt) : Nat := 2 ^ (f.bias + f.m - 1)

/-- The magnitude bits and the sign of a lane. -/
def FloatFmt.low (f : FloatFmt) (x : Nat) : Nat := x % 2 ^ (f.e + f.m)
def FloatFmt.isNeg (f : FloatFmt) (x : Nat) : Bool := x.testBit (f.e + f.m)

/-- The value of a finite lane in those units. -/
def FloatFmt.units (f : FloatFmt) (x : Nat) : Int := if f.isNeg x then -(f.mag (f.low x) : Int) else f.mag (f.low x)

/-- A lane that is infinite, and one that is finite. -/
def FloatFmt.isInf (f : FloatFmt) (x : Nat) : Bool :=
  match f.val x with
  | .inf _ => true
  | _ => false
def FloatFmt.isFin (f : FloatFmt) (x : Nat) : Bool :=
  match f.val x with
  | .fin .. => true
  | _ => false

/-- The exact value z/d rounded once by RNE; a zero has the sign given (R86, R87). -/
def FloatFmt.rounded (f : FloatFmt) (z : Int) (d : Nat) (zeroNeg : Bool) : Lane :=
  if z = 0 then (f.sign zeroNeg, 0) else f.round .rne (decide (z < 0)) z.natAbs d

/-- `r` is the `F32` of the sum of two exact products, c.1 × c.2 + c'.1 × c'.2, rounded once (R119, R217).  A NaN, or 0 × ∞,
gives the canonical NaN, and 0 × ∞ and ∞ − ∞ set NV. -/
def IsSumOfTwo (f h : FloatFmt) (c c' : Nat × Nat) (r : Lane) : Prop :=
  let neg := fun (c : Nat × Nat) => f.isNeg c.1 != h.isNeg c.2
  let nan := fun (c : Nat × Nat) => (f.val c.1).isNan = true ∨ (h.val c.2).isNan = true
  let wrong := fun (c : Nat × Nat) => (f.isInf c.1 = true ∧ h.low c.2 = 0) ∨ (h.isInf c.2 = true ∧ f.low c.1 = 0)
  let inf := fun (c : Nat × Nat) => f.isInf c.1 = true ∨ h.isInf c.2 = true
  let value := fun (c : Nat × Nat) => f.units c.1 * h.units c.2
  let endless := fun (c : Nat × Nat) => ((if neg c then 0xFF800000 else 0x7F800000, 0) : Lane)
  (wrong c ∨ wrong c' → r = (0x7FC00000, flagNV)) ∧
  (¬wrong c → ¬wrong c' → nan c ∨ nan c' → r = (0x7FC00000, 0)) ∧
  (¬wrong c → ¬wrong c' → ¬nan c → ¬nan c' →
    (inf c → inf c' → r = if neg c = neg c' then endless c else (0x7FC00000, flagNV)) ∧
    (inf c → ¬inf c' → r = endless c) ∧ (¬inf c → inf c' → r = endless c') ∧
    (¬inf c → ¬inf c' → r = f32Fmt.rounded (value c + value c') (f.perOne * h.perOne) (neg c && neg c')))

end Sys2Proof
end

