-- ==== Sys2Proof/Certificates/Slice0/Obligations.lean ====
section
/-!
DEFINITION. Sys2Proof/Certificates/Slice0/Obligations.lean: the statements about the machine.
-/

open Sys2Proof Sys2Proof.Machine

/-! ## Scalar operations (R61–R67) -/

/-- R62: a zero divisor traps `DIV_ZERO` and leaves gD unchanged; every other division completes, −2^63 by −1 among them, which gives −2^63 with
remainder 0. -/
def Obligations.Division : Prop :=
  ∀ (s : State) (g : Guard) (d a b : GReg), s.executes (metaG 0x01 g [d] [a, b]) →
    let m := metaG 0x01 g [d] [a, b]
    let x := s.g a
    let y := s.g b
    (y = 0 → ∀ i ∈ [Instr.div g d a b, .divz g d a b, .rem g d a b, .remz g d a b],
      exec i s = s.traps m { cause := .divZero } ∧ (s.bundle = none → ∀ t, exec i s = .next t → (t.thread s.cur).g = s.th.g)) ∧
    (y ≠ 0 →
      exec (.div g d a b) s = s.completes m (s.setG d (x.sdiv y)) ∧
      exec (.divz g d a b) s = s.completes m (s.setG d (x / y)) ∧
      exec (.rem g d a b) s = s.completes m (s.setG d (x.srem y)) ∧
      exec (.remz g d a b) s = s.completes m (s.setG d (x % y))) ∧
    (x = BitVec.intMin 64 → y = -1 →
      exec (.div g d a b) s = s.completes m (s.setG d x) ∧ exec (.rem g d a b) s = s.completes m (s.setG d 0))

/-- R63: `BEXT` and `BINS`, bit by bit, in both forms: k := min(wid, 64 − pos), a width above 64 acts as 64, and the other
bits of gD are zero or kept.  In the double-word form field b must be `g0`. -/
def Obligations.BitFields : Prop :=
  ∀ (s : State) (g : Guard) (d a b : GReg) (pos wid : Nat),
    let ext := fun (r : Word) => ∀ i < 64, r.getLsbD i = (decide (i < min wid (64 - pos)) && (s.g a).getLsbD (pos + i))
    let ins := fun (r : Word) => ∀ i < 64, r.getLsbD i =
      if pos ≤ i ∧ i < pos + min wid (64 - pos) then (s.g a).getLsbD (i - pos) else (s.g d).getLsbD i
    (pos = (s.g b).toNat % 2 ^ 6 → wid = (s.g b).toNat / 2 ^ 8 % 2 ^ 7 →
      (s.executes (metaG 0x01 g [d] [a, b]) →
        ∃ r, exec (.bext g d a b) s = s.completes (metaG 0x01 g [d] [a, b]) (s.setG d r) ∧ ext r) ∧
      (s.executes (metaG 0x01 g [d] [d, a, b]) →
        ∃ r, exec (.bins g d a b) s = s.completes (metaG 0x01 g [d] [d, a, b]) (s.setG d r) ∧ ins r)) ∧
    (∀ (p : Fin 64) (w : Fin 128), pos = p.val → wid = w.val →
      (s.executes (metaG 0x01 g [d] [a] 2) →
        ∃ r, exec (.bextDw g d a p w) s = s.completes (metaG 0x01 g [d] [a] 2) (s.setG d r) ∧ ext r) ∧
      (s.executes (metaG 0x01 g [d] [d, a] 2) →
        ∃ r, exec (.binsDw g d a p w) s = s.completes (metaG 0x01 g [d] [d, a] 2) (s.setG d r) ∧ ins r)) ∧
    (∀ w x, fFn w = 30 ∨ fFn w = 31 → fB w ≠ 0 → decode2_1 w x = none)

/-- R61: what the operations of major 0x01 write into gD.  Each completes, on every operand.

R61: the one-source operations of major 0x01. -/
def Obligations.ScalarArithmetic : Prop :=
  (∀ (s : State) (g : Guard) (d a b : GReg), s.executes (metaG 0x01 g [d] [a, b]) →
     let x := s.g a
     let y := s.g b
     let n := y.toNat % 64
     let done := fun (r : Word) => s.completes (metaG 0x01 g [d] [a, b]) (s.setG d r)
     exec (.add g d a b) s = done (x + y) ∧ exec (.sub g d a b) s = done (x - y) ∧
     exec (.and g d a b) s = done (x &&& y) ∧ exec (.or g d a b) s = done (x ||| y) ∧
     exec (.xor g d a b) s = done (x ^^^ y) ∧ exec (.andn g d a b) s = done (x &&& ~~~y) ∧
     exec (.shl g d a b) s = done (x <<< n) ∧ exec (.shr g d a b) s = done (x >>> n) ∧
     exec (.sar g d a b) s = done (x.sshiftRight n) ∧ exec (.rol g d a b) s = done (x.rotateLeft n) ∧
     exec (.mul g d a b) s = done (x * y) ∧
     exec (.mulh g d a b) s = done ((x.signExtend 128 * y.signExtend 128).extractLsb' 64 64) ∧
     exec (.mulhz g d a b) s = done ((x.setWidth 128 * y.setWidth 128).extractLsb' 64 64) ∧
     exec (.min g d a b) s = done (if x.toInt ≤ y.toInt then x else y) ∧
     exec (.max g d a b) s = done (if x.toInt ≤ y.toInt then y else x) ∧
     exec (.minz g d a b) s = done (if x ≤ y then x else y) ∧
     exec (.maxz g d a b) s = done (if x ≤ y then y else x)) ∧
  (∀ (s : State) (g : Guard) (d a : GReg), s.executes (metaG 0x01 g [d] [a]) →
     let x := s.g a
     let done := fun (r : Word) => s.completes (metaG 0x01 g [d] [a]) (s.setG d r)
     exec (.clz g d a) s = done x.clz ∧ exec (.ctz g d a) s = done x.ctz ∧ exec (.popc g d a) s = done x.cpop ∧
     exec (.sextB g d a) s = done ((x.setWidth 8).signExtend 64) ∧
     exec (.sextH g d a) s = done ((x.setWidth 16).signExtend 64) ∧
     exec (.sextW g d a) s = done ((x.setWidth 32).signExtend 64) ∧
     exec (.zextB g d a) s = done ((x.setWidth 8).setWidth 64) ∧
     exec (.zextH g d a) s = done ((x.setWidth 16).setWidth 64) ∧
     exec (.zextW g d a) s = done ((x.setWidth 32).setWidth 64))

/-- R64: the immediate operations; imm is sign-extended, and a shift count is bits [5:0] of imm10.

R65: constants and pc-relative addresses; on the DCC the pc is the bundle's. -/
def Obligations.ImmediatesAndConstants : Prop :=
  (∀ (s : State) (g : Guard) (d a : GReg),
     let x := s.g a
     let done := fun (major words : Nat) (r : Word) => s.completes (metaG major g [d] [a] words) (s.setG d r)
     (∀ (imm : BitVec 10), let y := imm.signExtend 64
       (s.executes (metaG 0x02 g [d] [a]) → exec (.addi g d a imm) s = done 0x02 1 (x + y)) ∧
       (s.executes (metaG 0x03 g [d] [a]) → exec (.andi g d a imm) s = done 0x03 1 (x &&& y)) ∧
       (s.executes (metaG 0x04 g [d] [a]) → exec (.ori g d a imm) s = done 0x04 1 (x ||| y)) ∧
       (s.executes (metaG 0x05 g [d] [a]) → exec (.xori g d a imm) s = done 0x05 1 (x ^^^ y))) ∧
     (∀ (imm : BitVec 32), let y := imm.signExtend 64
       (s.executes (metaG 0x02 g [d] [a] 2) → exec (.addiDw g d a imm) s = done 0x02 2 (x + y)) ∧
       (s.executes (metaG 0x03 g [d] [a] 2) → exec (.andiDw g d a imm) s = done 0x03 2 (x &&& y)) ∧
       (s.executes (metaG 0x04 g [d] [a] 2) → exec (.oriDw g d a imm) s = done 0x04 2 (x ||| y)) ∧
       (s.executes (metaG 0x05 g [d] [a] 2) → exec (.xoriDw g d a imm) s = done 0x05 2 (x ^^^ y))) ∧
     (∀ (n : Fin 64), s.executes (metaG 0x06 g [d] [a]) →
       exec (.shli g d a n) s = done 0x06 1 (x <<< n.val) ∧ exec (.shri g d a n) s = done 0x06 1 (x >>> n.val) ∧
       exec (.sari g d a n) s = done 0x06 1 (x.sshiftRight n.val))) ∧
  (∀ (s : State) (g : Guard) (d : GReg),
     let done := fun (src : List GReg) (words : Nat) (r : Word) =>
       s.completes (metaG 0x07 g [d] src words) (s.setG d r)
     (∀ (imm : BitVec 10),
       (s.executes (metaG 0x07 g [d] []) → exec (.limm g d imm) s = done [] 1 (imm.signExtend 64) ∧
         exec (.addpc g d imm) s = done [] 1 (s.src.pc + imm.signExtend 64)) ∧
       (s.executes (metaG 0x07 g [d] [d]) →
         exec (.limmh g d imm) s = done [d] 1 (imm.signExtend 32 ++ (s.g d).setWidth 32))) ∧
     (∀ (imm : BitVec 32),
       (s.executes (metaG 0x07 g [d] [] 2) → exec (.limmDw g d imm) s = done [] 2 (imm.signExtend 64) ∧
         exec (.addpcDw g d imm) s = done [] 2 (s.src.pc + imm.signExtend 64)) ∧
       (s.executes (metaG 0x07 g [d] [d] 2) →
         exec (.limmhDw g d imm) s = done [d] 2 (imm ++ (s.g d).setWidth 32))))

/-- R66: the eight conditions, for `CMP` and for both forms of `CMPI`.

R67: the predicate operations. -/
def Obligations.ComparesAndPredicates : Prop :=
  (∀ (s : State) (g : Guard) (p : PReg) (a b : GReg),
     let holds := fun (c : Nat) (x y : Word) => match c with
       | 0 => decide (x = y) | 1 => decide (x ≠ y)
       | 2 => decide (x.toInt < y.toInt) | 3 => decide (y.toInt ≤ x.toInt)
       | 4 => decide (x.toInt ≤ y.toInt) | 5 => decide (y.toInt < x.toInt)
       | 6 => decide (x.toNat < y.toNat) | _ => decide (y.toNat ≤ x.toNat)
     let m := fun (major words : Nat) (src : List GReg) =>
       ({ major, guard := g, words, reads := gs src, writes := ps [p] } : Meta)
     (∀ c : Fin 8, s.executes (m 0x08 1 [a, b]) →
       exec (.cmpCc g c p a b) s = s.completes (m 0x08 1 [a, b]) (s.setP p (holds c.val (s.g a) (s.g b)))) ∧
     (∀ (c : Fin 4) (imm : BitVec 10),
       (s.executes (m 0x09 1 [a]) → exec (.cmpiCcLow g c p a imm) s =
         s.completes (m 0x09 1 [a]) (s.setP p (holds c.val (s.g a) (imm.signExtend 64)))) ∧
       (s.executes (m 0x0A 1 [a]) → exec (.cmpiCcHigh g c p a imm) s =
         s.completes (m 0x0A 1 [a]) (s.setP p (holds (c.val + 4) (s.g a) (imm.signExtend 64))))) ∧
     (∀ (c : Fin 8) (imm : BitVec 32), s.executes (m (0x09 + c.val / 4) 2 [a]) →
       exec (.cmpiDw g c p a imm) s =
         s.completes (m (0x09 + c.val / 4) 2 [a]) (s.setP p (holds c.val (s.g a) (imm.signExtend 64))))) ∧
  (∀ (s : State) (g : Guard) (d a b : PReg),
     let m := fun (src : List PReg) => ({ major := 0x0B, guard := g, reads := ps src, writes := ps [d] } : Meta)
     (s.executes (m [a, b]) →
       exec (.pand g d a b) s = s.completes (m [a, b]) (s.setP d (s.p a && s.p b)) ∧
       exec (.por g d a b) s = s.completes (m [a, b]) (s.setP d (s.p a || s.p b)) ∧
       exec (.pxor g d a b) s = s.completes (m [a, b]) (s.setP d (s.p a ^^ s.p b))) ∧
     (s.executes (m [a]) →
       exec (.pnot g d a) s = s.completes (m [a]) (s.setP d (!s.p a)) ∧
       exec (.pmov g d a) s = s.completes (m [a]) (s.setP d (s.p a))))

/-! ## Control (R68–R77) -/

/-- R28, R68, R69, R74, R75: a transfer of control to `t`.  A non-canonical target traps `PAGE_FAULT` with SUB 1, then a
misaligned one `MISALIGN`; a branch, jump or return clears ACT of an active counter whose body does not hold the target, but
not while a handler runs.  In a bundle it does so once the other slots are done (R41).

R68, R74: `CALL` writes the address after it, or after its bundle, to `g31`, and never ends a loop.

R69, R70, R76, R77: `STAGE` and `ROT` write `LPIPE` alone; `NOP` has no effect, and neither has `HINT` with a number
other than 0.  Hint 0 asks for the next two lines: one whose translation the quad holds, which lies in DRAM and which its
instruction cache does not hold is asked of the fetch agent, and no other (log 8).  Nothing else changes. -/
def Obligations.ControlFlow : Prop :=
  (∀ (s : State) (g : Guard) (a : GReg) (off : BitVec 20),
     let unit := if s.kind = .dcc then 16 else 4
     let m := fun (major : Nat) (src : List GReg) => ({ major, guard := g, reads := gs src } : Meta)
     let left := fun (s : State) (t : Word) => if s.th.hnd then s else s.modTh (fun th => { th with lcbeg := Vector.ofFn (fun n =>
       if th.lcbeg[n].getLsbD 0 ∧ ¬(th.lcbeg[n].toNat / 4 % 2 ^ 55 * 4 ≤ t.toNat ∧ t.toNat < th.lcend[n].toNat / 4 % 2 ^ 55 * 4)
       then th.lcbeg[n] &&& ~~~1 else th.lcbeg[n]) })
     let goes := fun (i : Instr) (m : Meta) (t : Word) =>
       (2 ^ 57 ≤ t.toNat → exec i s = s.traps m { cause := .pageFault, sub := 1, addr := t }) ∧
       (t.toNat < 2 ^ 57 → t.toNat % unit ≠ 0 → exec i s = s.traps m { cause := .misalign, addr := t }) ∧
       (t.toNat < 2 ^ 57 → t.toNat % unit = 0 → s.bundle = none → exec i s = s.jumps m (left s t) t) ∧
       (t.toNat < 2 ^ 57 → t.toNat % unit = 0 → ∀ b, s.bundle = some b →
         exec i s = s.jumps m { s with bundle := some { b with leaves := true } } t)
     (s.executes (m 0x0C []) → goes (.br g off) (m 0x0C []) (s.src.pc + Word.of unit * off.signExtend 64)) ∧
     (s.executes (m 0x0E [a]) → goes (.jr g a) (m 0x0E [a]) (s.g a)) ∧
     (s.executes (m 0x0E [31]) → goes (.ret g) (m 0x0E [31]) (s.g 31)) ∧
     (∀ (b : Bundle) (t : Word) (turns : Bool), b.jump = some (t, turns) → b.leaves = true → b.ends = false →
       ({ s with bundle := some b } : State).commitBundle =
         (left { s with bundle := none } t).retireAt (b.old.pc + 16) t turns b.looks)) ∧
  (∀ (s : State) (g : Guard) (off : BitVec 20),
     let m : Meta := { major := 0x0D, guard := g, writes := gs [31] }
     let unit := if s.kind = .dcc then 16 else 4
     let t := s.src.pc + Word.of unit * off.signExtend 64
     s.executes m →
       (2 ^ 57 ≤ t.toNat → exec (.call g off) s = s.traps m { cause := .pageFault, sub := 1, addr := t }) ∧
       (t.toNat < 2 ^ 57 → t.toNat % unit ≠ 0 → exec (.call g off) s = s.traps m { cause := .misalign, addr := t }) ∧
       (t.toNat < 2 ^ 57 → t.toNat % unit = 0 →
         exec (.call g off) s = s.jumps m (s.setG 31 (s.src.pc + Word.of unit)) t)) ∧
  (∀ (s : State) (g : Guard) (a : GReg) (h : Fin 32),
     let m : Meta := { major := 0x0E, guard := g }
     let w := fun (src : List GReg) => { m with reads := gs src ++ [RegName.loop 6], writes := [RegName.loop 6] }
     (s.executes (w [a]) →
       exec (.stage g a) s = s.completes (w [a]) (s.modTh (fun t => { t.renew (.loop 6) with
         lpipe := (s.g a).setWidth 2 ++ t.lpipe.setWidth 4 }))) ∧
     (s.executes (w []) → exec (.rot g) s = s.completes (w []) (s.modTh (fun t => { t.renew (.loop 6) with
         lpipe := t.lpipe.extractLsb' 4 2 ++ (t.lpipe.setWidth 4 - 1) }))) ∧
     (s.executes { m with anySlot := true } → exec (.nop g) s = s.completes { m with anySlot := true } s) ∧
     (s.executes m → h ≠ 0 → exec (.hint g h) s = s.completes m s) ∧
     (s.executes m → exec (.hint g 0) s = s.completes m
       ((s.prefetch (s.src.pc.toNat / 64 * 64 + 64)).prefetch (s.src.pc.toNat / 64 * 64 + 128))) ∧
     (∀ va : Nat,
       let x : Miss := { req := reqFetch s.cur, core := s.myCore, part := s.partOfThread s.cur, va, sup := s.src.sup, own := true }
       (s.prefetch va).threads = s.threads ∧ (s.prefetch va).mem = s.mem ∧
       (∀ p, s.translate x s.src.sup .fetch = .ok p → va < 2 ^ 57 → memoryAt (64 * (p.pa / 64)) = true →
         (∀ l ∈ (s.quad s.myQuad).icache, l.line ≠ p.pa / 64) →
         s.prefetch va = s.askFetch s.myQuad
           { line := p.pa / 64, ms := pteMS p.pte || pteRED p.pte || pteTOL p.pte, w := pteW p.pte, pin := ptePIN p.pte }) ∧
       ((∀ p, s.translate x s.src.sup .fetch ≠ .ok p) → s.prefetch va = s)))

/-- R72: what the three forms of `LOOP` leave: ITER 0, REM the executions, BEG, PIPE, ACT and END, and for `LOOP.P` RRB and
`p4`–`p7`; errors of the words that they write are gone (R137).  A loop of no executions goes on after its body.

R73, R75: the turn check of an instruction that retires outside a bundle, and of a bundle that commits.  With no active
counter ending there, or in a handler, the thread goes on at the sequential successor.  Otherwise `lc0` is served first: ITER
counts up and REM down, a pipelined loop rotates and shifts its stage predicates, and while REM is left the thread goes back
to BEG; else the counter is no longer active, and `lc1` is looked at in the same way.  A taken transfer makes no check. -/
def Obligations.Loops : Prop :=
  (∀ (s : State) (g : Guard) (n : LcReg) (a : GReg) (len : BitVec 10) (count : BitVec 32) (pipe : Bool),
     let unit := if s.kind = .dcc then 16 else 4
     let started := fun (i : Instr) (m : Meta) (pipe : Bool) (asked words : Nat) =>
       let beg := s.src.pc + Word.of (if s.kind = .dcc then 16 else 4 * words)
       let stop := beg + Word.of (unit * len.toNat)
       let drain := s.src.lpipe.toNat / 16
       let trips := if pipe then min asked (2 ^ 32 - 1 - drain) else min asked (2 ^ 32 - 1)
       let total := if pipe ∧ trips ≠ 0 then trips + drain else trips
       let s' := s.modTh (fun t => { t.renewAll (loopRegs n pipe ++ if pipe then ps [4, 5, 6, 7] else []) with
         lccnt := t.lccnt.set n (Word.of total)
         lcbeg := t.lcbeg.set n
           (Word.of (beg.toNat / 4 % 2 ^ 55 * 4 + (if pipe then 2 else 0) + (if 0 < total then 1 else 0)))
         lcend := t.lcend.set n (Word.of (stop.toNat / 4 % 2 ^ 55 * 4))
         lpipe := if pipe then s.src.lpipe.extractLsb' 4 2 ++ (0 : BitVec 4) else t.lpipe
         p := if pipe then #v[t.p[0], t.p[1], t.p[2], t.p[3], decide (0 < trips), false, false, false] else t.p })
       exec i s = .next (s.finish m (if total = 0 then .retireTo s' stop else .retire s'))
     let m : Meta := { major := 0x0F, guard := g }
     let ws := fun (pipe : Bool) => (if pipe then ps [4, 5, 6, 7] else []) ++ loopRegs n pipe
     (s.executes { m with reads := gs [a], writes := ws false } →
       started (.loop g n a len) { m with reads := gs [a], writes := ws false } false (s.g a).toNat 1) ∧
     (s.executes { m with reads := gs [a] ++ [.loop 6], writes := ws true } →
       started (.loopP g n a len) { m with reads := gs [a] ++ [.loop 6], writes := ws true } true (s.g a).toNat 1) ∧
     (let dr : List RegName := if pipe then [.loop 6] else []
      s.executes { m with words := 2, reads := dr, writes := ws pipe } →
       started (.loopDw g pipe n len count) { m with words := 2, reads := dr, writes := ws pipe } pipe count.toNat 2)) ∧
  (let rem := fun (t : Thread) (n : Fin 2) => t.lccnt[n].toNat % 2 ^ 32
   let left := fun (t : Thread) (n : Fin 2) => (rem t n + (2 ^ 32 - 1)) % 2 ^ 32
   let served := fun (t : Thread) (n : Fin 2) => ({ t with
     lccnt := t.lccnt.set n (Word.of ((t.lccnt[n].toNat / 2 ^ 32 + 1) % 2 ^ 32 * 2 ^ 32 + left t n))
     lpipe := if t.lcbeg[n].getLsbD 1 then t.lpipe.extractLsb' 4 2 ++ (t.lpipe.setWidth 4 - 1) else t.lpipe
     p := if t.lcbeg[n].getLsbD 1
       then #v[t.p[0], t.p[1], t.p[2], t.p[3], decide (t.lpipe.toNat / 16 < left t n), t.p[4], t.p[5], t.p[6]] else t.p
     lcbeg := if left t n = 0 then t.lcbeg.set n (t.lcbeg[n] &&& ~~~1) else t.lcbeg } : Thread)
   let goes := fun (t r : Thread) (seq : Word) =>
     let ends := fun (n : Fin 2) => t.lcbeg[n].getLsbD 0 ∧ seq.toNat = t.lcend[n].toNat / 4 % 2 ^ 55 * 4
     let body := fun (n : Fin 2) => Word.of (t.lcbeg[n].toNat / 4 % 2 ^ 55 * 4)
     let at_ := fun (u : Thread) (pc : Word) => r.pc = pc ∧ r.lccnt = u.lccnt ∧ r.lcbeg = u.lcbeg ∧ r.lpipe = u.lpipe ∧ r.p = u.p
     (t.hnd = true ∨ ¬ends 0 ∧ ¬ends 1 → at_ t seq) ∧
     (t.hnd = false → ends 0 → left t 0 ≠ 0 → at_ (served t 0) (body 0)) ∧
     (t.hnd = false → ends 0 → left t 0 = 0 → ¬ends 1 → at_ (served t 0) seq) ∧
     (t.hnd = false → ends 0 → left t 0 = 0 → ends 1 →
       at_ (served (served t 0) 1) (if left t 1 = 0 then seq else body 1)) ∧
     (t.hnd = false → ¬ends 0 → ends 1 → at_ (served t 1) (if left t 1 = 0 then seq else body 1))
   (∀ (s s' : State) (m : Meta), s.bundle = none → s'.cur = s.cur → s'.th.status = .running →
     goes s'.th ((s.finish m (.retire s')).thread s.cur) (s.th.pc + Word.of (if s.kind = .dcc then 16 else 4 * m.words))) ∧
   (∀ (s : State) (b : Bundle), s.th.status = .running → b.jump = none → b.ends = false →
     goes s.th (({ s with bundle := some b } : State).commitBundle.thread s.cur) (b.old.pc + 16)) ∧
   (∀ (s s' : State) (m : Meta) (pc : Word), s.bundle = none → s'.cur = s.cur → s'.th.status = .running →
     let r := (s.finish m (.jump s' pc)).thread s.cur
     r.pc = pc ∧ r.lccnt = s'.th.lccnt ∧ r.lcbeg = s'.th.lcbeg ∧ r.lpipe = s'.th.lpipe ∧ r.p = s'.th.p))

/-! ## The core's own pool (R128–R133, R249) -/

/-- R130, R131, R137: scalar loads.  The address is gA plus the displacement modulo P; the range check comes before the
alignment check; a load of an uncorrectable word traps `ECC_UNCORR`, where the thread has no store of its own under way one of
a word of the pool; the value is extended as the mnemonic says.

R130, R131, R137: scalar stores of the low bytes of gD; one that covers a part of an uncorrectable word traps, where no
store of the thread that is under way covers that word whole.

R2, R249: where a local store of `n` bytes leaves the pool, while no publish slot is enabled and stores are not held back:
the bytes are those of the value, lowest first, and every other byte of every pool and of DRAM reads as before.  A store that
is held back changes no byte.

R249: a thread sees its own stores at once, whether or not they have entered the pool; the bytes of a store are those
that a load of the same bytes returns. -/
def Obligations.LocalScalarAccesses : Prop :=
  (∀ (s : State) (g : Guard) (d a : GReg) (off : BitVec 6) (disp : BitVec 32),
     let loads := fun (i : Instr) (words n : Nat) (signed : Bool) (dis : Word) =>
       let m := metaG 0x10 g [d] [a] words
       let ea := (s.g a + dis).toNat % poolSize s.kind
       s.executes m →
         (s.accEnd s.myCore < ea + n → exec i s = s.traps m { cause := .localRange, addr := Word.of ea }) ∧
         (ea + n ≤ s.accEnd s.myCore → ea % n ≠ 0 → exec i s = s.traps m { cause := .misalign, addr := Word.of ea }) ∧
         (ea + n ≤ s.accEnd s.myCore → ea % n = 0 → s.loadBad ea n = true →
           exec i s = s.traps m { cause := .eccUncorr, addr := Word.of ea }) ∧
         (s.th.stores = [] → s.loadBad ea n = s.poolBad s.myCore ea n) ∧
         (ea + n ≤ s.accEnd s.myCore → ea % n = 0 → s.loadBad ea n = false →
           let x := (s.loadLocal ea n).1
           exec i s = s.completes m ((s.loadLocal ea n).2.setG d
             (if signed then (BitVec.ofNat (8 * n) x).signExtend 64 else (BitVec.ofNat (8 * n) x).setWidth 64)))
     (∀ x ∈ [(Instr.ldb g d a off, 1, true), (.ldh g d a off, 2, true), (.ldw g d a off, 4, true), (.ldd g d a off, 8, false),
             (.ldbz g d a off, 1, false), (.ldhz g d a off, 2, false), (.ldwz g d a off, 4, false)],
       loads x.1 1 x.2.1 x.2.2 (Word.of x.2.1 * off.signExtend 64)) ∧
     (∀ x ∈ [(Instr.ldbDw g d a disp, 1, true), (.ldhDw g d a disp, 2, true), (.ldwDw g d a disp, 4, true),
             (.lddDw g d a disp, 8, false), (.ldbzDw g d a disp, 1, false), (.ldhzDw g d a disp, 2, false),
             (.ldwzDw g d a disp, 4, false)],
       loads x.1 2 x.2.1 x.2.2 (disp.signExtend 64))) ∧
  (∀ (s : State) (g : Guard) (d a : GReg) (off : BitVec 6) (disp : BitVec 32),
     let stores := fun (i : Instr) (words n : Nat) (dis : Word) =>
       let m := metaG 0x10 g [] [d, a] words
       let ea := (s.g a + dis).toNat % poolSize s.kind
       s.executes m →
         (s.accEnd s.myCore < ea + n → exec i s = s.traps m { cause := .localRange, addr := Word.of ea }) ∧
         (ea + n ≤ s.accEnd s.myCore → ea % n ≠ 0 → exec i s = s.traps m { cause := .misalign, addr := Word.of ea }) ∧
         (ea + n ≤ s.accEnd s.myCore → ea % n = 0 → s.ownBadStore s.cur ea n = true →
           exec i s = s.traps m { cause := .eccUncorr, addr := Word.of ea }) ∧
         (s.th.stores = [] → s.ownBadStore s.cur ea n = s.poolBadStore s.myCore ea n) ∧
         (ea + n ≤ s.accEnd s.myCore → ea % n = 0 → s.ownBadStore s.cur ea n = false →
           exec i s = s.completes m (s.storeLocal ea n (s.g d).toNat))
     (∀ x ∈ [(Instr.stb g d a off, 1), (.sth g d a off, 2), (.stw g d a off, 4), (.std g d a off, 8)],
       stores x.1 1 x.2 (Word.of x.2 * off.signExtend 64)) ∧
     (∀ x ∈ [(Instr.stbDw g d a disp, 1), (.sthDw g d a disp, 2), (.stwDw g d a disp, 4), (.stdDw g d a disp, 8)],
       stores x.1 2 x.2 (disp.signExtend 64))) ∧
  (∀ (s : State) (off n v : Nat), s.mem.wf = true → (s.thread s.cur).stores = [] →
     (∀ p ∈ (s.core s.myCore).pub, p.getLsbD 63 = false) →
     let t := s.storeLocal off n v
     (s.holdStores = false →
       (∀ i < n, t.mem.read (poolKey s.myCore (off + i)) = BitVec.ofNat 8 (v / 2 ^ (8 * i))) ∧
       (∀ k, (∀ i < n, k ≠ poolKey s.myCore (off + i)) → t.mem.read k = s.mem.read k)) ∧
     (s.holdStores = true → t.mem = s.mem)) ∧
  (∀ (s : State) (off n v : Nat), 0 < n → s.mem.wf = true → (∀ p ∈ (s.core s.myCore).pub, p.getLsbD 63 = false) →
     ((s.storeLocal off n v).loadLocal off n).1 = v % 2 ^ (8 * n))

/-- R132: vector loads and stores of the thread's vector size, aligned to 32 bytes: a load writes the
bits as they are and keeps the register's tag.

R133, R130: strided and gathered accesses, on a core whose pool has no uncorrectable word.  A tag of 4-bit elements, and
for the gathered forms a vB that is no integer vector of as many lanes, trap `TAG_MISMATCH`.  Element i lies at gA + i·gB, or
at gA plus lane i of vB; every element is checked, lowest first, before any is moved.  Where no store of the thread is under
way and no view is enabled, the lanes hold the bytes of the pool at their elements, and of a store's bytes each is that of the
highest lane that names it, and every other byte reads as before. -/
def Obligations.LocalVectorAccesses : Prop :=
  (∀ (s : State) (g : Guard) (d : VField) (a : GReg) (off : BitVec 6) (disp : BitVec 32),
     let n := if s.src.long then 256 else 32
     let at_ := fun (i : Instr) (m : Meta) (dis : Word) (bad : Nat → Bool) (s' : Nat → State) =>
       let ea := (s.g a + dis).toNat % poolSize s.kind
       s.executes m →
         (s.accEnd s.myCore < ea + n → exec i s = s.traps m { cause := .localRange, addr := Word.of ea }) ∧
         (ea + n ≤ s.accEnd s.myCore → ea % 32 ≠ 0 → exec i s = s.traps m { cause := .misalign, addr := Word.of ea }) ∧
         (ea + n ≤ s.accEnd s.myCore → ea % 32 = 0 → bad ea = true →
           exec i s = s.traps m { cause := .eccUncorr, addr := Word.of ea }) ∧
         (ea + n ≤ s.accEnd s.myCore → ea % 32 = 0 → bad ea = false → exec i s = s.completes m (s' ea))
     let ld := fun (words : Nat) =>
       ({ major := 0x11, guard := g, words, reads := gs [a], writes := vs [d], vfields := [d] } : Meta)
     let st := fun (words : Nat) =>
       ({ major := 0x11, guard := g, words, reads := gs [a] ++ vs [d], vfields := [d] } : Meta)
     let loaded := fun (ea : Nat) => (s.loadLocal ea n).2.putVec d (s.loadLocal ea n).1 (s.vec d).2
     let stored := fun (ea : Nat) => s.storeLocal ea n (s.vec d).1
     at_ (.vld g d a off) (ld 1) (32 * off.signExtend 64) (fun ea => s.loadBad ea n) loaded ∧
     at_ (.vldDw g d a disp) (ld 2) (disp.signExtend 64) (fun ea => s.loadBad ea n) loaded ∧
     at_ (.vst g d a off) (st 1) (32 * off.signExtend 64) (fun ea => s.ownBadStore s.cur ea n) stored ∧
     at_ (.vstDw g d a disp) (st 2) (disp.signExtend 64) (fun ea => s.ownBadStore s.cur ea n) stored) ∧
  (∀ (s : State) (g : Guard) (d : VField) (a b : GReg) (bv : VField), (s.core s.myCore).poisoned = [] →
     let w := (s.vec d).2.width
     let lanes := (if s.src.long then 2048 else 256) / w
     let plain := s.th.stores = [] ∧ s.holdStores = false ∧ s.mem.wf = true ∧ ∀ p ∈ (s.core s.myCore).pub, p.getLsbD 63 = false
     let moves := fun (i : Instr) (m : Meta) (load : Bool) (addr : Nat → Nat) =>
       let es := (List.range lanes).map addr
       (∀ t, es.findSome? (fun e => s.checkLocal e (w / 8) (w / 8)) = some t → exec i s = s.traps m t) ∧
       ((∀ e ∈ es, e + w / 8 ≤ s.accEnd s.myCore ∧ e % (w / 8) = 0) →
         exec i s = s.completes m
           (if load then (s.loadElements (w / 8) es).2.setVec d (ofLanes w (s.loadElements (w / 8) es).1) (s.vec d).2
            else s.storeElements (w / 8) (es.zipIdx.map (fun e => (e.1, lane (s.vec d).1 w e.2)))) ∧
         (plain → load = true → ∃ (t : State) (r : Nat), exec i s = s.completes m (t.setVec d r (s.vec d).2) ∧ t.mem = s.mem ∧ r < 2 ^ s.vecBits ∧
           ∀ k < lanes, ∀ j < w / 8, lane r 8 (k * (w / 8) + j) = (s.mem.read (poolKey s.myCore (addr k + j))).toNat) ∧
         (plain → load = false → ∃ t : State, exec i s = s.completes m t ∧
           (∀ k < lanes, ∀ j < w / 8, (∀ k' < lanes, k < k' → addr k + j < addr k' ∨ addr k' + w / 8 ≤ addr k + j) →
             t.mem.read (poolKey s.myCore (addr k + j)) = BitVec.ofNat 8 (lane (s.vec d).1 8 (k * (w / 8) + j))) ∧
           ∀ x, (∀ k < lanes, ∀ j < w / 8, x ≠ poolKey s.myCore (addr k + j)) → t.mem.read x = s.mem.read x))
     let ms := fun (load : Bool) => ({ major := 0x12, guard := g, reads := gs [a, b] ++ vs [d]
                                       writes := if load then vs [d] else [], vfields := [d] } : Meta)
     let mg := fun (load : Bool) => ({ major := 0x12, guard := g, reads := gs [a] ++ vs [d, bv]
                                       writes := if load then vs [d] else [], vfields := [d, bv] } : Meta)
     (∀ x ∈ [(Instr.vlds g d a b, true), (.vsts g d a b, false)], s.executes (ms x.2) →
       (w = 4 → exec x.1 s = s.traps (ms x.2) { cause := .tagMismatch }) ∧
       (w ≠ 4 → moves x.1 (ms x.2) x.2 (fun i => (s.g a + Word.of i * s.g b).toNat % poolSize s.kind))) ∧
     (∀ x ∈ [(Instr.vgathl g d a bv, true), (.vscatl g d a bv, false)], s.executes (mg x.2) →
       (w = 4 ∨ (s.vec bv).2.isInt = false ∨ w < (s.vec bv).2.width →
         exec x.1 s = s.traps (mg x.2) { cause := .tagMismatch }) ∧
       (w ≠ 4 → (s.vec bv).2.isInt = true → (s.vec bv).2.width ≤ w →
         moves x.1 (mg x.2) x.2 (fun i => (s.g a + Word.of (lane (s.vec bv).1 (s.vec bv).2.width i)).toNat % poolSize s.kind))))

/-! ## Vector operations (R108–R124) -/

/-- R113, R115: the integer lanes of majors 0x18; x and y are lanes of vA and vB.  Tags that differ, but for `Z32` and `IDX`,
trap.

R113, R115: the vector shifts; n is a lane of vB read as unsigned, and `VSAR` keeps the lane's top bit.  The formats are
integer and of one width.

R117 of integers and R118: fused products modulo 2^w; `VDOT` sums exactly and saturates once. -/
def Obligations.IntegerLanes : Prop :=
  (∀ (s : State) (g : Guard) (d a b : VField),
     let m := metaV 0x18 g d a b
     let t := (s.vec a).2
     let u := (s.vec b).2
     let w := t.width
     let n := s.vecBits / w
     let x := lane (s.vec a).1 w
     let y := lane (s.vec b).1 w
     let val := fun (x : Nat) => if t.isSigned ∧ 2 ^ (w - 1) ≤ x then (x : Int) - 2 ^ w else (x : Int)
     let lo : Int := if t.isSigned then -2 ^ (w - 1) else 0
     let hi : Int := if t.isSigned then 2 ^ (w - 1) - 1 else 2 ^ w - 1
     let clamp := fun (z : Int) => if z < lo then ((lo % 2 ^ w).toNat, flagSAT) else if hi < z then (hi.toNat, flagSAT)
       else ((z % 2 ^ w).toNat, 0)
     let same := t = u ∨ t ∈ [Tag.z32, .idx] ∧ u ∈ [Tag.z32, .idx]
     let ops : List (Instr × (Nat → Lane)) := [
       (.vadd g d a b, fun k => ((x k + y k) % 2 ^ w, 0)), (.vsub g d a b, fun k => ((x k + 2 ^ w - y k) % 2 ^ w, 0)),
       (.vmul g d a b, fun k => (x k * y k % 2 ^ w, 0)),
       (.vmin g d a b, fun k => (if val (x k) ≤ val (y k) then x k else y k, 0)),
       (.vmax g d a b, fun k => (if val (x k) ≤ val (y k) then y k else x k, 0)),
       (.vaddS g d a b, fun k => clamp (val (x k) + val (y k))), (.vsubS g d a b, fun k => clamp (val (x k) - val (y k)))]
     (t.isInt = true → s.executes m → ∀ i ∈ ops,
       (same → s.writesLanes (exec i.1 s) m d t n i.2) ∧ (¬same → exec i.1 s = s.traps m { cause := .tagMismatch })) ∧
     (t.isInt = true → s.executes (metaV1 0x18 g d a) →
       s.writesLanes (exec (.vabs g d a) s) (metaV1 0x18 g d a) d t n
         (fun k => (if val (x k) < 0 then (2 ^ w - x k) % 2 ^ w else x k, 0)) ∧
       s.writesLanes (exec (.vneg g d a) s) (metaV1 0x18 g d a) d t n (fun k => ((2 ^ w - x k) % 2 ^ w, 0)))) ∧
  (∀ (s : State) (g : Guard) (d a b : VField),
     let m := metaV 0x18 g d a b
     let t := (s.vec a).2
     let u := (s.vec b).2
     let w := t.width
     let x := lane (s.vec a).1 w
     let y := lane (s.vec b).1 w
     let ok := t.isInt = true ∧ u.isInt = true ∧ u.width = w
     s.executes m →
       (ok →
         s.writesLanes (exec (.vshl g d a b) s) m d t (s.vecBits / w) (fun k => (x k * 2 ^ y k % 2 ^ w, 0)) ∧
         s.writesLanes (exec (.vshr g d a b) s) m d t (s.vecBits / w) (fun k => (x k / 2 ^ y k, 0)) ∧
         ∃ r, exec (.vsar g d a b) s = s.completes m ((s.setVec d r t).orFlags 0) ∧ r < 2 ^ s.vecBits ∧
           ∀ k < s.vecBits / w, ∀ j < w, (lane r w k).testBit j = (x k).testBit (min (j + y k) (w - 1))) ∧
       (¬ok → ∀ i ∈ [Instr.vshl g d a b, .vshr g d a b, .vsar g d a b], exec i s = s.traps m { cause := .tagMismatch })) ∧
  (∀ (s : State) (g : Guard) (d a b : VField),
     let m : Meta := { metaV 0x19 g d a b with reads := vs [a, b, d] }
     let t := (s.vec a).2
     let u := (s.vec b).2
     let w := t.width
     let x := lane (s.vec a).1 w
     let y := lane (s.vec b).1 w
     let z := lane (s.vec d).1
     let val := fun (t : Tag) (x : Nat) => if t.isSigned ∧ 2 ^ (t.width - 1) ≤ x then (x : Int) - 2 ^ t.width else (x : Int)
     s.executes m →
       (t.isInt = true → u = t → (s.vec d).2 = t →
         s.writesLanes (exec (.vfma g d a b) s) m d t (s.vecBits / w) (fun k => ((x k * y k + z w k) % 2 ^ w, 0)) ∧
         s.writesLanes (exec (.vfms g d a b) s) m d t (s.vecBits / w) (fun k => ((x k * y k + (2 ^ w - z w k)) % 2 ^ w, 0)) ∧
         s.writesLanes (exec (.vnfma g d a b) s) m d t (s.vecBits / w)
           (fun k => ((2 ^ (2 * w) - x k * y k + z w k) % 2 ^ w, 0))) ∧
       ((t ∈ [Tag.i8, .z8] ∧ u ∈ [Tag.i8, .z8] ∨ t ∈ [Tag.i4, .z4] ∧ u ∈ [Tag.i4, .z4] ∨
           t ∈ [Tag.i16, .z16] ∧ u ∈ [Tag.i16, .z16]) → (s.vec d).2 = .i32 →
         s.writesLanes (exec (.vdot g d a b) s) m d .i32 (s.vecBits / 32) (fun j =>
           let total := val .i32 (z 32 j) +
             ((List.range (32 / w)).map (fun k => val t (x (j * (32 / w) + k)) * val u (y (j * (32 / w) + k)))).sum
           if total < -2 ^ 31 then (2 ^ 31, flagSAT) else if 2 ^ 31 - 1 < total then (2 ^ 31 - 1, flagSAT)
           else ((total % 2 ^ 32).toNat, 0))) ∧
       ((s.vec d).2 ∉ [Tag.i32] → exec (.vdot g d a b) s = s.traps m { cause := .tagMismatch }))

/-- R113–R117: the float lanes: each is the operation of one lane (`FloatSums`, `FloatMinMax`) in the format of the tags; a
fused product takes vD for its addend.

R83–R87: the values of the formats, and how an exact value becomes a result.  The positive rational n/d lies between the
values of the magnitude bits b and b + 1: the result is the one that the mode names, the nearest with a tie to even under RNE
and SAT; a rounded magnitude beyond the format's largest is replaced as R86's table says and sets OF and NX; else NX says that
the result is not exact, and UF that it is also tiny after rounding to the format's precision.  An infinity that reaches `F8A`
or `F6`, and a NaN that reaches `F6`, set NV alone.  That an infinity under SAT gives ±max with NX in a format that has
infinities is the model's choice (log 12).

R84, R86, R87, R114, R117: sums, products and fused products of one lane.  Of finite operands the exact value, in units of
the smallest subnormal, is rounded once; a zero sum is +0 but for two negative zeros, and a product has the sign of its
factors.  A NaN gives the canonical NaN; ∞ − ∞ and 0 × ∞ give it and set NV.

R116: float `VMIN` and `VMAX` of one lane: −0 is smaller than +0, one NaN gives the other operand, and two give the
canonical NaN.

R119: `VDOTF`: each lane is `dotfLane`, which `DotTree` describes, of its products and of vD.

R119: the fixed tree of a float dot product.  The products are exact; two of them are added and rounded to `F32`,
of four the two sums are added and rounded once more, and the result is added to the lane of vD; every flag on the way is
set. -/
def Obligations.FloatLanes : Prop :=
  (∀ (s : State) (g : Guard) (d a b : VField) (f : FloatFmt), (s.vec a).2.float = some f →
     let t := (s.vec a).2
     let w := t.width
     let n := s.vecBits / w
     let x := lane (s.vec a).1 w
     let y := lane (s.vec b).1 w
     let z := lane (s.vec d).1 w
     let m := metaV 0x18 g d a b
     let m1 := metaV1 0x18 g d a
     let m3 : Meta := { metaV 0x19 g d a b with reads := vs [a, b, d] }
     let two : List (Instr × (Nat → Lane)) := [
       (.vadd g d a b, fun k => f.add (x k) (y k)), (.vsub g d a b, fun k => f.sub (x k) (y k)),
       (.vmul g d a b, fun k => f.mul (x k) (y k)), (.vmin g d a b, fun k => (f.pick false (x k) (y k), 0)),
       (.vmax g d a b, fun k => (f.pick true (x k) (y k), 0))]
     let three : List (Instr × (Nat → Lane)) := [
       (.vfma g d a b, fun k => f.fma false false (x k) (y k) (z k)),
       (.vfms g d a b, fun k => f.fma false true (x k) (y k) (z k)),
       (.vnfma g d a b, fun k => f.fma true false (x k) (y k) (z k))]
     (s.executes m → (s.vec b).2 = t → ∀ i ∈ two, s.writesLanes (exec i.1 s) m d t n i.2) ∧
     (s.executes m → (s.vec b).2 ≠ t → ∀ i ∈ two, exec i.1 s = s.traps m { cause := .tagMismatch }) ∧
     (s.executes m → ∀ i ∈ [Instr.vaddS g d a b, .vsubS g d a b], exec i s = s.traps m { cause := .tagMismatch }) ∧
     (s.executes m3 → (s.vec b).2 = t → (s.vec d).2 = t → ∀ i ∈ three, s.writesLanes (exec i.1 s) m3 d t n i.2) ∧
     (s.executes m3 → ¬((s.vec b).2 = t ∧ (s.vec d).2 = t) →
       ∀ i ∈ three, exec i.1 s = s.traps m3 { cause := .tagMismatch }) ∧
     (s.executes m1 →
       s.writesLanes (exec (.vabs g d a) s) m1 d t n (fun k =>
         (if (f.val (x k)).isNan then f.nanBits else x k % 2 ^ (f.e + f.m), 0)) ∧
       s.writesLanes (exec (.vneg g d a) s) m1 d t n (fun k =>
         (if (f.val (x k)).isNan then f.nanBits else (x k % 2 ^ (f.e + f.m + 1)) ^^^ 2 ^ (f.e + f.m), 0)))) ∧
  (∀ (t : Tag) (f : FloatFmt), t.float = some f →
     let top : Nat := match t with
       | .f6 => 0x1F | .f8a => 0x7E | .f8b => 0x7B | .bf16 => 0x7F7F | .f16 => 0x7BFF | .f32 => 0x7F7FFFFF
       | _ => 0x7FEFFFFFFFFFFFFF
     let inf : Nat := match t with
       | .f6 => 0x1F | .f8a => 0x7F | .f8b => 0x7C | .bf16 => 0x7F80 | .f16 => 0x7C00 | .f32 => 0x7F800000
       | _ => 0x7FF0000000000000
     let nan : Nat := match t with
       | .f8a => 0x7F | .f8b => 0x7E | .bf16 => 0x7FC0 | .f16 => 0x7E00 | .f32 => 0x7FC00000 | _ => 0x7FF8000000000000
     let sgn := fun (neg : Bool) => if neg then 2 ^ (f.e + f.m) else 0
     let beyond := fun (mode : Rounding) (neg : Bool) => match mode with
       | .rne => inf
       | .rtz | .sat => top
       | .rup => if neg then top else inf
       | .rdn => if neg then inf else top
     (∀ x, (f.low x ≤ top → ∃ (k : Nat) (e : Int), f.val x = .fin (f.isNeg x) k e ∧ 1 ≤ e + f.bias + f.m ∧
         k * 2 ^ (e + f.bias + f.m - 1).toNat = f.mag (f.low x)) ∧
       (t ∉ [Tag.f6, .f8a] → f.low x = inf → f.val x = .inf (f.isNeg x)) ∧
       (top < f.low x → t = .f8a ∨ inf < f.low x → f.val x = .nan (f.isNeg x))) ∧
     (∀ (mode : Rounding) (neg : Bool) (n d b r : Nat), 0 < n → 0 < d →
       f.mag b * d ≤ n * f.perOne → n * f.perOne < f.mag (b + 1) * d →
       let exact := f.mag b * d = n * f.perOne
       let middle := (f.mag b + f.mag (b + 1)) * d
       let up : Prop := match mode with
         | .rne | .sat => middle < 2 * (n * f.perOne) ∨ middle = 2 * (n * f.perOne) ∧ b % 2 = 1
         | .rtz => False
         | .rup => ¬exact ∧ neg = false
         | .rdn => ¬exact ∧ neg = true
       let reaches : Prop := match mode with
         | .rne | .sat => (2 ^ (f.m + 2) - 1) * d ≤ 4 * (n * f.perOne)
         | .rtz => False
         | .rup => neg = false ∧ (2 ^ (f.m + 1) - 1) * d < 2 * (n * f.perOne)
         | .rdn => neg = true ∧ (2 ^ (f.m + 1) - 1) * d < 2 * (n * f.perOne)
       let tiny := n * f.perOne < 2 ^ f.m * d ∧ ¬reaches
       (up → r = b + 1) → (¬up → r = b) →
       (top < r → f.round mode neg n d = (sgn neg + beyond mode neg, flagOF ||| flagNX)) ∧
       (r ≤ top → ∃ fl, f.round mode neg n d = (sgn neg + r, fl) ∧ (fl.getLsbD 0 = true ↔ ¬exact) ∧
         (fl.getLsbD 1 = true ↔ ¬exact ∧ tiny) ∧ ∀ k, 2 ≤ k → fl.getLsbD k = false)) ∧
     (∀ (mode : Rounding) (neg : Bool) (d : Nat), f.round mode neg 0 d = (sgn neg, 0)) ∧
     (∀ (mode : Rounding) (ns neg : Bool),
       f.deliver mode ns (.nan neg) = (if t = .f6 then (0, flagNV) else (sgn (neg && ns) + nan, 0)) ∧
       f.deliver mode ns (.inf neg) =
         (if t = .f6 ∨ t = .f8a ∧ mode = .sat then (sgn neg + top, flagNV)
          else if t = .f8a then (sgn neg + inf, flagNV)
          else if mode = .sat then (sgn neg + top, flagNX) else (sgn neg + inf, 0)) ∧
       ∀ (k : Nat) (e : Int),
         f.deliver mode ns (.fin neg k e) = f.round mode neg (k * 2 ^ e.toNat) (2 ^ (-e).toNat))) ∧
  (∀ (t : Tag) (f : FloatFmt), t.float = some f → ∀ (x y z : Nat) (np na : Bool),
     let u := f.perOne
     let nx := f.isNeg x
     let ny := f.isNeg y
     let pn := (nx != ny) != np
     let zn := f.isNeg z != na
     let p : Int := if np then -(f.units x * f.units y) else f.units x * f.units y
     let c : Int := if na then -f.units z else f.units z
     let zero := fun (v : Nat) => f.low v = 0
     let inf := fun (neg : Bool) => (f.sign neg + f.infBits, (0 : BitVec 6))
     let nan := fun (v : Nat) => (f.val v).isNan = true
     let wrong := (f.isInf x = true ∧ zero y) ∨ (f.isInf y = true ∧ zero x)
     (f.isFin x = true → f.isFin y = true →
       f.add x y = f.rounded (f.units x + f.units y) u (nx && ny) ∧
       f.sub x y = f.rounded (f.units x - f.units y) u (nx && !ny) ∧
       f.mul x y = f.rounded (f.units x * f.units y) (u * u) (nx != ny) ∧
       (f.isFin z = true → f.fma np na x y z = f.rounded (p + c * u) (u * u) (pn && zn))) ∧
     (nan x ∨ nan y → f.add x y = (f.nanBits, 0) ∧ f.sub x y = (f.nanBits, 0) ∧ f.mul x y = (f.nanBits, 0)) ∧
     (f.isInf x = true → f.isFin y = true → f.add x y = inf nx ∧ f.sub x y = inf nx ∧ f.add y x = inf nx ∧ f.sub y x = inf (!nx)) ∧
     (f.isInf x = true → f.isInf y = true →
       f.add x y = (if nx = ny then inf nx else (f.nanBits, flagNV)) ∧
       f.sub x y = (if nx = ny then (f.nanBits, flagNV) else inf nx)) ∧
     (wrong → f.mul x y = (f.nanBits, flagNV)) ∧
     (¬wrong → ¬nan x → ¬nan y → (f.isInf x = true ∨ f.isInf y = true) →
       f.mul x y = inf (nx != ny) ∧
       (f.isFin z = true → f.fma np na x y z = inf pn) ∧
       (f.isInf z = true → f.fma np na x y z = if pn = zn then inf pn else (f.nanBits, flagNV))) ∧
     (f.isFin x = true → f.isFin y = true → f.isInf z = true → f.fma np na x y z = inf zn) ∧
     ((nan x ∨ nan y ∨ nan z) ∨ wrong → (f.fma np na x y z).1 = f.nanBits ∧
       ((f.fma np na x y z).2 = if wrong then flagNV else 0))) ∧
  (∀ (t : Tag) (f : FloatFmt) (x y : Nat), t.float = some f → x < 2 ^ (f.e + f.m + 1) → y < 2 ^ (f.e + f.m + 1) →
     ((f.val x).isNan = true → (f.val y).isNan = false → ∀ l, f.pick l x y = y ∧ f.pick l y x = y) ∧
     ((f.val x).isNan = true → (f.val y).isNan = true → ∀ l, f.pick l x y = f.nanBits) ∧
     ((f.val x).isNan = false → (f.val y).isNan = false → ((f.val x).cmp (f.val y)).1 = true →
       f.pick false x y = x ∧ f.pick true x y = y ∧ f.pick false y x = x ∧ f.pick true y x = y) ∧
     (f.pick false (2 ^ (f.e + f.m)) 0 = 2 ^ (f.e + f.m) ∧ f.pick false 0 (2 ^ (f.e + f.m)) = 2 ^ (f.e + f.m) ∧
       f.pick true (2 ^ (f.e + f.m)) 0 = 0 ∧ f.pick true 0 (2 ^ (f.e + f.m)) = 0)) ∧
  (∀ (s : State) (g : Guard) (d a b : VField),
     let m : Meta := { metaV 0x19 g d a b with reads := vs [a, b, d] }
     let t := (s.vec a).2
     let u := (s.vec b).2
     let w := t.width
     let x := lane (s.vec a).1 w
     let y := lane (s.vec b).1 w
     let z := lane (s.vec d).1
     s.executes m →
       ((t ∈ [Tag.bf16, .f16, .f8a, .f8b, .f6] ∧ u = t ∨ t ∈ [Tag.f8a, .f8b] ∧ u ∈ [Tag.f8a, .f8b]) → (s.vec d).2 = .f32 →
         s.writesLanes (exec (.vdotf g d a b) s) m d .f32 (s.vecBits / 32) (fun j =>
           dotfLane t u ((List.range (32 / w)).map (fun k => (x (j * (32 / w) + k), y (j * (32 / w) + k)))) (z 32 j))) ∧
       ((s.vec d).2 ∉ [Tag.f32] → exec (.vdotf g d a b) s = s.traps m { cause := .tagMismatch })) ∧
  (∀ (t u : Tag) (f h : FloatFmt), t ∈ [Tag.bf16, .f16, .f8a, .f8b, .f6] → u ∈ [Tag.bf16, .f16, .f8a, .f8b, .f6] →
     t.float = some f → u.float = some h →
     (∀ (a b : Nat × Nat) (z : Nat) (p : Lane), IsSumOfTwo f h a b p →
       let r := f32Fmt.add z p.1
       dotfLane t u [a, b] z = (r.1, p.2 ||| r.2)) ∧
     (∀ (a b c d : Nat × Nat) (z : Nat) (p q : Lane), IsSumOfTwo f h a b p → IsSumOfTwo f h c d q →
       let v := f32Fmt.add p.1 q.1
       let r := f32Fmt.add z v.1
       dotfLane t u [a, b, c, d] z = (r.1, p.2 ||| q.2 ||| v.2 ||| r.2)))

/-- R109, R120: `VCMP` writes the mask: bit i is the condition of lane i, or of lanes 2i and 2i+1 of a 4-bit format in long
mode, and the bits of no lane are zero.  NaN makes `NE` and `UN` true and every other condition false.

R115, R121: operations on whole registers and moves of lanes.  A lane that is written keeps six bits under `F6` (R81). -/
def Obligations.VectorComparesAndMoves : Prop :=
  (∀ (s : State) (g : Guard) (c : Fin 7) (d : MReg) (a b : VField),
     let m : Meta := { major := 0x1A, guard := g, reads := vs [a, b], writes := [.m d], vfields := [a, b] }
     let t := (s.vec a).2
     let u := (s.vec b).2
     let w := t.width
     let p := laneVal t
     let holds := fun (k : Nat) =>
       let x := p (lane (s.vec a).1 w k)
       let y := p (lane (s.vec b).1 w k)
       if x.isNan ∨ y.isNan then c.val = 1 ∨ c.val = 6
       else match c.val with
         | 0 => (x.cmp y).2 = true | 1 => (x.cmp y).2 = false
         | 2 => (x.cmp y).1 = true | 3 => (x.cmp y).1 = false
         | 4 => (x.cmp y).1 = true ∨ (x.cmp y).2 = true | 5 => (x.cmp y).1 = false ∧ (x.cmp y).2 = false
         | _ => False
     let same := t = u ∨ t ∈ [Tag.z32, .idx] ∧ u ∈ [Tag.z32, .idx]
     s.executes m →
       (t ∉ [Tag.none, .n4] → same → ∃ r, exec (.vcmpCc g c d a b) s = s.completes m (s.setMask d r) ∧
         ∀ k < 256, (r.getLsbD k = true ↔
           if s.src.long = true ∧ w = 4 then holds (2 * k) ∧ holds (2 * k + 1) else k < s.vecBits / w ∧ holds k)) ∧
       (¬(t ∉ [Tag.none, .n4] ∧ same) → exec (.vcmpCc g c d a b) s = s.traps m { cause := .tagMismatch })) ∧
  (∀ (s : State) (g : Guard) (d a b : VField) (k : MReg) (e f : GReg),
     let t := (s.vec a).2
     let u := (s.vec b).2
     let w := t.width
     let x := lane (s.vec a).1 w
     let y := lane (s.vec b).1 u.width
     let n := s.vecBits / w
     let m := metaV 0x18 g d a b
     let mp := metaV 0x1B g d a b
     let keep := fun (t : Tag) (x : Nat) => if t = .f6 then x % 2 ^ 6 else x % 2 ^ t.width
     (s.executes m →
       exec (.vand g d a b) s = s.completes m (s.putVec d ((s.vec a).1 &&& (s.vec b).1) t) ∧
       exec (.vor g d a b) s = s.completes m (s.putVec d ((s.vec a).1 ||| (s.vec b).1) t) ∧
       exec (.vxor g d a b) s = s.completes m (s.putVec d ((s.vec a).1 ^^^ (s.vec b).1) t)) ∧
     (let ms : Meta := { m with reads := vs [a, b] ++ [.m k] }
      s.executes ms → u.width = w → s.writesLanes (exec (.vsel g d a b k) s) ms d t n (fun i =>
       (keep t (if (s.mask k).getLsbD (if s.src.long ∧ w = 4 then i / 2 else i) then x i else y i), 0))) ∧
     (s.executes mp → w ≠ 4 → u.isInt = true → n ≤ s.vecBits / u.width →
       s.writesLanes (exec (.vperm g d a b) s) mp d t n (fun i => (keep t (x (y i % n)), 0))) ∧
     (s.executes mp → (w = 4 ∨ u.isInt = false ∨ s.vecBits / u.width < n) →
       exec (.vperm g d a b) s = s.traps mp { cause := .tagMismatch }) ∧
     (let mb : Meta := { major := 0x1B, guard := g, reads := gs [e], writes := vs [d], vfields := [d] }
      let td := (s.vec d).2
      s.executes mb → s.writesLanes (exec (.vbcast g d e) s) mb d td (s.vecBits / td.width)
       (fun _ => (keep td (s.g e).toNat, 0))) ∧
     (let me : Meta := { major := 0x1B, guard := g, reads := vs [a] ++ gs [f], writes := gs [e], vfields := [a] }
      let l := if (s.g f).toNat < n then keep t (x (s.g f).toNat) else 0
      s.executes me → exec (.vext g e a f) s = s.completes me (s.setG e
       (if t.isSigned ∧ 2 ^ (w - 1) ≤ l then Word.of (2 ^ 64 + l - 2 ^ w) else Word.of l))) ∧
     (let mi : Meta := { major := 0x1B, guard := g, reads := gs [e, f] ++ vs [d], writes := vs [d], vfields := [d] }
      let td := (s.vec d).2
      s.executes mi →
       (s.vecBits / td.width ≤ (s.g f).toNat → exec (.vins g d e f) s = s.completes mi s) ∧
       ((s.g f).toNat < s.vecBits / td.width → ∃ r, exec (.vins g d e f) s = s.completes mi (s.putVec d r td) ∧
         r < 2 ^ s.vecBits ∧ ∀ i < s.vecBits / td.width, lane r td.width i =
           if i = (s.g f).toNat then keep td (s.g e).toNat else lane (s.vec d).1 td.width i)))

/-- R122: `VRED` combines lanes i and i+s of the tree, level by level, so that lane 0 holds the root of the pairwise tree and
every other lane is zero; `VSCAN` forms its prefixes strictly left to right.

R113, R123, R124: the special functions, and what they give at zeros, infinities, NaN and below zero.

R110: `VLONG` from short mode clears the long registers and their tags and enters long mode; in long mode it changes
nothing; `VSHORT` leaves every register. -/
def Obligations.ReductionsAndFunctions : Prop :=
  (∀ (s : State) (g : Guard) (d a : VField),
     let m := metaV1 0x1B g d a
     let t := (s.vec a).2
     let w := t.width
     let n := s.vecBits / w
     let x := lane (s.vec a).1 w
     let red := fun (op : LaneOp) => (Nat.rec (motive := fun _ => Nat → Lane) (fun i => (x i, 0)) (fun _ r i =>
       ((laneOp op t (r (2 * i)).1 (r (2 * i + 1)).1).1,
         (r (2 * i)).2 ||| (r (2 * i + 1)).2 ||| (laneOp op t (r (2 * i)).1 (r (2 * i + 1)).1).2)) n.log2 : Nat → Lane)
     let scan := fun (op : LaneOp) (k : Nat) => if k = 0 then (if t = .f6 then x 0 % 2 ^ 6 else x 0, 0)
       else (Nat.rec (motive := fun _ => Lane) (x 0, 0) (fun k r => laneOp op t r.1 (x (k + 1))) k : Lane)
     s.executes m →
       (t ∉ [Tag.none, .n4] →
         s.writesLanes (exec (.vredAdd g d a) s) m d t 1 (fun _ => red .add 0) ∧
         s.writesLanes (exec (.vredMin g d a) s) m d t 1 (fun _ => red .min 0) ∧
         s.writesLanes (exec (.vredMax g d a) s) m d t 1 (fun _ => red .max 0) ∧
         s.writesLanes (exec (.vscanAdd g d a) s) m d t n (scan .add) ∧
         s.writesLanes (exec (.vscanMin g d a) s) m d t n (scan .min) ∧
         s.writesLanes (exec (.vscanMax g d a) s) m d t n (scan .max)) ∧
       (t ∈ [Tag.none, .n4] → ∀ i ∈ [Instr.vredAdd g d a, .vredMin g d a, .vredMax g d a, .vscanAdd g d a, .vscanMin g d a,
         .vscanMax g d a], exec i s = s.traps m { cause := .tagMismatch })) ∧
  ((∀ (s : State) (g : Guard) (d a : VField) (f : FloatFmt), s.executes (metaV1 0x1C g d a) →
     let m := metaV1 0x1C g d a
     let t := (s.vec a).2
     let ops := [(Instr.vrcp g d a, SpecialFn.rcp), (.vrsq g d a, .rsq), (.vexp2 g d a, .exp2), (.vlog2 g d a, .log2),
       (.vtanh g d a, .tanh), (.vsigm g d a, .sigm)]
     (t.float = some f → ∀ o ∈ ops, (t ∈ [Tag.bf16, .f16, .f32] ∨ t = .f64 ∧ o.2 ∈ [SpecialFn.rcp, .rsq]) →
       s.writesLanes (exec o.1 s) m d t (s.vecBits / t.width) (fun k => specialLane o.2 f (lane (s.vec a).1 t.width k))) ∧
     (∀ o ∈ ops, ¬(t ∈ [Tag.bf16, .f16, .f32] ∨ t = .f64 ∧ o.2 ∈ [SpecialFn.rcp, .rsq]) →
       exec o.1 s = s.traps m { cause := .tagMismatch })) ∧
   (∀ (t : Tag) (f : FloatFmt), t ∈ [Tag.bf16, .f16, .f32, .f64] → t.float = some f →
     let neg := 2 ^ (f.e + f.m)
     let one := f.bias * 2 ^ f.m
     (∀ x fn, (f.val x).isNan = true → specialLane fn f x = (f.nanBits, 0)) ∧
     (specialLane .rcp f 0 = (f.infBits, flagDZ) ∧ specialLane .rcp f neg = (neg + f.infBits, flagDZ) ∧
       specialLane .rcp f f.infBits = (0, 0) ∧ specialLane .rcp f (neg + f.infBits) = (neg, 0)) ∧
     (specialLane .rsq f 0 = (f.infBits, flagDZ) ∧ specialLane .rsq f neg = (neg + f.infBits, flagDZ) ∧
       specialLane .rsq f f.infBits = (0, 0)) ∧
     (∀ x ∈ [0, neg], specialLane .exp2 f x = (one, 0) ∧ specialLane .log2 f x = (neg + f.infBits, flagDZ) ∧
       specialLane .tanh f x = (x, 0) ∧ specialLane .sigm f x = (one - 2 ^ f.m, 0)) ∧
     (specialLane .exp2 f f.infBits = (f.infBits, 0) ∧ specialLane .log2 f f.infBits = (f.infBits, 0) ∧
       specialLane .tanh f f.infBits = (one, 0) ∧ specialLane .sigm f f.infBits = (one, 0)) ∧
     (specialLane .exp2 f (neg + f.infBits) = (0, 0) ∧ specialLane .tanh f (neg + f.infBits) = (neg + one, 0) ∧
       specialLane .sigm f (neg + f.infBits) = (0, 0)) ∧
     (∀ x, (f.val x).isNan = false → ((f.val x).cmp (f.val 0)).1 = true →
       specialLane .rsq f x = (f.nanBits, flagNV) ∧ specialLane .log2 f x = (f.nanBits, flagNV)))) ∧
  (∀ (s : State) (g : Guard),
     let m : Meta := { major := 0x1D, guard := g }
     s.executes m →
       (s.src.long = true → exec (.vlong g) s = s.completes m s) ∧
       (s.src.long = false → exec (.vlong g) s = s.completes m
         (s.modTh (fun t => { t with w := Vector.replicate 16 { bits := 0, tag := .none }, long := true }))) ∧
       exec (.vshort g) s = s.completes m (s.modTh (fun t => { t with long := false })))

/-! ## Formats (R79–R107) -/

/-- R94–R96: `CVT` converts the low lanes and leaves the upper lanes of a wider target zero; `TAGSET` keeps the bits; `TAGGET`
gives the tag's code; `FCLASS` gives class codes under a tag of the lane's width.

R95: what one lane's conversion to an integer gives: between integers, and from a float, which is rounded by the mode to a
whole number and held to the target's range.  That an infinity, and a number that is no whole number and out of range too, set
NV, the second beside NX, is the model's choice (log 14).

R95, R84, R86: conversions to a float format.  An integer and a finite float are rounded by the mode, each from its exact
value (`FloatRounding`); a NaN gives the canonical NaN with its sign, and in `F6` +0
with NV; an infinity is delivered as an infinity.

R97–R99: the quantisation instructions execute in long mode; the scale vector's bytes, its selector and its super-scale;
`QN4` keeps the other slots where vD already holds codes.

R89, R90, R98, R99: what one element of the quantisation instructions is, over the exact values.  The super-scale is
RNE(M / 255, F32), and 2^−149 where that is 0 and M is not; a scale byte is min(255, ⌈a / S⌉); a code is the one whose
K[c]/256 lies nearest to x / (q·S), a tie to the smaller magnitude; a decoded element is K[c]/256 · q · S, rounded once.  That the
rounding of M / 255 sets no flag, and the sign of a decoded zero, are the model's choices (log 31). -/
def Obligations.Conversions : Prop :=
  (∀ (s : State) (g : Guard) (d a : VField) (e : GReg) (t : Tag),
     let m := metaV1 0x20 g d a
     let u := (s.vec a).2
     let x := lane (s.vec a).1 u.width
     let n := s.vecBits / u.width
     let modes := [(Instr.cvtRne g d a t, Rounding.rne), (.cvtRtz g d a t, .rtz), (.cvtRup g d a t, .rup),
       (.cvtRdn g d a t, .rdn), (.cvtSat g d a t, .sat)]
     (s.executes m → ∀ i ∈ modes,
       (u ∉ [Tag.none, .n4] → s.writesLanes (exec i.1 s) m d t (min n (s.vecBits / t.width)) (fun k => convert u t i.2 (x k))) ∧
       (u ∈ [Tag.none, .n4] → exec i.1 s = s.traps m { cause := .tagMismatch })) ∧
     (let mt : Meta := { major := 0x22, guard := g, writes := vs [d], vfields := [d] }
      s.executes mt → exec (.tagset g d t) s = s.completes mt (s.putVec d (s.vec d).1 t)) ∧
     (let mg : Meta := { major := 0x22, guard := g, reads := vs [a], writes := gs [e], vfields := [a] }
      s.executes mg → exec (.tagget g e a) s = s.completes mg (s.setG e (Word.of (s.vec a).2.code))) ∧
     (let mf := metaV1 0x22 g d a
      s.executes mf →
       (∀ f, u.float = some f → s.writesLanes (exec (.fclass g d a) s) mf d
         (if u.width = 8 then .z8 else if u.width = 16 then .z16 else if u.width = 32 then .z32 else .i64) n (fun k =>
           (match f.val (x k) with
            | .nan _ => 8
            | .inf neg => if neg then 0 else 7
            | .fin neg _ _ =>
              let ex := x k / 2 ^ f.m % 2 ^ f.e
              let mant := x k % 2 ^ f.m
              if ex = 0 ∧ mant = 0 then (if neg then 3 else 4) else if ex = 0 then (if neg then 2 else 5)
              else if neg then 1 else 6, 0))) ∧
       (u.float = none → exec (.fclass g d a) s = s.traps mf { cause := .tagMismatch }))) ∧
  (∀ (src dst : Tag) (mode : Rounding) (x : Nat), dst.isInt = true → x < 2 ^ src.width →
     let w := dst.width
     let lo : Int := if dst.isSigned then -2 ^ (w - 1) else 0
     let hi : Int := if dst.isSigned then 2 ^ (w - 1) - 1 else 2 ^ w - 1
     let bits := fun (z : Int) => (z % 2 ^ w).toNat
     (src.isInt = true →
       let v : Int := if src.isSigned ∧ 2 ^ (src.width - 1) ≤ x then (x : Int) - 2 ^ src.width else x
       (lo ≤ v → v ≤ hi → convert src dst mode x = (bits v, 0)) ∧
       (v < lo → convert src dst mode x = if mode = .sat then (bits lo, flagSAT) else (bits v, 0)) ∧
       (hi < v → convert src dst mode x = if mode = .sat then (bits hi, flagSAT) else (bits v, 0))) ∧
     (∀ f, src.float = some f →
       (∀ neg, f.val x = .nan neg → convert src dst mode x = (0, flagNV)) ∧
       (∀ neg, f.val x = .inf neg → convert src dst mode x = (bits (if neg then lo else hi), flagNV)) ∧
       (∀ neg k, f.val x = .fin neg k 0 →
         let v : Int := if neg then -(k : Int) else k
         convert src dst mode x = if v < lo then (bits lo, flagNV) else if hi < v then (bits hi, flagNV) else (bits v, 0)) ∧
       (f.isFin x = true →
         let n := f.mag (f.low x)
         let d := f.perOne
         let neg := f.isNeg x
         let up : Prop := match mode with
           | .rne | .sat => d < 2 * (n % d) ∨ (d = 2 * (n % d) ∧ n / d % 2 = 1)
           | .rtz => False
           | .rup => n % d ≠ 0 ∧ neg = false
           | .rdn => n % d ≠ 0 ∧ neg = true
         ∀ q, (up → q = n / d + 1) → (¬up → q = n / d) →
           let v : Int := if neg then -(q : Int) else q
           let nx : BitVec 6 := if n % d = 0 then 0 else flagNX
           convert src dst mode x =
             if v < lo then (bits lo, nx ||| flagNV) else if hi < v then (bits hi, nx ||| flagNV) else (bits v, nx)))) ∧
  (∀ (src dst : Tag) (h : FloatFmt) (mode : Rounding) (x : Nat), dst.float = some h → x < 2 ^ src.width →
     (src.isInt = true →
       let v : Int := if src.isSigned ∧ 2 ^ (src.width - 1) ≤ x then (x : Int) - 2 ^ src.width else x
       convert src dst mode x = h.round mode (decide (v < 0)) v.natAbs 1) ∧
     (∀ f, src.float = some f →
       ((f.val x).isNan = true → convert src dst mode x =
         if dst = .f6 then (0, flagNV) else (h.sign (f.isNeg x) + h.nanBits, 0)) ∧
       (f.isInf x = true → convert src dst mode x = h.deliver mode true (.inf (f.isNeg x))) ∧
       (f.isFin x = true → convert src dst mode x = h.round mode (f.isNeg x) (f.mag (f.low x)) f.perOne))) ∧
  (∀ (s : State) (g : Guard) (d a b : VField),
     let m := metaV 0x21 g d a b
     let mq : Meta := { m with reads := vs [a, b, d] }
     let x := lane (s.vec a).1
     let y := lane (s.vec b).1
     let sel := y 8 64 % 64
     let q := y 8 sel
     let sc := y 32 63
     let slot := sel % 8
     (s.executes m → s.src.long = true) ∧
     (s.executes m → (s.vec a).2 = .f32 → (s.vec b).2 = .f32 →
       let sup := superScale (y 32 0 % 2 ^ 31)
       let byte := fun (j : Nat) => scaleByte (x 32 j % 2 ^ 31) sup.1
       ∃ r fl, exec (.qscale g d a b) s = s.completes m ((s.setVec d r .z8).orFlags fl) ∧ r < 2 ^ 2048 ∧
         (∀ j < 64, lane r 8 j = (byte j).1) ∧ (∀ j, 64 ≤ j → j < 252 → lane r 8 j = 0) ∧ lane r 32 63 = sup.1 ∧
         ∀ k < 6, (fl.getLsbD k = true ↔ sup.2.getLsbD k = true ∨ ∃ j < 64, (byte j).2.getLsbD k = true)) ∧
     (s.executes mq → (s.vec b).2 = .z8 → (s.vec a).2 = .f32 →
       let code := fun (j : Nat) => qn4Element (x 32 j) q sc
       ∃ r fl, exec (.qn4 g d a b) s = s.completes mq ((s.setVec d r .n4).orFlags fl) ∧ r < 2 ^ 2048 ∧
         (∀ j < 64, lane r 4 (64 * slot + j) = (code j).1) ∧
         (∀ k < 8, k ≠ slot → lane r 256 k = if (s.vec d).2 = .n4 then lane (s.vec d).1 256 k else 0) ∧
         ∀ k < 6, (fl.getLsbD k = true ↔ ∃ j < 64, (code j).2.getLsbD k = true)) ∧
     (s.executes m → (s.vec b).2 = .z8 → (s.vec a).2 = .n4 →
       s.writesLanes (exec (.dqn4 g d a b) s) m d .f32 64 (fun j => dqn4Element (x 4 (64 * slot + j)) q sc)) ∧
     (s.executes m → ¬((s.vec a).2 = .f32 ∧ (s.vec b).2 = .f32) → exec (.qscale g d a b) s = s.traps m { cause := .tagMismatch }) ∧
     (s.executes m → ¬((s.vec a).2 = .n4 ∧ (s.vec b).2 = .z8) → exec (.dqn4 g d a b) s = s.traps m { cause := .tagMismatch }) ∧
     (s.executes mq → ¬((s.vec a).2 = .f32 ∧ (s.vec b).2 = .z8) → exec (.qn4 g d a b) s = s.traps mq { cause := .tagMismatch })) ∧
  (let f := f32Fmt
   let u := f.perOne
   let mag := fun (x : Nat) => f.mag (f.low x)
   let nan := fun (x : Nat) => (f.val x).isNan = true
   let K : Nat → Int := fun c =>
     [-256, -184, -136, -100, -70, -44, -21, 0, 19, 39, 61, 85, 113, 146, 190, 256].getD c 0
   (∀ x < 2 ^ 31,
     (f.isFin x = true →
       let r := (f.round .rne false (mag x) (255 * u)).1
       superScale x = (if r = 0 ∧ mag x ≠ 0 then 1 else r, 0)) ∧
     (f.isFin x = false → superScale x = (0, flagNV))) ∧
   (∀ a < 2 ^ 31, ∀ s < 2 ^ 31, f.isFin s = true →
     (mag s = 0 → scaleByte a s = (0, 0)) ∧
     (mag s ≠ 0 →
       (nan a → scaleByte a s = (255, flagNV)) ∧ (f.isInf a = true → scaleByte a s = (255, 0)) ∧
       (f.isFin a = true → ∀ q, mag a ≤ q * mag s → (∀ k < q, k * mag s < mag a) → scaleByte a s = (min 255 q, 0)))) ∧
   (∀ x q s, x < 2 ^ 32 → q < 256 → s < 2 ^ 32 →
     let good := f.isFin s = true ∧ f.isNeg s = false ∧ mag s ≠ 0
     let bad : BitVec 6 := if f.isFin s = true then 0 else flagNV
     (q = 0 ∨ ¬good → qn4Element x q s = (7, bad ||| if f.isFin s = true ∧ f.isFin x = true ∧ mag x = 0 then 0 else flagNX)) ∧
     (q ≠ 0 → good →
       (nan x → qn4Element x q s = (7, flagNV ||| flagNX)) ∧
       (f.isInf x = true → qn4Element x q s = (if f.isNeg x then 0 else 15, flagNX)) ∧
       (f.isFin x = true → ∃ c < 16,
         let dist := fun c => (K c * q * mag s - 256 * f.units x).natAbs
         qn4Element x q s = (c, if dist c = 0 then 0 else flagNX) ∧
         ∀ c' < 16, c' ≠ c → dist c < dist c' ∨ (dist c = dist c' ∧ (K c).natAbs < (K c').natAbs)))) ∧
   (∀ c q s, c < 16 → q < 256 → s < 2 ^ 32 →
     let neg := decide (K c < 0) != f.isNeg s
     (f.isFin s = true → dqn4Element c q s = f.round .rne neg ((K c).natAbs * q * mag s) (256 * u)) ∧
     (f.isInf s = true → dqn4Element c q s = if K c = 0 ∨ q = 0 then (f.nanBits, flagNV) else (f.sign neg + f.infBits, 0)) ∧
     (nan s → (dqn4Element c q s).1 = f.nanBits)))

/-- R101, R103: `DCLSET` and `SYLSET`: range, then alignment, then the checks of the image, all before anything is written;
then the whole table, or the pattern, is replaced.

R102, R104: loads through the current entry, min(ITER of `lc1`, 15).  The checks of `VLD` come first; `VLDP`, and `VLDD`
under SYLEN 0 and SCALE 0, load plain vectors; the other forms read what R104 names, and then give their lanes. -/
def Obligations.Declension : Prop :=
  (∀ (s : State) (g : Guard) (p : Fin 16) (a : GReg), s.executes (metaG 0x14 g [] [a]) →
     let m := metaG 0x14 g [] [a]
     let ea := (s.g a).toNat % poolSize s.kind
     let bad := fun (e : Nat) =>
       let f := fun lo n => e / 2 ^ lo % 2 ^ n
       f 116 12 ≠ 0 ∨ f 84 12 ≠ 0 ∨ f 52 12 ≠ 0 ∨ f 14 2 ≠ 0 ∨ f 6 2 ≠ 0 ∨ 19 ≤ f 0 5 ∨ f 12 2 = 3 ∨
       (f 5 1 = 1 ∧ (f 12 2 ≠ 0 ∨ ¬(1 ≤ f 0 5 ∧ f 0 5 ≤ 9 ∨ f 0 5 = 18))) ∨ (f 12 2 = 1 ∧ f 0 5 ≠ 13) ∨
       (f 12 2 = 2 ∧ (f 0 5 ∈ [0, 13, 18] ∨ f 16 16 = 0))
     let badPattern := fun (x : Nat) =>
       let f := fun lo n => x / 2 ^ lo % 2 ^ n
       f 8 56 ≠ 0 ∨ ∃ j ≤ f 4 4, f (76 + 16 * j) 4 ≠ 0 ∨ 8 * (f 0 4 + 1) < f (64 + 16 * j) 7 + f (71 + 16 * j) 4 + 1
     let checks := fun (i : Instr) (n align : Nat) (bad : Nat → Prop) (set : Nat → State → State) =>
       (s.accEnd s.myCore < ea + n → exec i s = s.traps m { cause := .localRange, addr := Word.of ea }) ∧
       (ea + n ≤ s.accEnd s.myCore → ea % align ≠ 0 → exec i s = s.traps m { cause := .misalign, addr := Word.of ea }) ∧
       (ea + n ≤ s.accEnd s.myCore → ea % align = 0 → s.loadBad ea n = false →
         let x := (s.loadLocal ea n).1
         (bad x → exec i s = s.traps m { cause := .illegal }) ∧
         (¬bad x → exec i s = s.completes m (set x (s.loadLocal ea n).2)))
     checks (.dclset g a) 256 16 (fun x => ∃ i < 16, bad (lane x 128 i)) (fun x s' => s'.modTh (fun t =>
       { t with decl := Vector.ofFn (fun i => BitVec.ofNat 128 (lane x 128 i)) })) ∧
     checks (.sylset g p a) 40 8 badPattern (fun x s' => s'.modTh (fun t => { t with syl := t.syl.set p (BitVec.ofNat 512 x) }))) ∧
  (∀ (s : State) (g : Guard) (d : VField) (a : GReg) (off : BitVec 6) (disp : BitVec 32) (dbl : Bool), (s.core s.myCore).poisoned = [] →
     let m : Meta := { major := 0x15, guard := g, words := if dbl then 2 else 1, reads := gs [a], writes := vs [d], vfields := [d] }
     let ea := (s.g a + if dbl then disp.signExtend 64 else 32 * off.signExtend 64).toNat % 2 ^ 20
     let e := (s.src.decl[min ((s.src.lccnt[1]).toNat / 2 ^ 32) 15]'(by omega)).toNat
     let f := fun lo n => e / 2 ^ lo % 2 ^ n
     let bytes := s.vecBits / 8
     let vldd : Instr := if dbl then .vlddDw g d a disp else .vldd g d a off
     let vldp : Instr := if dbl then .vldpDw g d a disp else .vldp g d a off
     let plain := fun (t : Tag) => s.completes m ((s.loadLocal ea bytes).2.setVec d (s.loadLocal ea bytes).1 t)
     let lanes := fun (t : Tag) (reads : List (Nat × Nat)) (n : Nat) (val : List Nat → Nat → Lane) =>
       (∀ x ∈ reads, x.1 + x.2 ≤ s.accEnd s.myCore) → ∃ xs s' r fl, s.rawLoads reads = .ok (xs, s') ∧
         exec vldd s = s.completes m ((s'.setVec d r t).orFlags fl) ∧
         ∀ k < n, lane r t.width k = (val xs k).1 % 2 ^ t.width
     let sbase := f 64 20
     s.executes m → ∀ t, Machine.tagOf (f 0 5) = some t →
       (s.accEnd s.myCore < ea + bytes → ∀ i ∈ [vldd, vldp], exec i s = s.traps m { cause := .localRange, addr := Word.of ea }) ∧
       (ea + bytes ≤ s.accEnd s.myCore → ea % 32 ≠ 0 → ∀ i ∈ [vldd, vldp], exec i s = s.traps m { cause := .misalign, addr := Word.of ea }) ∧
       (ea + bytes ≤ s.accEnd s.myCore → ea % 32 = 0 →
         exec vldp s = plain t ∧
         (f 5 1 = 0 → f 12 2 = 0 → exec vldd s = plain t) ∧
         (f 5 1 = 0 → f 12 2 = 1 →
           let el := fun k => (ea + 2 ^ 20 - f 32 20) % 2 ^ 20 * 2 + k
           lanes .f32 ((ea, s.vecBits / 64) :: (List.range (s.vecBits / 32)).flatMap (fun k =>
               [((sbase + el k / 64) % 2 ^ 20, 1), ((f 96 20 + 4 * (el k / 64 / 256)) % 2 ^ 20, 4)])) (s.vecBits / 32)
             (fun xs k => dqn4Element (lane (xs.getD 0 0) 4 k) (xs.getD (2 * k + 1) 0) (xs.getD (2 * k + 2) 0))) ∧
         (f 5 1 = 0 → f 12 2 = 2 → 0 < f 16 16 →
           let el := fun k => (ea + 2 ^ 20 - f 32 20) % 2 ^ 20 * 8 / t.width + k
           lanes .f32 ((ea, s.vecBits / 32 * t.width / 8) :: (List.range (s.vecBits / 32)).map (fun k =>
               ((sbase + 4 * (el k / f 16 16)) % 2 ^ 20, 4))) (s.vecBits / 32)
             (fun xs k => f32Fmt.deliver .rne false
               ((laneVal t (lane (xs.getD 0 0) t.width k)).mul (f32Fmt.val (xs.getD (k + 1) 0))).1)) ∧
         (f 5 1 = 1 →
           let p := (s.src.syl[f 8 4 % 16]'(by omega)).toNat
           let fc := p / 16 % 16 + 1
           let period := 8 * (p % 16 + 1)
           let fld : Nat → Nat × Nat × Nat := fun j => (p / 2 ^ (64 + 16 * j) % 128, p / 2 ^ (71 + 16 * j) % 16 + 1, p / 2 ^ (75 + 16 * j) % 2)
           let n := s.vecBits / t.width
           ((∃ j < fc, t.width < (fld j).2.1) → exec vldd s = s.traps m { cause := .tagMismatch }) ∧
           ((∀ j < fc, (fld j).2.1 ≤ t.width) →
             lanes t [(ea, (n + fc - 1) / fc * (period / 8))] n (fun xs k =>
               let h := fld (k % fc)
               let v := xs.getD 0 0 / 2 ^ (k / fc * period + h.1) % 2 ^ h.2.1
               ((if h.2.2 = 1 ∧ 2 ^ (h.2.1 - 1) ≤ v then v + 2 ^ t.width - 2 ^ h.2.1 else v : Nat), 0))))))

/-! ## Memory (R137–R152) -/

/-- R144, R147, R150: an address that a TLB entry covers is checked against the leaf's W, X and U bits, and against what the
access needs of TOL and RED; its physical address is the frame, aligned to the leaf's size, with the offset below it; on a
tolerant page it is that of the element's two bytes (R92).  One of sixteen leaves that make one translation is a leaf of 4 KiB
all the same (R148).  Another module's DRAM is translated by that module's ingress translator, and a write to a page of it with
PIN = 0 is refused; which module's DRAM an address names is the model's choice (log 30).  Without an entry, a walk that has
failed for the requester gives its cause, and otherwise a walk is needed.

R144, R146–R149, R374: what one read of a walk comes to: the walk fails, or descends and the walk cache holds the entry, or
ends in a leaf: the TLB holds it, and in one step A is set in it, and D where the walk serves a write that passes, the checks
of TOL, RED and PIN among them.  A leaf of a
group of sixteen that makes one translation gives a 64 KiB entry (R148). -/
def Obligations.TranslationAndWalks : Prop :=
  (∀ (s : State) (x : Miss) (sup : Bool) (acc : Access),
     let home := if x.own then moduleOfCore x.core else s.homeOf (moduleOfCore x.core) x.part x.va
     let q := if home = moduleOfCore x.core then quadOfCore x.core else ingressQuad home
     let hit := tlbHit (s.quad q).tlb (s.partition home x.part).asid x.va
     (∀ e, hit = some e →
       let ok := (acc = .write → bit e.pte 1 = true) ∧ (acc = .fetch → bit e.pte 2 = true) ∧ (sup = false → bit e.pte 3 = true) ∧
         (x.tol = false → bit e.pte 10 = false) ∧ (∀ r, x.red = some r → bit e.pte 11 = r)
       let pinned := home = moduleOfCore x.core ∨ acc ≠ .write ∨ bit e.pte 9 = true
       (¬ok → s.translate x sup acc = .fault .pageProt 0) ∧
       (ok → ¬pinned → s.translate x sup acc = .fault .remoteFault 3) ∧
       (ok → pinned → ∃ p, s.translate x sup acc = .ok p ∧ p.m = home ∧ (∀ b < 12, p.pte.getLsbD b = e.pte.getLsbD b) ∧
         let size := if e.size = 16 then 12 else e.size
         let off := x.va % 2 ^ size
         let frame := e.pte.toNat / 2 ^ 12 + if e.size = 16 then x.va / 2 ^ 12 % 16 else 0
         let base := frame % 2 ^ 40 * 2 ^ 12
         p.pa = base - base % 2 ^ size + if bit e.pte 10 then 2 * (off / 4) else off)) ∧
     (hit = none →
       (∀ c, s.walks.findSome? (fun w => if w.req == x.req && w.va / 4096 == x.va / 4096 then w.failed else none) = some c →
         s.translate x sup acc = .fault c 0) ∧
       ((∀ w ∈ s.walks, w.req = x.req → w.va / 4096 = x.va / 4096 → w.failed = none) → s.translate x sup acc = .miss))) ∧
  (∀ (s : State) (id : Nat) (w : Walk), s.walks.find? (fun x => x.id == id && x.failed.isNone) = some w →
     let pa := w.table * 4096 + 8 * (w.va / 2 ^ (12 + 9 * (w.level - 1)) % 512)
     pa < 2 ^ 42 → (s.module w.module).poisoned = [] → s.mem.wf = true →
     let e := s.dramNat w.module pa 8
     let f := fun lo n => e / 2 ^ lo % 2 ^ n
     let leaf := w.level = 1 ∨ f 7 1 = 1 ∧ (w.level = 2 ∨ w.level = 3)
     let reserved := f 63 1 = 1 ∨ f 52 7 ≠ 0 ∨ f 7 1 = 1 ∧ 4 ≤ w.level ∨
       leaf ∧ (w.level = 2 ∧ f 12 9 ≠ 0 ∨ w.level = 3 ∧ f 12 18 ≠ 0 ∨ 2 ≤ w.level ∧ f 8 1 = 1 ∨ f 10 1 = 1 ∧ f 11 1 = 1)
     let writes := w.write = true ∧ f 1 1 = 1 ∧ (w.sup = true ∨ f 3 1 = 1) ∧ (w.tol = true ∨ f 10 1 = 0) ∧
       (∀ r, w.red = some r → (r = true ↔ f 11 1 = 1)) ∧ (w.peer = false ∨ f 9 1 = 1)
     let e' := if writes then e ||| 2 ^ 6 else e
     let fails := fun (c : Cause) => exec (.pageWalkRead id) s = .next { s.readAt w.module pa 8 false with
       walks := s.walks.map (fun x => if x.id = w.id then { w with failed := some c } else x) }
     (f 0 1 = 0 → fails .pageFault) ∧ (f 0 1 = 1 → reserved → fails .pteReserved) ∧
     (f 0 1 = 1 → ¬reserved → ¬leaf → ∃ t : State, exec (.pageWalkRead id) s = .next t ∧ t.mem = s.mem ∧
       t.walks = s.walks.map (fun x => if x.id = w.id then { w with level := w.level - 1, table := f 12 40 } else x) ∧
       walkHit (t.quad w.quad).walkCache w.asid w.level w.va = some { asid := w.asid, level := w.level, base := w.va / 2 ^ (12 + 9 * (w.level - 1)), frame := f 12 40 } ∧
       t.agenda = s.agenda ++ [.pageWalkRead w.id]) ∧
     (f 0 1 = 1 → ¬reserved → leaf → ∃ t : State, exec (.pageWalkRead id) s = .next t ∧
       t.walks = s.walks.filter (fun x => x.id != w.id) ∧ t.dramNat w.module pa 8 = e' ||| 2 ^ 5 ∧
       let group := (List.range 16).map (fun i => Word.of (t.dramNat w.module (pa - 8 * (w.va / 4096 % 16) + 8 * i) 8))
       (¬(w.level = 1 ∧ f 8 1 = 1 ∧ ctGroup group = true) →
         tlbHit (t.quad w.quad).tlb w.asid w.va = some { asid := w.asid, base := w.va / 2 ^ (12 + 9 * (w.level - 1)), size := 12 + 9 * (w.level - 1), pte := Word.of e', leaf := pa }) ∧
       (w.level = 1 ∧ f 8 1 = 1 ∧ ctGroup group = true → ∃ x, tlbHit (t.quad w.quad).tlb w.asid w.va = some x ∧
         x.asid = w.asid ∧ x.base = w.va / 2 ^ 16 ∧ x.size = 16 ∧ pteFrame x.pte = pteFrame (group.getD 0 0) ∧
         ∀ b < 12, b ≠ 6 → x.pte.getLsbD b = e.testBit b)))

/-- R142: `CCLEAN` and `CINV` on a translated address.  A line that the issuing quad's cache holds is written back, byte by byte
where it is dirty; it stays, clean, or goes.  An absent line, an MS or reduction page and another module's memory, whose lines
this cache never holds, are left alone; a non-DRAM form traps.

R150, R151: `TLBINV`, which is privileged: the generation advances, the matching entries of every TLB and walk cache of the
module go, its walks begin again, those that had failed with a read of their own, and the thread waits while an older request
has yet to be accepted.

R54, R55, R137–R139, R152: the events of the caches, the trackers and the scrubbers: what each does at the moment at which it
takes place, which is the model's choice (log 20).  A cluster cache serves an instruction fill with a line that it holds; under a
leaf with MS = 1 the fill reads DRAM all the same, and no cluster cache takes the line. -/
def Obligations.CachesAndTlbs : Prop :=
  (∀ (s : State) (g : Guard) (a : GReg), s.executes (metaG 0x13 g [] [a]) →
     let m := metaG 0x13 g [] [a]
     ((∀ va, addrForm (s.g a) ≠ .dram va) → ∀ i ∈ [Instr.cclean g a, .cinv g a],
       exec i s = s.traps m { cause := .pageFault, sub := 1, addr := s.g a }) ∧
     (∀ va p, addrForm (s.g a) = .dram va →
       s.translate { req := reqThread s.cur, core := s.myCore, part := s.partOfThread s.cur, va, sup := s.src.sup } s.src.sup .read = .ok p →
       let aside := bit p.pte 4 = true ∨ bit p.pte 11 = true ∨ p.m ≠ s.myModule
       ((aside ∨ s.cacheLine s.myQuad p.pa = none) → ∀ i ∈ [Instr.cclean g a, .cinv g a],
         exec i s = s.completes m s) ∧
       (∀ l, ¬aside → s.cacheLine s.myQuad p.pa = some l → l.bad = 0 → s.mem.wf = true →
         ∃ t u, exec (.cclean g a) s = s.completes m t ∧ exec (.cinv g a) s = s.completes m u ∧
           t.cacheLine s.myQuad p.pa = some (if l.dirty = 0 then l else { l with dirty := 0, flip := 0 }) ∧
           u.cacheLine s.myQuad p.pa = none ∧ u.mem = t.mem ∧
           ∀ i < 64, t.dramByte s.myModule (64 * l.line + i) =
             if l.dirty.getLsbD i then BitVec.ofNat 8 (l.data.toNat / 2 ^ (8 * i)) else s.dramByte s.myModule (64 * l.line + i)))) ∧
  (∀ (s : State) (g : Guard) (a b : GReg),
     let m : Meta := { metaG 0x13 g [] [a, b] with priv := true }
     let x := s.g b
     let gen := (s.module s.myModule).gen
     s.executes m → s.src.granted = false → s.tlbinvBusy s.myModule = false →
       (x.getLsbD 12 = false → (∀ va, addrForm (s.g a) ≠ .dram va) →
         exec (.tlbinv g a b) s = s.traps m { cause := .pageFault, sub := 1, addr := s.g a }) ∧
       ((x.getLsbD 12 = true ∨ ∃ va, addrForm (s.g a) = .dram va) → ∃ t : State,
         exec (.tlbinv g a b) s = (if t.oldRequests s.myModule then s.waitsIn m (.tlbinv gen.toNat) t else s.completes m t) ∧
         (t.module s.myModule).gen = gen + 1 ∧ t.mem = s.mem ∧
         t.walks.map (fun w => w.id) = s.walks.map (fun w => w.id) ∧
         (∀ w ∈ t.walks, w.module = s.myModule → w.failed = none ∧ w.asid = (s.partition w.module w.part).asid ∧
           (w.level, w.table) = walkStart (t.quad w.quad).walkCache w.asid (s.partition w.module w.part).root w.va) ∧
         (∀ w ∈ s.walks, w.module = s.myModule → w.failed.isSome = true → Instr.pageWalkRead w.id ∈ t.agenda) ∧
         ∀ q, (moduleOfQuad q ≠ s.myModule → t.quad q = s.quad q) ∧
           (moduleOfQuad q = s.myModule →
             (∀ e, e ∈ (t.quad q).tlb ↔ e ∈ (s.quad q).tlb ∧
               ¬((x.getLsbD 13 = true ∨ e.asid = x.toNat % 2 ^ 12) ∧ (x.getLsbD 12 = true ∨ e.base = (s.g a).toNat / 2 ^ e.size))) ∧
             (∀ e, e ∈ (t.quad q).walkCache ↔ e ∈ (s.quad q).walkCache ∧ ¬(x.getLsbD 13 = true ∨ e.asid = x.toNat % 2 ^ 12))))) ∧
  (∀ (s : State), s.mem.wf = true →
     (∀ quad line l, (s.quad quad).cache.find? (fun x => x.line == line) = some l →
       ∃ t : State, exec (.clusterCacheEviction quad line) s = .next t ∧ t.cacheLine quad (64 * line) = none ∧
         (∀ i < 64, t.dramByte (moduleOfQuad quad) (64 * line + i) =
           if l.dirty.getLsbD i then BitVec.ofNat 8 (l.data.toNat / 2 ^ (8 * i)) else s.dramByte (moduleOfQuad quad) (64 * line + i)) ∧
         (∀ i < 8, l.bad.getLsbD i = true → l.dirty.toNat / 2 ^ (8 * i) % 256 ≠ 0 →
           t.dramBad (moduleOfQuad quad) (64 * line + 8 * i) 8 = true ∧ t.reqs.length = s.reqs.length + 1) ∧
         ((∀ i < 8, l.bad.getLsbD i = true → l.dirty.toNat / 2 ^ (8 * i) % 256 = 0) → t.reqs = s.reqs)) ∧
     (∀ quad line, (∀ l ∈ (s.quad quad).cache, l.line ≠ line) → exec (.clusterCacheEviction quad line) s = .next s) ∧
     (∀ chan, let cands := (s.module (chan / 2048)).hot.getD (chan % 2048) []
       ∃ t : State, exec (.hotPageEpoch chan) s = .next t ∧ (t.module (chan / 2048)).hot.getD (chan % 2048) [] = [] ∧
         (t.module (chan / 2048)).pinnedFrames.getD (chan % 2048) [] = [] ∧
         (cands = [] → t.reqs = s.reqs) ∧
         (cands ≠ [] → ∃ r e bs, t.reqs = s.reqs ++ [r] ∧ r.body = .message 0 1 bs ∧ e ∈ cands ∧ (∀ f ∈ cands, f.2 ≤ e.2) ∧
           bs.take 12 = bytesOf 8 (e.1 * 2 ^ 16) ++ bytesOf 4 e.2)) ∧
     (∀ core word, word ∈ (s.core core).flipped → (∀ i < 8, s.flippedIn core i word = []) →
       ∃ t : State, exec (.poolScrub core word) s = .next t ∧ t.mem = s.mem ∧
         (t.core core).flipped = (s.core core).flipped.filter (fun w => w != word) ∧
         (t.die (dieOfCore core)).poolc.toNat = min ((s.die (dieOfCore core)).poolc.toNat + 1) (2 ^ 32 - 1)) ∧
     (∀ core word, ∃ t : State, exec (.poolScrub core word) s = .next t ∧ t.mem = s.mem ∧ word ∉ (t.core core).flipped ∧
       ∀ i < 8, ∀ r ∈ s.flippedIn core i word, r ∉ (t.thread (8 * core + i)).flipRegs) ∧
     (∀ core word, word ∉ (s.core core).flipped → (∀ i < 8, s.flippedIn core i word = []) →
       exec (.poolScrub core word) s = .next s) ∧
     (∀ quad line, (s.module (moduleOfQuad quad)).poisoned = [] →
       (∀ q, dieOfQuad q = dieOfQuad quad → s.heldForFetch q line = none ∧ ∀ l ∈ (s.quad q).cache, l.dirty = 0) →
       let data := BitVec.ofNat 512 (s.dramNat (moduleOfQuad quad) (64 * line) 64)
       ∃ t : State, exec (.fetchMissFill quad line) s = .next t ∧ t.mem = s.mem ∧
         (∀ q, q = quad ∨ (dieOfQuad q = dieOfQuad quad ∧ Instr.fetchMissFill q line ∈ s.agenda) →
           (t.quad q).icache.head? = some { line, data } ∧
           ((s.askOf q line).ms = false → ∃ l, t.cacheLine q (64 * line) = some l ∧ l.data = data ∧ l.dirty = 0 ∧
             l.w = (s.askOf q line).w)) ∧
         ∀ q, dieOfQuad q = dieOfQuad quad → Instr.fetchMissFill q line ∉ t.agenda) ∧
     (∀ quad line, s.joinedFetch (dieOfQuad quad) line = [] → (s.askOf quad line).ms = true →
       (s.module (moduleOfQuad quad)).poisoned = [] →
       ∃ t : State, exec (.fetchMissFill quad line) s = .next t ∧ t.mem = s.mem ∧ (t.quad quad).cache = (s.quad quad).cache ∧
         (t.quad quad).icache.head? = some { line, data := BitVec.ofNat 512 (s.dramNat (moduleOfQuad quad) (64 * line) 64) }) ∧
     (∀ quad line h, s.joinedFetch (dieOfQuad quad) line = [] → (s.askOf quad line).ms = false →
       s.heldForFetch quad line = some h →
       ∃ t : State, exec (.fetchMissFill quad line) s = .next t ∧ t.mem = s.mem ∧
         (t.quad quad).icache.head? = some { line, data := h.data, bad := h.bad != 0 } ∧ t.modules = s.modules))

/-! ## Transfers (R153–R180) -/

/-- R153, R156, R159, R173: a block transfer captures its operands and joins its channel's queue, behind the entries that are
there; a full queue, or a chain that runs, holds it back.  A single-word form goes to channel 0 and is checked for its far
address, its detachment and its local range; a double-word form also as its extension word asks.

R175: `DZERO` and `DCOPY` take DRAM addresses and a length in whole KiB, and join their channel's queue. -/
def Obligations.TransferIssue : Prop :=
  (∀ (s : State) (g : Guard) (look : Fin 16) (d a b : GReg) (ext : BitVec 32),
     let ent := fun (kind : EntryKind) (ext : BitVec 32) => s.capture kind ext (s.g d) (s.g a) (s.g b)
     let queued := fun (e : Entry) =>
       (s.modChan s.myCore (extCh e.ext) (fun k => { k with queue := k.queue ++ [e] })).emit (.channelEntryStart s.myCore (extCh e.ext))
     let la := (s.g d).toNat % 2 ^ 32 % poolSize s.kind
     let len := (s.g d).toNat / 2 ^ 32
     let away := match addrForm (s.g a) with
       | .window _ _ => s.src.tdet = true ∨ (s.core s.myCore).team.any (fun t => t.mdet) = true
       | _ => False
     let ops := [(Instr.draw g look d a b, Instr.drawDw g look d a b ext, 0x24, EntryKind.draw),
       (.stow g look d a b, .stowDw g look d a b ext, 0x24, .stow), (.draws g look d a b, .drawsDw g look d a b ext, 0x25, .draws),
       (.stows g look d a b, .stowsDw g look d a b ext, 0x25, .stows)]
     ∀ o ∈ ops,
       (let m := metaL o.2.2.1 g look [] [d, a, b]
        let k := s.chan s.myCore 0
        s.executes m →
         ((16 ≤ k.queue.length ∨ k.running = true) → exec o.1 s = .next (s.finish m (.again none))) ∧
         (k.queue.length < 16 → k.running = false →
           (addrForm (s.g a) = .nonCanonical → exec o.1 s = s.traps m { cause := .pageFault, sub := 1, addr := s.g a }) ∧
           (addrForm (s.g a) ≠ .nonCanonical → away → exec o.1 s = s.traps m { cause := .pluralDetached, addr := s.g a }) ∧
           (addrForm (s.g a) ≠ .nonCanonical → ¬away → 0 < len → s.accEnd s.myCore < la + len →
             exec o.1 s = s.traps m { cause := .localRange, addr := Word.of la }) ∧
           (addrForm (s.g a) ≠ .nonCanonical → ¬away → (len = 0 ∨ la + len ≤ s.accEnd s.myCore) →
             exec o.1 s = s.completes m (queued (ent o.2.2.2 0))))) ∧
       (let m := metaL o.2.2.1 g look [] [d, a, b] 2
        let k := s.chan s.myCore (extCh ext)
        s.executes m →
         ((16 ≤ k.queue.length ∨ k.running = true) → exec o.2.1 s = .next (s.finish m (.again none))) ∧
         (k.queue.length < 16 → k.running = false →
           (∀ t, s.blockCheck s.myCore (ent o.2.2.2 ext) s.src.tdet = some t → exec o.2.1 s = s.traps m t) ∧
           (s.blockCheck s.myCore (ent o.2.2.2 ext) s.src.tdet = none → exec o.2.1 s = s.completes m (queued (ent o.2.2.2 ext)))))) ∧
  (∀ (s : State) (g : Guard) (look : Fin 16) (d a b : GReg) (ext : BitVec 32) (dbl copy : Bool),
     let x : BitVec 32 := if dbl then ext else 0
     let src : Word := if copy then s.g a else 0
     let e := s.capture (if copy then .dcopy else .dzero) x (s.g d) src (s.g b)
     let i : Instr := if copy then (if dbl then .dcopyDw g look d a b ext else .dcopy g look d a b)
       else if dbl then .dzeroDw g look d b ext else .dzero g look d b
     let m := metaL 0x26 g look [] (if copy then [d, a, b] else [d, b]) (if dbl then 2 else 1)
     let dram := fun (w : Word) => ∃ va, addrForm w = .dram va
     let k := s.chan s.myCore (extCh x)
     s.executes m → k.queue.length < 16 → k.running = false →
       (¬dram (s.g d) → exec i s = s.traps m { cause := .pageFault, sub := 1, addr := s.g d }) ∧
       (dram (s.g d) → copy = true → ¬dram (s.g a) → exec i s = s.traps m { cause := .pageFault, sub := 1, addr := s.g a }) ∧
       (dram (s.g d) → (copy = true → dram (s.g a)) →
         ((s.g d).toNat % 1024 ≠ 0 → exec i s = s.traps m { cause := .misalign, addr := s.g d }) ∧
         ((s.g d).toNat % 1024 = 0 → copy = true → (s.g a).toNat % 1024 ≠ 0 →
           exec i s = s.traps m { cause := .misalign, addr := s.g a }) ∧
         ((s.g d).toNat % 1024 = 0 → (copy = true → (s.g a).toNat % 1024 = 0) →
           ((s.g b).toNat % 2 ^ 32 % 1024 ≠ 0 → exec i s = s.traps m { cause := .misalign, addr := s.g d }) ∧
           ((s.g b).toNat % 2 ^ 32 % 1024 = 0 → exec i s = s.completes m
             ((s.modChan s.myCore (extCh x) (fun k => { k with queue := k.queue ++ [e] })).emit
               (.channelEntryStart s.myCore (extCh x)))))))

/-- R163, R165, R172, R173: the instructions of major 0x27: `CHAIN` points an idle channel at a chain, `KICK` starts or asks
again for it, `CPOST` bumps a counter, and `CWAIT` and `WPWAIT` complete once their counter or pointer is there, and wait
until then.

R154, R155, R160–R162, R171: the events of a channel: an entry starts, beside one that still moves its bytes; it completes with
its bumps, or faults, which freezes the channel's stream where the target has refused it; a remote bump is applied to its
counter or refused; a fault is resumed, with the held bump sent again, or its entry aborted; a chain, read after the stores
that the linking thread had issued before `CHAIN`, parks at its end, or checks its next entry, waits for it under WEN and
performs it.  That an entry which waits is read anew at each look is the model's choice (log 9). -/
def Obligations.Channels : Prop :=
  (∀ (s : State) (g : Guard) (a b : GReg) (n : Fin 4) (cc : Fin 16),
     let m2 := metaG 0x27 g [] [a, b]
     let m1 := metaG 0x27 g [] [a]
     let m0 := metaG 0x27 g [] []
     let core := s.core s.myCore
     let x := (s.g a).toNat
     (s.executes m2 →
       let la := x % 2 ^ 20
       let c : Fin 4 := Fin.ofNat 4 ((s.g b).toNat % 4)
       (s.accEnd s.myCore < la + 64 → exec (.chain g a b) s = s.traps m2 { cause := .localRange, addr := Word.of la }) ∧
       (la + 64 ≤ s.accEnd s.myCore → la % 64 ≠ 0 → exec (.chain g a b) s = s.traps m2 { cause := .misalign, addr := Word.of la }) ∧
       (la + 64 ≤ s.accEnd s.myCore → la % 64 = 0 → (core.chans[c].queue ≠ [] ∨ core.chans[c].running = true) →
         exec (.chain g a b) s = .next (s.finish m2 (.again none))) ∧
       (la + 64 ≤ s.accEnd s.myCore → la % 64 = 0 → core.chans[c].queue = [] → core.chans[c].running = false →
         exec (.chain g a b) s = s.completes m2 (s.modCore s.myCore (fun k => { k with
           chans := k.chans.set c { k.chans[c] with cpos := la, chn := true, linker := threadIndex s.cur, linkTick := s.tick } })))) ∧
     (s.executes m0 → (s.thread s.cur).stores = [] →
       (core.chans[n].chn = false → exec (.kick g n) s = s.completes m0 s) ∧
       (core.chans[n].chn = true → ∃ t : State, exec (.kick g n) s = s.completes m0 t ∧
         (t.core s.myCore).chans[n] = { core.chans[n] with
           kicker := s.cur, ksup := s.src.sup, running := true, kreq := core.chans[n].kreq || core.chans[n].running } ∧
         t.agenda = s.agenda ++ (if core.chans[n].running then [] else [.chainEntryStep s.myCore n.val]))) ∧
     (s.executes m1 →
       (let r := (core.cc[cc].toNat + 2 ^ 32 - x % 2 ^ 32) % 2 ^ 32 < 2 ^ 31
        (s.src.granted = true ∨ r → exec (.cwait g cc a) s = s.completes m1 s) ∧
        (s.src.granted = false → ¬r → exec (.cwait g cc a) s = s.waitsIn m1 (.counter cc (x % 2 ^ 32)) s)) ∧
       (let r := x ≤ core.wp[n].toNat
        (s.src.granted = true ∨ r → exec (.wpwait g n a) s = s.completes m1 s) ∧
        (s.src.granted = false → ¬r → exec (.wpwait g n a) s = s.waitsIn m1 (.writePointer n x) s)) ∧
       ((s.thread s.cur).stores = [] → exec (.cpost g cc a) s = s.completes m1 (s.modCore s.myCore (fun k => { k with
         cc := k.cc.set cc (k.cc[cc] + BitVec.ofNat 32 (x % 2 ^ 32)) }))))) ∧
  (∀ (s : State) (core : Nat) (c : Fin 4),
     let k := s.chan core c
     (∀ e es, k.fault = none → k.stopping = false → k.queue = e :: es → e.started = false →
       ∃ t : State, exec (.channelEntryStart core c.val) s = .next t ∧ (t.chan core c).queue = { e with started := true } :: es ∧
         t.agenda = s.agenda ++ [e.nextEvent core c.val, .channelEntryStart core c.val]) ∧
     (∀ d e es, k.fault = none → k.stopping = false → k.queue = d :: e :: es → d.started = true → e.started = false → e.len ≠ 0 →
       (d.streamed = false ∨ e.streamed = false → ∃ t : State, exec (.channelEntryStart core c.val) s = .next t ∧
         (t.chan core c).queue = d :: { e with started := true } :: es) ∧
       (d.streamed = true → e.streamed = true → exec (.channelEntryStart core c.val) s = .next s)) ∧
     ((k.fault ≠ none ∨ k.stopping = true) → exec (.channelEntryStart core c.val) s = .next s) ∧
     (∀ e es, k.fault = none → k.queue = e :: es → e.started = true → e.len ≤ e.done →
       (∀ l ∈ (s.quad (quadOfCore core)).cache, l.bad = 0) →
       ∃ t : State, exec (.entryComplete core c.val) s = .next t ∧ (t.chan core c).queue = es ∧
         (t.core core).cc = (if extLe e.ext then (s.core core).cc.set (extLcc e.ext % 16) ((s.core core).cc[extLcc e.ext % 16] + 1)
           else (s.core core).cc) ∧
         (e.bumpsRemote = false → t.reqs = s.reqs) ∧
         (e.bumpsRemote = true → ∃ r, t.reqs = s.reqs ++ [r] ∧ r.src = core ∧ r.stream = some (12 + c.val) ∧ r.ea = e.opb ∧
           r.body = .bump (extRcc e.ext) (some (c.val, e.len, e.chained)))) ∧
     (∀ cause sub addr, k.fault = none → ∃ t : State, exec (.channelFault core c.val cause sub addr) s = .next t ∧
       (t.chan core c).fault = some { cause, sub, addr := Word.of addr } ∧ (t.chan core c).queue = k.queue ∧
       (k.refuser = none → (t.core core).frozen = (s.core core).frozen) ∧
       (∀ x, k.refuser = some x → (t.core core).frozen.getLsbD (12 + c.val) = true) ∧
       ((s.thread k.owner).alive = true → (t.thread k.owner).pending =
         (s.thread k.owner).pending ++ [{ cause, sub, origin := 1, unit := c.val, addr := Word.of addr }])) ∧
     (∀ e es, k.queue = e :: es → k.blame = 0 → k.owner = if e.chained then k.kicker else e.tid) ∧
     (∀ id r n ch off, s.req? id = some r → r.body = .bump n ch → s.mayGo r = true → r.part ≠ none →
       addrForm r.ea = .core core off →
       (∀ tm, s.partOfCore core = r.part → (s.core core).team = some tm → tm.part = r.part →
         s.blockedWay (dieOfCore r.src) (dieOfCore core) = none →
         ∃ t : State, exec (.remoteBumpArrival id) s = .next t ∧ t.req? id = none ∧
           (t.core core).cc = (s.core core).cc.set (n % 16) ((s.core core).cc[n % 16] + 1)) ∧
       (∀ ch' len chained, ch = some (ch', len, chained) → s.partOfCore core ≠ r.part →
         s.blockedWay (dieOfCore core) (dieOfCore r.src) = none →
         ∃ t : State, exec (.remoteBumpArrival id) s = .next t ∧ t.req? id = none ∧
           (t.chan r.src (Fin.ofNat 4 ch')).fault = some { cause := .remoteFault, sub := 1, addr := r.ea, bump := true } ∧
           (t.chan r.src (Fin.ofNat 4 ch')).held = some (r.tid, n, r.ea, len, chained))) ∧
     (∀ f, k.fault = some f →
       (∃ t : State, exec (.chstFaultResume core c.val) s = .next t ∧ (t.chan core c).fault = none ∧ (t.chan core c).held = none ∧
         (t.chan core c).queue = k.queue ∧
         (k.held = none → (∀ r ∈ s.reqs, r.src = core → r.stream ≠ some (12 + c.val)) → t.reqs = s.reqs) ∧
         ∀ tid n note len chained, k.held = some (tid, n, note, len, chained) → ∃ r rs, t.reqs = r :: rs ∧ r.tid = tid ∧
           r.ea = note ∧ r.first = true ∧ r.body = .bump n (some (c.val, len, chained)) ∧
           rs.map (fun x => x.id) = s.reqs.map (fun x => x.id)) ∧
       (∃ t : State, exec (.chstAbort core c.val) s = .next t ∧ (t.chan core c).fault = none ∧ (t.chan core c).held = none ∧
         (t.chan core c).queue = if f.bump then k.queue else k.queue.eraseIdx k.blame)) ∧
     (k.running = true → k.fault = none → k.stopping = false → s.faultDue core c.val = false → k.queue = [] → k.cpos % 64 = 0 →
       k.cpos + 64 ≤ s.accEnd core →
       let u := s.drainThrough (k.reader core) (fun st => decide (st.born < k.linkTick))
       let at_ := fun o n => u.poolNat core (k.cpos + o) n
       (u.poolBad core k.cpos 4 = false → at_ 0 4 = 0 → ∃ t : State, exec (.chainEntryStep core c.val) s = .next t ∧
         (t.chan core c).running = k.kreq ∧ (t.chan core c).kreq = false) ∧
       (∀ kind, kindOfCode (at_ 0 4 % 16) = some kind → u.poolBad core k.cpos 64 = false →
         let e : Entry := { tid := k.kicker, kind, ext := BitVec.ofNat 32 (at_ 4 4), opd := Word.of (at_ 16 8),
                            opa := Word.of (at_ 24 8), opb := Word.of (at_ 32 8), accr := (u.thread k.kicker).accr,
                            sup := k.ksup, chained := true, started := true }
         let wen := at_ 0 4 / 16 % 2 = 1
         let reached := (((s.core core).cc[at_ 0 4 / 2 ^ 8 % 16]'(Nat.mod_lt _ (by decide))).toNat + 2 ^ 32 - at_ 8 4) % 2 ^ 32 < 2 ^ 31
         at_ 0 4 / 2 ^ 5 % 8 = 0 → at_ 0 4 / 2 ^ 12 = 0 → chainExtOk kind e.ext = true → at_ 12 4 < 2 ^ 20 → at_ 12 4 % 64 = 0 →
         at_ 12 4 + 64 ≤ s.accEnd core → u.poolBytes core (k.cpos + 40) 24 = List.replicate 24 0 →
         (∀ tr, u.entryCheck core e (u.thread k.kicker).tdet = some tr → ∃ t : State, exec (.chainEntryStep core c.val) s = .next t ∧
           (t.chan core c).queue = [] ∧ t.agenda = s.agenda ++ [.channelFault core c.val tr.cause tr.sub tr.addr.toNat]) ∧
         (u.entryCheck core e (u.thread k.kicker).tdet = none →
           (wen → ¬reached → exec (.chainEntryStep core c.val) s = .next (u.emit (.chainEntryStep core c.val))) ∧
           (wen → reached → ∃ t : State, exec (.chainEntryStep core c.val) s = .next t ∧ (t.chan core c).queue = [e]) ∧
           (¬wen → ∃ t : State, exec (.chainEntryStep core c.val) s = .next t ∧ (t.chan core c).queue = [e] ∧
             (t.chan core c).next = at_ 12 4 ∧ t.agenda = s.agenda ++ [e.nextEvent core c.val])))))

/-- R138, R140, R154, R159, R167, R169, R175–R177, R250, R370: the bytes that one event of a channel moves, and DONE.  Of a plain
transfer it reads `k` bytes after those that are carried, in one block of the grain, and of the `carry.length + k` bytes that it
then has it writes `n`, in one line of the destination and up to the end of an aligned 8 bytes there; the rest are carried.  The
pieces, their order and the grain are the model's choice (log 9).  The statement covers a piece from DRAM into the pool, one from
the pool to a page of memory-side units or into the cache line of a sub-page that the quad owns, one between two pools, a
landing of 32-bit integers, and a KiB cleared or copied once its cached lines are gone; packets and answers find their way open
(log 28).

R140: the table of write ownership.  With no owner of the page the quad gains all of it; its own sub-page it keeps; a sub-page
that its owner has not written moves; one that it has written becomes memory-side, and stays so until no cache of the module
holds a dirty line of the page. -/
def Obligations.TransferMoves : Prop :=
  (∀ (s : State) (core : Nat) (c : Fin 4) (e : Entry) (es : List Entry), s.mem.wf = true → s.faultDue core c.val = false →
     (s.chan core c).queue = e :: es → (s.chan core c).pick = 0 → (s.chan core c).blocked = none → e.started = true →
     (s.chan core c).fault = none → e.done < e.len →
     (∀ k, (s.core k).poisoned = [] ∧ (s.core k).trctl.getLsbD 63 = false ∧ ∀ p ∈ (s.core k).pub, p.getLsbD 63 = false) →
     (∀ m, (s.module m).poisoned = [] ∧ (s.module m).badBuffers = []) →
     let lbase := e.laddr core
     let la := lbase + e.done
     let q := quadOfCore core
     let here := dieOfCore core
     let moved := fun (t : State) (n : Nat) (rest : List Byte) =>
       (t.chan core c).queue = { e with done := e.done + n, carry := rest, cleared := false } :: es
     let at_ : Nat → Bool → Miss := fun va write =>
       { req := reqChannel core c.val, core, part := s.partOfThread e.tid, va, write, sup := e.sup, tol := e.land == 0
         red := if e.row then some false else if 3 ≤ e.land then some true else none }
     let goes := fun (p : Place) => s.blockedWay here (p.m * 16 + dieOfPa p.pa) = none
     let returns := fun (p : Place) => s.blockedWay (p.m * 16 + dieOfPa p.pa) here = none
     let src := if e.kind = .draw then e.opa.toNat else lbase
     let dst := if e.kind = .draw then lbase else e.opa.toNat
     let r := e.done + e.carry.length
     let hi := min e.len (r + (s.grain - (src + r) % s.grain))
     let k := hi - r
     let n := min (if hi = e.len then hi - e.done else hi - e.done - min (hi - e.done) ((dst + hi) % 8)) (64 - (dst + e.done) % 64)
     let mine := e.carry ++ s.poolBytes core (lbase + r) k
     r ≤ e.len →
     (e.kind = .draw ∨ e.kind = .stow → e.land = 0 → e.pub = false → ∀ va, addrForm e.opa = .dram va → va + e.len < 2 ^ 57 →
       (e.kind = .draw → 0 < k → ∀ p bs s', s.translate (at_ (va + r) false) e.sup .read = .ok p → goes p → returns p →
         s.farRead core p k = .ok (bs, s') → ∃ t : State, exec (.dramRequestAccept core c.val) s = .next t ∧
           moved t n ((e.carry ++ bs).drop n) ∧ ∀ i < n, i < (e.carry ++ bs).length → t.poolByte core (la + i) = (e.carry ++ bs).getD i 0) ∧
       (e.kind = .draw → k = 0 → ∃ t : State, exec (.dramRequestAccept core c.val) s = .next t ∧ moved t n (e.carry.drop n) ∧
         ∀ i < n, i < e.carry.length → t.poolByte core (la + i) = e.carry.getD i 0) ∧
       (e.kind = .stow → n = 0 → ∃ t : State, exec (.dramRequestAccept core c.val) s = .next t ∧ moved t 0 mine ∧ t.mem = s.mem) ∧
       (e.kind = .stow → 0 < n → ∀ p, s.translate (at_ (va + e.done) true) e.sup .write = .ok p → goes p → bit p.pte 10 = false →
         p.pa < 2 ^ 42 → p.pa % 64 + n ≤ 64 →
         (p.memside core = true → ∃ t : State, exec (.dramRequestAccept core c.val) s = .next t ∧ moved t n (mine.drop n) ∧
           ∀ i < n, t.dramByte p.m (p.pa + i) = mine.getD i 0) ∧
         (p.memside core = false →
           let o := s.ownership p.m p.pa
           let sub := p.pa / 4096 % 16
           let owned := ∃ x ∈ o.owners, x.1 = q ∧ x.2.1.getLsbD sub = true
           (o.memside.getLsbD sub = false → owned → ∃ (t : State) (l : CacheLine),
             exec (.dramRequestAccept core c.val) s = .next t ∧ moved t n (mine.drop n) ∧ t.cacheLine q p.pa = some l ∧
             ∀ i < n, l.dirty.getLsbD (p.pa % 64 + i) = true ∧
               BitVec.ofNat 8 (l.data.toNat / 2 ^ (8 * (p.pa % 64 + i))) = mine.getD i 0) ∧
           (o.memside.getLsbD sub = false → ¬owned → exec (.dramRequestAccept core c.val) s =
             .next ((s.emit (.ownershipDecision q p.pa)).emit (.dramRequestAccept core c.val)))))) ∧
     (∀ x o, (∀ a, addrForm e.opa ≠ .dram a) → e.kind = .draw ∨ e.kind = .stow → e.land = 0 → e.pub = false →
       let form := (addrForm e.opa).add (if e.kind = .draw then r else e.done)
       s.target core (s.partOfThread e.tid) form = .ok x → form.off = o → s.targetRange x form (if e.kind = .draw then k else n) = true →
         (e.kind = .draw → 0 < k → s.blockedWay (dieOfCore x) here = none → ∃ t : State,
           exec (.operationPacket core c.val) s = .next t ∧ moved t n ((e.carry ++ s.poolBytes x o k).drop n) ∧
             ∀ i < n, t.poolByte core (la + i) = (e.carry ++ s.poolBytes x o k).getD i 0) ∧
         (e.kind = .stow → 0 < n → ∃ t : State, exec (.operationPacket core c.val) s = .next t ∧ moved t n (mine.drop n) ∧
           ∀ i < n, t.poolByte x (o + i) = mine.getD i 0)) ∧
     (e.kind = .stow → e.land = 1 → e.len % 4 = 0 → e.opa.toNat % 4 = 0 → e.done % 4 = 0 →
       let va := e.opa.toNat + e.done
       let n := min (mine.length / 4) ((64 - va % 64) / 4)
       ∀ p, 0 < n → va < 2 ^ 57 → s.translate (at_ va true) e.sup .write = .ok p → goes p → bit p.pte 10 = false → bit p.pte 6 = true →
         p.pa < 2 ^ 42 → p.pa % 64 + 4 * n ≤ 64 → (s.ownership p.m p.pa).owners = [] → s.cacheLine q p.pa = none →
         ∃ t : State, exec (.landingPacket core c.val) s = .next t ∧ moved t (4 * n) (mine.drop (4 * n)) ∧
           ∀ i < n, t.dramNat p.m (p.pa + 4 * i) 4 =
             (s.dramNat p.m (p.pa + 4 * i) 4 + natOfBytes ((mine.drop (4 * i)).take 4)) % 2 ^ 32) ∧
     (e.row = true → ∀ p, e.opd.toNat + e.done < 2 ^ 57 → s.translate (at_ (e.opd.toNat + e.done) true) e.sup .write = .ok p → goes p →
       bit p.pte 10 = false → bit p.pte 11 = false → p.pa < 2 ^ 42 → p.pa % 1024 = 0 →
       let gone := fun (t : State) =>
         ∀ q, moduleOfQuad q = p.m → ∀ l ∈ (t.quad q).cache, ¬(p.pa / 64 ≤ l.line ∧ l.line < p.pa / 64 + 16)
       let again := fun (t : State) => Instr.rowCommandPiece core c.val ∈ t.agenda ∧
         (t.chan core c).queue = (e :: es).map (fun x => if x = e then { x with cleared := true } else x)
       (e.kind = .dzero → e.cleared = false → ∃ t : State, exec (.rowCommandPiece core c.val) s = .next t ∧ again t ∧ gone t) ∧
       (e.kind = .dzero → e.cleared = true → ∃ t : State, exec (.rowCommandPiece core c.val) s = .next t ∧ moved t 1024 [] ∧ gone t ∧
         ∀ i < 1024, t.dramByte p.m (p.pa + i) = 0) ∧
       (e.kind = .dcopy → ∀ r, e.opa.toNat + e.done < 2 ^ 57 → bit p.pte 6 = true →
         s.translate (at_ (e.opa.toNat + e.done) false) e.sup .read = .ok r → goes r → returns r → bit r.pte 10 = false →
         bit r.pte 11 = false → r.pa < 2 ^ 42 → r.pa % 1024 = 0 →
         ((s.quad q).cache.map (fun l => l.line)).Nodup → (∀ l ∈ (s.quad q).cache, l.bad = 0) →
         let byte := fun (i : Nat) => match (s.cacheLine q (r.pa + i)).filter (fun _ => r.m == moduleOfCore core) with
           | some l => if l.dirty.getLsbD ((r.pa + i) % 64) then BitVec.ofNat 8 (l.data.toNat / 2 ^ (8 * ((r.pa + i) % 64)))
             else s.dramByte r.m (r.pa + i)
           | none => s.dramByte r.m (r.pa + i)
         (e.cleared = false → ∃ t : State, exec (.rowCommandPiece core c.val) s = .next t ∧ again t ∧ gone t ∧
           ∀ i < 1024, t.dramByte r.m (r.pa + i) = byte i) ∧
         (e.cleared = true → ∃ t : State, exec (.rowCommandPiece core c.val) s = .next t ∧ moved t 1024 [] ∧ gone t ∧
           ∀ i < 1024, t.dramByte p.m (p.pa + i) = byte i)))) ∧
  (∀ (s : State) (q pa : Nat),
     let m := moduleOfQuad q
     let o := s.ownership m pa
     let sub := pa / 4096 % 16
     let owns := fun (o : Ownership) (q : Nat) => ∃ e ∈ o.owners, e.1 = q ∧ e.2.1.getLsbD sub = true
     (o.memside.getLsbD sub = true → exec (.ownershipDecision q pa) s = .next s) ∧
     (o.memside = 0 → (∀ e ∈ o.owners, e.2.1 = 0) → ∃ t : State, exec (.ownershipDecision q pa) s = .next t ∧
       t.ownership m pa = { page := pa / 2 ^ 16, owners := [(q, 0xFFFF, 0)], memside := 0 }) ∧
     (∀ r k w, o.memside.getLsbD sub = false → (r, k, w) ∈ o.owners → k.getLsbD sub = true →
       (∀ e ∈ o.owners, e ≠ (r, k, w) → e.2.1.getLsbD sub = false ∧ e.1 ≠ r) →
       (r = q → exec (.ownershipDecision q pa) s = .next s) ∧
       (r ≠ q → w.getLsbD sub = false → ∃ t : State, exec (.ownershipDecision q pa) s = .next t ∧
         owns (t.ownership m pa) q ∧ ¬owns (t.ownership m pa) r ∧ (t.ownership m pa).memside = o.memside ∧ t.mem = s.mem) ∧
       (r ≠ q → w.getLsbD sub = true → ∃ t : State, exec (.ownershipDecision q pa) s = .next t ∧
         ¬owns (t.ownership m pa) r ∧ ¬owns (t.ownership m pa) q ∧
         (t.ownership m pa).memside = (if t.pageDirty m (pa / 2 ^ 16) then o.memside ||| (1#16 <<< sub) else 0) ∧
         ∀ x ∈ [q, r], ∀ l ∈ (t.quad x).cache, l.line / 64 = pa / 4096 → l.dirty = 0)))

/-! ## Ordering (R247–R262) -/

/-- R168, R252: `FENCE` and `PUBLISH`.  They complete once no access of the thread is left that they wait for: its stores have
entered the pool, its quad's cache holds nothing dirty at `DIE` or wider, the fence has also acquired and set FB, and `PUBLISH`
has toggled its slot. -/
def Obligations.Fences : Prop :=
  ∀ (s : State) (g : Guard) (sc : Scope) (a : GReg),
    let mf := metaG 0x30 g [] []
    let mp := metaG 0x27 g [] [a]
    let n : Fin 4 := Fin.ofNat 4 ((s.g a).toNat % 4)
    let none_ := s.reqs.all (fun r => r.tid != s.cur) = true
    let clean := fun (t : State) => 2 ≤ sc.code → ∀ l ∈ (t.quad s.myQuad).cache, l.dirty = 0
    (s.executes mf → s.src.granted = false →
      (none_ → ∃ t : State, exec (.fence g sc) s = s.completes mf t ∧ (t.thread s.cur).stores = [] ∧
        (t.thread s.cur).fb = BitVec.allOnes 64 ∧ clean t ∧ (2 ≤ sc.code → ∀ l ∈ (t.quad s.myQuad).cache, l.w = false)) ∧
      (∀ r ∈ s.reqs, r.tid = s.cur → s.fenceWaits sc.code r = true →
        exec (.fence g sc) s = s.waitsIn mf (.fence sc.code) (s.drainAll s.cur))) ∧
    (s.executes mp → s.src.granted = false →
      ((s.core s.myCore).pub[n].getLsbD 63 = false → exec (.publish g sc a) s = s.traps mp { cause := .illegal }) ∧
      ((s.core s.myCore).pub[n].getLsbD 63 = true → none_ →
          (∀ k : Fin 4, ∀ e ∈ (s.core s.myCore).chans[k].queue, e.chained = true ∨ e.tid ≠ s.cur) →
        ∃ t : State, exec (.publish g sc a) s = s.completes mp t ∧ (t.thread s.cur).stores = [] ∧ clean t ∧
          (t.core s.myCore).pub = (s.core s.myCore).pub.set n ((s.core s.myCore).pub[n] ^^^ (1 <<< 62))))

/-- R257–R261, R264: what the instructions that change an object do to one that the thread may name, at a level that exists.  An
object whose members have all arrived, with no bytes awaited, completes its phase at once.  A `BARRW` that has recorded its
arrival at this pc does not arrive again.

R258, R260, R262: `BWAIT` and `BMISS` name any object of the thread's partition, a die object from the DCC or the supervisor
core too.

R258: which objects a thread may not name: a level above 4, a die object from another core than a lookup core where it would
join, arrive or post, and another partition's.  That the level is checked before the partition is the model's choice
(log 26).

R257, R260, R261: a thread that waits to arrive takes note of the phase in progress where its member has arrived in it, and
arrives once that phase is over; a `BARR` then ends, and a `BARRW` waits on for its own phase.  Bytes delivered count at their
object, which may complete its phase, or overrun; the cause of an overrun reaches the thread that posted, or its saved team. -/
def Obligations.Barriers : Prop :=
  (∀ (s : State) (g : Guard) (d a b : GReg),
     let m := metaG 0x31 g [] [a]
     let ga := s.g a
     let level := ga.toNat / 2 ^ 8 % 8
     let r := s.objRef s.cur ga
     let c := s.obj r
     let mine : BitVec 1024 := 1#1024 <<< memberBit s.cur level
     let tested := fun (c : Conj) => if c.memb ≠ 0 ∧ c.memb &&& ~~~c.arrv = 0 ∧ c.bytes = 0
       then { c with phase := c.phase + 1, arrv := 0, expf := false } else c
     let still := s.reqs.all (fun r => r.tid != s.cur) = true
     let others := s.th.barrw.filter (fun b => b.2 != s.th.pc)
     level ≤ 4 → (level = 2 → s.kind = .lookup) → s.objAllowed s.cur r = true →
       (s.executes m →
         (bit ga 15 = false → ∃ t : State, exec (.bjoin g a) s = s.completes m t ∧ t.obj r = { c with memb := c.memb ||| mine }) ∧
         (bit ga 15 = true → ∃ t : State, exec (.bjoin g a) s = s.completes m t ∧
           t.obj r = tested { c with memb := c.memb &&& ~~~mine, arrv := c.arrv &&& ~~~mine }) ∧
         (c.memb &&& mine = 0 → ∀ i ∈ [Instr.barr g a, .barrw g a], exec i s = s.traps m { cause := .illegal }) ∧
         (c.memb &&& mine ≠ 0 → s.src.granted = false → still →
           (c.arrv &&& mine = 0 → ∃ t : State, exec (.barr g a) s = s.completes m t ∧ t.obj r = tested { c with arrv := c.arrv ||| mine } ∧
             (t.thread s.cur).lastb = some (r.num, c.phase.toNat) ∧ (t.thread s.cur).fb = BitVec.allOnes 64 ∧
             (t.thread s.cur).stores = []) ∧
           (c.arrv &&& mine ≠ 0 → exec (.barr g a) s = s.waitsIn m (.barrier ga true false (some c.phase.toNat)) (s.drainAll s.cur) ∧
             ((r.num, s.src.pc) ∉ s.src.barrw → exec (.barrw g a) s =
               s.waitsIn m (.barrier (setField ga 48 1 0) true true (some c.phase.toNat)) (s.drainAll s.cur))) ∧
           (c.arrv &&& mine = 0 → (r.num, s.src.pc) ∉ s.src.barrw →
             ((tested { c with arrv := c.arrv ||| mine }).phase ≠ c.phase → ∃ t : State, exec (.barrw g a) s = s.completes m t ∧
               t.obj r = tested { c with arrv := c.arrv ||| mine } ∧ (t.thread s.cur).barrw = others.take 1) ∧
             ((tested { c with arrv := c.arrv ||| mine }).phase = c.phase → ∃ t : State,
               exec (.barrw g a) s = s.waitsIn m (.barrier (setField ga 48 1 0) false true none) t ∧
               t.obj r = { c with arrv := c.arrv ||| mine } ∧ (t.thread s.cur).barrw = ((r.num, s.th.pc) :: others).take 2)) ∧
           ((r.num, s.src.pc) ∈ s.src.barrw →
             (s.th.lastb ≠ some (r.num, c.phase.toNat) → ∃ t : State, exec (.barrw g a) s = s.completes m t ∧ t.obj r = c) ∧
             (s.th.lastb = some (r.num, c.phase.toNat) →
               exec (.barrw g a) s = s.waitsIn m (.barrier (setField ga 48 1 0) false true none) s)))) ∧
       (let mb := metaG 0x31 g [] [a, b]
        let n := (s.g b).toNat
        let posted := fun (c : Conj) => { c with
          bytes := c.bytes - n, expf := true, poster := memberBit s.cur 0, posterGa := ga
          posterTeam := (s.core s.myCore).team.map (fun t => (t.launch, t.index)) }
        s.executes mb →
         ((2 ≤ level ∨ n = 0 ∨ 2 ^ 39 ≤ n) → exec (.bexp g a b) s = s.traps mb { cause := .illegal }) ∧
         (level < 2 → 0 < n → n < 2 ^ 39 → c.bytes - n ≤ 0 → ∃ t : State, exec (.bexp g a b) s = s.completes mb t ∧
           t.obj r = tested (posted c)) ∧
         (level < 2 → 0 < n → n < 2 ^ 39 → 0 < c.bytes - n → ∃ t : State, t.obj r = posted c ∧ exec (.bexp g a b) s =
           .next (t.finish mb (.trap { cause := .barrierOverrun, addr := ga, next := true } t))))) ∧
  (∀ (s : State) (g : Guard) (d a : GReg),
     let m := metaG 0x31 g [] [a]
     let ga := s.g a
     let level := ga.toNat / 2 ^ 8 % 8
     let r := s.objRef s.cur ga
     let c := s.obj r
     level ≤ 4 → s.objAllowed s.cur r = true →
       (s.executes m →
         (s.src.granted = false →
           let there := if bit ga 48 then (c.phase - BitVec.ofNat 16 (ga.toNat / 2 ^ 32 % 2 ^ 16)).toNat < 2 ^ 15
             else (s.thread s.cur).lastb ≠ some (r.num, c.phase.toNat)
           (there → ∃ t : State, exec (.bwait g a) s = s.completes m t ∧ t.mem = s.mem ∧
             (2 ≤ level → ∀ l ∈ (t.quad s.myQuad).cache, l ∈ (s.quad s.myQuad).cache ∧ (l.dirty = 0 → l.w = false))) ∧
           (¬there → exec (.bwait g a) s = s.waitsIn m (.barrier ga false true none) s))) ∧
       (let mm := metaG 0x31 g [d] [a]
        let w := ga.toNat / 2 ^ 16 % 2 ^ 8
        s.executes mm → exec (.bmiss g d a) s = s.completes mm (s.setG d
         (if w ≤ 15 then (c.memb &&& ~~~c.arrv).extractLsb' (64 * w) 64
          else if w = 16 then Word.of (c.phase.toNat * 2 ^ 48 + c.expf.toNat * 2 ^ 47 + c.poster % 32 * 2 ^ 40 + (c.bytes % 2 ^ 40).toNat)
          else 0)))) ∧
  (∀ (s : State) (g : Guard) (d a b : GReg), s.executes (metaG 0x31 g [] [a]) →
     let m := metaG 0x31 g [] [a]
     let level := (s.g a).toNat / 2 ^ 8 % 8
     ((4 < level ∨ level = 2 ∧ s.kind ≠ .lookup) → ∀ i ∈ [Instr.bjoin g a, .barr g a, .barrw g a],
       exec i s = s.traps m { cause := .illegal }) ∧
     (4 < level → exec (.bwait g a) s = s.traps m { cause := .illegal }) ∧
     (level ≤ 4 → s.objAllowed s.cur (s.objRef s.cur (s.g a)) = false →
       let refused : TrapInfo := { cause := .remoteFault, sub := 1, addr := s.g a }
       exec (.bwait g a) s = s.traps m refused ∧
       ((level = 2 → s.kind = .lookup) → ∀ i ∈ [Instr.bjoin g a, .barr g a, .barrw g a], exec i s = s.traps m refused)) ∧
     (let mm := metaG 0x31 g [d] [a]
      s.executes mm →
       (4 < level → exec (.bmiss g d a) s = s.traps mm { cause := .illegal }) ∧
       (level ≤ 4 → s.objAllowed s.cur (s.objRef s.cur (s.g a)) = false →
         exec (.bmiss g d a) s = s.traps mm { cause := .remoteFault, sub := 1, addr := s.g a })) ∧
     (let mb := metaG 0x31 g [] [a, b]
      s.executes mb → level < 2 → 0 < (s.g b).toNat → (s.g b).toNat < 2 ^ 39 →
       s.objAllowed s.cur (s.objRef s.cur (s.g a)) = false →
       exec (.bexp g a b) s = s.traps mb { cause := .remoteFault, sub := 1, addr := s.g a })) ∧
  (∀ (s : State),
     let tested := fun (c : Conj) => if c.memb ≠ 0 ∧ c.memb &&& ~~~c.arrv = 0 ∧ c.bytes = 0
       then { c with phase := c.phase + 1, arrv := 0, expf := false } else c
     (∀ tid ga after phase, (s.thread tid).status = .waiting → (s.thread tid).wait = some (.barrier ga true after phase) →
       let r := s.objRef tid ga
       let c := s.obj r
       let mine : BitVec 1024 := 1#1024 <<< memberBit tid (ga.toNat / 2 ^ 8 % 8)
       let fenced := (s.thread tid).stores = [] ∧ ∀ q ∈ s.reqs, q.tid ≠ tid
       let ready := match phase with
         | some p => c.phase.toNat ≠ p
         | none => c.arrv &&& mine = 0
       (phase = some c.phase.toNat → exec (.barrierArrival tid) s = .next s) ∧
       (fenced → phase = none → c.arrv &&& mine ≠ 0 → ∃ t : State, exec (.barrierArrival tid) s = .next t ∧ t.obj r = c ∧
         (t.thread tid).wait = some (.barrier ga true after (some c.phase.toNat))) ∧
       (fenced → ready → ∃ t : State, exec (.barrierArrival tid) s = .next t ∧
         t.obj r = tested { c with arrv := c.arrv ||| mine } ∧
         (after = true → (t.thread tid).wait = some (.barrier ga false true none) ∧
           (t.thread tid).barrw =
             ((r.num, (s.thread tid).pc) :: (s.thread tid).barrw.filter (fun b => b.2 != (s.thread tid).pc)).take 2))) ∧
     (∀ tid ga phase, s.waits tid (.barrier ga true false phase) → (s.as tid).arriveReady tid ga phase = true →
       exec (.barrierArrival tid) s = s.ends tid (.retire ((s.as tid).arriveEnd ga))) ∧
     (∀ (quad : Nat) (o : Fin 16) (n : Nat),
       let r := ObjRef.quad quad o
       let c := s.obj r
       let bytes := min (c.bytes + n) (2 ^ 39 - 1)
       let info : TrapInfo := { cause := .barrierOverrun, origin := 5, addr := c.posterGa }
       let by_ := threadOfMember quad c.poster
       ∃ t : State, exec (.byteDelivery quad o.val n) s = .next t ∧
         ((c.expf = false ∨ bytes ≤ 0) → t.obj r = tested { c with bytes }) ∧
         (c.expf = true → 0 < bytes → t.obj r = { c with bytes } ∧
           (c.posterTeam = none → (s.thread by_).alive = true → (t.thread by_).pending = (s.thread by_).pending ++ [info]) ∧
           (∀ x ∈ s.saved, c.posterTeam = some (x.launch, x.index) →
             ∃ y ∈ t.saved, y.launch = x.launch ∧ y.index = x.index ∧ y.pending = x.pending ++ [(threadIndex by_, info)]) ∧
           (∀ launch index, c.posterTeam = some (launch, index) → (∀ x ∈ s.saved, ¬(x.launch = launch ∧ x.index = index)) →
             (s.core (coreOfThread by_)).team.any (fun x => x.launch == launch && x.index == index) = true →
             (s.launches.get? launch).bind (fun l => (l.teams[index]?).bind (fun x => x.core)) = some (coreOfThread by_) →
             (s.thread by_).alive = true → (t.thread by_).pending = (s.thread by_).pending ++ [info]))))

/-! ## Messages and remote accesses (R263–R284) -/

/-- R267, R269–R271, R274: `SEND` and `SENDL` check their destination and stage a message; `RPEEK` reads the head's summary and
`RQSET` lays down or closes the queue.  That a core stages at most 1024 messages (log 23), and that a
detached member's own send traps `PLURAL_DETACHED` at issue (log 19), are the model's choices.

R274, R334: `RECV` takes the head message, which leaves the queue: its payload goes to the pool, its summary word to gD, and
the chain and the origin of a trap message to `TCHAIN` and the thread; with no message there, or another thread of the core
waiting for one, it waits.  An uncorrectable word in the header traps. -/
def Obligations.Messages : Prop :=
  (∀ (s : State) (g : Guard) (d a b : GReg),
     let m := metaG 0x32 g [] [a, b]
     let dest := s.g b
     let x := (s.g a).toNat
     let form := addrForm dest
     let away := match form with
       | .window _ _ => s.src.tdet = true ∨ (s.core s.myCore).team.any (fun t => t.mdet) = true
       | _ => False
     let good := form ≠ .nonCanonical ∧ (∀ va, form ≠ .dram va) ∧ form.off % 16 < 12 ∧ ¬away
     let staged := fun (i : Instr) (payload : List Byte) =>
       (8192 < s.staged s.myCore + payload.length → exec i s = .next (s.finish m (.again none))) ∧
       (s.staged s.myCore + payload.length ≤ 8192 →
         (s.reqs.filter (fun r => r.src == s.myCore && r.isMessage && r.queued)).length < 1024 → ∃ t r, exec i s = s.completes m t ∧ t.reqs = s.reqs ++ [r] ∧
         t.mem = s.mem ∧ r.tid = s.cur ∧ r.src = s.myCore ∧ r.stream = some (form.off % 16) ∧ r.ea = dest ∧ r.st = .waiting ∧
         r.body = .message (form.off / 16 % 2 ^ 16) 0 payload ∧ t.agenda = s.agenda ++ [.messageArrival r.id])
     (s.executes m →
       (∀ i ∈ [Instr.send g a b, .sendl g a b],
         (form = .nonCanonical → exec i s = s.traps m { cause := .pageFault, sub := 1, addr := dest }) ∧
         ((∃ va, form = .dram va) → exec i s = s.traps m { cause := .illegal }) ∧
         (form ≠ .nonCanonical → (∀ va, form ≠ .dram va) → 12 ≤ form.off % 16 → exec i s = s.traps m { cause := .illegal }) ∧
         (form ≠ .nonCanonical → (∀ va, form ≠ .dram va) → form.off % 16 < 12 → away →
           exec i s = s.traps m { cause := .pluralDetached, addr := dest })) ∧
       (good → staged (.send g a b) (bytesOf 8 x)) ∧
       (good →
         let len := x / 2 ^ 32 % 2 ^ 12
         let la := x % 2 ^ 25 % poolSize s.kind
         (2048 < len → exec (.sendl g a b) s = s.traps m { cause := .illegal }) ∧
         (len ≤ 2048 → 0 < len → s.accEnd s.myCore < la + len →
           exec (.sendl g a b) s = s.traps m { cause := .localRange, addr := Word.of la }) ∧
         (len ≤ 2048 → la + len ≤ s.accEnd s.myCore → (s.thread s.cur).stores = [] → (s.core s.myCore).poisoned = [] →
           (s.core s.myCore).flipped = [] → staged (.sendl g a b) (s.poolBytes s.myCore la len)))) ∧
     (s.executes (metaG 0x32 g [d] []) →
       let mp := metaG 0x32 g [d] []
       let k := s.core s.myCore
       (k.rqUsed = 0 → exec (.rpeek g d) s = s.completes mp (s.setG d 0)) ∧
       (k.rqUsed ≠ 0 → k.poisoned = [] → k.flipped = [] → exec (.rpeek g d) s =
         s.completes mp (s.setG d (Word.of (natOfBytes (s.ringRead s.myCore k.rqHead 8))))) ∧
       (∀ x, k.rqUsed ≠ 0 → s.headBad s.myCore false = some x →
         exec (.rpeek g d) s = s.traps mp { cause := .eccUncorr, addr := Word.of x })) ∧
     (s.executes m →
       let q := (s.g b).toNat
       let base := x % 2 ^ 20
       (q = 0 → ∃ t : State, exec (.rqset g a b) s = s.completes m t ∧ (t.core s.myCore).rqcfg.getLsbD 23 = false ∧
         (t.core s.myCore).rqptr = (s.core s.myCore).rqptr) ∧
       ((∃ k < 7, q = 1024 * 2 ^ k) →
         (base % q ≠ 0 → exec (.rqset g a b) s = s.traps m { cause := .misalign, addr := Word.of base }) ∧
         (base % q = 0 → s.scratchEnd s.myCore < base + q →
           exec (.rqset g a b) s = s.traps m { cause := .localRange, addr := Word.of base }) ∧
         (base % q = 0 → base + q ≤ s.scratchEnd s.myCore → (s.core s.myCore).rqUsed ≠ 0 →
           exec (.rqset g a b) s = s.traps m { cause := .illegal }) ∧
         (base % q = 0 → base + q ≤ s.scratchEnd s.myCore → (s.core s.myCore).rqUsed = 0 →
           ∃ t : State, exec (.rqset g a b) s = s.completes m t ∧ (t.core s.myCore).rqptr = 0 ∧
             rqEn (t.core s.myCore).rqcfg = true ∧ rqSize (t.core s.myCore).rqcfg = q ∧ rqBase (t.core s.myCore).rqcfg = base)) ∧
       (q ≠ 0 → (∀ k < 7, q ≠ 1024 * 2 ^ k) → exec (.rqset g a b) s = s.traps m { cause := .illegal }))) ∧
  (∀ (s : State) (g : Guard) (d a : GReg),
     let m := metaG 0x32 g [d] [a]
     let la := (s.g a).toNat % poolSize s.kind
     let k := s.core s.myCore
     let w := s.headSummary s.myCore
     let len := w.toNat / 2 ^ 32 % 2 ^ 12
     let bs := s.ringRead s.myCore (k.rqHead + 16) len
     s.executes m →
       (s.recvReady s.cur = false → exec (.recv g d a) s = s.waitsIn m (.recv d la) s) ∧
       (∀ x, s.recvReady s.cur = true → s.headBad s.myCore false = some x →
         exec (.recv g d a) s = s.traps m { cause := .eccUncorr, addr := Word.of x }) ∧
       (s.recvReady s.cur = true → s.headBad s.myCore false = none → 0 < len → s.accEnd s.myCore < la + len →
         exec (.recv g d a) s = s.traps m { cause := .localRange, addr := Word.of la }) ∧
       (s.recvReady s.cur = true → la + len ≤ s.accEnd s.myCore → (s.thread s.cur).stores = [] → k.poisoned = [] →
         ∃ t : State, exec (.recv g d a) s = s.completes m t ∧ t.thread s.cur = (if w.toNat / 2 ^ 29 % 2 ^ 2 = 2
             then { (s.thread s.cur).setG d w with
               tchain := Word.of (natOfBytes ((bs.drop 56).take 8))
               origin := some (natOfBytes ((bs.drop 48).take 4)) }
             else (s.thread s.cur).setG d w) ∧
           (t.core s.myCore).rqHead = (k.rqHead + 16 + 16 * ((len + 15) / 16)) % 2 ^ 32 ∧ (t.core s.myCore).rqTail = k.rqTail ∧
           (s.mem.wf = true → (∀ p ∈ k.pub, p.getLsbD 63 = false) → ∀ i < len, t.poolByte s.myCore (la + i) = bs.getD i 0)))

/-- R266, R275, R302: remote gets and stores, and window loads and stores, check the address gA + gB, and put one request on its
stream; a get leaves its register outstanding.  Thirty-two of a thread's may be outstanding.

R275–R277: at its target a request in range is performed, in its stream's order: a store writes the pool and is done, a get's
value travels back and reaches gD; one out of range is refused with `REMOTE_FAULT`, which freezes its stream and leaves it at
its head, and its thread traps.  An answer takes a route of its own; where that is blocked, the requester learns of it in the
answer's stead, which is the model's reading (log 28). -/
def Obligations.RemoteAccesses : Prop :=
  (∀ (s : State) (g : Guard) (look : Fin 16) (d a b : GReg) (ext : BitVec 32) (get win dbl : Bool),
     let i : Instr := match get, win, dbl with
       | true, false, false => .rget g look d a b | true, false, true => .rgetDw g look d a b ext
       | false, false, false => .rsto g look d a b | false, false, true => .rstoDw g look d a b ext
       | true, true, false => .wld g look d a b | true, true, true => .wldDw g look d a b ext
       | false, true, false => .wst g look d a b | false, true, true => .wstDw g look d a b ext
     let major := if win then 0x37 else 0x33
     let words := if dbl then 2 else 1
     let m := if get then metaL major g look [d] [a, b] words else metaL major g look [] [d, a, b] words
     let n := if dbl then 8 / 2 ^ (ext.toNat % 4) else 8
     let ea := s.g a + s.g b
     let form := addrForm ea
     let away := match form with
       | .window k _ => s.src.tdet = true ∨ (s.core s.myCore).team.any (fun t => t.mdet) = true ∨
           win = true ∧ ∀ l, s.launchOf s.myCore = some l → l.win = false ∨ l.teamCount ≤ k
       | _ => False
     s.executes m →
       (form = .nonCanonical → exec i s = s.traps m { cause := .pageFault, sub := 1, addr := ea }) ∧
       ((∃ va, form = .dram va) → exec i s = s.traps m { cause := .illegal }) ∧
       (form ≠ .nonCanonical → (∀ va, form ≠ .dram va) →
         (ea.toNat % n ≠ 0 → exec i s = s.traps m { cause := .misalign, addr := ea }) ∧
         (ea.toNat % n = 0 → away → exec i s = s.traps m { cause := .pluralDetached, addr := ea }) ∧
         (ea.toNat % n = 0 → ¬away → 32 ≤ s.remoteCount s.cur → exec i s = .next (s.finish m (.again none))) ∧
         (ea.toNat % n = 0 → ¬away → s.remoteCount s.cur < 32 → ∃ t r, exec i s = s.completes m t ∧ t.reqs = s.reqs ++ [r] ∧
           t.mem = s.mem ∧ r.id = s.nextId ∧ r.tid = s.cur ∧ r.src = s.myCore ∧ r.ea = ea ∧ r.st = .waiting ∧
           r.stream = some (if win ∨ dbl = false then 0 else ext.toNat / 8 % 16) ∧
           r.body = (if get then .read n (dbl && ext.getLsbD 2) d else .write n ((s.g d).toNat % 2 ^ (8 * n))) ∧
           t.thread s.cur = { s.thread s.cur with outstanding := (s.thread s.cur).outstanding ++
             (if get then [{ id := s.nextId, writes := gs [d] }] else []) }))) ∧
  (∀ (s : State) (id : Nat) (r : Req), s.req? id = some r →
     (∀ n data c, r.body = .write n data → s.mayGo r = true → s.target r.src r.part (addrForm r.ea) = .ok c →
       let off := (addrForm r.ea).off
       (s.targetRange c (addrForm r.ea) n = true → (s.core c).poisoned = [] → ∃ t : State,
         exec (.remoteRequestArrival id) s = .next t ∧ t.req? id = none ∧
         (s.mem.wf = true → (∀ p ∈ (s.core c).pub, p.getLsbD 63 = false) → t.poolNat c off n = data % 2 ^ (8 * n))) ∧
       (∀ k, r.stream = some k → k < 16 → s.targetRange c (addrForm r.ea) n = false → ∃ t : State,
         exec (.remoteRequestArrival id) s = .next t ∧ t.mem = s.mem ∧ t.isFrozen r.src k = true ∧
         (t.req? id).map (fun x => x.st) = some (.faulted { cause := .remoteFault, sub := 0, origin := 4, unit := k, addr := r.ea }))) ∧
     (∀ n sx d c, r.body = .read n sx d → s.mayGo r = true → s.target r.src r.part (addrForm r.ea) = .ok c →
       s.targetRange c (addrForm r.ea) n = true → (s.core c).poisoned = [] →
       let x := s.poolNat c (addrForm r.ea).off n
       ∃ t : State, exec (.remoteRequestArrival id) s = .next t ∧ t.mem = s.mem ∧
         (t.req? id).map (fun x => x.st) = some (.replied (if sx then signExt x (8 * n) else Word.of (x % 2 ^ (8 * n))).toNat)) ∧
     (∀ v n sx d, r.st = .replied v → r.body = .read n sx d → s.blockedWay (s.replyFrom r) (dieOfCore r.src) = none →
       (s.thread r.tid).outstanding.any (fun o => o.id == r.id) = true →
       ∃ t : State, exec (.remoteReply id) s = .next t ∧ t.req? id = none ∧ t.thread r.tid = { (s.thread r.tid).setG d (Word.of v) with
         outstanding := (s.thread r.tid).outstanding.filter (fun o => o.id != r.id) }) ∧
     (∀ x, r.st = .faulted x → (s.thread r.tid).alive = true →
       let told := match s.blockedWay (s.replyFrom r) (dieOfCore r.src) with
         | none => x
         | some sub => { x with cause := .remoteFault, sub }
       ∃ t : State, exec (.refusalReturn id) s = .next t ∧ t.reqs = s.reqs ∧ (t.thread r.tid).pending = (s.thread r.tid).pending ++ [told]))

/-- R277: `RESUME` sends its packet to the core that it names.  There a frozen stream thaws: with action 0 its faulted packet
is sent again, marked first after resumption, and every other packet stays; with action 1 the faulted packet is dropped and the
next is marked first; with action 2 the stream is emptied.  Packets that left before the faulted one are on their way and are
neither.  A resume packet whose way is blocked ends in `REMOTE_FAULT` at its thread, which is the model's reading (log 28).

R273, R339: a message's arrival.  One that its target's ring has room for enters it and leaves its stream; one that finds
the queue closed or full, or its team stopped, is refused and sent again later from its place; a message larger than the ring is
refused for good.

R279: a receiver takes flits in sequence and asks once for a replay of a bad or missing one; the sender then sends again from
the flit named; sixteen replays without a good flit take the link down, for good, and no route over it is left; a channel's bump that
waits for it faults its channel.  That a replay's flits arrive whole is the model's choice (log 28). -/
def Obligations.StreamsAndLinks : Prop :=
  (∀ (s : State),
     (∀ (g : Guard) (a b : GReg), s.executes (metaG 0x32 g [] [a, b]) →
       let m := metaG 0x32 g [] [a, b]
       let k := (s.g b).toNat % 2 ^ 4
       let action := (s.g b).toNat / 2 ^ 4 % 2 ^ 2
       (((∃ va, addrForm (s.g a) = .dram va) ∨ (∃ j off, addrForm (s.g a) = .window j off)) →
         exec (.resume g a b) s = s.traps m { cause := .illegal }) ∧
       (addrForm (s.g a) = .nonCanonical → exec (.resume g a b) s = s.traps m { cause := .pageFault, sub := 1, addr := s.g a }) ∧
       (∀ c off, addrForm (s.g a) = .core c off →
         ((12 ≤ k ∨ action = 3) → exec (.resume g a b) s = s.traps m { cause := .illegal }) ∧
         (k < 12 → action ≠ 3 → (s.partOfThread s.cur ≠ none → s.partOfCore c = s.partOfThread s.cur) → ∃ t r,
           exec (.resume g a b) s = s.completes m t ∧ t.reqs = s.reqs ++ [r] ∧ r.body = .resume k action ∧ r.dst = some c ∧
           t.agenda = s.agenda ++ [.resumeArrival r.id]) ∧
         (k < 12 → action ≠ 3 → s.partOfThread s.cur ≠ none → s.partOfCore c ≠ s.partOfThread s.cur →
           exec (.resume g a b) s = s.traps m { cause := .remoteFault, sub := 1, addr := s.g a }))) ∧
     (∀ id r k action c, s.req? id = some r → r.body = .resume k action → r.dst = some c → k < 16 →
       (∀ sub, s.blockedWay (dieOfCore r.src) (dieOfCore c) = some sub → (s.thread r.tid).alive = true → ∃ t : State,
         exec (.resumeArrival id) s = .next t ∧ t.reqs = (s.dropReq id).reqs ∧ (t.core c).frozen = (s.core c).frozen ∧
         (t.thread r.tid).pending = (s.thread r.tid).pending ++ [{ cause := .remoteFault, sub, origin := 7, addr := r.ea }]) ∧
       (s.blockedWay (dieOfCore r.src) (dieOfCore c) = none →
       (s.isFrozen c k = false → exec (.resumeArrival id) s = .next (s.dropReq id)) ∧
       (s.isFrozen c k = true → ∃ t : State, exec (.resumeArrival id) s = .next t ∧ t.isFrozen c k = false ∧
         (let on := s.reqs.filter (fun x => x.id != id && x.src == c && x.stream == some k && x.queued && !x.underway)
          (∀ p ∈ on, p.isFaulted = true → (∀ x ∈ on, x.isFaulted = true → x = p) →
           (action = 0 →
             (∃ x ∈ t.reqs, x.id = p.id ∧ x.body = p.body ∧ x.first = true ∧ x.st = .waiting) ∧
             ∀ q ∈ on, ∃ x ∈ t.reqs, x.id = q.id ∧ x.body = q.body) ∧
           (action = 1 →
             (∀ x ∈ t.reqs, x.id ≠ p.id) ∧
             ∀ q, (on.filter (fun x => x.id != p.id)).head? = some q →
               ∃ x ∈ t.reqs, x.id = q.id ∧ x.body = q.body ∧ x.first = true ∧ x.st = .waiting)) ∧
          (action = 2 → ∀ x ∈ t.reqs, x.src = c → x.stream = some k → x.queued = false ∨ x.underway = true)))))) ∧
  (∀ (s : State),
     (∀ (id : Nat) (r : Req) (tag : Nat) (payload : List Byte), s.req? id = some r → r.body = .message tag 0 payload →
       r.st = .waiting → s.mayGo r = true →
       let size := 16 + 16 * ((payload.length + 15) / 16)
       (∀ c, s.target r.src r.part (addrForm r.ea) = .ok c →
         let k := s.core c
         (rqEn k.rqcfg = true → k.rqUsed + size ≤ rqSize k.rqcfg → ∃ t : State, exec (.messageArrival id) s = .next t ∧
           t.req? id = none ∧ (t.core c).rqTail = (k.rqTail + size) % 2 ^ 32 ∧ (t.core c).rqHead = k.rqHead) ∧
         ((rqEn k.rqcfg = false ∨ size ≤ rqSize k.rqcfg ∧ rqSize k.rqcfg < k.rqUsed + size) → ∃ t : State,
           exec (.messageArrival id) s = .next t ∧ t.mem = s.mem ∧ (t.req? id).map (fun x => x.st) = some .refused ∧
           (t.core c).rqTail = k.rqTail ∧ t.agenda = s.agenda ++ [.retryTimer r.src (r.stream.getD 16)]) ∧
         (rqEn k.rqcfg = true → rqSize k.rqcfg < size → ∃ t x, exec (.messageArrival id) s = .next t ∧ t.mem = s.mem ∧
           t.req? id = some x ∧ x.st = .faulted { cause := .remoteFault, origin := 4, unit := r.stream.getD 0, addr := r.ea })) ∧
       (∀ c, s.target r.src r.part (addrForm r.ea) = .retry → s.savedTarget r = none → s.boundFor r = some c →
         (rqEn (s.core c).rqcfg = false ∨ size ≤ rqSize (s.core c).rqcfg) → ∃ t : State, exec (.messageArrival id) s = .next t ∧
         t.mem = s.mem ∧ (t.req? id).map (fun x => x.st) = some .refused ∧
         t.agenda = s.agenda ++ [.retryTimer r.src (r.stream.getD 16)])) ∧
     (∀ core k, let again := fun (x : Req) => x.src == core && x.stream.getD 16 == k && x.st == .refused
       ∃ t : State, exec (.retryTimer core k) s = .next t ∧ t.mem = s.mem ∧
         t.reqs = s.reqs.map (fun x => if again x then { x with st := .waiting } else x) ∧
         t.agenda = s.agenda ++ (s.reqs.filter again).map Req.event)) ∧
  (∀ (s : State) (link seq : Nat) (ok : Bool),
     let l := s.link link
     (l.down = true → exec (.flitReceive link seq ok) s = .next s ∧ exec (.replayRequest link seq) s = .next s) ∧
     (l.down = false → ok = true → seq % 2 ^ 12 = l.expect → ∃ t : State, exec (.flitReceive link seq ok) s = .next t ∧
       (t.link link).expect = (l.expect + 1) % 2 ^ 12 ∧ (t.link link).replays = 0 ∧ (t.link link).asked = false ∧
       t.agenda = s.agenda) ∧
     (l.down = false → ¬(ok = true ∧ seq % 2 ^ 12 = l.expect) → ∃ t : State, exec (.flitReceive link seq ok) s = .next t ∧
       (t.link link).expect = l.expect ∧ (t.link link).replays = l.replays ∧ (t.link link).asked = true ∧
       t.agenda = s.agenda ++ (if l.asked then [] else [.replayRequest link l.expect])) ∧
     (l.down = false → l.replays < 16 → ∃ t : State, exec (.replayRequest link seq) s = .next t ∧
       (t.link link).replays = l.replays + 1 ∧ (t.link link).asked = false ∧
       t.agenda = s.agenda ++ (List.range (min 256 ((l.sent + 2 ^ 12 - seq % 2 ^ 12) % 2 ^ 12))).map
         (fun i => Instr.flitReceive link ((seq + i) % 2 ^ 12) true)) ∧
     (l.down = false → 16 ≤ l.replays → exec (.replayRequest link seq) s = .next (s.emit (.linkDown link))) ∧
     (∃ t : State, exec (.linkDown link) s = .next t ∧ (t.link link).down = true ∧
       (∀ a b, link ∈ linksBetween a b → t.routeDown a b = true) ∧
       ∀ r n ch len chained c, s.reqs = [r] → r.body = .bump n (some (ch, len, chained)) → r.queued = true →
         s.boundFor r = some c → link ∈ linksBetween (dieOfCore r.src) (dieOfCore c) →
         let k := t.chan r.src (Fin.ofNat 4 ch)
         k.fault = some { cause := .remoteFault, sub := 2, addr := r.ea, bump := true } ∧ k.held = some (r.tid, n, r.ea, len, chained) ∧
         t.isFrozen r.src (12 + ch % 4) = true))

/-- R281, R282: the work queues.  `QPUSH` appends a 32-byte record to a FIFO that is not full and whose ring is empty, and traps
`QUEUE_OVERFLOW` where FIFO and ring are full, and else to the ring; `QPOP` takes the oldest record, gives 0 for an empty queue and waits for one
that is still in the ring; a refill moves the ring's oldest; `WQRINGn` takes an aligned ring while its ring is empty; that
it keeps the tail count is the model's choice (log 26). -/
def Obligations.WorkQueues : Prop :=
  ∀ (s : State) (g : Guard) (d a b : GReg) (n : Fin 8),
    (let m := metaG 0x34 g [] [a, b]
     let la := (s.g a).toNat % poolSize s.kind
     let k : Fin 8 := Fin.ofNat 8 ((s.g b).toNat % 2 ^ 3)
     let f := s.fifo s.myQuad k
     s.executes m → la + 32 ≤ s.accEnd s.myCore → la % 32 = 0 → (s.thread s.cur).stores = [] → (s.core s.myCore).poisoned = [] →
      (s.core s.myCore).flipped = [] →
      (f.rcnt = 0 → f.recs.length < 32 → exec (.qpush g a b) s = s.completes m (s.setFifo s.myQuad k
        { f with recs := f.recs ++ [BitVec.ofNat 256 (s.poolNat s.myCore la 32)] })) ∧
      (∀ p, ¬(f.rcnt = 0 ∧ f.recs.length < 32) → f.rcnt < f.cap →
        s.ringPlace s.myQuad s.myCore (reqThread s.cur) (f.slot f.tail) .write = .inl (.ok p) → ∃ t : State,
        exec (.qpush g a b) s = s.completes m t ∧ t.fifo s.myQuad k = { f with tail := f.tail + 1, rcnt := f.rcnt + 1 }) ∧
      (¬(f.rcnt = 0 ∧ f.recs.length < 32) → f.cap ≤ f.rcnt → exec (.qpush g a b) s =
        s.traps m { cause := .queueOverflow, addr := Word.of (f.slot f.tail) })) ∧
    (let m := metaG 0x34 g [d] [a]
     let la := (s.g a).toNat % poolSize s.kind
     let k : Fin 8 := Fin.ofNat 8 ((s.g a).toNat / 2 ^ 32 % 2 ^ 3)
     let f := s.fifo s.myQuad k
     s.executes m → la + 32 ≤ s.accEnd s.myCore → la % 32 = 0 → (s.thread s.cur).stores = [] →
      (f.recs = [] → f.rcnt = 0 → exec (.qpop g d a) s = s.completes m (s.setG d 0)) ∧
      (f.recs = [] → 0 < f.rcnt → ∃ t : State, exec (.qpop g d a) s = s.waitsIn m (.qpop d k.val la) t ∧ t.mem = s.mem) ∧
      (∀ r rs, f.recs = r :: rs → ∃ t : State, exec (.qpop g d a) s = s.completes m t ∧ t.fifo s.myQuad k = { f with recs := rs } ∧
        t.thread s.cur = (s.thread s.cur).setG d 1 ∧
        (s.mem.wf = true → (∀ p ∈ (s.core s.myCore).pub, p.getLsbD 63 = false) → t.poolNat s.myCore la 32 = r.toNat))) ∧
    (∀ quad p, let f := s.fifo quad n
      0 < f.rcnt → f.recs.length < 32 → s.popWaiters quad n = none →
      s.ringPlace quad ((coresOfQuad quad).headD 0) (reqFifo quad n) (f.slot (f.tail - f.rcnt)) .read = .inl (.ok p) →
      ∃ t : State, exec (.queueRefill quad n.val) s = .next t ∧
        t.fifo quad n = { f with recs := f.recs ++ [BitVec.ofNat 256 (s.dramNat p.m p.pa 32)], rcnt := f.rcnt - 1 }) ∧
    (let m := metaMts g a (0x3C + n.val) s
     let x := (s.g a).toNat
     let cap := if x % 2 ^ 4 = 0 then 0 else 2 ^ (x % 2 ^ 4 + 4)
     let base := x / 2 ^ 12 % 2 ^ 45 * 2 ^ 12
     let f := s.fifo s.myQuad n
     s.executes m →
      ((base % (max 4096 (32 * cap)) ≠ 0 ∨ 0 < f.rcnt) → exec (.wqringWrite g n a) s = s.traps m { cause := .illegal }) ∧
      (base % (max 4096 (32 * cap)) = 0 → f.rcnt = 0 → exec (.wqringWrite g n a) s = s.completes m (s.setFifo s.myQuad n
        { f with ring := Word.of (base + x % 2 ^ 4) })))

/-! ## Lookup (R181–R204) -/

/-- R185–R187: `TBLSET` checks its image, waits until every unit of the die holds the slot, and then the slot is written, or
empty; `IDHASH` mixes its operands in 64-bit arithmetic.

R190, R191, R198, R199, R201, R202: a lookup instruction whose operands pass their checks enters the core's lookup unit with
its operands captured, and one of a full unit waits to issue; `ROWWAIT` completes once few enough of the thread's are open.
The multiples asked of a gradient's and a map's address, and the order of the checks, are the model's choices (log 32). -/
def Obligations.LookupIssue : Prop :=
  (∀ (s : State) (g : Guard) (d a b : GReg),
     (let m := metaG 0x28 g [] [a, b]
      let slot := (s.g a).toNat % 2 ^ 6
      let la := (s.g b).toNat % 2 ^ 20
      let img := BitVec.ofNat 512 (s.poolNat s.myCore la 64)
      let part := s.partOfThread s.cur
      let held := (s.die s.myDie).directory.get? slot
      s.executes m → (s.thread s.cur).stores = [] → (s.core s.myCore).poisoned = [] → (s.core s.myCore).flipped = [] →
       (s.accEnd s.myCore < la + 64 → exec (.tblset g a b) s = s.traps m { cause := .localRange, addr := Word.of la }) ∧
       (la + 64 ≤ s.accEnd s.myCore → la % 64 ≠ 0 → exec (.tblset g a b) s = s.traps m { cause := .misalign, addr := Word.of la }) ∧
       (la + 64 ≤ s.accEnd s.myCore → la % 64 = 0 →
         ((∃ e, held = some e ∧ e.owner ≠ part) ∨ img.getLsbD 319 = true ∧ tableOk img = false →
           exec (.tblset g a b) s = s.traps m { cause := .tableBad }) ∧
         ((∀ e, held = some e → e.owner = part) → (img.getLsbD 319 = true → tableOk img = true) →
           (s.src.granted = false → exec (.tblset g a b) s = s.waitsIn m (.tblset slot img part) s) ∧
           (s.src.granted = true → ∃ t : State, exec (.tblset g a b) s = s.completes m t ∧ t.mem = s.mem ∧
             (t.die s.myDie).directory.get? slot =
               if img.getLsbD 319 then some { desc := img, owner := part } else none)))) ∧
     (∀ tid slot img part, s.waits tid (.tblset slot img part) →
       exec (.tblsetComplete tid) s = s.ends tid (.retire ((s.as tid).setTable slot img part))) ∧
     (let m := metaG 0x28 g [d] [a, b]
      let h0 := (s.g a).toNat ^^^ (s.g b).toNat
      let h1 := (h0 ^^^ h0 / 2 ^ 31) * 0xD6E8FEB86659FD93 % 2 ^ 64
      let h2 := (h1 ^^^ h1 / 2 ^ 29) * 0xC2B2AE3D27D4EB4F % 2 ^ 64
      s.executes m → exec (.idhash g d a b) s = s.completes m (s.setG d (Word.of ((h2 ^^^ h2 / 2 ^ 32) % 2 ^ 32))))) ∧
  (∀ (s : State) (g : Guard) (look : Fin 16) (d a b : GReg) (ext : BitVec 32) (dbl : Bool),
     let x : BitVec 32 := if dbl then ext else 0
     let words := if dbl then 2 else 1
     let f := fun lo n => x.toNat / 2 ^ lo % 2 ^ n
     let ga := (s.g a).toNat
     let gb := (s.g b).toNat
     let gd := (s.g d).toNat
     let fits := fun (la n align : Nat) => (n = 0 ∨ la + n ≤ s.accEnd s.myCore) ∧ la % align = 0
     let full := 16 ≤ s.lookups.countP (fun l => l.core == s.myCore)
     let enters := fun (i : Instr) (m : Meta) (l : LookupOp) =>
       ∃ t : State, exec i s = s.completes m t ∧ t.mem = s.mem ∧ t.agenda = s.agenda ++ [.lookupOpStart s.nextId] ∧
         t.lookups = s.lookups ++ [{ l with id := s.nextId, tid := s.cur, core := s.myCore, sup := s.src.sup }]
     let lcc := fun (le : Nat) (n : Nat) => if le = 1 then some n else none
     (let get := if dbl then Instr.rowgetDw g look d a b ext else .rowget g look d a b
      let getw := if dbl then Instr.rowgetwDw g look d a b ext else .rowgetw g look d a b
      let m := metaL 0x2A g look [] [d, a, b] words
      let n := ga / 2 ^ 32
      s.executes m →
       (full → ∀ i ∈ [get, getw], exec i s = .next (s.finish m (.again none))) ∧
       (¬full → s.table (f 16 6) = none → ∀ i ∈ [get, getw], exec i s = s.traps m { cause := .tableBad }) ∧
       (∀ e, ¬full → s.table (f 16 6) = some e →
         let pitch := if gb % 2 ^ 20 = 0 then tbRb e else gb % 2 ^ 20
         let l : LookupOp := { id := 0, tid := 0, core := 0, desc := e, n, list := ga % 2 ^ 20, scope := f 12 3
                               kind := .gather (f 15 1 == 1 || s.src.fb.getLsbD (f 16 6)) none (gd % 2 ^ 20) pitch
                               lcc := lcc (f 2 1) (f 3 4), rcc := lcc (f 7 1) (f 8 4), ga := s.g a }
         n ≤ 4096 → pitch % 32 = 0 → tbRb e ≤ pitch → fits (ga % 2 ^ 20) (4 * n) 4 →
         (gd % 2 ^ 20 % 32 = 0 → (n = 0 ∨ gd % 2 ^ 20 + (n - 1) * pitch + tbRb e ≤ s.accEnd s.myCore) → enters get m l) ∧
         ((∃ c o, addrForm (s.g d) = .core c o ∨
             addrForm (s.g d) = .window c o ∧ s.detachedFor s.myCore s.src.tdet (.window c o) = false) → enters getw m
           { l with kind := .gather (f 15 1 == 1 || s.src.fb.getLsbD (f 16 6)) (some (s.g d)) (gd % 2 ^ 20) pitch }))) ∧
     (let m := metaG 0x28 g [] [a, b]
      s.executes m → ¬full → ∀ e, s.table (gb % 2 ^ 6) = some e →
       let n := gb / 2 ^ 32 % 2 ^ 16
       let data := ga % 2 ^ 20
       let j := gb / 2 ^ 6 % 2 ^ 6
       let l : LookupOp := { id := 0, tid := 0, core := 0, desc := e, n, list := ga / 2 ^ 32 % 2 ^ 20, kind := .store data
                             scope := gb / 2 ^ 17 % 2 ^ 3, lcc := lcc (gb / 2 ^ 16 % 2) (gb / 2 ^ 12 % 2 ^ 4), ga := s.g a }
       gb / 2 ^ 17 % 2 ^ 3 ≤ 5 → n ≤ 4096 → fits (ga / 2 ^ 32 % 2 ^ 20) (4 * n) 4 → fits data (n * tbRb e) 32 →
       enters (.rowset g a b) m l ∧ (j < tbSlots e → enters (.rowacc g a b) m { l with kind := .accumulate j data }) ∧
       (tbSlots e ≤ j → exec (.rowacc g a b) s = s.traps m { cause := .tableBad })) ∧
     (let red := if dbl then Instr.segredDw g look d a b ext else .segred g look d a b
      let scat := if dbl then Instr.segscatDw g look d a b ext else .segscat g look d a b
      let m := metaL 0x2B g look [] [d, a, b] words
      s.executes m → ¬full → ∀ e, s.table (f 7 6) = some e →
       let hiD := gd / 2 ^ 32
       let hiA := ga / 2 ^ 32
       let out := gd % 2 ^ 20
       let rows := ga % 2 ^ 20
       let map := gb / 2 ^ 32 % 2 ^ 20
       let offs := gb % 2 ^ 20
       let pitch := if hiA = 0 then tbRb e else hiA
       let l : LookupOp := { id := 0, tid := 0, core := 0, desc := e, lcc := lcc (f 2 1) (f 3 4), ga := s.g a
                             kind := .segred (f 14 2) (f 13 1 == 1) hiD out rows pitch map offs }
       out % 32 = 0 →
       (1 ≤ hiD → hiD ≤ 4096 → pitch % 32 = 0 → tbRb e ≤ pitch → rows % 32 = 0 → fits offs (4 * (hiD + 1)) 4 →
         fits out (hiD * (4 * tbElems e)) 32 → s.scratchEnd s.myCore ≤ out → enters red m l) ∧
       (1 ≤ hiA → hiA ≤ 4096 → 1 ≤ hiD → hiD ≤ 65536 → fits offs (4 * (hiA + 1)) 4 → fits out (hiD * (4 * tbElems e)) 32 →
         fits rows (hiA * (4 * tbElems e)) 4 →
         enters scat m { l with kind := .segscat (f 14 2) (f 13 1 == 1) hiA hiD out rows map offs })) ∧
     (let m := metaG 0x28 g [] [a]
      let there := s.lookups.countP (fun l => l.tid == s.cur) ≤ ga % 2 ^ 16
      s.executes m →
       (there → exec (.rowwait g a) s = s.completes m s) ∧
       (¬there → s.src.granted = false → exec (.rowwait g a) s = s.waitsIn m (.rows (ga % 2 ^ 16)) s)))

/-- R188, R189: the loop of the Elision unit: the set keeps what it holds and takes the new identifiers in order, each once,
until it is full.  Where the list overlaps neither output, the output holds the new identifiers, and the inverse map names each
identifier's place in the set, or 0xFFFF where the set had no room.

R188, R189: `ELIDE` and `ELIDEM` check their operands in order and enter the unit; when the operation is done, gD holds the
overflows, the size of the set and the number of new identifiers, and the set is the loop's.  The order of the checks is the
model's choice (log 32). -/
def Obligations.Elision : Prop :=
  (∀ (s : State) (e : Sys2Proof.Machine.Elision),
     let set0 := if e.merge then (s.core e.core).elision else []
     let r := s.elide e
     let set := (r.1.core e.core).elision
     set0.length ≤ 4096 → set0.Nodup →
       (set0 <+: set ∧ set.Nodup ∧ set.length ≤ 4096 ∧ set.length = set0.length + r.2.1 ∧ r.2.1 + r.2.2 ≤ e.n ∧
         (0 < r.2.2 → set.length = 4096)) ∧
       (let apart := fun (x n y k : Nat) => x + n ≤ y ∨ y + k ≤ x
        let ids := (List.range e.n).map (fun i => BitVec.ofNat 32 (s.poolNat e.core (e.list + 4 * i) 4))
        e.core = coreOfThread e.tid → s.mem.wf = true → (s.core e.core).poisoned = [] → (∀ p ∈ (s.core e.core).pub, p.getLsbD 63 = false) →
         (s.thread e.tid).stores = [] → apart e.list (4 * e.n) e.out (4 * e.n) → apart e.list (4 * e.n) e.inv (2 * e.n) →
         set = ids.foldl (fun set x => if x ∈ set ∨ 4096 ≤ set.length then set else set ++ [x]) set0 ∧
         r.2.2 = ids.countP (fun x => !set.contains x) ∧
         (apart e.out (4 * e.n) e.inv (2 * e.n) →
           (∀ j < r.2.1, set[set0.length + j]? = some (BitVec.ofNat 32 (r.1.poolNat e.core (e.out + 4 * j) 4))) ∧
           ∀ i x, ids[i]? = some x → let k := r.1.poolNat e.core (e.inv + 2 * i) 2
             k = 0xFFFF ∧ x ∉ set ∨ set[k]? = some x))) ∧
  (∀ (s : State),
     (∀ (g : Guard) (look : Fin 16) (d a b : GReg) (two merge : Bool),
       let i : Instr := if merge then .elidem g look two d a b else .elide g look two d a b
       let m := metaL 0x29 g look [d] [d, a, b] (if two then 2 else 1)
       let out := (s.g d).toNat % 2 ^ 20
       let n := (s.g a).toNat / 2 ^ 32
       let list := (s.g a).toNat % 2 ^ 20
       let inv := (s.g b).toNat % 2 ^ 20
       let inRange := fun (x : Nat) => n = 0 ∨ x ≤ s.accEnd s.myCore
       s.executes m →
         (out % 4 ≠ 0 → exec i s = s.traps m { cause := .misalign, addr := Word.of out }) ∧
         (out % 4 = 0 → 4096 < n → exec i s = s.traps m { cause := .tableBad }) ∧
         (out % 4 = 0 → n ≤ 4096 → ¬inRange (out + 4 * n) → exec i s = s.traps m { cause := .localRange, addr := Word.of out }) ∧
         (out % 4 = 0 → n ≤ 4096 → inRange (out + 4 * n) → ¬inRange (list + 4 * n) →
           exec i s = s.traps m { cause := .localRange, addr := Word.of list }) ∧
         (out % 4 = 0 → n ≤ 4096 → inRange (out + 4 * n) → inRange (list + 4 * n) → list % 4 ≠ 0 →
           exec i s = s.traps m { cause := .misalign, addr := Word.of list }) ∧
         (out % 4 = 0 → n ≤ 4096 → inRange (out + 4 * n) → inRange (list + 4 * n) → list % 4 = 0 → inRange (inv + 2 * n) →
           inv % 2 = 0 → ∃ t : State, exec i s = s.completes m t ∧ t.mem = s.mem ∧
             t.elisions = s.elisions ++ [{ id := s.nextId, tid := s.cur, core := s.myCore, merge, n, list, out, inv, d }] ∧
             (t.thread s.cur).outstanding = (s.thread s.cur).outstanding ++ [{ id := s.nextId, writes := gs [d] }])) ∧
     (∀ id e es, s.elisions = e :: es → e.id = id → (∀ x ∈ es, x.id ≠ id) → e.core = coreOfThread e.tid →
       (s.core e.core).poisoned = [] → (s.core e.core).flipped = [] →
       let r := { s with elisions := es }.elide e
       let set := (r.1.core e.core).elision
       ∃ t : State, exec (.elisionComplete id) s = .next t ∧ t.elisions = es ∧ t.mem = r.1.mem ∧ (t.core e.core).elision = set ∧
         ((s.thread e.tid).outstanding.any (fun o => o.id == id) = true → t.thread e.tid =
           { (r.1.thread e.tid).setG e.d (Word.of (r.2.2 % 2 ^ 16 * 2 ^ 48 + set.length % 2 ^ 16 * 2 ^ 32 + r.2.1 % 2 ^ 16))
             with outstanding := (s.thread e.tid).outstanding.filter (fun o => o.id != id) })))

/-- R192–R195, R200, R201: the events in the life of a lookup operation, on ways that are open.  How row requests merge, and the
moment at which a packet is served, are the model's choices (log 17). -/
def Obligations.LookupEvents : Prop :=
  ∀ (s : State) (id : Nat) (l : LookupOp), s.lookup? id = some l → s.mem.wf = true →
    (∀ k, (s.core k).poisoned = [] ∧ (s.core k).flipped = [] ∧ ∀ p ∈ (s.core k).pub, p.getLsbD 63 = false) →
    (∀ m, (s.module m).poisoned = []) → l.core = coreOfThread l.tid → (s.thread l.tid).stores = [] →
    let row := fun (t : State) (i : Nat) => ((t.lookup? id).bind (fun l => l.rows[i]?)).map (fun r => r.st)
    (∀ fresh far laddr pitch, l.kind = .gather fresh far laddr pitch → l.started = false →
      (∀ x ∈ s.lookups, x.tid = l.tid → x.id ≠ id → x.started = true) →
      let ids := (List.range l.n).map (fun k => s.poolNat l.core (l.list + 4 * k) 4)
      ((∀ x ∈ ids, x < tbRows l.desc) → ∃ t : State, exec (.lookupOpStart id) s = .next t ∧
        (t.lookup? id).map (fun l => (l.started, l.rows.map (fun r => r.rid))) = some (true, ids) ∧
        ∀ i < l.n, Instr.rowRequestServe id i ∈ t.agenda) ∧
      (∀ k x, ids[k]? = some x → tbRows l.desc ≤ x → (∀ j < k, ids.getD j 0 < tbRows l.desc) →
        exec (.lookupOpStart id) s = .next (s.emit (.lookupOpFault id .tableBad 0 (l.list + 4 * k))))) ∧
    (∀ scat kind inv bags outRows out rows pitch map offs, l.started = false → (∀ x ∈ s.lookups, x.tid = l.tid → x.id = id) →
      (if scat then l.kind = .segscat kind inv bags outRows out rows map offs ∧ pitch = 0
        else l.kind = .segred kind inv bags out rows pitch map offs ∧ outRows = bags) →
      (∀ os, s.segCheck l.tid l.desc scat inv bags outRows rows pitch map offs = .ok os →
        let elems := tbElems l.desc
        let x : SegInput := { tid := l.tid, e := elems, fmt := (tableFormat (tbFmt l.desc)).getD .f32, kind, inv, rows, pitch
                              map, offs := os }
        let res := if scat then x.scat s outRows out else x.red s bags out
        ∃ t : State, exec (.lookupOpStart id) s = .next t ∧ (t.lookup? id).map (fun y => y.started) = some true ∧
          t.mem = res.1.mem ∧ (t.thread l.tid).fflags = (s.thread l.tid).fflags ||| res.2 ∧
          (scat = false → (inv = true → map + 2 * os.getLastD 0 ≤ out) →
            (∀ i < os.getLastD 0, rows + x.row s i * pitch + tbRb l.desc ≤ out) →
            ∀ i < bags * elems, t.poolNat l.core (out + 4 * i) 4 = (x.bag s (i / elems) (i % elems)).1 % 2 ^ 32)) ∧
      (∀ c a, s.segCheck l.tid l.desc scat inv bags outRows rows pitch map offs = .error (c, a) →
        exec (.lookupOpStart id) s = .next (s.emit (.lookupOpFault id c 0 a)))) ∧
    (∀ i id2 l2 i2 r r2, s.lookup? id2 = some l2 → l.rows[i]? = some r → l2.rows[i2]? = some r2 → (id, i) ≠ (id2, i2) →
      r.st = .waiting → r2.st = .waiting → s.sameRequest l r l2 r2 = true → s.groupFirst [(id, i), (id2, i2)] = true →
      s.soloBefore [(id, i), (id2, i2)] = true →
      ∃ t : State, exec (.rowRequestMerge id i id2 i2) s = .next t ∧ t.mem = s.mem ∧
        ((t.lookup? id2).bind (fun l => l.rows[i2]?)).map (fun r => r.st) = some (.merged id i) ∧
        ∀ x ∈ s.joinedTo id2 i2, (s.lookups.filter (fun y => y.id == x.1)).length = 1 →
          ((t.lookup? x.1).bind (fun l => l.rows[x.2]?)).map (fun r => r.st) = some (.merged id i)) ∧
    (∀ i r, l.rows[i]? = some r → r.st = .waiting → s.partOfThread l.tid ≠ none →
      let home := tbHome l.desc r.rid
      (s.partOfCore home ≠ s.partOfThread l.tid → exec (.rowRequestServe id i) s =
        .next (s.emit (.lookupOpFault id .remoteFault 1 (rowVa l.desc r.rid)))) ∧
      (∀ c sub, s.partOfCore home = s.partOfThread l.tid → s.blockedWay (dieOfCore l.core) (dieOfCore home) = none →
        s.blockedWay (dieOfCore home) (dieOfCore l.core) = none →
        s.piecesTranslate l home (rowPieces l.desc (rowVa l.desc r.rid) l.folds) = .fault c sub →
        exec (.rowRequestServe id i) s = .next (s.emit (.lookupOpFault id c sub (rowVa l.desc r.rid)))) ∧
      (∀ ps marks, s.partOfCore home = s.partOfThread l.tid → s.blockedWay (dieOfCore l.core) (dieOfCore home) = none →
        s.piecesTranslate l home (rowPieces l.desc (rowVa l.desc r.rid) l.folds) = .ok ps marks →
        ∃ t : State, exec (.rowRequestServe id i) s = .next t ∧ row t i = some (.served (moduleOfCore home) ps) ∧
          t.agenda = s.agenda ++ [l.unitEvent i])) ∧
    (∀ i r m ps, l.rows[i]? = some r → r.st = .served m ps → s.groupFirst [(id, i)] = true →
      s.sourcesClear id i m ps = true → tbSlots l.desc = 0 →
      (∀ p ∈ ps, p.pa < 2 ^ 42 ∧ p.pa % 64 ≤ 32 ∧ p.tol = false ∧ s.unitDown (tbHome l.desc r.rid) m p.pa = none) →
      let own := ownPieces l.desc (rowVa l.desc r.rid) ps
      ((∃ fresh far laddr pitch, l.kind = .gather fresh far laddr pitch) → ∃ t : State, exec (.rowRead id i) s = .next t ∧ t.mem = s.mem ∧
        row t i = some (.read (own.flatMap (fun p => s.dramBytes m p.pa 32))) ∧ Instr.rowReplyLand id i ∈ t.agenda ∧
        ∀ x ∈ s.joinedTo id i, Instr.rowReplyLand x.1 x.2 ∈ t.agenda) ∧
      (∀ data p, l.kind = .store data → own = [p] → p.va = rowVa l.desc r.rid → r.data.length = 32 →
        ∃ t : State, exec (.rowStore id i) s = .next t ∧ row t i = some .finished ∧
          ∀ k < 32, t.dramByte m (p.pa + k) = r.data.getD k 0)) ∧
    (∀ i r m p q j data, l.rows[i]? = some r → r.st = .served m [p] → s.groupFirst [(id, i)] = true →
      s.sourcesClear id i m [p] = true → s.unitDown (tbHome l.desc r.rid) m p.pa = none → l.kind = .accumulate j data → p.slots = [q] → p.tol = false → p.stol = false →
      p.va = rowVa l.desc r.rid → r.data.length = 32 → p.pa < 2 ^ 42 → q.m = m → q.pa < 2 ^ 42 → q.pa % 32 = 0 →
      channelOfPa q.pa = channelOfPa p.pa →
      ∃ t : State, exec (.rowAccumulate id i) s = .next t ∧ row t i = some .finished ∧
        t.arrivals m p.pa = min (s.arrivals m p.pa + 1) 16 ∧
        ∀ k < 8, t.dramNat m (q.pa + 4 * k) 4 =
          memAdd false (s.dramNat m (q.pa + 4 * k) 4) (natOfBytes ((r.data.drop (4 * k)).take 4))) ∧
    (∀ i r fresh laddr pitch bs, l.rows[i]? = some r → l.kind = .gather fresh none laddr pitch → r.st = .read bs →
      s.blockedWay (dieOfCore (tbHome l.desc r.rid)) (dieOfCore l.core) = none →
      ∃ t : State, exec (.rowReplyLand id i) s = .next t ∧ row t i = some .finished ∧
        ∀ k < bs.length, t.poolByte l.core (laddr + i * pitch + k) = bs.getD k 0) ∧
    (l.started = true → (∀ r ∈ l.rows, r.st = .finished) → s.lookups.find? (fun x => x.tid == l.tid) = some l → ∃ t : State,
      exec (.lookupOpComplete id) s = .next t ∧ t.lookup? id = none ∧
      (t.core l.core).cc = (match l.lcc with
        | some c => (s.core l.core).cc.set (c % 16) ((s.core l.core).cc[c % 16] + 1)
        | none => (s.core l.core).cc)) ∧
    (∀ cause sub addr, ∃ t : State, exec (.lookupOpFault id cause sub addr) s = .next t ∧ t.lookup? id = none ∧
      (t.core l.core).cc = (s.core l.core).cc ∧ ((s.thread l.tid).alive = true → (t.thread l.tid).pending =
        (s.thread l.tid).pending ++ [{ cause, sub, origin := 2, addr := Word.of addr }]))

/-! ## Atomics and reductions (R229–R246) -/

/-- R229, R231: `AMO` and `CAS` at issue: the checks of each address form, and one request with its operands captured and gD
outstanding.  `CAS` compares with gD.  That `CAS` and `AMO` refuse a tolerant or reduction page is log 16; where the address has
its home, log 30.

R231: the value that an atomic leaves, for operands of its width. -/
def Obligations.AtomicIssue : Prop :=
  (∀ (s : State) (g : Guard) (look : Fin 16) (d a b : GReg) (dbl two : Bool),
     let amos : List (Instr × Nat × AmoOp) := [(.amoAddDw g look dbl d a b, 2, .add), (.amoAnd g look dbl d a b, 2, .and), (.amoOr g look dbl d a b, 2, .or),
       (.amoXor g look dbl d a b, 2, .xor), (.amoMin g look dbl d a b, 2, .min), (.amoMax g look dbl d a b, 2, .max),
       (.amoMinz g look dbl d a b, 2, .minz), (.amoMaxz g look dbl d a b, 2, .maxz), (.amoSwap g look dbl d a b, 2, .swap),
       (if dbl then .amoAddD g look d a b else .amoAddW g look d a b, 1, .add)]
     let cas : Instr := if dbl then .casD g look two d a b else .casW g look two d a b
     let all : List (Instr × Meta × AmoOp) := amos.map (fun x => (x.1, metaL 0x2C g look [d] [a, b] x.2.1, x.2.2)) ++
       [(cas, metaL 0x2D g look [d] [d, a, b] (if two then 2 else 1), .cas)]
     let n := if dbl then 8 else 4
     let ea := s.g a
     let form := addrForm ea
     let x : Nat → Miss := fun va =>
       { req := reqThread s.cur, core := s.myCore, part := s.partOfThread s.cur, va, write := true, sup := s.src.sup, tol := false, red := some false }
     let away := match form with
       | .window _ _ => s.src.tdet = true ∨ (s.core s.myCore).team.any (fun t => t.mdet) = true
       | _ => False
     ∀ i ∈ all, s.executes i.2.1 →
       let sent := fun (stream : Option Nat) (pa : Option DramAt) => ∃ t r, exec i.1 s = s.completes i.2.1 t ∧ t.reqs = s.reqs ++ [r] ∧
         r.ea = ea ∧ r.stream = stream ∧ r.st = .waiting ∧ r.id = s.nextId ∧ r.tid = s.cur ∧ r.src = s.myCore ∧
         r.body = .amo i.2.2 n ((s.g b).toNat % 2 ^ (8 * n)) ((s.g d).toNat % 2 ^ (8 * n)) d pa ∧
         t.thread s.cur = { s.thread s.cur with outstanding := (s.thread s.cur).outstanding ++ [{ id := s.nextId, writes := gs [d] }] }
       (form = .nonCanonical → exec i.1 s = s.traps i.2.1 { cause := .pageFault, sub := 1, addr := ea }) ∧
       (form ≠ .nonCanonical → ea.toNat % n ≠ 0 → exec i.1 s = s.traps i.2.1 { cause := .misalign, addr := ea }) ∧
       ((∀ va, form ≠ .dram va) → form ≠ .nonCanonical → ea.toNat % n = 0 →
         (away → exec i.1 s = s.traps i.2.1 { cause := .pluralDetached, addr := ea }) ∧ (¬away → sent (some 0) none)) ∧
       (∀ va p, form = .dram va → va < 2 ^ 57 → ea.toNat % n = 0 →
         s.translate (x va) s.src.sup .write = .ok p → sent none (some { m := p.m, pa := p.pa, pin := ptePIN p.pte })) ∧
       (∀ va e, form = .dram va → va < 2 ^ 57 → ea.toNat % n = 0 →
         tlbHit (s.quad (s.translator (x va)).2).tlb (s.partition (s.translator (x va)).1 (s.partOfThread s.cur)).asid va = some e →
         bit e.pte 10 = true ∨ bit e.pte 11 = true →
         exec i.1 s = .next (s.finish i.2.1 (.trap { cause := .pageProt, addr := ea } (s.dropWalks (reqThread s.cur))))) ∧
       (∀ va c sub, form = .dram va → va < 2 ^ 57 → ea.toNat % n = 0 →
         s.translate (x va) s.src.sup .write = .fault c sub →
         (c ≠ .remoteFault → exec i.1 s = .next (s.finish i.2.1
           (.trap { cause := c, sub, addr := Word.of va } (s.dropWalks (reqThread s.cur))))) ∧
         (c = .remoteFault → ∃ t r, exec i.1 s = s.completes i.2.1 t ∧ t.reqs = s.reqs ++ [r] ∧ r.tid = s.cur ∧
           r.st = .failed { cause := .remoteFault, sub := 3, origin := 7, addr := ea }))) ∧
  (∀ (n x b : Nat), n = 4 ∨ n = 8 → x < 2 ^ (8 * n) → b < 2 ^ (8 * n) →
     let val := fun (x : Nat) => (BitVec.ofNat (8 * n) x).toInt
     amoValue .add n x b = (x + b) % 2 ^ (8 * n) ∧ amoValue .and n x b = x &&& b ∧ amoValue .or n x b = x ||| b ∧
     amoValue .xor n x b = x ^^^ b ∧ amoValue .swap n x b = b ∧
     amoValue .min n x b = (if val b < val x then b else x) ∧ amoValue .max n x b = (if val x < val b then b else x) ∧
     amoValue .minz n x b = min x b ∧ amoValue .maxz n x b = max x b)

/-- R229–R233: an atomic at its unit or pool: the old value goes back to gD, sign-extended from 32 bits, and the location takes
the new one, but for a `CAS` that does not match; a location that no way leads to (R279); requests that a switch has combined; a
reply, and a fault's, which a way back that is gone turns into `REMOTE_FAULT` (R10).  The moments, and the subcodes of blocked ways,
are the model's choices (logs 20 and 28). -/
def Obligations.AtomicEvents : Prop :=
  ∀ (s : State) (id : Nat) (r : Req) (op : AmoOp) (n b cmp : Nat) (d : GReg) (pa : Option DramAt),
    s.req? id = some r → r.body = .amo op n b cmp d pa → (n = 4 ∨ n = 8) → s.mem.wf = true → b < 2 ^ (8 * n) →
    let old := fun (x : Nat) => if n = 4 then ((BitVec.ofNat 32 x).signExtend 64).toNat else x
    let new := fun (x : Nat) => if op = .cas ∧ x ≠ cmp then x else amoValue op n x b
    (r.joined = [] → s.mayGo r = true → s.unitTurn r = true →
      (∀ c, pa = none → s.target r.src r.part (addrForm r.ea) = .ok c → s.targetRange c (addrForm r.ea) n = true →
        (s.core c).poisoned = [] → (∀ p ∈ (s.core c).pub, p.getLsbD 63 = false) →
        let x := s.poolNat c (addrForm r.ea).off n
        ∃ t : State, exec (.atomicExecute id) s = .next t ∧ (t.req? id).map (fun q => q.st) = some (.replied (old x)) ∧
          t.poolNat c (addrForm r.ea).off n = new x) ∧
      (∀ p, pa = some p → p.pa < 2 ^ 42 → p.pa % n = 0 → (s.module p.m).poisoned = [] → (s.ownership p.m p.pa).owners = [] →
        s.unitDown r.src p.m p.pa = none →
        let x := s.dramNat p.m p.pa n
        ∃ t : State, exec (.atomicExecute id) s = .next t ∧ (t.req? id).map (fun q => q.st) = some (.replied (old x)) ∧
          t.dramNat p.m p.pa n = new x) ∧
      (∀ p sub, pa = some p → s.unitDown r.src p.m p.pa = some sub → ∃ t : State, exec (.atomicExecute id) s = .next t ∧ t.mem = s.mem ∧
        (t.req? id).map (fun q => q.st) = some (.failed { cause := .remoteFault, sub, origin := 7, addr := r.ea })) ∧
      (∀ p, pa = some p → 2 ^ 42 ≤ p.pa → s.unitDown r.src p.m p.pa = none → (s.ownership p.m p.pa).owners = [] → ∃ t : State, exec (.atomicExecute id) s = .next t ∧ t.mem = s.mem ∧
        (t.req? id).map (fun q => q.st) = some (.failed { cause := .memsideError, sub := 1, origin := 7, addr := r.ea }))) ∧
    (∀ id2 q b2 cmp2 d2, s.req? id2 = some q → q.body = .amo .add n b2 cmp2 d2 pa → id ≠ id2 → s.ready r = true → s.ready q = true →
      s.combinable r q = true → ∃ t : State, exec (.amoCombine id id2) s = .next t ∧ t.mem = s.mem ∧
        (t.req? id2).map (fun q => q.st) = some (.joined id) ∧
        (t.req? id).map (fun r => r.joined) = some (r.joined ++ (id2, b2) :: q.joined)) ∧
    let back := s.blockedWay (s.replyFrom r) (dieOfCore r.src)
    (∀ p, pa = some p → s.replyFrom r = p.m * 16 + dieOfPa p.pa) ∧
    (∀ x, r.st = .failed x → (s.thread r.tid).alive = true → ∃ t : State, exec (.atomicFaultReply id) s = .next t ∧ t.req? id = none ∧
      t.thread r.tid = { s.thread r.tid with
        outstanding := (s.thread r.tid).outstanding.filter (fun o => o.id != id)
        pending := (s.thread r.tid).pending ++ [match back with
          | none => x
          | some sub => { x with cause := .remoteFault, sub }] }) ∧
    (∀ v sub, r.st = .replied v → back = some sub → (s.thread r.tid).alive = true →
      ∃ t : State, exec (.remoteReply id) s = .next t ∧ t.req? id = none ∧ t.thread r.tid = { s.thread r.tid with
        outstanding := (s.thread r.tid).outstanding.filter (fun o => o.id != id)
        pending := (s.thread r.tid).pending ++ [
          { cause := .remoteFault, sub, origin := if r.stream.isSome then 4 else 7, unit := r.stream.getD 0, addr := r.ea }] }) ∧
    (∀ v, r.st = .replied v → back = none → (s.thread r.tid).outstanding.any (fun o => o.id == r.id) = true →
      ∃ t : State, exec (.remoteReply id) s = .next t ∧ t.req? id = none ∧ (t.thread r.tid).g = ((s.thread r.tid).setG d (Word.of v)).g)

/-- R234, R235, R238, R239: `ACC` and `FOLD` at issue: only DRAM has regions; the settings of `ACCR`, the alignment, and the
region's pages are checked; then one request with the physical addresses of the element and its slot, or of the line and its
slots.  A page of them that has RED clear or TOL set traps `PAGE_PROT` (R238).

R235, R236, R238, R239: at the unit, an accumulate adds its value into the slot and counts one arrival at the line; a fold adds
the slots, in their order, to each element, leaves them +0, and the count 0; a slot on another channel than its base, or in another
module, is refused.  That the whole of it happens in one event is log 20. -/
def Obligations.ReductionRegions : Prop :=
  (∀ (s : State) (g : Guard) (a b : GReg),
     let accr := s.src.accr.toNat
     let slot := accr / 2 ^ 58
     let ns := accr / 2 ^ 51 % 2 ^ 7
     let f64 := accr / 2 ^ 50 % 2 = 1
     let at_ := fun (x j : Nat) => x + 4096 * (accr % 2 ^ 25) + j * (32 * (accr / 2 ^ 25 % 2 ^ 25))
     let x : Nat → Miss := fun va =>
       { req := reqThread s.cur, core := s.myCore, part := s.partOfThread s.cur, va, write := true, sup := s.src.sup, tol := false, red := some true }
     let page := fun (va : Nat) (p : Place) => va < 2 ^ 57 ∧ s.translate (x va) s.src.sup .write = .ok p
     let prot := fun (va : Nat) => s.translate (x va) s.src.sup .write = .fault .pageProt 0
     (∀ va e, tlbHit (s.quad (s.translator (x va)).2).tlb (s.partition (s.translator (x va)).1 (s.partOfThread s.cur)).asid va = some e →
       bit e.pte 10 = true ∨ bit e.pte 11 = false → prot va) ∧
     let clean := fun (ps : List Place) => ∀ p ∈ ps, bit p.pte 6 = true
     let m := metaG 0x2E g [] [a, b]
     let mf := metaG 0x2E g [] [a]
     let accs : List (Instr × Bool × Word) := [(.accF32 g a b, false, (s.g b).setWidth 32 |>.setWidth 64),
       (.accBf16 g a b, false, ((s.g b).setWidth 16 |>.setWidth 64) <<< 16), (.accF64 g a b, true, s.g b)]
     ((∀ va, addrForm (s.g a) ≠ .dram va) →
       (s.executes m → ∀ i ∈ accs, exec i.1 s = s.traps m { cause := .pageFault, sub := 1, addr := s.g a }) ∧
       (s.executes mf → exec (.fold g a) s = s.traps mf { cause := .pageFault, sub := 1, addr := s.g a })) ∧
     (∀ va, addrForm (s.g a) = .dram va →
       (s.executes m → ∀ i ∈ accs,
         let w := if i.2.1 then 8 else 4
         ((ns = 0 ∨ ¬(f64 ↔ i.2.1 = true)) → exec i.1 s = s.traps m { cause := .illegal }) ∧
         (ns ≠ 0 → (f64 ↔ i.2.1 = true) → va % w ≠ 0 → exec i.1 s = s.traps m { cause := .misalign, addr := s.g a }) ∧
         (∀ q, ns ≠ 0 → (f64 ↔ i.2.1 = true) → va % w = 0 → va < 2 ^ 57 → prot va → page (at_ va slot) q →
           exec i.1 s = .next (s.finish m (.trap { cause := .pageProt, addr := s.g a } (s.dropWalks (reqThread s.cur))))) ∧
         (∀ p, ns ≠ 0 → (f64 ↔ i.2.1 = true) → va % w = 0 → page va p → at_ va slot < 2 ^ 57 → prot (at_ va slot) →
           exec i.1 s = .next (s.finish m
             (.trap { cause := .pageProt, addr := Word.of (at_ va slot) } (s.dropWalks (reqThread s.cur))))) ∧
         (∀ p q, ns ≠ 0 → (f64 ↔ i.2.1 = true) → va % w = 0 → page va p → page (at_ va slot) q →
           ∃ t r, exec i.1 s = s.completes m t ∧ (clean [p, q] → t.mem = s.mem) ∧ t.reqs = s.reqs ++ [r] ∧ r.ea = s.g a ∧
             r.tid = s.cur ∧ r.st = .waiting ∧
             r.body = .acc i.2.1 i.2.2 { m := p.m, pa := p.pa, pin := ptePIN p.pte } { m := q.m, pa := q.pa, pin := ptePIN q.pte })) ∧
       (s.executes mf →
         (ns = 0 → exec (.fold g a) s = s.traps mf { cause := .illegal }) ∧
         (∀ (p : Place) (qs : List Place), ns ≠ 0 → page va p → qs.length = ns →
           (∀ j q, qs[j]? = some q → page (at_ (va / 64 * 64) j) q) →
           ∃ t r, exec (.fold g a) s = s.completes mf t ∧ (clean (p :: qs) → t.mem = s.mem) ∧ t.reqs = s.reqs ++ [r] ∧
             r.ea = s.g a ∧ r.tid = s.cur ∧ r.st = .waiting ∧
             r.body = .fold (decide f64) { m := p.m, pa := p.pa / 64 * 64, pin := ptePIN p.pte } 
               (qs.map (fun q => { m := q.m, pa := q.pa, pin := ptePIN q.pte })))))) ∧
  (∀ (s : State) (id : Nat) (r : Req), s.req? id = some r → s.mayGo r = true → s.unitTurn r = true →
     s.mem.wf = true →
     (∀ f64 v base q, r.body = .acc f64 v base q → (s.module base.m).poisoned = [] → base.pa < 2 ^ 42 →
       s.unitDown r.src base.m base.pa = none → q.m = base.m → q.pa < 2 ^ 42 → channelOfPa q.pa = channelOfPa base.pa →
       let w := if f64 then 8 else 4
       q.pa % w = 0 → ∃ t : State, exec (.accArrival id) s = .next t ∧ t.req? id = none ∧
         t.arrivals base.m base.pa = min (s.arrivals base.m base.pa + 1) 16 ∧
         t.dramNat base.m q.pa w = memAdd f64 (s.dramNat base.m q.pa w) v.toNat % 2 ^ (8 * w)) ∧
     (∀ f64 base slots, r.body = .fold f64 base slots → (s.module base.m).poisoned = [] →
       let m := base.m
       let line := base.pa
       line % 64 = 0 → line + 64 ≤ 2 ^ 41 → s.unitDown r.src m line = none →
       (∀ q ∈ slots, q.m = m ∧ q.pa % 64 = 0 ∧ q.pa + 64 ≤ 2 ^ 41 ∧ q.pa ≠ line ∧ channelOfPa q.pa = channelOfPa line) →
       let w := if f64 then 8 else 4
       ∃ t : State, exec (.foldArrival id) s = .next t ∧ t.req? id = none ∧ t.arrivals m line = 0 ∧
         ∀ e < 64 / w, (∀ q ∈ slots, t.dramNat m (q.pa + w * e) w = 0) ∧
           t.dramNat m (line + w * e) w = (slots.foldl (fun b q => memAdd f64 b (s.dramNat m (q.pa + w * e) w))
             (s.dramNat m (line + w * e) w)) % 2 ^ (8 * w)) ∧
     (∀ base q f64 v slots i, (r.body = .acc f64 v base q ∧ i = Instr.accArrival id ∨
         r.body = .fold f64 base slots ∧ q ∈ slots ∧ i = .foldArrival id) →
       base.pa < 2 ^ 42 → s.unitDown r.src base.m base.pa = none → (q.m ≠ base.m ∨ channelOfPa q.pa ≠ channelOfPa base.pa) → ∃ t : State, exec i s = .next t ∧ t.mem = s.mem ∧
         (t.req? id).map (fun x => x.st) = some (.failed { cause := .memsideError, sub := 2, origin := 7, addr := r.ea })))

/-- R242, R243: `RECVRED` checks its format, its partial sum and its count in order, completes at once when nothing is left to
sum, and else waits; each message that arrives is summed element by element, a message of another length traps and stays, and
with the last the thread goes on, gD the count.  An element of the first message is copied, a NaN as the canonical one; a later
one is added, a `BF16` as the `F32` of its bits, an integer modulo its width.  The order of the checks is log 32. -/
def Obligations.ReceiveReduce : Prop :=
  ∀ (s : State),
    let formats : List (Tag × Nat × Nat) := [(.f32, 4, 4), (.f64, 8, 8), (.bf16, 2, 4), (.i32, 4, 4), (.i64, 8, 8)]
    (∀ (g : Guard) (look : Fin 16) (two : Bool) (d a b : GReg),
      let m := metaL 0x2F g look [d] [d, a, b] (if two then 2 else 1)
      let p := (s.g a).toNat % poolSize s.kind
      let e := (s.g b).toNat % 2 ^ 16
      let code := (s.g b).toNat / 2 ^ 16 % 2 ^ 5
      let n := (s.g b).toNat / 2 ^ 32
      let k := (s.g d).toNat % 2 ^ 32
      let i : Instr := .recvred g look two d a b
      s.executes m →
        ((∀ f ∈ formats, f.1.code ≠ code) → exec i s = s.traps m { cause := .illegal }) ∧
        (∀ f ∈ formats, f.1.code = code →
          let (t, pw, aw) := f
          (e = 0 → exec i s = s.traps m { cause := .illegal }) ∧
          (e ≠ 0 → p % 32 ≠ 0 → exec i s = s.traps m { cause := .misalign, addr := Word.of p }) ∧
          (e ≠ 0 → p % 32 = 0 → (p < s.scratchEnd s.myCore ∨ s.accEnd s.myCore < p + e * aw) →
            exec i s = s.traps m { cause := .localRange, addr := Word.of p }) ∧
          (e ≠ 0 → p % 32 = 0 → s.scratchEnd s.myCore ≤ p → p + e * aw ≤ s.accEnd s.myCore →
            (2048 < e * pw → exec i s = s.traps m { cause := .illegal }) ∧
            (e * pw ≤ 2048 → (n ≤ k ∨ s.src.granted = true) → exec i s = s.completes m s) ∧
            (e * pw ≤ 2048 → k < n → s.src.granted = false → exec i s = s.waitsIn m (.recvred d p k n t e (s.g d)) s)))) ∧
    (∀ k acc x, acc < 2 ^ 64 → x < 2 ^ 64 →
      let float := fun (f : FloatFmt) (x : Nat) =>
        if k = 0 then (if 2 ^ f.m * (2 ^ f.e - 1) < f.low x then f.nanBits else x, 0) else f.add acc x
      (x < 2 ^ 32 → recvElement .f32 4 k acc x = float f32Fmt x) ∧ recvElement .f64 8 k acc x = float f64Fmt x ∧
      (x < 2 ^ 16 → recvElement .bf16 4 k acc x = float f32Fmt (x * 2 ^ 16)) ∧
      (∀ t n, (t, n) ∈ [(Tag.i32, 4), (.i64, 8)] → recvElement t n k acc x = ((if k = 0 then x else acc + x) % 2 ^ (8 * n), 0))) ∧
    (∀ tid d p k n e old, ∀ f ∈ formats, let (t, pw, aw) := f
      s.waits tid (.recvred d p k n t e old) →
      let core := coreOfThread tid
      (s.recvReady tid = false → exec (.recvredMessage tid) s = .next s) ∧
      (s.recvReady tid = true → s.headBad core false = none → summaryLen (s.headSummary core) ≠ e * pw →
        exec (.recvredMessage tid) s = .next ((s.modThread tid Thread.interrupt).raise tid { cause := .illegal }
          (s.thread tid).waitWords)) ∧
      (s.recvReady tid = true → summaryLen (s.headSummary core) = e * pw → (s.core core).poisoned = [] →
        (s.thread tid).stores = [] → s.mem.wf = true → (∀ p ∈ (s.core core).pub, p.getLsbD 63 = false) →
        let bs := s.ringRead core ((s.core core).rqHead + 16) (e * pw)
        let el := fun (i : Nat) => recvElement t aw k (s.poolNat core (p + i * aw) aw) (natOfBytes ((bs.drop (i * pw)).take pw))
        ∃ u : State, (∀ i < e, u.poolNat core (p + i * aw) aw = (el i).1 % 2 ^ (8 * aw)) ∧
          (u.core core).rqHead = ((s.core core).rqHead + 16 + 16 * ((e * pw + 15) / 16)) % 2 ^ 32 ∧
          (u.thread tid).g = ((s.thread tid).setG d (Word.of (k + 1))).g ∧
          (u.thread tid).fflags = (List.range e).foldl (fun f i => f ||| (el i).2) (s.thread tid).fflags ∧
          (k + 1 < n → exec (.recvredMessage tid) s = .next u ∧ (u.thread tid).wait = some (.recvred d p (k + 1) n t e old)) ∧
          (n ≤ k + 1 → exec (.recvredMessage tid) s = u.ends tid (.retire (u.as tid)))))

/-! ## The dense block (R205–R228) -/

/-- R207, R208, R211, R212: the checks that a template passes, and the fields that registers replace.

R130, R211: the third and fourth checks of a matrix operation, of its captured template: the alignment of its addresses, then
the bytes that it may touch, of which a tile's rows must lie in accumulator storage.

R205, R210–R213: a matrix instruction, or an affix word of mode I or K, enqueues one entry with its captured template once the
queue of 16 has room and its checks are passed, in their order; then a gather's rows, or a buffer, have the format's tag.  An
affix word of mode S only writes its template; one that names no field or an empty template traps, as does a template of no
KIND, and a mode K that traps leaves its template as it was.  That mode I issues the template's own KIND, and that the reserved bits
above a replaced address stay, are the model's choices (log 26). -/
def Obligations.MatrixIssue : Prop :=
  (∀ (c : Core) (t : Template),
     let f := fun (k : Nat) => t.toNat / 2 ^ (16 * k) % 2 ^ 16
     let formats : List (Nat × Nat × Nat × Nat) := [(17, 64, 16, 8), (16, 128, 16, 4), (14, 512, 32, 4), (15, 512, 32, 4),
       (10, 1024, 32, 4), (11, 1024, 32, 4), (1, 1024, 32, 4), (2, 1024, 32, 4), (8, 2048, 32, 4), (9, 2048, 32, 4), (13, 2048, 34, 4)]
     let rows := 1 ≤ f 1 ∧ f 1 ≤ 256
     let latched := rows ∧ f 4 < 2 ^ 8 ∧ f 4 + f 1 ≤ 256
     let tile := fun (aw : Nat) => 1 ≤ f 3 ∧ f 3 ≤ 64 ∧ f 3 * aw ≤ 32 * f 6
     let passes := fun (op : MatrixOp) (kind : Nat) (P : Nat → Nat → Nat → Nat → Prop) =>
       (lexiconBad c op t = false ↔ f 0 % 2 ^ 4 = kind ∧ f 0 < 2 ^ 13 ∧
         ∃ x ∈ formats, x.1 = f 0 / 2 ^ 4 % 2 ^ 5 ∧ P x.1 x.2.1 x.2.2.1 x.2.2.2)
     passes .mma 1 (fun code kmax _ aw => f 8 < 2 ^ 9 ∧ latched ∧ 1 ≤ f 2 ∧ f 2 ≤ kmax ∧ tile aw ∧
       ((f 0).testBit 12 = true → (code = 16 ∨ code = 17) ∧ (c.infl[f 0 / 2 ^ 9 % 2]?.getD none).isSome = true)) ∧
     passes .mgath 2 (fun _ _ w _ => f 12 < 2 ^ 9 ∧ f 10 < 2 ^ 9 ∧ latched ∧ w ≤ f 5 ∧ f 13 ≠ 0) ∧
     passes .mldb 3 (fun _ _ w _ => f 10 < 2 ^ 9 ∧ w ≤ f 5) ∧
     (∀ src, passes (.macc src) 1 (fun _ _ _ aw => f 8 < 2 ^ 9 ∧ rows ∧ tile aw)) ∧
     (let b := (c.bbufs[Fin.ofNat 4 (2 * (f 0 / 2 ^ 9 % 2) + f 0 / 2 ^ 10 % 2)]).tag
      let pairs : List (Tag × Tag) := [(.f8a, .f8b), (.f8b, .f8a), (.i8, .z8), (.z8, .i8), (.i4, .z4), (.z4, .i4)]
      matrixTagBad c t = false ↔ (∀ j < f 1, (c.latch.getD (f 4 + j) {}).tag = tTag t) ∧
        (b = tTag t ∨ (f 0).testBit 12 = false ∧ (tTag t, b) ∈ pairs)) ∧
     (∀ k j v, k < 16 → j < 16 → tplField (setTplField t k v) j = if j = k then v % 2 ^ 16 else f j) ∧
     (∀ k v, k < 15 → tplField (setTplAddr t k v) k = v % 2 ^ 16 ∧
       tplField (setTplAddr t k v) (k + 1) = f (k + 1) / 2 ^ 9 * 2 ^ 9 + v / 2 ^ 16 % 2 ^ 9)) ∧
  (∀ (s : State) (t : Template) (src : Nat),
     let f := fun (k : Nat) => t.toNat / 2 ^ (16 * k) % 2 ^ 16
     let at_ := fun (k : Nat) => f (k + 1) % 2 ^ 9 * 2 ^ 16 + f k
     let stop := s.accEnd s.myCore
     let mis := fun (x : Nat) => some ({ cause := .misalign, addr := Word.of x } : TrapInfo)
     let out := fun (x : Nat) => some ({ cause := .localRange, addr := Word.of x } : TrapInfo)
     let len := f 3 * (if tTag t = .f64 then 8 else 4)
     let row := fun (base j : Nat) => base + 32 * f 6 * j
     let bad := fun (base j : Nat) => row base j < s.scratchEnd s.myCore ∨ stop < row base j + len
     let rows := fun (base : Nat) (r : Option TrapInfo) (rest : Prop) =>
       (∀ j < f 1, bad base j → (∀ i < j, ¬bad base i) → r = out (row base j)) ∧ ((∀ j < f 1, ¬bad base j) → rest)
     let gathered := 32 * ((f 13 - 1) * f 5 + tW t)
     let buffer := 32 * (63 * f 5 + tW t)
     (let r := matrixAddrs s .mma t
      (at_ 7 % 32 ≠ 0 → r = mis (at_ 7)) ∧ (at_ 7 % 32 = 0 → rows (at_ 7) r (r = none))) ∧
     (let r := matrixAddrs s (.macc src) t
      (at_ 7 % 32 ≠ 0 → r = mis (at_ 7)) ∧ (at_ 7 % 32 = 0 → src % 32 ≠ 0 → r = mis src) ∧
      (at_ 7 % 32 = 0 → src % 32 = 0 → rows (at_ 7) r (rows src r (r = none)))) ∧
     (let r := matrixAddrs s .mldb t
      (at_ 9 % 32 ≠ 0 → r = mis (at_ 9)) ∧
      (at_ 9 % 32 = 0 → r = if stop < at_ 9 + buffer then out (at_ 9) else none)) ∧
     (let r := matrixAddrs s .mgath t
      (at_ 9 % 32 ≠ 0 → r = mis (at_ 9)) ∧ (at_ 9 % 32 = 0 → at_ 11 % 4 ≠ 0 → r = mis (at_ 11)) ∧
      (at_ 9 % 32 = 0 → at_ 11 % 4 = 0 → r = if stop < at_ 11 + 4 * f 1 then out (at_ 11)
        else if stop < at_ 9 + gathered then out (at_ 9) else none))) ∧
  (∀ (s : State) (g : Guard) (look : Fin 16) (d a b : GReg),
     let c := s.core s.myCore
     let issued := fun (i : Instr) (m : Meta) (op : MatrixOp) (n : Nat) (t : Template) (keep : Bool) =>
       (16 ≤ c.mqueue.length → exec i s = .next (s.finish m (.again none))) ∧
       (c.mqueue.length < 16 →
         (lexiconBad c op t = true → exec i s = s.traps m { cause := .lexiconBad }) ∧
         (lexiconBad c op t = false → op = .mma → matrixTagBad c t = true → exec i s = s.traps m { cause := .tagMismatch }) ∧
         (lexiconBad c op t = false → (op = .mma → matrixTagBad c t = false) →
           (∀ x, matrixAddrs s op t = some x → exec i s = s.traps m x) ∧
           (matrixAddrs s op t = none → ∃ (u : State) (e : MatrixEntry), exec i s = s.completes m u ∧ (u.core s.myCore).mqueue = c.mqueue ++ [e] ∧
             e.tid = s.cur ∧ e.bundle = s.src.pc ∧ e.num = n ∧ e.op = op ∧ e.template = t ∧ e.btag = (c.bbufs[tBuffer t]).tag ∧
             e.infl = (if op = .mma ∧ tInf t = true then c.infl[tArr t]?.getD none else none) ∧ e.started = false ∧
             u.agenda = s.agenda ++ [.matrixEntryStart s.myCore e.id] ∧
             u.thread s.cur = s.thread s.cur ∧
             (u.core s.myCore).lexicon = (if keep then c.lexicon.setIfInBounds n t else c.lexicon) ∧
             (op = .mgath → ∀ j < tM t, ((u.core s.myCore).latch.getD (tLrow t + j) {}).tag = tTag t) ∧
             (op = .mldb → ((u.core s.myCore).bbufs[tBuffer t]).tag = tTag t) ∧
             (op ≠ .mgath → (u.core s.myCore).latch = c.latch) ∧ (op ≠ .mldb → (u.core s.myCore).bbufs = c.bbufs))))
     let num := fun (r : GReg) (lo n : Nat) => (s.g r).toNat / 2 ^ lo % 2 ^ n
     let n := num b 0 6
     let t := s.template n
     let addr := fun (r : GReg) (f : Nat) (t : Template) => if r = 0 then t else setTplAddr t f (num r 0 25)
     let mx := metaMx 0x3B g [] [d, a, b] (some look)
     let my := metaMx 0x3A g [] [a, b]
     (s.executes mx →
       issued (.mma g look d a b) mx .mma n (let u := addr d 7 t
         if a = 0 then u else setTplField (setTplField u 4 (num a 0 8)) 1 (num a 16 9)) false ∧
       issued (.mgath g look d a b) mx .mgath n (addr a 11 (addr d 9 t)) false) ∧
     (s.executes my →
       issued (.mldb g a b) my .mldb n (addr a 9 t) false ∧ issued (.macc g a b) my (.macc (num a 0 25)) n t false) ∧
     (∀ (n f : Fin 64) (x : BitVec 16),
       let m : Meta := { major := 64, guard := { p := 0, neg := false } }
       let t := s.template n.val
       let u := setTplField t f.val x.toNat
       let op := fun (kind : Nat) => ([(1, MatrixOp.mma), (2, .mgath), (3, .mldb)] : List (Nat × MatrixOp)).lookup kind
       s.executes m →
         ((16 ≤ f.val ∨ tplField t 0 % 16 = 0) → ∀ i ∈ [Instr.affixI n f x, .affixK n f x, .affixS n f x],
           exec i s = s.traps m { cause := .lexiconBad }) ∧
         (f.val < 16 → tplField t 0 % 16 ≠ 0 →
           (∀ o, op (tplField t 0 % 16) = some o → issued (.affixI n f x) m o n.val u false) ∧
           (∀ o, op (tplField u 0 % 16) = some o → issued (.affixK n f x) m o n.val u true) ∧
           (op (tplField t 0 % 16) = none → exec (.affixI n f x) s = s.traps m { cause := .lexiconBad }) ∧
           (op (tplField u 0 % 16) = none → exec (.affixK n f x) s = s.traps m { cause := .lexiconBad }) ∧
           exec (.affixS n f x) s = s.completes m (s.modCore s.myCore (fun k => { k with
             lexicon := k.lexicon.setIfInBounds n.val u })))))

/-- R209, R220, R223, R224: `LEXLD` loads a template and `INFL` a program that passes its checks, from 32 aligned bytes of the
pool; `MRD` reads a word of a template, the thread's status, which clears OOB, or its MFPC; `MWAIT` goes on once no more of
the thread's entries than it names are in the queue.

R217, R219: the value of one element of C, and the flags that it sets.  Of a float format, the products of a cell are summed in
a fixed tree (`T l i` is node i of level l over all the cells), each node rounded to `F32`, and the cells' sums are added in their
order (`S i` is the partial after cell i); `F64` fuses each product into the partial.  Indices from KLEN up give +0.  An
integer format sums exactly and saturates once.  Each block of `N4` is rounded once, of its exact integer sum, its two block
scales and the two finite group scales (`V`), and the blocks are added in their order.

R220, R221: an element of C under Inflection.  The recurrence runs over the indices below KLEN, from C or from INIT; at
each, the operations of the program run in their order over s, a, b, t0, t1, +0 and +1, and a read of s sees the old one
(`R k i d` is s′, t0 or t1 of index k before operation i, `F k i` the flags so far).

R213–R225: the sequencer.  An entry starts once every earlier one has started and each that conflicts with it has completed; an
entry alone in the queue completes with its rows: `MLDB` takes 64 records into the buffer, `MGATH` the records that its indices
name, or zero for one out of range, `MACC` and `MMA` a cell for each row and column; and an uncorrectable word of
the pool, the latch, a buffer or the program stops it at its row, with no flag and no later entry of its thread.  That the
faulted entry leaves the queue is the model's choice (log 26), and so are the words of the latch and of a buffer that a row
meets (log 7). -/
def Obligations.MatrixSequencer : Prop :=
  (∀ (s : State) (g : Guard) (d a b : GReg),
     let c := s.core s.myCore
     let m2 := metaMx 0x3A g [] [a, b]
     let image := fun (i : Instr) (addr : Nat) (k : Nat → Host.Outcome State Fault Refusal → Prop) =>
       (addr + 32 ≤ s.accEnd s.myCore → addr % 32 ≠ 0 → exec i s = s.traps m2 { cause := .misalign, addr := Word.of addr }) ∧
       (s.accEnd s.myCore < addr + 32 → exec i s = s.traps m2 { cause := .localRange, addr := Word.of addr }) ∧
       (addr % 32 = 0 → addr + 32 ≤ s.accEnd s.myCore → (s.thread s.cur).stores = [] → c.poisoned = [] → c.flipped = [] →
         k (s.poolNat s.myCore addr 32) (exec i s))
     let entries := (c.mqueue.filter (fun e => e.tid = s.cur)).length
     (s.executes m2 →
       image (.lexld g a b) ((s.g b).toNat % 2 ^ 25) (fun x o => o = s.completes m2 (s.modCore s.myCore (fun k => { k with
         lexicon := k.lexicon.setIfInBounds ((s.g a).toNat % 2 ^ 6) (BitVec.ofNat 256 x) }))) ∧
       image (.infl g a b) ((s.g a).toNat % 2 ^ 25) (fun x o =>
         let w := fun (i : Nat) => x / 2 ^ (32 * i) % 2 ^ 32
         let n := x / 2 ^ 128 % 2 ^ 8
         let src := fun (i k : Nat) => w i / 2 ^ k % 2 ^ 3
         let good := 1 ≤ n ∧ n ≤ 4 ∧ x / 2 ^ 136 % 2 ^ 56 = 0 ∧ ∀ i < n, w i < 2 ^ 19 ∧ (∀ k ∈ [7, 11, 15], (w i).testBit k = false) ∧
           src i 4 ≤ 2 ∧ w i % 2 ^ 4 ≤ 8 ∧ src i 8 ≠ 7 ∧ src i 12 ≠ 7 ∧ src i 16 ≠ 7 ∧ (w i % 2 ^ 4 ≠ 5 → src i 16 = 0) ∧
           (w i % 2 ^ 4 = 6 ∨ w i % 2 ^ 4 = 7 → src i 12 = 0)
         (good → o = s.completes m2 (s.modCore s.myCore (fun k => { k with
           infl := k.infl.set (Fin.ofNat 2 ((s.g b).toNat % 2)) (some (BitVec.ofNat 256 x))
           inflBad := k.inflBad.filter (fun i => i != (s.g b).toNat % 2) }))) ∧
         (¬good → o = s.traps m2 { cause := .illegal }))) ∧
     (let m := metaMx 0x3A g [d] [a]
      let t := s.thread s.cur
      let sel := (s.g a).toNat / 2 ^ 14 % 4
      s.executes m →
       (sel = 0 → exec (.mrd g d a) s = s.completes m (s.setG d (Word.of
         ((s.template ((s.g a).toNat % 2 ^ 6)).toNat / 2 ^ (64 * ((s.g a).toNat / 2 ^ 8 % 4)))))) ∧
       (sel = 1 → ∃ u : State, exec (.mrd g d a) s = s.completes m u ∧ u.thread s.cur = { t.setG d (Word.of (t.frow.toNat * 2 ^ 40 +
         t.fop.toNat * 2 ^ 32 + t.disc.toNat * 2 ^ 24 + t.oob.toNat * 2 ^ 16 + entries)) with oob := false }) ∧
       (sel = 2 → exec (.mrd g d a) s = s.completes m (s.setG d s.src.mfpc)) ∧
       (sel = 3 → exec (.mrd g d a) s = s.completes m (s.setG d 0))) ∧
     (let m := metaMx 0x3A g [] [a]
      let most := (s.g a).toNat % 2 ^ 16
      s.executes m →
       (entries ≤ most → exec (.mwait g a) s = s.completes m s) ∧
       (most < entries → exec (.mwait g a) s = s.waitsIn m (.entries most) s))) ∧
  (∀ (e : MatrixEntry) (a b : Nat) (z : Option Nat),
     let t := tTag e.template
     let klen := tKlen e.template
     let x := fun (k : Nat) => if k < klen then lane a t.width k else 0
     let y := fun (k : Nat) => if k < klen then lane b e.btag.width k else 0
     let c := fun (k : Nat) => (x k, y k)
     let plus := fun (u v : Lane) => let r := f32Fmt.add u.1 v.1; ((r.1, u.2 ||| v.2 ||| r.2) : Lane)
     let chain := fun (s v : Nat → Lane) => s 0 = (match z with
         | none => v 0
         | some c => plus (c, 0) (v 0)) ∧ ∀ i, s (i + 1) = plus (s i) (v (i + 1))
     let result := fun (r : Lane) => matrixCell e a b z = (some r.1, r.2)
     0 < klen → e.infl = none →
       (∀ (f h : FloatFmt) (g levels : Nat) (T : Nat → Nat → Lane) (S : Nat → Lane),
         (t, g, levels) ∈ [(Tag.f32, 2, 0), (.bf16, 8, 2), (.f16, 8, 2), (.f8a, 16, 3), (.f8b, 16, 3)] →
         (e.btag = t ∨ t ∈ [Tag.f8a, .f8b] ∧ e.btag ∈ [Tag.f8a, .f8b]) → t.float = some f → e.btag.float = some h →
         klen ≤ 64 * g →
         (∀ i, IsSumOfTwo f h (c (2 * i)) (c (2 * i + 1)) (T 0 i)) →
         (∀ l i, T (l + 1) i = plus (T l (2 * i)) (T l (2 * i + 1))) →
         chain S (T levels) → result (S ((klen - 1) / g))) ∧
       (∀ S : Nat → Lane, t = .f64 → e.btag = .f64 → klen ≤ 64 →
         let fused := fun (u : Lane) (k : Nat) => let r := f64Fmt.fma false false (x k) (y k) u.1; ((r.1, u.2 ||| r.2) : Lane)
         S 0 = (match z with
           | none => f64Fmt.mul (x 0) (y 0)
           | some c => fused (c, 0) 0) →
         (∀ i, S (i + 1) = fused (S i) (i + 1)) → result (S (klen - 1))) ∧
       (t.isInt = true →
         let at_ := fun (t : Tag) (x k : Nat) => intVal t.isSigned t.width (lane x t.width k)
         let old : Int := match z with
           | none => 0
           | some c => (BitVec.ofNat 32 c).toInt
         let sum := old + ((List.range klen).map (fun k => at_ t a k * at_ e.btag b k)).sum
         let r := max (-2 ^ 31) (min (2 ^ 31 - 1) sum)
         result ((BitVec.ofInt 32 r).toNat, if r = sum then 0 else flagSAT)) ∧
       (∀ S V : Nat → Lane, t = .n4 → klen ≤ 2048 →
         let codebook : List Int := [-256, -184, -136, -100, -70, -44, -21, 0, 19, 39, 61, 85, 113, 146, 190, 256]
         let sum := fun (j : Nat) => ((List.range (min 64 (klen - 64 * j))).map (fun i =>
           codebook.getD (lane a 4 (64 * j + i)) 0 * codebook.getD (lane b 4 (64 * j + i)) 0)).sum
         let exact := fun (j : Nat) => sum j * (lane a 8 (1024 + j) * lane b 8 (1024 + j) : Nat)
         let sa := lane a 32 264
         let sb := lane b 32 264
         (∀ j, (f32Fmt.isFin sa = true → f32Fmt.isFin sb = true →
             V j = f32Fmt.rounded (exact j * (f32Fmt.units sa * f32Fmt.units sb)) (2 ^ 16 * (f32Fmt.perOne * f32Fmt.perOne))
               ((decide (sum j < 0) != f32Fmt.isNeg sa) != f32Fmt.isNeg sb)) ∧
           ((f32Fmt.val sa).isNan = true → V j = (0x7FC00000, 0)) ∧
           ((f32Fmt.val sa).isNan = false → (f32Fmt.val sb).isNan = true →
             V j = (0x7FC00000, if exact j = 0 ∧ f32Fmt.isInf sa = true then flagNV else 0)) ∧
           ((f32Fmt.val sa).isNan = false → (f32Fmt.val sb).isNan = false → f32Fmt.isInf sa = true ∨ f32Fmt.isInf sb = true →
             V j = if exact j = 0 ∨ f32Fmt.low sa = 0 ∨ f32Fmt.low sb = 0 then (0x7FC00000, flagNV)
               else (f32Fmt.sign ((decide (sum j < 0) != f32Fmt.isNeg sa) != f32Fmt.isNeg sb) + f32Fmt.infBits, 0))) →
         chain S V → result (S ((klen - 1) / 64)))) ∧
  ((∀ (e : MatrixEntry) (a b : Nat) (z : Option Nat) (p : BitVec 256) (f : FloatFmt) (S : Nat → Nat) (R : Nat → Nat → Nat → Nat)
       (F : Nat → Nat → BitVec 6),
     let t := tTag e.template
     let klen := tKlen e.template
     let n := p.toNat / 2 ^ 128 % 2 ^ 8
     let init := p.toNat / 2 ^ 192
     let start : Lane := match z with
       | some c => (c, 0)
       | none => if t = .f64 then (init, 0) else f32Fmt.deliver .rne false (f64Fmt.val init)
     let one := if t = .f64 then 0x3FF0000000000000 else 0x3F800000
     let minus := 2 ^ (f.e + f.m)
     let quiet := fun (x v : Nat) => if (f.val x).isNan = true then f.nanBits else v
     let isOp := fun (opc x y z : Nat) (r : Lane) =>
       (opc = 0 → r = f.add x y) ∧ (opc = 1 → r = f.sub x y) ∧ (opc = 2 → r = f.mul x y) ∧
       (opc = 3 → r = (f.pick true x y, 0)) ∧ (opc = 4 → r = (f.pick false x y, 0)) ∧
       (opc = 5 → r = (if (f.val x).isNan = false ∧ f.isNeg x = false ∧ f.low x ≠ 0 then y else z, 0)) ∧
       (opc = 6 → r = (quiet x (if x < minus then x + minus else x - minus), 0)) ∧
       (opc = 7 → r = (quiet x (x % minus), 0)) ∧ (opc = 8 → r = lse2 f x y)
     e.infl = some p → inflOk p = true → (t = .f32 ∨ t = .f64) → t.float = some f → (∀ c, z = some c → c < 2 ^ t.width) →
     S 0 = start.1 → F 0 0 = start.2 →
     (∀ k, R k 0 0 = S k ∧ R k 0 1 = 0 ∧ R k 0 2 = 0 ∧ S (k + 1) = R k n 0 ∧ F (k + 1) 0 = F k n) →
     (∀ k i, k < klen → i < n →
       let w := p.toNat / 2 ^ (32 * i) % 2 ^ 32
       let src := fun (low : Nat) => match w / 2 ^ low % 2 ^ 3 with
         | 0 => S k
         | 1 => lane a t.width k
         | 2 => lane b t.width k
         | 3 => R k i 1
         | 4 => R k i 2
         | 5 => 0
         | _ => one
       ∃ r : Lane, isOp (w % 2 ^ 4) (src 8) (src 12) (src 16) r ∧ F k (i + 1) = F k i ||| r.2 ∧
         ∀ d, R k (i + 1) d = if d = w / 2 ^ 4 % 2 ^ 3 then r.1 else R k i d) →
     matrixCell e a b z = (some (S klen), F klen 0)) ∧
   (∀ (f : FloatFmt) (x y : Nat), f = f32Fmt ∨ f = f64Fmt →
     let one := f.bias * 2 ^ f.m
     let minus := 2 ^ (f.e + f.m)
     x < 2 * minus → y < 2 * minus →
     ((f.val x).isNan = true ∨ (f.val y).isNan = true → lse2 f x y = (f.nanBits, 0)) ∧
     ((f.val y).isNan = false → lse2 f f.infBits y = (f.infBits, 0) ∧ lse2 f y f.infBits = (f.infBits, 0) ∧
       lse2 f (minus + f.infBits) y = (y, 0)) ∧
     (f.isFin y = true → lse2 f y (minus + f.infBits) = (y, 0)) ∧
     (f.isFin x = true → f.isFin y = true → f.units x = f.units y → lse2 f x y = f.add x one))) ∧
  (∀ (s : State) (core : Nat) (e : MatrixEntry),
     let k := s.core core
     let q := k.mqueue
     (∀ i, (∀ x ∈ q, x.id ≠ i) → exec (.matrixEntryStart core i) s = .next s ∧ exec (.matrixEntryComplete core i) s = .next s) ∧
     (q.find? (fun x => x.id == e.id) = some e →
       let before := q.takeWhile (fun x => x.id != e.id)
       let may := e.started = false ∧ ∀ x ∈ before, x.started = true ∧ (x.complete = true ∨ entriesConflict x e = false)
       (¬may → exec (.matrixEntryStart core e.id) s = .next s) ∧
       (may → ∃ t : State, exec (.matrixEntryStart core e.id) s = .next t ∧ (t.core core).mqueue =
         q.map (fun x => if x.id = e.id then { x with started := true } else x))) ∧
     (∀ x y : MatrixEntry, (x.op = .mgath ∨ x.op = .mldb) → (y.op = .mgath ∨ y.op = .mldb) → entriesConflict x y = true) ∧
     (∀ x y : MatrixEntry, x.op = .mma → y.op = .mma → tArr x.template = tArr y.template → entriesConflict x y = true) ∧
     (q = [e] → e.started = true → e.complete = false → s.mem.wf = true → k.poisoned = [] → k.flipped = [] →
       core = coreOfThread e.tid → (s.thread e.tid).stores = [] → k.latchBad = [] → k.bufBad = [] → e.inflBad = false →
       k.trctl.getLsbD 63 = false → (∀ p ∈ k.pub, p.getLsbD 63 = false) → lexiconBad k e.op e.template = false → matrixAddrs { s with cur := 8 * core } e.op e.template = none →
       let t := e.template
       let w := tW t
       let aw := accWidth (tTag t)
       let done := fun (P : State → Prop) => ∃ u : State, exec (.matrixEntryComplete core e.id) s = .next u ∧ (u.core core).mqueue = [] ∧ P u
       let rec_ := fun (addr : Nat) => BitVec.ofNat 8704 (s.poolNat core addr (32 * w))
       let cell := fun (u : State) (j n : Nat) => u.poolNat core (tplAddr t 7 + 32 * tCpitch t * j + n * aw) aw
       (e.op = .mldb → done (fun u => u.mem = s.mem ∧
         ∀ j < 64, ((u.core core).bbufs[tBuffer t]).cols.getD j 0 = rec_ (tplAddr t 9 + 32 * tApitch t * j))) ∧
       (e.op = .mgath → done (fun u => u.mem = s.mem ∧ ∀ j < tM t,
         let i := s.poolNat core (tplAddr t 11 + 4 * j) 4
         ((u.core core).latch.getD (tLrow t + j) {}).data = (if i < tRows t then rec_ (tplAddr t 9 + 32 * tApitch t * i) else 0) ∧
         (tRows t ≤ i → (u.thread e.tid).oob = true))) ∧
       let flags := fun (u : State) (v : Nat → Nat → BitVec 6) => ∀ i, (u.thread e.tid).fflags.getLsbD i = true ↔
         (s.thread e.tid).fflags.getLsbD i = true ∨ ∃ j n, j < tM t ∧ n < tNcol t ∧ (v j n).getLsbD i = true
       (e.op = .mma →
         let v := fun (j n : Nat) => matrixCell e (k.latch.getD (tLrow t + j) {}).data.toNat
           ((k.bbufs[tBuffer t]).cols.getD n 0).toNat (if tAcc t = true then some (cell s j n) else none)
         done (fun u => flags u (fun j n => (v j n).2) ∧ ∀ j < tM t, ∀ n < tNcol t, cell u j n = ((v j n).1.getD 0) % 2 ^ (8 * aw))) ∧
       (∀ src, e.op = .macc src →
         (tplAddr t 7 ≤ src ∨ src + 32 * tCpitch t * (tM t - 1) + tNcol t * aw ≤ tplAddr t 7) →
         let old := fun (j n : Nat) => s.poolNat core (src + 32 * tCpitch t * j + n * aw) aw
         let sum := fun (j n : Nat) => (BitVec.ofNat 32 (cell s j n)).toInt + (BitVec.ofNat 32 (old j n)).toInt
         let clamped := fun (x : Int) => max (-2 ^ 31) (min (2 ^ 31 - 1) x)
         let v := fun (j n : Nat) => (if tTag t = .f64 then f64Fmt else f32Fmt).add (cell s j n) (old j n)
         ((tTag t).isInt = true → done (fun u =>
           flags u (fun j n => if clamped (sum j n) = sum j n then 0 else flagSAT) ∧
           ∀ j < tM t, ∀ n < tNcol t, (BitVec.ofNat 32 (cell u j n)).toInt = clamped (sum j n))) ∧
         ((tTag t).isInt = false → done (fun u => flags u (fun j n => (v j n).2) ∧
           ∀ j < tM t, ∀ n < tNcol t, cell u j n = (v j n).1 % 2 ^ (8 * aw))))) ∧
     (q = [e] → e.started = true → e.complete = false → (s.thread e.tid).alive = true → k.trctl.getLsbD 63 = false →
       let stopped := fun (row : Nat) (addr : Word) => { s.thread e.tid with
         frow := BitVec.ofNat 8 row, fop := BitVec.ofNat 8 e.op.code, disc := 0, mfpc := e.bundle
         pending := (s.thread e.tid).pending ++ [{ cause := .eccUncorr, origin := 3, addr }] }
       let column := fun (j : Nat) => tplAddr e.template 9 + 32 * tApitch e.template * j
       let n := 32 * tW e.template
       (∀ j x, e.op = .mldb → j < 64 → core = coreOfThread e.tid → (s.thread e.tid).stores = [] → k.flipped = [] →
         (∀ i < j, s.readsBad e (column i) n = none) → s.readsBad e (column j) n = some x →
         ∃ u : State, exec (.matrixEntryComplete core e.id) s = .next u ∧ exec (.matrixEntryFault core j x) s = .next u ∧
           (u.core core).mqueue = [] ∧ u.mem = s.mem ∧ u.thread e.tid = stopped j (Word.of x) ∧
           ∀ i < j, ((u.core core).bbufs[tBuffer e.template]).cols.getD i 0 = BitVec.ofNat 8704 (s.poolNat core (column i) n)) ∧
       (e.op = .mma → 1 ≤ tM e.template →
         (e.inflBad = true ∨ (∃ w < 4 * tW e.template, (tLrow e.template, w) ∈ k.latchBad) ∨
           (∃ c < tNcol e.template, ∃ w < 4 * tW e.template, ((tBuffer e.template).val, c, w) ∈ k.bufBad)) →
         ∃ u : State, exec (.matrixEntryComplete core e.id) s = .next u ∧ (u.core core).mqueue = [] ∧ u.mem = s.mem ∧
           u.thread e.tid = stopped 0 e.bundle) ∧
       (∀ row addr, (s.matrixPerform core e).2.2 ≠ some (row, addr) → exec (.matrixEntryFault core row addr) s = .next s)))

/-! ## Heap kernels (R305–R322) -/

/-- R307, R310–R316: the heap instructions outside a heap kernel trap `ILLEGAL`.  In one, `GAIN` sends its delta to the task's home;
`DONE`, once its fence is complete and its `GAIN`s are applied, gives up the task with the residual that was kept and what
came in the meantime; `HSEED` waits for its entries, or arms the end test; `TAKE` takes the task of the largest gain of its die
that reaches the floor, the lowest number among equals, waits for one, asks another die or returns; the others read.  That `DONE` sets FB
to all ones is the model's choice (log 26), and so are the age of a sample (log 10) and the subcode of a way that is blocked
(R279, log 28). -/
def Obligations.HeapInstructions : Prop :=
  ∀ (s : State) (g : Guard) (look : Fin 16) (two : Bool) (d a b : GReg),
    let m2 := metaG 0x38 g [] [a, b]
    let m1 := metaG 0x38 g [] [a]
    let m0 := metaG 0x38 g [d] []
    let mt := metaL 0x39 g look [d] [a, b] (if two then 2 else 1)
    let t := (s.g a).toNat % 2 ^ 32
    let here := s.myDie % 16
    let th := s.thread s.cur
    (s.heapOf s.cur = none →
      (s.executes m2 → exec (.gain g a b) s = s.traps m2 { cause := .illegal } ∧ exec (.hseed g a b) s = s.traps m2 { cause := .illegal }) ∧
      (s.executes m1 → exec (.done g a) s = s.traps m1 { cause := .illegal }) ∧
      (s.executes mt → exec (.take g look two d a b) s = s.traps mt { cause := .illegal }) ∧
      (s.executes m0 → ∀ i ∈ [Instr.resid g d, .hpeek g d, .hcount g d], exec i s = s.traps m0 { cause := .illegal })) ∧
    (∀ l h, s.heapOf s.cur = some (l, h) → s.heaps.get? l = some h →
      (s.executes m2 →
        (let delta := (s.g b).toNat % 2 ^ 32
         let big := 0x7F800000 ≤ delta % 2 ^ 31
         (h.n ≤ t → exec (.gain g a b) s = s.traps m2 { cause := .heapFull }) ∧
         (t < h.n → big → exec (.gain g a b) s = s.traps m2 { cause := .illegal }) ∧
         (t < h.n → ¬big → ∃ u r, exec (.gain g a b) s = s.completes m2 u ∧ u.reqs = s.reqs ++ [r] ∧ r.tid = s.cur ∧
           r.body = .gain l t (BitVec.ofNat 32 delta) ∧ u.agenda = s.agenda ++ [.gainApply r.id] ∧ u.heaps = s.heaps ∧
           u.mem = s.mem ∧ u.threads = s.threads)) ∧
        (let c := (s.g b).toNat % 2 ^ 32
         let arm := (s.g a).getLsbD 63
         (h.n < t + c → exec (.hseed g a b) s = s.traps m2 { cause := .heapFull }) ∧
         (t + c ≤ h.n → s.src.granted = false → c ≠ 0 → exec (.hseed g a b) s = s.waitsIn m2 (.hseed t (t + c) arm) s) ∧
         (t + c ≤ h.n → c = 0 → arm = false → exec (.hseed g a b) s = s.completes m2 s) ∧
         (t + c ≤ h.n → c = 0 → arm = true → h.ended = false → h.taken ≠ 0 →
           exec (.hseed g a b) s = s.completes m2 { s with heaps := s.heaps.put l { h with armed := true } }))) ∧
      (s.executes m1 →
        let keep := (s.g a).toNat / 2 ^ 32
        let x := h.tasks.getD t {}
        let new := (f32Fmt.add keep x.pend.toNat).1
        let mine := fun (r : Req) => r.tid = s.cur
        ((s.src.held ≠ some t ∨ 0x7F800000 ≤ keep % 2 ^ 31) → exec (.done g a) s = s.traps m1 { cause := .illegal }) ∧
        let way := s.blockedWay s.myDie (h.module * 16 + h.home t)
        (∀ sub, s.src.held = some t → keep % 2 ^ 31 < 0x7F800000 → s.src.granted = false → (∀ r ∈ s.reqs, ¬mine r) → way = some sub →
          exec (.done g a) s = .next (s.finish m1 (.trap { cause := .remoteFault, sub } (s.drainAll s.cur)))) ∧
        (s.src.held = some t → keep % 2 ^ 31 < 0x7F800000 → s.src.granted = false → (∀ r ∈ s.reqs, ¬mine r) → way = none →
          ∃ u : State, exec (.done g a) s = s.completes m1 u ∧ (u.thread s.cur).held = none ∧ (u.thread s.cur).fb = BitVec.allOnes 64 ∧
            (u.thread s.cur).stores = [] ∧ (u.thread s.cur).g = th.g ∧
            (h.ended = true → u.heaps = s.heaps) ∧
            (h.ended = false → h.armed = false → new % 2 ^ 31 < 0x7F800000 → u.heaps = s.heaps.put l { h with
              taken := h.taken - 1, res := BitVec.ofNat 64 (resAfter h.res.toNat x.r.toNat new)
              tasks := h.tasks.put t { r := BitVec.ofNat 32 new, pend := 0, runs := x.runs + 1
                                       mode := if new % 2 ^ 31 = 0 then .idle else .queued } })) ∧
        (s.src.held = some t → keep % 2 ^ 31 < 0x7F800000 → s.src.granted = false →
          (∃ r ∈ s.reqs, mine r ∧ (s.fenceWaits 3 r = true ∨ ∃ l t x, r.body = .gain l t x)) →
          exec (.done g a) s = s.waitsIn m1 (.done t (BitVec.ofNat 32 keep)) (s.drainAll s.cur))) ∧
      (s.executes mt →
        let f := (s.g b).toNat % 2 ^ 31
        let nowait := (s.g a).getLsbD 0
        let local_ := (s.g a).getLsbD 1
        let i : Instr := .take g look two d a b
        let w := fun (st : Option (Nat × Nat)) => Wait.take nowait local_ (BitVec.ofNat 32 f) d st
        let fits := fun (p : Nat × Task) => p ∈ h.tasks ∧ p.2.mode = .queued ∧ h.home p.1 = here ∧ f ≤ p.2.r.toNat % 2 ^ 31
        let left := fun (x : Word) (held : Option Nat) => ∃ u : State, exec i s = s.completes mt u ∧
          (u.thread s.cur) = { th.setG d x with held } ∧
          (∀ t, held = some t → ∃ h', u.heaps.get? l = some h' ∧ h'.taken = h.taken + 1 ∧
            h'.tasks = h.tasks.put t { h.tasks.getD t {} with mode := .taken, pend := 0 }) ∧
          (held = th.held → u.heaps = s.heaps)
        let ready := h.dies.getLsbD here = true ∧ s.src.held = none ∧ f < 0x7F800000
        let first := s.earlierTaker l s.myDie (if s.src.granted then s.src.waitSince else s.nextId) = false
        let alone := local_ = true ∨ h.global = false
        (¬ready → exec i s = s.traps mt { cause := .illegal }) ∧
        (ready → th.held = none → h.ended = true → left (-1) none) ∧
        (ready → h.ended = false → first → alone → h.tasks.sorted = true → th.held = none →
          (∀ p, fits p → (∀ q, fits q → q.2.r.toNat % 2 ^ 31 < p.2.r.toNat % 2 ^ 31 ∨
              q.2.r.toNat % 2 ^ 31 = p.2.r.toNat % 2 ^ 31 ∧ p.1 ≤ q.1) →
            left (Word.of (p.2.r.toNat * 2 ^ 32 + p.1)) (some p.1)) ∧
          ((∀ p, ¬fits p) →
            (nowait = true → left (-2) none) ∧ (nowait = false → exec i s = s.waitsIn mt (w none) s))) ∧
        (ready → h.ended = false → first → local_ = false → h.steals here = true →
          (s.module h.module).cycles ≤ h.mcyc + 128 → s.src.granted = false →
          exec i s = s.waitsIn mt (w (some (h.mdie, h.localMax here))) s) ∧
        (ready → h.ended = false → ¬first → exec i s = .next (s.finish mt (.again none)))) ∧
      (s.executes m0 →
        exec (.resid g d) s = s.completes m0 (s.setG d (if h.ended then h.final else h.res)) ∧
        (h.dies.getLsbD here = false → ∀ i ∈ [Instr.hpeek g d, .hcount g d], exec i s = s.traps m0 { cause := .illegal }) ∧
        (h.dies.getLsbD here = true →
          (h.ended = true → exec (.hpeek g d) s = s.completes m0 (s.setG d (-1))) ∧
          (h.ended = false → h.best here 0 = none → exec (.hpeek g d) s = s.completes m0 (s.setG d (-2))) ∧
          (∀ t x, h.ended = false → h.best here 0 = some (t, x) →
            exec (.hpeek g d) s = s.completes m0 (s.setG d (Word.of (x.r.toNat * 2 ^ 32 + t)))) ∧
          exec (.hcount g d) s = s.completes m0 (s.setG d (Word.of (h.taken * 2 ^ 32 +
            (h.tasks.filter (fun p => p.2.mode = .queued ∧ h.home p.1 = here)).length))))))

/-- R309, R311–R317: the events of a heap kernel: a `GAIN` changes a residual, or what a taken task will add to its own; a value
that is not finite, or a sum below the tolerance, ends the kernel; an `HSEED` goes on by one entry; a sleeping take is
served after those of its die that wait longer, the kernel's end wakes it, a steal brings the other die's task only if that beats
the taker's own, and a new sample of the largest gain lets the sleeping takes ask again.  Where the way to the other die is blocked,
the thread traps `REMOTE_FAULT` (R10, R279; log 28).  That one sample sees every die at one moment (log 10), and the subcode 1 of
`MEMSIDE_ERROR` at an entry (log 20), are the model's choices. -/
def Obligations.HeapEvents : Prop :=
  ∀ (s : State),
    (∀ id r l t delta h, s.req? id = some r → id < s.nextId → r.body = .gain l t delta → s.heaps.get? l = some h →
      (∀ q ∈ s.reqs, q.tid = r.tid → q.id ≠ id → ∀ l t x, q.body ≠ .gain l t x) →
      let way := s.blockedWay (dieOfCore r.src) (h.module * 16 + h.home t)
      (∀ sub, way = some sub → (s.thread r.tid).alive = true → ∃ u : State, exec (.gainApply id) s = .next u ∧ u.req? id = none ∧
        u.heaps = s.heaps ∧ u.thread r.tid = { s.thread r.tid with
          pending := (s.thread r.tid).pending ++ [{ cause := .remoteFault, sub, origin := 7 }] }) ∧
      (way = none →
      let x := h.tasks.getD t {}
      let new := (f32Fmt.add x.r.toNat delta.toNat).1
      let put := fun (h : Heap) (x : Task) => { h with tasks := h.tasks.put t x }
      let changed := { x with r := BitVec.ofNat 32 new, mode := if new % 2 ^ 31 = 0 then .idle else .queued }
      ∃ u : State, exec (.gainApply id) s = .next u ∧ u.req? id = none ∧
        (h.ended = true → u.heaps = s.heaps) ∧
        (h.ended = false → x.mode = .taken → u.heaps.get? l = some (put h { x with
          pend := BitVec.ofNat 32 (f32Fmt.add x.pend.toNat delta.toNat).1 })) ∧
        (h.ended = false → x.mode ≠ .taken → new % 2 ^ 31 < 0x7F800000 → h.armed = false → u.heaps.get? l = some
          { put h changed with res := BitVec.ofNat 64 (resAfter h.res.toNat x.r.toNat new) }) ∧
        (h.ended = false → x.mode ≠ .taken → 0x7F800000 ≤ new % 2 ^ 31 → u.heaps.get? l = some { put h changed with
          ended := true, cause := 2, final := BitVec.ofNat 64 f64Fmt.nanBits }))) ∧
    (∀ l h, s.heaps.get? l = some h → h.ended = false →
      ((h.armed = false ∨ h.taken ≠ 0 ∨ f64Less h.res.toNat h.tol.toNat = false) → s.endTest l = s) ∧
      (h.armed = true → h.taken = 0 → f64Less h.res.toNat h.tol.toNat = true → f64Less h.sum h.tol.toNat = true →
        (s.endTest l).heaps.get? l = some { h with res := BitVec.ofNat 64 h.sum, ended := true, cause := 1, final := BitVec.ofNat 64 h.sum })) ∧
    (∀ tid t stop arm l h, s.waits tid (.hseed t stop arm) → s.heapOf tid = some (l, h) →
      (∀ q ∈ s.reqs, q.tid = tid → ∀ l t x, q.body ≠ .gain l t x) →
      let va := h.table + 64 + 8 * t
      let way := s.blockedWay (dieOfCore (coreOfThread tid)) (h.module * 16 + h.home t)
      (∀ c s', t < stop → s.deviceRead h.module h.part va 8 = (.error c, s') → exec (.hseedEntryRead tid) s = .next (s'.raise tid
        { cause := c, sub := if c = .memsideError ∨ c = .pageFault ∧ 2 ^ 57 ≤ va then 1 else 0, addr := Word.of va } (s'.thread tid).waitWords)) ∧
      (∀ bs s' sub, t < stop → s.deviceRead h.module h.part va 8 = (.ok bs, s') → way = some sub →
        exec (.hseedEntryRead tid) s = .next (s'.raise tid { cause := .remoteFault, sub, addr := Word.of va } (s'.thread tid).waitWords)) ∧
      (∀ bs s', t < stop → s.deviceRead h.module h.part va 8 = (.ok bs, s') → way = none → ∃ u : State, exec (.hseedEntryRead tid) s = .next u ∧
        u.heaps = (s'.applyGain l t (natOfBytes (bs.take 4))).heaps ∧
        u.thread tid = { s.thread tid with wait := some (.hseed (t + 1) stop arm) }) ∧
      (stop ≤ t → exec (.hseedEntryRead tid) s = s.ends tid (.retire ((s.as tid).seedEnd arm)))) ∧
    (∀ tid nowait loc f d tm h st, s.waits tid (.take nowait loc f d st) → (s.core (coreOfThread tid)).team = some tm →
      s.heaps.get? tm.launch = some h → h.tasks.sorted = true →
      let here := dieOfCore (coreOfThread tid) % 16
      let th := s.thread tid
      let fits := fun (die floor : Nat) (p : Nat × Task) =>
        p ∈ h.tasks ∧ p.2.mode = .queued ∧ h.home p.1 = die ∧ floor ≤ p.2.r.toNat % 2 ^ 31
      let top := fun (die floor : Nat) (p : Nat × Task) => fits die floor p ∧ ∀ q, fits die floor q →
        q.2.r.toNat % 2 ^ 31 < p.2.r.toNat % 2 ^ 31 ∨ q.2.r.toNat % 2 ^ 31 = p.2.r.toNat % 2 ^ 31 ∧ p.1 ≤ q.1
      let gets := fun (e : Instr) (x : Word) (held : Option Nat) => ∃ u : State, exec e s = .next u ∧ (u.thread tid).status = .running ∧
        (u.thread tid).g = (th.setG d x).g ∧ (u.thread tid).held = held ∧
        (∀ t, held = some t → ∃ h', u.heaps.get? tm.launch = some h' ∧ h'.taken = h.taken + 1 ∧
          h'.tasks = h.tasks.put t { h.tasks.getD t {} with mode := .taken, pend := 0 })
      let word := fun (p : Nat × Task) => Word.of (p.2.r.toNat * 2 ^ 32 + p.1)
      let first := s.earlierTaker tm.launch (dieOfCore (coreOfThread tid)) th.waitSince = false
      th.held = none →
      (st = none →
        (h.ended = true → gets (.takeWake tid) (-1) none) ∧
        (h.ended = false → ¬first → exec (.takeWake tid) s = .next s) ∧
        (h.ended = false → first →
          (∀ p, loc = true ∨ h.global = false → top here f.toNat p → gets (.takeWake tid) (word p) (some p.1)) ∧
          (∀ p, loc = false → (s.module h.module).cycles ≤ h.mcyc + 128 → h.steals here = true → fits here f.toNat p →
            exec (.takeWake tid) s = .next (s.setThread tid { th with
              wait := some (.take nowait loc f d (some (h.mdie, h.localMax here))) })) ∧
          ((∀ p, ¬fits here f.toNat p) → exec (.takeWake tid) s = .next s))) ∧
      (∀ die gd, st = some (die, gd) →
        let there := moduleOfCore (coreOfThread tid) * 16 + die
        let way := (s.blockedWay (dieOfCore (coreOfThread tid)) there).or (s.blockedWay there (dieOfCore (coreOfThread tid)))
        (∀ sub, way = some sub → first → exec (.heapSteal tid) s = .next ((s.modThread tid Thread.interrupt).raise tid
          { cause := .remoteFault, sub } th.waitWords)) ∧
        (way = none → h.ended = true → gets (.heapSteal tid) (-1) none) ∧
        (h.ended = false → ¬first → exec (.heapSteal tid) s = .next s) ∧
        (way = none → h.ended = false → first →
          (∀ p, top die f.toNat p → gd < p.2.r.toNat % 2 ^ 31 → gets (.heapSteal tid) (word p) (some p.1)) ∧
          ((∀ p, fits die f.toNat p → p.2.r.toNat % 2 ^ 31 ≤ gd) →
            (∀ p, top here f.toNat p → gets (.heapSteal tid) (word p) (some p.1)) ∧
            ((∀ p, ¬fits here f.toNat p) →
              (nowait = true → gets (.heapSteal tid) (-2) none) ∧
              (nowait = false → exec (.heapSteal tid) s = .next (s.setThread tid { th with wait := some (.take nowait loc f d none) }))))))) ∧
    (∀ l h, s.heaps.get? l = some h →
      ((h.ended = true ∨ h.global = false) → exec (.heapMaxRefresh l) s = .next s) ∧
      (h.ended = false → h.global = true → h.dieList ≠ [] → ∃ u h', exec (.heapMaxRefresh l) s = .next u ∧
        u.heaps.get? l = some h' ∧ h'.tasks = h.tasks ∧ h'.mdie ∈ h.dieList ∧ h'.mhat.toNat = h.localMax h'.mdie ∧
        (∀ d ∈ h.dieList, h.localMax d ≤ h'.mhat.toNat) ∧ u.agenda = s.agenda ++ [.heapMaxRefresh l] ∧
        ∀ tid nowait f d tm, (s.thread tid).status = .waiting → (s.thread tid).wait = some (.take nowait false f d none) →
          (s.core (coreOfThread tid)).team = some tm → tm.launch = l →
          let die := dieOfCore (coreOfThread tid) % 16
          h'.steals die = true →
            (u.thread tid).wait = some (.take nowait false f d (some (h'.mdie, h'.localMax die)))))

/-! ## Launches (R285–R304) -/

/-- R292, R293, R296–R300: `EXIT` checks its thread and its successor list, waits until nothing of the thread is under way, and
then ends the thread, and with the last thread the team, which leaves its core, or is held if its launch has a window;
`DETACH` detaches the member once no window operation of the thread is left; `TEAMID` says who the thread is; `YIELD` moves it
to the next stage whose FIFO is full enough, or back from one that is empty.  That an `EXIT` in a bundle ends the thread at the commit
(log 25), what `TEAMID` gives a thread without a team (log 5), and `MISALIGN` before `LOCAL_RANGE` (log 32) are the model's choices. -/
def Obligations.ThreadEnds : Prop :=
  ∀ (s : State) (g : Guard) (d a : GReg),
    let core := s.core s.myCore
    let la := (s.g a).toNat % poolSize s.kind
    let quiet := (∀ r ∈ s.reqs, r.tid ≠ s.cur) ∧ (∀ l ∈ s.lookups, l.tid ≠ s.cur) ∧ (∀ e ∈ core.mqueue, e.tid ≠ s.cur) ∧
      (s.thread s.cur).outstanding = [] ∧ ∀ k : Fin 4, (∀ e ∈ core.chans[k].queue, e.tid ≠ s.cur) ∧
        ¬(core.chans[k].running = true ∧ core.chans[k].kicker = s.cur) ∧ core.chans[k].held = none
    (let m := metaG 0x36 g [] [a]
     let list := if a = 0 then none else some la
     s.executes m →
      ((s.src.sup = true ∨ s.src.held ≠ none) → exec (.exit g a) s = s.traps m { cause := .illegal }) ∧
      (s.src.sup = false → s.src.held = none →
        (a ≠ 0 → la % 32 ≠ 0 → exec (.exit g a) s = s.traps m { cause := .misalign, addr := Word.of la }) ∧
        (a ≠ 0 → la % 32 = 0 → s.accEnd s.myCore < la + 32 → exec (.exit g a) s = s.traps m { cause := .localRange, addr := Word.of la }) ∧
        ((a = 0 ∨ la % 32 = 0 ∧ la + 32 ≤ s.accEnd s.myCore) → s.src.granted = false → s.src.exitList = none →
          (∀ e ∈ core.mqueue, e.tid = s.cur → exec (.exit g a) s = s.waitsIn m (.exit list none) s) ∧
          (quiet → core.poisoned = [] → (s.thread s.cur).stores = [] →
            let es := ((List.range 4).map (fun i => s.poolNat s.myCore (la + 8 * i) 8)).filter (fun w => w % 2 = 1)
            (a ≠ 0 → (∃ w ∈ es, w / 2 % 2 ^ 6 ≠ 0 ∨ 2 ^ 57 ≤ w) → exec (.exit g a) s = s.traps m { cause := .illegal }) ∧
            (a = 0 ∨ (∀ w ∈ es, w / 2 % 2 ^ 6 = 0 ∧ w < 2 ^ 57) → s.bundle = none →
              ∃ t : State, exec (.exit g a) s = s.completes m t ∧
                (∀ o : Fin 16, ((t.quad s.myQuad).objs[o]).memb.getLsbD (memberBit s.cur 0) = false) ∧
                (a ≠ 0 → (t.die s.myDie).successors.map (fun x => x.addr.toNat) = (s.die s.myDie).successors.map (fun x => x.addr.toNat) ++
                  es.map (fun w => w / 2 ^ 7 * 2 ^ 7)) ∧
                (core.team = none → (t.thread s.cur).status = .absent) ∧
                (∀ tm l, core.team = some tm → s.launches.get? tm.launch = some l → s.cur % 8 < tm.threads → tm.index < l.teams.length →
                  ((∃ i < tm.threads, 8 * s.myCore + i ≠ s.cur ∧ (s.thread (8 * s.myCore + i)).status ≠ .ended) →
                    (t.thread s.cur).status = .ended ∧ (t.core s.myCore).team = some tm) ∧
                  ((∀ i < tm.threads, 8 * s.myCore + i ≠ s.cur → (s.thread (8 * s.myCore + i)).status = .ended) →
                    let fate := (t.launches.get? tm.launch).bind (fun l => l.teams[tm.index]?.map (fun x => x.fate))
                    (l.win = false → (t.core s.myCore).team = none ∧ fate = some .exited ∧
                      ∀ i < 8, (t.thread (8 * s.myCore + i)).status = .absent) ∧
                    (l.win = true → (t.core s.myCore).team = some { tm with status := .held } ∧ fate = some .held))))) ∧
          (quiet → ∀ b, s.bundle = some b → a = 0 → ∃ t : State, exec (.exit g a) s = s.completes m t ∧
            t.bundle = some { b with ends := true } ∧ t.threads = s.threads ∧ t.mem = s.mem)))) ∧
    (let m := metaG 0x36 g [] []
     s.executes m →
      (core.winst.getLsbD 16 = false → exec (.detach g) s = s.traps m { cause := .illegal }) ∧
      (core.winst.getLsbD 16 = true → s.src.granted = false →
        ((∃ r ∈ s.reqs, r.tid = s.cur ∧ r.window = true ∧ r.st = .waiting) → exec (.detach g) s = s.waitsIn m .detach s) ∧
        (∀ tm, quiet → core.team = some tm → ∃ t : State, exec (.detach g) s = s.completes m t ∧
          t.thread s.cur = { s.thread s.cur with tdet := true } ∧ (t.core s.myCore).team = some { tm with mdet := true } ∧
          t.agenda = s.agenda ++ [.windowDepart tm.launch] ∧ t.mem = s.mem ∧
          ∀ l, s.launches.get? tm.launch = some l → tm.index < l.teams.length →
            (t.launches.get? tm.launch).bind (fun l => l.teams[tm.index]?.map (fun x => x.gone)) = some true))) ∧
    (let m := metaG 0x36 g [d] []
     s.executes m →
      (∀ tm l, core.team = some tm → s.launches.get? tm.launch = some l → exec (.teamid g d) s = s.completes m (s.setG d
        (Word.of (tm.index + l.teamCount * 2 ^ 16 + s.cur % 8 * 2 ^ 32 + tm.threads * 2 ^ 35 + s.src.stage * 2 ^ 39 +
          (if l.win then tm.index * 2 ^ 41 + 2 ^ 47 else 0))))) ∧
      (core.team = none → ∃ t x, exec (.teamid g d) s = s.completes m t ∧ t.thread s.cur = (s.thread s.cur).setG d x ∧ t.mem = s.mem)) ∧
    (let m := metaG 0x36 g [] []
     s.executes m →
      (core.team = none → exec (.yield g) s = s.completes m s) ∧
      (∀ tm l, core.team = some tm → s.launches.get? tm.launch = some l →
        let k := s.src.stage
        let fifo := fun (i : Nat) => (s.quad s.myQuad).fifos[i]?.getD {}
        let company := 2 ≤ ((List.range tm.threads).filter (fun i =>
          (s.thread (8 * s.myCore + i)).status ≠ .ended ∧ (s.thread (8 * s.myCore + i)).stage = k)).length
        let up := k + 1 < l.stages ∧ 24 ≤ (fifo (l.qfirst + k)).recs.length ∧ company
        let down := 0 < k ∧ (fifo (l.qfirst + k - 1)).recs = [] ∧ (fifo (l.qfirst + k - 1)).rcnt = 0 ∧ company
        let moves := fun (i : Nat) => exec (.yield g) s = s.jumps m (s.modTh (fun t => { t with stage := i })) (l.stageEntry i)
        (l.stages = 1 ∨ ¬up ∧ ¬down → exec (.yield g) s = s.completes m s) ∧
        (l.stages ≠ 1 → up → moves (k + 1)) ∧ (l.stages ≠ 1 → ¬up → down → moves (k - 1))))

/-- R286–R291, R294–R299: the events of launches: the host's TAIL, the head block of a queue, its rejection or its admission, teams
that start, counters that are read again, the block at another module, the departure of window members, and the end.  That a heap is
refused again after the first check and that a head is read before classes are compared (log 21), and the zero in a register that
R291 does not name (log 1), are the model's choices.

R289, R294, R295: what a launch leaves at its end.  The dispatcher releases the dirty lines of the teams' quads, adds 1 to the
signal's word, and writes the record, bytes 8–63 before bytes 0–7; a rejected launch gets the status of the first check that it
fails, with no teams and no fault. -/
def Obligations.LaunchEvents : Prop :=
  (∀ (s : State) (die q : Nat), q < 256 →
     let h := s.hostQueue die q
     let starts := fun (t : State) (id : Nat) (l : Launch) (i c : Nat) =>
       (t.core c).team = some { launch := id, index := i, threads := l.threads, part := l.part } ∧
       (t.core c).winst = (if l.win then Word.of (2 ^ 16 + (l.teamCount - 1) * 2 ^ 8 + i) else 0) ∧
       (∀ j < 8, j < l.threads → t.thread (8 * c + j) = { ({} : Thread) with
         status := .running, pc := l.stageEntry (l.startStage j), g := l.args, tvec := (s.core c).rtvec, stage := l.startStage j }) ∧
       (∀ x, (s.launches.get? id).map (fun l => l.teams.length) = some x → i < x →
         (t.launches.get? id).bind (fun l => l.teams[i]?) = some { core := some c, fate := .running }) ∧
       (s.mem.wf = true → ∀ o < poolSize (kindOfCore c), t.mem.read (poolKey c o) = 0)
     (∀ v, let tail := BitVec.ofNat 32 v
       (h.size < (tail - h.head).toNat → exec (.hqtailWrite die q v) s = .next (s.setHostQueue die q { h with
         tail, ctl := setField h.ctl 62 1 1, stopped := true })) ∧
       ((tail - h.head).toNat ≤ h.size → ∃ t : State, exec (.hqtailWrite die q v) s = .next t ∧
         t.hostQueue die q = { h with tail, stopped := h.stopped && bit h.ctl 62 } ∧
         (Instr.launchAdmission die q ∈ t.agenda ↔ Instr.launchAdmission die q ∈ s.agenda ∨
           h.en = true ∧ (h.stopped && bit h.ctl 62) = false ∧ h.head ≠ tail))) ∧
     (h.cur = none →
       (s.queueHas die q = false → exec (.launchAdmission die q) s = .next s ∧ exec (.waitCounterPoll die q) s = .next s) ∧
       (s.queueHas die q = true → let va := field h.base 12 45 * 2 ^ 12 + 128 * (h.head.toNat % h.size)
         (∀ c s', s.deviceRead (moduleOfDie die) (some h.part) va 128 = (.error c, s') → ∃ t : State, exec (.launchAdmission die q) s = .next t ∧
           t.hostQueue die q = { h with head := h.head + 1 } ∧ t.launches = s.launches) ∧
         (∀ bs s', s.deviceRead (moduleOfDie die) (some h.part) va 128 = (.ok bs, s') → ∃ t id l,
           exec (.launchAdmission die q) s = .next t ∧ (t.hostQueue die q).cur = some id ∧ t.launches.get? id = some l ∧
           l.words = wordsOfBytes bs ∧ l.part = some h.part ∧ l.supq = h.supq ∧ l.die = die ∧ l.checked = false ∧
           t.agenda = s'.agenda ++ [.launchAdmission die q]))) ∧
     (∀ id l, h.cur = some id → s.launches.get? id = some l → (h.en = false ∨ h.stopped = true) →
       exec (.launchAdmission die q) s = .next s ∧ exec (.waitCounterPoll die q) s = .next s) ∧
     (∀ id l, h.cur = some id → s.launches.get? id = some l → h.en = true → h.stopped = false →
       (∀ st, l.checked = false → s.rejection l = some st → ∃ t : State, exec (.launchAdmission die q) s = .next t ∧
         t.launches.get? id = none ∧ (t.hostQueue die q).head = h.head + 1 ∧ (t.hostQueue die q).cur = none ∧ t.cores = s.cores) ∧
       (l.checked = true → l.isHeap = true → l.prog ≠ 0 → s.heapBusy l = true → ∃ t : State, exec (.launchAdmission die q) s = .next t ∧
         t.launches.get? id = none ∧ (t.hostQueue die q).head = h.head + 1 ∧ (t.hostQueue die q).cur = none ∧ t.cores = s.cores) ∧
       (l.checked = true → (s.partHeld l = true ∧ l.isHeap = false ∨ l.isHeap = true ∧ l.prog = 0 ∧ s.heapBusy l = true) →
         ∃ t : State, exec (.launchAdmission die q) s = .next t ∧ t.cores = s.cores ∧ t.hostQueue die q = h) ∧
       (∀ c, l.checked = true → s.partHeld l = false → l.isHeap = false → l.f 6 48 4 = 0 → s.unreadHead die q = none →
         s.betterHead die q id = none → s.placement id l = some [(0, c)] → l.teamCount = 1 → l.threads ≤ 8 → s.launches.sorted = true →
         ∃ t : State, exec (.launchAdmission die q) s = .next t ∧ (t.hostQueue die q).head = h.head + 1 ∧ (t.hostQueue die q).cur = none ∧
           starts t id l 0 c) ∧
       (∀ c s', s.waitsMet l = (.error c, s') → ∃ t : State, exec (.waitCounterPoll die q) s = .next t ∧ t.launches.get? id = none ∧
         (t.hostQueue die q).head = h.head + 1) ∧
       (∀ b s', s.waitsMet l = (.ok b, s') → exec (.waitCounterPoll die q) s =
         .next (s'.emit (if b then .launchAdmission die q else .waitCounterPoll die q)))) ∧
     (∀ id, s.launches.get? id = none → ∀ i ∈ [Instr.launchForward die id, .teamStart id, .launchComplete id, .windowDepart id],
       exec i s = .next s) ∧
     (∀ id l, s.launches.get? id = some l →
       (moduleOfDie die ∈ l.heard → exec (.launchForward die id) s = .next s) ∧
       (moduleOfDie die ∉ l.heard → ∃ t : State, exec (.launchForward die id) s = .next t ∧
         t.launches.get? id = some { l with heard := l.heard ++ [moduleOfDie die] } ∧ t.cores = s.cores) ∧
       (id ∉ (s.die l.die).admitted ∨ s.partHeld l = true ∨ s.placement id l = none → exec (.teamStart id) s = .next s) ∧
       (∀ i c, id ∈ (s.die l.die).admitted → s.partHeld l = false → s.placement id l = some [(i, c)] → l.threads ≤ 8 →
         ∃ t : State, exec (.teamStart id) s = .next t ∧ starts t id l i c) ∧
       (l.over = false → exec (.launchComplete id) s = .next s) ∧
       (l.over = true → (∃ r ∈ s.reqs, ∃ t x, r.body = .gain id t x) → exec (.launchComplete id) s = .next (s.emit (.launchComplete id))) ∧
       (l.over = true → (∀ r ∈ s.reqs, ∀ t x, r.body ≠ .gain id t x) → ∃ t : State, exec (.launchComplete id) s = .next t ∧
         t.launches.get? id = none ∧ t.heaps.get? id = none ∧ (∀ e ∈ t.quads, ∀ c ∈ e.2.claims, c.2.2 ≠ id) ∧
         (∀ e ∈ t.dies, (∀ c ∈ e.2.claims, c.2 ≠ id) ∧ id ∉ e.2.admitted ∧ e.2.heap ≠ some id)) ∧
       (l.win = false → exec (.windowDepart id) s = .next s) ∧
       (l.win = true → (∃ t ∈ l.teams, s.memberGone id t = false ∧ t.fate ≠ .held) → ∃ t : State, exec (.windowDepart id) s = .next t ∧
         (t.launches.get? id).map (fun l => l.teams) = some (l.teams.map (fun t => { t with gone := s.memberGone id t }))) ∧
       (∀ x c, l.win = true → l.teams = [x] → x.fate = .held → x.saved = false → x.core = some c → ∃ t : State, exec (.windowDepart id) s = .next t ∧
         (t.core c).team = none ∧ (t.launches.get? id).map (fun l => l.teams.map (fun x => x.fate)) = some [.departed]))) ∧
  (∀ (s : State) (id : Nat) (l : Launch), s.launches.get? id = some l →
     let m := moduleOfDie l.die
     let w := fun (i : Fin 16) => l.words[i].toNat
     let signalAt := w 5 / 2 ^ 3 % 2 ^ 54 * 8 + 8 * (w 6 / 2 ^ 52 % 2 ^ 12)
     let recordAt := w 9 / 2 ^ 6 % 2 ^ 51 * 64
     let ends := fun (i : Instr) (u : State) (status teams fault time : Nat) => ∃ t : State, exec i s = .next t ∧
       t.mem = ((u.signal l).record l status teams fault time).mem
     (w 5 % 2 = 0 → s.signal l = s) ∧
     (∀ p u, w 5 % 2 = 1 → s.deviceTranslate m l.part signalAt true = (.ok p, u) → u.dramFault m p.pa 8 = none → p.pa % 8 = 0 →
       p.pa < 2 ^ 41 → (u.ownership m p.pa).owners = [] → u.mem.wf = true →
       (s.signal l).dramNat m p.pa 8 = (u.dramNat m p.pa 8 + 1) % 2 ^ 64) ∧
     (∀ status teams fault time,
       let late := bytesOf 8 time ++ bytesOf 8 (s.timens m) ++ bytesOf 8 fault ++ bytesOf 32 0
       (w 9 % 2 = 0 → s.record l status teams fault time = s) ∧
       (∀ u v, w 9 % 2 = 1 → s.deviceWrite m l.part (recordAt + 8) late = (none, u) →
         u.deviceWrite m l.part recordAt (bytesOf 8 (status + teams * 2 ^ 32)) = (none, v) → s.record l status teams fault time = v) ∧
       (∀ c u, w 9 % 2 = 1 → s.deviceWrite m l.part (recordAt + 8) late = (some c, u) →
         s.record l status teams fault time = u.hardwareRecord l.die (bytesOf 8 (recordAt + 8)))) ∧
     (∀ va bs p u, s.deviceTranslate m l.part va true = (.ok p, u) → p.pa + bs.length ≤ 2 ^ 41 → u.mem.wf = true → 0 < bs.length →
       ∃ v : State, s.deviceWrite m l.part va bs = (none, v) ∧ ∀ i x, bs[i]? = some x → v.dramNat m (p.pa + i) 1 = x.toNat) ∧
     (l.over = true → (∀ r ∈ s.reqs, ∀ t x, r.body ≠ .gain id t x) → s.heaps.get? id = none →
       let clean := (l.teams.filterMap (fun t => t.core)).foldl (fun s c => s.cleanQuad (quadOfCore c)) s
       let fate := fun (f : TeamFate) => ∃ t ∈ l.teams, t.fate = f
       let stopped := fate .halted ∨ l.wfault = true
       let exits := l.teams.countP (fun t => t.fate = .exited ∨ t.fate = .departed)
       let fault := (l.fault.map (fun f => f.1 + f.2 * 2 ^ 16)).getD 0
       (stopped → ends (.launchComplete id) clean 8 exits fault l.tRead) ∧
       (¬stopped → fate .withdrawn → ends (.launchComplete id) clean 9 exits fault l.tRead) ∧
       (¬stopped → ¬fate .withdrawn → ends (.launchComplete id) clean 1 exits fault l.tRead)) ∧
     (let granules := w 2 % 2 ^ 9 + w 2 / 2 ^ 9 % 2 ^ 9 + l.rfgF
      let few := w 0 / 2 ^ 2 % 2 ^ 2 = 2 ∧ (s.eligible l).length < w 0 / 2 ^ 16 % 2 ^ 16
      let busy := w 0 / 2 ^ 5 % 2 = 1 ∧ w 0 / 2 ^ 2 % 2 ^ 2 ≠ 0 ∧ s.heapBusy l = true
      let fits := l.formatOk = true ∧ granules ≤ 256
      (l.formatOk = false → s.rejection l = some 2) ∧
      (l.formatOk = true → 256 < granules → s.rejection l = some 3) ∧
      (fits → s.unplaceable l = true → s.rejection l = some 4) ∧
      (fits → s.unplaceable l = false → few → s.rejection l = some 5) ∧
      (fits → s.unplaceable l = false → ¬few → busy → s.rejection l = some 6) ∧
      (fits → s.unplaceable l = false → ¬few → ¬busy → s.rejection l = none) ∧
      ∀ (die q : Nat), q < 256 → (s.hostQueue die q).cur = some id → (s.hostQueue die q).en = true → (s.hostQueue die q).stopped = false →
       (∀ st, l.checked = false → s.rejection l = some st → ends (.launchAdmission die q) s st 0 0 l.tRead) ∧
       (l.checked = true → busy → ends (.launchAdmission die q) s 6 0 0 l.tRead) ∧
       (∀ c u, s.waitsMet l = (.error c, u) → ends (.waitCounterPoll die q) u 7 0 0 (u.timens m))))

/-! ## The system (R323–R346) -/

/-- R339: `CTXSV` and `CTXLD` check their block and its target, and wait; then a stop, save or discard waits until the work of the
target core is done, a load needs a free core, and a start a stopped team.  STATUS goes to the block at its end.  The order of the
checks after that of R130 (log 32), and what the supervisor keeps of a saved team (log 23), are the model's choices.

R339, R340: the image of a team, which SAVE writes and LOAD reads.  Its header, the place of each thread's section and of the
pool, and that a thread's registers come back from its section; a LOAD into an occupied core, of an image that cannot be read, of
another kind, or with another CRC, ends with its status.  The rest of a section's layout is the model's choice (log 23). -/
def Obligations.Contexts : Prop :=
  (∀ (s : State),
     (∀ (g : Guard) (a : GReg) (load : Bool),
       let m : Meta := { metaG 0x3E g [] [a] with priv := true }
       let i : Instr := if load then .ctxldLoad g a else .ctxsvStop g a
       let b := (s.g a).toNat % poolSize s.kind
       let target := Word.of (s.poolNat s.myCore b 8)
       let op := s.poolNat s.myCore (b + 16) 1
       s.executes m →
         (s.accEnd s.myCore < b + 32 → exec i s = s.traps m { cause := .localRange, addr := Word.of b }) ∧
         (b + 32 ≤ s.accEnd s.myCore → b % 32 ≠ 0 → exec i s = s.traps m { cause := .misalign, addr := Word.of b }) ∧
         (b % 32 = 0 → b + 32 ≤ s.accEnd s.myCore → (s.thread s.cur).stores = [] → (s.core s.myCore).poisoned = [] →
           (s.core s.myCore).flipped = [] →
           let other := ∃ c off, addrForm target = .core c off ∧ c ≠ s.myCore
           (addrForm target = .nonCanonical → exec i s = s.traps m { cause := .pageFault, sub := 1, addr := target }) ∧
           (addrForm target ≠ .nonCanonical → (¬other ∨ 2 < op ∨ s.poolNat s.myCore (b + 17) 7 ≠ 0) →
             exec i s = s.traps m { cause := .illegal }) ∧
           (other → op ≤ 2 → s.poolNat s.myCore (b + 17) 7 = 0 →
             (s.src.granted = false → exec i s = s.waitsIn m (.context (op + if load then 3 else 0) b) s) ∧
             (s.src.granted = true → exec i s = s.completes m s)))) ∧
     (∀ tid op b c off, s.waits tid (.context op b) → s.dueCause tid = none → s.mem.wf = true →
       (∀ p ∈ (s.core (coreOfThread tid)).pub, p.getLsbD 63 = false) →
       addrForm (s.ctxTarget tid b) = .core c off → c ≠ coreOfThread tid →
       let area := s.ctxArea tid b
       let goes : Host.Outcome State Fault Refusal := match op with
         | 1 => exec (.ctxsvSave tid) s
         | 2 => exec (.ctxsvDiscard tid) s
         | 4 => exec (.ctxldStart tid) s
         | 5 => exec (.ctxldLoadStart tid) s
         | _ => s.turnOf tid
       let ended := fun (st : Nat) (P : State → Prop) => ∃ t, goes = .next t ∧ (t.thread tid).status = .running ∧
         t.poolNat (coreOfThread tid) (b + 24) 8 = st ∧ P t
       let stopped := s.requestStop c
       let acts := fun (t : Thread) => t.status = .running ∨ t.status = .waiting
       (op ≤ 2 → (s.core c).team = none → ended 2 (fun t => (t.core c).team = none)) ∧
       (∀ tm, op ≤ 2 → (s.core c).team = some tm → stopped.quiet c = false → ∃ t, goes = .next t ∧
         (t.thread tid).wait = some (.context op b) ∧ (∀ i < 8, (t.thread (8 * c + i)).granted = false → (t.thread (8 * c + i)).status ≠ .running) ∧
         ∀ k : Fin 4, ((t.core c).chans[k]).stopping = true) ∧
       (∀ tm, (s.core c).team = some tm → stopped.quiet c = true →
         (op = 0 → ended 1 (fun t => (t.core c).team = some (if tm.status = .running ∨ tm.status = .held then { tm with status := .stopped } else tm) ∧
           ∀ i < 8, acts (s.thread (8 * c + i)) → (t.thread (8 * c + i)).status = .stopped)) ∧
         (op = 1 → ∀ s', stopped.saveTeam c tm area = (s', 1) → ended 1 (fun t => (t.core c).team = none ∧
           ∃ x ∈ t.saved, x.home = c ∧ x.launch = tm.launch ∧ x.index = tm.index ∧ x.cc = (s.core c).cc)) ∧
         (op = 1 → ∀ s' st, stopped.saveTeam c tm area = (s', st) → st ≠ 1 → ended st (fun t => (t.core c).team ≠ none)) ∧
         (op = 2 → ended 1 (fun t => (t.core c).team = none ∧ ∀ i < 8, (t.thread (8 * c + i)).status = .absent))) ∧
       (op = 3 ∨ op = 5 → s.coreFree c = false → ended 3 (fun t => t.core c = s.core c)) ∧
       let untouched := fun (s' : State) => s'.core (coreOfThread tid) = s.core (coreOfThread tid) ∧ s'.thread tid = s.thread tid ∧
         s'.mem.wf = true
       (∀ s', op = 3 → s.loadTeam c area = (s', 1) → untouched s' →
         ended 1 (fun t => t.core c = s'.core c ∧ ∀ i < 8, t.thread (8 * c + i) = s'.thread (8 * c + i))) ∧
       (∀ s' st, op = 3 ∨ op = 5 → s.loadTeam c area = (s', st) → st ≠ 1 → untouched s' → ended st (fun t => t.core c = s'.core c)) ∧
       let fate := fun (s : State) (tm : Team) => ((s.launches.get? tm.launch).bind (fun l => l.teams[tm.index]?)).map (fun x => x.fate)
       let started := fun (s : State) (tm : Team) =>
         { tm with status := if fate s tm = some .held then .held else .running, latched := false }
       (∀ s', op = 5 → s.loadTeam c area = (s', 1) → s'.core (coreOfThread tid) = s.core (coreOfThread tid) →
         s'.thread tid = s.thread tid → s'.mem.wf = true → ∀ tm, (s'.core c).team = some tm → tm.status = .stopped →
         ended 1 (fun t => (t.core c).team = some (started s' tm))) ∧
       (op = 4 → (∀ tm, (s.core c).team = some tm → tm.status ≠ .stopped) → ended 2 (fun t => t.core c = s.core c)) ∧
       (∀ tm, op = 4 → (s.core c).team = some tm → tm.status = .stopped →
         ended 1 (fun t => (t.core c).team = some (started s tm) ∧
           (∀ i < 8, (s.thread (8 * c + i)).status = .stopped → (t.thread (8 * c + i)).status = .running) ∧
           ∀ k : Fin 4, ((t.core c).chans[k]).stopping = false)))) ∧
  (let num := fun (bs : List Byte) (o n : Nat) => natOfBytes ((bs.drop o).take n)
   let section_ := fun (image : List Byte) (i : Nat) => readThread ((image.drop (0x1000 + 0x2000 * i)).take 0x2000)
   let same := fun (t u : Thread) => t.pc = u.pc ∧ (∀ k : Fin 32, k ≠ 0 → t.g[k] = u.g[k]) ∧ (∀ k : Fin 8, k ≠ 0 → t.p[k] = u.p[k]) ∧
     t.v = u.v ∧ t.w = u.w ∧ t.m = u.m ∧ t.long = u.long ∧ t.decl = u.decl ∧ t.syl = u.syl ∧ t.fb = u.fb
   (∀ (s : State) (c : Nat) (tm : Team),
     let body := s.imageBody c tm
     let head := s.imageHeader c tm (crc64 body)
     let image := head ++ body
     let size := 2 ^ 17 + poolSize (kindOfCore c) + (if kindOfCore c = .dcc then 2 ^ 20 else 0)
     let kind := match kindOfCore c with
       | .lookup => 0
       | .dcc => 1
       | .super => 2
     image.length = size ∧ head.length = 64 ∧ num image 0 1 = kind ∧ (tm.threads < 256 → num image 1 7 = tm.threads) ∧
     num image 8 8 = size ∧ num image 16 8 = s.timens (moduleOfCore c) ∧
     (∀ l, s.launches.get? tm.launch = some l → num image 24 8 = l.addr.toNat) ∧ (tm.index < 2 ^ 32 → num image 32 4 = tm.index) ∧
     num image 36 20 = 0 ∧ num image 56 8 = (crc64 body).toNat ∧
     (∀ o < poolSize (kindOfCore c), image[0x20000 + o]? = some (s.mem.read (poolKey c o))) ∧
     (∀ i < 8, i < tm.threads → same (section_ image i) (s.thread (8 * c + i))) ∧
     (∀ area,
       let clean := ((List.range 8).foldl (fun s i => s.drainAll (8 * c + i)) s).cleanQuad (quadOfCore c)
       let written := clean.imageWrite (moduleOfCore c) (s.partOfCore c) (size / 64 + 1) area
         (clean.imageHeader c tm (crc64 (clean.imageBody c tm)) ++ clean.imageBody c tm)
       (∀ u, written = (none, u) → ∃ t : State, s.saveTeam c tm area = (t, 1) ∧ (t.core c).team = none ∧
         ∃ x ∈ t.saved, x.home = c ∧ x.launch = tm.launch ∧ x.index = tm.index ∧ x.part = tm.part ∧ x.cc = (s.core c).cc) ∧
       (∀ e u, written = (some e, u) → ∃ t : State, s.saveTeam c tm area = (t, 5 + 2 ^ 8 * e.code) ∧ t.mem = u.mem ∧ t.threads = u.threads))) ∧
   crc64 ((List.range 9).map (fun i => BitVec.ofNat 8 (0x31 + i))) = 0x6C40DF5F0B497347#64 ∧
   (∀ (s : State) (c area : Nat),
     let kind := kindOfCore c
     let read := fun (s : State) (va n : Nat) => s.imageRead (moduleOfCore c) (s.partOfCore c) va n
     let size := 2 ^ 17 + poolSize kind + (if kind = .dcc then 2 ^ 20 else 0)
     let code := match kind with
       | .lookup => 0
       | .dcc => 1
       | .super => 2
     (s.coreFree c = false → s.loadTeam c area = (s, 3)) ∧
     (s.coreFree c = true →
       (∀ e u, read s area 1 = (.error e, u) → s.loadTeam c area = (u, 5 + 2 ^ 8 * e.code)) ∧
       (∀ head u, read s area 1 = (.ok head, u) → u.partOfCore c = s.partOfCore c →
         (num head 0 1 ≠ code → s.loadTeam c area = (u, 4)) ∧
         (num head 0 1 = code →
           (∀ e v, read u (area + 64) (size / 64 - 1) = (.error e, v) → s.loadTeam c area = (v, 5 + 2 ^ 8 * e.code)) ∧
           (∀ body v, read u (area + 64) (size / 64 - 1) = (.ok body, v) →
             (num head 56 8 ≠ (crc64 body).toNat → s.loadTeam c area = (v, 4)) ∧
             (∀ x, num head 56 8 = (crc64 body).toNat → v.savedOf (num head 24 8) (num head 32 4) = some x → v.mem.wf = true →
               let image := head ++ body
               ∃ t tm, s.loadTeam c area = (t, 1) ∧ (t.core c).team = some tm ∧ tm.launch = x.launch ∧ tm.index = x.index ∧
                 tm.part = x.part ∧ tm.threads = num head 1 1 ∧ (tm.status = .stopped ∨ tm.status = .halted) ∧
                 (∀ y ∈ t.saved, ¬(y.launch = x.launch ∧ y.index = x.index)) ∧
                 (∀ o < poolSize kind, image[0x20000 + o]? = some (t.mem.read (poolKey c o))) ∧
                 ∀ i < 8, i < num head 1 1 → same (t.thread (8 * c + i)) (section_ image i))))))))

/-- R323–R325: who may read and write which system register, in the order of the checks.

R166, R234, R337, R347, R392: the registers whose writes are rows of their own: a publish slot and `ACCR` check their fields,
`ICINV` empties instruction caches, `ASGPART` assigns a holder or an object that is not in use, and RUN ends a halt's hold. -/
def Obligations.RegisterAccess : Prop :=
  (∀ (s : State) (g : Guard) (d a : GReg) (r : BitVec 10), s.src.status = .running → s.bundle = none →
     let n := r.toNat
     let sup := s.src.sup
     let mf : Meta := { metaG 0x3C g [d] [] with sys := sysCheck n false sup, reads := sysLoops n }
     let mt := metaMts g a n s
     let assigned := n ≤ 0x54 ∨ 0x58 ≤ n ∧ n ≤ 0x67
     let closed := 0x01 ≤ n ∧ n ≤ 0x06 ∨ n = 0x17 ∨ 0x3C ≤ n ∧ n ≤ 0x50 ∨ 0x52 ≤ n ∧ n ≤ 0x54 ∨ 0x58 ≤ n ∧ n ≤ 0x67
     let readOnly := n = 0 ∨ 0x08 ≤ n ∧ n ≤ 0x0B ∨ 0x20 ≤ n ∧ n ≤ 0x3B ∨ n = 0x51
     let userReads := 0x0D ≤ n ∧ n ≤ 0x0F ∨ 0x18 ≤ n ∧ n ≤ 0x1B
     let mfs := fun (c : Cause) => exec (.mfs g d r) s = s.traps mf { cause := c }
     let mts := fun (c : Cause) => exec (.mts g a r) s = s.traps mt { cause := c }
     (¬assigned → mfs .illegal ∧ mts .illegal) ∧
     (sup = false → closed → mfs .priv ∧ mts .priv) ∧
     (readOnly → mts .illegal) ∧ (sup = false → userReads → mts .priv) ∧ (sup = true → n = 0x45 → mfs .illegal) ∧
     (assigned → (sup = true ∨ ¬closed) → n ≠ 0x45 → sysCheck n false sup = none) ∧
     (assigned → (sup = true ∨ ¬closed ∧ ¬userReads) → ¬readOnly → sysCheck n true sup = none)) ∧
  (∀ (s : State) (g : Guard) (a : GReg) (n : Fin 4),
     let x := s.g a
     (let m := metaMts g a (0x01C + n.val) s
      let k := s.core s.myCore
      let f := fun (lo : Nat) => x.toNat / 2 ^ lo % 2 ^ 20
      let view := f 0
      let len := f 20
      let alt := f 40
      let legal := view % 256 = 0 ∧ len % 256 = 0 ∧ alt % 256 = 0 ∧ len ≠ 0 ∧ view + len ≤ s.accEnd s.myCore ∧
        s.accEnd s.myCore ≤ alt ∧ alt + len ≤ s.regFileStart s.myCore ∧ ∀ i : Fin 4, i ≠ n → (k.pub[i]).getLsbD 63 = true →
          view + len ≤ pubView k.pub[i] ∨ pubView k.pub[i] + pubLen k.pub[i] ≤ view
      let put := fun (v : Word) => exec (.pubSlotWrite g n a) s = s.completes m (s.modCore s.myCore (fun k => { k with pub := k.pub.set n v }))
      s.executes m → (s.thread s.cur).stores = [] →
       (x.getLsbD 63 = true → ¬legal → exec (.pubSlotWrite g n a) s = s.traps m { cause := .illegal }) ∧
       (x.getLsbD 63 = true → legal → put (Word.of (2 ^ 63 + ((k.pub[n]).getLsbD 62).toNat * 2 ^ 62 + x.toNat % 2 ^ 60))) ∧
       (x.getLsbD 63 = false → put (Word.of (x.toNat % 2 ^ 60)))) ∧
     (let m := metaMts g a 0x00C s
      let ns := x.toNat / 2 ^ 51 % 2 ^ 7
      let bad := 64 < ns ∨ 0 < ns ∧ ns ≤ x.toNat / 2 ^ 58 ∨ x.getLsbD 25 = true
      s.executes m →
       (bad → exec (.accrWrite g a) s = s.traps m { cause := .illegal }) ∧
       (¬bad → exec (.accrWrite g a) s = s.completes m (s.modTh (fun t => { t with accr := x })))) ∧
     (let m := metaMts g a 0x045 s
      s.executes m → ∃ t : State, exec (.icinvWrite g a) s = s.completes m t ∧ t.mem = s.mem ∧ t.threads = s.threads ∧ ∀ q, t.quad q =
       if (if x.getLsbD 0 then q / 1024 = s.myModule else q / 64 = s.myDie) then { s.quad q with icache := [] } else s.quad q) ∧
     (let m := metaMts g a 0x054 s
      let die := s.die s.myDie
      let p := if x.getLsbD 8 then some (x.toNat % 2 ^ 8) else none
      let what := die.asgsel.toNat / 2 ^ 16 % 2 ^ 3
      let holder := die.asgsel.toNat / 2 ^ 8 % 2 ^ 8
      let obj := Fin.ofNat 16 (die.asgsel.toNat % 2 ^ 4)
      let q := 64 * s.myDie + (if holder < 32 then holder else if holder = 0x80 then 32 else 33)
      let named := holder < 32 ∨ holder = 0x80 ∨ holder = 0x81
      let illegal := exec (.asgpartWrite g a) s = s.traps m { cause := .illegal }
      let done := fun (P : State → Prop) => ∃ t : State, exec (.asgpartWrite g a) s = s.completes m t ∧ t.mem = s.mem ∧ P t
      s.executes m →
       ((2 < what ∨ what = 0 ∧ ¬named) → illegal) ∧
       (what = 0 → named →
         ((s.quad q).part ≠ p → (∃ c ∈ coresOfQuad q, (s.core c).team ≠ none ∨ s.savedAt c ≠ none) → illegal) ∧
         (((s.quad q).part = p ∨ ∀ c ∈ coresOfQuad q, (s.core c).team = none ∧ s.savedAt c = none) →
           done (fun t => t.quad q = { s.quad q with part := p }))) ∧
       (what = 1 →
         (die.objPart[obj] ≠ p → (∃ c ∈ die.claims, c.1.testBit obj = true) → illegal) ∧
         ((die.objPart[obj] = p ∨ ∀ c ∈ die.claims, c.1.testBit obj = false) →
           done (fun t => t.die s.myDie = { die with objPart := die.objPart.set obj p }))) ∧
       (what = 2 → done (fun t => (t.module s.myModule).objPart = (s.module s.myModule).objPart.set obj p))) ∧
     (∀ module part,
       ((s.partition module (some part)).halted = false → exec (.haltselRun module part) s = .next s) ∧
       ((s.partition module (some part)).halted = true → ∃ t : State, exec (.haltselRun module part) s = .next t ∧ t.mem = s.mem ∧
         ∀ m p, t.partition m p = { s.partition m p with halted := (s.partition m p).halted && partKey p != part })))

/-- R324–R328 and the chapters of the registers: what `MFS` returns and `MTS` writes.  A field that is reserved or read-only keeps
its value, and `INJST`, `RQCFG`, `RQPTR` and `HQHEAD` ignore a write; that bits [14:12] of an entry of `HCHAIN` or `TCHAIN` are not
written is the model's choice (log 20).  `MFS` reads what the thread's registers held before its bundle (R41). -/
def Obligations.SystemRegisters : Prop :=
  ∀ (s : State) (g : Guard) (d a : GReg) (r : BitVec 10),
    let n := r.toNat
    let t := s.src
    let k := s.core s.myCore
    let die := s.die s.myDie
    let md := s.module s.myModule
    let q := s.quad s.myQuad
    let hq := s.hostQueue s.myDie (die.hqsel.toNat % 256)
    (let m : Meta := { metaG 0x3C g [d] [] with sys := sysCheck n false s.src.sup, reads := sysLoops n }
     s.executes m →
      let reads := fun (x : Word) => exec (.mfs g d r) s = s.completes m (s.setG d x)
      (∀ v ∈ ([(0x000, Word.of (t.long.toNat * 4 + t.hnd.toNat * 2 + t.sup.toNat)), (0x001, t.tsaved), (0x002, t.tepc),
          (0x003, t.tcause), (0x004, t.taddr), (0x005, t.tvec), (0x006, t.tscratch), (0x007, t.fflags.setWidth 64),
          (0x008, Word.of (if md.timeRun then md.time % 2 ^ 64 else 0)), (0x009, Word.of (md.cycles - die.late)), (0x00A, k.partw), (0x00C, t.accr),
          (0x00E, k.rqcfg), (0x00F, k.rqptr), (0x016, t.lpipe.setWidth 64), (0x017, t.tchain),
          (0x044, (s.partition s.myModule (s.partOfCore s.myCore)).ptroot), (0x046, die.hchain), (0x048, md.haltbase), (0x049, k.wdog),
          (0x04A, die.hqsel), (0x04B, hq.ctl), (0x04C, hq.base), (0x04D, hq.tail.setWidth 64), (0x04E, hq.head.setWidth 64),
          (0x04F, k.trctl), (0x050, k.trbase), (0x051, k.trptr), (0x052, k.rtvec), (0x053, die.asgsel)] : List (Nat × Word)),
        n = v.1 → reads v.2) ∧
      (∀ i : Fin 2, (n = 0x010 + i.val → reads t.lccnt[i]) ∧ (n = 0x012 + i.val → reads t.lcbeg[i]) ∧ (n = 0x014 + i.val → reads t.lcend[i])) ∧
      (∀ i : Fin 4, (n = 0x01C + i.val → reads k.pub[i]) ∧ (n = 0x030 + i.val → reads k.wp[i]) ∧
        (n = 0x018 + i.val → reads ((k.chans[i]).status))) ∧
      (∀ i : Fin 8, (n = 0x03C + i.val → reads (q.fifos[i]).ring) ∧ (n = 0x058 + i.val → reads k.psel[i]) ∧ (n = 0x060 + i.val → reads k.pcnt[i]) ∧
        (n = 0x034 + i.val → reads (Word.of ((if 0 < (q.fifos[i]).rcnt then 2 ^ 63 else 0) + (q.fifos[i]).rcnt % 2 ^ 20 * 2 ^ 32 +
          (q.fifos[i]).recs.length % 64)))) ∧
      (∀ i : Fin 16, n = 0x020 + i.val → reads (k.cc[i].setWidth 64)) ∧
      (n = 0x00B → ∃ x, reads x ∧ ∀ b < 64, x.getLsbD b = if b = 17 then k.team.any (fun tm => tm.mdet) else if b = 18 then (s.thread s.cur).tdet
        else k.winst.getLsbD b) ∧
      (n = 0x00D → ∃ x, reads x ∧ x.toNat % 2 ^ 14 = (8192 - s.staged s.myCore) % 2 ^ 14 ∧ x.toNat / 2 ^ 48 = k.frozen.toNat) ∧
      (n = 0x047 → ∃ x, reads x ∧ x.getLsbD 9 = (s.partition s.myModule (some (die.haltsel.toNat % 256))).halted) ∧
      (n = 0x054 → (s.asgTarget s.myDie = .none → exec (.mfs g d r) s = s.traps m { cause := .illegal }) ∧
        (s.asgTarget s.myDie ≠ .none → (s.assignment s.myDie (s.asgTarget s.myDie) = none → reads 0) ∧
          ∀ p < 256, s.assignment s.myDie (s.asgTarget s.myDie) = some p → reads (Word.of (256 + p))))) ∧
    (let m := metaMts g a n s
     let x := s.g a
     let only := fun (k : Nat) => x &&& Word.of k
     s.executes m →
      let writes := fun (s' : State) => exec (.mts g a r) s = s.completes m s'
      let th := fun (f : Thread → Thread) => writes (s.modTh f)
      let co := fun (f : Core → Core) => writes (s.modCore s.myCore f)
      let di := fun (f : Die → Die) => writes (s.modDie s.myDie f)
      (n = 0x001 → th (fun t => { t with tsaved := x })) ∧ (n = 0x002 → th (fun t => { t with tepc := x })) ∧
      (n = 0x003 → th (fun t => { t with tcause := only (2 ^ 24 - 1) })) ∧ (n = 0x004 → th (fun t => { t with taddr := x })) ∧
      (n = 0x005 → th (fun t => { t with tvec := only (2 ^ 57 - 3) })) ∧ (n = 0x006 → th (fun t => { t with tscratch := x })) ∧
      (n = 0x007 → th (fun t => { t with fflags := x.setWidth 6 })) ∧
      let lp := fun (f : Thread → Thread) => th (fun t => f (t.renewAll (sysLoops n)))
      (n = 0x016 → lp (fun t => { t with lpipe := x.setWidth 6 })) ∧
      (n = 0x017 → th (fun t => { t with tchain := only (0x8FFF * 2 ^ 48 + 0x8FFF * 2 ^ 32 + 0x8FFF * 2 ^ 16 + 7) })) ∧
      (∀ i : Fin 2, (n = 0x010 + i.val → lp (fun t => { t with lccnt := t.lccnt.set i x })) ∧
        (n = 0x012 + i.val → lp (fun t => { t with lcbeg := t.lcbeg.set i (only (2 ^ 57 - 1)) })) ∧
        (n = 0x014 + i.val → lp (fun t => { t with lcend := t.lcend.set i (only (2 ^ 57 - 4)) }))) ∧
      (n = 0x049 → co (fun k => { k with wdog := only (2 ^ 16 - 1) })) ∧
      (n = 0x050 → co (fun k => { k with trbase := only (2 ^ 52 - 2 ^ 12) })) ∧
      (n = 0x052 → co (fun k => { k with rtvec := only (2 ^ 57 - 3) })) ∧
      (n = 0x04F → ∃ c, co (fun k => { k with trctl := c }) ∧ ∀ b < 64, c.getLsbD b =
        if b = 61 then k.trctl.getLsbD 61 && !x.getLsbD 61
        else decide (b = 63 ∨ b = 62 ∨ 8 ≤ b ∧ b < 16 ∨ b < 4) && x.getLsbD b) ∧
      (∀ i : Fin 8, (n = 0x058 + i.val → co (fun k => { k with psel := k.psel.set i (only (2 ^ 31 + 2 ^ 30 + 2 ^ 16 - 1)) })) ∧
        (n = 0x060 + i.val → co (fun k => { k with pcnt := k.pcnt.set i x }))) ∧
      (n = 0x046 → di (fun k => { k with hchain := only (0x8FFF * 2 ^ 48 + 0x8FFF * 2 ^ 32 + 0x8FFF * 2 ^ 16) })) ∧
      (n = 0x04A → di (fun k => { k with hqsel := only 255 })) ∧
      (n = 0x053 → di (fun k => { k with asgsel := only (7 * 2 ^ 16 + 255 * 2 ^ 8 + 15) })) ∧
      (n = 0x047 → x.getLsbD 8 = false → di (fun k => { k with haltsel := only 255 })) ∧
      (n = 0x044 → writes (s.setPartition s.myModule (s.partOfCore s.myCore)
        { s.partition s.myModule (s.partOfCore s.myCore) with ptroot := only (2 ^ 52 - 1) })) ∧
      (n = 0x048 → writes (s.modModule s.myModule (fun k => { k with haltbase := only (2 ^ 52 - 2 ^ 12) }))) ∧
      (n = 0x04C → writes (s.setHostQueue s.myDie (die.hqsel.toNat % 256) { hq with base := only (2 ^ 57 - 2 ^ 12) })) ∧
      (n = 0x04B → ∃ s' c, writes s' ∧ s'.hostQueue s.myDie (die.hqsel.toNat % 256) = { hq with ctl := c } ∧ ∀ b < 64, c.getLsbD b =
        if b = 62 then hq.ctl.getLsbD 62 && !x.getLsbD 62
        else decide (b = 63 ∨ b = 61 ∨ 48 ≤ b ∧ b < 56 ∨ 32 ≤ b ∧ b < 35 ∨ b < 4) && x.getLsbD b) ∧
      (n = 0x04D → ∃ s' : State, exec (.hqtailWrite s.myDie (die.hqsel.toNat % 256) (x.toNat % 2 ^ 32)) s = .next s' ∧ writes s') ∧
      (∀ i : Fin 4, n = 0x018 + i.val →
        (x.getLsbD 62 = true → ∃ s' : State, exec (.chstAbort s.myCore i.val) s = .next s' ∧ writes s') ∧
        (x.getLsbD 62 = false → x.getLsbD 63 = true → ∃ s' : State, exec (.chstFaultResume s.myCore i.val) s = .next s' ∧ writes s') ∧
        (x.getLsbD 62 = false → x.getLsbD 63 = false → writes s)) ∧
      (n ∈ [0x00D, 0x00E, 0x00F, 0x04E] → writes s))

/-- R37, R329–R335: trap entry.  A thread that may take it goes to its handler in supervisor mode, with its mode, pc, cause and
address saved; it waits until its long-latency instructions have ended.  One that is in a handler already (an asynchronous cause
stays pending there, R331), or has none, stops, and a trap message goes to a supervisor core: to its own die's, to the chain's first
entry from a supervisor core, and one entry further from a thread that handles a trap message, whose origin and chain go on
unchanged.  Where the chain has no such entry, the quad of the thread that it began with halts; a core that stood halted keeps the
times of its first stop, which is the model's choice (log 27).

R323, R332, R333, R337: `TRAP` and `BRK` trap; `RETT` returns from a handler, and in none it is illegal; `HALT` halts the
partition that `HALTSEL` names, or its own; and an encoding that no instruction has is illegal.  That `RETT` ends the windows of the
handler, that a `HALT` without a partition does nothing and that every core stops in its step (log 26), the hold in every module that
the machine has (log 27), and the arrivals of `BARRW` that `RETT` forgets (log 23), are the model's choices. -/
def Obligations.Traps : Prop :=
  (∀ (s : State) (tid : Nat) (t : TrapInfo) (words : Nat),
     let th := s.thread tid
     let c := coreOfThread tid
     let code := Word.of (t.origin % 16 * 2 ^ 20 + t.unit % 16 * 2 ^ 16 + t.sub % 256 * 2 ^ 8 + t.cause.code)
     let epc := if t.next then th.pc + Word.of (if kindOfCore c = .dcc then 16 else 4 * words) else th.pc
     ((∃ o ∈ th.outstanding, o.ended = false) → s.raise tid t words =
       s.setThread tid { th with status := .waiting, wait := some (.trap t), waitWords := words }) ∧
     ((∀ o ∈ th.outstanding, o.ended = true) →
       (th.hnd = false → th.tvec.getLsbD 0 = true → (s.raise tid t words).thread tid = { th with
         status := .running, wait := none, granted := false, windows := [], sup := true, hnd := true
         tsaved := if th.sup then 1 else 0, tepc := epc, tcause := code, taddr := t.addr
         pc := Word.of (th.tvec.toNat / 4 % 2 ^ 55 * 4) }) ∧
       ((th.hnd = true ∨ th.tvec.getLsbD 0 = false) → (th.hnd = true → t.origin = 0) →
         let handling := th.tchain.getLsbD 2 = true
         let origin := if handling then th.origin.getD tid else tid
         let chain := if handling then th.tchain.toNat else (s.die (c / 256)).hchain.toNat
         let step := if handling then th.tchain.toNat % 4 + 1 else if kindOfCore c = .super then 1 else 0
         let entry := chain / 2 ^ (16 * step) % 2 ^ 16
         let die := if step = 0 then c / 256 else entry % 256 * 16 + entry / 256 % 16
         let u := s.raise tid t words
         (th.tchain.toNat % 8 ≠ 7 → (step = 0 ∨ 2 ^ 15 ≤ entry) →
           u.thread tid = { th with status := .stopped, wait := none, granted := false, windows := [] } ∧
           ∃ r p, u.reqs = s.reqs ++ [r] ∧ r.tid = tid ∧ r.src = c ∧ r.dst = some (die * 256 + 129) ∧ r.stream = some 0 ∧
             r.body = .message t.cause.code 2 p ∧
             p = (if th.hnd && th.tvec.getLsbD 0 then
                 bytesOf 8 th.pc.toNat ++ bytesOf 8 code.toNat ++ bytesOf 8 t.addr.toNat ++
                   bytesOf 8 th.tepc.toNat ++ bytesOf 8 th.tcause.toNat ++ bytesOf 8 th.taddr.toNat
               else bytesOf 8 epc.toNat ++ bytesOf 8 code.toNat ++ bytesOf 8 t.addr.toNat ++ List.replicate 24 0) ++
               bytesOf 4 (origin / 8 / 4096 * 2 ^ 15 + origin / 8 / 256 % 16 * 2 ^ 11 + origin / 8 % 256 * 2 ^ 3 + origin % 8) ++
               List.replicate 4 0 ++ bytesOf 8 (chain / 2 ^ 16 * 2 ^ 16 + 4 + step)) ∧
         ((th.tchain.toNat % 8 = 7 ∨ step ≠ 0 ∧ entry < 2 ^ 15) → ∀ o ∈ coresOfQuad (quadOfCore (origin / 8)),
           ∃ h, (u.core o).halt = some h ∧ h.cause = 2 ∧ h.part = s.partOfCore (origin / 8) ∧ h.written = false ∧
             (∀ x, (s.core o).halt = some x → h.cycle = x.cycle ∧ h.time = x.time) ∧
             ((s.core o).halt = none → h.cycle = s.cycleOf o ∧ h.time = s.timens (o / 4096))))) ∧
     (∀ u, (s.thread tid).status = .waiting → (s.thread tid).wait = some (.trap u) →
       ((∃ o ∈ th.outstanding, o.ended = false) → exec (.trapEntry tid) s = .next s) ∧
       ((∀ o ∈ th.outstanding, o.ended = true) → exec (.trapEntry tid) s = .next (s.raise tid u th.waitWords)))) ∧
  (∀ (s : State) (g : Guard) (b : Fin 32),
     let m := metaG 0x3E g [] []
     let saved := s.src.tsaved
     (s.executes m →
       exec (.trap g b) s = s.traps m { cause := .software, sub := b.val, next := true } ∧
       exec (.brk g) s = s.traps m { cause := .break } ∧
       (s.src.hnd = false → exec (.rett g) s = s.traps m { cause := .illegal }) ∧
       (s.src.hnd = true → 2 ≤ saved.toNat → exec (.rett g) s = s.traps m { cause := .statusReserved }) ∧
       (s.src.hnd = true → saved.toNat < 2 → ∃ t : State, exec (.rett g) s = s.jumps m t s.src.tepc ∧
         t.thread s.cur = { s.thread s.cur with
           sup := (s.thread s.cur).tsaved.getLsbD 0, hnd := false, windows := []
           barrw := (s.thread s.cur).barrw.filter (fun b => b.2 == (s.thread s.cur).tepc) } ∧ t.mem = s.mem)) ∧
     (s.executes { m with priv := true } →
       let part := if s.kind = .super then some ((s.die s.myDie).haltsel.toNat % 256) else s.partOfCore s.myCore
       (part = none → exec (.halt g) s = s.completes { m with priv := true } s) ∧
       (∀ p, part = some p → ∃ t : State, exec (.halt g) s = s.completes { m with priv := true } t ∧
         (∀ e ∈ s.modules, (t.partition e.1 (some p)).halted = true ∧ Instr.haltRecords e.1 p 1 ∈ t.agenda) ∧
         (∀ e ∈ s.cores, kindOfCore e.1 ≠ .super → (∃ tm, e.2.team = some tm ∧ tm.part = some p) → s.core e.1 = e.2 →
           let of := fun (h : HaltMark) => h.part = some p ∧ h.cause ≠ 2
           let joins := (∃ h, e.2.halt = some h ∧ of h) ∧ ∃ x ∈ s.cores, ∃ h, x.2.halt = some h ∧ of h ∧ h.written = false
           (joins → (t.core e.1).halt = e.2.halt) ∧
           (¬joins → (t.core e.1).halt = some (match e.2.halt with
               | some h => { cause := 1, part := some p, cycle := h.cycle, time := h.time }
               | none => { cause := 1, part := some p, cycle := s.cycleOf e.1, time := s.timens (e.1 / 4096) }) ∧
             (t.core e.1).team.map (fun tm => tm.status) = some .halted ∧
             ∀ i < 8, (t.thread (8 * e.1 + i)).status ≠ .running)))) ∧
     (s.src.status = .running → exec .reservedEncoding s = s.traps { major := 0, guard := { p := 0, neg := false } } { cause := .illegal }))

/-- R336, R338: the watchdog of a core finds a thread that waits too long; halt records are written once the messages that the
halted cores had sent are settled.  The waits that it watches are those that R336 names.

R22, R341–R346: `TIMENS` reads the time; `SLEEP` and `SLEEPM` last until the time, or a message, has come; `PERF` reads a counter
and may clear it; `TRACE` leaves a record in the ring of the core's traces, if its class is enabled and the ring has room. -/
def Obligations.TimeAndRecords : Prop :=
  (∀ (s : State),
     (∀ (n : Fin 16) (p : Fin 4) (k j : Nat) (x y : Bool) (ph o : Option Nat) (st : Option (Nat × Nat)) (l : Option (List Word)) (ga : Word)
         (d : GReg) (b : BitVec 32) (t : Tag) (tr : TrapInfo) (im : BitVec 512),
       (∀ w ∈ [Wait.counter n k, .writePointer p k, .barrier ga x y ph, .rows k, .entries k, .fence k, .qpop d k j, .done k b, .exit o l],
         Wait.watched w = true) ∧
       (∀ w ∈ [Wait.sleep ga x, .recv d k, .recvred d k k j t j ga, .take x y b d st, .publish k j, .tblset k im o, .detach, .hseed k j x,
         .context k j, .tlbinv k, .trap tr], Wait.watched w = false)) ∧
     (∀ tid,
       let th := s.thread tid
       let limit := (s.core (coreOfThread tid)).wdog.toNat % 2 ^ 16
       let due := th.status = .waiting ∧ (∃ w, th.wait = some w ∧ Wait.watched w = true) ∧ limit ≠ 0 ∧
         limit * 65536 < s.cycleOf (coreOfThread tid) - th.waitCycle ∧ ∀ t ∈ th.pending, t.origin ≠ 6
       (due → exec (.watchdogExpiry tid) s = .next (s.setThread tid { th with
         pending := th.pending ++ [{ cause := .watchdog, origin := 6 }] })) ∧
       (¬due → exec (.watchdogExpiry tid) s = .next s)) ∧
     (∀ c k h, s.cores = [(c, k)] → k.halt = some h → h.written = false →
       let m := c / 4096
       let p := h.part.getD 256
       let place := (s.module m).haltbase.toNat + 256 * (130 * (c / 256 % 16) + c % 256)
       ((∃ r ∈ s.reqs, r.src = c ∧ r.left = true ∧ r.st = .waiting ∧ ∃ t k p, r.body = .message t k p) →
         exec (.haltRecords m p h.cause) s = .next (s.emit (.haltRecords m p h.cause))) ∧
       ((∀ r ∈ s.reqs, ¬(r.src = c ∧ r.left = true ∧ r.st = .waiting)) → s.mem.wf = true → (s.module m).poisoned = [] → place + 256 ≤ 2 ^ 41 →
         ∃ t : State, exec (.haltRecords m p h.cause) s = .next t ∧ (t.core c).halt = some { h with written := true } ∧
           t.dramNat m place 8 = h.cycle % 2 ^ 64 ∧ t.dramNat m (place + 8) 8 = h.time % 2 ^ 64 ∧ t.dramNat m (place + 16) 4 = h.cause % 2 ^ 32 ∧
           t.dramNat m (place + 20) 4 = c / 4096 * 2 ^ 12 % 2 ^ 32 + c / 256 % 16 * 2 ^ 8 + c % 256 ∧
           (∀ i : Fin 16, t.dramNat m (place + 24 + 4 * i.val) 4 = (k.sent[i]).toNat ∧
             t.dramNat m (place + 88 + 4 * i.val) 4 = (k.accepted[i]).toNat)))) ∧
  (∀ (s : State) (g : Guard) (d a : GReg),
     let md := s.module s.myModule
     let now := if md.timeRun then md.time % 2 ^ 64 else 0
     let k := s.core s.myCore
     let x := s.g a
     (s.executes (metaG 0x3E g [d] []) → exec (.timens g d) s = s.completes (metaG 0x3E g [d] []) (s.setG d (Word.of now))) ∧
     (let m := metaG 0x3E g [] [a]
      s.executes m →
       ((s.src.granted = true ∨ x.toNat ≤ now) → exec (.sleep g a) s = s.completes m s ∧ exec (.sleepm g a) s = s.completes m s) ∧
       (s.src.granted = false → now < x.toNat → exec (.sleep g a) s = s.waitsIn m (.sleep x false) s ∧
         (k.rqptr.toNat / 2 ^ 32 = k.rqptr.toNat % 2 ^ 32 → exec (.sleepm g a) s = s.waitsIn m (.sleep x true) s) ∧
         (k.rqptr.toNat / 2 ^ 32 ≠ k.rqptr.toNat % 2 ^ 32 → exec (.sleepm g a) s = s.completes m s)) ∧
       (let size := 2 ^ (k.trctl.toNat % 16 + 7)
        let on := k.trctl.getLsbD 63 = true ∧ k.trctl.getLsbD 8 = true
        (¬on → exec (.trace g a) s = s.completes m s) ∧
        (on → k.trctl.getLsbD 62 = false → size ≤ k.trptr.toNat → ∃ t : State, exec (.trace g a) s = s.completes m t ∧ t.mem = s.mem ∧
         (t.core s.myCore).trptr = k.trptr ∧ (t.core s.myCore).trctl.getLsbD 61 = true) ∧
        (on → (k.trctl.getLsbD 62 = true ∨ k.trptr.toNat < size) → s.mem.wf = true →
         let place := k.trbase.toNat + 32 * (k.trptr.toNat % size)
         place + 32 ≤ 2 ^ 41 → ∃ t : State, exec (.trace g a) s = s.completes m t ∧ (t.core s.myCore).trptr = k.trptr + 1 ∧
           t.dramBytes s.myModule place 32 = bytesOf 8 now ++ bytesOf 2 1 ++ bytesOf 1 (s.cur % 8) ++ [0] ++
             bytesOf 4 (s.myCore / 4096 * 2 ^ 12 + s.myCore / 256 % 16 * 2 ^ 8 + s.myCore % 256) ++ bytesOf 8 x.toNat ++
             bytesOf 8 s.src.pc.toNat))) ∧
     (let m := metaG 0x3E g [d] [a]
      let i : Fin 8 := Fin.ofNat 8 (x.toNat % 8)
      let open_ := s.src.sup = true ∨ x.getLsbD 3 = false ∧ (k.psel[i]).getLsbD 30 = true
      s.executes m →
       (¬open_ → exec (.perf g d a) s = s.traps m { cause := .priv }) ∧
       (open_ → x.getLsbD 3 = false → exec (.perf g d a) s = s.completes m (s.setG d k.pcnt[i])) ∧
       (open_ → x.getLsbD 3 = true → exec (.perf g d a) s = s.completes m
         ((s.setG d k.pcnt[i]).modCore s.myCore (fun k => { k with pcnt := k.pcnt.set i 0 })))))

/-! ## The module and its host (R379–R391) -/

/-- R382, R384–R386, R391: bring-up.  Power and clocks lead to `ROM`, an image that verifies to `TRAIN` and another to `RECOVERY`,
training to `READY`, with DRAM zeroed, or to `FAILED`; a module reset stops every core of the module and starts again at
`ROM`, and the loss of power leaves only what is in flash.  That a module reset keeps DRAM and that it reads 0 after a loss of power
(log 2), the values that registers start with (log 1), where firmware starts (log 4), and the hold in every module that the machine
has (log 27), are the model's choices. -/
def Obligations.BringUpStates : Prop :=
  ∀ (s : State) (m : Nat),
    let k := s.module m
    let stopped := fun (t : State) => (∀ c, c / 4096 = m → t.core c = {} ∧ ∀ i < 8, t.thread (8 * c + i) = {}) ∧
      ∀ c, c / 4096 ≠ m → t.core c = s.core c ∧ ∀ i < 8, t.thread (8 * c + i) = s.thread (8 * c + i)
    (k.powered = true → exec (.powerGood m) s = .next s) ∧
    (k.powered = false → ∃ t : State, exec (.powerGood m) s = .next t ∧ t.module m = { k with powered := true, clocks := false, state := .reset } ∧
      t.agenda = s.agenda ++ [.clocksStarted m]) ∧
    (k.powered = true → k.state = .reset → ∃ t : State, exec (.clocksStarted m) s = .next t ∧
      t.module m = { k with clocks := true, state := .rom } ∧ t.agenda = s.agenda ++ [.romImageVerify m]) ∧
    ((k.powered = false ∨ k.state ≠ .reset) → exec (.clocksStarted m) s = .next s) ∧
    (k.state ≠ .rom → exec (.romImageVerify m) s = .next s) ∧
    (k.state = .rom → imageOk m k.flash = true → exec (.romImageVerify m) s = .next (s.setModule m { k with state := .train, image := k.flash })) ∧
    (k.state = .rom → imageOk m k.flash = false → exec (.romImageVerify m) s = .next (s.setModule m { k with state := .recovery })) ∧
    (∀ ok, k.state ≠ .train → exec (.trainComplete m ok) s = .next s) ∧
    (k.state = .train → exec (.trainComplete m false) s = .next (s.setModule m { k with state := .failed })) ∧
    (k.state = .train → ∃ t : State, exec (.trainComplete m true) s = .next t ∧ (∀ pa < 2 ^ 42, t.dramByte m pa = 0) ∧
      t.module m = { k with state := .ready, fwver := BitVec.ofNat 32 (natOfBytes ((k.image.drop 4).take 4)), poisoned := [], flipped := [] } ∧
      ∀ d < 16, ∀ i < 8, t.thread (8 * (256 * (16 * m + d) + 129) + i) = match Config.firmwareStart (8 * (256 * (16 * m + d) + 129) + i) with
        | some pc => { ({} : Thread) with status := .running, pc, sup := true }
        | none => s.thread (8 * (256 * (16 * m + d) + 129) + i)) ∧
    (k.powered = false → exec (.mreset m) s = .next s) ∧
    (k.powered = true → ∃ t : State, exec (.mreset m) s = .next t ∧ stopped t ∧ (t.module m).state = .rom ∧ (t.module m).flash = k.flash ∧
      (t.module m).timeRun = false ∧ (m < 256 → ∀ pa < 2 ^ 42, t.dramByte m pa = s.dramByte m pa) ∧ Instr.romImageVerify m ∈ t.agenda) ∧
    (∃ t : State, exec (.powerLoss m) s = .next t ∧ stopped t ∧ t.module m = { ({} : Module) with flash := if k.flashing then [] else k.flash } ∧
      ∀ pa < 2 ^ 42, t.dramByte m pa = 0) ∧
    (∃ t : State, exec (.haltreq m) s = .next t ∧ t.mem = s.mem ∧ ∀ e ∈ s.modules, (t.partition e.1 (some k.hpart.toNat)).halted = true) ∧
    (∀ width rate,
      (Config.bridgeEnabled m = true → width ∈ [1, 2, 4, 8, 16] → 1 ≤ rate → rate ≤ 6 →
        exec (.pcieLinkTraining m width rate) s = .next (s.setModule m { k with pcieWidth := width, pcieRate := rate })) ∧
      (¬(Config.bridgeEnabled m = true ∧ width ∈ [1, 2, 4, 8, 16] ∧ 1 ≤ rate ∧ rate ≤ 6) →
        exec (.pcieLinkTraining m width rate) s = .next s))

/-- R385–R387: the mailbox.  Each operation runs only while it is the one in progress, with the argument that it started with, and
ends with its code: 2 done, 3 bad arguments, 4 an image that does not verify, 5 not in this state.  That operation and argument are
latched at the start and that flash is written in a second step (log 27), and the layouts that the manual leaves open (log 24), are
the model's choices. -/
def Obligations.Mailbox : Prop :=
  ∀ (s : State) (m : Nat),
    let k := s.module m
    let busy := fun (op : Nat) => k.mbcode = 1 ∧ k.mbrun = BitVec.ofNat 8 op
    let ends := fun (e : Instr) (code len : Nat) => exec e s =
      .next (s.setModule m { k with mbcode := BitVec.ofNat 8 code, mblen := BitVec.ofNat 16 len })
    let buffer := fun (e : Instr) (bs : List Byte) => ∃ t : State, exec e s = .next t ∧ (t.module m).mbcode = 2 ∧
      (t.module m).mblen = BitVec.ofNat 16 bs.length ∧ (k.mbbuf.wf = true → (t.module m).mbbuf.readBytes 0 bs.length = bs) ∧ t.mem = s.mem
    let up := k.state = .ready ∨ k.state = .recovery
    let n := min 8192 (k.mbval.toNat / 2 ^ 48 + 1)
    let off := k.mbval.toNat % 2 ^ 32
    let image := if 48 * 2 ^ 20 < off then [] else k.staging.readBytes 0 off
    (∀ op e, (op, e) ∈ [(1, Instr.ident m), (2, .attest m), (3, .fwload m), (4, .fwcommit m)] → ¬busy op → exec e s = .next s) ∧
    (busy 1 → k.state = .reset → ends (.ident m) 5 0) ∧
    (busy 1 → k.state ≠ .reset → buffer (.ident m) (identityPublic m ++ (Config.certificate m).take 1024)) ∧
    (busy 2 → k.state ≠ .ready → ends (.attest m) 5 0) ∧
    (busy 2 → k.state = .ready → ∃ bs, buffer (.attest m) bs ∧ bs.length = 224 ∧ bs.take 160 = bytesOf 4 1 ++ bytesOf 4 0 ++
      bytesOf 8 (Config.serial m).toNat ++ k.mbbuf.readBytes 0 32 ++ (Config.sha512 k.image).toList ++ identityPublic m ++
      bytesOf 8 (if k.timeRun then k.time % 2 ^ 64 else 0) ++ bytesOf 8 (midWord m) ∧
      bs.drop 160 = (Config.ed25519Sign (identitySeed m) (bs.take 160)).toList) ∧
    (busy 3 → ¬up → ends (.fwload m) 5 0) ∧
    (busy 3 → up → 48 * 2 ^ 20 < off + n → ends (.fwload m) 3 0) ∧
    (busy 3 → up → off + n ≤ 48 * 2 ^ 20 → ∃ t : State, exec (.fwload m) s = .next t ∧ (t.module m).mbcode = 2 ∧ (t.module m).flash = k.flash ∧
      (k.staging.wf = true → (t.module m).staging.readBytes off n = k.mbbuf.readBytes 0 n)) ∧
    (busy 4 → ¬up → ends (.fwcommit m) 5 0) ∧
    (busy 4 → up → k.flashing = false → imageOk m image = false → ends (.fwcommit m) 4 0) ∧
    (busy 4 → up → k.flashing = false → imageOk m image = true → ∃ t : State, exec (.fwcommit m) s = .next t ∧
      t.module m = { k with flashing := true } ∧ t.agenda = s.agenda ++ [.fwcommit m]) ∧
    (busy 4 → up → k.flashing = true → ∃ t : State, exec (.fwcommit m) s = .next t ∧ (t.module m).flash = image ∧ (t.module m).flashing = false ∧
      (t.module m).mbcode = 2 ∧ (t.module m).state = if k.state = .recovery then .rom else .ready) ∧
    (k.mbcode = 1 → (k.mbrun = 0 ∨ 4 < k.mbrun.toNat) → ends (.mailboxBadOperation m) 3 0) ∧
    (¬(k.mbcode = 1 ∧ (k.mbrun = 0 ∨ 4 < k.mbrun.toNat)) → exec (.mailboxBadOperation m) s = .next s)

/-- R26, R379–R384: the host's accesses, which only the enabled bridge of a group answers.  BAR0 reaches the registers of a member of the bridge's group, directly or in a control packet;
BAR2 reaches its DRAM once it is `READY`.  An access that is not allowed is dropped, or reads all ones, and sets BADACC of the
bridge.  That it does so for a member in `RESET`, for BAR2 before `READY` and where no way over the fabric is left, and that the
mailbox latches its operation (log 27; log 24), are the model's choices.

R286, R381–R384, R388: the host's other writes of management space, and accesses of 4 bytes, which reach one half of a register.
MRESET and HALTREQ act as their events do, HALTREQ first; `ECCCNT` takes its two counts; bytes go into the mailbox buffer; `TIMESET`
starts the time; the queue windows take what an `MTS` would.  Before `READY` the registers after the first ones do not answer. -/
def Obligations.HostAccesses : Prop :=
  (∀ (s : State) (m off size val : Nat),
     let k := s.module m
     let first := (Config.groupFirst m).toNat
     let count := (Config.groupCount m).toNat + 1
     let bad := fun (e : Instr) (write : Bool) (n : Nat) => ∃ t : State, exec e s = .next t ∧ t.module m = { k with badacc := true } ∧ t.mem = s.mem ∧
       t.toHost = if write then s.toHost else s.toHost ++ [List.replicate n 0xFF]
     (∀ write bytes, (k.powered = false ∨ Config.bridgeEnabled m = false) →
       exec (.mgmtRegisterWrite m off size write val) s = .next s ∧ exec (.hostBar2Access m off write bytes) s = .next s) ∧
     (k.powered = true → Config.bridgeEnabled m = true → ∀ write,
       (count ≤ off / 2 ^ 20 → bad (.mgmtRegisterWrite m off size write val) write size) ∧
       (off / 2 ^ 20 < count → first + off / 2 ^ 20 ≠ m → exec (.mgmtRegisterWrite m off size write val) s =
         .next (s.emit (.mgmtControlPacket (first + off / 2 ^ 20) m (off % 2 ^ 20) size write val))) ∧
       (off / 2 ^ 20 < count → first + off / 2 ^ 20 = m →
         (k.state ≠ .reset → s.routeDown (16 * m) (16 * m) = false → exec (.mgmtRegisterWrite m off size write val) s =
           exec (.mgmtControlPacket m m (off % 2 ^ 20) size write val) s) ∧
         ((¬(size = 4 ∨ size = 8) ∨ off % size ≠ 0) → bad (.mgmtRegisterWrite m off size write val) write size))) ∧
     (∀ bridge write, (k.state = .reset ∨ s.routeDown (16 * bridge) (16 * m) = true) → ∃ t : State, exec (.mgmtControlPacket m bridge off size write val) s = .next t ∧
       (t.module bridge).badacc = true ∧ t.mem = s.mem) ∧
     (∀ bridge, k.state = .ready → s.routeDown (16 * bridge) (16 * m) = false →
       let at_ := fun (o : Nat) (write : Bool) (v : Nat) => exec (.mgmtControlPacket m bridge o 8 write v) s
       let reads := fun (o v : Nat) => at_ o false 0 = .next { s with toHost := s.toHost ++ [bytesOf 8 v] }
       reads 0x00 (midWord m) ∧
       reads 0x08 (k.fwver.toNat * 2 ^ 32 + k.throt.toNat * 2 ^ 10 + k.badacc.toNat * 2 ^ 9 + 3) ∧
       reads 0x10 k.hpart.toNat ∧ reads 0x18 ((Config.groupCount m).toNat * 2 ^ 8 + first) ∧ reads 0x40 k.pwrlim.toNat ∧
       reads 0x48 (k.peakw.toNat * 2 ^ 32 + k.avgw.toNat) ∧ reads 0x50 (k.tmax.toNat * 2 ^ 16 + k.tthr.toNat * 2 ^ 8 + k.ttrip.toNat) ∧
       reads 0x100 (k.lock.toNat * 2 ^ 63 + k.timeRun.toNat * 2 ^ 62 + k.offs.toNat) ∧ reads 0x108 k.start.toNat ∧
       reads 0x1000 k.mbop.toNat ∧ reads 0x1008 k.mbarg.toNat ∧ reads 0x1010 (k.mblen.toNat * 2 ^ 16 + k.mbcode.toNat) ∧
       (∀ i < 1024, reads (0x2000 + 8 * i) (natOfBytes (k.mbbuf.readBytes (8 * i) 8))) ∧
       (∀ d < 16, reads (0x80 + 8 * d) ((s.die (16 * m + d)).dramc.toNat * 2 ^ 32 + (s.die (16 * m + d)).poolc.toNat) ∧
         ∀ q < 256, let h := s.hostQueue (16 * m + d) q
           reads (0x10000 + 0x2000 * d + 32 * q) h.ctl.toNat ∧ reads (0x10000 + 0x2000 * d + 32 * q + 8) h.base.toNat ∧
           reads (0x10000 + 0x2000 * d + 32 * q + 16) h.tail.toNat ∧ reads (0x10000 + 0x2000 * d + 32 * q + 24) h.head.toNat) ∧
       (∀ v < 2 ^ 64,
         at_ 0x08 true v = .next (if v.testBit 9 then s.setModule m { k with badacc := false } else s) ∧
         (v.testBit 15 = false → v.testBit 31 = false → at_ 0x10 true v = .next (s.setModule m { k with hpart := BitVec.ofNat 8 v })) ∧
         at_ 0x40 true v = .next (s.setModule m { k with pwrlim := BitVec.ofNat 16 v }) ∧
         at_ 0x50 true v = .next (s.setModule m { k with tthr := BitVec.ofNat 8 (v / 2 ^ 8) }) ∧
         at_ 0x1008 true v = .next (s.setModule m { k with mbarg := Word.of v }) ∧
         (k.mbcode ≠ 1 → v.testBit 63 = true → ∃ t e, at_ 0x1000 true v = .next t ∧ t.agenda = s.agenda ++ [e] ∧
           t.module m = { k with mbop := BitVec.ofNat 8 v, mbrun := BitVec.ofNat 8 v, mbval := k.mbarg, mbcode := 1, mblen := 0 } ∧
           e = (match v % 256 with
             | 1 => .ident m | 2 => .attest m | 3 => .fwload m | 4 => .fwcommit m | _ => .mailboxBadOperation m)) ∧
         (k.mbcode = 1 → v.testBit 63 = true → at_ 0x1000 true v = .next s) ∧
         (v.testBit 63 = false → at_ 0x1000 true v = .next (s.setModule m { k with mbop := BitVec.ofNat 8 v })) ∧
         (∀ o ∈ [0x00, 0x18, 0x48, 0x100, 0x1010], at_ o true v = .next s))) ∧
     (∀ bytes : List (BitVec 8), k.powered = true → Config.bridgeEnabled m = true →
       let i := off / 2 ^ 41
       let pa := off % 2 ^ 41
       let target := first + i
       let way := fun (write : Bool) => ∀ x ∈ [pa, pa + (bytes.length - 1)],
         let d := 16 * target + dieOfPa x
         s.blockedWay (16 * m) d = none ∧ (write = false → s.blockedWay d (16 * m) = none)
       let okay := fun (write : Bool) => i < count ∧ (s.module target).state = .ready ∧ pa + bytes.length ≤ 2 ^ 41 ∧ way write
       (∀ write, ¬okay write → bad (.hostBar2Access m off write bytes) write bytes.length) ∧
       ((s.module target).poisoned = [] →
         (okay false → ∃ t : State, exec (.hostBar2Access m off false bytes) s = .next t ∧ t.mem = s.mem ∧
           t.toHost = s.toHost ++ [s.dramBytes target pa bytes.length]) ∧
         (okay true → s.mem.wf = true → ∃ t : State, exec (.hostBar2Access m off true bytes) s = .next t ∧ t.toHost = s.toHost ∧
           t.dramBytes target pa bytes.length = bytes)))) ∧
  (∀ (s : State) (m bridge : Nat), (s.module m).state ≠ .reset → s.routeDown (16 * bridge) (16 * m) = false →
     let k := s.module m
     let writes := fun (o size v : Nat) => exec (.mgmtControlPacket m bridge o size true v) s
     let reads := fun (o size : Nat) (bs : List Byte) =>
       exec (.mgmtControlPacket m bridge o size false 0) s = .next { s with toHost := s.toHost ++ [bs] }
     (k.state ≠ .ready → ∀ o size write v, o / 8 * 8 ∈ [0x40, 0x48, 0x50, 0x100, 0x108] ∨ 0x80 ≤ o ∧ o < 0x100 ∨ 0x10000 ≤ o →
       ∃ t : State, exec (.mgmtControlPacket m bridge o size write v) s = .next t ∧ (t.module bridge).badacc = true ∧ t.mem = s.mem) ∧
     (∀ o v half, o % 8 = 0 → half < 2 → reads o 8 (bytesOf 8 v) → reads (o + 4 * half) 4 (bytesOf 4 (v / 2 ^ (32 * half)))) ∧
     (∀ v < 2 ^ 64,
       let s1 := s.setModule m { k with hpart := BitVec.ofNat 8 v }
       (v.testBit 15 = true → v.testBit 31 = false → writes 0x10 8 v = exec (.haltreq m) s1) ∧
       (v.testBit 15 = false → v.testBit 31 = true → writes 0x10 8 v = exec (.mreset m) s1) ∧
       (v.testBit 15 = true → v.testBit 31 = true →
         ∃ t : State, exec (.haltreq m) s1 = .next t ∧ writes 0x10 8 v = exec (.mreset m) t) ∧
       writes 0x1008 4 v = .next (s.setModule m { k with mbarg := Word.of (k.mbarg.toNat / 2 ^ 32 * 2 ^ 32 + v % 2 ^ 32) }) ∧
       writes 0x100C 4 v = .next (s.setModule m { k with mbarg := Word.of (v % 2 ^ 32 * 2 ^ 32 + k.mbarg.toNat % 2 ^ 32) }) ∧
       (∀ i size, size = 4 ∨ size = 8 → i % size = 0 → i + size ≤ 2 ^ 13 → k.mbbuf.wf = true →
         ∃ b, writes (0x2000 + i) size v = .next (s.setModule m { k with mbbuf := b }) ∧ b.readBytes i size = bytesOf size v ∧
           ∀ j, j < i ∨ i + size ≤ j → b.read j = k.mbbuf.read j)) ∧
     (k.state = .ready → ∀ v < 2 ^ 64,
       writes 0x108 8 v = exec (.timesetWrite m v) s ∧
       writes 0x108 4 v = exec (.timesetWrite m (k.start.toNat / 2 ^ 32 * 2 ^ 32 + v % 2 ^ 32)) s ∧
       writes 0x10C 4 v = exec (.timesetWrite m (v % 2 ^ 32 * 2 ^ 32 + k.start.toNat % 2 ^ 32)) s ∧
       ∀ d < 16,
         let die := s.die (16 * m + d)
         let counts := fun (hi lo : BitVec 32) => Host.Outcome.next (s.setDie (16 * m + d) { die with dramc := hi, poolc := lo })
         writes (0x80 + 8 * d) 8 v = counts (BitVec.ofNat 32 (v / 2 ^ 32)) (BitVec.ofNat 32 v) ∧
         writes (0x80 + 8 * d) 4 v = counts die.dramc (BitVec.ofNat 32 v) ∧
         writes (0x84 + 8 * d) 4 v = counts (BitVec.ofNat 32 v) die.poolc ∧
         ∀ q < 256,
           let at_ := 0x10000 + 0x2000 * d + 32 * q
           let h := s.hostQueue (16 * m + d) q
           let base := fun (w : Word) => Host.Outcome.next (s.setHostQueue (16 * m + d) q { h with base := w &&& Word.of (2 ^ 57 - 2 ^ 12) })
           let ctl := fun (o : Host.Outcome State Fault Refusal) (w : Nat → Bool) => ∃ t c, o = .next t ∧
             t.hostQueue (16 * m + d) q = { h with ctl := c } ∧ ∀ b < 64, c.getLsbD b =
               if b = 62 then h.ctl.getLsbD 62 && !w 62
               else decide (b = 63 ∨ b = 61 ∨ 48 ≤ b ∧ b < 56 ∨ 32 ≤ b ∧ b < 35 ∨ b < 4) && w b
           ctl (writes at_ 8 v) v.testBit ∧
           ctl (writes at_ 4 v) (fun b => if b < 32 then v.testBit b else decide (b ≠ 62) && h.ctl.getLsbD b) ∧
           ctl (writes (at_ + 4) 4 v) (fun b => if b < 32 then h.ctl.getLsbD b else v.testBit (b - 32)) ∧
           writes (at_ + 8) 8 v = base (Word.of v) ∧
           writes (at_ + 8) 4 v = base (Word.of (h.base.toNat / 2 ^ 32 * 2 ^ 32 + v % 2 ^ 32)) ∧
           writes (at_ + 12) 4 v = base (Word.of (v % 2 ^ 32 * 2 ^ 32 + h.base.toNat % 2 ^ 32)) ∧
           writes (at_ + 16) 8 v = exec (.hqtailWrite (16 * m + d) q (v % 2 ^ 32)) s ∧
           writes (at_ + 16) 4 v = exec (.hqtailWrite (16 * m + d) q (v % 2 ^ 32)) s ∧
           writes (at_ + 20) 4 v = .next s ∧ writes (at_ + 24) 8 v = .next s))

/-- R388–R391: time, droop, power and heat.  A drooping die counts a lengthened cycle whenever one has run its length, and falls
behind its module's nominal clock in between; what the event of an episode's end says of its length is not used (log 6).  That a frame
beyond 50 ns clears LOCK at once, and whom a thermal trip halts (log 27), are the model's choices. -/
def Obligations.TimePowerHeat : Prop :=
  ∀ (s : State) (m n : Nat),
    let k := s.module m
    let now := if k.timeRun then k.time % 2 ^ 64 else 0
    let saved := fun (e : Instr) (k' : Module) => exec e s = .next (s.setModule m k')
    ((k.state ≠ .ready ∨ k.timeRun = true) → exec (.timesetWrite m n) s = .next s) ∧
    (k.state = .ready → k.timeRun = false → saved (.timesetWrite m n) { k with start := Word.of n, time := n % 2 ^ 64, timeRun := true }) ∧
    (k.state ≠ .ready → exec (.ptpFrame m n) s = .next s) ∧
    (k.state = .ready →
      let diff := Int.ofNat now - Int.ofNat n
      ∃ k' : Module, saved (.ptpFrame m n) k' ∧ k'.offs.toInt = max (-2 ^ 31) (min (2 ^ 31 - 1) diff) ∧ k'.timeRun = true ∧
        (k.timeRun = false → k'.time = n % 2 ^ 64 ∧ k'.lock = true) ∧
        (k.timeRun = true → k'.time = k.time ∧ k'.slew = -diff ∧ (k'.lock = true ↔ -50 ≤ diff ∧ diff ≤ 50) ∧
          k'.lockHeld = (k.lockHeld || k'.lock) ∧ k'.lastLock = if -50 ≤ diff ∧ diff ≤ 50 then k.cycles else k.lastLock)) ∧
    (∀ dt, (k.timeRun = false → k.advance dt = k) ∧ (k.timeRun = true →
      k.time + dt ≤ (k.advance dt).time + (k.slewAcc + dt) / 10000 ∧ (k.advance dt).time ≤ k.time + dt + (k.slewAcc + dt) / 10000)) ∧
    (k.lockHeld = true → k.lastLock + 2 ^ 31 < k.cycles → saved (.lockLoss m) { k with lock := false, lockHeld := false, msix := k.msix + 1 }) ∧
    ((k.lockHeld = false ∨ k.cycles ≤ k.lastLock + 2 ^ 31) → exec (.lockLoss m) s = .next s) ∧
    ((s.die m).droop = true → exec (.droopDetect m) s = .next s) ∧
    ((s.die m).droop = false → exec (.droopDetect m) s =
      .next (s.setDie m { s.die m with droop := true, stretched := 0, episode := 0, slip := 0 })) ∧
    (∀ (d : Die) (dt st : Nat), (d.droop = false → d.pass dt st = d) ∧ (d.droop = true →
      let u := d.pass dt st
      u.late + u.stretched = d.late + d.stretched + 1 ∧ d.stretched ≤ u.stretched ∧ u.episode = d.episode + dt ∧
        u.slip + (dt + st) * (u.stretched - d.stretched) = d.slip + dt)) ∧
    (∀ ns n2 ns2, exec (.droopRecover m n ns) s = exec (.droopRecover m n2 ns2) s) ∧
    (∀ ns, ((s.die m).droop = false → exec (.droopRecover m n ns) s = .next s) ∧
      ((s.die m).droop = true → ∃ t : State, exec (.droopRecover m n ns) s = .next t ∧ (t.die m).droop = false ∧ t.threads = s.threads)) ∧
    (let hot := fun (k : Module) => max 1500 (min 4800 k.pwrlim.toNat) < k.avgw.toNat ∨ max 60 (min 100 k.tthr.toNat) ≤ k.tmax.toNat
     let k1 := { k with avgw := BitVec.ofNat 16 n, peakw := BitVec.ofNat 16 (max k.peakw.toNat (n % 2 ^ 16)) }
     let k2 := { k with tmax := BitVec.ofNat 8 n }
     (∃ b, saved (.powerWindow m n) { k1 with throt := b } ∧ (b = true ↔ hot k1)) ∧
     ((k.tripped = true ∨ n % 2 ^ 8 < k.ttrip.toNat) → ∃ b, saved (.thermalThrottle m n) { k2 with throt := b } ∧ (b = true ↔ hot k2)) ∧
     (k.tripped = false → k.ttrip.toNat ≤ n % 2 ^ 8 → ∃ t : State, exec (.thermalThrottle m n) s = .next t ∧
       t.agenda = s.agenda ++ [.thermalTrip m n] ∧ ∃ b, t.module m = { k2 with throt := b } ∧ (b = true ↔ hot k2)) ∧
     (k.tripped = false → n % 2 ^ 8 < k.ttrip.toNat → ∃ b, saved (.thermalTrip m n) { k2 with throt := b } ∧ (b = true ↔ hot k2)) ∧
     (k.tripped = false → k.ttrip.toNat ≤ n % 2 ^ 8 → ∃ t : State, exec (.thermalTrip m n) s = .next t ∧ (t.module m).tripped = true ∧
       (t.module m).msix = k.msix + 1 ∧ t.mem = s.mem ∧ Instr.thermalTrip m n ∈ t.agenda ∧
       ∀ c tm p, c / 4096 = m → c % 256 < 129 → (s.core c).team = some tm → tm.part = some p → (s.core c).halt = none →
         (c, s.core c) ∈ s.cores → (t.core c).halt.map (fun h => h.cause) = some 3) ∧
     (k.tripped = true → (∃ e ∈ s.cores, e.1 / 4096 = m ∧ ∃ h, e.2.halt = some h ∧ h.written = false) →
       exec (.thermalTrip m n) s = .next (s.emit (.thermalTrip m n))) ∧
     (k.tripped = true → (∀ e ∈ s.cores, e.1 / 4096 = m → ∀ h, e.2.halt = some h → h.written = true) →
       ∃ t : State, exec (.thermalTrip m n) s = .next t ∧ ∀ c, c / 4096 = m → t.core c = {}))

/-! ## Waits, steps and frames -/

/-- R58, R151, R163, R165, R168, R195, R223, R252, R260, R274, R296, R300, R314, R342: a wait ends once what it waits for holds, and
not before; the thread then goes on, its instruction's effect done.  On the DCC the bundle issues again, its wait over.
That a step of a `DONE` whose way to the home die is blocked traps, with nothing released, is the model's choice (log 28). -/
def Obligations.WaitsEnd : Prop :=
  ∀ (s : State) (tid : Nat),
    let c := coreOfThread tid
    let u := s.as tid
    let core := s.core c
    let ends := fun (i : Instr) (w : Wait) (ready : Bool) (res : Res) =>
      (s.waits tid w → exec i s = if ready then s.ends tid res else .next s) ∧
      ((s.thread tid).status = .waiting → (s.thread tid).wait = some w → kindOfCore c = .dcc →
        exec i s = .next (if ready then s.setThread tid { s.thread tid with
          status := .running, wait := if w.kept then some w else none, granted := (s.thread tid).granted || !w.repeats } else s))
    (∀ n t, ends (.cwaitSatisfied tid) (.counter n t) (decide ((core.cc[n] - BitVec.ofNat 32 t).toNat < 2 ^ 31)) (.retire u)) ∧
    (∀ n t, ends (.wpwaitSatisfied tid) (.writePointer n t) (decide (t ≤ core.wp[n].toNat)) (.retire u)) ∧
    (∀ sc slot, ends (.publishToggle tid) (.publish sc slot) (s.publishReady tid sc slot)
      (.retire (u.publishEnd sc (Fin.ofNat 4 slot)))) ∧
    (∀ n, ends (.rowwaitSatisfied tid) (.rows n) (decide (s.openLookups tid ≤ n)) (.retire (u.acquireCore c 0))) ∧
    (∀ n, ends (.mwaitSatisfied tid) (.entries n) (decide (s.matrixOut tid ≤ n)) (.retire (u.acquireCore c 0))) ∧
    (∀ sc, ends (.fenceComplete tid) (.fence sc) (s.fenceReady tid sc) (.retire (u.fenceEnd sc))) ∧
    (∀ n, ends (.tlbinvComplete tid) (.tlbinv n) (!s.oldRequests (moduleOfCore c)) (.retire u)) ∧
    (∀ ga, ends (.bwaitReturn tid) (.barrier ga false true) (s.phaseReady tid ga (bit ga 48)) (.retire (u.awaitEnd ga))) ∧
    (∀ d la, ends (.recvTake tid) (.recv d la) (s.recvReady tid) (u.recvTake d la)) ∧
    (∀ list, ends (.exitDrainDone tid) (.exit list none) (s.exitReady tid) (u.exitRead list)) ∧
    (∀ list es, ends (.exitDrainDone tid) (.exit list (some es)) (s.fenceReady tid 4) ((u.fenceEnd 4).exitEnd es)) ∧
    ends (.detachStep tid) .detach (s.detachReady tid) (.retire u.detachEnd) ∧
    (∀ t keep, ends (.doneApply tid) (.done t keep) (s.fenceReady tid 3 && s.gainsBefore tid none none)
      (match (u.heapOf tid).bind (fun x => u.blockedWay (dieOfCore c) (x.2.module * 16 + x.2.home t)) with
        | some sub => .trap { cause := .remoteFault, sub } u
        | none => .retire (u.doneEnd t keep))) ∧
    (∀ dl m, ends (.sleepWake tid) (.sleep dl m)
      (decide (dl.toNat ≤ s.timens (moduleOfCore c)) || m && (s.hasMessage c)) (.retire u))

/-- R28, R38, R41, R57, R58: a step of a thread that runs, with no cause to take, is `exec` of the instruction that its words
decode to, after a cycle has passed (logs 3 and 6), which leaves threads, memory and the choices to come as they are; words that
decode to nothing trap `ILLEGAL`; on the DCC the four words are a
bundle; words that cannot be fetched yet are asked for.  A step of an event is `exec` of the event, which has left the agenda. -/
def Obligations.StepRunsDecoded : Prop :=
  ∀ (s : State) (rest : List Choice),
    (step s = s.pass.act ∧ s.pass.threads = s.threads ∧ s.pass.mem = s.mem ∧ s.pass.sched = s.sched ∧ s.pass.tick = s.tick + 1 ∧
      (∀ k : Nat, k < s.agenda.length → s.pass.agenda[k]? = s.agenda[k]?)) ∧
    (∀ tid, s.sched = .issue tid :: rest →
      let u : State := { s.pass with sched := rest, cur := tid, bundle := none }
      u.th.status = .running → u.dueCause tid = none →
        (∀ w x ws, u.fetch tid = .words ws → u.kind ≠ .dcc → (ws = [w] ∧ x = 0 ∨ ws = [w, x]) →
          (∀ i, decode w x = .ok i → step s = exec i u) ∧
          (∀ e, decode w x = .error e → step s = exec .reservedEncoding u)) ∧
        (∀ ws, u.fetch tid = .words ws → u.kind = .dcc → step s = u.runBundle (slotsOf ws)) ∧
        (∀ f, u.fetch tid = .wait f → step s = .next (u.fetchMiss tid f))) ∧
    (∀ k e, s.sched = .event k :: rest → s.agenda[k]? = some e →
      step s = exec e { s.pass with sched := rest, agenda := s.pass.agenda.eraseIdx k }) ∧
    (∀ tid c others, s.sched = .issue tid :: rest → (s.thread tid).status = .running → s.dueCause tid = some (c, others) →
      step s = .next (({ s.pass with sched := rest, cur := tid, bundle := none }.setThread tid
        { s.thread tid with pending := others }).raise tid c 1))

/-- R27, R28, R38, R40, R54, R55, R333: what a thread is to issue: the pc is canonical, then aligned; a word is read through the
translation as a fetch and the quad's instruction cache, where a line with a parity error counts as absent; a word of frame 01 that has a double form takes the word after it, and
a bundle is four words.  That a word of frame 01 with no double form takes none (log 26), what a fetch from a tolerant page brings
(log 7), and what is recorded of an address beyond DRAM (log 20) are the model's choices. -/
def Obligations.Fetching : Prop :=
  ∀ (s : State) (tid : Nat),
    let c := coreOfThread tid
    let dcc := kindOfCore c = .dcc
    let pc := (s.thread tid).pc
    let bytes := if dcc then 16 else 4
    let x := fun (va : Nat) => ({ req := reqFetch tid, core := c, part := s.partOfThread tid, va, sup := (s.thread tid).sup, own := true } : Miss)
    let look := fun (va : Nat) => s.translate (x va) (s.thread tid).sup .fetch
    let cached := fun (pa : Nat) => (s.quad (quadOfCore c)).icache.find? (fun l => l.line == pa / 64 && !l.parity)
    (2 ^ 57 ≤ pc.toNat → s.fetch tid = .wait (.trap { cause := .pageFault, sub := 1, addr := pc })) ∧
    (pc.toNat < 2 ^ 57 → pc.toNat % bytes ≠ 0 → s.fetch tid = .wait (.trap { cause := .misalign, addr := pc })) ∧
    (∀ va, va < 2 ^ 57 →
      (look va = .miss → s.fetchWord tid va = .walk (x va)) ∧
      (∀ cause sub, look va = .fault cause sub → s.fetchWord tid va = .trap { cause, sub, addr := Word.of va }) ∧
      (∀ p, look va = .ok p →
        let pa := p.pa
        (2 ^ 42 ≤ pa → s.fetchWord tid va = .error p.m pa { cause := .memsideError, sub := 1, addr := Word.of va }) ∧
        (pa < 2 ^ 42 → cached pa = none → s.fetchWord tid va = .fill (quadOfCore c)
          { line := pa / 64, ms := p.pte.getLsbD 4 || p.pte.getLsbD 11 || p.pte.getLsbD 10, w := p.pte.getLsbD 1, pin := p.pte.getLsbD 9 }) ∧
        (∀ l, pa < 2 ^ 42 → cached pa = some l → l.bad = true → s.fetchWord tid va = .trap { cause := .eccUncorr, addr := Word.of va }) ∧
        (∀ l, pa < 2 ^ 42 → cached pa = some l → l.bad = false → s.fetchWord tid va = .word
          (let x := l.data >>> (8 * (pa % 64))
          if p.pte.getLsbD 10 then (x.setWidth 16).toNat * 2 ^ 16 else (x.setWidth 32).toNat)))) ∧
    (∀ m pa t, s.fetchMiss tid (.error m pa t) =
      ((s.memsideRecord m pa pa t.sub 0 (coreOfThread tid)).dropWalks (reqFetch tid)).raise tid t 1) ∧
    (∀ t, s.fetchMiss tid (.trap t) = (s.dropWalks (reqFetch tid)).raise tid t 1) ∧
    (∀ x, s.fetchMiss tid (.walk x) = s.startWalk x) ∧ (∀ q a, s.fetchMiss tid (.fill q a) = s.askFetch q a) ∧
    (pc.toNat < 2 ^ 57 → pc.toNat % bytes = 0 →
      (¬dcc → ∀ w, s.fetchWord tid pc.toNat = .word w →
        (w / 2 ^ 30 % 4 ≠ 1 → s.fetch tid = .words [w]) ∧
        (w / 2 ^ 30 % 4 = 1 → decode2 w 0 = none → s.fetch tid = .words [w]) ∧
        (∀ w2, w / 2 ^ 30 % 4 = 1 → (decode2 w 0).isSome = true → s.fetchWord tid (pc.toNat + 4) = .word w2 →
          s.fetch tid = .words [w, w2])) ∧
      (dcc → ∀ a b c d, s.fetchWord tid pc.toNat = .word a → s.fetchWord tid (pc.toNat + 4) = .word b →
        s.fetchWord tid (pc.toNat + 8) = .word c → s.fetchWord tid (pc.toNat + 12) = .word d → s.fetch tid = .words [a, b, c, d]))

/-- R40–R42, R242: bundles.  Registers are read as they stood before any slot wrote, also where the bundle issues again after a
`RECVRED` whose register has counted messages meanwhile; a bundle of `NOP`s goes on 16 bytes further; and
where a slot traps, in any slot and after whatever the slots before it have computed, the thread traps with no effect of any
slot left: the state in which the trap is raised is the one that the bundle found.  That the second of two slots that write one
register is the one that traps is the model's choice (log 25). -/
def Obligations.Bundles : Prop :=
  ∀ (s : State),
    (∀ b r, s.bundle = some b → s.g r = if r = 0 then 0 else b.old.g[r]) ∧
    (∀ n i slots t b x, exec i { s with bundle := some { slot := n, old := s.th.beforeBundle } } = .next t →
      t.bundle = some b → b.trap = some x → s.runBundle ((n, i) :: slots) = .next (s.raise s.cur x 1)) ∧
    ((s.th.granted = false ∨ s.th.wait = none) → s.th.beforeBundle = s.th) ∧
    (∀ d la n sum k old, ∀ y, s.th.granted = true → s.th.wait = some (.recvred d la n sum k y old) →
      s.th.beforeBundle = { s.th with g := s.th.g.set d.val old d.isLt }) ∧
    (s.bundle = none → s.th.status = .running → s.th.granted = false → s.kind = .dcc → s.th.windows = [] → s.th.outstanding = [] →
      s.th.badRegs = [] → s.th.flipRegs = [] →
      let done := fun (slots : List (Nat × Instr)) (t : State) =>
        s.runBundle slots = .next (t.retireAt (s.th.pc + 16) (s.th.pc + 16) true [])
      let traps := fun (slots : List (Nat × Instr)) (x : TrapInfo) => s.runBundle slots = .next (s.raise s.cur x 1)
      (∀ g slots, (∀ e ∈ slots, e.2 = Instr.nop g) → done slots s) ∧
      (∀ g d a b d' a' b', s.guardHolds g = true → (d = 0 ∨ d ≠ d') →
        done [(0, .add g d a b), (1, .sub g d' a' b'), (2, .nop g), (3, .nop g)]
          ((s.setG d (s.g a + s.g b)).setG d' (s.g a' - s.g b'))) ∧
      (∀ x, traps [(0, .reservedEncoding), x] { cause := .illegal }) ∧
      (∀ g d a b h d' a' b' off (rest : List (Nat × Instr)),
        let first := (0, Instr.add g d a b)
        let ea := (s.g a' + 8 * off.signExtend 64).toNat % poolSize .dcc
        let fits := ea + 8 ≤ s.accEnd s.myCore
        (d ≠ 0 → traps (first :: (1, .sub h d a' b') :: rest) { cause := .illegal }) ∧
        (s.guardHolds h = true →
          traps (first :: (1, .brk h) :: rest) { cause := .break } ∧
          (∀ k, traps (first :: (1, .trap h k) :: rest) { cause := .software, sub := k.val, next := true }) ∧
          ((d' = 0 ∨ d' ≠ d) →
            (¬fits → traps (first :: (1, .ldd h d' a' off) :: rest) { cause := .localRange, addr := Word.of ea }) ∧
            (fits → ea % 8 ≠ 0 → traps (first :: (1, .ldd h d' a' off) :: rest) { cause := .misalign, addr := Word.of ea }))) ∧
        (fits → ea % 8 = 0 → (s.core s.myCore).poisoned = [] →
          (∀ h' vd va vb, s.th.long = true → (16 ≤ vd.val ∨ 16 ≤ va.val ∨ 16 ≤ vb.val) →
            traps (first :: (1, .std h d' a' off) :: (2, .vadd h' vd va vb) :: rest) { cause := .illegal }) ∧
          (∀ h', traps (first :: (1, .std h d' a' off) :: (2, .nop h') :: (3, .reservedEncoding) :: rest) { cause := .illegal }))))

/-- R33, R36, R38, R137: the issue of an instruction outside a bundle: the checks of R38 in their order, then the wait for
registers that earlier instructions have yet to write, at the cost of an issue cycle (R345), then the guard, then the
uncorrectable registers and the single-bit errors that it reads, of which an instruction whose guard fails reads its predicate
alone; then its effect.

R57, R73: what the completion of an instruction outside a bundle changes beside its effect, while no loop is active: the pc
goes on by the instruction's length, lookahead windows count down, and performance counters of the core may count. -/
def Obligations.IssueOrder : Prop :=
  (∀ (m : Meta) (s : State) (eff : State → Res), s.th.status = .running → s.bundle = none →
     let out := issue m s eff
     let t := s.th
     let reads := (if m.guard.p = 0 then [] else [RegName.p m.guard.p]) ++ m.reads
     let noClass := classOn m.major s.kind = false
     let badLong := t.long = true ∧ (∃ f ∈ m.vfields, 16 ≤ f.val) ∨ t.long = false ∧ m.major = 0x21
     let breach := ∃ w ∈ t.windows, (∃ r ∈ reads, r ∈ w.writes) ∨ (∃ r ∈ m.writes, r ∈ w.reads ∨ r ∈ w.writes)
     let hazard := ∃ o ∈ t.outstanding, o.ended = false ∧ ∃ r ∈ o.writes, r ∈ reads ∨ r ∈ m.writes
     let traps := fun (c : Cause) => out = s.traps m { cause := c }
     let priv := m.priv = true ∧ t.sup = false
     let holds := (if m.guard.p = 0 then true else t.p[m.guard.p]) ≠ m.guard.neg
     ((noClass ∨ badLong) → traps .illegal) ∧
     (¬noClass → ¬badLong →
       (∀ c, m.sys = some c → traps c) ∧
       (m.sys = none → priv → traps .priv) ∧
       (m.sys = none → ¬priv →
         (breach → traps .lookaheadBreach) ∧
         (¬breach → hazard → out = .next (s.count s.myCore 15 (some (s.cur % 8)) 1)) ∧
         (¬breach → ¬hazard →
           let m' : Meta := if holds then m else { m with reads := [], look := none }
           let flips := t.flipRegs.filter (fun w => m'.allReads.any (fun r => s.fileWord r == some w))
           (∀ r, badRead m' s = some r → r ∈ m'.allReads ∧ (∃ w, s.fileWord r = some w ∧ w ∈ t.badRegs) ∧
             out = s.traps m' { cause := .eccUncorr, addr := Config.registerFileWord (s.cur % 8) r.number }) ∧
           (badRead m' s = none ↔ ∀ r ∈ m'.allReads, ∀ w, s.fileWord r = some w → w ∉ t.badRegs) ∧
           (badRead m' s = none → ∃ u : State, u = s.correctRegs s.cur flips ∧ (flips = [] → u = s) ∧
             (flips ≠ [] → u.th = { s.th with flipRegs := t.flipRegs.filter (fun r => !flips.contains r) }) ∧
             (holds → out = .next (s.settle m.words m.window ((eff u).counted m s))) ∧
             (¬holds → out = .next (s.settle m.words [] (.retire u))))))) ∧
     (∀ f, s.fileWord (.v f) = if t.long then none else some (.v (physicalV t.rrb f))) ∧
     (∀ r, s.fileWord (.m r) = none) ∧ (∀ r, s.fileWord (.g r) = some (.g r)) ∧ (∀ r, s.fileWord (.p r) = some (.p r)) ∧
     (∀ r, s.fileWord (.loop r) = some (.loop r))) ∧
  (∀ (s s' : State) (m : Meta), s.bundle = none → s'.cur = s.cur → s'.th.status = .running →
     (∀ n : Fin 2, s'.th.lcbeg[n].getLsbD 0 = false) →
       ∃ t : State, s.completes m s' = .next t ∧
         t.th = { s'.th with
           pc := s.th.pc + Word.of (if s.kind = .dcc then 16 else 4 * m.words), wait := none, granted := false
           windows := ((s'.th.windows.map (fun w => { w with left := w.left - 1 })).filter (fun w => decide (0 < w.left))) ++ m.window } ∧
         (∀ k, k ≠ s.cur → t.thread k = s'.thread k) ∧ (∀ c, c ≠ s.myCore → t.core c = s'.core c) ∧
         (∃ x, t.core s.myCore = { s'.core s.myCore with pcnt := x }) ∧
         t = { s' with cores := t.cores, threads := t.threads })

/-- R13, R61–R65: an instruction over general registers that completes changes no register but gD, and no predicate, flag,
special register, memory byte, or other thread; and no register of another core, of a quad, die or module, and of its own core none
but the performance counters.  With a loop active R73 applies to its predicates and counters.

R131, R249: the frames of scalar loads and stores that complete, for a thread with no store on its way and a core with no
publish slot enabled.  A load changes no register but gD, and no byte; a store changes no register, and every byte but its own
reads as before; where no word of the pool holds a single-bit error, neither changes anything else but performance counters. -/
def Obligations.Frames : Prop :=
  (∀ (s : State) (g : Guard) (d a b : GReg) (i10 : BitVec 10) (i32 : BitVec 32) (n : Fin 64) (pos : Fin 64) (wid : Fin 128),
     s.bundle = none → (∀ n : Fin 2, s.th.lcbeg[n].getLsbD 0 = false) →
     let keeps := fun (m : Meta) (i : Instr) => s.executes m → ∃ (t : State) (x pc : Word) (ws : List LookWindow), exec i s = .next t ∧
       t.th = { s.th.setG d x with pc := pc, windows := ws, wait := none, granted := false } ∧ t.mem = s.mem ∧
       (∀ k, k ≠ s.cur → t.thread k = s.thread k) ∧ (∀ c, c ≠ s.myCore → t.core c = s.core c) ∧
       (∃ n, t.core s.myCore = { s.core s.myCore with pcnt := n }) ∧ t = { s with cores := t.cores, threads := t.threads }
     (∀ i ∈ [Instr.add g d a b, .sub g d a b, .and g d a b, .or g d a b, .xor g d a b, .andn g d a b, .shl g d a b, .shr g d a b,
       .sar g d a b, .rol g d a b, .mul g d a b, .mulh g d a b, .mulhz g d a b, .min g d a b, .max g d a b, .minz g d a b,
       .maxz g d a b, .bext g d a b], keeps (metaG 0x01 g [d] [a, b]) i) ∧
     (s.g b ≠ 0 → ∀ i ∈ [Instr.div g d a b, .divz g d a b, .rem g d a b, .remz g d a b], keeps (metaG 0x01 g [d] [a, b]) i) ∧
     (∀ i ∈ [Instr.clz g d a, .ctz g d a, .popc g d a, .sextB g d a, .sextH g d a, .sextW g d a, .zextB g d a, .zextH g d a,
       .zextW g d a], keeps (metaG 0x01 g [d] [a]) i) ∧
     keeps (metaG 0x01 g [d] [d, a, b]) (.bins g d a b) ∧ keeps (metaG 0x01 g [d] [a] 2) (.bextDw g d a pos wid) ∧
     keeps (metaG 0x01 g [d] [d, a] 2) (.binsDw g d a pos wid) ∧
     keeps (metaG 0x02 g [d] [a]) (.addi g d a i10) ∧ keeps (metaG 0x03 g [d] [a]) (.andi g d a i10) ∧
     keeps (metaG 0x04 g [d] [a]) (.ori g d a i10) ∧ keeps (metaG 0x05 g [d] [a]) (.xori g d a i10) ∧
     keeps (metaG 0x02 g [d] [a] 2) (.addiDw g d a i32) ∧ keeps (metaG 0x03 g [d] [a] 2) (.andiDw g d a i32) ∧
     keeps (metaG 0x04 g [d] [a] 2) (.oriDw g d a i32) ∧ keeps (metaG 0x05 g [d] [a] 2) (.xoriDw g d a i32) ∧
     (∀ i ∈ [Instr.shli g d a n, .shri g d a n, .sari g d a n], keeps (metaG 0x06 g [d] [a]) i) ∧
     (∀ i ∈ [Instr.limm g d i10, .addpc g d i10], keeps (metaG 0x07 g [d] []) i) ∧
     (∀ i ∈ [Instr.limmDw g d i32, .addpcDw g d i32], keeps (metaG 0x07 g [d] [] 2) i) ∧
     keeps (metaG 0x07 g [d] [d]) (.limmh g d i10) ∧ keeps (metaG 0x07 g [d] [d] 2) (.limmhDw g d i32)) ∧
  (∀ (s : State) (g : Guard) (d a : GReg) (off : BitVec 6),
     s.bundle = none → s.mem.wf = true → (∀ n : Fin 2, s.th.lcbeg[n].getLsbD 0 = false) → (s.thread s.cur).stores = [] →
     (∀ p ∈ (s.core s.myCore).pub, p.getLsbD 63 = false) → (s.core s.myCore).poisoned = [] →
     let ea := fun (n : Nat) => (s.g a + Word.of n * off.signExtend 64).toNat % poolSize s.kind
     let fits := fun (n : Nat) => ea n + n ≤ s.accEnd s.myCore ∧ ea n % n = 0
     let quiet := fun (t : State) => (∀ k, k ≠ s.cur → t.thread k = s.thread k) ∧ ((s.core s.myCore).flipped = [] →
       (∀ c, c ≠ s.myCore → t.core c = s.core c) ∧ (∃ x, t.core s.myCore = { s.core s.myCore with pcnt := x }) ∧
       t = { s with cores := t.cores, threads := t.threads, mem := t.mem })
     (s.executes (metaG 0x10 g [d] [a]) →
       ∀ x ∈ [(Instr.ldb g d a off, 1), (.ldh g d a off, 2), (.ldw g d a off, 4), (.ldd g d a off, 8), (.ldbz g d a off, 1),
         (.ldhz g d a off, 2), (.ldwz g d a off, 4)], fits x.2 →
         ∃ (t : State) (r pc : Word) (ws : List LookWindow), exec x.1 s = .next t ∧ t.th = { s.th.setG d r with pc := pc, windows := ws, wait := none, granted := false } ∧
           t.mem = s.mem ∧ quiet t) ∧
     (s.executes (metaG 0x10 g [] [d, a]) → s.holdStores = false →
       ∀ x ∈ [(Instr.stb g d a off, 1), (.sth g d a off, 2), (.stw g d a off, 4), (.std g d a off, 8)], fits x.2 →
         ∃ (t : State) (pc : Word) (ws : List LookWindow), exec x.1 s = .next t ∧ t.th = { s.th with pc := pc, windows := ws, wait := none, granted := false } ∧
           quiet t ∧
           (∀ i < x.2, t.mem.read (poolKey s.myCore (ea x.2 + i)) = BitVec.ofNat 8 ((s.g d).toNat / 2 ^ (8 * i))) ∧
           (∀ k, (∀ i < x.2, k ≠ poolKey s.myCore (ea x.2 + i)) → t.mem.read k = s.mem.read k)))

/-- R30: `g0` reads as zero and `p0` as true, whatever is written to them; another register reads as it was last written. -/
def Obligations.HardwiredRegisters : Prop :=
  ∀ (s : State), s.bundle = none → s.g 0 = 0 ∧ s.p 0 = true ∧
    (∀ d x, (s.setG d x).g d = (if d = 0 then 0 else x) ∧ (∀ r, r ≠ d → (s.setG d x).g r = s.g r) ∧ (∀ q, (s.setG d x).p q = s.p q)) ∧
    (∀ d x, (s.setP d x).p d = (if d = 0 then true else x) ∧ (∀ r, r ≠ d → (s.setP d x).p r = s.p r) ∧ (∀ q, (s.setP d x).g q = s.g q)) ∧
    (∀ x, (s.setG 0 x).th = s.th) ∧ (∀ x, (s.setP 0 x).th = s.th)

/-! ## Words, reset, and every step -/

/-- R29–R34, R39, R45: words of the worked encodings decode to the instructions they stand for; and words that no table lists are
refused: the zero word, frame `11`, affix mode `11`, the guard `?!p0`, an unused field, a register out of range, a
major opcode that is not assigned, and `DRAW` with gB but no RE (R156). -/
def Obligations.DecodeWords : Prop :=
  (∀ x ∈ [((0x01190A00 : Nat), Instr.add ⟨false, 0⟩ 3 4 5), (0x02317FFB, .addi ⟨true, 3⟩ 6 5 0x3FF), (0x10290C10, .ldd ⟨false, 0⟩ 5 4 1),
      (0x26280C00, .dzero ⟨false, 0⟩ 0 5 6), (0x0CFFFFD2, .br ⟨false, 2⟩ 0xFFFFD), (0x0E000040, .nop ⟨false, 0⟩),
      (0x85310040, .affixK 5 12 0x0040), (0x06211030, .shri ⟨false, 0⟩ 4 4 3), (0x18190A00, .vadd ⟨false, 0⟩ 3 4 5),
      (0x18118F30, .vsel ⟨false, 0⟩ 2 6 7 3), (0x19425400, .vfma ⟨false, 0⟩ 8 9 10), (0x1A090A20, .vcmpCc ⟨false, 0⟩ 2 1 4 5),
      (0x1B288C80, .vext ⟨false, 0⟩ 5 2 6), (0x1C088000, .vrcp ⟨false, 0⟩ 1 2), (0x3A010A20, .macc ⟨false, 0⟩ 4 5)],
    decode x.1 0 = .ok x.2 ∧ encode x.2 = [x.1]) ∧
  decode 0x47100000 0x12345678 = .ok (.limmDw ⟨false, 0⟩ 2 0x12345678) ∧ decode 0x411901E0 0x408 = .ok (.bextDw ⟨false, 0⟩ 3 4 8 4) ∧
  ∀ w ∈ [(0 : Nat), 0xC0000000, 0x80030000, 0x01190A08, 0x01190B50, 0x0B400000, 0x35000000, 0x243A1280],
    ∃ e, decode w 0 = .error e

/-- R27, R29–R33, R39, R43–R47: decoding the words of a well-formed instruction gives the instruction back, with every operand at
every value that its encoding admits; and its words are words of 32 bits.

R3, R27, R31, R38: whatever two words decode to is a well-formed instruction with one word, or two in frame `01`; and
encoding it gives those words back: no bit of a word that decodes is without a meaning, and unused fields hold zero. -/
def Obligations.EncodeDecode : Prop :=
  (∀ i : Instr, i.words ≠ 0 → i.wf = true → decode i.word0 i.word1 = .ok i ∧ i.word0 < 2 ^ 32 ∧ i.word1 < 2 ^ 32) ∧
  (∀ w x i, decode w x = .ok i → i.wf = true ∧ (i.words = if w / 2 ^ 30 % 4 = 1 then 2 else 1) ∧
     (w < 2 ^ 32 → x < 2 ^ 32 → i.word0 = w ∧ (i.words = 2 → i.word1 = x)))

/-- R3, R4: every step of a machine whose agenda holds events goes on: no instruction, no word and no event faults or is refused.

R3, R4: a step leaves an agenda of events alone where it finds one; reset's is empty (`ResetState`), so that no machine that runs
from reset comes to a stop. -/
def Obligations.StepGoesOn : Prop :=
  (∀ s : State, s.eventsOnly = true → GoesOn (step s)) ∧
  (∀ s t : State, s.eventsOnly = true → step s = .next t → t.eventsOnly = true)

/-- R384, and the model's choices of logs 1 and 2: after reset no module has power, no thread exists, no core has a team, every
register of every thread, general, predicate, vector with its tag, mask and system register, holds zero, those of its core too, no
traffic is under way, and every byte of every memory reads as zero, in canonical form; nothing happens by itself. -/
def Obligations.ResetState : Prop :=
  let s := State.reset
  s.mem.wf = true ∧ s.eventsOnly = true ∧ (∀ k, s.mem.read k = 0) ∧
    (∀ m, let k := s.module m
      k.state = .reset ∧ k.powered = false ∧ k.clocks = false ∧ k.flash = [] ∧ k.haltbase = 0 ∧ k.time = 0 ∧ k.timeRun = false ∧
      k.badacc = false ∧ k.throt = false ∧ k.pwrlim = 4800 ∧ k.tthr = 95 ∧ k.ttrip = 105 ∧ k.tripped = false ∧ k.hpart = 0 ∧ k.gen = 0 ∧ k.parts = [] ∧ k.poisoned = [] ∧ k.flipped = []) ∧
    (∀ d, let k := s.die d
      k.directory = [] ∧ k.queues = [] ∧ k.successors = [] ∧ k.admitted = [] ∧ k.owners = [] ∧ k.hchain = 0 ∧ k.hqsel = 0 ∧
      k.asgsel = 0 ∧ k.haltsel = 0 ∧ k.poolc = 0 ∧ k.dramc = 0 ∧ k.droop = false ∧ k.heap = none ∧
      ∀ n : Fin 16, k.objs[n] = {} ∧ k.objPart[n] = none) ∧
    (∀ q, let k := s.quad q
      k.cache = [] ∧ k.tlb = [] ∧ k.walkCache = [] ∧ k.icache = [] ∧ k.part = none ∧
      (∀ n : Fin 16, k.objs[n] = {}) ∧ ∀ n : Fin 8, k.fifos[n] = {}) ∧
    (∀ c, let k := s.core c
      k.team = none ∧ k.partw = 0 ∧ k.rtvec = 0 ∧ k.wdog = 0 ∧ k.trctl = 0 ∧ k.trbase = 0 ∧ k.trptr = 0 ∧ k.rqcfg = 0 ∧ k.rqptr = 0 ∧
      k.frozen = 0 ∧ k.winst = 0 ∧ k.elision = [] ∧ k.latch = [] ∧ k.mqueue = [] ∧ k.poisoned = [] ∧ k.flipped = [] ∧ k.halt = none ∧
      (∀ n : Fin 16, k.cc[n] = 0 ∧ k.sent[n] = 0 ∧ k.accepted[n] = 0) ∧ (∀ n : Fin 64, k.lexicon[n] = 0) ∧
      (∀ n : Fin 2, k.infl[n] = none) ∧ (∀ n : Fin 8, k.psel[n] = 0 ∧ k.pcnt[n] = 0) ∧
      ∀ n : Fin 4, k.wp[n] = 0 ∧ k.pub[n] = 0 ∧ k.chans[n].queue = [] ∧ k.chans[n].fault = none) ∧
    (∀ tid, let t := s.thread tid
      t.status = .absent ∧ t.pc = 0 ∧ t.long = false ∧ t.hnd = false ∧ t.sup = false ∧
      (∀ r : GReg, t.g[r] = 0) ∧ (∀ r : PReg, t.p[r] = false) ∧ (∀ r : Fin 32, t.v[r].bits = 0 ∧ t.v[r].tag = .none) ∧
      (∀ r : Fin 16, t.w[r].bits = 0 ∧ t.w[r].tag = .none) ∧ (∀ r : Fin 8, t.m[r] = 0) ∧
      t.tsaved = 0 ∧ t.tepc = 0 ∧ t.tcause = 0 ∧ t.taddr = 0 ∧ t.tvec = 0 ∧ t.tscratch = 0 ∧ t.tchain = 0 ∧ t.origin = none ∧
      t.fflags = 0 ∧ t.accr = 0 ∧ (∀ n : Fin 2, t.lccnt[n] = 0 ∧ t.lcbeg[n] = 0 ∧ t.lcend[n] = 0) ∧ t.lpipe = 0 ∧
      (∀ n : Fin 16, t.decl[n] = 0 ∧ t.syl[n] = 0) ∧ t.fb = 0 ∧ t.lastb = none ∧ t.barrw = [] ∧ t.held = none ∧
      t.frow = 0 ∧ t.fop = 0 ∧ t.disc = 0 ∧ t.oob = false ∧ t.mfpc = 0 ∧ t.stage = 0 ∧ t.tdet = false ∧
      t.windows = [] ∧ t.outstanding = [] ∧ t.stores = [] ∧ t.badRegs = [] ∧ t.flipRegs = [] ∧ t.pending = [] ∧ t.wait = none) ∧
    s.reqs = [] ∧ s.lookups = [] ∧ s.elisions = [] ∧ s.walks = [] ∧ s.launches = [] ∧ s.heaps = [] ∧ s.saved = [] ∧ s.podObjs = [] ∧
    s.links = [] ∧ s.toHost = [] ∧
    step s = .next s.pass

/-- The form of the memories that logs 2 and 3 choose is kept by every step: addresses rise strictly and no listed byte reads as an
unlisted one, so that equal memories are equal data. -/
def Obligations.MemoryCanonical : Prop :=
  ∀ s t : State, s.mem.wf = true → step s = .next t → t.mem.wf = true
end

