-- ==== Sys2Proof/Laws/Decode.lean ====
section
/-!
SUPPORT. Sys2Proof/Laws/Decode.lean: what a decoded field tells of its word, and how a word is made of its fields (R29–R33).
-/
namespace Sys2Proof

theorem val_of_finOf {k n : Nat} {f : Fin k} (h : finOf k n = some f) : f.val = n := by
  unfold finOf at h
  split at h
  · cases h; rfl
  · cases h

theorem zero_of_zeroField {n : Nat} {u : Unit} (h : zeroField n = some u) : n = 0 := by
  unfold zeroField at h
  split at h
  · assumption
  · cases h

theorem code_of_tagOf {n : Nat} {t : Tag} (h : tagOf n = some t) : t.code = n := by
  unfold tagOf at h
  split at h <;> cases h <;> rfl

theorem code_of_scopeOf {n : Nat} {c : Scope} (h : scopeOf n = some c) : c.code = n := by
  unfold scopeOf at h
  split at h <;> cases h <;> rfl

theorem code_of_guardOf {w : Nat} {g : Guard} (h : guardOf w = some g) : g.code = w % 16 := by
  unfold guardOf at h
  obtain ⟨p, hp, h⟩ := Option.bind_eq_some_iff.1 h
  have hp := val_of_finOf hp
  cases h
  have e : bits w 3 1 = 0 ∨ bits w 3 1 = 1 := by simp only [bits]; omega
  simp only [Guard.code, hp]
  rcases e with e | e <;> simp only [e] <;> simp only [bits] at * <;> simp <;> omega

/-! ## A word of 32 bits is made of the fields of each of its layouts -/

theorem wordR_fields (w : Nat) (hw : w < 2 ^ 32) :
    2 ^ 30 * fFrame w + wordR (fMajor w) (fD w) (fA w) (fB w) (fFn w) (w % 16) = w := by
  simp only [wordR, fFrame, fMajor, fD, fA, fB, fFn, bits]; omega

theorem wordI_fields (w : Nat) (hw : w < 2 ^ 32) :
    2 ^ 30 * fFrame w + wordI (fMajor w) (fD w) (fA w) (fImm w) (w % 16) = w := by
  simp only [wordI, fFrame, fMajor, fD, fA, fImm, bits]; omega

theorem wordM_fields (w : Nat) (hw : w < 2 ^ 32) :
    2 ^ 30 * fFrame w + wordM (fMajor w) (fD w) (fA w) (bits w 10 4) (fOff6 w) (w % 16) = w := by
  simp only [wordM, fFrame, fMajor, fD, fA, fOff6, bits]; omega

theorem wordL_fields (w : Nat) (hw : w < 2 ^ 32) :
    2 ^ 30 * fFrame w + wordL (fMajor w) (fD w) (fA w) (fB w) (fLook w) (fMode w) (w % 16) = w := by
  simp only [wordL, fFrame, fMajor, fD, fA, fB, fLook, fMode, bits]; omega

theorem wordB_fields (w : Nat) (hw : w < 2 ^ 32) : 2 ^ 30 * fFrame w + wordB (fMajor w) (fOff20 w) (w % 16) = w := by
  simp only [wordB, fFrame, fMajor, fOff20, bits]; omega

theorem wordA_fields (w : Nat) (hw : w < 2 ^ 32) (hf : fFrame w = 2) :
    wordA (bits w 24 6) (bits w 18 6) (bits w 16 2) (w % 2 ^ 16) = w := by
  simp only [wordA, fFrame, bits] at *; omega

end Sys2Proof
end

