-- ==== Sys2Proof/Laws/Issue.lean ====
section
/-!
SUPPORT. Sys2Proof/Laws/Issue.lean: everything the issue of an instruction can come to.
-/
namespace Sys2Proof.Machine

/-- An instruction that issues and executes comes to its effect. -/
theorem issue_of_executes {m : Meta} {s : State} {eff : State → Res} (h : s.executes m) :
    issue m s eff = .next (s.finish m ((eff s).counted m s)) := by
  obtain ⟨h1, h2, h3, h4, h5, h6⟩ := h
  simp [issue, h1, h2, h3, h4, h5, h6, State.correctRegs]

/-- A thread that issues comes to a next state, whatever the instruction. -/
theorem issue_next {m : Meta} {s : State} {eff : State → Res} (h : s.src.status = .running) :
    ∃ t r m', (t = s ∨ t = s.lostCycle) ∧ issue m s eff = .next (t.finish m' r) := by
  simp only [issue, h, ne_eq, not_true_eq_false, if_false]
  split
  · exact ⟨_, _, _, .inl rfl, rfl⟩
  · split
    · exact ⟨_, _, _, .inr rfl, rfl⟩
    · split
      · exact ⟨_, _, _, .inl rfl, rfl⟩
      · split <;> exact ⟨_, _, _, .inl rfl, rfl⟩

@[simp] theorem counted_trap (t : TrapInfo) (s' s : State) (m : Meta) : (Res.trap t s').counted m s = .trap t s' := rfl
@[simp] theorem counted_jump (s' s : State) (pc : Word) (m : Meta) : (Res.jump s' pc).counted m s = .jump s' pc := rfl
@[simp] theorem counted_retireTo (s' s : State) (pc : Word) (m : Meta) :
    (Res.retireTo s' pc).counted m s = .retireTo s' pc := rfl
@[simp] theorem counted_block (w : Wait) (s' s : State) (m : Meta) : (Res.block w s').counted m s = .block w s' := rfl
@[simp] theorem counted_again (x : Option Miss) (s : State) (m : Meta) : (Res.again x).counted m s = .again x := rfl

end Sys2Proof.Machine
end

