-- ==== Sys2Proof/Laws/Goes.lean ====
section
/-!
SUPPORT. Sys2Proof/Laws/Goes.lean: no meaning stops the machine: an instruction of a thread that runs, and every event, answers a
next state.
-/
namespace Sys2Proof.Machine

theorem issue_goes {m : Meta} {s : State} {eff : State → Res} (h : s.src.status = .running) : GoesOn (issue m s eff) := by
  obtain ⟨t, r, m', -, h⟩ := issue_next (m := m) (eff := eff) h
  exact ⟨_, h⟩
theorem goes_next (s : State) : GoesOn (.next s) := ⟨s, rfl⟩
theorem goes_ite {c : Prop} [Decidable c] {a b : Host.Outcome State Fault Refusal} (ha : GoesOn a) (hb : GoesOn b) :
    GoesOn (if c then a else b) := by split <;> assumption

theorem execReservedEncoding_goes (s : State) (h : s.src.status = .running) : GoesOn (execReservedEncoding s) := by
  unfold execReservedEncoding; rw [if_neg (by simp [h])]; exact goes_next _

theorem execAdd_goes (g : Guard) (d : GReg) (a : GReg) (b : GReg) (s : State) (h : s.src.status = .running) :
    GoesOn (execAdd g d a b s) := by
  unfold execAdd scalar3; exact issue_goes h
theorem execSub_goes (g : Guard) (d : GReg) (a : GReg) (b : GReg) (s : State) (h : s.src.status = .running) :
    GoesOn (execSub g d a b s) := by
  unfold execSub scalar3; exact issue_goes h
theorem execAnd_goes (g : Guard) (d : GReg) (a : GReg) (b : GReg) (s : State) (h : s.src.status = .running) :
    GoesOn (execAnd g d a b s) := by
  unfold execAnd scalar3; exact issue_goes h
theorem execOr_goes (g : Guard) (d : GReg) (a : GReg) (b : GReg) (s : State) (h : s.src.status = .running) :
    GoesOn (execOr g d a b s) := by
  unfold execOr scalar3; exact issue_goes h
theorem execXor_goes (g : Guard) (d : GReg) (a : GReg) (b : GReg) (s : State) (h : s.src.status = .running) :
    GoesOn (execXor g d a b s) := by
  unfold execXor scalar3; exact issue_goes h
theorem execAndn_goes (g : Guard) (d : GReg) (a : GReg) (b : GReg) (s : State) (h : s.src.status = .running) :
    GoesOn (execAndn g d a b s) := by
  unfold execAndn scalar3; exact issue_goes h
theorem execShl_goes (g : Guard) (d : GReg) (a : GReg) (b : GReg) (s : State) (h : s.src.status = .running) :
    GoesOn (execShl g d a b s) := by
  unfold execShl scalar3; exact issue_goes h
theorem execShr_goes (g : Guard) (d : GReg) (a : GReg) (b : GReg) (s : State) (h : s.src.status = .running) :
    GoesOn (execShr g d a b s) := by
  unfold execShr scalar3; exact issue_goes h
theorem execSar_goes (g : Guard) (d : GReg) (a : GReg) (b : GReg) (s : State) (h : s.src.status = .running) :
    GoesOn (execSar g d a b s) := by
  unfold execSar scalar3; exact issue_goes h
theorem execRol_goes (g : Guard) (d : GReg) (a : GReg) (b : GReg) (s : State) (h : s.src.status = .running) :
    GoesOn (execRol g d a b s) := by
  unfold execRol scalar3; exact issue_goes h
theorem execMul_goes (g : Guard) (d : GReg) (a : GReg) (b : GReg) (s : State) (h : s.src.status = .running) :
    GoesOn (execMul g d a b s) := by
  unfold execMul scalar3; exact issue_goes h
theorem execMulh_goes (g : Guard) (d : GReg) (a : GReg) (b : GReg) (s : State) (h : s.src.status = .running) :
    GoesOn (execMulh g d a b s) := by
  unfold execMulh scalar3; exact issue_goes h
theorem execMulhz_goes (g : Guard) (d : GReg) (a : GReg) (b : GReg) (s : State) (h : s.src.status = .running) :
    GoesOn (execMulhz g d a b s) := by
  unfold execMulhz scalar3; exact issue_goes h
theorem execDiv_goes (g : Guard) (d : GReg) (a : GReg) (b : GReg) (s : State) (h : s.src.status = .running) :
    GoesOn (execDiv g d a b s) := by
  unfold execDiv division; exact issue_goes h
theorem execDivz_goes (g : Guard) (d : GReg) (a : GReg) (b : GReg) (s : State) (h : s.src.status = .running) :
    GoesOn (execDivz g d a b s) := by
  unfold execDivz division; exact issue_goes h
theorem execRem_goes (g : Guard) (d : GReg) (a : GReg) (b : GReg) (s : State) (h : s.src.status = .running) :
    GoesOn (execRem g d a b s) := by
  unfold execRem division; exact issue_goes h
theorem execRemz_goes (g : Guard) (d : GReg) (a : GReg) (b : GReg) (s : State) (h : s.src.status = .running) :
    GoesOn (execRemz g d a b s) := by
  unfold execRemz division; exact issue_goes h
theorem execMin_goes (g : Guard) (d : GReg) (a : GReg) (b : GReg) (s : State) (h : s.src.status = .running) :
    GoesOn (execMin g d a b s) := by
  unfold execMin scalar3; exact issue_goes h
theorem execMax_goes (g : Guard) (d : GReg) (a : GReg) (b : GReg) (s : State) (h : s.src.status = .running) :
    GoesOn (execMax g d a b s) := by
  unfold execMax scalar3; exact issue_goes h
theorem execMinz_goes (g : Guard) (d : GReg) (a : GReg) (b : GReg) (s : State) (h : s.src.status = .running) :
    GoesOn (execMinz g d a b s) := by
  unfold execMinz scalar3; exact issue_goes h
theorem execMaxz_goes (g : Guard) (d : GReg) (a : GReg) (b : GReg) (s : State) (h : s.src.status = .running) :
    GoesOn (execMaxz g d a b s) := by
  unfold execMaxz scalar3; exact issue_goes h
theorem execClz_goes (g : Guard) (d : GReg) (a : GReg) (s : State) (h : s.src.status = .running) :
    GoesOn (execClz g d a s) := by
  unfold execClz scalar2; exact issue_goes h
theorem execCtz_goes (g : Guard) (d : GReg) (a : GReg) (s : State) (h : s.src.status = .running) :
    GoesOn (execCtz g d a s) := by
  unfold execCtz scalar2; exact issue_goes h
theorem execPopc_goes (g : Guard) (d : GReg) (a : GReg) (s : State) (h : s.src.status = .running) :
    GoesOn (execPopc g d a s) := by
  unfold execPopc scalar2; exact issue_goes h
theorem execSextB_goes (g : Guard) (d : GReg) (a : GReg) (s : State) (h : s.src.status = .running) :
    GoesOn (execSextB g d a s) := by
  unfold execSextB scalar2; exact issue_goes h
theorem execSextH_goes (g : Guard) (d : GReg) (a : GReg) (s : State) (h : s.src.status = .running) :
    GoesOn (execSextH g d a s) := by
  unfold execSextH scalar2; exact issue_goes h
theorem execSextW_goes (g : Guard) (d : GReg) (a : GReg) (s : State) (h : s.src.status = .running) :
    GoesOn (execSextW g d a s) := by
  unfold execSextW scalar2; exact issue_goes h
theorem execZextB_goes (g : Guard) (d : GReg) (a : GReg) (s : State) (h : s.src.status = .running) :
    GoesOn (execZextB g d a s) := by
  unfold execZextB scalar2; exact issue_goes h
theorem execZextH_goes (g : Guard) (d : GReg) (a : GReg) (s : State) (h : s.src.status = .running) :
    GoesOn (execZextH g d a s) := by
  unfold execZextH scalar2; exact issue_goes h
theorem execZextW_goes (g : Guard) (d : GReg) (a : GReg) (s : State) (h : s.src.status = .running) :
    GoesOn (execZextW g d a s) := by
  unfold execZextW scalar2; exact issue_goes h
theorem execBext_goes (g : Guard) (d : GReg) (a : GReg) (b : GReg) (s : State) (h : s.src.status = .running) :
    GoesOn (execBext g d a b s) := by
  unfold execBext scalar3; exact issue_goes h
theorem execBins_goes (g : Guard) (d : GReg) (a : GReg) (b : GReg) (s : State) (h : s.src.status = .running) :
    GoesOn (execBins g d a b s) := by
  unfold execBins; exact issue_goes h
theorem execBextDw_goes (g : Guard) (d : GReg) (a : GReg) (pos : Fin 64) (wid : Fin 128) (s : State) (h : s.src.status = .running) :
    GoesOn (execBextDw g d a pos wid s) := by
  unfold execBextDw; exact issue_goes h
theorem execBinsDw_goes (g : Guard) (d : GReg) (a : GReg) (pos : Fin 64) (wid : Fin 128) (s : State) (h : s.src.status = .running) :
    GoesOn (execBinsDw g d a pos wid s) := by
  unfold execBinsDw; exact issue_goes h
theorem execAddi_goes (g : Guard) (d : GReg) (a : GReg) (imm : BitVec 10) (s : State) (h : s.src.status = .running) :
    GoesOn (execAddi g d a imm s) := by
  unfold execAddi scalarImm; exact issue_goes h
theorem execAndi_goes (g : Guard) (d : GReg) (a : GReg) (imm : BitVec 10) (s : State) (h : s.src.status = .running) :
    GoesOn (execAndi g d a imm s) := by
  unfold execAndi scalarImm; exact issue_goes h
theorem execOri_goes (g : Guard) (d : GReg) (a : GReg) (imm : BitVec 10) (s : State) (h : s.src.status = .running) :
    GoesOn (execOri g d a imm s) := by
  unfold execOri scalarImm; exact issue_goes h
theorem execXori_goes (g : Guard) (d : GReg) (a : GReg) (imm : BitVec 10) (s : State) (h : s.src.status = .running) :
    GoesOn (execXori g d a imm s) := by
  unfold execXori scalarImm; exact issue_goes h
theorem execAddiDw_goes (g : Guard) (d : GReg) (a : GReg) (imm : BitVec 32) (s : State) (h : s.src.status = .running) :
    GoesOn (execAddiDw g d a imm s) := by
  unfold execAddiDw scalarImm; exact issue_goes h
theorem execAndiDw_goes (g : Guard) (d : GReg) (a : GReg) (imm : BitVec 32) (s : State) (h : s.src.status = .running) :
    GoesOn (execAndiDw g d a imm s) := by
  unfold execAndiDw scalarImm; exact issue_goes h
theorem execOriDw_goes (g : Guard) (d : GReg) (a : GReg) (imm : BitVec 32) (s : State) (h : s.src.status = .running) :
    GoesOn (execOriDw g d a imm s) := by
  unfold execOriDw scalarImm; exact issue_goes h
theorem execXoriDw_goes (g : Guard) (d : GReg) (a : GReg) (imm : BitVec 32) (s : State) (h : s.src.status = .running) :
    GoesOn (execXoriDw g d a imm s) := by
  unfold execXoriDw scalarImm; exact issue_goes h
theorem execShli_goes (g : Guard) (d : GReg) (a : GReg) (n : Fin 64) (s : State) (h : s.src.status = .running) :
    GoesOn (execShli g d a n s) := by
  unfold execShli scalarImm; exact issue_goes h
theorem execShri_goes (g : Guard) (d : GReg) (a : GReg) (n : Fin 64) (s : State) (h : s.src.status = .running) :
    GoesOn (execShri g d a n s) := by
  unfold execShri scalarImm; exact issue_goes h
theorem execSari_goes (g : Guard) (d : GReg) (a : GReg) (n : Fin 64) (s : State) (h : s.src.status = .running) :
    GoesOn (execSari g d a n s) := by
  unfold execSari scalarImm; exact issue_goes h
theorem execLimm_goes (g : Guard) (d : GReg) (imm : BitVec 10) (s : State) (h : s.src.status = .running) :
    GoesOn (execLimm g d imm s) := by
  unfold execLimm; exact issue_goes h
theorem execLimmh_goes (g : Guard) (d : GReg) (imm : BitVec 10) (s : State) (h : s.src.status = .running) :
    GoesOn (execLimmh g d imm s) := by
  unfold execLimmh; exact issue_goes h
theorem execAddpc_goes (g : Guard) (d : GReg) (imm : BitVec 10) (s : State) (h : s.src.status = .running) :
    GoesOn (execAddpc g d imm s) := by
  unfold execAddpc; exact issue_goes h
theorem execLimmDw_goes (g : Guard) (d : GReg) (imm : BitVec 32) (s : State) (h : s.src.status = .running) :
    GoesOn (execLimmDw g d imm s) := by
  unfold execLimmDw; exact issue_goes h
theorem execLimmhDw_goes (g : Guard) (d : GReg) (imm : BitVec 32) (s : State) (h : s.src.status = .running) :
    GoesOn (execLimmhDw g d imm s) := by
  unfold execLimmhDw; exact issue_goes h
theorem execAddpcDw_goes (g : Guard) (d : GReg) (imm : BitVec 32) (s : State) (h : s.src.status = .running) :
    GoesOn (execAddpcDw g d imm s) := by
  unfold execAddpcDw; exact issue_goes h
theorem execCmpCc_goes (g : Guard) (c : Fin 8) (p : PReg) (a : GReg) (b : GReg) (s : State) (h : s.src.status = .running) :
    GoesOn (execCmpCc g c p a b s) := by
  unfold execCmpCc; exact issue_goes h
theorem execCmpiCcLow_goes (g : Guard) (c : Fin 4) (p : PReg) (a : GReg) (imm : BitVec 10) (s : State) (h : s.src.status = .running) :
    GoesOn (execCmpiCcLow g c p a imm s) := by
  unfold execCmpiCcLow compareImm; exact issue_goes h
theorem execCmpiCcHigh_goes (g : Guard) (c : Fin 4) (p : PReg) (a : GReg) (imm : BitVec 10) (s : State) (h : s.src.status = .running) :
    GoesOn (execCmpiCcHigh g c p a imm s) := by
  unfold execCmpiCcHigh compareImm; exact issue_goes h
theorem execCmpiDw_goes (g : Guard) (c : Fin 8) (p : PReg) (a : GReg) (imm : BitVec 32) (s : State) (h : s.src.status = .running) :
    GoesOn (execCmpiDw g c p a imm s) := by
  unfold execCmpiDw compareImm; exact issue_goes h
theorem execPand_goes (g : Guard) (d : PReg) (a : PReg) (b : PReg) (s : State) (h : s.src.status = .running) :
    GoesOn (execPand g d a b s) := by
  unfold execPand predicate3; exact issue_goes h
theorem execPor_goes (g : Guard) (d : PReg) (a : PReg) (b : PReg) (s : State) (h : s.src.status = .running) :
    GoesOn (execPor g d a b s) := by
  unfold execPor predicate3; exact issue_goes h
theorem execPxor_goes (g : Guard) (d : PReg) (a : PReg) (b : PReg) (s : State) (h : s.src.status = .running) :
    GoesOn (execPxor g d a b s) := by
  unfold execPxor predicate3; exact issue_goes h
theorem execPnot_goes (g : Guard) (d : PReg) (a : PReg) (s : State) (h : s.src.status = .running) :
    GoesOn (execPnot g d a s) := by
  unfold execPnot predicate3; exact issue_goes h
theorem execPmov_goes (g : Guard) (d : PReg) (a : PReg) (s : State) (h : s.src.status = .running) :
    GoesOn (execPmov g d a s) := by
  unfold execPmov predicate3; exact issue_goes h
theorem execBr_goes (g : Guard) (off : BitVec 20) (s : State) (h : s.src.status = .running) :
    GoesOn (execBr g off s) := by
  unfold execBr; exact issue_goes h
theorem execCall_goes (g : Guard) (off : BitVec 20) (s : State) (h : s.src.status = .running) :
    GoesOn (execCall g off s) := by
  unfold execCall; exact issue_goes h
theorem execJr_goes (g : Guard) (a : GReg) (s : State) (h : s.src.status = .running) :
    GoesOn (execJr g a s) := by
  unfold execJr; exact issue_goes h
theorem execRet_goes (g : Guard) (s : State) (h : s.src.status = .running) :
    GoesOn (execRet g s) := by
  unfold execRet; exact issue_goes h
theorem execRot_goes (g : Guard) (s : State) (h : s.src.status = .running) :
    GoesOn (execRot g s) := by
  unfold execRot; exact issue_goes h
theorem execStage_goes (g : Guard) (a : GReg) (s : State) (h : s.src.status = .running) :
    GoesOn (execStage g a s) := by
  unfold execStage; exact issue_goes h
theorem execNop_goes (g : Guard) (s : State) (h : s.src.status = .running) :
    GoesOn (execNop g s) := by
  unfold execNop; exact issue_goes h
theorem execHint_goes (g : Guard) (b : Fin 32) (s : State) (h : s.src.status = .running) :
    GoesOn (execHint g b s) := by
  unfold execHint; exact issue_goes h
theorem execLoop_goes (g : Guard) (n : LcReg) (a : GReg) (len : BitVec 10) (s : State) (h : s.src.status = .running) :
    GoesOn (execLoop g n a len s) := by
  unfold execLoop; exact issue_goes h
theorem execLoopP_goes (g : Guard) (n : LcReg) (a : GReg) (len : BitVec 10) (s : State) (h : s.src.status = .running) :
    GoesOn (execLoopP g n a len s) := by
  unfold execLoopP; exact issue_goes h
theorem execLoopDw_goes (g : Guard) (pipe : Bool) (n : LcReg) (len : BitVec 10) (trips : BitVec 32) (s : State) (h : s.src.status = .running) :
    GoesOn (execLoopDw g pipe n len trips s) := by
  unfold execLoopDw; exact issue_goes h
theorem execLdb_goes (g : Guard) (d : GReg) (a : GReg) (off : BitVec 6) (s : State) (h : s.src.status = .running) :
    GoesOn (execLdb g d a off s) := by
  unfold execLdb scalarLoad; exact issue_goes h
theorem execLdh_goes (g : Guard) (d : GReg) (a : GReg) (off : BitVec 6) (s : State) (h : s.src.status = .running) :
    GoesOn (execLdh g d a off s) := by
  unfold execLdh scalarLoad; exact issue_goes h
theorem execLdw_goes (g : Guard) (d : GReg) (a : GReg) (off : BitVec 6) (s : State) (h : s.src.status = .running) :
    GoesOn (execLdw g d a off s) := by
  unfold execLdw scalarLoad; exact issue_goes h
theorem execLdd_goes (g : Guard) (d : GReg) (a : GReg) (off : BitVec 6) (s : State) (h : s.src.status = .running) :
    GoesOn (execLdd g d a off s) := by
  unfold execLdd scalarLoad; exact issue_goes h
theorem execLdbz_goes (g : Guard) (d : GReg) (a : GReg) (off : BitVec 6) (s : State) (h : s.src.status = .running) :
    GoesOn (execLdbz g d a off s) := by
  unfold execLdbz scalarLoad; exact issue_goes h
theorem execLdhz_goes (g : Guard) (d : GReg) (a : GReg) (off : BitVec 6) (s : State) (h : s.src.status = .running) :
    GoesOn (execLdhz g d a off s) := by
  unfold execLdhz scalarLoad; exact issue_goes h
theorem execLdwz_goes (g : Guard) (d : GReg) (a : GReg) (off : BitVec 6) (s : State) (h : s.src.status = .running) :
    GoesOn (execLdwz g d a off s) := by
  unfold execLdwz scalarLoad; exact issue_goes h
theorem execStb_goes (g : Guard) (d : GReg) (a : GReg) (off : BitVec 6) (s : State) (h : s.src.status = .running) :
    GoesOn (execStb g d a off s) := by
  unfold execStb scalarStore; exact issue_goes h
theorem execSth_goes (g : Guard) (d : GReg) (a : GReg) (off : BitVec 6) (s : State) (h : s.src.status = .running) :
    GoesOn (execSth g d a off s) := by
  unfold execSth scalarStore; exact issue_goes h
theorem execStw_goes (g : Guard) (d : GReg) (a : GReg) (off : BitVec 6) (s : State) (h : s.src.status = .running) :
    GoesOn (execStw g d a off s) := by
  unfold execStw scalarStore; exact issue_goes h
theorem execStd_goes (g : Guard) (d : GReg) (a : GReg) (off : BitVec 6) (s : State) (h : s.src.status = .running) :
    GoesOn (execStd g d a off s) := by
  unfold execStd scalarStore; exact issue_goes h
theorem execLdbDw_goes (g : Guard) (d : GReg) (a : GReg) (disp : BitVec 32) (s : State) (h : s.src.status = .running) :
    GoesOn (execLdbDw g d a disp s) := by
  unfold execLdbDw scalarLoad; exact issue_goes h
theorem execLdhDw_goes (g : Guard) (d : GReg) (a : GReg) (disp : BitVec 32) (s : State) (h : s.src.status = .running) :
    GoesOn (execLdhDw g d a disp s) := by
  unfold execLdhDw scalarLoad; exact issue_goes h
theorem execLdwDw_goes (g : Guard) (d : GReg) (a : GReg) (disp : BitVec 32) (s : State) (h : s.src.status = .running) :
    GoesOn (execLdwDw g d a disp s) := by
  unfold execLdwDw scalarLoad; exact issue_goes h
theorem execLddDw_goes (g : Guard) (d : GReg) (a : GReg) (disp : BitVec 32) (s : State) (h : s.src.status = .running) :
    GoesOn (execLddDw g d a disp s) := by
  unfold execLddDw scalarLoad; exact issue_goes h
theorem execLdbzDw_goes (g : Guard) (d : GReg) (a : GReg) (disp : BitVec 32) (s : State) (h : s.src.status = .running) :
    GoesOn (execLdbzDw g d a disp s) := by
  unfold execLdbzDw scalarLoad; exact issue_goes h
theorem execLdhzDw_goes (g : Guard) (d : GReg) (a : GReg) (disp : BitVec 32) (s : State) (h : s.src.status = .running) :
    GoesOn (execLdhzDw g d a disp s) := by
  unfold execLdhzDw scalarLoad; exact issue_goes h
theorem execLdwzDw_goes (g : Guard) (d : GReg) (a : GReg) (disp : BitVec 32) (s : State) (h : s.src.status = .running) :
    GoesOn (execLdwzDw g d a disp s) := by
  unfold execLdwzDw scalarLoad; exact issue_goes h
theorem execStbDw_goes (g : Guard) (d : GReg) (a : GReg) (disp : BitVec 32) (s : State) (h : s.src.status = .running) :
    GoesOn (execStbDw g d a disp s) := by
  unfold execStbDw scalarStore; exact issue_goes h
theorem execSthDw_goes (g : Guard) (d : GReg) (a : GReg) (disp : BitVec 32) (s : State) (h : s.src.status = .running) :
    GoesOn (execSthDw g d a disp s) := by
  unfold execSthDw scalarStore; exact issue_goes h
theorem execStwDw_goes (g : Guard) (d : GReg) (a : GReg) (disp : BitVec 32) (s : State) (h : s.src.status = .running) :
    GoesOn (execStwDw g d a disp s) := by
  unfold execStwDw scalarStore; exact issue_goes h
theorem execStdDw_goes (g : Guard) (d : GReg) (a : GReg) (disp : BitVec 32) (s : State) (h : s.src.status = .running) :
    GoesOn (execStdDw g d a disp s) := by
  unfold execStdDw scalarStore; exact issue_goes h
theorem execVld_goes (g : Guard) (d : VField) (a : GReg) (off : BitVec 6) (s : State) (h : s.src.status = .running) :
    GoesOn (execVld g d a off s) := by
  unfold execVld vectorLoad; exact issue_goes h
theorem execVst_goes (g : Guard) (d : VField) (a : GReg) (off : BitVec 6) (s : State) (h : s.src.status = .running) :
    GoesOn (execVst g d a off s) := by
  unfold execVst vectorStore; exact issue_goes h
theorem execVldDw_goes (g : Guard) (d : VField) (a : GReg) (disp : BitVec 32) (s : State) (h : s.src.status = .running) :
    GoesOn (execVldDw g d a disp s) := by
  unfold execVldDw vectorLoad; exact issue_goes h
theorem execVstDw_goes (g : Guard) (d : VField) (a : GReg) (disp : BitVec 32) (s : State) (h : s.src.status = .running) :
    GoesOn (execVstDw g d a disp s) := by
  unfold execVstDw vectorStore; exact issue_goes h
theorem execVlds_goes (g : Guard) (d : VField) (a : GReg) (b : GReg) (s : State) (h : s.src.status = .running) :
    GoesOn (execVlds g d a b s) := by
  unfold execVlds strided; exact issue_goes h
theorem execVsts_goes (g : Guard) (d : VField) (a : GReg) (b : GReg) (s : State) (h : s.src.status = .running) :
    GoesOn (execVsts g d a b s) := by
  unfold execVsts strided; exact issue_goes h
theorem execVgathl_goes (g : Guard) (d : VField) (a : GReg) (b : VField) (s : State) (h : s.src.status = .running) :
    GoesOn (execVgathl g d a b s) := by
  unfold execVgathl gathered; exact issue_goes h
theorem execVscatl_goes (g : Guard) (d : VField) (a : GReg) (b : VField) (s : State) (h : s.src.status = .running) :
    GoesOn (execVscatl g d a b s) := by
  unfold execVscatl gathered; exact issue_goes h
theorem execCclean_goes (g : Guard) (a : GReg) (s : State) (h : s.src.status = .running) :
    GoesOn (execCclean g a s) := by
  unfold execCclean; exact issue_goes h
theorem execCinv_goes (g : Guard) (a : GReg) (s : State) (h : s.src.status = .running) :
    GoesOn (execCinv g a s) := by
  unfold execCinv; exact issue_goes h
theorem execTlbinv_goes (g : Guard) (a : GReg) (b : GReg) (s : State) (h : s.src.status = .running) :
    GoesOn (execTlbinv g a b s) := by
  unfold execTlbinv; exact issue_goes h
theorem execDclset_goes (g : Guard) (a : GReg) (s : State) (h : s.src.status = .running) :
    GoesOn (execDclset g a s) := by
  unfold execDclset; exact issue_goes h
theorem execSylset_goes (g : Guard) (d : Fin 16) (a : GReg) (s : State) (h : s.src.status = .running) :
    GoesOn (execSylset g d a s) := by
  unfold execSylset; exact issue_goes h
theorem execVldd_goes (g : Guard) (d : VField) (a : GReg) (off : BitVec 6) (s : State) (h : s.src.status = .running) :
    GoesOn (execVldd g d a off s) := by
  unfold execVldd declLoad; exact issue_goes h
theorem execVldp_goes (g : Guard) (d : VField) (a : GReg) (off : BitVec 6) (s : State) (h : s.src.status = .running) :
    GoesOn (execVldp g d a off s) := by
  unfold execVldp declLoad; exact issue_goes h
theorem execVlddDw_goes (g : Guard) (d : VField) (a : GReg) (disp : BitVec 32) (s : State) (h : s.src.status = .running) :
    GoesOn (execVlddDw g d a disp s) := by
  unfold execVlddDw declLoad; exact issue_goes h
theorem execVldpDw_goes (g : Guard) (d : VField) (a : GReg) (disp : BitVec 32) (s : State) (h : s.src.status = .running) :
    GoesOn (execVldpDw g d a disp s) := by
  unfold execVldpDw declLoad; exact issue_goes h
theorem execVadd_goes (g : Guard) (d : VField) (a : VField) (b : VField) (s : State) (h : s.src.status = .running) :
    GoesOn (execVadd g d a b s) := by
  unfold execVadd lanewise; exact issue_goes h
theorem execVsub_goes (g : Guard) (d : VField) (a : VField) (b : VField) (s : State) (h : s.src.status = .running) :
    GoesOn (execVsub g d a b s) := by
  unfold execVsub lanewise; exact issue_goes h
theorem execVmul_goes (g : Guard) (d : VField) (a : VField) (b : VField) (s : State) (h : s.src.status = .running) :
    GoesOn (execVmul g d a b s) := by
  unfold execVmul lanewise; exact issue_goes h
theorem execVmin_goes (g : Guard) (d : VField) (a : VField) (b : VField) (s : State) (h : s.src.status = .running) :
    GoesOn (execVmin g d a b s) := by
  unfold execVmin lanewise; exact issue_goes h
theorem execVmax_goes (g : Guard) (d : VField) (a : VField) (b : VField) (s : State) (h : s.src.status = .running) :
    GoesOn (execVmax g d a b s) := by
  unfold execVmax lanewise; exact issue_goes h
theorem execVabs_goes (g : Guard) (d : VField) (a : VField) (s : State) (h : s.src.status = .running) :
    GoesOn (execVabs g d a s) := by
  unfold execVabs lanewise1; exact issue_goes h
theorem execVneg_goes (g : Guard) (d : VField) (a : VField) (s : State) (h : s.src.status = .running) :
    GoesOn (execVneg g d a s) := by
  unfold execVneg lanewise1; exact issue_goes h
theorem execVand_goes (g : Guard) (d : VField) (a : VField) (b : VField) (s : State) (h : s.src.status = .running) :
    GoesOn (execVand g d a b s) := by
  unfold execVand bitwise; exact issue_goes h
theorem execVor_goes (g : Guard) (d : VField) (a : VField) (b : VField) (s : State) (h : s.src.status = .running) :
    GoesOn (execVor g d a b s) := by
  unfold execVor bitwise; exact issue_goes h
theorem execVxor_goes (g : Guard) (d : VField) (a : VField) (b : VField) (s : State) (h : s.src.status = .running) :
    GoesOn (execVxor g d a b s) := by
  unfold execVxor bitwise; exact issue_goes h
theorem execVshl_goes (g : Guard) (d : VField) (a : VField) (b : VField) (s : State) (h : s.src.status = .running) :
    GoesOn (execVshl g d a b s) := by
  unfold execVshl lanewise; exact issue_goes h
theorem execVshr_goes (g : Guard) (d : VField) (a : VField) (b : VField) (s : State) (h : s.src.status = .running) :
    GoesOn (execVshr g d a b s) := by
  unfold execVshr lanewise; exact issue_goes h
theorem execVsar_goes (g : Guard) (d : VField) (a : VField) (b : VField) (s : State) (h : s.src.status = .running) :
    GoesOn (execVsar g d a b s) := by
  unfold execVsar lanewise; exact issue_goes h
theorem execVaddS_goes (g : Guard) (d : VField) (a : VField) (b : VField) (s : State) (h : s.src.status = .running) :
    GoesOn (execVaddS g d a b s) := by
  unfold execVaddS lanewise; exact issue_goes h
theorem execVsubS_goes (g : Guard) (d : VField) (a : VField) (b : VField) (s : State) (h : s.src.status = .running) :
    GoesOn (execVsubS g d a b s) := by
  unfold execVsubS lanewise; exact issue_goes h
theorem execVsel_goes (g : Guard) (d : VField) (a : VField) (b : VField) (k : MReg) (s : State) (h : s.src.status = .running) :
    GoesOn (execVsel g d a b k s) := by
  unfold execVsel; exact issue_goes h
theorem execVfma_goes (g : Guard) (d : VField) (a : VField) (b : VField) (s : State) (h : s.src.status = .running) :
    GoesOn (execVfma g d a b s) := by
  unfold execVfma fused; exact issue_goes h
theorem execVfms_goes (g : Guard) (d : VField) (a : VField) (b : VField) (s : State) (h : s.src.status = .running) :
    GoesOn (execVfms g d a b s) := by
  unfold execVfms fused; exact issue_goes h
theorem execVnfma_goes (g : Guard) (d : VField) (a : VField) (b : VField) (s : State) (h : s.src.status = .running) :
    GoesOn (execVnfma g d a b s) := by
  unfold execVnfma fused; exact issue_goes h
theorem execVdot_goes (g : Guard) (d : VField) (a : VField) (b : VField) (s : State) (h : s.src.status = .running) :
    GoesOn (execVdot g d a b s) := by
  unfold execVdot; exact issue_goes h
theorem execVdotf_goes (g : Guard) (d : VField) (a : VField) (b : VField) (s : State) (h : s.src.status = .running) :
    GoesOn (execVdotf g d a b s) := by
  unfold execVdotf; exact issue_goes h
theorem execVcmpCc_goes (g : Guard) (c : Fin 7) (d : MReg) (a : VField) (b : VField) (s : State) (h : s.src.status = .running) :
    GoesOn (execVcmpCc g c d a b s) := by
  unfold execVcmpCc; exact issue_goes h
theorem execVredAdd_goes (g : Guard) (d : VField) (a : VField) (s : State) (h : s.src.status = .running) :
    GoesOn (execVredAdd g d a s) := by
  unfold execVredAdd reduce; exact issue_goes h
theorem execVredMin_goes (g : Guard) (d : VField) (a : VField) (s : State) (h : s.src.status = .running) :
    GoesOn (execVredMin g d a s) := by
  unfold execVredMin reduce; exact issue_goes h
theorem execVredMax_goes (g : Guard) (d : VField) (a : VField) (s : State) (h : s.src.status = .running) :
    GoesOn (execVredMax g d a s) := by
  unfold execVredMax reduce; exact issue_goes h
theorem execVscanAdd_goes (g : Guard) (d : VField) (a : VField) (s : State) (h : s.src.status = .running) :
    GoesOn (execVscanAdd g d a s) := by
  unfold execVscanAdd scan; exact issue_goes h
theorem execVscanMin_goes (g : Guard) (d : VField) (a : VField) (s : State) (h : s.src.status = .running) :
    GoesOn (execVscanMin g d a s) := by
  unfold execVscanMin scan; exact issue_goes h
theorem execVscanMax_goes (g : Guard) (d : VField) (a : VField) (s : State) (h : s.src.status = .running) :
    GoesOn (execVscanMax g d a s) := by
  unfold execVscanMax scan; exact issue_goes h
theorem execVperm_goes (g : Guard) (d : VField) (a : VField) (b : VField) (s : State) (h : s.src.status = .running) :
    GoesOn (execVperm g d a b s) := by
  unfold execVperm; exact issue_goes h
theorem execVbcast_goes (g : Guard) (d : VField) (a : GReg) (s : State) (h : s.src.status = .running) :
    GoesOn (execVbcast g d a s) := by
  unfold execVbcast; exact issue_goes h
theorem execVext_goes (g : Guard) (d : GReg) (a : VField) (b : GReg) (s : State) (h : s.src.status = .running) :
    GoesOn (execVext g d a b s) := by
  unfold execVext; exact issue_goes h
theorem execVins_goes (g : Guard) (d : VField) (a : GReg) (b : GReg) (s : State) (h : s.src.status = .running) :
    GoesOn (execVins g d a b s) := by
  unfold execVins; exact issue_goes h
theorem execVrcp_goes (g : Guard) (d : VField) (a : VField) (s : State) (h : s.src.status = .running) :
    GoesOn (execVrcp g d a s) := by
  unfold execVrcp special lanewise1; exact issue_goes h
theorem execVrsq_goes (g : Guard) (d : VField) (a : VField) (s : State) (h : s.src.status = .running) :
    GoesOn (execVrsq g d a s) := by
  unfold execVrsq special lanewise1; exact issue_goes h
theorem execVexp2_goes (g : Guard) (d : VField) (a : VField) (s : State) (h : s.src.status = .running) :
    GoesOn (execVexp2 g d a s) := by
  unfold execVexp2 special lanewise1; exact issue_goes h
theorem execVlog2_goes (g : Guard) (d : VField) (a : VField) (s : State) (h : s.src.status = .running) :
    GoesOn (execVlog2 g d a s) := by
  unfold execVlog2 special lanewise1; exact issue_goes h
theorem execVtanh_goes (g : Guard) (d : VField) (a : VField) (s : State) (h : s.src.status = .running) :
    GoesOn (execVtanh g d a s) := by
  unfold execVtanh special lanewise1; exact issue_goes h
theorem execVsigm_goes (g : Guard) (d : VField) (a : VField) (s : State) (h : s.src.status = .running) :
    GoesOn (execVsigm g d a s) := by
  unfold execVsigm special lanewise1; exact issue_goes h
theorem execVlong_goes (g : Guard) (s : State) (h : s.src.status = .running) :
    GoesOn (execVlong g s) := by
  unfold execVlong; exact issue_goes h
theorem execVshort_goes (g : Guard) (s : State) (h : s.src.status = .running) :
    GoesOn (execVshort g s) := by
  unfold execVshort; exact issue_goes h
theorem execCvtRne_goes (g : Guard) (d : VField) (a : VField) (t : Tag) (s : State) (h : s.src.status = .running) :
    GoesOn (execCvtRne g d a t s) := by
  unfold execCvtRne cvt; exact issue_goes h
theorem execCvtRtz_goes (g : Guard) (d : VField) (a : VField) (t : Tag) (s : State) (h : s.src.status = .running) :
    GoesOn (execCvtRtz g d a t s) := by
  unfold execCvtRtz cvt; exact issue_goes h
theorem execCvtRup_goes (g : Guard) (d : VField) (a : VField) (t : Tag) (s : State) (h : s.src.status = .running) :
    GoesOn (execCvtRup g d a t s) := by
  unfold execCvtRup cvt; exact issue_goes h
theorem execCvtRdn_goes (g : Guard) (d : VField) (a : VField) (t : Tag) (s : State) (h : s.src.status = .running) :
    GoesOn (execCvtRdn g d a t s) := by
  unfold execCvtRdn cvt; exact issue_goes h
theorem execCvtSat_goes (g : Guard) (d : VField) (a : VField) (t : Tag) (s : State) (h : s.src.status = .running) :
    GoesOn (execCvtSat g d a t s) := by
  unfold execCvtSat cvt; exact issue_goes h
theorem execQn4_goes (g : Guard) (d : VField) (a : VField) (b : VField) (s : State) (h : s.src.status = .running) :
    GoesOn (execQn4 g d a b s) := by
  unfold execQn4; exact issue_goes h
theorem execDqn4_goes (g : Guard) (d : VField) (a : VField) (b : VField) (s : State) (h : s.src.status = .running) :
    GoesOn (execDqn4 g d a b s) := by
  unfold execDqn4; exact issue_goes h
theorem execQscale_goes (g : Guard) (d : VField) (a : VField) (b : VField) (s : State) (h : s.src.status = .running) :
    GoesOn (execQscale g d a b s) := by
  unfold execQscale; exact issue_goes h
theorem execTagset_goes (g : Guard) (d : VField) (t : Tag) (s : State) (h : s.src.status = .running) :
    GoesOn (execTagset g d t s) := by
  unfold execTagset; exact issue_goes h
theorem execTagget_goes (g : Guard) (d : GReg) (a : VField) (s : State) (h : s.src.status = .running) :
    GoesOn (execTagget g d a s) := by
  unfold execTagget; exact issue_goes h
theorem execFclass_goes (g : Guard) (d : VField) (a : VField) (s : State) (h : s.src.status = .running) :
    GoesOn (execFclass g d a s) := by
  unfold execFclass; exact issue_goes h
theorem execDraw_goes (g : Guard) (look : Fin 16) (d : GReg) (a : GReg) (b : GReg) (s : State) (h : s.src.status = .running) :
    GoesOn (execDraw g look d a b s) := by
  unfold execDraw blockTransfer; exact issue_goes h
theorem execStow_goes (g : Guard) (look : Fin 16) (d : GReg) (a : GReg) (b : GReg) (s : State) (h : s.src.status = .running) :
    GoesOn (execStow g look d a b s) := by
  unfold execStow blockTransfer; exact issue_goes h
theorem execDraws_goes (g : Guard) (look : Fin 16) (d : GReg) (a : GReg) (b : GReg) (s : State) (h : s.src.status = .running) :
    GoesOn (execDraws g look d a b s) := by
  unfold execDraws blockTransfer; exact issue_goes h
theorem execStows_goes (g : Guard) (look : Fin 16) (d : GReg) (a : GReg) (b : GReg) (s : State) (h : s.src.status = .running) :
    GoesOn (execStows g look d a b s) := by
  unfold execStows blockTransfer; exact issue_goes h
theorem execDrawDw_goes (g : Guard) (look : Fin 16) (d : GReg) (a : GReg) (b : GReg) (ext : BitVec 32) (s : State) (h : s.src.status = .running) :
    GoesOn (execDrawDw g look d a b ext s) := by
  unfold execDrawDw blockTransfer; exact issue_goes h
theorem execStowDw_goes (g : Guard) (look : Fin 16) (d : GReg) (a : GReg) (b : GReg) (ext : BitVec 32) (s : State) (h : s.src.status = .running) :
    GoesOn (execStowDw g look d a b ext s) := by
  unfold execStowDw blockTransfer; exact issue_goes h
theorem execDrawsDw_goes (g : Guard) (look : Fin 16) (d : GReg) (a : GReg) (b : GReg) (ext : BitVec 32) (s : State) (h : s.src.status = .running) :
    GoesOn (execDrawsDw g look d a b ext s) := by
  unfold execDrawsDw blockTransfer; exact issue_goes h
theorem execStowsDw_goes (g : Guard) (look : Fin 16) (d : GReg) (a : GReg) (b : GReg) (ext : BitVec 32) (s : State) (h : s.src.status = .running) :
    GoesOn (execStowsDw g look d a b ext s) := by
  unfold execStowsDw blockTransfer; exact issue_goes h
theorem execDzero_goes (g : Guard) (look : Fin 16) (d : GReg) (b : GReg) (s : State) (h : s.src.status = .running) :
    GoesOn (execDzero g look d b s) := by
  unfold execDzero; exact issue_goes h
theorem execDcopy_goes (g : Guard) (look : Fin 16) (d : GReg) (a : GReg) (b : GReg) (s : State) (h : s.src.status = .running) :
    GoesOn (execDcopy g look d a b s) := by
  unfold execDcopy blockTransfer; exact issue_goes h
theorem execDzeroDw_goes (g : Guard) (look : Fin 16) (d : GReg) (b : GReg) (ext : BitVec 32) (s : State) (h : s.src.status = .running) :
    GoesOn (execDzeroDw g look d b ext s) := by
  unfold execDzeroDw; exact issue_goes h
theorem execDcopyDw_goes (g : Guard) (look : Fin 16) (d : GReg) (a : GReg) (b : GReg) (ext : BitVec 32) (s : State) (h : s.src.status = .running) :
    GoesOn (execDcopyDw g look d a b ext s) := by
  unfold execDcopyDw blockTransfer; exact issue_goes h
theorem execChain_goes (g : Guard) (a : GReg) (b : GReg) (s : State) (h : s.src.status = .running) :
    GoesOn (execChain g a b s) := by
  unfold execChain; exact issue_goes h
theorem execKick_goes (g : Guard) (b : Channel) (s : State) (h : s.src.status = .running) :
    GoesOn (execKick g b s) := by
  unfold execKick; exact issue_goes h
theorem execCwait_goes (g : Guard) (d : CcReg) (a : GReg) (s : State) (h : s.src.status = .running) :
    GoesOn (execCwait g d a s) := by
  unfold execCwait; exact issue_goes h
theorem execCpost_goes (g : Guard) (d : CcReg) (a : GReg) (s : State) (h : s.src.status = .running) :
    GoesOn (execCpost g d a s) := by
  unfold execCpost; exact issue_goes h
theorem execWpwait_goes (g : Guard) (d : WpReg) (a : GReg) (s : State) (h : s.src.status = .running) :
    GoesOn (execWpwait g d a s) := by
  unfold execWpwait; exact issue_goes h
theorem execPublish_goes (g : Guard) (sc : Scope) (a : GReg) (s : State) (h : s.src.status = .running) :
    GoesOn (execPublish g sc a s) := by
  unfold execPublish; exact issue_goes h
theorem execTblset_goes (g : Guard) (a : GReg) (b : GReg) (s : State) (h : s.src.status = .running) :
    GoesOn (execTblset g a b s) := by
  unfold execTblset; exact issue_goes h
theorem execIdhash_goes (g : Guard) (d : GReg) (a : GReg) (b : GReg) (s : State) (h : s.src.status = .running) :
    GoesOn (execIdhash g d a b s) := by
  unfold execIdhash; exact issue_goes h
theorem execRowwait_goes (g : Guard) (a : GReg) (s : State) (h : s.src.status = .running) :
    GoesOn (execRowwait g a s) := by
  unfold execRowwait; exact issue_goes h
theorem execRowacc_goes (g : Guard) (a : GReg) (b : GReg) (s : State) (h : s.src.status = .running) :
    GoesOn (execRowacc g a b s) := by
  unfold execRowacc scatterIssue; exact issue_goes h
theorem execRowset_goes (g : Guard) (a : GReg) (b : GReg) (s : State) (h : s.src.status = .running) :
    GoesOn (execRowset g a b s) := by
  unfold execRowset scatterIssue; exact issue_goes h
theorem execElide_goes (g : Guard) (look : Fin 16) (two : Bool) (d : GReg) (a : GReg) (b : GReg) (s : State) (h : s.src.status = .running) :
    GoesOn (execElide g look two d a b s) := by
  unfold execElide elideIssue; exact issue_goes h
theorem execElidem_goes (g : Guard) (look : Fin 16) (two : Bool) (d : GReg) (a : GReg) (b : GReg) (s : State) (h : s.src.status = .running) :
    GoesOn (execElidem g look two d a b s) := by
  unfold execElidem elideIssue; exact issue_goes h
theorem execRowget_goes (g : Guard) (look : Fin 16) (d : GReg) (a : GReg) (b : GReg) (s : State) (h : s.src.status = .running) :
    GoesOn (execRowget g look d a b s) := by
  unfold execRowget gatherIssue; exact issue_goes h
theorem execRowgetw_goes (g : Guard) (look : Fin 16) (d : GReg) (a : GReg) (b : GReg) (s : State) (h : s.src.status = .running) :
    GoesOn (execRowgetw g look d a b s) := by
  unfold execRowgetw gatherIssue; exact issue_goes h
theorem execRowgetDw_goes (g : Guard) (look : Fin 16) (d : GReg) (a : GReg) (b : GReg) (ext : BitVec 32) (s : State) (h : s.src.status = .running) :
    GoesOn (execRowgetDw g look d a b ext s) := by
  unfold execRowgetDw gatherIssue; exact issue_goes h
theorem execRowgetwDw_goes (g : Guard) (look : Fin 16) (d : GReg) (a : GReg) (b : GReg) (ext : BitVec 32) (s : State) (h : s.src.status = .running) :
    GoesOn (execRowgetwDw g look d a b ext s) := by
  unfold execRowgetwDw gatherIssue; exact issue_goes h
theorem execSegred_goes (g : Guard) (look : Fin 16) (d : GReg) (a : GReg) (b : GReg) (s : State) (h : s.src.status = .running) :
    GoesOn (execSegred g look d a b s) := by
  unfold execSegred segIssue; exact issue_goes h
theorem execSegscat_goes (g : Guard) (look : Fin 16) (d : GReg) (a : GReg) (b : GReg) (s : State) (h : s.src.status = .running) :
    GoesOn (execSegscat g look d a b s) := by
  unfold execSegscat segIssue; exact issue_goes h
theorem execSegredDw_goes (g : Guard) (look : Fin 16) (d : GReg) (a : GReg) (b : GReg) (ext : BitVec 32) (s : State) (h : s.src.status = .running) :
    GoesOn (execSegredDw g look d a b ext s) := by
  unfold execSegredDw segIssue; exact issue_goes h
theorem execSegscatDw_goes (g : Guard) (look : Fin 16) (d : GReg) (a : GReg) (b : GReg) (ext : BitVec 32) (s : State) (h : s.src.status = .running) :
    GoesOn (execSegscatDw g look d a b ext s) := by
  unfold execSegscatDw segIssue; exact issue_goes h
theorem execAmoAddW_goes (g : Guard) (look : Fin 16) (d : GReg) (a : GReg) (b : GReg) (s : State) (h : s.src.status = .running) :
    GoesOn (execAmoAddW g look d a b s) := by
  unfold execAmoAddW amo; exact issue_goes h
theorem execAmoAddD_goes (g : Guard) (look : Fin 16) (d : GReg) (a : GReg) (b : GReg) (s : State) (h : s.src.status = .running) :
    GoesOn (execAmoAddD g look d a b s) := by
  unfold execAmoAddD amo; exact issue_goes h
theorem execAmoAddDw_goes (g : Guard) (look : Fin 16) (dbl : Bool) (d : GReg) (a : GReg) (b : GReg) (s : State) (h : s.src.status = .running) :
    GoesOn (execAmoAddDw g look dbl d a b s) := by
  unfold execAmoAddDw amo; exact issue_goes h
theorem execAmoAnd_goes (g : Guard) (look : Fin 16) (dbl : Bool) (d : GReg) (a : GReg) (b : GReg) (s : State) (h : s.src.status = .running) :
    GoesOn (execAmoAnd g look dbl d a b s) := by
  unfold execAmoAnd amo; exact issue_goes h
theorem execAmoOr_goes (g : Guard) (look : Fin 16) (dbl : Bool) (d : GReg) (a : GReg) (b : GReg) (s : State) (h : s.src.status = .running) :
    GoesOn (execAmoOr g look dbl d a b s) := by
  unfold execAmoOr amo; exact issue_goes h
theorem execAmoXor_goes (g : Guard) (look : Fin 16) (dbl : Bool) (d : GReg) (a : GReg) (b : GReg) (s : State) (h : s.src.status = .running) :
    GoesOn (execAmoXor g look dbl d a b s) := by
  unfold execAmoXor amo; exact issue_goes h
theorem execAmoMin_goes (g : Guard) (look : Fin 16) (dbl : Bool) (d : GReg) (a : GReg) (b : GReg) (s : State) (h : s.src.status = .running) :
    GoesOn (execAmoMin g look dbl d a b s) := by
  unfold execAmoMin amo; exact issue_goes h
theorem execAmoMax_goes (g : Guard) (look : Fin 16) (dbl : Bool) (d : GReg) (a : GReg) (b : GReg) (s : State) (h : s.src.status = .running) :
    GoesOn (execAmoMax g look dbl d a b s) := by
  unfold execAmoMax amo; exact issue_goes h
theorem execAmoMinz_goes (g : Guard) (look : Fin 16) (dbl : Bool) (d : GReg) (a : GReg) (b : GReg) (s : State) (h : s.src.status = .running) :
    GoesOn (execAmoMinz g look dbl d a b s) := by
  unfold execAmoMinz amo; exact issue_goes h
theorem execAmoMaxz_goes (g : Guard) (look : Fin 16) (dbl : Bool) (d : GReg) (a : GReg) (b : GReg) (s : State) (h : s.src.status = .running) :
    GoesOn (execAmoMaxz g look dbl d a b s) := by
  unfold execAmoMaxz amo; exact issue_goes h
theorem execAmoSwap_goes (g : Guard) (look : Fin 16) (dbl : Bool) (d : GReg) (a : GReg) (b : GReg) (s : State) (h : s.src.status = .running) :
    GoesOn (execAmoSwap g look dbl d a b s) := by
  unfold execAmoSwap amo; exact issue_goes h
theorem execCasW_goes (g : Guard) (look : Fin 16) (two : Bool) (d : GReg) (a : GReg) (b : GReg) (s : State) (h : s.src.status = .running) :
    GoesOn (execCasW g look two d a b s) := by
  unfold execCasW cas; exact issue_goes h
theorem execCasD_goes (g : Guard) (look : Fin 16) (two : Bool) (d : GReg) (a : GReg) (b : GReg) (s : State) (h : s.src.status = .running) :
    GoesOn (execCasD g look two d a b s) := by
  unfold execCasD cas; exact issue_goes h
theorem execAccF32_goes (g : Guard) (a : GReg) (b : GReg) (s : State) (h : s.src.status = .running) :
    GoesOn (execAccF32 g a b s) := by
  unfold execAccF32 accIssue; exact issue_goes h
theorem execAccBf16_goes (g : Guard) (a : GReg) (b : GReg) (s : State) (h : s.src.status = .running) :
    GoesOn (execAccBf16 g a b s) := by
  unfold execAccBf16 accIssue; exact issue_goes h
theorem execAccF64_goes (g : Guard) (a : GReg) (b : GReg) (s : State) (h : s.src.status = .running) :
    GoesOn (execAccF64 g a b s) := by
  unfold execAccF64 accIssue; exact issue_goes h
theorem execFold_goes (g : Guard) (a : GReg) (s : State) (h : s.src.status = .running) :
    GoesOn (execFold g a s) := by
  unfold execFold; exact issue_goes h
theorem execRecvred_goes (g : Guard) (look : Fin 16) (two : Bool) (d : GReg) (a : GReg) (b : GReg) (s : State) (h : s.src.status = .running) :
    GoesOn (execRecvred g look two d a b s) := by
  unfold execRecvred; exact issue_goes h
theorem execFence_goes (g : Guard) (sc : Scope) (s : State) (h : s.src.status = .running) :
    GoesOn (execFence g sc s) := by
  unfold execFence; exact issue_goes h
theorem execBjoin_goes (g : Guard) (a : GReg) (s : State) (h : s.src.status = .running) :
    GoesOn (execBjoin g a s) := by
  unfold execBjoin; exact issue_goes h
theorem execBarr_goes (g : Guard) (a : GReg) (s : State) (h : s.src.status = .running) :
    GoesOn (execBarr g a s) := by
  unfold execBarr; exact issue_goes h
theorem execBwait_goes (g : Guard) (a : GReg) (s : State) (h : s.src.status = .running) :
    GoesOn (execBwait g a s) := by
  unfold execBwait; exact issue_goes h
theorem execBarrw_goes (g : Guard) (a : GReg) (s : State) (h : s.src.status = .running) :
    GoesOn (execBarrw g a s) := by
  unfold execBarrw; exact issue_goes h
theorem execBexp_goes (g : Guard) (a : GReg) (b : GReg) (s : State) (h : s.src.status = .running) :
    GoesOn (execBexp g a b s) := by
  unfold execBexp; exact issue_goes h
theorem execBmiss_goes (g : Guard) (d : GReg) (a : GReg) (s : State) (h : s.src.status = .running) :
    GoesOn (execBmiss g d a s) := by
  unfold execBmiss; exact issue_goes h
theorem execSend_goes (g : Guard) (a : GReg) (b : GReg) (s : State) (h : s.src.status = .running) :
    GoesOn (execSend g a b s) := by
  unfold execSend; exact issue_goes h
theorem execSendl_goes (g : Guard) (a : GReg) (b : GReg) (s : State) (h : s.src.status = .running) :
    GoesOn (execSendl g a b s) := by
  unfold execSendl; exact issue_goes h
theorem execRecv_goes (g : Guard) (d : GReg) (a : GReg) (s : State) (h : s.src.status = .running) :
    GoesOn (execRecv g d a s) := by
  unfold execRecv; exact issue_goes h
theorem execRpeek_goes (g : Guard) (d : GReg) (s : State) (h : s.src.status = .running) :
    GoesOn (execRpeek g d s) := by
  unfold execRpeek; exact issue_goes h
theorem execRqset_goes (g : Guard) (a : GReg) (b : GReg) (s : State) (h : s.src.status = .running) :
    GoesOn (execRqset g a b s) := by
  unfold execRqset; exact issue_goes h
theorem execResume_goes (g : Guard) (a : GReg) (b : GReg) (s : State) (h : s.src.status = .running) :
    GoesOn (execResume g a b s) := by
  unfold execResume; exact issue_goes h
theorem execRget_goes (g : Guard) (look : Fin 16) (d : GReg) (a : GReg) (b : GReg) (s : State) (h : s.src.status = .running) :
    GoesOn (execRget g look d a b s) := by
  unfold execRget remoteGet; exact issue_goes h
theorem execRsto_goes (g : Guard) (look : Fin 16) (d : GReg) (a : GReg) (b : GReg) (s : State) (h : s.src.status = .running) :
    GoesOn (execRsto g look d a b s) := by
  unfold execRsto remotePut; exact issue_goes h
theorem execRgetDw_goes (g : Guard) (look : Fin 16) (d : GReg) (a : GReg) (b : GReg) (ext : BitVec 32) (s : State) (h : s.src.status = .running) :
    GoesOn (execRgetDw g look d a b ext s) := by
  unfold execRgetDw remoteGet; exact issue_goes h
theorem execRstoDw_goes (g : Guard) (look : Fin 16) (d : GReg) (a : GReg) (b : GReg) (ext : BitVec 32) (s : State) (h : s.src.status = .running) :
    GoesOn (execRstoDw g look d a b ext s) := by
  unfold execRstoDw remotePut; exact issue_goes h
theorem execQpush_goes (g : Guard) (a : GReg) (b : GReg) (s : State) (h : s.src.status = .running) :
    GoesOn (execQpush g a b s) := by
  unfold execQpush; exact issue_goes h
theorem execQpop_goes (g : Guard) (d : GReg) (a : GReg) (s : State) (h : s.src.status = .running) :
    GoesOn (execQpop g d a s) := by
  unfold execQpop; exact issue_goes h
theorem execWqringWrite_goes (g : Guard) (n : Fin 8) (a : GReg) (s : State) (h : s.src.status = .running) :
    GoesOn (execWqringWrite g n a s) := by
  unfold execWqringWrite; exact issue_goes h
theorem execExit_goes (g : Guard) (a : GReg) (s : State) (h : s.src.status = .running) :
    GoesOn (execExit g a s) := by
  unfold execExit; exact issue_goes h
theorem execDetach_goes (g : Guard) (s : State) (h : s.src.status = .running) :
    GoesOn (execDetach g s) := by
  unfold execDetach; exact issue_goes h
theorem execTeamid_goes (g : Guard) (d : GReg) (s : State) (h : s.src.status = .running) :
    GoesOn (execTeamid g d s) := by
  unfold execTeamid; exact issue_goes h
theorem execYield_goes (g : Guard) (s : State) (h : s.src.status = .running) :
    GoesOn (execYield g s) := by
  unfold execYield; exact issue_goes h
theorem execWld_goes (g : Guard) (look : Fin 16) (d : GReg) (a : GReg) (b : GReg) (s : State) (h : s.src.status = .running) :
    GoesOn (execWld g look d a b s) := by
  unfold execWld remoteGet; exact issue_goes h
theorem execWst_goes (g : Guard) (look : Fin 16) (d : GReg) (a : GReg) (b : GReg) (s : State) (h : s.src.status = .running) :
    GoesOn (execWst g look d a b s) := by
  unfold execWst remotePut; exact issue_goes h
theorem execWldDw_goes (g : Guard) (look : Fin 16) (d : GReg) (a : GReg) (b : GReg) (ext : BitVec 32) (s : State) (h : s.src.status = .running) :
    GoesOn (execWldDw g look d a b ext s) := by
  unfold execWldDw remoteGet; exact issue_goes h
theorem execWstDw_goes (g : Guard) (look : Fin 16) (d : GReg) (a : GReg) (b : GReg) (ext : BitVec 32) (s : State) (h : s.src.status = .running) :
    GoesOn (execWstDw g look d a b ext s) := by
  unfold execWstDw remotePut; exact issue_goes h
theorem execHseed_goes (g : Guard) (a : GReg) (b : GReg) (s : State) (h : s.src.status = .running) :
    GoesOn (execHseed g a b s) := by
  unfold execHseed; exact issue_goes h
theorem execGain_goes (g : Guard) (a : GReg) (b : GReg) (s : State) (h : s.src.status = .running) :
    GoesOn (execGain g a b s) := by
  unfold execGain; exact issue_goes h
theorem execDone_goes (g : Guard) (a : GReg) (s : State) (h : s.src.status = .running) :
    GoesOn (execDone g a s) := by
  unfold execDone; exact issue_goes h
theorem execResid_goes (g : Guard) (d : GReg) (s : State) (h : s.src.status = .running) :
    GoesOn (execResid g d s) := by
  unfold execResid; exact issue_goes h
theorem execHpeek_goes (g : Guard) (d : GReg) (s : State) (h : s.src.status = .running) :
    GoesOn (execHpeek g d s) := by
  unfold execHpeek; exact issue_goes h
theorem execHcount_goes (g : Guard) (d : GReg) (s : State) (h : s.src.status = .running) :
    GoesOn (execHcount g d s) := by
  unfold execHcount; exact issue_goes h
theorem execTake_goes (g : Guard) (look : Fin 16) (two : Bool) (d : GReg) (a : GReg) (b : GReg) (s : State) (h : s.src.status = .running) :
    GoesOn (execTake g look two d a b s) := by
  unfold execTake; exact issue_goes h
theorem execLexld_goes (g : Guard) (a : GReg) (b : GReg) (s : State) (h : s.src.status = .running) :
    GoesOn (execLexld g a b s) := by
  unfold execLexld; exact issue_goes h
theorem execMldb_goes (g : Guard) (a : GReg) (b : GReg) (s : State) (h : s.src.status = .running) :
    GoesOn (execMldb g a b s) := by
  unfold execMldb; exact issue_goes h
theorem execMacc_goes (g : Guard) (a : GReg) (b : GReg) (s : State) (h : s.src.status = .running) :
    GoesOn (execMacc g a b s) := by
  unfold execMacc; exact issue_goes h
theorem execMrd_goes (g : Guard) (d : GReg) (a : GReg) (s : State) (h : s.src.status = .running) :
    GoesOn (execMrd g d a s) := by
  unfold execMrd; exact issue_goes h
theorem execInfl_goes (g : Guard) (a : GReg) (b : GReg) (s : State) (h : s.src.status = .running) :
    GoesOn (execInfl g a b s) := by
  unfold execInfl; exact issue_goes h
theorem execMwait_goes (g : Guard) (a : GReg) (s : State) (h : s.src.status = .running) :
    GoesOn (execMwait g a s) := by
  unfold execMwait; exact issue_goes h
theorem execMma_goes (g : Guard) (look : Fin 16) (d : GReg) (a : GReg) (b : GReg) (s : State) (h : s.src.status = .running) :
    GoesOn (execMma g look d a b s) := by
  unfold execMma; exact issue_goes h
theorem execMgath_goes (g : Guard) (look : Fin 16) (d : GReg) (a : GReg) (b : GReg) (s : State) (h : s.src.status = .running) :
    GoesOn (execMgath g look d a b s) := by
  unfold execMgath; exact issue_goes h
theorem execAffixI_goes (t : Fin 64) (f : Fin 64) (x : BitVec 16) (s : State) (h : s.src.status = .running) :
    GoesOn (execAffixI t f x s) := by
  unfold execAffixI affix; exact issue_goes h
theorem execAffixK_goes (t : Fin 64) (f : Fin 64) (x : BitVec 16) (s : State) (h : s.src.status = .running) :
    GoesOn (execAffixK t f x s) := by
  unfold execAffixK affix; exact issue_goes h
theorem execAffixS_goes (t : Fin 64) (f : Fin 64) (x : BitVec 16) (s : State) (h : s.src.status = .running) :
    GoesOn (execAffixS t f x s) := by
  unfold execAffixS affix; exact issue_goes h
theorem execMfs_goes (g : Guard) (d : GReg) (r : BitVec 10) (s : State) (h : s.src.status = .running) :
    GoesOn (execMfs g d r s) := by
  unfold execMfs; exact issue_goes h
theorem execMts_goes (g : Guard) (a : GReg) (r : BitVec 10) (s : State) (h : s.src.status = .running) :
    GoesOn (execMts g a r s) := by
  unfold execMts; exact issue_goes h
theorem execPubSlotWrite_goes (g : Guard) (n : Fin 4) (a : GReg) (s : State) (h : s.src.status = .running) :
    GoesOn (execPubSlotWrite g n a s) := by
  unfold execPubSlotWrite; exact issue_goes h
theorem execAccrWrite_goes (g : Guard) (a : GReg) (s : State) (h : s.src.status = .running) :
    GoesOn (execAccrWrite g a s) := by
  unfold execAccrWrite; exact issue_goes h
theorem execIcinvWrite_goes (g : Guard) (a : GReg) (s : State) (h : s.src.status = .running) :
    GoesOn (execIcinvWrite g a s) := by
  unfold execIcinvWrite; exact issue_goes h
theorem execAsgpartWrite_goes (g : Guard) (a : GReg) (s : State) (h : s.src.status = .running) :
    GoesOn (execAsgpartWrite g a s) := by
  unfold execAsgpartWrite; exact issue_goes h
theorem execTrap_goes (g : Guard) (b : Fin 32) (s : State) (h : s.src.status = .running) :
    GoesOn (execTrap g b s) := by
  unfold execTrap; exact issue_goes h
theorem execRett_goes (g : Guard) (s : State) (h : s.src.status = .running) :
    GoesOn (execRett g s) := by
  unfold execRett; exact issue_goes h
theorem execHalt_goes (g : Guard) (s : State) (h : s.src.status = .running) :
    GoesOn (execHalt g s) := by
  unfold execHalt; exact issue_goes h
theorem execCtxsvStop_goes (g : Guard) (a : GReg) (s : State) (h : s.src.status = .running) :
    GoesOn (execCtxsvStop g a s) := by
  unfold execCtxsvStop contextIssue; exact issue_goes h
theorem execCtxldLoad_goes (g : Guard) (a : GReg) (s : State) (h : s.src.status = .running) :
    GoesOn (execCtxldLoad g a s) := by
  unfold execCtxldLoad contextIssue; exact issue_goes h
theorem execBrk_goes (g : Guard) (s : State) (h : s.src.status = .running) :
    GoesOn (execBrk g s) := by
  unfold execBrk; exact issue_goes h
theorem execTimens_goes (g : Guard) (d : GReg) (s : State) (h : s.src.status = .running) :
    GoesOn (execTimens g d s) := by
  unfold execTimens; exact issue_goes h
theorem execSleep_goes (g : Guard) (a : GReg) (s : State) (h : s.src.status = .running) :
    GoesOn (execSleep g a s) := by
  unfold execSleep; exact issue_goes h
theorem execSleepm_goes (g : Guard) (a : GReg) (s : State) (h : s.src.status = .running) :
    GoesOn (execSleepm g a s) := by
  unfold execSleepm; exact issue_goes h
theorem execPerf_goes (g : Guard) (d : GReg) (a : GReg) (s : State) (h : s.src.status = .running) :
    GoesOn (execPerf g d a s) := by
  unfold execPerf; exact issue_goes h
theorem execTrace_goes (g : Guard) (a : GReg) (s : State) (h : s.src.status = .running) :
    GoesOn (execTrace g a s) := by
  unfold execTrace; exact issue_goes h
theorem execTlbinvComplete_goes (tid : Nat) (s : State) :
    GoesOn (execTlbinvComplete tid s) := by
  unfold execTlbinvComplete; repeat' first | exact goes_next _ | refine goes_ite ?_ ?_ | split | dsimp only
theorem execCwaitSatisfied_goes (tid : Nat) (s : State) :
    GoesOn (execCwaitSatisfied tid s) := by
  unfold execCwaitSatisfied; repeat' first | exact goes_next _ | refine goes_ite ?_ ?_ | split | dsimp only
theorem execWpwaitSatisfied_goes (tid : Nat) (s : State) :
    GoesOn (execWpwaitSatisfied tid s) := by
  unfold execWpwaitSatisfied; repeat' first | exact goes_next _ | refine goes_ite ?_ ?_ | split | dsimp only
theorem execPublishToggle_goes (tid : Nat) (s : State) :
    GoesOn (execPublishToggle tid s) := by
  unfold execPublishToggle; repeat' first | exact goes_next _ | refine goes_ite ?_ ?_ | split | dsimp only
theorem execChannelEntryStart_goes (core : Nat) (ch : Nat) (s : State) :
    GoesOn (execChannelEntryStart core ch s) := by
  unfold execChannelEntryStart; repeat' first | exact goes_next _ | refine goes_ite ?_ ?_ | split | dsimp only
theorem execChainEntryStep_goes (core : Nat) (ch : Nat) (s : State) :
    GoesOn (execChainEntryStep core ch s) := by
  unfold execChainEntryStep; repeat' first | exact goes_next _ | refine goes_ite ?_ ?_ | split | dsimp only
theorem execOperationPacket_goes (core : Nat) (ch : Nat) (s : State) :
    GoesOn (execOperationPacket core ch s) := by
  unfold execOperationPacket; repeat' first | exact goes_next _ | refine goes_ite ?_ ?_ | split | dsimp only
theorem execDramRequestAccept_goes (core : Nat) (ch : Nat) (s : State) :
    GoesOn (execDramRequestAccept core ch s) := by
  unfold execDramRequestAccept; repeat' first | exact goes_next _ | refine goes_ite ?_ ?_ | split | dsimp only
theorem execOwnershipDecision_goes (quad : Nat) (pa : Nat) (s : State) :
    GoesOn (execOwnershipDecision quad pa s) := by
  unfold execOwnershipDecision; repeat' first | exact goes_next _ | refine goes_ite ?_ ?_ | split | dsimp only
theorem execClusterCacheEviction_goes (quad : Nat) (line : Nat) (s : State) :
    GoesOn (execClusterCacheEviction quad line s) := by
  unfold execClusterCacheEviction; repeat' first | exact goes_next _ | refine goes_ite ?_ ?_ | split | dsimp only
theorem execEntryComplete_goes (core : Nat) (ch : Nat) (s : State) :
    GoesOn (execEntryComplete core ch s) := by
  unfold execEntryComplete; repeat' first | exact goes_next _ | refine goes_ite ?_ ?_ | split | dsimp only
theorem execRemoteBumpArrival_goes (id : Nat) (s : State) :
    GoesOn (execRemoteBumpArrival id s) := by
  unfold execRemoteBumpArrival; repeat' first | exact goes_next _ | refine goes_ite ?_ ?_ | split | dsimp only
theorem execChannelFault_goes (core : Nat) (ch : Nat) (cause : Cause) (sub : Nat) (addr : Nat) (s : State) :
    GoesOn (execChannelFault core ch cause sub addr s) := by
  unfold execChannelFault; repeat' first | exact goes_next _ | refine goes_ite ?_ ?_ | split | dsimp only
theorem execChstFaultResume_goes (core : Nat) (ch : Nat) (s : State) :
    GoesOn (execChstFaultResume core ch s) := by
  unfold execChstFaultResume; repeat' first | exact goes_next _ | refine goes_ite ?_ ?_ | split | dsimp only
theorem execChstAbort_goes (core : Nat) (ch : Nat) (s : State) :
    GoesOn (execChstAbort core ch s) := by
  unfold execChstAbort; repeat' first | exact goes_next _ | refine goes_ite ?_ ?_ | split | dsimp only
theorem execRowCommandPiece_goes (core : Nat) (ch : Nat) (s : State) :
    GoesOn (execRowCommandPiece core ch s) := by
  unfold execRowCommandPiece; repeat' first | exact goes_next _ | refine goes_ite ?_ ?_ | split | dsimp only
theorem execLandingPacket_goes (core : Nat) (ch : Nat) (s : State) :
    GoesOn (execLandingPacket core ch s) := by
  unfold execLandingPacket; repeat' first | exact goes_next _ | refine goes_ite ?_ ?_ | split | dsimp only
theorem execPageWalkRead_goes (id : Nat) (s : State) :
    GoesOn (execPageWalkRead id s) := by
  unfold execPageWalkRead; repeat' first | exact goes_next _ | refine goes_ite ?_ ?_ | split | dsimp only
theorem execHotPageEpoch_goes (chan : Nat) (s : State) :
    GoesOn (execHotPageEpoch chan s) := by
  unfold execHotPageEpoch; repeat' first | exact goes_next _ | refine goes_ite ?_ ?_ | split | dsimp only
theorem execPoolScrub_goes (core : Nat) (word : Nat) (s : State) :
    GoesOn (execPoolScrub core word s) := by
  unfold execPoolScrub; repeat' first | exact goes_next _ | refine goes_ite ?_ ?_ | split | dsimp only
theorem execFetchMissFill_goes (quad : Nat) (line : Nat) (s : State) :
    GoesOn (execFetchMissFill quad line s) := by
  unfold execFetchMissFill; repeat' first | exact goes_next _ | refine goes_ite ?_ ?_ | split | dsimp only
theorem execTblsetComplete_goes (tid : Nat) (s : State) :
    GoesOn (execTblsetComplete tid s) := by
  unfold execTblsetComplete; repeat' first | exact goes_next _ | refine goes_ite ?_ ?_ | split | dsimp only
theorem execRowwaitSatisfied_goes (tid : Nat) (s : State) :
    GoesOn (execRowwaitSatisfied tid s) := by
  unfold execRowwaitSatisfied; repeat' first | exact goes_next _ | refine goes_ite ?_ ?_ | split | dsimp only
theorem execElisionComplete_goes (id : Nat) (s : State) :
    GoesOn (execElisionComplete id s) := by
  unfold execElisionComplete; repeat' first | exact goes_next _ | refine goes_ite ?_ ?_ | split | dsimp only
theorem execLookupOpStart_goes (id : Nat) (s : State) :
    GoesOn (execLookupOpStart id s) := by
  unfold execLookupOpStart; repeat' first | exact goes_next _ | refine goes_ite ?_ ?_ | split | dsimp only
theorem execRowRequestMerge_goes (id : Nat) (row : Nat) (id2 : Nat) (row2 : Nat) (s : State) :
    GoesOn (execRowRequestMerge id row id2 row2 s) := by
  unfold execRowRequestMerge; repeat' first | exact goes_next _ | refine goes_ite ?_ ?_ | split | dsimp only
theorem execRowRequestServe_goes (id : Nat) (row : Nat) (s : State) :
    GoesOn (execRowRequestServe id row s) := by
  unfold execRowRequestServe; repeat' first | exact goes_next _ | refine goes_ite ?_ ?_ | split | dsimp only
theorem execRowRead_goes (id : Nat) (row : Nat) (s : State) :
    GoesOn (execRowRead id row s) := by
  unfold execRowRead; repeat' first | exact goes_next _ | refine goes_ite ?_ ?_ | split | dsimp only
theorem execRowAccumulate_goes (id : Nat) (row : Nat) (s : State) :
    GoesOn (execRowAccumulate id row s) := by
  unfold execRowAccumulate; repeat' first | exact goes_next _ | refine goes_ite ?_ ?_ | split | dsimp only
theorem execRowStore_goes (id : Nat) (row : Nat) (s : State) :
    GoesOn (execRowStore id row s) := by
  unfold execRowStore; repeat' first | exact goes_next _ | refine goes_ite ?_ ?_ | split | dsimp only
theorem execRowReplyLand_goes (id : Nat) (row : Nat) (s : State) :
    GoesOn (execRowReplyLand id row s) := by
  unfold execRowReplyLand; repeat' first | exact goes_next _ | refine goes_ite ?_ ?_ | split | dsimp only
theorem execLookupOpComplete_goes (id : Nat) (s : State) :
    GoesOn (execLookupOpComplete id s) := by
  unfold execLookupOpComplete; repeat' first | exact goes_next _ | refine goes_ite ?_ ?_ | split | dsimp only
theorem execLookupOpFault_goes (id : Nat) (cause : Cause) (sub : Nat) (addr : Nat) (s : State) :
    GoesOn (execLookupOpFault id cause sub addr s) := by
  unfold execLookupOpFault; repeat' first | exact goes_next _ | refine goes_ite ?_ ?_ | split | dsimp only
theorem execAtomicExecute_goes (id : Nat) (s : State) :
    GoesOn (execAtomicExecute id s) := by
  unfold execAtomicExecute; repeat' first | exact goes_next _ | refine goes_ite ?_ ?_ | split | dsimp only
theorem execAmoCombine_goes (id : Nat) (id2 : Nat) (s : State) :
    GoesOn (execAmoCombine id id2 s) := by
  unfold execAmoCombine; repeat' first | exact goes_next _ | refine goes_ite ?_ ?_ | split | dsimp only
theorem execAtomicFaultReply_goes (id : Nat) (s : State) :
    GoesOn (execAtomicFaultReply id s) := by
  unfold execAtomicFaultReply; repeat' first | exact goes_next _ | refine goes_ite ?_ ?_ | split | dsimp only
theorem execAccArrival_goes (id : Nat) (s : State) :
    GoesOn (execAccArrival id s) := by
  unfold execAccArrival; repeat' first | exact goes_next _ | refine goes_ite ?_ ?_ | split | dsimp only
theorem execFoldArrival_goes (id : Nat) (s : State) :
    GoesOn (execFoldArrival id s) := by
  unfold execFoldArrival; repeat' first | exact goes_next _ | refine goes_ite ?_ ?_ | split | dsimp only
theorem execRecvredMessage_goes (tid : Nat) (s : State) :
    GoesOn (execRecvredMessage tid s) := by
  unfold execRecvredMessage; repeat' first | exact goes_next _ | refine goes_ite ?_ ?_ | split | dsimp only
theorem execFenceComplete_goes (tid : Nat) (s : State) :
    GoesOn (execFenceComplete tid s) := by
  unfold execFenceComplete; repeat' first | exact goes_next _ | refine goes_ite ?_ ?_ | split | dsimp only
theorem execBarrierArrival_goes (tid : Nat) (s : State) :
    GoesOn (execBarrierArrival tid s) := by
  unfold execBarrierArrival; repeat' first | exact goes_next _ | refine goes_ite ?_ ?_ | split | dsimp only
theorem execByteDelivery_goes (quad : Nat) (obj : Nat) (n : Nat) (s : State) :
    GoesOn (execByteDelivery quad obj n s) := by
  unfold execByteDelivery; repeat' first | exact goes_next _ | refine goes_ite ?_ ?_ | split | dsimp only
theorem execBwaitReturn_goes (tid : Nat) (s : State) :
    GoesOn (execBwaitReturn tid s) := by
  unfold execBwaitReturn; repeat' first | exact goes_next _ | refine goes_ite ?_ ?_ | split | dsimp only
theorem execRecvTake_goes (tid : Nat) (s : State) :
    GoesOn (execRecvTake tid s) := by
  unfold execRecvTake; repeat' first | exact goes_next _ | refine goes_ite ?_ ?_ | split | dsimp only
theorem execResumeArrival_goes (id : Nat) (s : State) :
    GoesOn (execResumeArrival id s) := by
  unfold execResumeArrival; repeat' first | exact goes_next _ | refine goes_ite ?_ ?_ | split | dsimp only
theorem execMessageArrival_goes (id : Nat) (s : State) :
    GoesOn (execMessageArrival id s) := by
  unfold execMessageArrival; repeat' first | exact goes_next _ | refine goes_ite ?_ ?_ | split | dsimp only
theorem execRetryTimer_goes (core : Nat) (stream : Nat) (s : State) :
    GoesOn (execRetryTimer core stream s) := by
  unfold execRetryTimer; repeat' first | exact goes_next _ | refine goes_ite ?_ ?_ | split | dsimp only
theorem execRemoteRequestArrival_goes (id : Nat) (s : State) :
    GoesOn (execRemoteRequestArrival id s) := by
  unfold execRemoteRequestArrival; repeat' first | exact goes_next _ | refine goes_ite ?_ ?_ | split | dsimp only
theorem execRemoteReply_goes (id : Nat) (s : State) :
    GoesOn (execRemoteReply id s) := by
  unfold execRemoteReply; repeat' first | exact goes_next _ | refine goes_ite ?_ ?_ | split | dsimp only
theorem execRefusalReturn_goes (id : Nat) (s : State) :
    GoesOn (execRefusalReturn id s) := by
  unfold execRefusalReturn; repeat' first | exact goes_next _ | refine goes_ite ?_ ?_ | split | dsimp only
theorem execFlitReceive_goes (link : Nat) (seq : Nat) (crcOk : Bool) (s : State) :
    GoesOn (execFlitReceive link seq crcOk s) := by
  unfold execFlitReceive; repeat' first | exact goes_next _ | refine goes_ite ?_ ?_ | split | dsimp only
theorem execReplayRequest_goes (link : Nat) (seq : Nat) (s : State) :
    GoesOn (execReplayRequest link seq s) := by
  unfold execReplayRequest; repeat' first | exact goes_next _ | refine goes_ite ?_ ?_ | split | dsimp only
theorem execLinkDown_goes (link : Nat) (s : State) :
    GoesOn (execLinkDown link s) := by
  unfold execLinkDown; repeat' first | exact goes_next _ | refine goes_ite ?_ ?_ | split | dsimp only
theorem execQueueRefill_goes (quad : Nat) (n : Nat) (s : State) :
    GoesOn (execQueueRefill quad n s) := by
  unfold execQueueRefill; repeat' first | exact goes_next _ | refine goes_ite ?_ ?_ | split | dsimp only
theorem execExitDrainDone_goes (tid : Nat) (s : State) :
    GoesOn (execExitDrainDone tid s) := by
  unfold execExitDrainDone; repeat' first | exact goes_next _ | refine goes_ite ?_ ?_ | split | dsimp only
theorem execWindowDepart_goes (launch : Nat) (s : State) :
    GoesOn (execWindowDepart launch s) := by
  unfold execWindowDepart; repeat' first | exact goes_next _ | refine goes_ite ?_ ?_ | split | dsimp only
theorem execDetachStep_goes (tid : Nat) (s : State) :
    GoesOn (execDetachStep tid s) := by
  unfold execDetachStep; repeat' first | exact goes_next _ | refine goes_ite ?_ ?_ | split | dsimp only
theorem execHseedEntryRead_goes (tid : Nat) (s : State) :
    GoesOn (execHseedEntryRead tid s) := by
  unfold execHseedEntryRead; repeat' first | exact goes_next _ | refine goes_ite ?_ ?_ | split | dsimp only
theorem execGainApply_goes (id : Nat) (s : State) :
    GoesOn (execGainApply id s) := by
  unfold execGainApply; repeat' first | exact goes_next _ | refine goes_ite ?_ ?_ | split | dsimp only
theorem execDoneApply_goes (tid : Nat) (s : State) :
    GoesOn (execDoneApply tid s) := by
  unfold execDoneApply; repeat' first | exact goes_next _ | refine goes_ite ?_ ?_ | split | dsimp only
theorem execTakeWake_goes (tid : Nat) (s : State) :
    GoesOn (execTakeWake tid s) := by
  unfold execTakeWake; repeat' first | exact goes_next _ | refine goes_ite ?_ ?_ | split | dsimp only
theorem execHeapMaxRefresh_goes (launch : Nat) (s : State) :
    GoesOn (execHeapMaxRefresh launch s) := by
  unfold execHeapMaxRefresh; repeat' first | exact goes_next _ | refine goes_ite ?_ ?_ | split | dsimp only
theorem execHeapSteal_goes (tid : Nat) (s : State) :
    GoesOn (execHeapSteal tid s) := by
  unfold execHeapSteal; repeat' first | exact goes_next _ | refine goes_ite ?_ ?_ | split | dsimp only
theorem execMwaitSatisfied_goes (tid : Nat) (s : State) :
    GoesOn (execMwaitSatisfied tid s) := by
  unfold execMwaitSatisfied; repeat' first | exact goes_next _ | refine goes_ite ?_ ?_ | split | dsimp only
theorem execMatrixEntryStart_goes (core : Nat) (idx : Nat) (s : State) :
    GoesOn (execMatrixEntryStart core idx s) := by
  unfold execMatrixEntryStart; repeat' first | exact goes_next _ | refine goes_ite ?_ ?_ | split | dsimp only
theorem execMatrixEntryComplete_goes (core : Nat) (idx : Nat) (s : State) :
    GoesOn (execMatrixEntryComplete core idx s) := by
  unfold execMatrixEntryComplete; repeat' first | exact goes_next _ | refine goes_ite ?_ ?_ | split | dsimp only
theorem execMatrixEntryFault_goes (core : Nat) (row : Nat) (addr : Nat) (s : State) :
    GoesOn (execMatrixEntryFault core row addr s) := by
  unfold execMatrixEntryFault; repeat' first | exact goes_next _ | refine goes_ite ?_ ?_ | split | dsimp only
theorem execHaltselRun_goes (module : Nat) (part : Nat) (s : State) :
    GoesOn (execHaltselRun module part s) := by
  unfold execHaltselRun; repeat' first | exact goes_next _ | refine goes_ite ?_ ?_ | split | dsimp only
theorem execHaltRecords_goes (module : Nat) (part : Nat) (cause : Nat) (s : State) :
    GoesOn (execHaltRecords module part cause s) := by
  unfold execHaltRecords; repeat' first | exact goes_next _ | refine goes_ite ?_ ?_ | split | dsimp only
theorem execCtxsvSave_goes (tid : Nat) (s : State) :
    GoesOn (execCtxsvSave tid s) := by
  unfold execCtxsvSave; repeat' first | exact goes_next _ | refine goes_ite ?_ ?_ | split | dsimp only
theorem execCtxsvDiscard_goes (tid : Nat) (s : State) :
    GoesOn (execCtxsvDiscard tid s) := by
  unfold execCtxsvDiscard; repeat' first | exact goes_next _ | refine goes_ite ?_ ?_ | split | dsimp only
theorem execCtxldStart_goes (tid : Nat) (s : State) :
    GoesOn (execCtxldStart tid s) := by
  unfold execCtxldStart; repeat' first | exact goes_next _ | refine goes_ite ?_ ?_ | split | dsimp only
theorem execCtxldLoadStart_goes (tid : Nat) (s : State) :
    GoesOn (execCtxldLoadStart tid s) := by
  unfold execCtxldLoadStart; repeat' first | exact goes_next _ | refine goes_ite ?_ ?_ | split | dsimp only
theorem execSleepWake_goes (tid : Nat) (s : State) :
    GoesOn (execSleepWake tid s) := by
  unfold execSleepWake; repeat' first | exact goes_next _ | refine goes_ite ?_ ?_ | split | dsimp only
theorem execTrapEntry_goes (tid : Nat) (s : State) :
    GoesOn (execTrapEntry tid s) := by
  unfold execTrapEntry; repeat' first | exact goes_next _ | refine goes_ite ?_ ?_ | split | dsimp only
theorem execWatchdogExpiry_goes (tid : Nat) (s : State) :
    GoesOn (execWatchdogExpiry tid s) := by
  unfold execWatchdogExpiry; repeat' first | exact goes_next _ | refine goes_ite ?_ ?_ | split | dsimp only
theorem execHqtailWrite_goes (die : Nat) (q : Nat) (val : Nat) (s : State) :
    GoesOn (execHqtailWrite die q val s) := by
  unfold execHqtailWrite; repeat' first | exact goes_next _ | refine goes_ite ?_ ?_ | split | dsimp only
theorem execLaunchAdmission_goes (die : Nat) (q : Nat) (s : State) :
    GoesOn (execLaunchAdmission die q s) := by
  unfold execLaunchAdmission; repeat' first | exact goes_next _ | refine goes_ite ?_ ?_ | split | dsimp only
theorem execLaunchForward_goes (die : Nat) (launch : Nat) (s : State) :
    GoesOn (execLaunchForward die launch s) := by
  unfold execLaunchForward; repeat' first | exact goes_next _ | refine goes_ite ?_ ?_ | split | dsimp only
theorem execWaitCounterPoll_goes (die : Nat) (q : Nat) (s : State) :
    GoesOn (execWaitCounterPoll die q s) := by
  unfold execWaitCounterPoll; repeat' first | exact goes_next _ | refine goes_ite ?_ ?_ | split | dsimp only
theorem execTeamStart_goes (launch : Nat) (s : State) :
    GoesOn (execTeamStart launch s) := by
  unfold execTeamStart; repeat' first | exact goes_next _ | refine goes_ite ?_ ?_ | split | dsimp only
theorem execLaunchComplete_goes (launch : Nat) (s : State) :
    GoesOn (execLaunchComplete launch s) := by
  unfold execLaunchComplete; repeat' first | exact goes_next _ | refine goes_ite ?_ ?_ | split | dsimp only
theorem execPowerGood_goes (module : Nat) (s : State) :
    GoesOn (execPowerGood module s) := by
  unfold execPowerGood; repeat' first | exact goes_next _ | refine goes_ite ?_ ?_ | split | dsimp only
theorem execClocksStarted_goes (module : Nat) (s : State) :
    GoesOn (execClocksStarted module s) := by
  unfold execClocksStarted; repeat' first | exact goes_next _ | refine goes_ite ?_ ?_ | split | dsimp only
theorem execRomImageVerify_goes (module : Nat) (s : State) :
    GoesOn (execRomImageVerify module s) := by
  unfold execRomImageVerify; repeat' first | exact goes_next _ | refine goes_ite ?_ ?_ | split | dsimp only
theorem execTrainComplete_goes (module : Nat) (ok : Bool) (s : State) :
    GoesOn (execTrainComplete module ok s) := by
  unfold execTrainComplete; repeat' first | exact goes_next _ | refine goes_ite ?_ ?_ | split | dsimp only
theorem execMreset_goes (module : Nat) (s : State) :
    GoesOn (execMreset module s) := by
  unfold execMreset; repeat' first | exact goes_next _ | refine goes_ite ?_ ?_ | split | dsimp only
theorem execHaltreq_goes (module : Nat) (s : State) :
    GoesOn (execHaltreq module s) := by
  unfold execHaltreq; repeat' first | exact goes_next _ | refine goes_ite ?_ ?_ | split | dsimp only
theorem execMgmtRegisterWrite_goes (module : Nat) (off : Nat) (size : Nat) (write : Bool) (val : Nat) (s : State) :
    GoesOn (execMgmtRegisterWrite module off size write val s) := by
  unfold execMgmtRegisterWrite; repeat' first | exact goes_next _ | refine goes_ite ?_ ?_ | split | dsimp only
theorem execMgmtControlPacket_goes (module : Nat) (bridge : Nat) (off : Nat) (size : Nat) (write : Bool) (val : Nat) (s : State) :
    GoesOn (execMgmtControlPacket module bridge off size write val s) := by
  unfold execMgmtControlPacket; repeat' first | exact goes_next _ | refine goes_ite ?_ ?_ | split | dsimp only
theorem execHostBar2Access_goes (module : Nat) (off : Nat) (write : Bool) (bytes : List (BitVec 8)) (s : State) :
    GoesOn (execHostBar2Access module off write bytes s) := by
  unfold execHostBar2Access; repeat' first | exact goes_next _ | refine goes_ite ?_ ?_ | split | dsimp only
theorem execIdent_goes (module : Nat) (s : State) :
    GoesOn (execIdent module s) := by
  unfold execIdent; repeat' first | exact goes_next _ | refine goes_ite ?_ ?_ | split | dsimp only
theorem execAttest_goes (module : Nat) (s : State) :
    GoesOn (execAttest module s) := by
  unfold execAttest; repeat' first | exact goes_next _ | refine goes_ite ?_ ?_ | split | dsimp only
theorem execFwload_goes (module : Nat) (s : State) :
    GoesOn (execFwload module s) := by
  unfold execFwload; repeat' first | exact goes_next _ | refine goes_ite ?_ ?_ | split | dsimp only
theorem execFwcommit_goes (module : Nat) (s : State) :
    GoesOn (execFwcommit module s) := by
  unfold execFwcommit; repeat' first | exact goes_next _ | refine goes_ite ?_ ?_ | split | dsimp only
theorem execTimesetWrite_goes (module : Nat) (val : Nat) (s : State) :
    GoesOn (execTimesetWrite module val s) := by
  unfold execTimesetWrite; repeat' first | exact goes_next _ | refine goes_ite ?_ ?_ | split | dsimp only
theorem execPtpFrame_goes (module : Nat) (gm : Nat) (s : State) :
    GoesOn (execPtpFrame module gm s) := by
  unfold execPtpFrame; repeat' first | exact goes_next _ | refine goes_ite ?_ ?_ | split | dsimp only
theorem execLockLoss_goes (module : Nat) (s : State) :
    GoesOn (execLockLoss module s) := by
  unfold execLockLoss; repeat' first | exact goes_next _ | refine goes_ite ?_ ?_ | split | dsimp only
theorem execDroopDetect_goes (die : Nat) (s : State) :
    GoesOn (execDroopDetect die s) := by
  unfold execDroopDetect; repeat' first | exact goes_next _ | refine goes_ite ?_ ?_ | split | dsimp only
theorem execDroopRecover_goes (die : Nat) (cycles : Nat) (ns : Nat) (s : State) :
    GoesOn (execDroopRecover die cycles ns s) := by
  unfold execDroopRecover; repeat' first | exact goes_next _ | refine goes_ite ?_ ?_ | split | dsimp only
theorem execPowerWindow_goes (module : Nat) (watts : Nat) (s : State) :
    GoesOn (execPowerWindow module watts s) := by
  unfold execPowerWindow; repeat' first | exact goes_next _ | refine goes_ite ?_ ?_ | split | dsimp only
theorem execThermalThrottle_goes (module : Nat) (temp : Nat) (s : State) :
    GoesOn (execThermalThrottle module temp s) := by
  unfold execThermalThrottle; repeat' first | exact goes_next _ | refine goes_ite ?_ ?_ | split | dsimp only
theorem execThermalTrip_goes (module : Nat) (temp : Nat) (s : State) :
    GoesOn (execThermalTrip module temp s) := by
  unfold execThermalTrip; repeat' first | exact goes_next _ | refine goes_ite ?_ ?_ | split | dsimp only
theorem execPowerLoss_goes (module : Nat) (s : State) :
    GoesOn (execPowerLoss module s) := by
  unfold execPowerLoss; repeat' first | exact goes_next _ | refine goes_ite ?_ ?_ | split | dsimp only
theorem execMailboxBadOperation_goes (module : Nat) (s : State) :
    GoesOn (execMailboxBadOperation module s) := by
  unfold execMailboxBadOperation; repeat' first | exact goes_next _ | refine goes_ite ?_ ?_ | split | dsimp only
theorem execPcieLinkTraining_goes (module : Nat) (width : Nat) (rate : Nat) (s : State) :
    GoesOn (execPcieLinkTraining module width rate s) := by
  unfold execPcieLinkTraining; repeat' first | exact goes_next _ | refine goes_ite ?_ ?_ | split | dsimp only

end Sys2Proof.Machine
end

