-- ==== Sys2Proof/Laws/Memory.lean ====
section
/-!
SUPPORT. Sys2Proof/Laws/Memory.lean: the laws of memory: a byte reads as it was last written, every other byte reads as before, and
every operation keeps the canonical form.
-/
namespace Sys2Proof.Machine.Memory

/-! ## The canonical form -/

theorem wfFrom_mono {lo lo' : Nat} (h : lo' ≤ lo) : ∀ {m : Memory}, wfFrom lo m = true → wfFrom lo' m = true
  | [], _ => rfl
  | (j, b) :: t, hm => by
    simp only [wfFrom, Bool.and_eq_true, decide_eq_true_eq] at hm ⊢
    exact ⟨⟨by omega, hm.1.2⟩, hm.2⟩

theorem wfFrom_write {k : Nat} {b : Byte} : ∀ {m : Memory} {lo : Nat}, wfFrom lo m = true → lo ≤ k → wfFrom lo (m.write k b) = true
  | [], lo, _, hk => by
    unfold write
    split
    · rfl
    · simp_all [wfFrom]
  | (j, c) :: t, lo, hm, hk => by
    simp only [wfFrom, Bool.and_eq_true, decide_eq_true_eq, bne_iff_ne, ne_eq] at hm
    obtain ⟨⟨h1, h2⟩, h3⟩ := hm
    unfold write
    split
    · split
      · simp_all [wfFrom]
      · simp_all [wfFrom] <;> omega
    · split
      · split
        · exact wfFrom_mono (by omega) h3
        · simp_all [wfFrom]
      · have := wfFrom_write (k := k) (b := b) h3 (by omega)
        simp_all [wfFrom]

/-- A write keeps the canonical form. -/
theorem wf_write {m : Memory} (k : Nat) (b : Byte) (h : m.wf = true) : (m.write k b).wf = true := wfFrom_write h (Nat.zero_le k)

theorem wf_writeBytes : ∀ {bs : List Byte} {m : Memory} (k : Nat), m.wf = true → (m.writeBytes k bs).wf = true
  | [], _, _, h => h
  | b :: _, _, k, h => wf_writeBytes (k + 1) (wf_write k b h)

theorem wf_writeNat : ∀ {n v : Nat} {m : Memory} (k : Nat), m.wf = true → (m.writeNat k n v).wf = true
  | 0, _, _, _, h => h
  | _ + 1, _, _, k, h => wf_writeNat (k + 1) (wf_write k _ h)

theorem wfFrom_filter {p : Host.Cell → Bool} : ∀ {m : Memory} {lo : Nat}, wfFrom lo m = true → wfFrom lo (m.filter p) = true
  | [], _, _ => rfl
  | (j, b) :: t, lo, h => by
    simp only [wfFrom, Bool.and_eq_true, decide_eq_true_eq] at h
    obtain ⟨⟨h1, h2⟩, h3⟩ := h
    have h4 := wfFrom_filter (p := p) h3
    simp only [List.filter_cons]
    split
    · simp_all [wfFrom]
    · exact wfFrom_mono (by omega) h4

theorem wf_clear {m : Memory} (lo hi : Nat) (h : m.wf = true) : (m.clear lo hi).wf = true := wfFrom_filter h

/-! ## Read after write -/

theorem read_cons (j k : Nat) (b : Byte) (t : Memory) : read ((j, b) :: t) k = if j = k then b else read t k := rfl

theorem read_of_wfFrom {k : Nat} : ∀ {m : Memory} {lo : Nat}, wfFrom lo m = true → k < lo → m.read k = unlisted
  | [], _, _, _ => rfl
  | (j, b) :: t, lo, h, hk => by
    simp only [wfFrom, Bool.and_eq_true, decide_eq_true_eq] at h
    unfold read
    rw [if_neg (by omega)]
    exact read_of_wfFrom h.2 (by omega)

theorem read_write_from {k i : Nat} {b : Byte} : ∀ {m : Memory} {lo : Nat}, wfFrom lo m = true →
    (m.write k b).read i = if i = k then b else m.read i
  | [], _, _ => by
    unfold write
    split
    · rename_i hb; subst hb; simp [read]
    · simp only [read]
      by_cases h : k = i <;> simp [h, eq_comm]
  | (j, c) :: t, lo, h => by
    simp only [wfFrom, Bool.and_eq_true, decide_eq_true_eq] at h
    obtain ⟨⟨h1, -⟩, h3⟩ := h
    unfold write
    by_cases hkj : k < j
    · rw [if_pos hkj]
      by_cases hb : b = unlisted
      · rw [if_pos hb]
        by_cases hi : i = k
        · subst hi
          rw [if_pos rfl, hb]
          unfold read
          rw [if_neg (by omega)]
          exact read_of_wfFrom h3 (by omega)
        · rw [if_neg hi]
      · rw [if_neg hb]
        by_cases hi : i = k
        · subst hi; simp [read]
        · rw [if_neg hi]
          rw [read_cons k, if_neg (by omega)]
    · rw [if_neg hkj]
      by_cases hjk : j = k
      · subst hjk
        rw [if_pos rfl]
        by_cases hb : b = unlisted
        · rw [if_pos hb]
          by_cases hi : i = j
          · subst hi
            rw [if_pos rfl, hb]
            exact read_of_wfFrom h3 (by omega)
          · rw [if_neg hi]
            rw [read_cons, if_neg (by omega)]
        · rw [if_neg hb]
          by_cases hi : i = j
          · subst hi; simp [read]
          · rw [if_neg hi]
            rw [read_cons, read_cons, if_neg (by omega), if_neg (by omega)]
      · rw [if_neg hjk]
        by_cases hij : j = i
        · subst hij
          simp only [read, if_pos]
          rw [if_neg hjk]
        · simp only [read]
          rw [if_neg hij, if_neg hij]
          exact read_write_from h3

/-- A byte that was written reads as written, and every other byte as before. -/
theorem read_write {m : Memory} (k i : Nat) (b : Byte) (h : m.wf = true) :
    (m.write k b).read i = if i = k then b else m.read i := read_write_from h

/-- What `writeBytes` leaves. -/
theorem read_writeBytes : ∀ {bs : List Byte} {m : Memory} (k i : Nat), m.wf = true →
    (m.writeBytes k bs).read i = if k ≤ i ∧ i < k + bs.length then bs.getD (i - k) unlisted else m.read i
  | [], m, k, i, _ => by
    have : ¬(k ≤ i ∧ i < k + ([] : List Byte).length) := by simp
    rw [if_neg this]; rfl
  | b :: bs, m, k, i, h => by
    rw [writeBytes, read_writeBytes (k + 1) i (wf_write k b h), read_write k i b h]
    simp only [List.length_cons]
    by_cases hi : i = k
    · subst hi
      rw [if_neg (by omega), if_pos rfl, if_pos (by omega), Nat.sub_self, List.getD_cons_zero]
    · by_cases hr : k + 1 ≤ i ∧ i < k + 1 + bs.length
      · rw [if_pos hr, if_pos (by omega)]
        have : i - k = (i - (k + 1)) + 1 := by omega
        rw [this, List.getD_cons_succ]
      · rw [if_neg hr, if_neg hi, if_neg (by omega)]

/-- What `clear` leaves. -/
theorem read_clear (lo hi i : Nat) : ∀ {m : Memory}, (m.clear lo hi).read i =
    if lo ≤ i ∧ i < hi then unlisted else m.read i
  | [] => by simp [clear, read]
  | (j, b) :: t => by
    have ih := read_clear lo hi i (m := t)
    unfold clear at ih ⊢
    simp only [List.filter_cons]
    by_cases hj : j < lo ∨ hi ≤ j
    · rw [if_pos (by simpa using hj)]
      simp only [read]
      by_cases hij : j = i
      · subst hij
        rw [if_pos rfl, if_neg (by omega), if_pos rfl]
      · rw [if_neg hij, if_neg hij]; exact ih
    · rw [if_neg (by simpa using hj)]
      simp only [read]
      by_cases hij : j = i
      · subst hij
        rw [ih, if_pos (by omega), if_pos (by omega)]
      · rw [if_neg hij]; exact ih

end Sys2Proof.Machine.Memory
end

