-- ==== Sys2Proof/Laws/KeptBase.lean ====
section
/-!
SUPPORT. Sys2Proof/Laws/KeptBase.lean: the named operations, translation and issue keep the canonical form of memory (log 2) and an agenda of events.
-/
namespace Sys2Proof.Machine

/-- What every operation keeps: the canonical form of a memory, or an agenda of events. -/
def Kept (iv : Bool) (m : Memory) (a : List Instr) : Prop :=
  match iv with
  | true => m.wf = true
  | false => a.all isEvent = true

/-- The state has what is to be kept. -/
abbrev State.keeps (s : State) (iv : Bool) : Prop := Kept iv s.mem s.agenda

variable {iv : Bool}

theorem all_nil : ([] : List Instr).all isEvent = true := rfl
theorem all_cons {e : Instr} {a : List Instr} (he : isEvent e = true) (ha : a.all isEvent = true) : (e :: a).all isEvent = true := by
  rw [List.all_cons, he, ha]; rfl
theorem all_append {a b : List Instr} (ha : a.all isEvent = true) (hb : b.all isEvent = true) : (a ++ b).all isEvent = true := by
  rw [List.all_append, ha, hb]; rfl
theorem all_filter {p : Instr → Bool} {a : List Instr} (h : a.all isEvent = true) : (a.filter p).all isEvent = true := by
  rw [List.all_eq_true] at *
  exact fun x hx => h x (List.mem_filter.mp hx).1
theorem all_erase {a : List Instr} {k : Nat} (h : a.all isEvent = true) : (a.eraseIdx k).all isEvent = true := by
  rw [List.all_eq_true] at *
  exact fun x hx => h x (List.mem_of_mem_eraseIdx hx)
theorem all_map {α : Type} {l : List α} {f : α → Instr} (h : ∀ x, isEvent (f x) = true) : (l.map f).all isEvent = true := by
  rw [List.all_eq_true]
  intro x hx
  obtain ⟨y, -, rfl⟩ := List.mem_map.mp hx
  exact h y
theorem all_filterMap {α : Type} {l : List α} {f : α → Option Instr} (h : ∀ x e, f x = some e → isEvent e = true) :
    (l.filterMap f).all isEvent = true := by
  rw [List.all_eq_true]
  intro x hx
  obtain ⟨y, -, hy⟩ := List.mem_filterMap.mp hx
  exact h y x hy
theorem all_flatMap {α : Type} {l : List α} {f : α → List Instr} (h : ∀ x, (f x).all isEvent = true) :
    (l.flatMap f).all isEvent = true := by
  rw [List.all_eq_true]
  intro x hx
  obtain ⟨y, -, hy⟩ := List.mem_flatMap.mp hx
  exact List.all_eq_true.mp (h y) x hy
theorem ite_event {c : Prop} [Decidable c] {a b : Instr} (ha : isEvent a = true) (hb : isEvent b = true) :
    isEvent (if c then a else b) = true := by split <;> assumption

theorem kept_write {m : Memory} {a : List Instr} (k : Nat) (x : Byte) (h : Kept iv m a) : Kept iv (m.write k x) a := by
  cases iv
  · exact h
  · exact Memory.wf_write k x h
theorem kept_clear {m : Memory} {a : List Instr} (lo hi : Nat) (h : Kept iv m a) : Kept iv (m.clear lo hi) a := by
  cases iv
  · exact h
  · exact Memory.wf_clear lo hi h
theorem kept_writeBytes {m : Memory} {a : List Instr} {bs : List Byte} (k : Nat) (h : Kept iv m a) : Kept iv (m.writeBytes k bs) a := by
  cases iv
  · exact h
  · exact Memory.wf_writeBytes k h
theorem kept_filter {m : Memory} {a : List Instr} (p : Instr → Bool) (h : Kept iv m a) : Kept iv m (a.filter p) := by
  cases iv
  · exact all_filter h
  · exact h
theorem kept_erase {m : Memory} {a : List Instr} (k : Nat) (h : Kept iv m a) : Kept iv m (a.eraseIdx k) := by
  cases iv
  · exact all_erase h
  · exact h

theorem Req.event_isEvent (r : Req) : isEvent r.event = true := by
  unfold Req.event; split <;> rfl
theorem Entry.moveEvent_isEvent (e : Entry) (core ch : Nat) : isEvent (e.moveEvent core ch) = true := by
  unfold Entry.moveEvent
  repeat' first | rfl | split
theorem Entry.nextEvent_isEvent (e : Entry) (core ch : Nat) : isEvent (e.nextEvent core ch) = true := by
  unfold Entry.nextEvent
  split
  · rfl
  · exact Entry.moveEvent_isEvent e core ch
theorem ChannelState.following_isEvent (k : ChannelState) (core ch i : Nat) (e : Entry) :
    (k.following core ch i e).all isEvent = true := by
  unfold ChannelState.following
  split
  · exact all_cons (Entry.nextEvent_isEvent _ _ _) all_nil
  · split
    · exact all_cons (Entry.nextEvent_isEvent _ _ _) all_nil
    · rfl
theorem LookupOp.unitEvent_isEvent (l : LookupOp) (i : Nat) : isEvent (l.unitEvent i) = true := by
  unfold LookupOp.unitEvent; split <;> rfl
theorem mailboxEvent_isEvent (m op : Nat) : isEvent (mailboxEvent m op) = true := by
  unfold mailboxEvent
  repeat' first | rfl | split

/-- A result keeps what is to be kept. -/
def Res.kept (iv : Bool) : Res → Prop
  | .retire s | .retireTo s _ | .jump s _ | .trap _ s | .block _ s => s.keeps iv
  | .again _ => True

/-- An outcome keeps what is to be kept. -/
def outKept (iv : Bool) (o : Host.Outcome State Fault Refusal) : Prop :=
  match o with
  | .next s => s.keeps iv
  | .fault _ => True
  | .refused _ => True

theorem retire_kept {s : State} (h : s.keeps iv) : (Res.retire s).kept iv := h
theorem retireTo_kept {s : State} {pc : Word} (h : s.keeps iv) : (Res.retireTo s pc).kept iv := h
theorem jump_kept {s : State} {pc : Word} (h : s.keeps iv) : (Res.jump s pc).kept iv := h
theorem trap_kept {s : State} {t : TrapInfo} (h : s.keeps iv) : (Res.trap t s).kept iv := h
theorem block_kept {s : State} {w : Wait} (h : s.keeps iv) : (Res.block w s).kept iv := h
theorem again_kept {m : Option Miss} : (Res.again m).kept iv := trivial
theorem next_kept {s : State} (h : s.keeps iv) : outKept iv (.next s) := h

theorem id_kept {s : State} (h : s.keeps iv) : (id s).keeps iv := h
theorem ite_kept {c : Prop} [Decidable c] {a b : Host.Outcome State Fault Refusal} (ha : outKept iv a) (hb : outKept iv b) :
    outKept iv (if c then a else b) := by split <;> assumption

theorem foldl_kept {α : Type} {l : List α} {f : State → α → State} {s : State} (h : s.keeps iv)
    (hf : ∀ t x, t.keeps iv → (f t x).keeps iv) : (l.foldl f s).keeps iv := by
  induction l generalizing s with
  | nil => exact h
  | cons x l ih => exact ih (hf s x h)

theorem foldl_pair_kept {α β : Type} {l : List α} {f : State × β → α → State × β} {x : State × β} (h : x.1.keeps iv)
    (hf : ∀ t y, t.1.keeps iv → (f t y).1.keeps iv) : (l.foldl f x).1.keeps iv := by
  induction l generalizing x with
  | nil => exact h
  | cons y l ih => exact ih (hf x y h)

theorem foldl_write_kept {α : Type} {l : List α} {k : α → Nat} {b : α → Byte} {m : Memory} {a : List Instr}
    (h : Kept iv m a) : Kept iv (l.foldl (fun m x => m.write (k x) (b x)) m) a := by
  induction l generalizing m with
  | nil => exact h
  | cons x l ih => exact ih (kept_write _ _ h)

theorem snd_kept {α : Type} {e : α × State} {a : α} {s : State} (he : e = (a, s)) (h : e.2.keeps iv) :
    Kept iv s.mem s.agenda := by
  subst he; exact h

theorem fst_kept {α : Type} {e : State × α} {a : α} {s : State} (he : e = (s, a)) (h : e.1.keeps iv) :
    Kept iv s.mem s.agenda := by
  subst he; exact h

def okPair (iv : Bool) {ε α : Type} (e : Except ε (α × State)) : Prop :=
  match e with
  | .ok (_, s) => s.keeps iv
  | .error _ => True

def okState (iv : Bool) {ε : Type} (e : Except ε State) : Prop :=
  match e with
  | .ok s => s.keeps iv
  | .error _ => True

def okFst (iv : Bool) {ε α : Type} (e : Except ε (State × α)) : Prop :=
  match e with
  | .ok (s, _) => s.keeps iv
  | .error _ => True

theorem okFst_ok {ε α : Type} {a : α} {s : State} (h : s.keeps iv) : okFst iv (.ok (s, a) : Except ε (State × α)) := h
theorem okFst_error {ε α : Type} {e : ε} : okFst iv (.error e : Except ε (State × α)) := trivial
theorem okFst_kept {ε α : Type} {e : Except ε (State × α)} {a : α} {s : State} (he : e = .ok (s, a)) (h : okFst iv e) :
    s.keeps iv := by
  subst he; exact h

def okBoth (iv : Bool) (e : Except State State) : Prop :=
  match e with
  | .ok s => s.keeps iv
  | .error s => s.keeps iv

theorem okBoth_ok {e : Except State State} {s : State} (he : e = .ok s) (h : okBoth iv e) : s.keeps iv := by subst he; exact h
theorem okBoth_error {e : Except State State} {s : State} (he : e = .error s) (h : okBoth iv e) : s.keeps iv := by
  subst he; exact h
theorem ite_wf {c : Prop} [Decidable c] {a b : State} (ha : a.keeps iv) (hb : b.keeps iv) :
    (if c then a else b).keeps iv := by split <;> assumption
theorem wf_pair {α : Type} {s t : State} {a b : α} (h : (s, a) = (t, b)) (hs : s.keeps iv) : t.keeps iv := by
  cases h; exact hs

theorem okPair_ok {ε α : Type} {a : α} {s : State} (h : s.keeps iv) : okPair iv (.ok (a, s) : Except ε (α × State)) := h
theorem okPair_error {ε α : Type} {e : ε} : okPair iv (.error e : Except ε (α × State)) := trivial
theorem okState_ok {ε : Type} {s : State} (h : s.keeps iv) : okState iv (.ok s : Except ε State) := h
theorem okState_error {ε : Type} {e : ε} : okState iv (.error e : Except ε State) := trivial

theorem okPair_kept {ε α : Type} {e : Except ε (α × State)} {a : α} {s : State} (he : e = .ok (a, s)) (h : okPair iv e) :
    s.keeps iv := by
  subst he; exact h

theorem okState_kept {ε : Type} {e : Except ε State} {s : State} (he : e = .ok s) (h : okState iv e) : s.keeps iv := by
  subst he; exact h

/-! ## Ops -/

theorem setThread_kept (tid : Nat) (x : Thread) {s : State} (h : s.keeps iv) : (s.setThread tid x).keeps iv := h

theorem setCore_kept (c : Nat) (x : Core) {s : State} (h : s.keeps iv) : (s.setCore c x).keeps iv := h

theorem setQuad_kept (q : Nat) (x : Quad) {s : State} (h : s.keeps iv) : (s.setQuad q x).keeps iv := h

theorem setDie_kept (d : Nat) (x : Die) {s : State} (h : s.keeps iv) : (s.setDie d x).keeps iv := h

theorem setModule_kept (m : Nat) (x : Module) {s : State} (h : s.keeps iv) : (s.setModule m x).keeps iv := h

theorem modThread_kept (tid : Nat) (f : Thread → Thread)
    {s : State} (h : s.keeps iv) : (s.modThread tid f).keeps iv := h

theorem modCore_kept (c : Nat) (f : Core → Core) {s : State} (h : s.keeps iv) : (s.modCore c f).keeps iv := h

theorem modQuad_kept (q : Nat) (f : Quad → Quad) {s : State} (h : s.keeps iv) : (s.modQuad q f).keeps iv := h

theorem modDie_kept (d : Nat) (f : Die → Die) {s : State} (h : s.keeps iv) : (s.modDie d f).keeps iv := h

theorem modModule_kept (m : Nat) (f : Module → Module) {s : State} (h : s.keeps iv) : (s.modModule m f).keeps iv := h

theorem setTh_kept (t : Thread) {s : State} (hmem : s.keeps iv) : (State.setTh s t).keeps iv := by
  unfold State.setTh
  repeat' first
    | with_reducible assumption | with_reducible refine setThread_kept _ _ ?_ | split | dsimp only | dsimp only [State.keeps]

theorem modTh_kept (f : Thread → Thread) {s : State} (h : s.keeps iv) : (s.modTh f).keeps iv := h

theorem emit_kept {e : Instr} {s : State} (he : isEvent e = true) (h : s.keeps iv) : (s.emit e).keeps iv := by
  cases iv
  · exact all_append h (all_cons he all_nil)
  · exact h

theorem emits_kept {es : List Instr}
    {s : State} (he : es.all isEvent = true) (h : s.keeps iv) : (s.emits es).keeps iv := by
  cases iv
  · exact all_append h he
  · exact h

theorem fresh_kept {s : State} (h : s.keeps iv) : s.fresh.2.keeps iv := h

theorem setG_kept (r : GReg) (x : Word) {s : State} (hmem : s.keeps iv) : (State.setG s r x).keeps iv := by
  unfold State.setG
  repeat' first
    | with_reducible assumption | with_reducible refine modTh_kept _ ?_ | split | dsimp only | dsimp only [State.keeps]

theorem setP_kept (r : PReg) (x : Bool) {s : State} (hmem : s.keeps iv) : (State.setP s r x).keeps iv := by
  unfold State.setP
  repeat' first
    | with_reducible assumption | with_reducible refine modTh_kept _ ?_ | split | dsimp only | dsimp only [State.keeps]

theorem putVec_kept (f : VField) (x : Nat) (tag : Tag)
    {s : State} (hmem : s.keeps iv) : (State.putVec s f x tag).keeps iv := by
  unfold State.putVec
  repeat' first
    | with_reducible assumption | with_reducible refine modTh_kept _ ?_ | split | dsimp only | dsimp only [State.keeps]

theorem setVec_kept (f : VField) (x : Nat) (tag : Tag)
    {s : State} (hmem : s.keeps iv) : (State.setVec s f x tag).keeps iv := by
  unfold State.setVec
  repeat' first
    | with_reducible assumption | with_reducible refine putVec_kept _ _ _ ?_ | split | dsimp only | dsimp only [State.keeps]

theorem setMask_kept (k : MReg) (x : BitVec 256)
    {s : State} (hmem : s.keeps iv) : (State.setMask s k x).keeps iv := by
  unfold State.setMask
  repeat' first
    | with_reducible assumption | with_reducible refine modTh_kept _ ?_ | split | dsimp only | dsimp only [State.keeps]

theorem orFlags_kept (f : BitVec 6) {s : State} (hmem : s.keeps iv) : (State.orFlags s f).keeps iv := by
  unfold State.orFlags
  repeat' first
    | with_reducible assumption | with_reducible refine modTh_kept _ ?_ | split | dsimp only | dsimp only [State.keeps]

theorem countPoolc_kept (d n : Nat) {s : State} (hmem : s.keeps iv) : (State.countPoolc s d n).keeps iv := by
  unfold State.countPoolc
  repeat' first
    | with_reducible assumption | with_reducible refine modDie_kept _ _ ?_ | split | dsimp only | dsimp only [State.keeps]

theorem correctWords_kept (c : Nat) (ws : List Nat)
    {s : State} (hmem : s.keeps iv) : (State.correctWords s c ws).keeps iv := by
  unfold State.correctWords
  repeat' first
    | with_reducible assumption | with_reducible refine countPoolc_kept _ _ ?_ | with_reducible refine modCore_kept _ _ ?_
    | split | dsimp only | dsimp only [State.keeps]

theorem poolCorrect_kept (c off n : Nat)
    {s : State} (hmem : s.keeps iv) : (State.poolCorrect s c off n).keeps iv := by
  unfold State.poolCorrect
  repeat' first
    | with_reducible assumption | with_reducible refine correctWords_kept _ _ ?_ | split | dsimp only
    | dsimp only [State.keeps]

theorem poolClean_kept (c off n : Nat) (f : Nat → Nat)
    {s : State} (hmem : s.keeps iv) : (State.poolClean s c off n f).keeps iv := by
  unfold State.poolClean
  repeat' first
    | with_reducible assumption | with_reducible refine correctWords_kept _ _ ?_ | with_reducible refine modCore_kept _ _ ?_
    | split | dsimp only | dsimp only [State.keeps]

theorem setPoolAt_kept (c off : Nat) (bs : List Byte) (f : Nat → Nat)
    {s : State} (hmem : s.keeps iv) : (State.setPoolAt s c off bs f).keeps iv := by
  unfold State.setPoolAt
  repeat' first
    | with_reducible assumption | with_reducible refine poolClean_kept _ _ _ _ ?_
    | with_reducible refine foldl_kept ?_ (fun _ _ _ => ?_) | exact foldl_write_kept (by assumption) | split | dsimp only
    | dsimp only [State.keeps]

theorem setPoolBytes_kept (c off : Nat) (bs : List Byte)
    {s : State} (hmem : s.keeps iv) : (State.setPoolBytes s c off bs).keeps iv := by
  unfold State.setPoolBytes
  repeat' first
    | with_reducible assumption | with_reducible refine setPoolAt_kept _ _ _ _ ?_ | refine poolClean_kept _ _ _ ?_
    | exact foldl_write_kept (by assumption) | split | dsimp only | dsimp only [State.keeps]

theorem setPoolNat_kept (c off n v : Nat)
    {s : State} (hmem : s.keeps iv) : (State.setPoolNat s c off n v).keeps iv := by
  unfold State.setPoolNat
  repeat' first
    | with_reducible assumption | with_reducible refine setPoolBytes_kept _ _ _ ?_ | split | dsimp only
    | dsimp only [State.keeps]

theorem drainOne_kept (tid : Nat) {s : State} (hmem : s.keeps iv) : (State.drainOne s tid).keeps iv := by
  unfold State.drainOne
  repeat' first
    | with_reducible assumption | with_reducible refine setPoolNat_kept _ _ _ _ ?_
    | with_reducible refine modThread_kept _ _ ?_ | split | dsimp only | dsimp only [State.keeps]

theorem drainList_kept (c : Nat) : ∀ (l : List PendingStore) {s : State}, s.keeps iv → (s.drainList c l).keeps iv
  | [], _, h => h
  | _ :: l, _, h => drainList_kept c l (setPoolNat_kept _ _ _ _ h)

theorem drainThrough_kept (tid : Nat) (f : PendingStore → Bool)
    {s : State} (hmem : s.keeps iv) : (State.drainThrough s tid f).keeps iv := by
  unfold State.drainThrough
  repeat' first
    | with_reducible assumption | with_reducible refine modThread_kept _ _ ?_ | with_reducible refine drainList_kept _ _ ?_
    | split | dsimp only | dsimp only [State.keeps]

theorem drainAll_kept (tid : Nat) {s : State} (hmem : s.keeps iv) : (State.drainAll s tid).keeps iv := by
  unfold State.drainAll
  repeat' first
    | with_reducible assumption | with_reducible refine modThread_kept _ _ ?_ | with_reducible refine drainList_kept _ _ ?_
    | split | dsimp only | dsimp only [State.keeps]

theorem storeLocal_kept (off n v : Nat) {s : State} (hmem : s.keeps iv) : (State.storeLocal s off n v).keeps iv := by
  unfold State.storeLocal
  repeat' first
    | with_reducible assumption | with_reducible refine setPoolNat_kept _ _ _ _ ?_ | with_reducible refine drainAll_kept _ ?_
    | with_reducible refine modTh_kept _ ?_ | split | dsimp only | dsimp only [State.keeps]

theorem ownWrite_kept (tid off : Nat) (bs : List Byte)
    {s : State} (hmem : s.keeps iv) : (State.ownWrite s tid off bs).keeps iv := by
  unfold State.ownWrite
  repeat' first
    | with_reducible assumption | with_reducible refine setPoolBytes_kept _ _ _ ?_
    | with_reducible refine drainThrough_kept _ _ ?_ | split | dsimp only | dsimp only [State.keeps]

theorem loadLocal_kept (off n : Nat) {s : State} (h : s.keeps iv) : (s.loadLocal off n).2.keeps iv := by
  unfold State.loadLocal
  repeat' first
    | assumption | refine drainThrough_kept _ _ ?_ | refine poolCorrect_kept _ _ _ ?_ | split | dsimp only

theorem setDramBytes_kept (m pa : Nat) (bs : List Byte)
    {s : State} (hmem : s.keeps iv) : (State.setDramBytes s m pa bs).keeps iv := by
  unfold State.setDramBytes
  repeat' first
    | with_reducible assumption | exact foldl_write_kept (by assumption)
    | with_reducible refine foldl_kept ?_ (fun _ _ _ => ?_) | exact foldl_write_kept (by assumption) | split | dsimp only
    | dsimp only [State.keeps]

theorem setDramNat_kept (m pa n v : Nat)
    {s : State} (hmem : s.keeps iv) : (State.setDramNat s m pa n v).keeps iv := by
  unfold State.setDramNat
  repeat' first
    | with_reducible assumption | with_reducible refine setDramBytes_kept _ _ _ ?_ | split | dsimp only
    | dsimp only [State.keeps]

theorem dramCorrect_kept (m : Nat) (ws : List Nat)
    {s : State} (hmem : s.keeps iv) : (State.dramCorrect s m ws).keeps iv := by
  unfold State.dramCorrect
  repeat' first
    | with_reducible assumption | with_reducible refine modModule_kept _ _ ?_ | with_reducible refine modDie_kept _ _ ?_
    | with_reducible refine foldl_kept ?_ (fun _ _ _ => ?_) | split | dsimp only | dsimp only [State.keeps]

theorem dramClean_kept (m pa n : Nat) {s : State} (hmem : s.keeps iv) : (State.dramClean s m pa n).keeps iv := by
  unfold State.dramClean
  repeat' first
    | with_reducible assumption | with_reducible refine dramCorrect_kept _ _ ?_ | with_reducible refine modModule_kept _ _ ?_
    | split | dsimp only | dsimp only [State.keeps]

theorem touch_kept (m pa : Nat) (pin : Bool) {s : State} (hmem : s.keeps iv) : (State.touch s m pa pin).keeps iv := by
  unfold State.touch
  repeat' first
    | with_reducible assumption | with_reducible refine modModule_kept _ _ ?_ | split | dsimp only | dsimp only [State.keeps]

theorem unitWrite_kept (m pa : Nat) (bs : List Byte)
    {s : State} (hmem : s.keeps iv) : (State.unitWrite s m pa bs).keeps iv := by
  unfold State.unitWrite
  repeat' first
    | with_reducible assumption | with_reducible refine setDramBytes_kept _ _ _ ?_
    | with_reducible refine dramClean_kept _ _ _ ?_ | split | dsimp only | dsimp only [State.keeps]

theorem count_kept (c ev : Nat) (t : Option Nat) (n : Nat)
    {s : State} (hmem : s.keeps iv) : (State.count s c ev t n).keeps iv := by
  unfold State.count
  repeat' first
    | with_reducible assumption | with_reducible refine modCore_kept _ _ ?_ | split | dsimp only | dsimp only [State.keeps]

theorem trace_kept (c cls code thread unit : Nat) (a b : Word)
    {s : State} (hmem : s.keeps iv) : (State.trace s c cls code thread unit a b).keeps iv := by
  unfold State.trace
  repeat' first
    | with_reducible assumption | with_reducible refine unitWrite_kept _ _ _ ?_ | with_reducible refine modCore_kept _ _ ?_
    | with_reducible refine touch_kept _ _ _ ?_ | split | dsimp only | dsimp only [State.keeps]

theorem setPartition_kept (m : Nat) (p : Option Nat) (x : Partition)
    {s : State} (hmem : s.keeps iv) : (State.setPartition s m p x).keeps iv := by
  unfold State.setPartition
  repeat' first
    | with_reducible assumption | with_reducible refine modModule_kept _ _ ?_ | split | dsimp only | dsimp only [State.keeps]

theorem dropWalks_kept (req : Nat) {s : State} (hmem : s.keeps iv) : (State.dropWalks s req).keeps iv := by
  unfold State.dropWalks
  repeat' first
    | with_reducible assumption | split | dsimp only | dsimp only [State.keeps]

theorem send_kept (r : Req) {s : State} (hmem : s.keeps iv) : (State.send s r).keeps iv := by
  unfold State.send
  repeat' first
    | with_reducible assumption | exact rfl | with_reducible refine snd_kept (by assumption) (fresh_kept ?_)
    | with_reducible refine fresh_kept ?_ | with_reducible refine emit_kept ?_ ?_ | with_reducible refine id_kept ?_ | split
    | dsimp only | dsimp only [State.keeps]

theorem hardwareRecord_kept (d : Nat) (bs : List Byte)
    {s : State} (hmem : s.keeps iv) : (State.hardwareRecord s d bs).keeps iv := by
  unfold State.hardwareRecord
  repeat' first
    | with_reducible assumption | with_reducible refine send_kept _ ?_ | with_reducible refine id_kept ?_ | split | dsimp only
    | dsimp only [State.keeps]

theorem noteFault_kept (tid cause : Nat)
    {s : State} (hmem : s.keeps iv) : (State.noteFault s tid cause).keeps iv := by
  unfold State.noteFault
  repeat' first
    | with_reducible assumption | split | dsimp only | dsimp only [State.keeps]

theorem haltCore_kept (c cause : Nat) (part : Option Nat)
    {s : State} (hmem : s.keeps iv) : (State.haltCore s c cause part).keeps iv := by
  unfold State.haltCore
  repeat' first
    | with_reducible assumption | exact rfl | with_reducible refine setThread_kept _ _ ?_
    | with_reducible refine modCore_kept _ _ ?_ | with_reducible refine emit_kept ?_ ?_
    | with_reducible refine foldl_kept ?_ (fun _ _ _ => ?_) | split | dsimp only | dsimp only [State.keeps]

theorem haltQuad_kept (origin : Nat) {s : State} (hmem : s.keeps iv) : (State.haltQuad s origin).keeps iv := by
  unfold State.haltQuad
  repeat' first
    | with_reducible assumption | exact rfl | with_reducible refine haltCore_kept _ _ _ ?_
    | with_reducible refine emit_kept ?_ ?_ | with_reducible refine foldl_kept ?_ (fun _ _ _ => ?_) | split | dsimp only
    | dsimp only [State.keeps]

theorem forward_kept (tid : Nat) (t : TrapInfo) (epc : Word)
    {s : State} (hmem : s.keeps iv) : (State.forward s tid t epc).keeps iv := by
  unfold State.forward
  repeat' first
    | with_reducible assumption | with_reducible refine setThread_kept _ _ ?_ | with_reducible refine noteFault_kept _ _ ?_
    | with_reducible refine haltQuad_kept _ ?_ | with_reducible refine count_kept _ _ _ _ ?_
    | with_reducible refine trace_kept _ _ _ _ _ _ _ ?_ | with_reducible refine send_kept _ ?_
    | with_reducible refine id_kept ?_ | split | dsimp only | dsimp only [State.keeps]

theorem enterTrap_kept (tid : Nat) (t : TrapInfo) (words : Nat)
    {s : State} (hmem : s.keeps iv) : (State.enterTrap s tid t words).keeps iv := by
  unfold State.enterTrap
  repeat' first
    | with_reducible assumption | with_reducible refine setThread_kept _ _ ?_ | with_reducible refine dropWalks_kept _ ?_
    | with_reducible refine forward_kept _ _ _ ?_ | with_reducible refine count_kept _ _ _ _ ?_
    | with_reducible refine trace_kept _ _ _ _ _ _ _ ?_ | split | dsimp only | dsimp only [State.keeps]

theorem raise_kept (tid : Nat) (t : TrapInfo) (words : Nat)
    {s : State} (hmem : s.keeps iv) : (State.raise s tid t words).keeps iv := by
  unfold State.raise
  repeat' first
    | with_reducible assumption | with_reducible refine modThread_kept _ _ ?_ | with_reducible refine enterTrap_kept _ _ _ ?_
    | with_reducible refine trap_kept ?_ | split | dsimp only | dsimp only [State.keeps]

theorem pend_kept (tid : Nat) (t : TrapInfo) {s : State} (hmem : s.keeps iv) : (State.pend s tid t).keeps iv := by
  unfold State.pend
  repeat' first
    | with_reducible assumption | with_reducible refine modThread_kept _ _ ?_ | split | dsimp only | dsimp only [State.keeps]

/-! ## Mmu -/

theorem readAt_kept (m pa n : Nat) (pin : Bool)
    {s : State} (hmem : s.keeps iv) : (State.readAt s m pa n pin).keeps iv := by
  unfold State.readAt
  repeat' first
    | with_reducible assumption | with_reducible refine dramCorrect_kept _ _ ?_ | with_reducible refine touch_kept _ _ _ ?_
    | split | dsimp only | dsimp only [State.keeps]

theorem memsideRecord_kept (m unit pa sub op core : Nat)
    {s : State} (hmem : s.keeps iv) : (State.memsideRecord s m unit pa sub op core).keeps iv := by
  unfold State.memsideRecord
  repeat' first
    | with_reducible assumption | with_reducible refine hardwareRecord_kept _ _ ?_ | split | dsimp only
    | dsimp only [State.keeps]

theorem startWalk_kept (x : Miss) {s : State} (hmem : s.keeps iv) : (State.startWalk s x).keeps iv := by
  unfold State.startWalk
  repeat' first
    | with_reducible assumption | exact rfl | with_reducible refine snd_kept (by assumption) (fresh_kept ?_)
    | with_reducible refine fresh_kept ?_ | with_reducible refine count_kept _ _ _ _ ?_
    | with_reducible refine emit_kept ?_ ?_ | with_reducible refine id_kept ?_ | split | dsimp only | dsimp only [State.keeps]

theorem fillTlb_kept (q : Nat) (e : TlbEntry) {s : State} (hmem : s.keeps iv) : (State.fillTlb s q e).keeps iv := by
  unfold State.fillTlb
  repeat' first
    | with_reducible assumption | with_reducible refine modQuad_kept _ _ ?_ | split | dsimp only | dsimp only [State.keeps]

theorem fillWalkCache_kept (q : Nat) (e : WalkEntry)
    {s : State} (hmem : s.keeps iv) : (State.fillWalkCache s q e).keeps iv := by
  unfold State.fillWalkCache
  repeat' first
    | with_reducible assumption | with_reducible refine modQuad_kept _ _ ?_ | split | dsimp only | dsimp only [State.keeps]

theorem orPte_kept (m leaf bits : Nat) {s : State} (hmem : s.keeps iv) : (State.orPte s m leaf bits).keeps iv := by
  unfold State.orPte
  repeat' first
    | with_reducible assumption | with_reducible refine unitWrite_kept _ _ _ ?_ | with_reducible refine readAt_kept _ _ _ _ ?_
    | split | dsimp only | dsimp only [State.keeps]

theorem readGroup_kept (w : Walk) (pa : Nat) (e : Word)
    {s : State} (hmem : s.keeps iv) : (State.readGroup s w pa e).1.keeps iv := by
  unfold State.readGroup
  repeat' first
    | with_reducible assumption | with_reducible refine readAt_kept _ _ _ _ ?_ | split | dsimp only | dsimp only [State.keeps]

theorem walkOnce_kept (w : Walk) {s : State} (hmem : s.keeps iv) : (State.walkOnce s w).keeps iv := by
  unfold State.walkOnce
  repeat' first
    | with_reducible assumption | exact rfl | with_reducible refine memsideRecord_kept _ _ _ _ _ _ ?_
    | with_reducible refine fillWalkCache_kept _ _ ?_
    | with_reducible refine fst_kept (by assumption) (readGroup_kept _ _ _ ?_) | with_reducible refine readGroup_kept _ _ _ ?_
    | with_reducible refine fillTlb_kept _ _ ?_ | with_reducible refine readAt_kept _ _ _ _ ?_
    | with_reducible refine orPte_kept _ _ _ ?_ | with_reducible refine emit_kept ?_ ?_ | with_reducible refine id_kept ?_
    | split | dsimp only | dsimp only [State.keeps]

theorem markDirty_kept (p : Place) {s : State} (hmem : s.keeps iv) : (State.markDirty s p).keeps iv := by
  unfold State.markDirty
  repeat' first
    | with_reducible assumption | with_reducible refine orPte_kept _ _ _ ?_ | split | dsimp only | dsimp only [State.keeps]

theorem deviceError_kept (m pa : Nat) (c : Cause)
    {s : State} (hmem : s.keeps iv) : (State.deviceError s m pa c).keeps iv := by
  unfold State.deviceError
  repeat' first
    | with_reducible assumption | with_reducible refine memsideRecord_kept _ _ _ _ _ _ ?_ | split | dsimp only
    | dsimp only [State.keeps]

theorem deviceTranslate_kept (m : Nat) (part : Option Nat) (va : Nat) (write : Bool)
    {s : State} (hmem : s.keeps iv) : (State.deviceTranslate s m part va write).2.keeps iv := by
  unfold State.deviceTranslate
  repeat' first
    | with_reducible assumption | with_reducible refine deviceError_kept _ _ _ ?_
    | with_reducible refine readAt_kept _ _ _ _ ?_ | with_reducible refine orPte_kept _ _ _ ?_
    | with_reducible refine foldl_kept ?_ (fun _ _ _ => ?_) | split | dsimp only | dsimp only [State.keeps]

theorem deviceRead_kept (m : Nat) (part : Option Nat) (va n : Nat)
    {s : State} (hmem : s.keeps iv) : (State.deviceRead s m part va n).2.keeps iv := by
  unfold State.deviceRead
  repeat' first
    | with_reducible assumption | with_reducible refine snd_kept (by assumption) (deviceTranslate_kept _ _ _ _ ?_)
    | with_reducible refine deviceTranslate_kept _ _ _ _ ?_ | with_reducible refine deviceError_kept _ _ _ ?_
    | with_reducible refine readAt_kept _ _ _ _ ?_ | split | dsimp only | dsimp only [State.keeps]

theorem deviceWrite_kept (m : Nat) (part : Option Nat) (va : Nat) (bs : List Byte)
    {s : State} (hmem : s.keeps iv) : (State.deviceWrite s m part va bs).2.keeps iv := by
  unfold State.deviceWrite
  repeat' first
    | with_reducible assumption | with_reducible refine snd_kept (by assumption) (deviceTranslate_kept _ _ _ _ ?_)
    | with_reducible refine deviceTranslate_kept _ _ _ _ ?_ | with_reducible refine deviceError_kept _ _ _ ?_
    | with_reducible refine unitWrite_kept _ _ _ ?_ | with_reducible refine touch_kept _ _ _ ?_ | split | dsimp only
    | dsimp only [State.keeps]

theorem dropLine_kept (q line : Nat) {s : State} (hmem : s.keeps iv) : (State.dropLine s q line).keeps iv := by
  unfold State.dropLine
  repeat' first
    | with_reducible assumption | with_reducible refine modQuad_kept _ _ ?_ | split | dsimp only | dsimp only [State.keeps]

theorem setLine_kept (q : Nat) (l : CacheLine) {s : State} (hmem : s.keeps iv) : (State.setLine s q l).keeps iv := by
  unfold State.setLine
  repeat' first
    | with_reducible assumption | with_reducible refine modQuad_kept _ _ ?_ | split | dsimp only | dsimp only [State.keeps]

theorem writeBackBytes_kept (m : Nat) (l : CacheLine)
    {s : State} (hmem : s.keeps iv) : (State.writeBackBytes s m l).keeps iv := by
  unfold State.writeBackBytes
  repeat' first
    | with_reducible assumption | with_reducible refine setDramBytes_kept _ _ _ ?_
    | with_reducible refine countPoolc_kept _ _ ?_ | with_reducible refine modModule_kept _ _ ?_
    | with_reducible refine dramClean_kept _ _ _ ?_ | with_reducible refine touch_kept _ _ _ ?_
    | with_reducible refine foldl_kept ?_ (fun _ _ _ => ?_) | split | dsimp only | dsimp only [State.keeps]

theorem prunePage_kept (m page : Nat) {s : State} (hmem : s.keeps iv) : (State.prunePage s m page).keeps iv := by
  unfold State.prunePage
  repeat' first
    | with_reducible assumption | with_reducible refine modDie_kept _ _ ?_ | split | dsimp only | dsimp only [State.keeps]

theorem cleanLine_kept (q : Nat) (l : CacheLine)
    {s : State} (hmem : s.keeps iv) : (State.cleanLine s q l).keeps iv := by
  unfold State.cleanLine
  repeat' first
    | with_reducible assumption | with_reducible refine hardwareRecord_kept _ _ ?_
    | with_reducible refine writeBackBytes_kept _ _ ?_ | with_reducible refine dropLine_kept _ _ ?_
    | with_reducible refine setLine_kept _ _ ?_ | split | dsimp only | dsimp only [State.keeps]

theorem evictLine_kept (q : Nat) (l : CacheLine)
    {s : State} (hmem : s.keeps iv) : (State.evictLine s q l).keeps iv := by
  unfold State.evictLine
  repeat' first
    | with_reducible assumption | with_reducible refine prunePage_kept _ _ ?_ | with_reducible refine cleanLine_kept _ _ ?_
    | with_reducible refine dropLine_kept _ _ ?_ | split | dsimp only | dsimp only [State.keeps]

theorem putLine_kept (q : Nat) (l : CacheLine) {s : State} (hmem : s.keeps iv) : (State.putLine s q l).keeps iv := by
  unfold State.putLine
  repeat' first
    | with_reducible assumption | with_reducible refine evictLine_kept _ _ ?_ | with_reducible refine setLine_kept _ _ ?_
    | split | dsimp only | dsimp only [State.keeps]

theorem cleanLines_kept (q : Nat) (f : CacheLine → Bool)
    {s : State} (hmem : s.keeps iv) : (State.cleanLines s q f).keeps iv := by
  unfold State.cleanLines
  repeat' first
    | with_reducible assumption | with_reducible refine prunePage_kept _ _ ?_ | with_reducible refine cleanLine_kept _ _ ?_
    | with_reducible refine foldl_kept ?_ (fun _ _ _ => ?_) | split | dsimp only | dsimp only [State.keeps]

theorem cleanQuad_kept (q : Nat) {s : State} (hmem : s.keeps iv) : (State.cleanQuad s q).keeps iv := by
  unfold State.cleanQuad
  repeat' first
    | with_reducible assumption | with_reducible refine cleanLines_kept _ _ ?_ | split | dsimp only | dsimp only [State.keeps]

theorem releaseCore_kept (core scope : Nat)
    {s : State} (hmem : s.keeps iv) : (State.releaseCore s core scope).keeps iv := by
  unfold State.releaseCore
  repeat' first
    | with_reducible assumption | with_reducible refine cleanQuad_kept _ ?_ | split | dsimp only | dsimp only [State.keeps]

theorem acquireCore_kept (core scope : Nat)
    {s : State} (hmem : s.keeps iv) : (State.acquireCore s core scope).keeps iv := by
  unfold State.acquireCore
  repeat' first
    | with_reducible assumption | with_reducible refine modQuad_kept _ _ ?_ | split | dsimp only | dsimp only [State.keeps]

theorem correctLine_kept (q : Nat) (l : CacheLine) (ws : List Nat)
    {s : State} (hmem : s.keeps iv) : (State.correctLine s q l ws).keeps iv := by
  unfold State.correctLine
  repeat' first
    | with_reducible assumption | with_reducible refine countPoolc_kept _ _ ?_ | with_reducible refine setLine_kept _ _ ?_
    | with_reducible refine foldl_kept ?_ (fun _ _ _ => ?_) | split | dsimp only | dsimp only [State.keeps]

theorem cacheRead_kept (core pa n : Nat) (w pin : Bool)
    {s : State} (hmem : s.keeps iv) : okPair iv (State.cacheRead s core pa n w pin) := by
  unfold State.cacheRead
  repeat' first
    | with_reducible assumption | with_reducible refine correctLine_kept _ _ _ ?_ | with_reducible refine dropLine_kept _ _ ?_
    | with_reducible refine putLine_kept _ _ ?_ | with_reducible refine readAt_kept _ _ _ _ ?_
    | with_reducible refine count_kept _ _ _ _ ?_ | with_reducible refine okPair_ok ?_ | with_reducible exact okPair_error
    | with_reducible refine okState_ok ?_ | with_reducible exact okState_error | split | dsimp only | dsimp only [State.keeps]

theorem tolerantWrite_kept (m base off : Nat) (bs : List Byte)
    {s : State} (hmem : s.keeps iv) : (State.tolerantWrite s m base off bs).keeps iv := by
  unfold State.tolerantWrite
  repeat' first
    | with_reducible assumption | with_reducible refine unitWrite_kept _ _ _ ?_
    | with_reducible refine foldl_kept ?_ (fun _ _ _ => ?_) | split | dsimp only | dsimp only [State.keeps]

theorem farRead_kept (core : Nat) (p : Place) (n : Nat)
    {s : State} (hmem : s.keeps iv) : okPair iv (State.farRead s core p n) := by
  unfold State.farRead
  repeat' first
    | with_reducible assumption | with_reducible refine okPair_kept (by assumption) (cacheRead_kept _ _ _ _ _ ?_)
    | with_reducible refine cacheRead_kept _ _ _ _ _ ?_ | with_reducible refine readAt_kept _ _ _ _ ?_
    | with_reducible refine okPair_ok ?_ | with_reducible exact okPair_error | with_reducible refine okState_ok ?_
    | with_reducible exact okState_error | split | dsimp only | dsimp only [State.keeps]

theorem setOwnership_kept (m : Nat) (o : Ownership)
    {s : State} (hmem : s.keeps iv) : (State.setOwnership s m o).keeps iv := by
  unfold State.setOwnership
  repeat' first
    | with_reducible assumption | with_reducible refine modDie_kept _ _ ?_ | split | dsimp only | dsimp only [State.keeps]

theorem dropOwn_kept (core m pa n : Nat)
    {s : State} (hmem : s.keeps iv) : (State.dropOwn s core m pa n).keeps iv := by
  unfold State.dropOwn
  repeat' first
    | with_reducible assumption | with_reducible refine evictLine_kept _ _ ?_
    | with_reducible refine foldl_kept ?_ (fun _ _ _ => ?_) | split | dsimp only | dsimp only [State.keeps]

theorem bypassWrite_kept (core : Nat) (p : Place) (bs : List Byte)
    {s : State} (hmem : s.keeps iv) : (State.bypassWrite s core p bs).keeps iv := by
  unfold State.bypassWrite
  repeat' first
    | with_reducible assumption | with_reducible refine unitWrite_kept _ _ _ ?_
    | with_reducible refine dropOwn_kept _ _ _ _ ?_ | with_reducible refine touch_kept _ _ _ ?_ | split | dsimp only
    | dsimp only [State.keeps]

def FarWrite.kept (iv : Bool) : FarWrite → Prop
  | .done s => s.keeps iv
  | _ => True

theorem farFault_kept {c : Cause} {n : Nat} : (FarWrite.fault c n).kept iv := trivial
theorem farDecide_kept {n : Nat} : (FarWrite.decide n).kept iv := trivial
theorem farDone_kept {s : State} (h : s.keeps iv) : (FarWrite.done s).kept iv := h

theorem farWrite_kept (core : Nat) (p : Place) (bs : List Byte)
    {s : State} (h : s.keeps iv) : (s.farWrite core p bs).kept iv := by
  unfold State.farWrite
  repeat' first
    | with_reducible exact farFault_kept | with_reducible exact farDecide_kept | with_reducible refine farDone_kept ?_
    | with_reducible assumption | with_reducible refine tolerantWrite_kept _ _ _ _ ?_
    | with_reducible refine setOwnership_kept _ _ ?_ | with_reducible refine bypassWrite_kept _ _ _ ?_
    | with_reducible refine markDirty_kept _ ?_ | with_reducible refine setLine_kept _ _ ?_
    | with_reducible refine putLine_kept _ _ ?_ | with_reducible refine dropOwn_kept _ _ _ _ ?_
    | with_reducible refine readAt_kept _ _ _ _ ?_ | with_reducible refine touch_kept _ _ _ ?_
    | with_reducible refine count_kept _ _ _ _ ?_ | split | dsimp only | dsimp only [State.keeps]

theorem farWrite_done {core : Nat} {p : Place} {bs : List Byte} {s t : State} (he : s.farWrite core p bs = .done t)
    (h : s.keeps iv) : t.keeps iv := by
  have := farWrite_kept core p bs h
  rw [he] at this
  exact this

theorem decideOwner_kept (q pa : Nat) {s : State} (hmem : s.keeps iv) : (State.decideOwner s q pa).keeps iv := by
  unfold State.decideOwner
  repeat' first
    | with_reducible assumption | with_reducible refine setOwnership_kept _ _ ?_ | with_reducible refine prunePage_kept _ _ ?_
    | with_reducible refine cleanLine_kept _ _ ?_ | with_reducible refine foldl_kept ?_ (fun _ _ _ => ?_) | split | dsimp only
    | dsimp only [State.keeps]

theorem beforeAtomic_kept (m q pa : Nat)
    {s : State} (hmem : s.keeps iv) : (State.beforeAtomic s m q pa).keeps iv := by
  unfold State.beforeAtomic
  repeat' first
    | with_reducible assumption | with_reducible refine setOwnership_kept _ _ ?_ | with_reducible refine prunePage_kept _ _ ?_
    | with_reducible refine cleanLine_kept _ _ ?_ | with_reducible refine dropLine_kept _ _ ?_
    | with_reducible refine foldl_kept ?_ (fun _ _ _ => ?_) | split | dsimp only | dsimp only [State.keeps]

theorem askFetch_kept (q : Nat) (a : FetchAsk) {s : State} (hmem : s.keeps iv) : (State.askFetch s q a).keeps iv := by
  unfold State.askFetch
  repeat' first
    | with_reducible assumption | exact rfl | with_reducible refine modQuad_kept _ _ ?_
    | with_reducible refine emit_kept ?_ ?_ | split | dsimp only | dsimp only [State.keeps]

theorem discardLines_kept (m pa n : Nat)
    {s : State} (hmem : s.keeps iv) : (State.discardLines s m pa n).keeps iv := by
  unfold State.discardLines
  repeat' first
    | with_reducible assumption | with_reducible refine prunePage_kept _ _ ?_ | split | dsimp only | dsimp only [State.keeps]

/-! ## Issue -/

theorem trapOf_kept (c : Cause) (addr : Word := 0) (sub : Nat := 0)
    {s : State} (hmem : s.keeps iv) : (trapOf s c addr sub).kept iv := by
  unfold trapOf
  repeat' first
    | with_reducible assumption | with_reducible refine trap_kept ?_ | split | dsimp only | dsimp only [State.keeps]

theorem retireAt_kept (seq dflt : Word) (turns : Bool) (opened : List LookWindow)
    {s : State} (hmem : s.keeps iv) : (State.retireAt s seq dflt turns opened).keeps iv := by
  unfold State.retireAt
  repeat' first
    | with_reducible assumption | with_reducible refine setTh_kept _ ?_ | with_reducible refine count_kept _ _ _ _ ?_ | split
    | dsimp only | dsimp only [State.keeps]

theorem blockOn_kept (w : Wait) (words : Nat) (opened : List LookWindow)
    {s : State} (hmem : s.keeps iv) : (State.blockOn s w words opened).keeps iv := by
  unfold State.blockOn
  repeat' first
    | with_reducible assumption | with_reducible refine modTh_kept _ ?_ | split | dsimp only | dsimp only [State.keeps]

theorem settle_kept (words : Nat) (opened : List LookWindow) {r : Res} {s : State} (h : s.keeps iv) (hr : r.kept iv) :
    (s.settle words opened r).keeps iv := by
  unfold State.settle
  cases r
  · exact retireAt_kept _ _ _ _ hr
  · exact retireAt_kept _ _ _ _ hr
  · exact retireAt_kept _ _ _ _ hr
  · exact raise_kept _ _ _ hr
  · exact blockOn_kept _ _ _ hr
  · rename_i x
    cases x
    · exact h
    · exact startWalk_kept _ h

theorem settleSlot_kept (b : Bundle) (m : Meta) {r : Res} {s : State} (h : s.keeps iv) (hr : r.kept iv) :
    (s.settleSlot b m r).keeps iv := by
  unfold State.settleSlot
  cases r <;> first | exact hr | exact h

theorem counted_kept (m : Meta) (s : State) {r : Res} (h : r.kept iv) : (r.counted m s).kept iv := by
  unfold Res.counted
  split
  · split
    · exact count_kept _ _ _ _ h
    · exact h
  · exact h

theorem finish_kept (m : Meta) {r : Res} {s : State} (h : s.keeps iv) (hr : r.kept iv) : (s.finish m r).keeps iv := by
  unfold State.finish
  split
  · exact settle_kept _ _ h hr
  · exact settleSlot_kept _ _ h hr

theorem correctRegs_kept (tid : Nat) (rs : List RegName)
    {s : State} (hmem : s.keeps iv) : (State.correctRegs s tid rs).keeps iv := by
  unfold State.correctRegs
  repeat' first
    | with_reducible assumption | with_reducible refine countPoolc_kept _ _ ?_ | with_reducible refine modThread_kept _ _ ?_
    | split | dsimp only | dsimp only [State.keeps]

theorem lostCycle_kept {s : State} (hmem : s.keeps iv) : (State.lostCycle s).keeps iv := by
  unfold State.lostCycle
  repeat' first
    | with_reducible assumption | with_reducible refine count_kept _ _ _ _ ?_ | split | dsimp only | dsimp only [State.keeps]

theorem issue_kept (m : Meta) {eff : State → Res} {s : State} (h : s.keeps iv)
    (he : ∀ t, t.keeps iv → (eff t).kept iv) : outKept iv (issue m s eff) := by
  unfold issue
  split
  · trivial
  · split
    · exact finish_kept _ h h
    · split
      · exact finish_kept _ (lostCycle_kept h) trivial
      · dsimp only
        split
        · exact finish_kept _ h h
        · refine finish_kept _ h ?_
          split
          · exact counted_kept _ _ (he _ (correctRegs_kept _ _ h))
          · exact correctRegs_kept _ _ h

theorem await_kept (w : Wait) {start : State → State} (ready : State → Bool) {fin : State → Res}
    {s : State} (h : s.keeps iv)
    (hs : ∀ t, t.keeps iv → (start t).keeps iv) (hf : ∀ t, t.keeps iv → (fin t).kept iv) :
    (await w start ready fin s).kept iv := by
  unfold await
  split
  · exact hf s h
  · split
    · exact hf _ (hs s h)
    · exact hs s h

theorem wake_kept (tid : Nat) (ready : Wait → State → Bool) {fin : Wait → State → Res} {s : State} (h : s.keeps iv)
    (hf : ∀ w t, t.keeps iv → (fin w t).kept iv) : (s.wake tid ready fin).keeps iv := by
  unfold State.wake
  dsimp only
  split
  · exact h
  · split
    · exact h
    · split
      · exact h
      · exact settle_kept _ _ h (hf _ _ h)

end Sys2Proof.Machine
end

