-- ==== Sys2Proof/Laws/KeptCompute.lean ====
section
/-!
SUPPORT. Sys2Proof/Laws/KeptCompute.lean: the computing meanings keep the canonical form of memory (log 2) and an agenda of events.
-/
namespace Sys2Proof.Machine

variable {iv : Bool}

/-! ## Scalar -/

theorem scalar3_kept (g : Guard) (d a b : GReg) (f : Word → Word → Word)
    {s : State} (hmem : s.keeps iv) : outKept iv (scalar3 g d a b f s) := by
  unfold scalar3
  repeat' first
    | with_reducible assumption | with_reducible refine setG_kept _ _ ?_
    | with_reducible refine issue_kept _ ?_ (fun _ _ => ?_) | with_reducible refine retire_kept ?_
    | with_reducible refine next_kept ?_ | with_reducible exact trivial | split | dsimp only | dsimp only [State.keeps]

theorem scalar2_kept (g : Guard) (d a : GReg) (f : Word → Word)
    {s : State} (hmem : s.keeps iv) : outKept iv (scalar2 g d a f s) := by
  unfold scalar2
  repeat' first
    | with_reducible assumption | with_reducible refine setG_kept _ _ ?_
    | with_reducible refine issue_kept _ ?_ (fun _ _ => ?_) | with_reducible refine retire_kept ?_
    | with_reducible refine next_kept ?_ | with_reducible exact trivial | split | dsimp only | dsimp only [State.keeps]

theorem division_kept (g : Guard) (d a b : GReg) (f : Word → Word → Word)
    {s : State} (hmem : s.keeps iv) : outKept iv (division g d a b f s) := by
  unfold division
  repeat' first
    | with_reducible assumption | with_reducible refine setG_kept _ _ ?_ | with_reducible refine trapOf_kept _ _ _ ?_
    | with_reducible refine issue_kept _ ?_ (fun _ _ => ?_) | with_reducible refine retire_kept ?_
    | with_reducible refine next_kept ?_ | with_reducible exact trivial | split | dsimp only | dsimp only [State.keeps]

theorem scalarImm_kept (major : Nat) (words : Nat) (g : Guard) (d a : GReg) (f : Word → Word)
    {s : State} (hmem : s.keeps iv) : outKept iv (scalarImm major words g d a f s) := by
  unfold scalarImm
  repeat' first
    | with_reducible assumption | with_reducible refine setG_kept _ _ ?_
    | with_reducible refine issue_kept _ ?_ (fun _ _ => ?_) | with_reducible refine retire_kept ?_
    | with_reducible refine next_kept ?_ | with_reducible exact trivial | split | dsimp only | dsimp only [State.keeps]

theorem execAdd_kept (g : Guard) (d a b : GReg) {s : State} (hmem : s.keeps iv) : outKept iv (execAdd g d a b s) := by
  unfold execAdd
  repeat' first
    | with_reducible assumption | with_reducible refine scalar3_kept _ _ _ _ _ ?_ | with_reducible refine next_kept ?_
    | with_reducible exact trivial | split | dsimp only | dsimp only [State.keeps]

theorem execSub_kept (g : Guard) (d a b : GReg) {s : State} (hmem : s.keeps iv) : outKept iv (execSub g d a b s) := by
  unfold execSub
  repeat' first
    | with_reducible assumption | with_reducible refine scalar3_kept _ _ _ _ _ ?_ | with_reducible refine next_kept ?_
    | with_reducible exact trivial | split | dsimp only | dsimp only [State.keeps]

theorem execAnd_kept (g : Guard) (d a b : GReg) {s : State} (hmem : s.keeps iv) : outKept iv (execAnd g d a b s) := by
  unfold execAnd
  repeat' first
    | with_reducible assumption | with_reducible refine scalar3_kept _ _ _ _ _ ?_ | with_reducible refine next_kept ?_
    | with_reducible exact trivial | split | dsimp only | dsimp only [State.keeps]

theorem execOr_kept (g : Guard) (d a b : GReg) {s : State} (hmem : s.keeps iv) : outKept iv (execOr g d a b s) := by
  unfold execOr
  repeat' first
    | with_reducible assumption | with_reducible refine scalar3_kept _ _ _ _ _ ?_ | with_reducible refine next_kept ?_
    | with_reducible exact trivial | split | dsimp only | dsimp only [State.keeps]

theorem execXor_kept (g : Guard) (d a b : GReg) {s : State} (hmem : s.keeps iv) : outKept iv (execXor g d a b s) := by
  unfold execXor
  repeat' first
    | with_reducible assumption | with_reducible refine scalar3_kept _ _ _ _ _ ?_ | with_reducible refine next_kept ?_
    | with_reducible exact trivial | split | dsimp only | dsimp only [State.keeps]

theorem execAndn_kept (g : Guard) (d a b : GReg) {s : State} (hmem : s.keeps iv) : outKept iv (execAndn g d a b s) := by
  unfold execAndn
  repeat' first
    | with_reducible assumption | with_reducible refine scalar3_kept _ _ _ _ _ ?_ | with_reducible refine next_kept ?_
    | with_reducible exact trivial | split | dsimp only | dsimp only [State.keeps]

theorem execShl_kept (g : Guard) (d a b : GReg) {s : State} (hmem : s.keeps iv) : outKept iv (execShl g d a b s) := by
  unfold execShl
  repeat' first
    | with_reducible assumption | with_reducible refine scalar3_kept _ _ _ _ _ ?_ | with_reducible refine next_kept ?_
    | with_reducible exact trivial | split | dsimp only | dsimp only [State.keeps]

theorem execShr_kept (g : Guard) (d a b : GReg) {s : State} (hmem : s.keeps iv) : outKept iv (execShr g d a b s) := by
  unfold execShr
  repeat' first
    | with_reducible assumption | with_reducible refine scalar3_kept _ _ _ _ _ ?_ | with_reducible refine next_kept ?_
    | with_reducible exact trivial | split | dsimp only | dsimp only [State.keeps]

theorem execSar_kept (g : Guard) (d a b : GReg) {s : State} (hmem : s.keeps iv) : outKept iv (execSar g d a b s) := by
  unfold execSar
  repeat' first
    | with_reducible assumption | with_reducible refine scalar3_kept _ _ _ _ _ ?_ | with_reducible refine next_kept ?_
    | with_reducible exact trivial | split | dsimp only | dsimp only [State.keeps]

theorem execRol_kept (g : Guard) (d a b : GReg) {s : State} (hmem : s.keeps iv) : outKept iv (execRol g d a b s) := by
  unfold execRol
  repeat' first
    | with_reducible assumption | with_reducible refine scalar3_kept _ _ _ _ _ ?_ | with_reducible refine next_kept ?_
    | with_reducible exact trivial | split | dsimp only | dsimp only [State.keeps]

theorem execMul_kept (g : Guard) (d a b : GReg) {s : State} (hmem : s.keeps iv) : outKept iv (execMul g d a b s) := by
  unfold execMul
  repeat' first
    | with_reducible assumption | with_reducible refine scalar3_kept _ _ _ _ _ ?_ | with_reducible refine next_kept ?_
    | with_reducible exact trivial | split | dsimp only | dsimp only [State.keeps]

theorem execMulh_kept (g : Guard) (d a b : GReg) {s : State} (hmem : s.keeps iv) : outKept iv (execMulh g d a b s) := by
  unfold execMulh
  repeat' first
    | with_reducible assumption | with_reducible refine scalar3_kept _ _ _ _ _ ?_ | with_reducible refine next_kept ?_
    | with_reducible exact trivial | split | dsimp only | dsimp only [State.keeps]

theorem execMulhz_kept (g : Guard) (d a b : GReg) {s : State} (hmem : s.keeps iv) : outKept iv (execMulhz g d a b s) := by
  unfold execMulhz
  repeat' first
    | with_reducible assumption | with_reducible refine scalar3_kept _ _ _ _ _ ?_ | with_reducible refine next_kept ?_
    | with_reducible exact trivial | split | dsimp only | dsimp only [State.keeps]

theorem execMin_kept (g : Guard) (d a b : GReg) {s : State} (hmem : s.keeps iv) : outKept iv (execMin g d a b s) := by
  unfold execMin
  repeat' first
    | with_reducible assumption | with_reducible refine scalar3_kept _ _ _ _ _ ?_ | with_reducible refine next_kept ?_
    | with_reducible exact trivial | split | dsimp only | dsimp only [State.keeps]

theorem execMax_kept (g : Guard) (d a b : GReg) {s : State} (hmem : s.keeps iv) : outKept iv (execMax g d a b s) := by
  unfold execMax
  repeat' first
    | with_reducible assumption | with_reducible refine scalar3_kept _ _ _ _ _ ?_ | with_reducible refine next_kept ?_
    | with_reducible exact trivial | split | dsimp only | dsimp only [State.keeps]

theorem execMinz_kept (g : Guard) (d a b : GReg) {s : State} (hmem : s.keeps iv) : outKept iv (execMinz g d a b s) := by
  unfold execMinz
  repeat' first
    | with_reducible assumption | with_reducible refine scalar3_kept _ _ _ _ _ ?_ | with_reducible refine next_kept ?_
    | with_reducible exact trivial | split | dsimp only | dsimp only [State.keeps]

theorem execMaxz_kept (g : Guard) (d a b : GReg) {s : State} (hmem : s.keeps iv) : outKept iv (execMaxz g d a b s) := by
  unfold execMaxz
  repeat' first
    | with_reducible assumption | with_reducible refine scalar3_kept _ _ _ _ _ ?_ | with_reducible refine next_kept ?_
    | with_reducible exact trivial | split | dsimp only | dsimp only [State.keeps]

theorem execDiv_kept (g : Guard) (d a b : GReg) {s : State} (hmem : s.keeps iv) : outKept iv (execDiv g d a b s) := by
  unfold execDiv
  repeat' first
    | with_reducible assumption | with_reducible refine division_kept _ _ _ _ _ ?_ | with_reducible refine next_kept ?_
    | with_reducible exact trivial | split | dsimp only | dsimp only [State.keeps]

theorem execDivz_kept (g : Guard) (d a b : GReg) {s : State} (hmem : s.keeps iv) : outKept iv (execDivz g d a b s) := by
  unfold execDivz
  repeat' first
    | with_reducible assumption | with_reducible refine division_kept _ _ _ _ _ ?_ | with_reducible refine next_kept ?_
    | with_reducible exact trivial | split | dsimp only | dsimp only [State.keeps]

theorem execRem_kept (g : Guard) (d a b : GReg) {s : State} (hmem : s.keeps iv) : outKept iv (execRem g d a b s) := by
  unfold execRem
  repeat' first
    | with_reducible assumption | with_reducible refine division_kept _ _ _ _ _ ?_ | with_reducible refine next_kept ?_
    | with_reducible exact trivial | split | dsimp only | dsimp only [State.keeps]

theorem execRemz_kept (g : Guard) (d a b : GReg) {s : State} (hmem : s.keeps iv) : outKept iv (execRemz g d a b s) := by
  unfold execRemz
  repeat' first
    | with_reducible assumption | with_reducible refine division_kept _ _ _ _ _ ?_ | with_reducible refine next_kept ?_
    | with_reducible exact trivial | split | dsimp only | dsimp only [State.keeps]

theorem execClz_kept (g : Guard) (d a : GReg) {s : State} (hmem : s.keeps iv) : outKept iv (execClz g d a s) := by
  unfold execClz
  repeat' first
    | with_reducible assumption | with_reducible refine scalar2_kept _ _ _ _ ?_ | with_reducible refine next_kept ?_
    | with_reducible exact trivial | split | dsimp only | dsimp only [State.keeps]

theorem execCtz_kept (g : Guard) (d a : GReg) {s : State} (hmem : s.keeps iv) : outKept iv (execCtz g d a s) := by
  unfold execCtz
  repeat' first
    | with_reducible assumption | with_reducible refine scalar2_kept _ _ _ _ ?_ | with_reducible refine next_kept ?_
    | with_reducible exact trivial | split | dsimp only | dsimp only [State.keeps]

theorem execPopc_kept (g : Guard) (d a : GReg) {s : State} (hmem : s.keeps iv) : outKept iv (execPopc g d a s) := by
  unfold execPopc
  repeat' first
    | with_reducible assumption | with_reducible refine scalar2_kept _ _ _ _ ?_ | with_reducible refine next_kept ?_
    | with_reducible exact trivial | split | dsimp only | dsimp only [State.keeps]

theorem execSextB_kept (g : Guard) (d a : GReg) {s : State} (hmem : s.keeps iv) : outKept iv (execSextB g d a s) := by
  unfold execSextB
  repeat' first
    | with_reducible assumption | with_reducible refine scalar2_kept _ _ _ _ ?_ | with_reducible refine next_kept ?_
    | with_reducible exact trivial | split | dsimp only | dsimp only [State.keeps]

theorem execSextH_kept (g : Guard) (d a : GReg) {s : State} (hmem : s.keeps iv) : outKept iv (execSextH g d a s) := by
  unfold execSextH
  repeat' first
    | with_reducible assumption | with_reducible refine scalar2_kept _ _ _ _ ?_ | with_reducible refine next_kept ?_
    | with_reducible exact trivial | split | dsimp only | dsimp only [State.keeps]

theorem execSextW_kept (g : Guard) (d a : GReg) {s : State} (hmem : s.keeps iv) : outKept iv (execSextW g d a s) := by
  unfold execSextW
  repeat' first
    | with_reducible assumption | with_reducible refine scalar2_kept _ _ _ _ ?_ | with_reducible refine next_kept ?_
    | with_reducible exact trivial | split | dsimp only | dsimp only [State.keeps]

theorem execZextB_kept (g : Guard) (d a : GReg) {s : State} (hmem : s.keeps iv) : outKept iv (execZextB g d a s) := by
  unfold execZextB
  repeat' first
    | with_reducible assumption | with_reducible refine scalar2_kept _ _ _ _ ?_ | with_reducible refine next_kept ?_
    | with_reducible exact trivial | split | dsimp only | dsimp only [State.keeps]

theorem execZextH_kept (g : Guard) (d a : GReg) {s : State} (hmem : s.keeps iv) : outKept iv (execZextH g d a s) := by
  unfold execZextH
  repeat' first
    | with_reducible assumption | with_reducible refine scalar2_kept _ _ _ _ ?_ | with_reducible refine next_kept ?_
    | with_reducible exact trivial | split | dsimp only | dsimp only [State.keeps]

theorem execZextW_kept (g : Guard) (d a : GReg) {s : State} (hmem : s.keeps iv) : outKept iv (execZextW g d a s) := by
  unfold execZextW
  repeat' first
    | with_reducible assumption | with_reducible refine scalar2_kept _ _ _ _ ?_ | with_reducible refine next_kept ?_
    | with_reducible exact trivial | split | dsimp only | dsimp only [State.keeps]

theorem execBext_kept (g : Guard) (d a b : GReg) {s : State} (hmem : s.keeps iv) : outKept iv (execBext g d a b s) := by
  unfold execBext
  repeat' first
    | with_reducible assumption | with_reducible refine scalar3_kept _ _ _ _ _ ?_ | with_reducible refine next_kept ?_
    | with_reducible exact trivial | split | dsimp only | dsimp only [State.keeps]

theorem execBins_kept (g : Guard) (d a b : GReg) {s : State} (hmem : s.keeps iv) : outKept iv (execBins g d a b s) := by
  unfold execBins
  repeat' first
    | with_reducible assumption | with_reducible refine setG_kept _ _ ?_
    | with_reducible refine issue_kept _ ?_ (fun _ _ => ?_) | with_reducible refine retire_kept ?_
    | with_reducible refine next_kept ?_ | with_reducible exact trivial | split | dsimp only | dsimp only [State.keeps]

theorem execBextDw_kept (g : Guard) (d a : GReg) (pos : Fin 64) (wid : Fin 128)
    {s : State} (hmem : s.keeps iv) : outKept iv (execBextDw g d a pos wid s) := by
  unfold execBextDw
  repeat' first
    | with_reducible assumption | with_reducible refine setG_kept _ _ ?_
    | with_reducible refine issue_kept _ ?_ (fun _ _ => ?_) | with_reducible refine retire_kept ?_
    | with_reducible refine next_kept ?_ | with_reducible exact trivial | split | dsimp only | dsimp only [State.keeps]

theorem execBinsDw_kept (g : Guard) (d a : GReg) (pos : Fin 64) (wid : Fin 128)
    {s : State} (hmem : s.keeps iv) : outKept iv (execBinsDw g d a pos wid s) := by
  unfold execBinsDw
  repeat' first
    | with_reducible assumption | with_reducible refine setG_kept _ _ ?_
    | with_reducible refine issue_kept _ ?_ (fun _ _ => ?_) | with_reducible refine retire_kept ?_
    | with_reducible refine next_kept ?_ | with_reducible exact trivial | split | dsimp only | dsimp only [State.keeps]

theorem execAddi_kept (g : Guard) (d a : GReg) (imm : BitVec 10)
    {s : State} (hmem : s.keeps iv) : outKept iv (execAddi g d a imm s) := by
  unfold execAddi
  repeat' first
    | with_reducible assumption | with_reducible refine scalarImm_kept _ _ _ _ _ _ ?_ | with_reducible refine next_kept ?_
    | with_reducible exact trivial | split | dsimp only | dsimp only [State.keeps]

theorem execAddiDw_kept (g : Guard) (d a : GReg) (imm : BitVec 32)
    {s : State} (hmem : s.keeps iv) : outKept iv (execAddiDw g d a imm s) := by
  unfold execAddiDw
  repeat' first
    | with_reducible assumption | with_reducible refine scalarImm_kept _ _ _ _ _ _ ?_ | with_reducible refine next_kept ?_
    | with_reducible exact trivial | split | dsimp only | dsimp only [State.keeps]

theorem execAndi_kept (g : Guard) (d a : GReg) (imm : BitVec 10)
    {s : State} (hmem : s.keeps iv) : outKept iv (execAndi g d a imm s) := by
  unfold execAndi
  repeat' first
    | with_reducible assumption | with_reducible refine scalarImm_kept _ _ _ _ _ _ ?_ | with_reducible refine next_kept ?_
    | with_reducible exact trivial | split | dsimp only | dsimp only [State.keeps]

theorem execAndiDw_kept (g : Guard) (d a : GReg) (imm : BitVec 32)
    {s : State} (hmem : s.keeps iv) : outKept iv (execAndiDw g d a imm s) := by
  unfold execAndiDw
  repeat' first
    | with_reducible assumption | with_reducible refine scalarImm_kept _ _ _ _ _ _ ?_ | with_reducible refine next_kept ?_
    | with_reducible exact trivial | split | dsimp only | dsimp only [State.keeps]

theorem execOri_kept (g : Guard) (d a : GReg) (imm : BitVec 10)
    {s : State} (hmem : s.keeps iv) : outKept iv (execOri g d a imm s) := by
  unfold execOri
  repeat' first
    | with_reducible assumption | with_reducible refine scalarImm_kept _ _ _ _ _ _ ?_ | with_reducible refine next_kept ?_
    | with_reducible exact trivial | split | dsimp only | dsimp only [State.keeps]

theorem execOriDw_kept (g : Guard) (d a : GReg) (imm : BitVec 32)
    {s : State} (hmem : s.keeps iv) : outKept iv (execOriDw g d a imm s) := by
  unfold execOriDw
  repeat' first
    | with_reducible assumption | with_reducible refine scalarImm_kept _ _ _ _ _ _ ?_ | with_reducible refine next_kept ?_
    | with_reducible exact trivial | split | dsimp only | dsimp only [State.keeps]

theorem execXori_kept (g : Guard) (d a : GReg) (imm : BitVec 10)
    {s : State} (hmem : s.keeps iv) : outKept iv (execXori g d a imm s) := by
  unfold execXori
  repeat' first
    | with_reducible assumption | with_reducible refine scalarImm_kept _ _ _ _ _ _ ?_ | with_reducible refine next_kept ?_
    | with_reducible exact trivial | split | dsimp only | dsimp only [State.keeps]

theorem execXoriDw_kept (g : Guard) (d a : GReg) (imm : BitVec 32)
    {s : State} (hmem : s.keeps iv) : outKept iv (execXoriDw g d a imm s) := by
  unfold execXoriDw
  repeat' first
    | with_reducible assumption | with_reducible refine scalarImm_kept _ _ _ _ _ _ ?_ | with_reducible refine next_kept ?_
    | with_reducible exact trivial | split | dsimp only | dsimp only [State.keeps]

theorem execShli_kept (g : Guard) (d a : GReg) (n : Fin 64)
    {s : State} (hmem : s.keeps iv) : outKept iv (execShli g d a n s) := by
  unfold execShli
  repeat' first
    | with_reducible assumption | with_reducible refine scalarImm_kept _ _ _ _ _ _ ?_ | with_reducible refine next_kept ?_
    | with_reducible exact trivial | split | dsimp only | dsimp only [State.keeps]

theorem execShri_kept (g : Guard) (d a : GReg) (n : Fin 64)
    {s : State} (hmem : s.keeps iv) : outKept iv (execShri g d a n s) := by
  unfold execShri
  repeat' first
    | with_reducible assumption | with_reducible refine scalarImm_kept _ _ _ _ _ _ ?_ | with_reducible refine next_kept ?_
    | with_reducible exact trivial | split | dsimp only | dsimp only [State.keeps]

theorem execSari_kept (g : Guard) (d a : GReg) (n : Fin 64)
    {s : State} (hmem : s.keeps iv) : outKept iv (execSari g d a n s) := by
  unfold execSari
  repeat' first
    | with_reducible assumption | with_reducible refine scalarImm_kept _ _ _ _ _ _ ?_ | with_reducible refine next_kept ?_
    | with_reducible exact trivial | split | dsimp only | dsimp only [State.keeps]

theorem execLimm_kept (g : Guard) (d : GReg) (imm : BitVec 10)
    {s : State} (hmem : s.keeps iv) : outKept iv (execLimm g d imm s) := by
  unfold execLimm
  repeat' first
    | with_reducible assumption | with_reducible refine setG_kept _ _ ?_
    | with_reducible refine issue_kept _ ?_ (fun _ _ => ?_) | with_reducible refine retire_kept ?_
    | with_reducible refine next_kept ?_ | with_reducible exact trivial | split | dsimp only | dsimp only [State.keeps]

theorem execLimmh_kept (g : Guard) (d : GReg) (imm : BitVec 10)
    {s : State} (hmem : s.keeps iv) : outKept iv (execLimmh g d imm s) := by
  unfold execLimmh
  repeat' first
    | with_reducible assumption | with_reducible refine setG_kept _ _ ?_
    | with_reducible refine issue_kept _ ?_ (fun _ _ => ?_) | with_reducible refine retire_kept ?_
    | with_reducible refine next_kept ?_ | with_reducible exact trivial | split | dsimp only | dsimp only [State.keeps]

theorem execAddpc_kept (g : Guard) (d : GReg) (imm : BitVec 10)
    {s : State} (hmem : s.keeps iv) : outKept iv (execAddpc g d imm s) := by
  unfold execAddpc
  repeat' first
    | with_reducible assumption | with_reducible refine setG_kept _ _ ?_
    | with_reducible refine issue_kept _ ?_ (fun _ _ => ?_) | with_reducible refine retire_kept ?_
    | with_reducible refine next_kept ?_ | with_reducible exact trivial | split | dsimp only | dsimp only [State.keeps]

theorem execLimmDw_kept (g : Guard) (d : GReg) (imm : BitVec 32)
    {s : State} (hmem : s.keeps iv) : outKept iv (execLimmDw g d imm s) := by
  unfold execLimmDw
  repeat' first
    | with_reducible assumption | with_reducible refine setG_kept _ _ ?_
    | with_reducible refine issue_kept _ ?_ (fun _ _ => ?_) | with_reducible refine retire_kept ?_
    | with_reducible refine next_kept ?_ | with_reducible exact trivial | split | dsimp only | dsimp only [State.keeps]

theorem execLimmhDw_kept (g : Guard) (d : GReg) (imm : BitVec 32)
    {s : State} (hmem : s.keeps iv) : outKept iv (execLimmhDw g d imm s) := by
  unfold execLimmhDw
  repeat' first
    | with_reducible assumption | with_reducible refine setG_kept _ _ ?_
    | with_reducible refine issue_kept _ ?_ (fun _ _ => ?_) | with_reducible refine retire_kept ?_
    | with_reducible refine next_kept ?_ | with_reducible exact trivial | split | dsimp only | dsimp only [State.keeps]

theorem execAddpcDw_kept (g : Guard) (d : GReg) (imm : BitVec 32)
    {s : State} (hmem : s.keeps iv) : outKept iv (execAddpcDw g d imm s) := by
  unfold execAddpcDw
  repeat' first
    | with_reducible assumption | with_reducible refine setG_kept _ _ ?_
    | with_reducible refine issue_kept _ ?_ (fun _ _ => ?_) | with_reducible refine retire_kept ?_
    | with_reducible refine next_kept ?_ | with_reducible exact trivial | split | dsimp only | dsimp only [State.keeps]

theorem compareImm_kept (words : Nat) (major : Nat) (g : Guard) (c : Fin 8) (p : PReg) (a : GReg) (y : Word)
    {s : State} (hmem : s.keeps iv) : outKept iv (compareImm words major g c p a y s) := by
  unfold compareImm
  repeat' first
    | with_reducible assumption | with_reducible refine setP_kept _ _ ?_
    | with_reducible refine issue_kept _ ?_ (fun _ _ => ?_) | with_reducible refine retire_kept ?_
    | with_reducible refine next_kept ?_ | with_reducible exact trivial | split | dsimp only | dsimp only [State.keeps]

theorem execCmpCc_kept (g : Guard) (c : Fin 8) (p : PReg) (a b : GReg)
    {s : State} (hmem : s.keeps iv) : outKept iv (execCmpCc g c p a b s) := by
  unfold execCmpCc
  repeat' first
    | with_reducible assumption | with_reducible refine setP_kept _ _ ?_
    | with_reducible refine issue_kept _ ?_ (fun _ _ => ?_) | with_reducible refine retire_kept ?_
    | with_reducible refine next_kept ?_ | with_reducible exact trivial | split | dsimp only | dsimp only [State.keeps]

theorem execCmpiCcLow_kept (g : Guard) (c : Fin 4) (p : PReg) (a : GReg) (imm : BitVec 10)
    {s : State} (hmem : s.keeps iv) : outKept iv (execCmpiCcLow g c p a imm s) := by
  unfold execCmpiCcLow
  repeat' first
    | with_reducible assumption | with_reducible refine compareImm_kept _ _ _ _ _ _ _ ?_ | with_reducible refine next_kept ?_
    | with_reducible exact trivial | split | dsimp only | dsimp only [State.keeps]

theorem execCmpiCcHigh_kept (g : Guard) (c : Fin 4) (p : PReg) (a : GReg) (imm : BitVec 10)
    {s : State} (hmem : s.keeps iv) : outKept iv (execCmpiCcHigh g c p a imm s) := by
  unfold execCmpiCcHigh
  repeat' first
    | with_reducible assumption | with_reducible refine compareImm_kept _ _ _ _ _ _ _ ?_ | with_reducible refine next_kept ?_
    | with_reducible exact trivial | split | dsimp only | dsimp only [State.keeps]

theorem execCmpiDw_kept (g : Guard) (c : Fin 8) (p : PReg) (a : GReg) (imm : BitVec 32)
    {s : State} (hmem : s.keeps iv) : outKept iv (execCmpiDw g c p a imm s) := by
  unfold execCmpiDw
  repeat' first
    | with_reducible assumption | with_reducible refine compareImm_kept _ _ _ _ _ _ _ ?_ | with_reducible refine next_kept ?_
    | with_reducible exact trivial | split | dsimp only | dsimp only [State.keeps]

theorem predicate3_kept (g : Guard) (d a b : PReg) (f : Bool → Bool → Bool)
    {s : State} (hmem : s.keeps iv) : outKept iv (predicate3 g d a b f s) := by
  unfold predicate3
  repeat' first
    | with_reducible assumption | with_reducible refine setP_kept _ _ ?_
    | with_reducible refine issue_kept _ ?_ (fun _ _ => ?_) | with_reducible refine retire_kept ?_
    | with_reducible refine next_kept ?_ | with_reducible exact trivial | split | dsimp only | dsimp only [State.keeps]

theorem execPand_kept (g : Guard) (d a b : PReg) {s : State} (hmem : s.keeps iv) : outKept iv (execPand g d a b s) := by
  unfold execPand
  repeat' first
    | with_reducible assumption | with_reducible refine predicate3_kept _ _ _ _ _ ?_ | with_reducible refine next_kept ?_
    | with_reducible exact trivial | split | dsimp only | dsimp only [State.keeps]

theorem execPor_kept (g : Guard) (d a b : PReg) {s : State} (hmem : s.keeps iv) : outKept iv (execPor g d a b s) := by
  unfold execPor
  repeat' first
    | with_reducible assumption | with_reducible refine predicate3_kept _ _ _ _ _ ?_ | with_reducible refine next_kept ?_
    | with_reducible exact trivial | split | dsimp only | dsimp only [State.keeps]

theorem execPxor_kept (g : Guard) (d a b : PReg) {s : State} (hmem : s.keeps iv) : outKept iv (execPxor g d a b s) := by
  unfold execPxor
  repeat' first
    | with_reducible assumption | with_reducible refine predicate3_kept _ _ _ _ _ ?_ | with_reducible refine next_kept ?_
    | with_reducible exact trivial | split | dsimp only | dsimp only [State.keeps]

theorem execPnot_kept (g : Guard) (d a : PReg) {s : State} (hmem : s.keeps iv) : outKept iv (execPnot g d a s) := by
  unfold execPnot
  repeat' first
    | with_reducible assumption | with_reducible refine predicate3_kept _ _ _ _ _ ?_ | with_reducible refine next_kept ?_
    | with_reducible exact trivial | split | dsimp only | dsimp only [State.keeps]

theorem execPmov_kept (g : Guard) (d a : PReg) {s : State} (hmem : s.keeps iv) : outKept iv (execPmov g d a s) := by
  unfold execPmov
  repeat' first
    | with_reducible assumption | with_reducible refine predicate3_kept _ _ _ _ _ ?_ | with_reducible refine next_kept ?_
    | with_reducible exact trivial | split | dsimp only | dsimp only [State.keeps]

/-! ## Control -/

theorem leave_kept (t : Word) {s : State} (hmem : s.keeps iv) : (State.leave s t).keeps iv := by
  unfold State.leave
  repeat' first
    | with_reducible assumption | with_reducible refine modTh_kept _ ?_ | split | dsimp only | dsimp only [State.keeps]

theorem goTo_kept (t : Word) (leaves : Bool) {s : State} (hmem : s.keeps iv) : (State.goTo s t leaves).kept iv := by
  unfold State.goTo
  repeat' first
    | with_reducible assumption | with_reducible refine leave_kept _ ?_ | with_reducible refine jump_kept ?_
    | with_reducible refine trap_kept ?_ | split | dsimp only | dsimp only [State.keeps]

theorem execBr_kept (g : Guard) (off : BitVec 20) {s : State} (hmem : s.keeps iv) : outKept iv (execBr g off s) := by
  unfold execBr
  repeat' first
    | with_reducible assumption | with_reducible refine goTo_kept _ _ ?_
    | with_reducible refine issue_kept _ ?_ (fun _ _ => ?_) | with_reducible refine next_kept ?_
    | with_reducible exact trivial | split | dsimp only | dsimp only [State.keeps]

theorem execCall_kept (g : Guard) (off : BitVec 20) {s : State} (hmem : s.keeps iv) : outKept iv (execCall g off s) := by
  unfold execCall
  repeat' first
    | with_reducible assumption | with_reducible refine setG_kept _ _ ?_
    | with_reducible refine issue_kept _ ?_ (fun _ _ => ?_) | with_reducible refine jump_kept ?_
    | with_reducible refine trap_kept ?_ | with_reducible refine next_kept ?_ | with_reducible exact trivial | split
    | dsimp only | dsimp only [State.keeps]

theorem execJr_kept (g : Guard) (a : GReg) {s : State} (hmem : s.keeps iv) : outKept iv (execJr g a s) := by
  unfold execJr
  repeat' first
    | with_reducible assumption | with_reducible refine goTo_kept _ _ ?_
    | with_reducible refine issue_kept _ ?_ (fun _ _ => ?_) | with_reducible refine next_kept ?_
    | with_reducible exact trivial | split | dsimp only | dsimp only [State.keeps]

theorem execRet_kept (g : Guard) {s : State} (hmem : s.keeps iv) : outKept iv (execRet g s) := by
  unfold execRet
  repeat' first
    | with_reducible assumption | with_reducible refine goTo_kept _ _ ?_
    | with_reducible refine issue_kept _ ?_ (fun _ _ => ?_) | with_reducible refine next_kept ?_
    | with_reducible exact trivial | split | dsimp only | dsimp only [State.keeps]

theorem execRot_kept (g : Guard) {s : State} (hmem : s.keeps iv) : outKept iv (execRot g s) := by
  unfold execRot
  repeat' first
    | with_reducible assumption | with_reducible refine modTh_kept _ ?_
    | with_reducible refine issue_kept _ ?_ (fun _ _ => ?_) | with_reducible refine retire_kept ?_
    | with_reducible refine next_kept ?_ | with_reducible exact trivial | split | dsimp only | dsimp only [State.keeps]

theorem execStage_kept (g : Guard) (a : GReg) {s : State} (hmem : s.keeps iv) : outKept iv (execStage g a s) := by
  unfold execStage
  repeat' first
    | with_reducible assumption | with_reducible refine modTh_kept _ ?_
    | with_reducible refine issue_kept _ ?_ (fun _ _ => ?_) | with_reducible refine retire_kept ?_
    | with_reducible refine next_kept ?_ | with_reducible exact trivial | split | dsimp only | dsimp only [State.keeps]

theorem execNop_kept (g : Guard) {s : State} (hmem : s.keeps iv) : outKept iv (execNop g s) := by
  unfold execNop
  repeat' first
    | with_reducible assumption | with_reducible refine issue_kept _ ?_ (fun _ _ => ?_) | with_reducible refine retire_kept ?_
    | with_reducible refine next_kept ?_ | with_reducible exact trivial | split | dsimp only | dsimp only [State.keeps]

theorem prefetch_kept (va : Nat) {s : State} (hmem : s.keeps iv) : (State.prefetch s va).keeps iv := by
  unfold State.prefetch
  repeat' first
    | with_reducible assumption | with_reducible refine askFetch_kept _ _ ?_ | split | dsimp only | dsimp only [State.keeps]

theorem execHint_kept (g : Guard) (b : Fin 32) {s : State} (hmem : s.keeps iv) : outKept iv (execHint g b s) := by
  unfold execHint
  repeat' first
    | with_reducible assumption | with_reducible refine prefetch_kept _ ?_
    | with_reducible refine issue_kept _ ?_ (fun _ _ => ?_) | with_reducible refine retire_kept ?_
    | with_reducible refine next_kept ?_ | with_reducible exact trivial | split | dsimp only | dsimp only [State.keeps]

theorem startLoop_kept (n : LcReg) (pipe : Bool) (trips : Nat) (len : Nat) (words : Nat)
    {s : State} (hmem : s.keeps iv) : (State.startLoop s n pipe trips len words).kept iv := by
  unfold State.startLoop
  repeat' first
    | with_reducible assumption | with_reducible refine modTh_kept _ ?_ | with_reducible refine retire_kept ?_
    | with_reducible refine retireTo_kept ?_ | split | dsimp only | dsimp only [State.keeps]

theorem execLoop_kept (g : Guard) (n : LcReg) (a : GReg) (len : BitVec 10)
    {s : State} (hmem : s.keeps iv) : outKept iv (execLoop g n a len s) := by
  unfold execLoop
  repeat' first
    | with_reducible assumption | with_reducible refine startLoop_kept _ _ _ _ _ ?_
    | with_reducible refine issue_kept _ ?_ (fun _ _ => ?_) | with_reducible refine next_kept ?_
    | with_reducible exact trivial | split | dsimp only | dsimp only [State.keeps]

theorem execLoopP_kept (g : Guard) (n : LcReg) (a : GReg) (len : BitVec 10)
    {s : State} (hmem : s.keeps iv) : outKept iv (execLoopP g n a len s) := by
  unfold execLoopP
  repeat' first
    | with_reducible assumption | with_reducible refine startLoop_kept _ _ _ _ _ ?_
    | with_reducible refine issue_kept _ ?_ (fun _ _ => ?_) | with_reducible refine next_kept ?_
    | with_reducible exact trivial | split | dsimp only | dsimp only [State.keeps]

theorem execLoopDw_kept (g : Guard) (pipe : Bool) (n : LcReg) (len : BitVec 10) (trips : BitVec 32)
    {s : State} (hmem : s.keeps iv) : outKept iv (execLoopDw g pipe n len trips s) := by
  unfold execLoopDw
  repeat' first
    | with_reducible assumption | with_reducible refine startLoop_kept _ _ _ _ _ ?_
    | with_reducible refine issue_kept _ ?_ (fun _ _ => ?_) | with_reducible refine next_kept ?_
    | with_reducible exact trivial | split | dsimp only | dsimp only [State.keeps]

/-! ## Local -/

theorem withLoad_kept (ea n align : Nat) {k : Nat → State → Res} {s : State} (h : s.keeps iv)
    (hk : ∀ x t, t.keeps iv → (k x t).kept iv) : (s.withLoad ea n align k).kept iv := by
  unfold State.withLoad
  split
  · exact h
  · split
    · exact h
    · exact hk _ _ (loadLocal_kept _ _ h)

theorem withStore_kept (ea n align v : Nat) {s : State} (hmem : s.keeps iv) : (State.withStore s ea n align v).kept iv := by
  unfold State.withStore
  repeat' first
    | with_reducible assumption | with_reducible refine storeLocal_kept _ _ _ ?_ | with_reducible refine retire_kept ?_
    | with_reducible refine trap_kept ?_ | split | dsimp only | dsimp only [State.keeps]

theorem scalarLoad_kept (words n : Nat) (signed : Bool) (g : Guard) (d a : GReg) (disp : Word)
    {s : State} (hmem : s.keeps iv) : outKept iv (scalarLoad words n signed g d a disp s) := by
  unfold scalarLoad
  repeat' first
    | with_reducible assumption | with_reducible refine withLoad_kept _ _ _ ?_ (fun _ _ _ => ?_)
    | with_reducible refine setG_kept _ _ ?_ | with_reducible refine issue_kept _ ?_ (fun _ _ => ?_)
    | with_reducible refine retire_kept ?_ | with_reducible refine next_kept ?_ | with_reducible exact trivial | split
    | dsimp only | dsimp only [State.keeps]

theorem scalarStore_kept (words n : Nat) (g : Guard) (d a : GReg) (disp : Word)
    {s : State} (hmem : s.keeps iv) : outKept iv (scalarStore words n g d a disp s) := by
  unfold scalarStore
  repeat' first
    | with_reducible assumption | with_reducible refine withStore_kept _ _ _ _ ?_
    | with_reducible refine issue_kept _ ?_ (fun _ _ => ?_) | with_reducible refine next_kept ?_
    | with_reducible exact trivial | split | dsimp only | dsimp only [State.keeps]

theorem execLdb_kept (g : Guard) (d a : GReg) (off : BitVec 6)
    {s : State} (hmem : s.keeps iv) : outKept iv (execLdb g d a off s) := by
  unfold execLdb
  repeat' first
    | with_reducible assumption | with_reducible refine scalarLoad_kept _ _ _ _ _ _ _ ?_ | with_reducible refine next_kept ?_
    | with_reducible exact trivial | split | dsimp only | dsimp only [State.keeps]

theorem execLdbDw_kept (g : Guard) (d a : GReg) (disp : BitVec 32)
    {s : State} (hmem : s.keeps iv) : outKept iv (execLdbDw g d a disp s) := by
  unfold execLdbDw
  repeat' first
    | with_reducible assumption | with_reducible refine scalarLoad_kept _ _ _ _ _ _ _ ?_ | with_reducible refine next_kept ?_
    | with_reducible exact trivial | split | dsimp only | dsimp only [State.keeps]

theorem execLdh_kept (g : Guard) (d a : GReg) (off : BitVec 6)
    {s : State} (hmem : s.keeps iv) : outKept iv (execLdh g d a off s) := by
  unfold execLdh
  repeat' first
    | with_reducible assumption | with_reducible refine scalarLoad_kept _ _ _ _ _ _ _ ?_ | with_reducible refine next_kept ?_
    | with_reducible exact trivial | split | dsimp only | dsimp only [State.keeps]

theorem execLdhDw_kept (g : Guard) (d a : GReg) (disp : BitVec 32)
    {s : State} (hmem : s.keeps iv) : outKept iv (execLdhDw g d a disp s) := by
  unfold execLdhDw
  repeat' first
    | with_reducible assumption | with_reducible refine scalarLoad_kept _ _ _ _ _ _ _ ?_ | with_reducible refine next_kept ?_
    | with_reducible exact trivial | split | dsimp only | dsimp only [State.keeps]

theorem execLdw_kept (g : Guard) (d a : GReg) (off : BitVec 6)
    {s : State} (hmem : s.keeps iv) : outKept iv (execLdw g d a off s) := by
  unfold execLdw
  repeat' first
    | with_reducible assumption | with_reducible refine scalarLoad_kept _ _ _ _ _ _ _ ?_ | with_reducible refine next_kept ?_
    | with_reducible exact trivial | split | dsimp only | dsimp only [State.keeps]

theorem execLdwDw_kept (g : Guard) (d a : GReg) (disp : BitVec 32)
    {s : State} (hmem : s.keeps iv) : outKept iv (execLdwDw g d a disp s) := by
  unfold execLdwDw
  repeat' first
    | with_reducible assumption | with_reducible refine scalarLoad_kept _ _ _ _ _ _ _ ?_ | with_reducible refine next_kept ?_
    | with_reducible exact trivial | split | dsimp only | dsimp only [State.keeps]

theorem execLdd_kept (g : Guard) (d a : GReg) (off : BitVec 6)
    {s : State} (hmem : s.keeps iv) : outKept iv (execLdd g d a off s) := by
  unfold execLdd
  repeat' first
    | with_reducible assumption | with_reducible refine scalarLoad_kept _ _ _ _ _ _ _ ?_ | with_reducible refine next_kept ?_
    | with_reducible exact trivial | split | dsimp only | dsimp only [State.keeps]

theorem execLddDw_kept (g : Guard) (d a : GReg) (disp : BitVec 32)
    {s : State} (hmem : s.keeps iv) : outKept iv (execLddDw g d a disp s) := by
  unfold execLddDw
  repeat' first
    | with_reducible assumption | with_reducible refine scalarLoad_kept _ _ _ _ _ _ _ ?_ | with_reducible refine next_kept ?_
    | with_reducible exact trivial | split | dsimp only | dsimp only [State.keeps]

theorem execLdbz_kept (g : Guard) (d a : GReg) (off : BitVec 6)
    {s : State} (hmem : s.keeps iv) : outKept iv (execLdbz g d a off s) := by
  unfold execLdbz
  repeat' first
    | with_reducible assumption | with_reducible refine scalarLoad_kept _ _ _ _ _ _ _ ?_ | with_reducible refine next_kept ?_
    | with_reducible exact trivial | split | dsimp only | dsimp only [State.keeps]

theorem execLdbzDw_kept (g : Guard) (d a : GReg) (disp : BitVec 32)
    {s : State} (hmem : s.keeps iv) : outKept iv (execLdbzDw g d a disp s) := by
  unfold execLdbzDw
  repeat' first
    | with_reducible assumption | with_reducible refine scalarLoad_kept _ _ _ _ _ _ _ ?_ | with_reducible refine next_kept ?_
    | with_reducible exact trivial | split | dsimp only | dsimp only [State.keeps]

theorem execLdhz_kept (g : Guard) (d a : GReg) (off : BitVec 6)
    {s : State} (hmem : s.keeps iv) : outKept iv (execLdhz g d a off s) := by
  unfold execLdhz
  repeat' first
    | with_reducible assumption | with_reducible refine scalarLoad_kept _ _ _ _ _ _ _ ?_ | with_reducible refine next_kept ?_
    | with_reducible exact trivial | split | dsimp only | dsimp only [State.keeps]

theorem execLdhzDw_kept (g : Guard) (d a : GReg) (disp : BitVec 32)
    {s : State} (hmem : s.keeps iv) : outKept iv (execLdhzDw g d a disp s) := by
  unfold execLdhzDw
  repeat' first
    | with_reducible assumption | with_reducible refine scalarLoad_kept _ _ _ _ _ _ _ ?_ | with_reducible refine next_kept ?_
    | with_reducible exact trivial | split | dsimp only | dsimp only [State.keeps]

theorem execLdwz_kept (g : Guard) (d a : GReg) (off : BitVec 6)
    {s : State} (hmem : s.keeps iv) : outKept iv (execLdwz g d a off s) := by
  unfold execLdwz
  repeat' first
    | with_reducible assumption | with_reducible refine scalarLoad_kept _ _ _ _ _ _ _ ?_ | with_reducible refine next_kept ?_
    | with_reducible exact trivial | split | dsimp only | dsimp only [State.keeps]

theorem execLdwzDw_kept (g : Guard) (d a : GReg) (disp : BitVec 32)
    {s : State} (hmem : s.keeps iv) : outKept iv (execLdwzDw g d a disp s) := by
  unfold execLdwzDw
  repeat' first
    | with_reducible assumption | with_reducible refine scalarLoad_kept _ _ _ _ _ _ _ ?_ | with_reducible refine next_kept ?_
    | with_reducible exact trivial | split | dsimp only | dsimp only [State.keeps]

theorem execStb_kept (g : Guard) (d a : GReg) (off : BitVec 6)
    {s : State} (hmem : s.keeps iv) : outKept iv (execStb g d a off s) := by
  unfold execStb
  repeat' first
    | with_reducible assumption | with_reducible refine scalarStore_kept _ _ _ _ _ _ ?_ | with_reducible refine next_kept ?_
    | with_reducible exact trivial | split | dsimp only | dsimp only [State.keeps]

theorem execStbDw_kept (g : Guard) (d a : GReg) (disp : BitVec 32)
    {s : State} (hmem : s.keeps iv) : outKept iv (execStbDw g d a disp s) := by
  unfold execStbDw
  repeat' first
    | with_reducible assumption | with_reducible refine scalarStore_kept _ _ _ _ _ _ ?_ | with_reducible refine next_kept ?_
    | with_reducible exact trivial | split | dsimp only | dsimp only [State.keeps]

theorem execSth_kept (g : Guard) (d a : GReg) (off : BitVec 6)
    {s : State} (hmem : s.keeps iv) : outKept iv (execSth g d a off s) := by
  unfold execSth
  repeat' first
    | with_reducible assumption | with_reducible refine scalarStore_kept _ _ _ _ _ _ ?_ | with_reducible refine next_kept ?_
    | with_reducible exact trivial | split | dsimp only | dsimp only [State.keeps]

theorem execSthDw_kept (g : Guard) (d a : GReg) (disp : BitVec 32)
    {s : State} (hmem : s.keeps iv) : outKept iv (execSthDw g d a disp s) := by
  unfold execSthDw
  repeat' first
    | with_reducible assumption | with_reducible refine scalarStore_kept _ _ _ _ _ _ ?_ | with_reducible refine next_kept ?_
    | with_reducible exact trivial | split | dsimp only | dsimp only [State.keeps]

theorem execStw_kept (g : Guard) (d a : GReg) (off : BitVec 6)
    {s : State} (hmem : s.keeps iv) : outKept iv (execStw g d a off s) := by
  unfold execStw
  repeat' first
    | with_reducible assumption | with_reducible refine scalarStore_kept _ _ _ _ _ _ ?_ | with_reducible refine next_kept ?_
    | with_reducible exact trivial | split | dsimp only | dsimp only [State.keeps]

theorem execStwDw_kept (g : Guard) (d a : GReg) (disp : BitVec 32)
    {s : State} (hmem : s.keeps iv) : outKept iv (execStwDw g d a disp s) := by
  unfold execStwDw
  repeat' first
    | with_reducible assumption | with_reducible refine scalarStore_kept _ _ _ _ _ _ ?_ | with_reducible refine next_kept ?_
    | with_reducible exact trivial | split | dsimp only | dsimp only [State.keeps]

theorem execStd_kept (g : Guard) (d a : GReg) (off : BitVec 6)
    {s : State} (hmem : s.keeps iv) : outKept iv (execStd g d a off s) := by
  unfold execStd
  repeat' first
    | with_reducible assumption | with_reducible refine scalarStore_kept _ _ _ _ _ _ ?_ | with_reducible refine next_kept ?_
    | with_reducible exact trivial | split | dsimp only | dsimp only [State.keeps]

theorem execStdDw_kept (g : Guard) (d a : GReg) (disp : BitVec 32)
    {s : State} (hmem : s.keeps iv) : outKept iv (execStdDw g d a disp s) := by
  unfold execStdDw
  repeat' first
    | with_reducible assumption | with_reducible refine scalarStore_kept _ _ _ _ _ _ ?_ | with_reducible refine next_kept ?_
    | with_reducible exact trivial | split | dsimp only | dsimp only [State.keeps]

theorem vectorLoad_kept (words : Nat) (g : Guard) (d : VField) (a : GReg) (disp : Word)
    {s : State} (hmem : s.keeps iv) : outKept iv (vectorLoad words g d a disp s) := by
  unfold vectorLoad
  repeat' first
    | with_reducible assumption | with_reducible refine withLoad_kept _ _ _ ?_ (fun _ _ _ => ?_)
    | with_reducible refine putVec_kept _ _ _ ?_ | with_reducible refine issue_kept _ ?_ (fun _ _ => ?_)
    | with_reducible refine retire_kept ?_ | with_reducible refine next_kept ?_ | with_reducible exact trivial | split
    | dsimp only | dsimp only [State.keeps]

theorem vectorStore_kept (words : Nat) (g : Guard) (d : VField) (a : GReg) (disp : Word)
    {s : State} (hmem : s.keeps iv) : outKept iv (vectorStore words g d a disp s) := by
  unfold vectorStore
  repeat' first
    | with_reducible assumption | with_reducible refine withStore_kept _ _ _ _ ?_
    | with_reducible refine issue_kept _ ?_ (fun _ _ => ?_) | with_reducible refine next_kept ?_
    | with_reducible exact trivial | split | dsimp only | dsimp only [State.keeps]

theorem execVld_kept (g : Guard) (d : VField) (a : GReg) (off : BitVec 6)
    {s : State} (hmem : s.keeps iv) : outKept iv (execVld g d a off s) := by
  unfold execVld
  repeat' first
    | with_reducible assumption | with_reducible refine vectorLoad_kept _ _ _ _ _ ?_ | with_reducible refine next_kept ?_
    | with_reducible exact trivial | split | dsimp only | dsimp only [State.keeps]

theorem execVldDw_kept (g : Guard) (d : VField) (a : GReg) (disp : BitVec 32)
    {s : State} (hmem : s.keeps iv) : outKept iv (execVldDw g d a disp s) := by
  unfold execVldDw
  repeat' first
    | with_reducible assumption | with_reducible refine vectorLoad_kept _ _ _ _ _ ?_ | with_reducible refine next_kept ?_
    | with_reducible exact trivial | split | dsimp only | dsimp only [State.keeps]

theorem execVst_kept (g : Guard) (d : VField) (a : GReg) (off : BitVec 6)
    {s : State} (hmem : s.keeps iv) : outKept iv (execVst g d a off s) := by
  unfold execVst
  repeat' first
    | with_reducible assumption | with_reducible refine vectorStore_kept _ _ _ _ _ ?_ | with_reducible refine next_kept ?_
    | with_reducible exact trivial | split | dsimp only | dsimp only [State.keeps]

theorem execVstDw_kept (g : Guard) (d : VField) (a : GReg) (disp : BitVec 32)
    {s : State} (hmem : s.keeps iv) : outKept iv (execVstDw g d a disp s) := by
  unfold execVstDw
  repeat' first
    | with_reducible assumption | with_reducible refine vectorStore_kept _ _ _ _ _ ?_ | with_reducible refine next_kept ?_
    | with_reducible exact trivial | split | dsimp only | dsimp only [State.keeps]

theorem loadElements_kept (n : Nat) : ∀ (es : List Nat) {s : State}, s.keeps iv → (s.loadElements n es).2.keeps iv
  | [], _, h => h
  | e :: es, _, h => loadElements_kept n es (loadLocal_kept e n h)

theorem storeElements_kept (n : Nat) : ∀ (es : List (Nat × Nat))
    {s : State}, s.keeps iv → (s.storeElements n es).keeps iv
  | [], _, h => h
  | (e, x) :: es, _, h => storeElements_kept n es (storeLocal_kept e n x h)

theorem elementAccess_kept (d : VField) (load : Bool) (addr : Nat → Nat)
    {s : State} (hmem : s.keeps iv) : (State.elementAccess s d load addr).kept iv := by
  unfold State.elementAccess
  repeat' first
    | with_reducible assumption | with_reducible refine storeElements_kept _ _ ?_
    | with_reducible refine snd_kept (by assumption) (loadElements_kept _ _ ?_)
    | with_reducible refine loadElements_kept _ _ ?_ | with_reducible refine setVec_kept _ _ _ ?_
    | with_reducible refine retire_kept ?_ | with_reducible refine trap_kept ?_ | split | dsimp only
    | dsimp only [State.keeps]

theorem strided_kept (load : Bool) (g : Guard) (d : VField) (a b : GReg)
    {s : State} (hmem : s.keeps iv) : outKept iv (strided load g d a b s) := by
  unfold strided
  repeat' first
    | with_reducible assumption | with_reducible refine elementAccess_kept _ _ _ ?_
    | with_reducible refine trapOf_kept _ _ _ ?_ | with_reducible refine issue_kept _ ?_ (fun _ _ => ?_)
    | with_reducible refine next_kept ?_ | with_reducible exact trivial | split | dsimp only | dsimp only [State.keeps]

theorem gathered_kept (load : Bool) (g : Guard) (d : VField) (a : GReg) (b : VField)
    {s : State} (hmem : s.keeps iv) : outKept iv (gathered load g d a b s) := by
  unfold gathered
  repeat' first
    | with_reducible assumption | with_reducible refine elementAccess_kept _ _ _ ?_
    | with_reducible refine trapOf_kept _ _ _ ?_ | with_reducible refine issue_kept _ ?_ (fun _ _ => ?_)
    | with_reducible refine next_kept ?_ | with_reducible exact trivial | split | dsimp only | dsimp only [State.keeps]

theorem execVlds_kept (g : Guard) (d : VField) (a b : GReg)
    {s : State} (hmem : s.keeps iv) : outKept iv (execVlds g d a b s) := by
  unfold execVlds
  repeat' first
    | with_reducible assumption | with_reducible refine strided_kept _ _ _ _ _ ?_ | with_reducible refine next_kept ?_
    | with_reducible exact trivial | split | dsimp only | dsimp only [State.keeps]

theorem execVsts_kept (g : Guard) (d : VField) (a b : GReg)
    {s : State} (hmem : s.keeps iv) : outKept iv (execVsts g d a b s) := by
  unfold execVsts
  repeat' first
    | with_reducible assumption | with_reducible refine strided_kept _ _ _ _ _ ?_ | with_reducible refine next_kept ?_
    | with_reducible exact trivial | split | dsimp only | dsimp only [State.keeps]

theorem execVgathl_kept (g : Guard) (d : VField) (a : GReg) (b : VField)
    {s : State} (hmem : s.keeps iv) : outKept iv (execVgathl g d a b s) := by
  unfold execVgathl
  repeat' first
    | with_reducible assumption | with_reducible refine gathered_kept _ _ _ _ _ ?_ | with_reducible refine next_kept ?_
    | with_reducible exact trivial | split | dsimp only | dsimp only [State.keeps]

theorem execVscatl_kept (g : Guard) (d : VField) (a : GReg) (b : VField)
    {s : State} (hmem : s.keeps iv) : outKept iv (execVscatl g d a b s) := by
  unfold execVscatl
  repeat' first
    | with_reducible assumption | with_reducible refine gathered_kept _ _ _ _ _ ?_ | with_reducible refine next_kept ?_
    | with_reducible exact trivial | split | dsimp only | dsimp only [State.keeps]

/-! ## Vector -/

theorem vresult_kept (d : VField) (t : Tag) (ls : List Lane)
    {s : State} (hmem : s.keeps iv) : (State.vresult s d t ls).kept iv := by
  unfold State.vresult
  repeat' first
    | with_reducible assumption | with_reducible refine orFlags_kept _ ?_ | with_reducible refine setVec_kept _ _ _ ?_
    | with_reducible refine foldl_kept ?_ (fun _ _ _ => ?_) | with_reducible refine retire_kept ?_ | split | dsimp only
    | dsimp only [State.keeps]

theorem lanewise_kept (m : Meta) (d a b : VField) (ok : Tag → Tag → Bool) (f : Tag → Nat → Nat → Lane)
    {s : State} (hmem : s.keeps iv) : outKept iv (lanewise m d a b ok f s) := by
  unfold lanewise
  repeat' first
    | with_reducible assumption | with_reducible refine vresult_kept _ _ _ ?_ | with_reducible refine trapOf_kept _ _ _ ?_
    | with_reducible refine issue_kept _ ?_ (fun _ _ => ?_) | with_reducible refine next_kept ?_
    | with_reducible exact trivial | split | dsimp only | dsimp only [State.keeps]

theorem lanewise1_kept (m : Meta) (d a : VField) (ok : Tag → Bool) (f : Tag → Nat → Lane)
    {s : State} (hmem : s.keeps iv) : outKept iv (lanewise1 m d a ok f s) := by
  unfold lanewise1
  repeat' first
    | with_reducible assumption | with_reducible refine vresult_kept _ _ _ ?_ | with_reducible refine trapOf_kept _ _ _ ?_
    | with_reducible refine issue_kept _ ?_ (fun _ _ => ?_) | with_reducible refine next_kept ?_
    | with_reducible exact trivial | split | dsimp only | dsimp only [State.keeps]

theorem execVadd_kept (g : Guard) (d a b : VField) {s : State} (hmem : s.keeps iv) : outKept iv (execVadd g d a b s) := by
  unfold execVadd
  repeat' first
    | with_reducible assumption | with_reducible refine lanewise_kept _ _ _ _ _ _ ?_ | with_reducible refine next_kept ?_
    | with_reducible exact trivial | split | dsimp only | dsimp only [State.keeps]

theorem execVsub_kept (g : Guard) (d a b : VField) {s : State} (hmem : s.keeps iv) : outKept iv (execVsub g d a b s) := by
  unfold execVsub
  repeat' first
    | with_reducible assumption | with_reducible refine lanewise_kept _ _ _ _ _ _ ?_ | with_reducible refine next_kept ?_
    | with_reducible exact trivial | split | dsimp only | dsimp only [State.keeps]

theorem execVmul_kept (g : Guard) (d a b : VField) {s : State} (hmem : s.keeps iv) : outKept iv (execVmul g d a b s) := by
  unfold execVmul
  repeat' first
    | with_reducible assumption | with_reducible refine lanewise_kept _ _ _ _ _ _ ?_ | with_reducible refine next_kept ?_
    | with_reducible exact trivial | split | dsimp only | dsimp only [State.keeps]

theorem execVmin_kept (g : Guard) (d a b : VField) {s : State} (hmem : s.keeps iv) : outKept iv (execVmin g d a b s) := by
  unfold execVmin
  repeat' first
    | with_reducible assumption | with_reducible refine lanewise_kept _ _ _ _ _ _ ?_ | with_reducible refine next_kept ?_
    | with_reducible exact trivial | split | dsimp only | dsimp only [State.keeps]

theorem execVmax_kept (g : Guard) (d a b : VField) {s : State} (hmem : s.keeps iv) : outKept iv (execVmax g d a b s) := by
  unfold execVmax
  repeat' first
    | with_reducible assumption | with_reducible refine lanewise_kept _ _ _ _ _ _ ?_ | with_reducible refine next_kept ?_
    | with_reducible exact trivial | split | dsimp only | dsimp only [State.keeps]

theorem execVabs_kept (g : Guard) (d a : VField) {s : State} (hmem : s.keeps iv) : outKept iv (execVabs g d a s) := by
  unfold execVabs
  repeat' first
    | with_reducible assumption | with_reducible refine lanewise1_kept _ _ _ _ _ ?_ | with_reducible refine next_kept ?_
    | with_reducible exact trivial | split | dsimp only | dsimp only [State.keeps]

theorem execVneg_kept (g : Guard) (d a : VField) {s : State} (hmem : s.keeps iv) : outKept iv (execVneg g d a s) := by
  unfold execVneg
  repeat' first
    | with_reducible assumption | with_reducible refine lanewise1_kept _ _ _ _ _ ?_ | with_reducible refine next_kept ?_
    | with_reducible exact trivial | split | dsimp only | dsimp only [State.keeps]

theorem bitwise_kept (g : Guard) (d a b : VField) (f : Nat → Nat → Nat)
    {s : State} (hmem : s.keeps iv) : outKept iv (bitwise g d a b f s) := by
  unfold bitwise
  repeat' first
    | with_reducible assumption | with_reducible refine putVec_kept _ _ _ ?_
    | with_reducible refine issue_kept _ ?_ (fun _ _ => ?_) | with_reducible refine retire_kept ?_
    | with_reducible refine next_kept ?_ | with_reducible exact trivial | split | dsimp only | dsimp only [State.keeps]

theorem execVand_kept (g : Guard) (d a b : VField) {s : State} (hmem : s.keeps iv) : outKept iv (execVand g d a b s) := by
  unfold execVand
  repeat' first
    | with_reducible assumption | with_reducible refine bitwise_kept _ _ _ _ _ ?_ | with_reducible refine next_kept ?_
    | with_reducible exact trivial | split | dsimp only | dsimp only [State.keeps]

theorem execVor_kept (g : Guard) (d a b : VField) {s : State} (hmem : s.keeps iv) : outKept iv (execVor g d a b s) := by
  unfold execVor
  repeat' first
    | with_reducible assumption | with_reducible refine bitwise_kept _ _ _ _ _ ?_ | with_reducible refine next_kept ?_
    | with_reducible exact trivial | split | dsimp only | dsimp only [State.keeps]

theorem execVxor_kept (g : Guard) (d a b : VField) {s : State} (hmem : s.keeps iv) : outKept iv (execVxor g d a b s) := by
  unfold execVxor
  repeat' first
    | with_reducible assumption | with_reducible refine bitwise_kept _ _ _ _ _ ?_ | with_reducible refine next_kept ?_
    | with_reducible exact trivial | split | dsimp only | dsimp only [State.keeps]

theorem execVshl_kept (g : Guard) (d a b : VField) {s : State} (hmem : s.keeps iv) : outKept iv (execVshl g d a b s) := by
  unfold execVshl
  repeat' first
    | with_reducible assumption | with_reducible refine lanewise_kept _ _ _ _ _ _ ?_ | with_reducible refine next_kept ?_
    | with_reducible exact trivial | split | dsimp only | dsimp only [State.keeps]

theorem execVshr_kept (g : Guard) (d a b : VField) {s : State} (hmem : s.keeps iv) : outKept iv (execVshr g d a b s) := by
  unfold execVshr
  repeat' first
    | with_reducible assumption | with_reducible refine lanewise_kept _ _ _ _ _ _ ?_ | with_reducible refine next_kept ?_
    | with_reducible exact trivial | split | dsimp only | dsimp only [State.keeps]

theorem execVsar_kept (g : Guard) (d a b : VField) {s : State} (hmem : s.keeps iv) : outKept iv (execVsar g d a b s) := by
  unfold execVsar
  repeat' first
    | with_reducible assumption | with_reducible refine lanewise_kept _ _ _ _ _ _ ?_ | with_reducible refine next_kept ?_
    | with_reducible exact trivial | split | dsimp only | dsimp only [State.keeps]

theorem execVaddS_kept (g : Guard) (d a b : VField) {s : State} (hmem : s.keeps iv) : outKept iv (execVaddS g d a b s) := by
  unfold execVaddS
  repeat' first
    | with_reducible assumption | with_reducible refine lanewise_kept _ _ _ _ _ _ ?_ | with_reducible refine next_kept ?_
    | with_reducible exact trivial | split | dsimp only | dsimp only [State.keeps]

theorem execVsubS_kept (g : Guard) (d a b : VField) {s : State} (hmem : s.keeps iv) : outKept iv (execVsubS g d a b s) := by
  unfold execVsubS
  repeat' first
    | with_reducible assumption | with_reducible refine lanewise_kept _ _ _ _ _ _ ?_ | with_reducible refine next_kept ?_
    | with_reducible exact trivial | split | dsimp only | dsimp only [State.keeps]

theorem execVsel_kept (g : Guard) (d a b : VField) (k : MReg)
    {s : State} (hmem : s.keeps iv) : outKept iv (execVsel g d a b k s) := by
  unfold execVsel
  repeat' first
    | with_reducible assumption | with_reducible refine vresult_kept _ _ _ ?_ | with_reducible refine trapOf_kept _ _ _ ?_
    | with_reducible refine issue_kept _ ?_ (fun _ _ => ?_) | with_reducible refine next_kept ?_
    | with_reducible exact trivial | split | dsimp only | dsimp only [State.keeps]

theorem fused_kept (g : Guard) (d a b : VField) (negProduct negAddend : Bool)
    {s : State} (hmem : s.keeps iv) : outKept iv (fused g d a b negProduct negAddend s) := by
  unfold fused
  repeat' first
    | with_reducible assumption | with_reducible refine vresult_kept _ _ _ ?_ | with_reducible refine trapOf_kept _ _ _ ?_
    | with_reducible refine issue_kept _ ?_ (fun _ _ => ?_) | with_reducible refine next_kept ?_
    | with_reducible exact trivial | split | dsimp only | dsimp only [State.keeps]

theorem execVfma_kept (g : Guard) (d a b : VField) {s : State} (hmem : s.keeps iv) : outKept iv (execVfma g d a b s) := by
  unfold execVfma
  repeat' first
    | with_reducible assumption | with_reducible refine fused_kept _ _ _ _ _ _ ?_ | with_reducible refine next_kept ?_
    | with_reducible exact trivial | split | dsimp only | dsimp only [State.keeps]

theorem execVfms_kept (g : Guard) (d a b : VField) {s : State} (hmem : s.keeps iv) : outKept iv (execVfms g d a b s) := by
  unfold execVfms
  repeat' first
    | with_reducible assumption | with_reducible refine fused_kept _ _ _ _ _ _ ?_ | with_reducible refine next_kept ?_
    | with_reducible exact trivial | split | dsimp only | dsimp only [State.keeps]

theorem execVnfma_kept (g : Guard) (d a b : VField) {s : State} (hmem : s.keeps iv) : outKept iv (execVnfma g d a b s) := by
  unfold execVnfma
  repeat' first
    | with_reducible assumption | with_reducible refine fused_kept _ _ _ _ _ _ ?_ | with_reducible refine next_kept ?_
    | with_reducible exact trivial | split | dsimp only | dsimp only [State.keeps]

theorem execVdot_kept (g : Guard) (d a b : VField) {s : State} (hmem : s.keeps iv) : outKept iv (execVdot g d a b s) := by
  unfold execVdot
  repeat' first
    | with_reducible assumption | with_reducible refine vresult_kept _ _ _ ?_ | with_reducible refine trapOf_kept _ _ _ ?_
    | with_reducible refine issue_kept _ ?_ (fun _ _ => ?_) | with_reducible refine next_kept ?_
    | with_reducible exact trivial | split | dsimp only | dsimp only [State.keeps]

theorem execVdotf_kept (g : Guard) (d a b : VField) {s : State} (hmem : s.keeps iv) : outKept iv (execVdotf g d a b s) := by
  unfold execVdotf
  repeat' first
    | with_reducible assumption | with_reducible refine vresult_kept _ _ _ ?_ | with_reducible refine trapOf_kept _ _ _ ?_
    | with_reducible refine issue_kept _ ?_ (fun _ _ => ?_) | with_reducible refine next_kept ?_
    | with_reducible exact trivial | split | dsimp only | dsimp only [State.keeps]

theorem execVcmpCc_kept (g : Guard) (c : Fin 7) (d : MReg) (a b : VField)
    {s : State} (hmem : s.keeps iv) : outKept iv (execVcmpCc g c d a b s) := by
  unfold execVcmpCc
  repeat' first
    | with_reducible assumption | with_reducible refine setMask_kept _ _ ?_ | with_reducible refine trapOf_kept _ _ _ ?_
    | with_reducible refine issue_kept _ ?_ (fun _ _ => ?_) | with_reducible refine retire_kept ?_
    | with_reducible refine next_kept ?_ | with_reducible exact trivial | split | dsimp only | dsimp only [State.keeps]

theorem reduce_kept (g : Guard) (d a : VField) (op : LaneOp)
    {s : State} (hmem : s.keeps iv) : outKept iv (reduce g d a op s) := by
  unfold reduce
  repeat' first
    | with_reducible assumption | with_reducible refine vresult_kept _ _ _ ?_ | with_reducible refine trapOf_kept _ _ _ ?_
    | with_reducible refine issue_kept _ ?_ (fun _ _ => ?_) | with_reducible refine next_kept ?_
    | with_reducible exact trivial | split | dsimp only | dsimp only [State.keeps]

theorem scan_kept (g : Guard) (d a : VField) (op : LaneOp)
    {s : State} (hmem : s.keeps iv) : outKept iv (scan g d a op s) := by
  unfold scan
  repeat' first
    | with_reducible assumption | with_reducible refine vresult_kept _ _ _ ?_ | with_reducible refine trapOf_kept _ _ _ ?_
    | with_reducible refine issue_kept _ ?_ (fun _ _ => ?_) | with_reducible refine retire_kept ?_
    | with_reducible refine next_kept ?_ | with_reducible exact trivial | split | dsimp only | dsimp only [State.keeps]

theorem execVredAdd_kept (g : Guard) (d a : VField) {s : State} (hmem : s.keeps iv) : outKept iv (execVredAdd g d a s) := by
  unfold execVredAdd
  repeat' first
    | with_reducible assumption | with_reducible refine reduce_kept _ _ _ _ ?_ | with_reducible refine next_kept ?_
    | with_reducible exact trivial | split | dsimp only | dsimp only [State.keeps]

theorem execVredMin_kept (g : Guard) (d a : VField) {s : State} (hmem : s.keeps iv) : outKept iv (execVredMin g d a s) := by
  unfold execVredMin
  repeat' first
    | with_reducible assumption | with_reducible refine reduce_kept _ _ _ _ ?_ | with_reducible refine next_kept ?_
    | with_reducible exact trivial | split | dsimp only | dsimp only [State.keeps]

theorem execVredMax_kept (g : Guard) (d a : VField) {s : State} (hmem : s.keeps iv) : outKept iv (execVredMax g d a s) := by
  unfold execVredMax
  repeat' first
    | with_reducible assumption | with_reducible refine reduce_kept _ _ _ _ ?_ | with_reducible refine next_kept ?_
    | with_reducible exact trivial | split | dsimp only | dsimp only [State.keeps]

theorem execVscanAdd_kept (g : Guard) (d a : VField) {s : State} (hmem : s.keeps iv) : outKept iv (execVscanAdd g d a s) := by
  unfold execVscanAdd
  repeat' first
    | with_reducible assumption | with_reducible refine scan_kept _ _ _ _ ?_ | with_reducible refine next_kept ?_
    | with_reducible exact trivial | split | dsimp only | dsimp only [State.keeps]

theorem execVscanMin_kept (g : Guard) (d a : VField) {s : State} (hmem : s.keeps iv) : outKept iv (execVscanMin g d a s) := by
  unfold execVscanMin
  repeat' first
    | with_reducible assumption | with_reducible refine scan_kept _ _ _ _ ?_ | with_reducible refine next_kept ?_
    | with_reducible exact trivial | split | dsimp only | dsimp only [State.keeps]

theorem execVscanMax_kept (g : Guard) (d a : VField) {s : State} (hmem : s.keeps iv) : outKept iv (execVscanMax g d a s) := by
  unfold execVscanMax
  repeat' first
    | with_reducible assumption | with_reducible refine scan_kept _ _ _ _ ?_ | with_reducible refine next_kept ?_
    | with_reducible exact trivial | split | dsimp only | dsimp only [State.keeps]

theorem execVperm_kept (g : Guard) (d a b : VField) {s : State} (hmem : s.keeps iv) : outKept iv (execVperm g d a b s) := by
  unfold execVperm
  repeat' first
    | with_reducible assumption | with_reducible refine vresult_kept _ _ _ ?_ | with_reducible refine trapOf_kept _ _ _ ?_
    | with_reducible refine issue_kept _ ?_ (fun _ _ => ?_) | with_reducible refine next_kept ?_
    | with_reducible exact trivial | split | dsimp only | dsimp only [State.keeps]

theorem execVbcast_kept (g : Guard) (d : VField) (a : GReg)
    {s : State} (hmem : s.keeps iv) : outKept iv (execVbcast g d a s) := by
  unfold execVbcast
  repeat' first
    | with_reducible assumption | with_reducible refine vresult_kept _ _ _ ?_
    | with_reducible refine issue_kept _ ?_ (fun _ _ => ?_) | with_reducible refine next_kept ?_
    | with_reducible exact trivial | split | dsimp only | dsimp only [State.keeps]

theorem execVext_kept (g : Guard) (d : GReg) (a : VField) (b : GReg)
    {s : State} (hmem : s.keeps iv) : outKept iv (execVext g d a b s) := by
  unfold execVext
  repeat' first
    | with_reducible assumption | with_reducible refine setG_kept _ _ ?_
    | with_reducible refine issue_kept _ ?_ (fun _ _ => ?_) | with_reducible refine retire_kept ?_
    | with_reducible refine next_kept ?_ | with_reducible exact trivial | split | dsimp only | dsimp only [State.keeps]

theorem execVins_kept (g : Guard) (d : VField) (a b : GReg)
    {s : State} (hmem : s.keeps iv) : outKept iv (execVins g d a b s) := by
  unfold execVins
  repeat' first
    | with_reducible assumption | with_reducible refine putVec_kept _ _ _ ?_
    | with_reducible refine issue_kept _ ?_ (fun _ _ => ?_) | with_reducible refine retire_kept ?_
    | with_reducible refine next_kept ?_ | with_reducible exact trivial | split | dsimp only | dsimp only [State.keeps]

theorem special_kept (g : Guard) (d a : VField) (fn : SpecialFn) (wide : Bool)
    {s : State} (hmem : s.keeps iv) : outKept iv (special g d a fn wide s) := by
  unfold special
  repeat' first
    | with_reducible assumption | with_reducible refine lanewise1_kept _ _ _ _ _ ?_ | with_reducible refine next_kept ?_
    | with_reducible exact trivial | split | dsimp only | dsimp only [State.keeps]

theorem execVrcp_kept (g : Guard) (d a : VField) {s : State} (hmem : s.keeps iv) : outKept iv (execVrcp g d a s) := by
  unfold execVrcp
  repeat' first
    | with_reducible assumption | with_reducible refine special_kept _ _ _ _ _ ?_ | with_reducible refine next_kept ?_
    | with_reducible exact trivial | split | dsimp only | dsimp only [State.keeps]

theorem execVrsq_kept (g : Guard) (d a : VField) {s : State} (hmem : s.keeps iv) : outKept iv (execVrsq g d a s) := by
  unfold execVrsq
  repeat' first
    | with_reducible assumption | with_reducible refine special_kept _ _ _ _ _ ?_ | with_reducible refine next_kept ?_
    | with_reducible exact trivial | split | dsimp only | dsimp only [State.keeps]

theorem execVexp2_kept (g : Guard) (d a : VField) {s : State} (hmem : s.keeps iv) : outKept iv (execVexp2 g d a s) := by
  unfold execVexp2
  repeat' first
    | with_reducible assumption | with_reducible refine special_kept _ _ _ _ _ ?_ | with_reducible refine next_kept ?_
    | with_reducible exact trivial | split | dsimp only | dsimp only [State.keeps]

theorem execVlog2_kept (g : Guard) (d a : VField) {s : State} (hmem : s.keeps iv) : outKept iv (execVlog2 g d a s) := by
  unfold execVlog2
  repeat' first
    | with_reducible assumption | with_reducible refine special_kept _ _ _ _ _ ?_ | with_reducible refine next_kept ?_
    | with_reducible exact trivial | split | dsimp only | dsimp only [State.keeps]

theorem execVtanh_kept (g : Guard) (d a : VField) {s : State} (hmem : s.keeps iv) : outKept iv (execVtanh g d a s) := by
  unfold execVtanh
  repeat' first
    | with_reducible assumption | with_reducible refine special_kept _ _ _ _ _ ?_ | with_reducible refine next_kept ?_
    | with_reducible exact trivial | split | dsimp only | dsimp only [State.keeps]

theorem execVsigm_kept (g : Guard) (d a : VField) {s : State} (hmem : s.keeps iv) : outKept iv (execVsigm g d a s) := by
  unfold execVsigm
  repeat' first
    | with_reducible assumption | with_reducible refine special_kept _ _ _ _ _ ?_ | with_reducible refine next_kept ?_
    | with_reducible exact trivial | split | dsimp only | dsimp only [State.keeps]

theorem execVlong_kept (g : Guard) {s : State} (hmem : s.keeps iv) : outKept iv (execVlong g s) := by
  unfold execVlong
  repeat' first
    | with_reducible assumption | with_reducible refine modTh_kept _ ?_
    | with_reducible refine issue_kept _ ?_ (fun _ _ => ?_) | with_reducible refine retire_kept ?_
    | with_reducible refine next_kept ?_ | with_reducible exact trivial | split | dsimp only | dsimp only [State.keeps]

theorem execVshort_kept (g : Guard) {s : State} (hmem : s.keeps iv) : outKept iv (execVshort g s) := by
  unfold execVshort
  repeat' first
    | with_reducible assumption | with_reducible refine modTh_kept _ ?_
    | with_reducible refine issue_kept _ ?_ (fun _ _ => ?_) | with_reducible refine retire_kept ?_
    | with_reducible refine next_kept ?_ | with_reducible exact trivial | split | dsimp only | dsimp only [State.keeps]

/-! ## Convert -/

theorem cvt_kept (mode : Rounding) (g : Guard) (d a : VField) (t : Tag)
    {s : State} (hmem : s.keeps iv) : outKept iv (cvt mode g d a t s) := by
  unfold cvt
  repeat' first
    | with_reducible assumption | with_reducible refine vresult_kept _ _ _ ?_ | with_reducible refine trapOf_kept _ _ _ ?_
    | with_reducible refine issue_kept _ ?_ (fun _ _ => ?_) | with_reducible refine next_kept ?_
    | with_reducible exact trivial | split | dsimp only | dsimp only [State.keeps]

theorem execCvtRne_kept (g : Guard) (d a : VField) (t : Tag)
    {s : State} (hmem : s.keeps iv) : outKept iv (execCvtRne g d a t s) := by
  unfold execCvtRne
  repeat' first
    | with_reducible assumption | with_reducible refine cvt_kept _ _ _ _ _ ?_ | with_reducible refine next_kept ?_
    | with_reducible exact trivial | split | dsimp only | dsimp only [State.keeps]

theorem execCvtRtz_kept (g : Guard) (d a : VField) (t : Tag)
    {s : State} (hmem : s.keeps iv) : outKept iv (execCvtRtz g d a t s) := by
  unfold execCvtRtz
  repeat' first
    | with_reducible assumption | with_reducible refine cvt_kept _ _ _ _ _ ?_ | with_reducible refine next_kept ?_
    | with_reducible exact trivial | split | dsimp only | dsimp only [State.keeps]

theorem execCvtRup_kept (g : Guard) (d a : VField) (t : Tag)
    {s : State} (hmem : s.keeps iv) : outKept iv (execCvtRup g d a t s) := by
  unfold execCvtRup
  repeat' first
    | with_reducible assumption | with_reducible refine cvt_kept _ _ _ _ _ ?_ | with_reducible refine next_kept ?_
    | with_reducible exact trivial | split | dsimp only | dsimp only [State.keeps]

theorem execCvtRdn_kept (g : Guard) (d a : VField) (t : Tag)
    {s : State} (hmem : s.keeps iv) : outKept iv (execCvtRdn g d a t s) := by
  unfold execCvtRdn
  repeat' first
    | with_reducible assumption | with_reducible refine cvt_kept _ _ _ _ _ ?_ | with_reducible refine next_kept ?_
    | with_reducible exact trivial | split | dsimp only | dsimp only [State.keeps]

theorem execCvtSat_kept (g : Guard) (d a : VField) (t : Tag)
    {s : State} (hmem : s.keeps iv) : outKept iv (execCvtSat g d a t s) := by
  unfold execCvtSat
  repeat' first
    | with_reducible assumption | with_reducible refine cvt_kept _ _ _ _ _ ?_ | with_reducible refine next_kept ?_
    | with_reducible exact trivial | split | dsimp only | dsimp only [State.keeps]

theorem execTagset_kept (g : Guard) (d : VField) (t : Tag)
    {s : State} (hmem : s.keeps iv) : outKept iv (execTagset g d t s) := by
  unfold execTagset
  repeat' first
    | with_reducible assumption | with_reducible refine putVec_kept _ _ _ ?_
    | with_reducible refine issue_kept _ ?_ (fun _ _ => ?_) | with_reducible refine retire_kept ?_
    | with_reducible refine next_kept ?_ | with_reducible exact trivial | split | dsimp only | dsimp only [State.keeps]

theorem execTagget_kept (g : Guard) (d : GReg) (a : VField)
    {s : State} (hmem : s.keeps iv) : outKept iv (execTagget g d a s) := by
  unfold execTagget
  repeat' first
    | with_reducible assumption | with_reducible refine setG_kept _ _ ?_
    | with_reducible refine issue_kept _ ?_ (fun _ _ => ?_) | with_reducible refine retire_kept ?_
    | with_reducible refine next_kept ?_ | with_reducible exact trivial | split | dsimp only | dsimp only [State.keeps]

theorem execFclass_kept (g : Guard) (d a : VField) {s : State} (hmem : s.keeps iv) : outKept iv (execFclass g d a s) := by
  unfold execFclass
  repeat' first
    | with_reducible assumption | with_reducible refine vresult_kept _ _ _ ?_ | with_reducible refine trapOf_kept _ _ _ ?_
    | with_reducible refine issue_kept _ ?_ (fun _ _ => ?_) | with_reducible refine next_kept ?_
    | with_reducible exact trivial | split | dsimp only | dsimp only [State.keeps]

theorem execQscale_kept (g : Guard) (d a b : VField) {s : State} (hmem : s.keeps iv) : outKept iv (execQscale g d a b s) := by
  unfold execQscale
  repeat' first
    | with_reducible assumption | with_reducible refine orFlags_kept _ ?_ | with_reducible refine setVec_kept _ _ _ ?_
    | with_reducible refine trapOf_kept _ _ _ ?_ | with_reducible refine issue_kept _ ?_ (fun _ _ => ?_)
    | with_reducible refine foldl_kept ?_ (fun _ _ _ => ?_) | with_reducible refine retire_kept ?_
    | with_reducible refine next_kept ?_ | with_reducible exact trivial | split | dsimp only | dsimp only [State.keeps]

theorem execQn4_kept (g : Guard) (d a b : VField) {s : State} (hmem : s.keeps iv) : outKept iv (execQn4 g d a b s) := by
  unfold execQn4
  repeat' first
    | with_reducible assumption | with_reducible refine orFlags_kept _ ?_ | with_reducible refine setVec_kept _ _ _ ?_
    | with_reducible refine trapOf_kept _ _ _ ?_ | with_reducible refine issue_kept _ ?_ (fun _ _ => ?_)
    | with_reducible refine foldl_kept ?_ (fun _ _ _ => ?_) | with_reducible refine retire_kept ?_
    | with_reducible refine next_kept ?_ | with_reducible exact trivial | split | dsimp only | dsimp only [State.keeps]

theorem execDqn4_kept (g : Guard) (d a b : VField) {s : State} (hmem : s.keeps iv) : outKept iv (execDqn4 g d a b s) := by
  unfold execDqn4
  repeat' first
    | with_reducible assumption | with_reducible refine vresult_kept _ _ _ ?_ | with_reducible refine trapOf_kept _ _ _ ?_
    | with_reducible refine issue_kept _ ?_ (fun _ _ => ?_) | with_reducible refine next_kept ?_
    | with_reducible exact trivial | split | dsimp only | dsimp only [State.keeps]

/-! ## Declension -/

theorem execDclset_kept (g : Guard) (a : GReg) {s : State} (hmem : s.keeps iv) : outKept iv (execDclset g a s) := by
  unfold execDclset
  repeat' first
    | with_reducible assumption | with_reducible refine withLoad_kept _ _ _ ?_ (fun _ _ _ => ?_)
    | with_reducible refine modTh_kept _ ?_ | with_reducible refine trapOf_kept _ _ _ ?_
    | with_reducible refine issue_kept _ ?_ (fun _ _ => ?_) | with_reducible refine retire_kept ?_
    | with_reducible refine next_kept ?_ | with_reducible exact trivial | split | dsimp only | dsimp only [State.keeps]

theorem execSylset_kept (g : Guard) (d : Fin 16) (a : GReg)
    {s : State} (hmem : s.keeps iv) : outKept iv (execSylset g d a s) := by
  unfold execSylset
  repeat' first
    | with_reducible assumption | with_reducible refine withLoad_kept _ _ _ ?_ (fun _ _ _ => ?_)
    | with_reducible refine modTh_kept _ ?_ | with_reducible refine trapOf_kept _ _ _ ?_
    | with_reducible refine issue_kept _ ?_ (fun _ _ => ?_) | with_reducible refine retire_kept ?_
    | with_reducible refine next_kept ?_ | with_reducible exact trivial | split | dsimp only | dsimp only [State.keeps]

theorem rawLoad_kept (ea n : Nat) {s : State} (hmem : s.keeps iv) : okPair iv (State.rawLoad s ea n) := by
  unfold State.rawLoad
  repeat' first
    | with_reducible assumption | with_reducible refine snd_kept (by assumption) (loadLocal_kept _ _ ?_)
    | with_reducible refine loadLocal_kept _ _ ?_ | with_reducible refine okPair_ok ?_ | with_reducible exact okPair_error
    | with_reducible refine okState_ok ?_ | with_reducible exact okState_error | split | dsimp only | dsimp only [State.keeps]

theorem rawLoads_kept : ∀ (l : List (Nat × Nat)) {s : State}, s.keeps iv → okPair iv (s.rawLoads l)
  | [], _, h => h
  | (ea, n) :: t, s, h => by
    unfold State.rawLoads
    split
    · trivial
    · rename_i x s' he
      have h1 : s'.keeps iv := okPair_kept he (rawLoad_kept _ _ h)
      have h2 := rawLoads_kept t h1
      split
      · trivial
      · rename_i he2
        exact okPair_kept he2 h2

theorem withRaw_kept (l : List (Nat × Nat)) {k : List Nat → State → Res} {s : State} (h : s.keeps iv)
    (hk : ∀ x t, t.keeps iv → (k x t).kept iv) : (s.withRaw l k).kept iv := by
  unfold State.withRaw
  split
  · exact h
  · rename_i he
    exact hk _ _ (okPair_kept he (rawLoads_kept l h))

theorem vldd_kept (d : VField) (ea : Nat) (e : BitVec 128)
    {s : State} (hmem : s.keeps iv) : (State.vldd s d ea e).kept iv := by
  unfold State.vldd
  repeat' first
    | with_reducible assumption | with_reducible refine vresult_kept _ _ _ ?_
    | with_reducible refine withRaw_kept _ ?_ (fun _ _ _ => ?_) | with_reducible refine setVec_kept _ _ _ ?_
    | with_reducible refine trapOf_kept _ _ _ ?_ | with_reducible refine retire_kept ?_ | split | dsimp only
    | dsimp only [State.keeps]

theorem vldp_kept (d : VField) (ea : Nat) (e : BitVec 128)
    {s : State} (hmem : s.keeps iv) : (State.vldp s d ea e).kept iv := by
  unfold State.vldp
  repeat' first
    | with_reducible assumption | with_reducible refine withRaw_kept _ ?_ (fun _ _ _ => ?_)
    | with_reducible refine setVec_kept _ _ _ ?_ | with_reducible refine retire_kept ?_ | split | dsimp only
    | dsimp only [State.keeps]

theorem declLoad_kept (words : Nat) (scaled_ : Bool) (g : Guard) (d : VField) (a : GReg) (disp : Word)
    {s : State} (hmem : s.keeps iv) : outKept iv (declLoad words scaled_ g d a disp s) := by
  unfold declLoad
  repeat' first
    | with_reducible assumption | with_reducible refine vldd_kept _ _ _ ?_ | with_reducible refine vldp_kept _ _ _ ?_
    | with_reducible refine issue_kept _ ?_ (fun _ _ => ?_) | with_reducible refine trap_kept ?_
    | with_reducible refine next_kept ?_ | with_reducible exact trivial | split | dsimp only | dsimp only [State.keeps]

theorem execVldd_kept (g : Guard) (d : VField) (a : GReg) (off : BitVec 6)
    {s : State} (hmem : s.keeps iv) : outKept iv (execVldd g d a off s) := by
  unfold execVldd
  repeat' first
    | with_reducible assumption | with_reducible refine declLoad_kept _ _ _ _ _ _ ?_ | with_reducible refine next_kept ?_
    | with_reducible exact trivial | split | dsimp only | dsimp only [State.keeps]

theorem execVlddDw_kept (g : Guard) (d : VField) (a : GReg) (disp : BitVec 32)
    {s : State} (hmem : s.keeps iv) : outKept iv (execVlddDw g d a disp s) := by
  unfold execVlddDw
  repeat' first
    | with_reducible assumption | with_reducible refine declLoad_kept _ _ _ _ _ _ ?_ | with_reducible refine next_kept ?_
    | with_reducible exact trivial | split | dsimp only | dsimp only [State.keeps]

theorem execVldp_kept (g : Guard) (d : VField) (a : GReg) (off : BitVec 6)
    {s : State} (hmem : s.keeps iv) : outKept iv (execVldp g d a off s) := by
  unfold execVldp
  repeat' first
    | with_reducible assumption | with_reducible refine declLoad_kept _ _ _ _ _ _ ?_ | with_reducible refine next_kept ?_
    | with_reducible exact trivial | split | dsimp only | dsimp only [State.keeps]

theorem execVldpDw_kept (g : Guard) (d : VField) (a : GReg) (disp : BitVec 32)
    {s : State} (hmem : s.keeps iv) : outKept iv (execVldpDw g d a disp s) := by
  unfold execVldpDw
  repeat' first
    | with_reducible assumption | with_reducible refine declLoad_kept _ _ _ _ _ _ ?_ | with_reducible refine next_kept ?_
    | with_reducible exact trivial | split | dsimp only | dsimp only [State.keeps]

end Sys2Proof.Machine
end

