-- ==== Sys2Proof/Laws/KeptFabric.lean ====
section
/-!
SUPPORT. Sys2Proof/Laws/KeptFabric.lean: fabric, messages, transfers and caches keep the canonical form of memory (log 2) and an agenda of events.
-/
namespace Sys2Proof.Machine

variable {iv : Bool}

/-! ## Fabric -/

theorem seen_kept (r : Req) {s : State} (hmem : s.keeps iv) : (State.seen s r).keeps iv := by
  unfold State.seen
  repeat' first
    | with_reducible assumption | with_reducible refine modCore_kept _ _ ?_ | with_reducible refine id_kept ?_ | split
    | dsimp only | dsimp only [State.keeps]

theorem updReq_kept (id : Nat) (f : Req → Req) {s : State} (hmem : s.keeps iv) : (State.updReq s id f).keeps iv := by
  unfold State.updReq
  repeat' first
    | with_reducible assumption | with_reducible refine id_kept ?_ | split | dsimp only | dsimp only [State.keeps]

theorem dropReq_kept (id : Nat) {s : State} (hmem : s.keeps iv) : (State.dropReq s id).keeps iv := by
  unfold State.dropReq
  repeat' first
    | with_reducible assumption | with_reducible refine id_kept ?_ | split | dsimp only | dsimp only [State.keeps]

theorem kick_kept (src : Nat) (stream : Option Nat)
    {s : State} (hmem : s.keeps iv) : (State.kick s src stream).keeps iv := by
  unfold State.kick
  repeat' first
    | with_reducible assumption | with_reducible exact Req.event_isEvent _ | exact rfl
    | with_reducible refine all_map (fun _ => ?_) | with_reducible refine all_filter ?_ | with_reducible exact all_nil
    | with_reducible refine emits_kept ?_ ?_ | split | dsimp only | dsimp only [State.keeps]

theorem inject_kept (r : Req) {s : State} (hmem : s.keeps iv) : (State.inject s r).2.keeps iv := by
  unfold State.inject
  repeat' first
    | with_reducible assumption | with_reducible exact Req.event_isEvent _ | exact rfl
    | with_reducible refine snd_kept (by assumption) (fresh_kept ?_) | with_reducible refine fresh_kept ?_
    | with_reducible refine emit_kept ?_ ?_ | with_reducible refine id_kept ?_ | split | dsimp only | dsimp only [State.keeps]

theorem performed_kept (r : Req) {s : State} (hmem : s.keeps iv) : (State.performed s r).keeps iv := by
  unfold State.performed
  repeat' first
    | with_reducible assumption | with_reducible refine dropReq_kept _ ?_ | with_reducible refine kick_kept _ _ ?_
    | with_reducible refine id_kept ?_ | split | dsimp only | dsimp only [State.keeps]

theorem freeze_kept (src stream : Nat) (dst : Option Nat)
    {s : State} (hmem : s.keeps iv) : (State.freeze s src stream dst).keeps iv := by
  unfold State.freeze
  repeat' first
    | with_reducible assumption | with_reducible refine modCore_kept _ _ ?_ | split | dsimp only | dsimp only [State.keeps]

theorem heard_kept (dst src : Nat) (stream : Option Nat)
    {s : State} (hmem : s.keeps iv) : (State.heard s dst src stream).keeps iv := by
  unfold State.heard
  repeat' first
    | with_reducible assumption | with_reducible refine modCore_kept _ _ ?_ | split | dsimp only | dsimp only [State.keeps]

theorem thaw_kept (src stream : Nat) {s : State} (hmem : s.keeps iv) : (State.thaw s src stream).keeps iv := by
  unfold State.thaw
  repeat' first
    | with_reducible assumption | with_reducible refine modCore_kept _ _ ?_ | with_reducible refine kick_kept _ _ ?_
    | with_reducible refine id_kept ?_ | split | dsimp only | dsimp only [State.keeps]

theorem endOutstanding_kept (tid id : Nat)
    {s : State} (hmem : s.keeps iv) : (State.endOutstanding s tid id).keeps iv := by
  unfold State.endOutstanding
  repeat' first
    | with_reducible assumption | with_reducible refine modThread_kept _ _ ?_ | with_reducible refine id_kept ?_ | split
    | dsimp only | dsimp only [State.keeps]

theorem faultOutstanding_kept (tid id : Nat)
    {s : State} (hmem : s.keeps iv) : (State.faultOutstanding s tid id).keeps iv := by
  unfold State.faultOutstanding
  repeat' first
    | with_reducible assumption | with_reducible refine modThread_kept _ _ ?_ | with_reducible refine id_kept ?_ | split
    | dsimp only | dsimp only [State.keeps]

theorem reviveOutstanding_kept (tid id : Nat)
    {s : State} (hmem : s.keeps iv) : (State.reviveOutstanding s tid id).keeps iv := by
  unfold State.reviveOutstanding
  repeat' first
    | with_reducible assumption | with_reducible refine modThread_kept _ _ ?_ | with_reducible refine id_kept ?_ | split
    | dsimp only | dsimp only [State.keeps]

theorem pendAlive_kept (tid : Nat) (t : TrapInfo)
    {s : State} (hmem : s.keeps iv) : (State.pendAlive s tid t).keeps iv := by
  unfold State.pendAlive
  repeat' first
    | with_reducible assumption | with_reducible refine pend_kept _ _ ?_ | split | dsimp only | dsimp only [State.keeps]

theorem refuse_kept (r : Req) (dst : Option Nat) (c : Cause) (sub : Nat)
    {s : State} (hmem : s.keeps iv) : (State.refuse s r dst c sub).keeps iv := by
  unfold State.refuse
  repeat' first
    | with_reducible assumption | exact rfl | with_reducible refine updReq_kept _ _ ?_
    | with_reducible refine freeze_kept _ _ _ ?_ | with_reducible refine emit_kept ?_ ?_ | with_reducible refine id_kept ?_
    | split | dsimp only | dsimp only [State.keeps]

theorem modChan_kept (core : Nat) (ch : Fin 4) (f : ChannelState → ChannelState)
    {s : State} (hmem : s.keeps iv) : (State.modChan s core ch f).keeps iv := by
  unfold State.modChan
  repeat' first
    | with_reducible assumption | with_reducible refine modCore_kept _ _ ?_ | split | dsimp only | dsimp only [State.keeps]

theorem refuseBump_kept (r : Req) (cause : Cause) (sub : Nat)
    {s : State} (hmem : s.keeps iv) : (State.refuseBump s r cause sub).keeps iv := by
  unfold State.refuseBump
  repeat' first
    | with_reducible assumption | with_reducible refine performed_kept _ ?_ | with_reducible refine pendAlive_kept _ _ ?_
    | with_reducible refine dropReq_kept _ ?_ | with_reducible refine modChan_kept _ _ _ ?_
    | with_reducible refine freeze_kept _ _ _ ?_ | with_reducible refine id_kept ?_ | split | dsimp only
    | dsimp only [State.keeps]

/-! ## Messages -/

theorem ringWrite_kept (core c : Nat) (bs : List Byte)
    {s : State} (hmem : s.keeps iv) : (State.ringWrite s core c bs).keeps iv := by
  unfold State.ringWrite
  repeat' first
    | with_reducible assumption | with_reducible refine setPoolBytes_kept _ _ _ ?_ | split | dsimp only
    | dsimp only [State.keeps]

theorem enqueue_kept (core tag stream kind tid : Nat) (payload : List Byte)
    {s : State} (hmem : s.keeps iv) : (State.enqueue s core tag stream kind tid payload).keeps iv := by
  unfold State.enqueue
  repeat' first
    | with_reducible assumption | with_reducible refine ringWrite_kept _ _ _ ?_ | with_reducible refine modCore_kept _ _ ?_
    | split | dsimp only | dsimp only [State.keeps]

theorem dequeue_kept (core : Nat) {s : State} (hmem : s.keeps iv) : (State.dequeue s core).keeps iv := by
  unfold State.dequeue
  repeat' first
    | with_reducible assumption | with_reducible refine modCore_kept _ _ ?_ | split | dsimp only | dsimp only [State.keeps]

theorem countRefusal_kept (core : Nat) {s : State} (hmem : s.keeps iv) : (State.countRefusal s core).keeps iv := by
  unfold State.countRefusal
  repeat' first
    | with_reducible assumption | with_reducible refine modCore_kept _ _ ?_ | with_reducible refine count_kept _ _ _ _ ?_
    | split | dsimp only | dsimp only [State.keeps]

theorem stage_kept (dest : Word) (payload : List Byte)
    {s : State} (hmem : s.keeps iv) : (State.stage s dest payload).kept iv := by
  unfold State.stage
  repeat' first
    | with_reducible assumption | with_reducible refine snd_kept (by assumption) (inject_kept _ ?_)
    | with_reducible refine inject_kept _ ?_ | with_reducible refine retire_kept ?_ | with_reducible exact again_kept
    | with_reducible refine id_kept ?_ | split | dsimp only | dsimp only [State.keeps]

theorem execSend_kept (g : Guard) (a b : GReg) {s : State} (hmem : s.keeps iv) : outKept iv (execSend g a b s) := by
  unfold execSend
  repeat' first
    | with_reducible assumption | with_reducible refine stage_kept _ _ ?_
    | with_reducible refine issue_kept _ ?_ (fun _ _ => ?_) | with_reducible refine trap_kept ?_
    | with_reducible refine next_kept ?_ | with_reducible exact trivial | split | dsimp only | dsimp only [State.keeps]

theorem execSendl_kept (g : Guard) (a b : GReg) {s : State} (hmem : s.keeps iv) : outKept iv (execSendl g a b s) := by
  unfold execSendl
  repeat' first
    | with_reducible assumption | with_reducible refine poolCorrect_kept _ _ _ ?_ | with_reducible refine stage_kept _ _ ?_
    | with_reducible refine trapOf_kept _ _ _ ?_ | with_reducible refine issue_kept _ ?_ (fun _ _ => ?_)
    | with_reducible refine trap_kept ?_ | with_reducible refine next_kept ?_ | with_reducible exact trivial | split
    | dsimp only | dsimp only [State.keeps]

theorem countSent_kept (r : Req) {s : State} (hmem : s.keeps iv) : (State.countSent s r).keeps iv := by
  unfold State.countSent
  repeat' first
    | with_reducible assumption | with_reducible refine modCore_kept _ _ ?_ | split | dsimp only | dsimp only [State.keeps]

theorem waitRetry_kept (r : Req) {s : State} (hmem : s.keeps iv) : (State.waitRetry s r).keeps iv := by
  unfold State.waitRetry
  repeat' first
    | with_reducible assumption | exact rfl | with_reducible refine updReq_kept _ _ ?_ | with_reducible refine emit_kept ?_ ?_
    | with_reducible refine id_kept ?_ | split | dsimp only | dsimp only [State.keeps]

theorem execMessageArrival_kept (id : Nat) {s : State} (hmem : s.keeps iv) : outKept iv (execMessageArrival id s) := by
  unfold execMessageArrival
  repeat' first
    | with_reducible assumption | with_reducible refine countRefusal_kept _ ?_ | with_reducible refine performed_kept _ ?_
    | with_reducible refine countSent_kept _ ?_ | with_reducible refine waitRetry_kept _ ?_
    | with_reducible refine enqueue_kept _ _ _ _ _ _ ?_ | with_reducible refine updReq_kept _ _ ?_
    | with_reducible refine refuse_kept _ _ _ _ ?_ | with_reducible refine heard_kept _ _ _ ?_
    | with_reducible refine seen_kept _ ?_ | with_reducible refine next_kept ?_ | with_reducible exact trivial
    | with_reducible refine id_kept ?_ | split | dsimp only | dsimp only [State.keeps]

theorem execRetryTimer_kept (core stream : Nat)
    {s : State} (hmem : s.keeps iv) : outKept iv (execRetryTimer core stream s) := by
  unfold execRetryTimer
  repeat' first
    | with_reducible assumption | with_reducible exact Req.event_isEvent _ | exact rfl
    | with_reducible refine all_map (fun _ => ?_) | with_reducible refine all_filter ?_ | with_reducible exact all_nil
    | with_reducible refine emits_kept ?_ ?_ | with_reducible refine next_kept ?_ | with_reducible exact trivial | split
    | dsimp only | dsimp only [State.keeps]

theorem chainOf_kept (w : Word) (payload : List Byte)
    {s : State} (hmem : s.keeps iv) : (State.chainOf s w payload).keeps iv := by
  unfold State.chainOf
  repeat' first
    | with_reducible assumption | with_reducible refine modTh_kept _ ?_ | split | dsimp only | dsimp only [State.keeps]

theorem headCorrect_kept (core : Nat) (payload : Bool)
    {s : State} (hmem : s.keeps iv) : (State.headCorrect s core payload).keeps iv := by
  unfold State.headCorrect
  repeat' first
    | with_reducible assumption | with_reducible refine poolCorrect_kept _ _ _ ?_
    | with_reducible refine foldl_kept ?_ (fun _ _ _ => ?_) | split | dsimp only | dsimp only [State.keeps]

theorem landHead_kept (d : GReg) (la : Nat) (w : Word) (payload : List Byte)
    {s : State} (hmem : s.keeps iv) : (State.landHead s d la w payload).keeps iv := by
  unfold State.landHead
  repeat' first
    | with_reducible assumption | with_reducible refine headCorrect_kept _ _ ?_ | with_reducible refine ownWrite_kept _ _ _ ?_
    | with_reducible refine dequeue_kept _ ?_ | with_reducible refine chainOf_kept _ _ ?_
    | with_reducible refine setG_kept _ _ ?_ | split | dsimp only | dsimp only [State.keeps]

theorem withRange_kept (ea n : Nat) {r : Res} {s : State} (h : s.keeps iv) (hr : r.kept iv) : (s.withRange ea n r).kept iv := by
  unfold State.withRange
  split
  · exact h
  · exact hr

theorem recvTake_kept (d : GReg) (la : Nat) {s : State} (hmem : s.keeps iv) : (State.recvTake s d la).kept iv := by
  unfold State.recvTake
  repeat' first
    | with_reducible assumption | with_reducible refine withRange_kept _ _ ?_ ?_
    | with_reducible refine landHead_kept _ _ _ _ ?_ | with_reducible refine trapOf_kept _ _ _ ?_
    | with_reducible refine retire_kept ?_ | split | dsimp only | dsimp only [State.keeps]

theorem execRecv_kept (g : Guard) (d a : GReg) {s : State} (hmem : s.keeps iv) : outKept iv (execRecv g d a s) := by
  unfold execRecv
  repeat' first
    | with_reducible assumption | with_reducible refine recvTake_kept _ _ ?_
    | with_reducible refine issue_kept _ ?_ (fun _ _ => ?_) | with_reducible refine block_kept ?_
    | with_reducible refine next_kept ?_ | with_reducible exact trivial | split | dsimp only | dsimp only [State.keeps]

theorem execRecvTake_kept (tid : Nat) {s : State} (hmem : s.keeps iv) : outKept iv (execRecvTake tid s) := by
  unfold execRecvTake
  repeat' first
    | with_reducible assumption | with_reducible refine recvTake_kept _ _ ?_
    | with_reducible refine wake_kept _ _ ?_ (fun _ _ _ => ?_) | with_reducible exact again_kept
    | with_reducible refine next_kept ?_ | with_reducible exact trivial | split | dsimp only | dsimp only [State.keeps]

theorem execRpeek_kept (g : Guard) (d : GReg) {s : State} (hmem : s.keeps iv) : outKept iv (execRpeek g d s) := by
  unfold execRpeek
  repeat' first
    | with_reducible assumption | with_reducible refine headCorrect_kept _ _ ?_ | with_reducible refine setG_kept _ _ ?_
    | with_reducible refine trapOf_kept _ _ _ ?_ | with_reducible refine issue_kept _ ?_ (fun _ _ => ?_)
    | with_reducible refine retire_kept ?_ | with_reducible refine next_kept ?_ | with_reducible exact trivial | split
    | dsimp only | dsimp only [State.keeps]

theorem execRqset_kept (g : Guard) (a b : GReg) {s : State} (hmem : s.keeps iv) : outKept iv (execRqset g a b s) := by
  unfold execRqset
  repeat' first
    | with_reducible assumption | with_reducible refine modCore_kept _ _ ?_ | with_reducible refine trapOf_kept _ _ _ ?_
    | with_reducible refine issue_kept _ ?_ (fun _ _ => ?_) | with_reducible refine retire_kept ?_
    | with_reducible refine next_kept ?_ | with_reducible exact trivial | split | dsimp only | dsimp only [State.keeps]

theorem remoteIssue_kept (get window : Bool) (d a b : GReg) (x : RemoteExt)
    {s : State} (hmem : s.keeps iv) : (State.remoteIssue s get window d a b x).kept iv := by
  unfold State.remoteIssue
  repeat' first
    | with_reducible assumption | with_reducible refine snd_kept (by assumption) (inject_kept _ ?_)
    | with_reducible refine inject_kept _ ?_ | with_reducible refine modTh_kept _ ?_ | with_reducible refine retire_kept ?_
    | with_reducible refine trap_kept ?_ | with_reducible exact again_kept | with_reducible refine id_kept ?_ | split
    | dsimp only | dsimp only [State.keeps]

theorem remoteGet_kept (major : Nat) (window : Bool) (words : Nat) (g : Guard) (look : Fin 16) (d a b : GReg) (x : RemoteExt)
    {s : State} (hmem : s.keeps iv) : outKept iv (remoteGet major window words g look d a b x s) := by
  unfold remoteGet
  repeat' first
    | with_reducible assumption | with_reducible refine remoteIssue_kept _ _ _ _ _ _ ?_
    | with_reducible refine issue_kept _ ?_ (fun _ _ => ?_) | with_reducible refine next_kept ?_
    | with_reducible exact trivial | split | dsimp only | dsimp only [State.keeps]

theorem remotePut_kept (major : Nat) (window : Bool) (words : Nat) (g : Guard) (look : Fin 16) (d a b : GReg) (x : RemoteExt)
    {s : State} (hmem : s.keeps iv) : outKept iv (remotePut major window words g look d a b x s) := by
  unfold remotePut
  repeat' first
    | with_reducible assumption | with_reducible refine remoteIssue_kept _ _ _ _ _ _ ?_
    | with_reducible refine issue_kept _ ?_ (fun _ _ => ?_) | with_reducible refine next_kept ?_
    | with_reducible exact trivial | split | dsimp only | dsimp only [State.keeps]

theorem execRget_kept (g : Guard) (look : Fin 16) (d a b : GReg)
    {s : State} (hmem : s.keeps iv) : outKept iv (execRget g look d a b s) := by
  unfold execRget
  repeat' first
    | with_reducible assumption | with_reducible refine remoteGet_kept _ _ _ _ _ _ _ _ _ ?_
    | with_reducible refine next_kept ?_ | with_reducible exact trivial | split | dsimp only | dsimp only [State.keeps]

theorem execRgetDw_kept (g : Guard) (look : Fin 16) (d a b : GReg) (ext : BitVec 32)
    {s : State} (hmem : s.keeps iv) : outKept iv (execRgetDw g look d a b ext s) := by
  unfold execRgetDw
  repeat' first
    | with_reducible assumption | with_reducible refine remoteGet_kept _ _ _ _ _ _ _ _ _ ?_
    | with_reducible refine next_kept ?_ | with_reducible exact trivial | split | dsimp only | dsimp only [State.keeps]

theorem execRsto_kept (g : Guard) (look : Fin 16) (d a b : GReg)
    {s : State} (hmem : s.keeps iv) : outKept iv (execRsto g look d a b s) := by
  unfold execRsto
  repeat' first
    | with_reducible assumption | with_reducible refine remotePut_kept _ _ _ _ _ _ _ _ _ ?_
    | with_reducible refine next_kept ?_ | with_reducible exact trivial | split | dsimp only | dsimp only [State.keeps]

theorem execRstoDw_kept (g : Guard) (look : Fin 16) (d a b : GReg) (ext : BitVec 32)
    {s : State} (hmem : s.keeps iv) : outKept iv (execRstoDw g look d a b ext s) := by
  unfold execRstoDw
  repeat' first
    | with_reducible assumption | with_reducible refine remotePut_kept _ _ _ _ _ _ _ _ _ ?_
    | with_reducible refine next_kept ?_ | with_reducible exact trivial | split | dsimp only | dsimp only [State.keeps]

theorem execWld_kept (g : Guard) (look : Fin 16) (d a b : GReg)
    {s : State} (hmem : s.keeps iv) : outKept iv (execWld g look d a b s) := by
  unfold execWld
  repeat' first
    | with_reducible assumption | with_reducible refine remoteGet_kept _ _ _ _ _ _ _ _ _ ?_
    | with_reducible refine next_kept ?_ | with_reducible exact trivial | split | dsimp only | dsimp only [State.keeps]

theorem execWldDw_kept (g : Guard) (look : Fin 16) (d a b : GReg) (ext : BitVec 32)
    {s : State} (hmem : s.keeps iv) : outKept iv (execWldDw g look d a b ext s) := by
  unfold execWldDw
  repeat' first
    | with_reducible assumption | with_reducible refine remoteGet_kept _ _ _ _ _ _ _ _ _ ?_
    | with_reducible refine next_kept ?_ | with_reducible exact trivial | split | dsimp only | dsimp only [State.keeps]

theorem execWst_kept (g : Guard) (look : Fin 16) (d a b : GReg)
    {s : State} (hmem : s.keeps iv) : outKept iv (execWst g look d a b s) := by
  unfold execWst
  repeat' first
    | with_reducible assumption | with_reducible refine remotePut_kept _ _ _ _ _ _ _ _ _ ?_
    | with_reducible refine next_kept ?_ | with_reducible exact trivial | split | dsimp only | dsimp only [State.keeps]

theorem execWstDw_kept (g : Guard) (look : Fin 16) (d a b : GReg) (ext : BitVec 32)
    {s : State} (hmem : s.keeps iv) : outKept iv (execWstDw g look d a b ext s) := by
  unfold execWstDw
  repeat' first
    | with_reducible assumption | with_reducible refine remotePut_kept _ _ _ _ _ _ _ _ _ ?_
    | with_reducible refine next_kept ?_ | with_reducible exact trivial | split | dsimp only | dsimp only [State.keeps]

theorem retryLater_kept (r : Req) {s : State} (hmem : s.keeps iv) : (State.retryLater s r).keeps iv := by
  unfold State.retryLater
  repeat' first
    | with_reducible assumption | exact rfl | with_reducible refine updReq_kept _ _ ?_ | with_reducible refine emit_kept ?_ ?_
    | with_reducible refine id_kept ?_ | split | dsimp only | dsimp only [State.keeps]

theorem execRemoteRequestArrival_kept (id : Nat)
    {s : State} (hmem : s.keeps iv) : outKept iv (execRemoteRequestArrival id s) := by
  unfold execRemoteRequestArrival
  repeat' first
    | with_reducible assumption | exact rfl | with_reducible refine poolCorrect_kept _ _ _ ?_
    | with_reducible refine setPoolNat_kept _ _ _ _ ?_ | with_reducible refine retryLater_kept _ ?_
    | with_reducible refine performed_kept _ ?_ | with_reducible refine updReq_kept _ _ ?_
    | with_reducible refine refuse_kept _ _ _ _ ?_ | with_reducible refine heard_kept _ _ _ ?_
    | with_reducible refine emit_kept ?_ ?_ | with_reducible refine seen_kept _ ?_ | with_reducible refine kick_kept _ _ ?_
    | with_reducible refine next_kept ?_ | with_reducible exact trivial | with_reducible refine id_kept ?_ | split
    | dsimp only | dsimp only [State.keeps]

theorem reply_kept (r : Req) (d : GReg) (v : Word)
    {s : State} (hmem : s.keeps iv) : (State.reply s r d v).keeps iv := by
  unfold State.reply
  repeat' first
    | with_reducible assumption | with_reducible refine setThread_kept _ _ ?_ | with_reducible refine setG_kept _ _ ?_
    | with_reducible refine id_kept ?_ | split | dsimp only | dsimp only [State.keeps]

theorem execRemoteReply_kept (id : Nat) {s : State} (hmem : s.keeps iv) : outKept iv (execRemoteReply id s) := by
  unfold execRemoteReply
  repeat' first
    | with_reducible assumption | with_reducible refine endOutstanding_kept _ _ ?_
    | with_reducible refine pendAlive_kept _ _ ?_ | with_reducible refine dropReq_kept _ ?_
    | with_reducible refine reply_kept _ _ _ ?_ | with_reducible refine block_kept ?_ | with_reducible refine next_kept ?_
    | with_reducible exact trivial | with_reducible refine id_kept ?_ | split | dsimp only | dsimp only [State.keeps]

theorem execRefusalReturn_kept (id : Nat) {s : State} (hmem : s.keeps iv) : outKept iv (execRefusalReturn id s) := by
  unfold execRefusalReturn
  repeat' first
    | with_reducible assumption | with_reducible refine faultOutstanding_kept _ _ ?_
    | with_reducible refine endOutstanding_kept _ _ ?_ | with_reducible refine pendAlive_kept _ _ ?_
    | with_reducible refine next_kept ?_ | with_reducible exact trivial | with_reducible refine id_kept ?_ | split
    | dsimp only | dsimp only [State.keeps]

theorem execResume_kept (g : Guard) (a b : GReg) {s : State} (hmem : s.keeps iv) : outKept iv (execResume g a b s) := by
  unfold execResume
  repeat' first
    | with_reducible assumption | with_reducible refine snd_kept (by assumption) (inject_kept _ ?_)
    | with_reducible refine inject_kept _ ?_ | with_reducible refine trapOf_kept _ _ _ ?_
    | with_reducible refine issue_kept _ ?_ (fun _ _ => ?_) | with_reducible refine retire_kept ?_
    | with_reducible refine next_kept ?_ | with_reducible exact trivial | with_reducible refine id_kept ?_ | split
    | dsimp only | dsimp only [State.keeps]

theorem dropPacket_kept (r : Req) {s : State} (hmem : s.keeps iv) : (State.dropPacket s r).keeps iv := by
  unfold State.dropPacket
  repeat' first
    | with_reducible assumption | with_reducible refine endOutstanding_kept _ _ ?_
    | with_reducible refine pendAlive_kept _ _ ?_ | with_reducible refine dropReq_kept _ ?_ | with_reducible refine id_kept ?_
    | split | dsimp only | dsimp only [State.keeps]

theorem execResumeArrival_kept (id : Nat) {s : State} (hmem : s.keeps iv) : outKept iv (execResumeArrival id s) := by
  unfold execResumeArrival
  repeat' first
    | with_reducible assumption | with_reducible refine reviveOutstanding_kept _ _ ?_
    | with_reducible refine dropPacket_kept _ ?_ | with_reducible refine pendAlive_kept _ _ ?_
    | with_reducible refine dropReq_kept _ ?_ | with_reducible refine thaw_kept _ _ ?_
    | with_reducible refine foldl_kept ?_ (fun _ _ _ => ?_) | with_reducible refine block_kept ?_
    | with_reducible refine next_kept ?_ | with_reducible exact trivial | with_reducible refine id_kept ?_ | split
    | dsimp only | dsimp only [State.keeps]

theorem setLink_kept (l : Nat) (x : Link) {s : State} (hmem : s.keeps iv) : (State.setLink s l x).keeps iv := by
  unfold State.setLink
  repeat' first
    | with_reducible assumption | split | dsimp only | dsimp only [State.keeps]

theorem execFlitReceive_kept (link seq : Nat) (crcOk : Bool)
    {s : State} (hmem : s.keeps iv) : outKept iv (execFlitReceive link seq crcOk s) := by
  unfold execFlitReceive
  repeat' first
    | with_reducible assumption | exact rfl | with_reducible refine setLink_kept _ _ ?_
    | with_reducible refine emit_kept ?_ ?_ | with_reducible refine next_kept ?_ | with_reducible exact trivial | split
    | dsimp only | dsimp only [State.keeps]

theorem execReplayRequest_kept (link seq : Nat)
    {s : State} (hmem : s.keeps iv) : outKept iv (execReplayRequest link seq s) := by
  unfold execReplayRequest
  repeat' first
    | with_reducible assumption | exact rfl | with_reducible refine all_map (fun _ => ?_)
    | with_reducible refine all_filter ?_ | with_reducible exact all_nil | with_reducible refine setLink_kept _ _ ?_
    | with_reducible refine emits_kept ?_ ?_ | with_reducible refine emit_kept ?_ ?_ | with_reducible refine next_kept ?_
    | with_reducible exact trivial | split | dsimp only | dsimp only [State.keeps]

theorem execLinkDown_kept (link : Nat) {s : State} (hmem : s.keeps iv) : outKept iv (execLinkDown link s) := by
  unfold execLinkDown
  repeat' first
    | with_reducible assumption | with_reducible refine hardwareRecord_kept _ _ ?_
    | with_reducible refine refuseBump_kept _ _ _ ?_ | with_reducible refine performed_kept _ ?_
    | with_reducible refine setLink_kept _ _ ?_ | with_reducible refine refuse_kept _ _ _ _ ?_
    | with_reducible refine foldl_kept ?_ (fun _ _ _ => ?_) | with_reducible refine next_kept ?_
    | with_reducible exact trivial | split | dsimp only | dsimp only [State.keeps]

/-! ## Region -/

theorem arrive_kept (m pa : Nat) {s : State} (hmem : s.keeps iv) : (State.arrive s m pa).keeps iv := by
  unfold State.arrive
  repeat' first
    | with_reducible assumption | with_reducible refine modModule_kept _ _ ?_ | split | dsimp only | dsimp only [State.keeps]

theorem addElements_kept (m : Nat) (f64 : Bool) : ∀ (pa : Nat) (xs : List Nat) {s : State}, s.keeps iv →
    (s.addElements m f64 pa xs).keeps iv
  | _, [], _, h => h
  | _, _ :: xs, _, h => addElements_kept m f64 _ xs (unitWrite_kept _ _ _ h)

theorem accumulate_kept (m : Nat) (f64 : Bool) (basePa slotPa : Nat) (xs : List Nat)
    {s : State} (hmem : s.keeps iv) : (State.accumulate s m f64 basePa slotPa xs).keeps iv := by
  unfold State.accumulate
  repeat' first
    | with_reducible assumption | with_reducible refine addElements_kept _ _ _ _ ?_ | with_reducible refine arrive_kept _ _ ?_
    | split | dsimp only | dsimp only [State.keeps]

theorem foldElement_kept (m : Nat) (f64 : Bool) (base : Nat) (slots : List Nat)
    {s : State} (hmem : s.keeps iv) : (State.foldElement s m f64 base slots).keeps iv := by
  unfold State.foldElement
  repeat' first
    | with_reducible assumption | with_reducible refine unitWrite_kept _ _ _ ?_
    | with_reducible refine foldl_kept ?_ (fun _ _ _ => ?_) | split | dsimp only | dsimp only [State.keeps]

theorem foldLine_kept (m : Nat) (f64 : Bool) (line : Nat) (slots : List Nat)
    {s : State} (hmem : s.keeps iv) : (State.foldLine s m f64 line slots).keeps iv := by
  unfold State.foldLine
  repeat' first
    | with_reducible assumption | with_reducible refine foldElement_kept _ _ _ _ ?_
    | with_reducible refine modModule_kept _ _ ?_ | with_reducible refine foldl_kept ?_ (fun _ _ _ => ?_) | split | dsimp only
    | dsimp only [State.keeps]

/-! ## Objects -/

theorem setObj_kept (r : ObjRef) (x : Conj) {s : State} (hmem : s.keeps iv) : (State.setObj s r x).keeps iv := by
  unfold State.setObj
  repeat' first
    | with_reducible assumption | with_reducible refine modModule_kept _ _ ?_ | with_reducible refine modQuad_kept _ _ ?_
    | with_reducible refine modDie_kept _ _ ?_ | split | dsimp only | dsimp only [State.keeps]

theorem objTest_kept (r : ObjRef) (tid : Nat) (ga : Word)
    {s : State} (hmem : s.keeps iv) : (State.objTest s r tid ga).keeps iv := by
  unfold State.objTest
  repeat' first
    | with_reducible assumption | with_reducible refine setObj_kept _ _ ?_ | with_reducible refine trace_kept _ _ _ _ _ _ _ ?_
    | split | dsimp only | dsimp only [State.keeps]

theorem orphanTrap_kept (tid : Nat) (t : TrapInfo)
    {s : State} (hmem : s.keeps iv) : (State.orphanTrap s tid t).keeps iv := by
  unfold State.orphanTrap
  repeat' first
    | with_reducible assumption | with_reducible refine send_kept _ ?_ | with_reducible refine id_kept ?_ | split | dsimp only
    | dsimp only [State.keeps]

theorem toPoster_kept (tid : Nat) (team : Option (Nat × Nat)) (t : TrapInfo)
    {s : State} (hmem : s.keeps iv) : (State.toPoster s tid team t).keeps iv := by
  unfold State.toPoster
  repeat' first
    | with_reducible assumption | with_reducible refine orphanTrap_kept _ _ ?_ | with_reducible refine pend_kept _ _ ?_
    | split | dsimp only | dsimp only [State.keeps]

theorem countBytes_kept (quad obj n tid : Nat)
    {s : State} (hmem : s.keeps iv) : (State.countBytes s quad obj n tid).keeps iv := by
  unfold State.countBytes
  repeat' first
    | with_reducible assumption | with_reducible refine toPoster_kept _ _ _ ?_ | with_reducible refine objTest_kept _ _ _ ?_
    | with_reducible refine setObj_kept _ _ ?_ | split | dsimp only | dsimp only [State.keeps]

/-! ## Transfer -/

theorem queueEntry_kept (e : Entry) {s : State} (hmem : s.keeps iv) : (State.queueEntry s e).kept iv := by
  unfold State.queueEntry
  repeat' first
    | with_reducible assumption | exact rfl | with_reducible refine modChan_kept _ _ _ ?_
    | with_reducible refine emit_kept ?_ ?_ | with_reducible refine retire_kept ?_ | with_reducible refine trap_kept ?_
    | with_reducible exact again_kept | split | dsimp only | dsimp only [State.keeps]

theorem blockTransfer_kept (major : Nat) (kind : EntryKind) (words : Nat) (g : Guard) (look : Fin 16) (d a b : GReg) (ext : BitVec 32)
    {s : State} (hmem : s.keeps iv) : outKept iv (blockTransfer major kind words g look d a b ext s) := by
  unfold blockTransfer
  repeat' first
    | with_reducible assumption | with_reducible refine queueEntry_kept _ ?_
    | with_reducible refine issue_kept _ ?_ (fun _ _ => ?_) | with_reducible refine next_kept ?_
    | with_reducible exact trivial | split | dsimp only | dsimp only [State.keeps]

theorem execDraw_kept (g : Guard) (look : Fin 16) (d a b : GReg)
    {s : State} (hmem : s.keeps iv) : outKept iv (execDraw g look d a b s) := by
  unfold execDraw
  repeat' first
    | with_reducible assumption | with_reducible refine blockTransfer_kept _ _ _ _ _ _ _ _ _ ?_
    | with_reducible refine next_kept ?_ | with_reducible exact trivial | split | dsimp only | dsimp only [State.keeps]

theorem execDrawDw_kept (g : Guard) (look : Fin 16) (d a b : GReg) (ext : BitVec 32)
    {s : State} (hmem : s.keeps iv) : outKept iv (execDrawDw g look d a b ext s) := by
  unfold execDrawDw
  repeat' first
    | with_reducible assumption | with_reducible refine blockTransfer_kept _ _ _ _ _ _ _ _ _ ?_
    | with_reducible refine next_kept ?_ | with_reducible exact trivial | split | dsimp only | dsimp only [State.keeps]

theorem execStow_kept (g : Guard) (look : Fin 16) (d a b : GReg)
    {s : State} (hmem : s.keeps iv) : outKept iv (execStow g look d a b s) := by
  unfold execStow
  repeat' first
    | with_reducible assumption | with_reducible refine blockTransfer_kept _ _ _ _ _ _ _ _ _ ?_
    | with_reducible refine next_kept ?_ | with_reducible exact trivial | split | dsimp only | dsimp only [State.keeps]

theorem execStowDw_kept (g : Guard) (look : Fin 16) (d a b : GReg) (ext : BitVec 32)
    {s : State} (hmem : s.keeps iv) : outKept iv (execStowDw g look d a b ext s) := by
  unfold execStowDw
  repeat' first
    | with_reducible assumption | with_reducible refine blockTransfer_kept _ _ _ _ _ _ _ _ _ ?_
    | with_reducible refine next_kept ?_ | with_reducible exact trivial | split | dsimp only | dsimp only [State.keeps]

theorem execDraws_kept (g : Guard) (look : Fin 16) (d a b : GReg)
    {s : State} (hmem : s.keeps iv) : outKept iv (execDraws g look d a b s) := by
  unfold execDraws
  repeat' first
    | with_reducible assumption | with_reducible refine blockTransfer_kept _ _ _ _ _ _ _ _ _ ?_
    | with_reducible refine next_kept ?_ | with_reducible exact trivial | split | dsimp only | dsimp only [State.keeps]

theorem execDrawsDw_kept (g : Guard) (look : Fin 16) (d a b : GReg) (ext : BitVec 32)
    {s : State} (hmem : s.keeps iv) : outKept iv (execDrawsDw g look d a b ext s) := by
  unfold execDrawsDw
  repeat' first
    | with_reducible assumption | with_reducible refine blockTransfer_kept _ _ _ _ _ _ _ _ _ ?_
    | with_reducible refine next_kept ?_ | with_reducible exact trivial | split | dsimp only | dsimp only [State.keeps]

theorem execStows_kept (g : Guard) (look : Fin 16) (d a b : GReg)
    {s : State} (hmem : s.keeps iv) : outKept iv (execStows g look d a b s) := by
  unfold execStows
  repeat' first
    | with_reducible assumption | with_reducible refine blockTransfer_kept _ _ _ _ _ _ _ _ _ ?_
    | with_reducible refine next_kept ?_ | with_reducible exact trivial | split | dsimp only | dsimp only [State.keeps]

theorem execStowsDw_kept (g : Guard) (look : Fin 16) (d a b : GReg) (ext : BitVec 32)
    {s : State} (hmem : s.keeps iv) : outKept iv (execStowsDw g look d a b ext s) := by
  unfold execStowsDw
  repeat' first
    | with_reducible assumption | with_reducible refine blockTransfer_kept _ _ _ _ _ _ _ _ _ ?_
    | with_reducible refine next_kept ?_ | with_reducible exact trivial | split | dsimp only | dsimp only [State.keeps]

theorem execDzero_kept (g : Guard) (look : Fin 16) (d b : GReg)
    {s : State} (hmem : s.keeps iv) : outKept iv (execDzero g look d b s) := by
  unfold execDzero
  repeat' first
    | with_reducible assumption | with_reducible refine queueEntry_kept _ ?_
    | with_reducible refine issue_kept _ ?_ (fun _ _ => ?_) | with_reducible refine next_kept ?_
    | with_reducible exact trivial | split | dsimp only | dsimp only [State.keeps]

theorem execDzeroDw_kept (g : Guard) (look : Fin 16) (d b : GReg) (ext : BitVec 32)
    {s : State} (hmem : s.keeps iv) : outKept iv (execDzeroDw g look d b ext s) := by
  unfold execDzeroDw
  repeat' first
    | with_reducible assumption | with_reducible refine queueEntry_kept _ ?_
    | with_reducible refine issue_kept _ ?_ (fun _ _ => ?_) | with_reducible refine next_kept ?_
    | with_reducible exact trivial | split | dsimp only | dsimp only [State.keeps]

theorem execDcopy_kept (g : Guard) (look : Fin 16) (d a b : GReg)
    {s : State} (hmem : s.keeps iv) : outKept iv (execDcopy g look d a b s) := by
  unfold execDcopy
  repeat' first
    | with_reducible assumption | with_reducible refine blockTransfer_kept _ _ _ _ _ _ _ _ _ ?_
    | with_reducible refine next_kept ?_ | with_reducible exact trivial | split | dsimp only | dsimp only [State.keeps]

theorem execDcopyDw_kept (g : Guard) (look : Fin 16) (d a b : GReg) (ext : BitVec 32)
    {s : State} (hmem : s.keeps iv) : outKept iv (execDcopyDw g look d a b ext s) := by
  unfold execDcopyDw
  repeat' first
    | with_reducible assumption | with_reducible refine blockTransfer_kept _ _ _ _ _ _ _ _ _ ?_
    | with_reducible refine next_kept ?_ | with_reducible exact trivial | split | dsimp only | dsimp only [State.keeps]

theorem execChannelEntryStart_kept (core ch : Nat)
    {s : State} (hmem : s.keeps iv) : outKept iv (execChannelEntryStart core ch s) := by
  unfold execChannelEntryStart
  repeat' first
    | with_reducible assumption | with_reducible exact Entry.nextEvent_isEvent _ _ _ | exact rfl
    | with_reducible refine modChan_kept _ _ _ ?_ | with_reducible refine emit_kept ?_ ?_ | with_reducible refine next_kept ?_
    | with_reducible exact trivial | split | dsimp only | dsimp only [State.keeps]

theorem chanFaultAt_kept (core ch at_ : Nat) (c : Cause) (sub : Nat) (addr : Nat)
    {s : State} (hmem : s.keeps iv) : (State.chanFaultAt s core ch at_ c sub addr).keeps iv := by
  unfold State.chanFaultAt
  repeat' first
    | with_reducible assumption | exact rfl | with_reducible refine modChan_kept _ _ _ ?_
    | with_reducible refine emit_kept ?_ ?_ | split | dsimp only | dsimp only [State.keeps]

theorem chanFault_kept (core ch : Nat) (c : Cause) (sub : Nat) (addr : Nat)
    {s : State} (hmem : s.keeps iv) : (State.chanFault s core ch c sub addr).keeps iv := by
  unfold State.chanFault
  repeat' first
    | with_reducible assumption | with_reducible refine chanFaultAt_kept _ _ _ _ _ _ ?_ | with_reducible refine ite_kept ?_ ?_
    | split | dsimp only | dsimp only [State.keeps]

theorem chanRefused_kept (core ch : Nat) (target : Option Nat) (c : Cause) (sub : Nat) (addr : Nat)
    {s : State} (hmem : s.keeps iv) : (State.chanRefused s core ch target c sub addr).keeps iv := by
  unfold State.chanRefused
  repeat' first
    | with_reducible assumption | with_reducible refine chanFault_kept _ _ _ _ _ ?_
    | with_reducible refine modChan_kept _ _ _ ?_ | with_reducible refine ite_kept ?_ ?_ | split | dsimp only
    | dsimp only [State.keeps]

theorem execChannelFault_kept (core ch : Nat) (cause : Cause) (sub addr : Nat)
    {s : State} (hmem : s.keeps iv) : outKept iv (execChannelFault core ch cause sub addr s) := by
  unfold execChannelFault
  repeat' first
    | with_reducible assumption | with_reducible refine dropWalks_kept _ ?_ | with_reducible refine pendAlive_kept _ _ ?_
    | with_reducible refine modChan_kept _ _ _ ?_ | with_reducible refine freeze_kept _ _ _ ?_
    | with_reducible refine next_kept ?_ | with_reducible exact trivial | split | dsimp only | dsimp only [State.keeps]

theorem delivered_kept (core ch : Nat) (n : Nat) (quad : Nat) (rest : List Byte)
    {s : State} (hmem : s.keeps iv) : (State.delivered s core ch n quad rest).keeps iv := by
  unfold State.delivered
  repeat' first
    | with_reducible assumption | with_reducible exact ChannelState.following_isEvent _ _ _ _ _ | exact rfl
    | with_reducible refine all_map (fun _ => ?_) | with_reducible refine all_filter ?_ | with_reducible exact all_nil
    | with_reducible refine releaseCore_kept _ _ ?_ | with_reducible refine countBytes_kept _ _ _ _ ?_
    | with_reducible refine modCore_kept _ _ ?_ | with_reducible refine modChan_kept _ _ _ ?_
    | with_reducible refine emits_kept ?_ ?_ | with_reducible refine count_kept _ _ _ _ ?_ | split | dsimp only
    | dsimp only [State.keeps]

theorem withMover_kept (core ch : Nat) (ev : Instr) {f : Entry → State} {s : State} (h : s.keeps iv)
    (hf : ∀ e, (f e).keeps iv) : (s.withMover core ch ev f).keeps iv := by
  unfold State.withMover
  split
  · exact h
  · split
    · exact hf _
    · exact emit_kept (Entry.moveEvent_isEvent _ _ _) h

theorem setPoolBack_kept (core : Nat) (p : Word) (off : Nat) (bs : List Byte)
    {s : State} (hmem : s.keeps iv) : (State.setPoolBack s core p off bs).keeps iv := by
  unfold State.setPoolBack
  repeat' first
    | with_reducible assumption | with_reducible refine setPoolAt_kept _ _ _ _ ?_ | split | dsimp only
    | dsimp only [State.keeps]

theorem land_kept (core : Nat) (e : Entry) (bs : List Byte)
    {s : State} (hmem : s.keeps iv) : (State.land s core e bs).keeps iv := by
  unfold State.land
  repeat' first
    | with_reducible assumption | with_reducible refine setPoolBytes_kept _ _ _ ?_
    | with_reducible refine setPoolBack_kept _ _ _ _ ?_ | split | dsimp only | dsimp only [State.keeps]

theorem draw_kept (core ch : Nat) (e : Entry) (n : Nat) (bs : List Byte)
    {s : State} (hmem : s.keeps iv) : (State.draw s core ch e n bs).keeps iv := by
  unfold State.draw
  repeat' first
    | with_reducible assumption | with_reducible refine chanFault_kept _ _ _ _ _ ?_
    | with_reducible refine delivered_kept _ _ _ _ _ ?_ | with_reducible refine land_kept _ _ _ ?_
    | with_reducible refine ite_kept ?_ ?_ | split | dsimp only | dsimp only [State.keeps]

theorem unblock_kept (core ch : Nat) {s : State} (hmem : s.keeps iv) : (State.unblock s core ch).keeps iv := by
  unfold State.unblock
  repeat' first
    | with_reducible assumption | with_reducible refine modChan_kept _ _ _ ?_ | with_reducible refine kick_kept _ _ ?_
    | with_reducible refine block_kept ?_ | split | dsimp only | dsimp only [State.keeps]

theorem chanBlock_kept (core ch : Nat) {s : State} (hmem : s.keeps iv) : (State.chanBlock s core ch).keeps iv := by
  unfold State.chanBlock
  repeat' first
    | with_reducible assumption | with_reducible refine modChan_kept _ _ _ ?_ | split | dsimp only | dsimp only [State.keeps]

theorem opPacket_kept (core ch : Nat) (e : Entry) (i n : Nat) {act : Nat → Nat → State → State}
    {s : State} (h : s.keeps iv)
    (ha : ∀ c o t, t.keeps iv → (act c o t).keeps iv) : (s.opPacket core ch e i n act).keeps iv := by
  unfold State.opPacket
  dsimp only
  split
  · exact emit_kept rfl h
  · split
    · exact chanRefused_kept _ _ _ _ _ _ (unblock_kept _ _ h)
    · exact emit_kept rfl (chanBlock_kept _ _ h)
    · have h2 := heard_kept (s := s.unblock core ch) ‹Nat› core (some (12 + ch % 4)) (unblock_kept _ _ h)
      split
      · exact chanRefused_kept _ _ _ _ _ _ h2
      · exact ha _ _ _ h2

theorem execOperationPacket_kept (core ch : Nat)
    {s : State} (hmem : s.keeps iv) : outKept iv (execOperationPacket core ch s) := by
  unfold execOperationPacket
  repeat' first
    | with_reducible assumption | with_reducible refine setPoolBytes_kept _ _ _ ?_
    | with_reducible refine poolCorrect_kept _ _ _ ?_ | with_reducible refine chanRefused_kept _ _ _ _ _ _ ?_
    | with_reducible refine setPoolBack_kept _ _ _ _ ?_ | with_reducible refine chanFault_kept _ _ _ _ _ ?_
    | with_reducible refine delivered_kept _ _ _ _ _ ?_ | with_reducible refine withMover_kept _ _ _ ?_ (fun _ => ?_)
    | with_reducible refine opPacket_kept _ _ _ _ _ ?_ (fun _ _ _ _ => ?_) | with_reducible refine draw_kept _ _ _ _ _ ?_
    | with_reducible refine block_kept ?_ | with_reducible refine next_kept ?_ | with_reducible exact trivial
    | with_reducible refine ite_kept ?_ ?_ | split | dsimp only | dsimp only [State.keeps]

theorem chanTranslate_kept (core ch : Nat) (e : Entry) (va : Nat) (acc : Access) (again : Instr) {k : Place → State → State}
    {s : State}
    (h : s.keeps iv) (hk : ∀ p t, t.keeps iv → (k p t).keeps iv)
    (ha : isEvent again = true) : (s.chanTranslate core ch e va acc again k).keeps iv := by
  unfold State.chanTranslate
  repeat' first
    | with_reducible assumption | with_reducible refine chanFault_kept _ _ _ _ _ ?_ | with_reducible exact ha
    | with_reducible refine emit_kept ?_ ?_ | with_reducible refine startWalk_kept _ ?_ | with_reducible exact hk _ _ h
    | split | dsimp only

theorem unitFault_kept (core ch m : Nat) (pa va op : Nat) (c : Cause) (sub : Nat) (unit : Nat := pa)
    {s : State} (hmem : s.keeps iv) : (State.unitFault s core ch m pa va op c sub unit).keeps iv := by
  unfold State.unitFault
  repeat' first
    | with_reducible assumption | with_reducible refine memsideRecord_kept _ _ _ _ _ _ ?_
    | with_reducible refine chanFault_kept _ _ _ _ _ ?_ | with_reducible refine ite_kept ?_ ?_ | split | dsimp only
    | dsimp only [State.keeps]

theorem execDramRequestAccept_kept (core ch : Nat)
    {s : State} (hmem : s.keeps iv) : outKept iv (execDramRequestAccept core ch s) := by
  unfold execDramRequestAccept
  repeat' first
    | with_reducible assumption | exact rfl | with_reducible refine chanTranslate_kept _ _ _ _ _ _ ?_ (fun _ _ _ => ?_) ?_
    | with_reducible refine poolCorrect_kept _ _ _ ?_ | with_reducible refine chanFault_kept _ _ _ _ _ ?_
    | with_reducible refine delivered_kept _ _ _ _ _ ?_ | with_reducible refine withMover_kept _ _ _ ?_ (fun _ => ?_)
    | with_reducible refine unitFault_kept _ _ _ _ _ _ _ _ _ ?_ | with_reducible refine farWrite_done (by assumption) ?_
    | with_reducible refine okPair_kept (by assumption) (farRead_kept _ _ _ ?_) | with_reducible refine farRead_kept _ _ _ ?_
    | with_reducible refine emit_kept ?_ ?_ | with_reducible refine draw_kept _ _ _ _ _ ?_
    | with_reducible refine next_kept ?_ | with_reducible exact trivial | with_reducible refine ite_kept ?_ ?_ | split
    | dsimp only | dsimp only [State.keeps]

theorem execOwnershipDecision_kept (quad pa : Nat)
    {s : State} (hmem : s.keeps iv) : outKept iv (execOwnershipDecision quad pa s) := by
  unfold execOwnershipDecision
  repeat' first
    | with_reducible assumption | with_reducible refine decideOwner_kept _ _ ?_ | with_reducible refine next_kept ?_
    | with_reducible exact trivial | split | dsimp only | dsimp only [State.keeps]

theorem addIntegers_kept (m w : Nat) : ∀ (pa : Nat) (xs : List Nat) {s : State}, s.keeps iv →
    (s.addIntegers m w pa xs).keeps iv
  | _, [], _, h => h
  | _, _ :: xs, _, h => addIntegers_kept m w _ xs (unitWrite_kept _ _ _ h)

theorem execLandingPacket_kept (core ch : Nat)
    {s : State} (hmem : s.keeps iv) : outKept iv (execLandingPacket core ch s) := by
  unfold execLandingPacket
  repeat' first
    | with_reducible assumption | exact rfl | with_reducible refine chanTranslate_kept _ _ _ _ _ _ ?_ (fun _ _ _ => ?_) ?_
    | with_reducible refine beforeAtomic_kept _ _ _ ?_ | with_reducible refine poolCorrect_kept _ _ _ ?_
    | with_reducible refine addIntegers_kept _ _ _ _ ?_ | with_reducible refine accumulate_kept _ _ _ _ _ ?_
    | with_reducible refine markDirty_kept _ ?_ | with_reducible refine chanFault_kept _ _ _ _ _ ?_
    | with_reducible refine delivered_kept _ _ _ _ _ ?_ | with_reducible refine withMover_kept _ _ _ ?_ (fun _ => ?_)
    | with_reducible refine unitFault_kept _ _ _ _ _ _ _ _ _ ?_ | with_reducible refine readAt_kept _ _ _ _ ?_
    | with_reducible refine land_kept _ _ _ ?_ | with_reducible refine next_kept ?_ | with_reducible exact trivial
    | with_reducible refine ite_kept ?_ ?_ | split | dsimp only | dsimp only [State.keeps]

theorem touchRow_kept (m pa : Nat) (pin : Bool)
    {s : State} (hmem : s.keeps iv) : (State.touchRow s m pa pin).keeps iv := by
  unfold State.touchRow
  repeat' first
    | with_reducible assumption | with_reducible refine touch_kept _ _ _ ?_
    | with_reducible refine foldl_kept ?_ (fun _ _ _ => ?_) | split | dsimp only | dsimp only [State.keeps]

theorem readRow_kept (m pa : Nat) (pin : Bool)
    {s : State} (hmem : s.keeps iv) : (State.readRow s m pa pin).keeps iv := by
  unfold State.readRow
  repeat' first
    | with_reducible assumption | with_reducible refine readAt_kept _ _ _ _ ?_
    | with_reducible refine foldl_kept ?_ (fun _ _ _ => ?_) | split | dsimp only | dsimp only [State.keeps]

theorem writeRow_kept (m pa : Nat) (bs : List Byte)
    {s : State} (hmem : s.keeps iv) : (State.writeRow s m pa bs).keeps iv := by
  unfold State.writeRow
  repeat' first
    | with_reducible assumption | with_reducible refine unitWrite_kept _ _ _ ?_
    | with_reducible refine foldl_kept ?_ (fun _ _ _ => ?_) | split | dsimp only | dsimp only [State.keeps]

theorem renewBuffer_kept (m pa : Nat) {s : State} (hmem : s.keeps iv) : (State.renewBuffer s m pa).keeps iv := by
  unfold State.renewBuffer
  repeat' first
    | with_reducible assumption | with_reducible refine modModule_kept _ _ ?_ | split | dsimp only | dsimp only [State.keeps]

theorem execRowCommandPiece_kept (core ch : Nat)
    {s : State} (hmem : s.keeps iv) : outKept iv (execRowCommandPiece core ch s) := by
  unfold execRowCommandPiece
  repeat' first
    | with_reducible assumption | exact rfl | with_reducible refine chanTranslate_kept _ _ _ _ _ _ ?_ (fun _ _ _ => ?_) ?_
    | with_reducible refine discardLines_kept _ _ _ ?_ | with_reducible refine renewBuffer_kept _ _ ?_
    | with_reducible refine cleanLines_kept _ _ ?_ | with_reducible refine markDirty_kept _ ?_
    | with_reducible refine chanFault_kept _ _ _ _ _ ?_ | with_reducible refine delivered_kept _ _ _ _ _ ?_
    | with_reducible refine withMover_kept _ _ _ ?_ (fun _ => ?_) | with_reducible refine unitFault_kept _ _ _ _ _ _ _ _ _ ?_
    | with_reducible refine touchRow_kept _ _ _ ?_ | with_reducible refine writeRow_kept _ _ _ ?_
    | with_reducible refine modChan_kept _ _ _ ?_ | with_reducible refine readRow_kept _ _ _ ?_
    | with_reducible refine emit_kept ?_ ?_ | with_reducible refine next_kept ?_ | with_reducible exact trivial
    | with_reducible refine ite_kept ?_ ?_ | split | dsimp only | dsimp only [State.keeps]

theorem bumpCc_kept (core cc n : Nat) {s : State} (hmem : s.keeps iv) : (State.bumpCc s core cc n).keeps iv := by
  unfold State.bumpCc
  repeat' first
    | with_reducible assumption | with_reducible refine modCore_kept _ _ ?_ | split | dsimp only | dsimp only [State.keeps]

theorem sendBump_kept (tid core ch len : Nat) (chained : Bool) (counter : Nat) (note : Word) (first : Bool)
    {s : State} (hmem : s.keeps iv) : (State.sendBump s tid core ch len chained counter note first).keeps iv := by
  unfold State.sendBump
  repeat' first
    | with_reducible assumption | with_reducible exact Req.event_isEvent _ | exact rfl
    | with_reducible refine snd_kept (by assumption) (fresh_kept ?_) | with_reducible refine fresh_kept ?_
    | with_reducible refine emit_kept ?_ ?_ | with_reducible refine id_kept ?_ | split | dsimp only | dsimp only [State.keeps]

theorem afterHead_kept (core : Nat) (c : Fin 4)
    {s : State} (hmem : s.keeps iv) : (State.afterHead s core c).keeps iv := by
  unfold State.afterHead
  repeat' first
    | with_reducible assumption | with_reducible exact Entry.nextEvent_isEvent _ _ _ | exact rfl
    | with_reducible refine emit_kept ?_ ?_ | split | dsimp only | dsimp only [State.keeps]

theorem execEntryComplete_kept (core ch : Nat)
    {s : State} (hmem : s.keeps iv) : outKept iv (execEntryComplete core ch s) := by
  unfold execEntryComplete
  repeat' first
    | with_reducible assumption | with_reducible refine releaseCore_kept _ _ ?_ | with_reducible refine afterHead_kept _ _ ?_
    | with_reducible refine sendBump_kept _ _ _ _ _ _ _ _ ?_ | with_reducible refine modChan_kept _ _ _ ?_
    | with_reducible refine bumpCc_kept _ _ _ ?_ | with_reducible refine trace_kept _ _ _ _ _ _ _ ?_
    | with_reducible refine block_kept ?_ | with_reducible refine next_kept ?_ | with_reducible exact trivial | split
    | dsimp only | dsimp only [State.keeps]

theorem execRemoteBumpArrival_kept (id : Nat) {s : State} (hmem : s.keeps iv) : outKept iv (execRemoteBumpArrival id s) := by
  unfold execRemoteBumpArrival
  repeat' first
    | with_reducible assumption | with_reducible refine refuseBump_kept _ _ _ ?_ | with_reducible refine performed_kept _ ?_
    | with_reducible refine refuse_kept _ _ _ _ ?_ | with_reducible refine bumpCc_kept _ _ _ ?_
    | with_reducible refine heard_kept _ _ _ ?_ | with_reducible refine seen_kept _ ?_ | with_reducible refine next_kept ?_
    | with_reducible exact trivial | with_reducible refine id_kept ?_ | split | dsimp only | dsimp only [State.keeps]

theorem thawChannel_kept (core : Nat) (c : Fin 4)
    {s : State} (hmem : s.keeps iv) : (State.thawChannel s core c).keeps iv := by
  unfold State.thawChannel
  repeat' first
    | with_reducible assumption | with_reducible refine thaw_kept _ _ ?_ | split | dsimp only | dsimp only [State.keeps]

theorem goOn_kept (core : Nat) (c : Fin 4) {s : State} (hmem : s.keeps iv) : (State.goOn s core c).keeps iv := by
  unfold State.goOn
  repeat' first
    | with_reducible assumption | with_reducible refine afterHead_kept _ _ ?_ | split | dsimp only | dsimp only [State.keeps]

theorem execChstFaultResume_kept (core ch : Nat)
    {s : State} (hmem : s.keeps iv) : outKept iv (execChstFaultResume core ch s) := by
  unfold execChstFaultResume
  repeat' first
    | with_reducible assumption | with_reducible refine thawChannel_kept _ _ ?_
    | with_reducible refine sendBump_kept _ _ _ _ _ _ _ _ ?_ | with_reducible refine modChan_kept _ _ _ ?_
    | with_reducible refine goOn_kept _ _ ?_ | with_reducible refine next_kept ?_ | with_reducible exact trivial | split
    | dsimp only | dsimp only [State.keeps]

theorem execChstAbort_kept (core ch : Nat) {s : State} (hmem : s.keeps iv) : outKept iv (execChstAbort core ch s) := by
  unfold execChstAbort
  repeat' first
    | with_reducible assumption | with_reducible refine thawChannel_kept _ _ ?_ | with_reducible refine modChan_kept _ _ _ ?_
    | with_reducible refine goOn_kept _ _ ?_ | with_reducible refine next_kept ?_ | with_reducible exact trivial | split
    | dsimp only | dsimp only [State.keeps]

theorem linkerStores_kept (core : Nat) (k : ChannelState)
    {s : State} (hmem : s.keeps iv) : (State.linkerStores s core k).keeps iv := by
  unfold State.linkerStores
  repeat' first
    | with_reducible assumption | with_reducible refine drainThrough_kept _ _ ?_ | split | dsimp only
    | dsimp only [State.keeps]

theorem execChainEntryStep_kept (core ch : Nat)
    {s : State} (hmem : s.keeps iv) : outKept iv (execChainEntryStep core ch s) := by
  unfold execChainEntryStep
  repeat' first
    | with_reducible assumption | with_reducible exact Entry.nextEvent_isEvent _ _ _ | exact rfl
    | with_reducible refine linkerStores_kept _ _ ?_ | with_reducible refine poolCorrect_kept _ _ _ ?_
    | with_reducible refine chanFault_kept _ _ _ _ _ ?_ | with_reducible refine modChan_kept _ _ _ ?_
    | with_reducible refine emit_kept ?_ ?_ | with_reducible refine next_kept ?_ | with_reducible exact trivial
    | with_reducible refine ite_kept ?_ ?_ | split | dsimp only | dsimp only [State.keeps]

theorem execChain_kept (g : Guard) (a b : GReg) {s : State} (hmem : s.keeps iv) : outKept iv (execChain g a b s) := by
  unfold execChain
  repeat' first
    | with_reducible assumption | with_reducible refine modChan_kept _ _ _ ?_
    | with_reducible refine issue_kept _ ?_ (fun _ _ => ?_) | with_reducible refine retire_kept ?_
    | with_reducible refine trap_kept ?_ | with_reducible exact again_kept | with_reducible refine next_kept ?_
    | with_reducible exact trivial | split | dsimp only | dsimp only [State.keeps]

theorem execKick_kept (g : Guard) (b : Channel) {s : State} (hmem : s.keeps iv) : outKept iv (execKick g b s) := by
  unfold execKick
  repeat' first
    | with_reducible assumption | exact rfl | with_reducible refine drainAll_kept _ ?_
    | with_reducible refine modChan_kept _ _ _ ?_ | with_reducible refine emit_kept ?_ ?_
    | with_reducible refine issue_kept _ ?_ (fun _ _ => ?_) | with_reducible refine retire_kept ?_
    | with_reducible refine next_kept ?_ | with_reducible exact trivial | split | dsimp only | dsimp only [State.keeps]

theorem execCwait_kept (g : Guard) (d : CcReg) (a : GReg)
    {s : State} (hmem : s.keeps iv) : outKept iv (execCwait g d a s) := by
  unfold execCwait
  repeat' first
    | with_reducible assumption | with_reducible refine issue_kept _ ?_ (fun _ _ => ?_)
    | with_reducible refine await_kept _ _ ?_ (fun _ _ => ?_) (fun _ _ => ?_) | with_reducible refine retire_kept ?_
    | with_reducible refine next_kept ?_ | with_reducible exact trivial | with_reducible refine id_kept ?_ | split
    | dsimp only | dsimp only [State.keeps]

theorem execCwaitSatisfied_kept (tid : Nat) {s : State} (hmem : s.keeps iv) : outKept iv (execCwaitSatisfied tid s) := by
  unfold execCwaitSatisfied
  repeat' first
    | with_reducible assumption | with_reducible refine wake_kept _ _ ?_ (fun _ _ _ => ?_)
    | with_reducible refine retire_kept ?_ | with_reducible refine next_kept ?_ | with_reducible exact trivial | split
    | dsimp only | dsimp only [State.keeps]

theorem execCpost_kept (g : Guard) (d : CcReg) (a : GReg)
    {s : State} (hmem : s.keeps iv) : outKept iv (execCpost g d a s) := by
  unfold execCpost
  repeat' first
    | with_reducible assumption | with_reducible refine drainAll_kept _ ?_ | with_reducible refine bumpCc_kept _ _ _ ?_
    | with_reducible refine issue_kept _ ?_ (fun _ _ => ?_) | with_reducible refine retire_kept ?_
    | with_reducible refine next_kept ?_ | with_reducible exact trivial | split | dsimp only | dsimp only [State.keeps]

theorem execWpwait_kept (g : Guard) (d : WpReg) (a : GReg)
    {s : State} (hmem : s.keeps iv) : outKept iv (execWpwait g d a s) := by
  unfold execWpwait
  repeat' first
    | with_reducible assumption | with_reducible refine issue_kept _ ?_ (fun _ _ => ?_)
    | with_reducible refine await_kept _ _ ?_ (fun _ _ => ?_) (fun _ _ => ?_) | with_reducible refine retire_kept ?_
    | with_reducible refine next_kept ?_ | with_reducible exact trivial | with_reducible refine id_kept ?_ | split
    | dsimp only | dsimp only [State.keeps]

theorem execWpwaitSatisfied_kept (tid : Nat) {s : State} (hmem : s.keeps iv) : outKept iv (execWpwaitSatisfied tid s) := by
  unfold execWpwaitSatisfied
  repeat' first
    | with_reducible assumption | with_reducible refine wake_kept _ _ ?_ (fun _ _ _ => ?_)
    | with_reducible refine retire_kept ?_ | with_reducible refine next_kept ?_ | with_reducible exact trivial | split
    | dsimp only | dsimp only [State.keeps]

/-! ## Cache -/

theorem cacheOperand_kept (a : Word) {k : Place → Res} {s : State} (h : s.keeps iv) (hk : ∀ p, (k p).kept iv) :
    (s.cacheOperand a k).kept iv := by
  unfold State.cacheOperand
  repeat' first
    | with_reducible assumption | with_reducible exact hk _ | with_reducible exact again_kept
    | with_reducible refine trapOf_kept _ _ _ ?_ | with_reducible refine dropWalks_kept _ ?_ | split | dsimp only

theorem execCclean_kept (g : Guard) (a : GReg) {s : State} (hmem : s.keeps iv) : outKept iv (execCclean g a s) := by
  unfold execCclean
  repeat' first
    | with_reducible assumption | with_reducible refine cacheOperand_kept _ ?_ (fun _ => ?_)
    | with_reducible refine prunePage_kept _ _ ?_ | with_reducible refine cleanLine_kept _ _ ?_
    | with_reducible refine issue_kept _ ?_ (fun _ _ => ?_) | with_reducible refine retire_kept ?_
    | with_reducible refine next_kept ?_ | with_reducible exact trivial | split | dsimp only | dsimp only [State.keeps]

theorem execCinv_kept (g : Guard) (a : GReg) {s : State} (hmem : s.keeps iv) : outKept iv (execCinv g a s) := by
  unfold execCinv
  repeat' first
    | with_reducible assumption | with_reducible refine cacheOperand_kept _ ?_ (fun _ => ?_)
    | with_reducible refine evictLine_kept _ _ ?_ | with_reducible refine issue_kept _ ?_ (fun _ _ => ?_)
    | with_reducible refine retire_kept ?_ | with_reducible refine next_kept ?_ | with_reducible exact trivial | split
    | dsimp only | dsimp only [State.keeps]

theorem invalidateTlbs_kept (m : Nat) (asid va : Option Nat)
    {s : State} (hmem : s.keeps iv) : (State.invalidateTlbs s m asid va).keeps iv := by
  unfold State.invalidateTlbs
  repeat' first
    | with_reducible assumption | exact rfl | with_reducible refine all_map (fun _ => ?_)
    | with_reducible refine all_filter ?_ | with_reducible exact all_nil | with_reducible refine emits_kept ?_ ?_
    | with_reducible refine id_kept ?_ | split | dsimp only | dsimp only [State.keeps]

theorem startTlbinv_kept (a b : Word) {s : State} (hmem : s.keeps iv) : (State.startTlbinv s a b).keeps iv := by
  unfold State.startTlbinv
  repeat' first
    | with_reducible assumption | with_reducible refine invalidateTlbs_kept _ _ _ ?_
    | with_reducible refine modModule_kept _ _ ?_ | split | dsimp only | dsimp only [State.keeps]

theorem execTlbinv_kept (g : Guard) (a b : GReg) {s : State} (hmem : s.keeps iv) : outKept iv (execTlbinv g a b s) := by
  unfold execTlbinv
  repeat' first
    | with_reducible assumption | with_reducible refine startTlbinv_kept _ _ ?_ | with_reducible refine trapOf_kept _ _ _ ?_
    | with_reducible refine issue_kept _ ?_ (fun _ _ => ?_)
    | with_reducible refine await_kept _ _ ?_ (fun _ _ => ?_) (fun _ _ => ?_) | with_reducible refine retire_kept ?_
    | with_reducible exact again_kept | with_reducible refine next_kept ?_ | with_reducible exact trivial | split | dsimp only
    | dsimp only [State.keeps]

theorem execTlbinvComplete_kept (tid : Nat) {s : State} (hmem : s.keeps iv) : outKept iv (execTlbinvComplete tid s) := by
  unfold execTlbinvComplete
  repeat' first
    | with_reducible assumption | with_reducible refine wake_kept _ _ ?_ (fun _ _ _ => ?_)
    | with_reducible refine retire_kept ?_ | with_reducible refine next_kept ?_ | with_reducible exact trivial | split
    | dsimp only | dsimp only [State.keeps]

theorem execPageWalkRead_kept (id : Nat) {s : State} (hmem : s.keeps iv) : outKept iv (execPageWalkRead id s) := by
  unfold execPageWalkRead
  repeat' first
    | with_reducible assumption | with_reducible refine walkOnce_kept _ ?_ | with_reducible refine next_kept ?_
    | with_reducible exact trivial | with_reducible refine id_kept ?_ | split | dsimp only | dsimp only [State.keeps]

theorem execClusterCacheEviction_kept (quad line : Nat)
    {s : State} (hmem : s.keeps iv) : outKept iv (execClusterCacheEviction quad line s) := by
  unfold execClusterCacheEviction
  repeat' first
    | with_reducible assumption | with_reducible refine evictLine_kept _ _ ?_ | with_reducible refine next_kept ?_
    | with_reducible exact trivial | split | dsimp only | dsimp only [State.keeps]

theorem execHotPageEpoch_kept (chan : Nat) {s : State} (hmem : s.keeps iv) : outKept iv (execHotPageEpoch chan s) := by
  unfold execHotPageEpoch
  repeat' first
    | with_reducible assumption | with_reducible refine hardwareRecord_kept _ _ ?_
    | with_reducible refine modModule_kept _ _ ?_ | with_reducible refine next_kept ?_ | with_reducible exact trivial | split
    | dsimp only | dsimp only [State.keeps]

theorem execPoolScrub_kept (core word : Nat) {s : State} (hmem : s.keeps iv) : outKept iv (execPoolScrub core word s) := by
  unfold execPoolScrub
  repeat' first
    | with_reducible assumption | with_reducible refine correctWords_kept _ _ ?_
    | with_reducible refine correctRegs_kept _ _ ?_ | with_reducible refine foldl_kept ?_ (fun _ _ _ => ?_)
    | with_reducible refine next_kept ?_ | with_reducible exact trivial | split | dsimp only | dsimp only [State.keeps]

theorem fillFetch_kept (q : Nat) (l : FetchLine)
    {s : State} (hmem : s.keeps iv) : (State.fillFetch s q l).keeps iv := by
  unfold State.fillFetch
  repeat' first
    | with_reducible assumption | with_reducible refine modQuad_kept _ _ ?_ | split | dsimp only | dsimp only [State.keeps]

theorem deliverFetch_kept (l : CacheLine) (q : Nat)
    {s : State} (hmem : s.keeps iv) : (State.deliverFetch s l q).keeps iv := by
  unfold State.deliverFetch
  repeat' first
    | with_reducible assumption | with_reducible refine fillFetch_kept _ _ ?_ | with_reducible refine putLine_kept _ _ ?_
    | split | dsimp only | dsimp only [State.keeps]

theorem execFetchMissFill_kept (quad line : Nat)
    {s : State} (hmem : s.keeps iv) : outKept iv (execFetchMissFill quad line s) := by
  unfold execFetchMissFill
  repeat' first
    | with_reducible assumption | with_reducible refine kept_filter _ ?_ | with_reducible refine deliverFetch_kept _ _ ?_
    | with_reducible refine readAt_kept _ _ _ _ ?_ | with_reducible refine foldl_kept ?_ (fun _ _ _ => ?_)
    | with_reducible refine next_kept ?_ | with_reducible exact trivial | split | dsimp only | dsimp only [State.keeps]

end Sys2Proof.Machine
end

