-- ==== Sys2Proof/Laws/KeptUnits.lean ====
section
/-!
SUPPORT. Sys2Proof/Laws/KeptUnits.lean: lookups, atomics, fences, queues and the matrix unit keep the canonical form of memory (log 2) and an agenda of events.
-/
namespace Sys2Proof.Machine

variable {iv : Bool}

/-! ## Lookup -/

theorem setTable_kept (slot : Nat) (img : BitVec 512) (part : Option Nat)
    {s : State} (hmem : s.keeps iv) : (State.setTable s slot img part).keeps iv := by
  unfold State.setTable
  repeat' first
    | with_reducible assumption | with_reducible refine modDie_kept _ _ ?_ | split | dsimp only | dsimp only [State.keeps]

theorem execTblset_kept (g : Guard) (a b : GReg) {s : State} (hmem : s.keeps iv) : outKept iv (execTblset g a b s) := by
  unfold execTblset
  repeat' first
    | with_reducible assumption | with_reducible refine poolCorrect_kept _ _ _ ?_
    | with_reducible refine setTable_kept _ _ _ ?_ | with_reducible refine trapOf_kept _ _ _ ?_
    | with_reducible refine issue_kept _ ?_ (fun _ _ => ?_) | with_reducible refine retire_kept ?_
    | with_reducible refine trap_kept ?_ | with_reducible refine block_kept ?_ | with_reducible refine next_kept ?_
    | with_reducible exact trivial | split | dsimp only | dsimp only [State.keeps]

theorem execTblsetComplete_kept (tid : Nat) {s : State} (hmem : s.keeps iv) : outKept iv (execTblsetComplete tid s) := by
  unfold execTblsetComplete
  repeat' first
    | with_reducible assumption | with_reducible refine setTable_kept _ _ _ ?_
    | with_reducible refine wake_kept _ _ ?_ (fun _ _ _ => ?_) | with_reducible refine retire_kept ?_
    | with_reducible exact again_kept | with_reducible refine next_kept ?_ | with_reducible exact trivial | split | dsimp only
    | dsimp only [State.keeps]

theorem execIdhash_kept (g : Guard) (d a b : GReg) {s : State} (hmem : s.keeps iv) : outKept iv (execIdhash g d a b s) := by
  unfold execIdhash
  repeat' first
    | with_reducible assumption | with_reducible refine setG_kept _ _ ?_
    | with_reducible refine issue_kept _ ?_ (fun _ _ => ?_) | with_reducible refine retire_kept ?_
    | with_reducible refine next_kept ?_ | with_reducible exact trivial | split | dsimp only | dsimp only [State.keeps]

theorem elideIssue_kept (merge two : Bool) (g : Guard) (look : Fin 16) (d a b : GReg)
    {s : State} (hmem : s.keeps iv) : outKept iv (elideIssue merge two g look d a b s) := by
  unfold elideIssue
  repeat' first
    | with_reducible assumption | exact rfl | with_reducible refine modTh_kept _ ?_
    | with_reducible refine snd_kept (by assumption) (fresh_kept ?_) | with_reducible refine fresh_kept ?_
    | with_reducible refine emit_kept ?_ ?_ | with_reducible refine issue_kept _ ?_ (fun _ _ => ?_)
    | with_reducible refine retire_kept ?_ | with_reducible refine trap_kept ?_ | with_reducible refine next_kept ?_
    | with_reducible exact trivial | with_reducible refine id_kept ?_ | split | dsimp only | dsimp only [State.keeps]

theorem execElide_kept (g : Guard) (look : Fin 16) (two : Bool) (d a b : GReg)
    {s : State} (hmem : s.keeps iv) : outKept iv (execElide g look two d a b s) := by
  unfold execElide
  repeat' first
    | with_reducible assumption | with_reducible refine elideIssue_kept _ _ _ _ _ _ _ ?_ | with_reducible refine next_kept ?_
    | with_reducible exact trivial | split | dsimp only | dsimp only [State.keeps]

theorem execElidem_kept (g : Guard) (look : Fin 16) (two : Bool) (d a b : GReg)
    {s : State} (hmem : s.keeps iv) : outKept iv (execElidem g look two d a b s) := by
  unfold execElidem
  repeat' first
    | with_reducible assumption | with_reducible refine elideIssue_kept _ _ _ _ _ _ _ ?_ | with_reducible refine next_kept ?_
    | with_reducible exact trivial | split | dsimp only | dsimp only [State.keeps]

theorem elideWrite_kept (e : Elision) (x : State × ElideRun) (a : Nat) (bs : List Byte) (h : x.1.keeps iv) :
    (State.elideWrite e x a bs).1.keeps iv := by
  unfold State.elideWrite
  split
  · exact h
  · exact ownWrite_kept _ _ _ h

theorem elideOne_kept (e : Elision) (x : State × ElideRun) (i : Nat) (h : x.1.keeps iv) :
    (State.elideOne e x i).1.keeps iv := by
  have hi : ∀ (y : State × ElideRun) (a : Nat) (bs : List Byte), y.1.keeps iv →
      (if y.2.bad.isSome then y else State.elideWrite e y a bs).1.keeps iv := by
    intro y a bs hy
    split
    · exact hy
    · exact elideWrite_kept _ _ _ _ hy
  unfold State.elideOne
  split
  · exact h
  · obtain ⟨s, r⟩ := x
    dsimp only
    split
    · exact hi _ _ _ h
    · split
      · exact hi _ _ _ (elideWrite_kept _ _ _ _ (modCore_kept _ _ h))
      · exact elideWrite_kept _ _ _ _ h

theorem elide_kept (e : Elision) {s : State} (hmem : s.keeps iv) : (s.elide e).1.keeps iv := by
  unfold State.elide
  exact foldl_pair_kept (ite_wf hmem (modCore_kept _ _ hmem)) (fun _ _ h => elideOne_kept _ _ _ h)

theorem execElisionComplete_kept (id : Nat) {s : State} (hmem : s.keeps iv) : outKept iv (execElisionComplete id s) := by
  unfold execElisionComplete
  repeat' first
    | with_reducible assumption | exact rfl | with_reducible refine endOutstanding_kept _ _ ?_
    | with_reducible refine poolCorrect_kept _ _ _ ?_ | with_reducible refine setThread_kept _ _ ?_
    | with_reducible refine pendAlive_kept _ _ ?_ | with_reducible refine fst_kept (by assumption) (elide_kept _ ?_)
    | with_reducible refine elide_kept _ ?_ | with_reducible refine emit_kept ?_ ?_ | with_reducible refine setG_kept _ _ ?_
    | with_reducible refine next_kept ?_ | with_reducible exact trivial | with_reducible refine id_kept ?_ | split
    | dsimp only | dsimp only [State.keeps]

theorem addLookup_kept (l : LookupOp) {s : State} (hmem : s.keeps iv) : (State.addLookup s l).keeps iv := by
  unfold State.addLookup
  repeat' first
    | with_reducible assumption | exact rfl | with_reducible refine snd_kept (by assumption) (fresh_kept ?_)
    | with_reducible refine fresh_kept ?_ | with_reducible refine emit_kept ?_ ?_ | with_reducible refine id_kept ?_ | split
    | dsimp only | dsimp only [State.keeps]

theorem gatherIssue_kept (wide : Bool) (words : Nat) (g : Guard) (look : Fin 16) (d a b : GReg) (x : BitVec 32)
    {s : State} (hmem : s.keeps iv) : outKept iv (gatherIssue wide words g look d a b x s) := by
  unfold gatherIssue
  repeat' first
    | with_reducible assumption | with_reducible refine addLookup_kept _ ?_ | with_reducible refine modTh_kept _ ?_
    | with_reducible refine snd_kept (by assumption) (fresh_kept ?_) | with_reducible refine fresh_kept ?_
    | with_reducible refine trapOf_kept _ _ _ ?_ | with_reducible refine issue_kept _ ?_ (fun _ _ => ?_)
    | with_reducible refine retire_kept ?_ | with_reducible refine trap_kept ?_ | with_reducible exact again_kept
    | with_reducible refine next_kept ?_ | with_reducible exact trivial | with_reducible refine id_kept ?_ | split
    | dsimp only | dsimp only [State.keeps]

theorem execRowget_kept (g : Guard) (look : Fin 16) (d a b : GReg)
    {s : State} (hmem : s.keeps iv) : outKept iv (execRowget g look d a b s) := by
  unfold execRowget
  repeat' first
    | with_reducible assumption | with_reducible refine gatherIssue_kept _ _ _ _ _ _ _ _ ?_
    | with_reducible refine next_kept ?_ | with_reducible exact trivial | split | dsimp only | dsimp only [State.keeps]

theorem execRowgetDw_kept (g : Guard) (look : Fin 16) (d a b : GReg) (ext : BitVec 32)
    {s : State} (hmem : s.keeps iv) : outKept iv (execRowgetDw g look d a b ext s) := by
  unfold execRowgetDw
  repeat' first
    | with_reducible assumption | with_reducible refine gatherIssue_kept _ _ _ _ _ _ _ _ ?_
    | with_reducible refine next_kept ?_ | with_reducible exact trivial | split | dsimp only | dsimp only [State.keeps]

theorem execRowgetw_kept (g : Guard) (look : Fin 16) (d a b : GReg)
    {s : State} (hmem : s.keeps iv) : outKept iv (execRowgetw g look d a b s) := by
  unfold execRowgetw
  repeat' first
    | with_reducible assumption | with_reducible refine gatherIssue_kept _ _ _ _ _ _ _ _ ?_
    | with_reducible refine next_kept ?_ | with_reducible exact trivial | split | dsimp only | dsimp only [State.keeps]

theorem execRowgetwDw_kept (g : Guard) (look : Fin 16) (d a b : GReg) (ext : BitVec 32)
    {s : State} (hmem : s.keeps iv) : outKept iv (execRowgetwDw g look d a b ext s) := by
  unfold execRowgetwDw
  repeat' first
    | with_reducible assumption | with_reducible refine gatherIssue_kept _ _ _ _ _ _ _ _ ?_
    | with_reducible refine next_kept ?_ | with_reducible exact trivial | split | dsimp only | dsimp only [State.keeps]

theorem scatterIssue_kept (acc : Bool) (g : Guard) (a b : GReg)
    {s : State} (hmem : s.keeps iv) : outKept iv (scatterIssue acc g a b s) := by
  unfold scatterIssue
  repeat' first
    | with_reducible assumption | with_reducible refine accumulate_kept _ _ _ _ _ ?_
    | with_reducible refine addLookup_kept _ ?_ | with_reducible refine trapOf_kept _ _ _ ?_
    | with_reducible refine issue_kept _ ?_ (fun _ _ => ?_) | with_reducible refine retire_kept ?_
    | with_reducible refine trap_kept ?_ | with_reducible exact again_kept | with_reducible refine next_kept ?_
    | with_reducible exact trivial | with_reducible refine id_kept ?_ | split | dsimp only | dsimp only [State.keeps]

theorem execRowacc_kept (g : Guard) (a b : GReg) {s : State} (hmem : s.keeps iv) : outKept iv (execRowacc g a b s) := by
  unfold execRowacc
  repeat' first
    | with_reducible assumption | with_reducible refine scatterIssue_kept _ _ _ _ ?_ | with_reducible refine next_kept ?_
    | with_reducible exact trivial | split | dsimp only | dsimp only [State.keeps]

theorem execRowset_kept (g : Guard) (a b : GReg) {s : State} (hmem : s.keeps iv) : outKept iv (execRowset g a b s) := by
  unfold execRowset
  repeat' first
    | with_reducible assumption | with_reducible refine scatterIssue_kept _ _ _ _ ?_ | with_reducible refine next_kept ?_
    | with_reducible exact trivial | split | dsimp only | dsimp only [State.keeps]

theorem segIssue_kept (scat : Bool) (words : Nat) (g : Guard) (look : Fin 16) (d a b : GReg) (x : BitVec 32)
    {s : State} (hmem : s.keeps iv) : outKept iv (segIssue scat words g look d a b x s) := by
  unfold segIssue
  repeat' first
    | with_reducible assumption | with_reducible refine addLookup_kept _ ?_ | with_reducible refine trapOf_kept _ _ _ ?_
    | with_reducible refine issue_kept _ ?_ (fun _ _ => ?_) | with_reducible refine retire_kept ?_
    | with_reducible refine trap_kept ?_ | with_reducible exact again_kept | with_reducible refine next_kept ?_
    | with_reducible exact trivial | with_reducible refine id_kept ?_ | split | dsimp only | dsimp only [State.keeps]

theorem execSegred_kept (g : Guard) (look : Fin 16) (d a b : GReg)
    {s : State} (hmem : s.keeps iv) : outKept iv (execSegred g look d a b s) := by
  unfold execSegred
  repeat' first
    | with_reducible assumption | with_reducible refine segIssue_kept _ _ _ _ _ _ _ _ ?_ | with_reducible refine next_kept ?_
    | with_reducible exact trivial | split | dsimp only | dsimp only [State.keeps]

theorem execSegredDw_kept (g : Guard) (look : Fin 16) (d a b : GReg) (ext : BitVec 32)
    {s : State} (hmem : s.keeps iv) : outKept iv (execSegredDw g look d a b ext s) := by
  unfold execSegredDw
  repeat' first
    | with_reducible assumption | with_reducible refine segIssue_kept _ _ _ _ _ _ _ _ ?_ | with_reducible refine next_kept ?_
    | with_reducible exact trivial | split | dsimp only | dsimp only [State.keeps]

theorem execSegscat_kept (g : Guard) (look : Fin 16) (d a b : GReg)
    {s : State} (hmem : s.keeps iv) : outKept iv (execSegscat g look d a b s) := by
  unfold execSegscat
  repeat' first
    | with_reducible assumption | with_reducible refine segIssue_kept _ _ _ _ _ _ _ _ ?_ | with_reducible refine next_kept ?_
    | with_reducible exact trivial | split | dsimp only | dsimp only [State.keeps]

theorem execSegscatDw_kept (g : Guard) (look : Fin 16) (d a b : GReg) (ext : BitVec 32)
    {s : State} (hmem : s.keeps iv) : outKept iv (execSegscatDw g look d a b ext s) := by
  unfold execSegscatDw
  repeat' first
    | with_reducible assumption | with_reducible refine segIssue_kept _ _ _ _ _ _ _ _ ?_ | with_reducible refine next_kept ?_
    | with_reducible exact trivial | split | dsimp only | dsimp only [State.keeps]

theorem updLookup_kept (id : Nat) (f : LookupOp → LookupOp)
    {s : State} (hmem : s.keeps iv) : (State.updLookup s id f).keeps iv := by
  unfold State.updLookup
  repeat' first
    | with_reducible assumption | with_reducible refine id_kept ?_ | split | dsimp only | dsimp only [State.keeps]

theorem setRow_kept (id i : Nat) (st : RowStatus)
    {s : State} (hmem : s.keeps iv) : (State.setRow s id i st).keeps iv := by
  unfold State.setRow
  repeat' first
    | with_reducible assumption | with_reducible refine updLookup_kept _ _ ?_ | with_reducible refine id_kept ?_ | split
    | dsimp only | dsimp only [State.keeps]

theorem stampRow_kept (id i gen : Nat) {s : State} (hmem : s.keeps iv) : (State.stampRow s id i gen).keeps iv := by
  unfold State.stampRow
  repeat' first
    | with_reducible assumption | with_reducible refine updLookup_kept _ _ ?_ | with_reducible refine id_kept ?_ | split
    | dsimp only | dsimp only [State.keeps]

theorem lookupGo_kept (tid : Nat) {s : State} (hmem : s.keeps iv) : (State.lookupGo s tid).keeps iv := by
  unfold State.lookupGo
  repeat' first
    | with_reducible assumption | exact rfl | with_reducible refine emit_kept ?_ ?_ | with_reducible refine id_kept ?_ | split
    | dsimp only | dsimp only [State.keeps]

theorem removeLookup_kept (l : LookupOp) {s : State} (hmem : s.keeps iv) : (State.removeLookup s l).keeps iv := by
  unfold State.removeLookup
  repeat' first
    | with_reducible assumption | exact rfl | with_reducible refine setRow_kept _ _ _ ?_
    | with_reducible refine emit_kept ?_ ?_ | with_reducible refine foldl_kept ?_ (fun _ _ _ => ?_)
    | with_reducible refine id_kept ?_ | split | dsimp only | dsimp only [State.keeps]

theorem execLookupOpComplete_kept (id : Nat) {s : State} (hmem : s.keeps iv) : outKept iv (execLookupOpComplete id s) := by
  unfold execLookupOpComplete
  repeat' first
    | with_reducible assumption | with_reducible refine removeLookup_kept _ ?_ | with_reducible refine releaseCore_kept _ _ ?_
    | with_reducible refine dropWalks_kept _ ?_ | with_reducible refine lookupGo_kept _ ?_
    | with_reducible refine snd_kept (by assumption) (inject_kept _ ?_) | with_reducible refine inject_kept _ ?_
    | with_reducible refine bumpCc_kept _ _ _ ?_ | with_reducible refine trace_kept _ _ _ _ _ _ _ ?_
    | with_reducible refine next_kept ?_ | with_reducible exact trivial | with_reducible refine id_kept ?_ | split
    | dsimp only | dsimp only [State.keeps]

theorem execLookupOpFault_kept (id : Nat) (cause : Cause) (sub addr : Nat)
    {s : State} (hmem : s.keeps iv) : outKept iv (execLookupOpFault id cause sub addr s) := by
  unfold execLookupOpFault
  repeat' first
    | with_reducible assumption | with_reducible refine removeLookup_kept _ ?_ | with_reducible refine dropWalks_kept _ ?_
    | with_reducible refine pendAlive_kept _ _ ?_ | with_reducible refine lookupGo_kept _ ?_
    | with_reducible refine trace_kept _ _ _ _ _ _ _ ?_ | with_reducible refine next_kept ?_ | with_reducible exact trivial
    | with_reducible refine id_kept ?_ | split | dsimp only | dsimp only [State.keeps]

theorem lookupFault_kept (id : Nat) (c : Cause) (sub addr : Nat)
    {s : State} (hmem : s.keeps iv) : (State.lookupFault s id c sub addr).keeps iv := by
  unfold State.lookupFault
  repeat' first
    | with_reducible assumption | exact rfl | with_reducible refine emit_kept ?_ ?_ | with_reducible refine id_kept ?_ | split
    | dsimp only | dsimp only [State.keeps]

theorem SegInput.red_kept (x : SegInput) (bags out : Nat) {s : State} (hmem : s.keeps iv) :
    (SegInput.red x s bags out).1.keeps iv := by
  unfold SegInput.red
  exact foldl_pair_kept hmem (fun _ _ h => ownWrite_kept _ _ _ h)

theorem SegInput.scat_kept (x : SegInput) (outRows out : Nat) {s : State} (hmem : s.keeps iv) :
    (SegInput.scat x s outRows out).1.keeps iv := by
  unfold SegInput.scat
  refine foldl_pair_kept (ownWrite_kept _ _ _ hmem) (fun _ _ h => ?_)
  dsimp only
  split
  · exact h
  · exact ownWrite_kept _ _ _ h

theorem SegInput.correct_kept (x : SegInput) (scat : Bool) (bags offsAt rb : Nat)
    {s : State} (hmem : s.keeps iv) : (SegInput.correct x s scat bags offsAt rb).keeps iv := by
  unfold SegInput.correct
  repeat' first
    | with_reducible assumption | with_reducible refine poolCorrect_kept _ _ _ ?_
    | with_reducible refine foldl_kept ?_ (fun _ _ _ => ?_) | split | dsimp only | dsimp only [State.keeps]

theorem segRun_kept (l : LookupOp) (scat : Bool) (kind : Nat) (inv : Bool) (bags outRows out rows pitch map offs : Nat)
    {s : State} (hmem : s.keeps iv) : (s.segRun l scat kind inv bags outRows out rows pitch map offs).keeps iv := by
  unfold State.segRun
  split
  · exact lookupFault_kept _ _ _ _ hmem
  · rename_i os _
    have hc : ∀ x : SegInput, (x.correct s scat bags offs (tbRb l.desc)).keeps iv :=
      fun x => SegInput.correct_kept x _ _ _ _ hmem
    dsimp only
    refine lookupGo_kept _ (updLookup_kept _ _ (modThread_kept _ _ ?_))
    split
    · exact SegInput.scat_kept _ _ _ (hc _)
    · exact SegInput.red_kept _ _ _ (hc _)

theorem rowsRun_kept (l : LookupOp) (data : Option Nat)
    {s : State} (hmem : s.keeps iv) : (State.rowsRun s l data).keeps iv := by
  unfold State.rowsRun
  repeat' first
    | with_reducible assumption | exact rfl | with_reducible refine all_map (fun _ => ?_)
    | with_reducible refine all_filter ?_ | with_reducible exact all_nil | with_reducible refine poolCorrect_kept _ _ _ ?_
    | with_reducible refine lookupFault_kept _ _ _ _ ?_ | with_reducible refine updLookup_kept _ _ ?_
    | with_reducible refine lookupGo_kept _ ?_ | with_reducible refine emits_kept ?_ ?_ | with_reducible refine id_kept ?_
    | split | dsimp only | dsimp only [State.keeps]

theorem execLookupOpStart_kept (id : Nat) {s : State} (hmem : s.keeps iv) : outKept iv (execLookupOpStart id s) := by
  unfold execLookupOpStart
  repeat' first
    | with_reducible assumption | with_reducible refine accumulate_kept _ _ _ _ _ ?_
    | with_reducible refine rowsRun_kept _ _ ?_ | with_reducible refine segRun_kept _ _ _ _ _ _ _ _ _ _ _ ?_
    | with_reducible refine next_kept ?_ | with_reducible exact trivial | with_reducible refine id_kept ?_ | split
    | dsimp only | dsimp only [State.keeps]

theorem execRowRequestMerge_kept (id i id2 i2 : Nat)
    {s : State} (hmem : s.keeps iv) : outKept iv (execRowRequestMerge id i id2 i2 s) := by
  unfold execRowRequestMerge
  repeat' first
    | with_reducible assumption | with_reducible refine setRow_kept _ _ _ ?_ | with_reducible refine count_kept _ _ _ _ ?_
    | with_reducible refine foldl_kept ?_ (fun _ _ _ => ?_) | with_reducible refine next_kept ?_
    | with_reducible exact trivial | with_reducible refine id_kept ?_ | split | dsimp only | dsimp only [State.keeps]

theorem homeFault_kept (l : LookupOp) (home : Nat) (c : Cause) (sub va : Nat)
    {s : State} (hmem : s.keeps iv) : (State.homeFault s l home c sub va).keeps iv := by
  unfold State.homeFault
  repeat' first
    | with_reducible assumption | with_reducible refine lookupFault_kept _ _ _ _ ?_ | with_reducible refine id_kept ?_ | split
    | dsimp only | dsimp only [State.keeps]

theorem execRowRequestServe_kept (id i : Nat) {s : State} (hmem : s.keeps iv) : outKept iv (execRowRequestServe id i s) := by
  unfold execRowRequestServe
  repeat' first
    | with_reducible assumption | with_reducible exact LookupOp.unitEvent_isEvent _ _ | exact rfl
    | with_reducible refine lookupFault_kept _ _ _ _ ?_ | with_reducible refine startWalk_kept _ ?_
    | with_reducible refine markDirty_kept _ ?_ | with_reducible refine homeFault_kept _ _ _ _ _ ?_
    | with_reducible refine stampRow_kept _ _ _ ?_ | with_reducible refine setRow_kept _ _ _ ?_
    | with_reducible refine emit_kept ?_ ?_ | with_reducible refine foldl_kept ?_ (fun _ _ _ => ?_)
    | with_reducible refine block_kept ?_ | with_reducible refine next_kept ?_ | with_reducible exact trivial
    | with_reducible refine id_kept ?_ | split | dsimp only | dsimp only [State.keeps]

theorem rowUnitRefuse_kept (l : LookupOp) (home m va : Nat) (f : Cause × Nat × Nat × Nat)
    {s : State} (hmem : s.keeps iv) : (State.rowUnitRefuse s l home m va f).keeps iv := by
  unfold State.rowUnitRefuse
  repeat' first
    | with_reducible assumption | with_reducible refine memsideRecord_kept _ _ _ _ _ _ ?_
    | with_reducible refine homeFault_kept _ _ _ _ _ ?_ | split | dsimp only | dsimp only [State.keeps]

theorem foldPieces_kept (m : Nat) (ps : List RowPiece)
    {s : State} (hmem : s.keeps iv) : (State.foldPieces s m ps).keeps iv := by
  unfold State.foldPieces
  repeat' first
    | with_reducible assumption | with_reducible refine foldElement_kept _ _ _ _ ?_
    | with_reducible refine modModule_kept _ _ ?_ | with_reducible refine foldl_kept ?_ (fun _ _ _ => ?_) | split | dsimp only
    | dsimp only [State.keeps]

theorem touchPieces_kept (m : Nat) (ps : List RowPiece)
    {s : State} (hmem : s.keeps iv) : (State.touchPieces s m ps).keeps iv := by
  unfold State.touchPieces
  repeat' first
    | with_reducible assumption | with_reducible refine touch_kept _ _ _ ?_
    | with_reducible refine foldl_kept ?_ (fun _ _ _ => ?_) | split | dsimp only | dsimp only [State.keeps]

theorem touchSlots_kept (ps : List RowPiece) {s : State} (hmem : s.keeps iv) : (State.touchSlots s ps).keeps iv := by
  unfold State.touchSlots
  repeat' first
    | with_reducible assumption | with_reducible refine touch_kept _ _ _ ?_
    | with_reducible refine foldl_kept ?_ (fun _ _ _ => ?_) | split | dsimp only | dsimp only [State.keeps]

theorem correctPieces_kept (m : Nat) (ps : List RowPiece) (base slots : Bool)
    {s : State} (hmem : s.keeps iv) : (State.correctPieces s m ps base slots).keeps iv := by
  unfold State.correctPieces
  repeat' first
    | with_reducible assumption | with_reducible refine dramCorrect_kept _ _ ?_
    | with_reducible refine foldl_kept ?_ (fun _ _ _ => ?_) | split | dsimp only | dsimp only [State.keeps]

theorem atUnit_kept (id i : Nat) {act : LookupOp → LookupRow → Nat → List RowPiece → State} {s : State} (h : s.keeps iv)
    (ha : ∀ l r m ps, (act l r m ps).keeps iv) : (s.atUnit id i act).keeps iv := by
  unfold State.atUnit
  repeat' first
    | with_reducible assumption | with_reducible exact ha _ _ _ _ | with_reducible exact LookupOp.unitEvent_isEvent _ _
    | with_reducible refine emit_kept ?_ ?_ | split | dsimp only

theorem execRowRead_kept (id i : Nat) {s : State} (hmem : s.keeps iv) : outKept iv (execRowRead id i s) := by
  unfold execRowRead
  repeat' first
    | with_reducible assumption | exact rfl | with_reducible refine rowUnitRefuse_kept _ _ _ _ _ ?_
    | with_reducible refine correctPieces_kept _ _ _ _ ?_ | with_reducible refine touchPieces_kept _ _ ?_
    | with_reducible refine foldPieces_kept _ _ ?_ | with_reducible refine touchSlots_kept _ ?_
    | with_reducible refine setRow_kept _ _ _ ?_ | with_reducible refine atUnit_kept _ _ ?_ (fun _ _ _ _ => ?_)
    | with_reducible refine snd_kept (by assumption) (fresh_kept ?_) | with_reducible refine fresh_kept ?_
    | with_reducible refine count_kept _ _ _ _ ?_ | with_reducible refine emit_kept ?_ ?_
    | with_reducible refine foldl_kept ?_ (fun _ _ _ => ?_) | with_reducible refine next_kept ?_
    | with_reducible exact trivial | with_reducible refine id_kept ?_ | split | dsimp only | dsimp only [State.keeps]

theorem rowDone_kept (l : LookupOp) (i : Nat) {s : State} (hmem : s.keeps iv) : (State.rowDone s l i).keeps iv := by
  unfold State.rowDone
  repeat' first
    | with_reducible assumption | with_reducible refine lookupGo_kept _ ?_ | with_reducible refine setRow_kept _ _ _ ?_
    | with_reducible refine id_kept ?_ | split | dsimp only | dsimp only [State.keeps]

theorem execRowAccumulate_kept (id i : Nat) {s : State} (hmem : s.keeps iv) : outKept iv (execRowAccumulate id i s) := by
  unfold execRowAccumulate
  repeat' first
    | with_reducible assumption | with_reducible refine rowUnitRefuse_kept _ _ _ _ _ ?_
    | with_reducible refine correctPieces_kept _ _ _ _ ?_ | with_reducible refine addElements_kept _ _ _ _ ?_
    | with_reducible refine touchSlots_kept _ ?_ | with_reducible refine rowDone_kept _ _ ?_
    | with_reducible refine arrive_kept _ _ ?_ | with_reducible refine atUnit_kept _ _ ?_ (fun _ _ _ _ => ?_)
    | with_reducible refine foldl_kept ?_ (fun _ _ _ => ?_) | with_reducible refine next_kept ?_
    | with_reducible exact trivial | with_reducible refine id_kept ?_ | split | dsimp only | dsimp only [State.keeps]

theorem execRowStore_kept (id i : Nat) {s : State} (hmem : s.keeps iv) : outKept iv (execRowStore id i s) := by
  unfold execRowStore
  repeat' first
    | with_reducible assumption | with_reducible refine tolerantWrite_kept _ _ _ _ ?_
    | with_reducible refine rowUnitRefuse_kept _ _ _ _ _ ?_ | with_reducible refine correctPieces_kept _ _ _ _ ?_
    | with_reducible refine touchPieces_kept _ _ ?_ | with_reducible refine foldPieces_kept _ _ ?_
    | with_reducible refine touchSlots_kept _ ?_ | with_reducible refine unitWrite_kept _ _ _ ?_
    | with_reducible refine rowDone_kept _ _ ?_ | with_reducible refine atUnit_kept _ _ ?_ (fun _ _ _ _ => ?_)
    | with_reducible refine foldl_kept ?_ (fun _ _ _ => ?_) | with_reducible refine next_kept ?_
    | with_reducible exact trivial | with_reducible refine id_kept ?_ | split | dsimp only | dsimp only [State.keeps]

theorem execRowReplyLand_kept (id i : Nat) {s : State} (hmem : s.keeps iv) : outKept iv (execRowReplyLand id i s) := by
  unfold execRowReplyLand
  repeat' first
    | with_reducible assumption | exact rfl | with_reducible refine setPoolBytes_kept _ _ _ ?_
    | with_reducible refine lookupFault_kept _ _ _ _ ?_ | with_reducible refine rowDone_kept _ _ ?_
    | with_reducible refine emit_kept ?_ ?_ | with_reducible refine block_kept ?_ | with_reducible refine next_kept ?_
    | with_reducible exact trivial | with_reducible refine id_kept ?_ | split | dsimp only | dsimp only [State.keeps]

theorem execRowwait_kept (g : Guard) (a : GReg) {s : State} (hmem : s.keeps iv) : outKept iv (execRowwait g a s) := by
  unfold execRowwait
  repeat' first
    | with_reducible assumption | with_reducible refine acquireCore_kept _ _ ?_
    | with_reducible refine issue_kept _ ?_ (fun _ _ => ?_)
    | with_reducible refine await_kept _ _ ?_ (fun _ _ => ?_) (fun _ _ => ?_) | with_reducible refine retire_kept ?_
    | with_reducible refine next_kept ?_ | with_reducible exact trivial | with_reducible refine id_kept ?_ | split
    | dsimp only | dsimp only [State.keeps]

theorem execRowwaitSatisfied_kept (tid : Nat) {s : State} (hmem : s.keeps iv) : outKept iv (execRowwaitSatisfied tid s) := by
  unfold execRowwaitSatisfied
  repeat' first
    | with_reducible assumption | with_reducible refine acquireCore_kept _ _ ?_
    | with_reducible refine wake_kept _ _ ?_ (fun _ _ _ => ?_) | with_reducible refine retire_kept ?_
    | with_reducible refine next_kept ?_ | with_reducible exact trivial | split | dsimp only | dsimp only [State.keeps]

/-! ## Atomics -/

theorem accessTrap_kept (t : TrapInfo) {s : State} (hmem : s.keeps iv) : (State.accessTrap s t).kept iv := by
  unfold State.accessTrap
  repeat' first
    | with_reducible assumption | with_reducible refine dropWalks_kept _ ?_ | with_reducible refine trap_kept ?_ | split
    | dsimp only | dsimp only [State.keeps]

theorem request_kept (ea : Word) (stream : Option Nat) (d : List GReg) (body : ReqBody)
    {s : State} (hmem : s.keeps iv) : (State.request s ea stream d body).keeps iv := by
  unfold State.request
  repeat' first
    | with_reducible assumption | with_reducible refine snd_kept (by assumption) (inject_kept _ ?_)
    | with_reducible refine inject_kept _ ?_ | with_reducible refine modTh_kept _ ?_ | with_reducible refine id_kept ?_
    | split | dsimp only | dsimp only [State.keeps]

theorem refusedRequest_kept (ea : Word) (d : List GReg) (body : ReqBody)
    {s : State} (hmem : s.keeps iv) : (State.refusedRequest s ea d body).keeps iv := by
  unfold State.refusedRequest
  repeat' first
    | with_reducible assumption | exact rfl | with_reducible refine request_kept _ _ _ _ ?_
    | with_reducible refine updReq_kept _ _ ?_ | with_reducible refine emit_kept ?_ ?_ | split | dsimp only
    | dsimp only [State.keeps]

theorem amoIssue_kept (op : AmoOp) (n : Nat) (d a b : GReg)
    {s : State} (hmem : s.keeps iv) : (State.amoIssue s op n d a b).kept iv := by
  unfold State.amoIssue
  repeat' first
    | with_reducible assumption | with_reducible refine refusedRequest_kept _ _ _ ?_
    | with_reducible refine accessTrap_kept _ ?_ | with_reducible refine markDirty_kept _ ?_
    | with_reducible refine request_kept _ _ _ _ ?_ | with_reducible refine trapOf_kept _ _ _ ?_
    | with_reducible refine retire_kept ?_ | with_reducible refine trap_kept ?_ | with_reducible exact again_kept | split
    | dsimp only | dsimp only [State.keeps]

theorem amo_kept (op : AmoOp) (dbl : Bool) (words : Nat) (g : Guard) (look : Fin 16) (d a b : GReg)
    {s : State} (hmem : s.keeps iv) : outKept iv (amo op dbl words g look d a b s) := by
  unfold amo
  repeat' first
    | with_reducible assumption | with_reducible refine amoIssue_kept _ _ _ _ _ ?_
    | with_reducible refine issue_kept _ ?_ (fun _ _ => ?_) | with_reducible refine next_kept ?_
    | with_reducible exact trivial | split | dsimp only | dsimp only [State.keeps]

theorem execAmoAddW_kept (g : Guard) (look : Fin 16) (d a b : GReg)
    {s : State} (hmem : s.keeps iv) : outKept iv (execAmoAddW g look d a b s) := by
  unfold execAmoAddW
  repeat' first
    | with_reducible assumption | with_reducible refine amo_kept _ _ _ _ _ _ _ _ ?_ | with_reducible refine next_kept ?_
    | with_reducible exact trivial | split | dsimp only | dsimp only [State.keeps]

theorem execAmoAddD_kept (g : Guard) (look : Fin 16) (d a b : GReg)
    {s : State} (hmem : s.keeps iv) : outKept iv (execAmoAddD g look d a b s) := by
  unfold execAmoAddD
  repeat' first
    | with_reducible assumption | with_reducible refine amo_kept _ _ _ _ _ _ _ _ ?_ | with_reducible refine next_kept ?_
    | with_reducible exact trivial | split | dsimp only | dsimp only [State.keeps]

theorem execAmoAddDw_kept (g : Guard) (look : Fin 16) (dbl : Bool) (d a b : GReg)
    {s : State} (hmem : s.keeps iv) : outKept iv (execAmoAddDw g look dbl d a b s) := by
  unfold execAmoAddDw
  repeat' first
    | with_reducible assumption | with_reducible refine amo_kept _ _ _ _ _ _ _ _ ?_ | with_reducible refine next_kept ?_
    | with_reducible exact trivial | split | dsimp only | dsimp only [State.keeps]

theorem execAmoAnd_kept (g : Guard) (look : Fin 16) (dbl : Bool) (d a b : GReg)
    {s : State} (hmem : s.keeps iv) : outKept iv (execAmoAnd g look dbl d a b s) := by
  unfold execAmoAnd
  repeat' first
    | with_reducible assumption | with_reducible refine amo_kept _ _ _ _ _ _ _ _ ?_ | with_reducible refine next_kept ?_
    | with_reducible exact trivial | split | dsimp only | dsimp only [State.keeps]

theorem execAmoOr_kept (g : Guard) (look : Fin 16) (dbl : Bool) (d a b : GReg)
    {s : State} (hmem : s.keeps iv) : outKept iv (execAmoOr g look dbl d a b s) := by
  unfold execAmoOr
  repeat' first
    | with_reducible assumption | with_reducible refine amo_kept _ _ _ _ _ _ _ _ ?_ | with_reducible refine next_kept ?_
    | with_reducible exact trivial | split | dsimp only | dsimp only [State.keeps]

theorem execAmoXor_kept (g : Guard) (look : Fin 16) (dbl : Bool) (d a b : GReg)
    {s : State} (hmem : s.keeps iv) : outKept iv (execAmoXor g look dbl d a b s) := by
  unfold execAmoXor
  repeat' first
    | with_reducible assumption | with_reducible refine amo_kept _ _ _ _ _ _ _ _ ?_ | with_reducible refine next_kept ?_
    | with_reducible exact trivial | split | dsimp only | dsimp only [State.keeps]

theorem execAmoMin_kept (g : Guard) (look : Fin 16) (dbl : Bool) (d a b : GReg)
    {s : State} (hmem : s.keeps iv) : outKept iv (execAmoMin g look dbl d a b s) := by
  unfold execAmoMin
  repeat' first
    | with_reducible assumption | with_reducible refine amo_kept _ _ _ _ _ _ _ _ ?_ | with_reducible refine next_kept ?_
    | with_reducible exact trivial | split | dsimp only | dsimp only [State.keeps]

theorem execAmoMax_kept (g : Guard) (look : Fin 16) (dbl : Bool) (d a b : GReg)
    {s : State} (hmem : s.keeps iv) : outKept iv (execAmoMax g look dbl d a b s) := by
  unfold execAmoMax
  repeat' first
    | with_reducible assumption | with_reducible refine amo_kept _ _ _ _ _ _ _ _ ?_ | with_reducible refine next_kept ?_
    | with_reducible exact trivial | split | dsimp only | dsimp only [State.keeps]

theorem execAmoMinz_kept (g : Guard) (look : Fin 16) (dbl : Bool) (d a b : GReg)
    {s : State} (hmem : s.keeps iv) : outKept iv (execAmoMinz g look dbl d a b s) := by
  unfold execAmoMinz
  repeat' first
    | with_reducible assumption | with_reducible refine amo_kept _ _ _ _ _ _ _ _ ?_ | with_reducible refine next_kept ?_
    | with_reducible exact trivial | split | dsimp only | dsimp only [State.keeps]

theorem execAmoMaxz_kept (g : Guard) (look : Fin 16) (dbl : Bool) (d a b : GReg)
    {s : State} (hmem : s.keeps iv) : outKept iv (execAmoMaxz g look dbl d a b s) := by
  unfold execAmoMaxz
  repeat' first
    | with_reducible assumption | with_reducible refine amo_kept _ _ _ _ _ _ _ _ ?_ | with_reducible refine next_kept ?_
    | with_reducible exact trivial | split | dsimp only | dsimp only [State.keeps]

theorem execAmoSwap_kept (g : Guard) (look : Fin 16) (dbl : Bool) (d a b : GReg)
    {s : State} (hmem : s.keeps iv) : outKept iv (execAmoSwap g look dbl d a b s) := by
  unfold execAmoSwap
  repeat' first
    | with_reducible assumption | with_reducible refine amo_kept _ _ _ _ _ _ _ _ ?_ | with_reducible refine next_kept ?_
    | with_reducible exact trivial | split | dsimp only | dsimp only [State.keeps]

theorem cas_kept (n : Nat) (two : Bool) (g : Guard) (look : Fin 16) (d a b : GReg)
    {s : State} (hmem : s.keeps iv) : outKept iv (cas n two g look d a b s) := by
  unfold cas
  repeat' first
    | with_reducible assumption | with_reducible refine amoIssue_kept _ _ _ _ _ ?_
    | with_reducible refine issue_kept _ ?_ (fun _ _ => ?_) | with_reducible refine next_kept ?_
    | with_reducible exact trivial | split | dsimp only | dsimp only [State.keeps]

theorem execCasW_kept (g : Guard) (look : Fin 16) (two : Bool) (d a b : GReg)
    {s : State} (hmem : s.keeps iv) : outKept iv (execCasW g look two d a b s) := by
  unfold execCasW
  repeat' first
    | with_reducible assumption | with_reducible refine cas_kept _ _ _ _ _ _ _ ?_ | with_reducible refine next_kept ?_
    | with_reducible exact trivial | split | dsimp only | dsimp only [State.keeps]

theorem execCasD_kept (g : Guard) (look : Fin 16) (two : Bool) (d a b : GReg)
    {s : State} (hmem : s.keeps iv) : outKept iv (execCasD g look two d a b s) := by
  unfold execCasD
  repeat' first
    | with_reducible assumption | with_reducible refine cas_kept _ _ _ _ _ _ _ ?_ | with_reducible refine next_kept ?_
    | with_reducible exact trivial | split | dsimp only | dsimp only [State.keeps]

theorem failReq_kept (r : Req) (c : Cause) (sub : Nat)
    {s : State} (hmem : s.keeps iv) : (State.failReq s r c sub).keeps iv := by
  unfold State.failReq
  repeat' first
    | with_reducible assumption | exact rfl | with_reducible refine updReq_kept _ _ ?_ | with_reducible refine emit_kept ?_ ?_
    | with_reducible refine id_kept ?_ | split | dsimp only | dsimp only [State.keeps]

theorem replyAll_kept (n : Nat) : ∀ (v : Nat) (rs : List (Req × Nat)) {s : State}, s.keeps iv →
    (s.replyAll n v rs).keeps iv
  | _, [], _, h => h
  | _, _ :: rs, _, h => replyAll_kept n _ rs (kick_kept _ _ (emit_kept rfl (updReq_kept _ _ h)))

theorem execAtomicExecute_kept (id : Nat) {s : State} (hmem : s.keeps iv) : outKept iv (execAtomicExecute id s) := by
  unfold execAtomicExecute
  repeat' first
    | with_reducible assumption | with_reducible exact Req.event_isEvent _ | exact rfl
    | with_reducible refine memsideRecord_kept _ _ _ _ _ _ ?_ | with_reducible refine beforeAtomic_kept _ _ _ ?_
    | with_reducible refine poolCorrect_kept _ _ _ ?_ | with_reducible refine setPoolNat_kept _ _ _ _ ?_
    | with_reducible refine retryLater_kept _ ?_ | with_reducible refine unitWrite_kept _ _ _ ?_
    | with_reducible refine replyAll_kept _ _ _ ?_ | with_reducible refine failReq_kept _ _ _ ?_
    | with_reducible refine readAt_kept _ _ _ _ ?_ | with_reducible refine refuse_kept _ _ _ _ ?_
    | with_reducible refine heard_kept _ _ _ ?_ | with_reducible refine emit_kept ?_ ?_ | with_reducible refine seen_kept _ ?_
    | with_reducible refine amo_kept _ _ _ _ _ _ _ _ ?_ | with_reducible refine cas_kept _ _ _ _ _ _ _ ?_
    | with_reducible refine foldl_kept ?_ (fun _ _ _ => ?_) | with_reducible refine next_kept ?_
    | with_reducible exact trivial | with_reducible refine id_kept ?_ | split | dsimp only | dsimp only [State.keeps]

theorem execAmoCombine_kept (id id2 : Nat) {s : State} (hmem : s.keeps iv) : outKept iv (execAmoCombine id id2 s) := by
  unfold execAmoCombine
  repeat' first
    | with_reducible assumption | with_reducible refine updReq_kept _ _ ?_ | with_reducible refine amo_kept _ _ _ _ _ _ _ _ ?_
    | with_reducible refine next_kept ?_ | with_reducible exact trivial | with_reducible refine id_kept ?_ | split
    | dsimp only | dsimp only [State.keeps]

theorem execAtomicFaultReply_kept (id : Nat) {s : State} (hmem : s.keeps iv) : outKept iv (execAtomicFaultReply id s) := by
  unfold execAtomicFaultReply
  repeat' first
    | with_reducible assumption | with_reducible refine endOutstanding_kept _ _ ?_
    | with_reducible refine pendAlive_kept _ _ ?_ | with_reducible refine dropReq_kept _ ?_
    | with_reducible refine next_kept ?_ | with_reducible exact trivial | with_reducible refine id_kept ?_ | split
    | dsimp only | dsimp only [State.keeps]

theorem region_kept (ea : Word) (empty : ReqBody) (vas : List Nat) {k : List Place → Res} {s : State} (h : s.keeps iv)
    (hk : ∀ ps, (k ps).kept iv) : (s.region ea empty vas k).kept iv := by
  unfold State.region
  repeat' first
    | with_reducible exact hk _ | with_reducible exact again_kept | with_reducible refine accessTrap_kept _ ?_
    | with_reducible refine retire_kept ?_ | with_reducible refine refusedRequest_kept _ _ _ ?_ | with_reducible assumption
    | split

theorem accIssue_kept (f64 : Bool) (value : Word → Word) (g : Guard) (a b : GReg)
    {s : State} (hmem : s.keeps iv) : outKept iv (accIssue f64 value g a b s) := by
  unfold accIssue
  repeat' first
    | with_reducible assumption | with_reducible refine markDirty_kept _ ?_ | with_reducible refine request_kept _ _ _ _ ?_
    | with_reducible refine region_kept _ _ _ ?_ (fun _ => ?_) | with_reducible refine trapOf_kept _ _ _ ?_
    | with_reducible refine issue_kept _ ?_ (fun _ _ => ?_) | with_reducible refine retire_kept ?_
    | with_reducible exact again_kept | with_reducible refine next_kept ?_ | with_reducible exact trivial | split | dsimp only
    | dsimp only [State.keeps]

theorem execAccF32_kept (g : Guard) (a b : GReg) {s : State} (hmem : s.keeps iv) : outKept iv (execAccF32 g a b s) := by
  unfold execAccF32
  repeat' first
    | with_reducible assumption | with_reducible refine accIssue_kept _ _ _ _ _ ?_ | with_reducible refine next_kept ?_
    | with_reducible exact trivial | split | dsimp only | dsimp only [State.keeps]

theorem execAccBf16_kept (g : Guard) (a b : GReg) {s : State} (hmem : s.keeps iv) : outKept iv (execAccBf16 g a b s) := by
  unfold execAccBf16
  repeat' first
    | with_reducible assumption | with_reducible refine accIssue_kept _ _ _ _ _ ?_ | with_reducible refine next_kept ?_
    | with_reducible exact trivial | split | dsimp only | dsimp only [State.keeps]

theorem execAccF64_kept (g : Guard) (a b : GReg) {s : State} (hmem : s.keeps iv) : outKept iv (execAccF64 g a b s) := by
  unfold execAccF64
  repeat' first
    | with_reducible assumption | with_reducible refine accIssue_kept _ _ _ _ _ ?_ | with_reducible refine next_kept ?_
    | with_reducible exact trivial | with_reducible refine id_kept ?_ | split | dsimp only | dsimp only [State.keeps]

theorem execFold_kept (g : Guard) (a : GReg) {s : State} (hmem : s.keeps iv) : outKept iv (execFold g a s) := by
  unfold execFold
  repeat' first
    | with_reducible assumption | with_reducible refine markDirty_kept _ ?_ | with_reducible refine request_kept _ _ _ _ ?_
    | with_reducible refine region_kept _ _ _ ?_ (fun _ => ?_) | with_reducible refine trapOf_kept _ _ _ ?_
    | with_reducible refine issue_kept _ ?_ (fun _ _ => ?_) | with_reducible refine foldl_kept ?_ (fun _ _ _ => ?_)
    | with_reducible refine retire_kept ?_ | with_reducible exact again_kept | with_reducible refine next_kept ?_
    | with_reducible exact trivial | split | dsimp only | dsimp only [State.keeps]

theorem regionRefuse_kept (r : Req) (base : DramAt) (op : Nat) (f : Cause × Nat × Nat)
    {s : State} (hmem : s.keeps iv) : (State.regionRefuse s r base op f).keeps iv := by
  unfold State.regionRefuse
  repeat' first
    | with_reducible assumption | with_reducible refine memsideRecord_kept _ _ _ _ _ _ ?_
    | with_reducible refine failReq_kept _ _ _ ?_ | split | dsimp only | dsimp only [State.keeps]

theorem execAccArrival_kept (id : Nat) {s : State} (hmem : s.keeps iv) : outKept iv (execAccArrival id s) := by
  unfold execAccArrival
  repeat' first
    | with_reducible assumption | with_reducible exact Req.event_isEvent _ | exact rfl
    | with_reducible refine regionRefuse_kept _ _ _ _ ?_ | with_reducible refine accumulate_kept _ _ _ _ _ ?_
    | with_reducible refine dropReq_kept _ ?_ | with_reducible refine readAt_kept _ _ _ _ ?_
    | with_reducible refine emit_kept ?_ ?_ | with_reducible refine next_kept ?_ | with_reducible exact trivial
    | with_reducible refine id_kept ?_ | split | dsimp only | dsimp only [State.keeps]

theorem execFoldArrival_kept (id : Nat) {s : State} (hmem : s.keeps iv) : outKept iv (execFoldArrival id s) := by
  unfold execFoldArrival
  repeat' first
    | with_reducible assumption | with_reducible exact Req.event_isEvent _ | exact rfl
    | with_reducible refine regionRefuse_kept _ _ _ _ ?_ | with_reducible refine foldLine_kept _ _ _ _ ?_
    | with_reducible refine dropReq_kept _ ?_ | with_reducible refine readAt_kept _ _ _ _ ?_
    | with_reducible refine emit_kept ?_ ?_ | with_reducible refine foldl_kept ?_ (fun _ _ _ => ?_)
    | with_reducible refine next_kept ?_ | with_reducible exact trivial | with_reducible refine id_kept ?_ | split
    | dsimp only | dsimp only [State.keeps]

theorem execRecvred_kept (g : Guard) (look : Fin 16) (two : Bool) (d a b : GReg)
    {s : State} (hmem : s.keeps iv) : outKept iv (execRecvred g look two d a b s) := by
  unfold execRecvred
  repeat' first
    | with_reducible assumption | with_reducible refine trapOf_kept _ _ _ ?_
    | with_reducible refine issue_kept _ ?_ (fun _ _ => ?_) | with_reducible refine retire_kept ?_
    | with_reducible refine block_kept ?_ | with_reducible refine next_kept ?_ | with_reducible exact trivial | split
    | dsimp only | dsimp only [State.keeps]

theorem recvSum_kept (tid core : Nat) (d : GReg) (p k : Nat) (t : Tag) (pw aw e : Nat)
    {s : State} (hmem : s.keeps iv) : (State.recvSum s tid core d p k t pw aw e).keeps iv := by
  unfold State.recvSum
  repeat' first
    | with_reducible assumption | with_reducible refine poolCorrect_kept _ _ _ ?_
    | with_reducible refine headCorrect_kept _ _ ?_ | with_reducible refine modThread_kept _ _ ?_
    | with_reducible refine ownWrite_kept _ _ _ ?_ | with_reducible refine dequeue_kept _ ?_
    | with_reducible refine setG_kept _ _ ?_ | with_reducible refine foldl_kept ?_ (fun _ _ _ => ?_) | split | dsimp only
    | dsimp only [State.keeps]

theorem execRecvredMessage_kept (tid : Nat) {s : State} (hmem : s.keeps iv) : outKept iv (execRecvredMessage tid s) := by
  unfold execRecvredMessage
  repeat' first
    | with_reducible assumption | with_reducible refine modThread_kept _ _ ?_
    | with_reducible refine recvSum_kept _ _ _ _ _ _ _ _ _ ?_ | with_reducible refine raise_kept _ _ _ ?_
    | with_reducible refine wake_kept _ _ ?_ (fun _ _ _ => ?_) | with_reducible refine retire_kept ?_
    | with_reducible refine next_kept ?_ | with_reducible exact trivial | split | dsimp only | dsimp only [State.keeps]

/-! ## Fence -/

theorem fenceEnd_kept (scope : Nat) {s : State} (hmem : s.keeps iv) : (State.fenceEnd s scope).keeps iv := by
  unfold State.fenceEnd
  repeat' first
    | with_reducible assumption | with_reducible refine releaseCore_kept _ _ ?_
    | with_reducible refine acquireCore_kept _ _ ?_ | with_reducible refine modTh_kept _ ?_ | split | dsimp only
    | dsimp only [State.keeps]

theorem execFence_kept (g : Guard) (sc : Scope) {s : State} (hmem : s.keeps iv) : outKept iv (execFence g sc s) := by
  unfold execFence
  repeat' first
    | with_reducible assumption | with_reducible refine drainAll_kept _ ?_ | with_reducible refine fenceEnd_kept _ ?_
    | with_reducible refine issue_kept _ ?_ (fun _ _ => ?_)
    | with_reducible refine await_kept _ _ ?_ (fun _ _ => ?_) (fun _ _ => ?_) | with_reducible refine retire_kept ?_
    | with_reducible refine next_kept ?_ | with_reducible exact trivial | split | dsimp only | dsimp only [State.keeps]

theorem execFenceComplete_kept (tid : Nat) {s : State} (hmem : s.keeps iv) : outKept iv (execFenceComplete tid s) := by
  unfold execFenceComplete
  repeat' first
    | with_reducible assumption | with_reducible refine fenceEnd_kept _ ?_
    | with_reducible refine wake_kept _ _ ?_ (fun _ _ _ => ?_) | with_reducible refine retire_kept ?_
    | with_reducible exact again_kept | with_reducible refine next_kept ?_ | with_reducible exact trivial | split | dsimp only
    | dsimp only [State.keeps]

theorem publishEnd_kept (scope : Nat) (slot : Fin 4)
    {s : State} (hmem : s.keeps iv) : (State.publishEnd s scope slot).keeps iv := by
  unfold State.publishEnd
  repeat' first
    | with_reducible assumption | with_reducible refine releaseCore_kept _ _ ?_ | with_reducible refine modCore_kept _ _ ?_
    | split | dsimp only | dsimp only [State.keeps]

theorem execPublish_kept (g : Guard) (sc : Scope) (a : GReg)
    {s : State} (hmem : s.keeps iv) : outKept iv (execPublish g sc a s) := by
  unfold execPublish
  repeat' first
    | with_reducible assumption | with_reducible refine publishEnd_kept _ _ ?_ | with_reducible refine drainAll_kept _ ?_
    | with_reducible refine trapOf_kept _ _ _ ?_ | with_reducible refine issue_kept _ ?_ (fun _ _ => ?_)
    | with_reducible refine await_kept _ _ ?_ (fun _ _ => ?_) (fun _ _ => ?_) | with_reducible refine retire_kept ?_
    | with_reducible refine next_kept ?_ | with_reducible exact trivial | split | dsimp only | dsimp only [State.keeps]

theorem execPublishToggle_kept (tid : Nat) {s : State} (hmem : s.keeps iv) : outKept iv (execPublishToggle tid s) := by
  unfold execPublishToggle
  repeat' first
    | with_reducible assumption | with_reducible refine publishEnd_kept _ _ ?_
    | with_reducible refine wake_kept _ _ ?_ (fun _ _ _ => ?_) | with_reducible refine retire_kept ?_
    | with_reducible exact again_kept | with_reducible refine next_kept ?_ | with_reducible exact trivial | split | dsimp only
    | dsimp only [State.keeps]

theorem objLeave_kept (r : ObjRef) (bit tid : Nat) (ga : Word)
    {s : State} (hmem : s.keeps iv) : (State.objLeave s r bit tid ga).keeps iv := by
  unfold State.objLeave
  repeat' first
    | with_reducible assumption | with_reducible refine objTest_kept _ _ _ ?_ | with_reducible refine setObj_kept _ _ ?_
    | split | dsimp only | dsimp only [State.keeps]

theorem execBjoin_kept (g : Guard) (a : GReg) {s : State} (hmem : s.keeps iv) : outKept iv (execBjoin g a s) := by
  unfold execBjoin
  repeat' first
    | with_reducible assumption | with_reducible refine objTest_kept _ _ _ ?_ | with_reducible refine setObj_kept _ _ ?_
    | with_reducible refine issue_kept _ ?_ (fun _ _ => ?_) | with_reducible refine retire_kept ?_
    | with_reducible refine trap_kept ?_ | with_reducible refine next_kept ?_ | with_reducible exact trivial | split
    | dsimp only | dsimp only [State.keeps]

theorem leaveObjects_kept (tid : Nat) {s : State} (hmem : s.keeps iv) : (State.leaveObjects s tid).keeps iv := by
  unfold State.leaveObjects
  repeat' first
    | with_reducible assumption | with_reducible refine objLeave_kept _ _ _ _ ?_
    | with_reducible refine foldl_kept ?_ (fun _ _ _ => ?_) | split | dsimp only | dsimp only [State.keeps]

theorem arriveEnd_kept (ga : Word) {s : State} (hmem : s.keeps iv) : (State.arriveEnd s ga).keeps iv := by
  unfold State.arriveEnd
  repeat' first
    | with_reducible assumption | with_reducible refine fenceEnd_kept _ ?_ | with_reducible refine objTest_kept _ _ _ ?_
    | with_reducible refine setObj_kept _ _ ?_ | with_reducible refine modTh_kept _ ?_ | split | dsimp only
    | dsimp only [State.keeps]

theorem awaitEnd_kept (ga : Word) {s : State} (hmem : s.keeps iv) : (State.awaitEnd s ga).keeps iv := by
  unfold State.awaitEnd
  repeat' first
    | with_reducible assumption | with_reducible refine acquireCore_kept _ _ ?_ | with_reducible refine modTh_kept _ ?_
    | split | dsimp only | dsimp only [State.keeps]

theorem execBarr_kept (g : Guard) (a : GReg) {s : State} (hmem : s.keeps iv) : outKept iv (execBarr g a s) := by
  unfold execBarr
  repeat' first
    | with_reducible assumption | with_reducible refine arriveEnd_kept _ ?_ | with_reducible refine drainAll_kept _ ?_
    | with_reducible refine trapOf_kept _ _ _ ?_ | with_reducible refine issue_kept _ ?_ (fun _ _ => ?_)
    | with_reducible refine retire_kept ?_ | with_reducible refine trap_kept ?_ | with_reducible refine block_kept ?_
    | with_reducible refine next_kept ?_ | with_reducible exact trivial | split | dsimp only | dsimp only [State.keeps]

theorem execBwait_kept (g : Guard) (a : GReg) {s : State} (hmem : s.keeps iv) : outKept iv (execBwait g a s) := by
  unfold execBwait
  repeat' first
    | with_reducible assumption | with_reducible refine awaitEnd_kept _ ?_
    | with_reducible refine issue_kept _ ?_ (fun _ _ => ?_)
    | with_reducible refine await_kept _ _ ?_ (fun _ _ => ?_) (fun _ _ => ?_) | with_reducible refine retire_kept ?_
    | with_reducible refine trap_kept ?_ | with_reducible refine next_kept ?_ | with_reducible exact trivial
    | with_reducible refine id_kept ?_ | split | dsimp only | dsimp only [State.keeps]

theorem barrwAwait_kept (ga : Word) {s : State} (hmem : s.keeps iv) : (State.barrwAwait s ga).kept iv := by
  unfold State.barrwAwait
  repeat' first
    | with_reducible assumption | with_reducible refine awaitEnd_kept _ ?_ | with_reducible refine retire_kept ?_
    | with_reducible refine block_kept ?_ | split | dsimp only | dsimp only [State.keeps]

theorem barrwArrive_kept (ga : Word) {s : State} (hmem : s.keeps iv) : (State.barrwArrive s ga).keeps iv := by
  unfold State.barrwArrive
  repeat' first
    | with_reducible assumption | with_reducible refine arriveEnd_kept _ ?_ | with_reducible refine modTh_kept _ ?_ | split
    | dsimp only | dsimp only [State.keeps]

theorem execBarrw_kept (g : Guard) (a : GReg) {s : State} (hmem : s.keeps iv) : outKept iv (execBarrw g a s) := by
  unfold execBarrw
  repeat' first
    | with_reducible assumption | with_reducible refine barrwArrive_kept _ ?_ | with_reducible refine barrwAwait_kept _ ?_
    | with_reducible refine drainAll_kept _ ?_ | with_reducible refine awaitEnd_kept _ ?_
    | with_reducible refine trapOf_kept _ _ _ ?_ | with_reducible refine issue_kept _ ?_ (fun _ _ => ?_)
    | with_reducible refine retire_kept ?_ | with_reducible refine trap_kept ?_ | with_reducible refine block_kept ?_
    | with_reducible refine next_kept ?_ | with_reducible exact trivial | split | dsimp only | dsimp only [State.keeps]

theorem execBarrierArrival_kept (tid : Nat) {s : State} (hmem : s.keeps iv) : outKept iv (execBarrierArrival tid s) := by
  unfold execBarrierArrival
  repeat' first
    | with_reducible assumption | with_reducible refine barrwArrive_kept _ ?_ | with_reducible refine modThread_kept _ _ ?_
    | with_reducible refine arriveEnd_kept _ ?_ | with_reducible refine wake_kept _ _ ?_ (fun _ _ _ => ?_)
    | with_reducible refine await_kept _ _ ?_ (fun _ _ => ?_) (fun _ _ => ?_) | with_reducible refine retire_kept ?_
    | with_reducible refine next_kept ?_ | with_reducible exact trivial | split | dsimp only | dsimp only [State.keeps]

theorem execBwaitReturn_kept (tid : Nat) {s : State} (hmem : s.keeps iv) : outKept iv (execBwaitReturn tid s) := by
  unfold execBwaitReturn
  repeat' first
    | with_reducible assumption | with_reducible refine awaitEnd_kept _ ?_
    | with_reducible refine wake_kept _ _ ?_ (fun _ _ _ => ?_) | with_reducible refine retire_kept ?_
    | with_reducible exact again_kept | with_reducible refine next_kept ?_ | with_reducible exact trivial | split | dsimp only
    | dsimp only [State.keeps]

theorem execBexp_kept (g : Guard) (a b : GReg) {s : State} (hmem : s.keeps iv) : outKept iv (execBexp g a b s) := by
  unfold execBexp
  repeat' first
    | with_reducible assumption | with_reducible refine objTest_kept _ _ _ ?_ | with_reducible refine setObj_kept _ _ ?_
    | with_reducible refine trapOf_kept _ _ _ ?_ | with_reducible refine issue_kept _ ?_ (fun _ _ => ?_)
    | with_reducible refine retire_kept ?_ | with_reducible refine trap_kept ?_ | with_reducible refine next_kept ?_
    | with_reducible exact trivial | split | dsimp only | dsimp only [State.keeps]

theorem execByteDelivery_kept (quad obj n : Nat)
    {s : State} (hmem : s.keeps iv) : outKept iv (execByteDelivery quad obj n s) := by
  unfold execByteDelivery
  repeat' first
    | with_reducible assumption | with_reducible refine countBytes_kept _ _ _ _ ?_ | with_reducible refine next_kept ?_
    | with_reducible exact trivial | split | dsimp only | dsimp only [State.keeps]

theorem execBmiss_kept (g : Guard) (d a : GReg) {s : State} (hmem : s.keeps iv) : outKept iv (execBmiss g d a s) := by
  unfold execBmiss
  repeat' first
    | with_reducible assumption | with_reducible refine setG_kept _ _ ?_
    | with_reducible refine issue_kept _ ?_ (fun _ _ => ?_) | with_reducible refine retire_kept ?_
    | with_reducible refine trap_kept ?_ | with_reducible refine next_kept ?_ | with_reducible exact trivial | split
    | dsimp only | dsimp only [State.keeps]

/-! ## Queues -/

theorem setFifo_kept (q : Nat) (n : Fin 8) (f : Fifo)
    {s : State} (hmem : s.keeps iv) : (State.setFifo s q n f).keeps iv := by
  unfold State.setFifo
  repeat' first
    | with_reducible assumption | with_reducible refine modQuad_kept _ _ ?_ | split | dsimp only | dsimp only [State.keeps]

theorem errorRecord_kept (c : Cause) (sub m pa core : Nat)
    {s : State} (hmem : s.keeps iv) : (State.errorRecord s c sub m pa core).keeps iv := by
  unfold State.errorRecord
  repeat' first
    | with_reducible assumption | with_reducible refine memsideRecord_kept _ _ _ _ _ _ ?_ | split | dsimp only
    | dsimp only [State.keeps]

theorem refillDue_kept (q : Nat) (n : Fin 8) {s : State} (hmem : s.keeps iv) : (State.refillDue s q n).keeps iv := by
  unfold State.refillDue
  repeat' first
    | with_reducible assumption | exact rfl | with_reducible refine emit_kept ?_ ?_ | split | dsimp only
    | dsimp only [State.keeps]

theorem execQpush_kept (g : Guard) (a b : GReg) {s : State} (hmem : s.keeps iv) : outKept iv (execQpush g a b s) := by
  unfold execQpush
  repeat' first
    | with_reducible assumption | with_reducible refine poolCorrect_kept _ _ _ ?_
    | with_reducible refine bypassWrite_kept _ _ _ ?_ | with_reducible refine errorRecord_kept _ _ _ _ _ ?_
    | with_reducible refine dropWalks_kept _ ?_ | with_reducible refine markDirty_kept _ ?_
    | with_reducible refine refillDue_kept _ _ ?_ | with_reducible refine drainAll_kept _ ?_
    | with_reducible refine setFifo_kept _ _ _ ?_ | with_reducible refine trapOf_kept _ _ _ ?_
    | with_reducible refine issue_kept _ ?_ (fun _ _ => ?_) | with_reducible refine retire_kept ?_
    | with_reducible refine trap_kept ?_ | with_reducible exact again_kept | with_reducible refine next_kept ?_
    | with_reducible exact trivial | split | dsimp only | dsimp only [State.keeps]

theorem popHead_kept (q : Nat) (n : Fin 8) (d : GReg) (la : Nat)
    {s : State} (hmem : s.keeps iv) : (State.popHead s q n d la).keeps iv := by
  unfold State.popHead
  repeat' first
    | with_reducible assumption | with_reducible refine refillDue_kept _ _ ?_ | with_reducible refine ownWrite_kept _ _ _ ?_
    | with_reducible refine setFifo_kept _ _ _ ?_ | with_reducible refine setG_kept _ _ ?_ | split | dsimp only
    | dsimp only [State.keeps]

theorem execQpop_kept (g : Guard) (d a : GReg) {s : State} (hmem : s.keeps iv) : outKept iv (execQpop g d a s) := by
  unfold execQpop
  repeat' first
    | with_reducible assumption | with_reducible refine refillDue_kept _ _ ?_ | with_reducible refine popHead_kept _ _ _ _ ?_
    | with_reducible refine issue_kept _ ?_ (fun _ _ => ?_) | with_reducible refine retire_kept ?_
    | with_reducible refine trap_kept ?_ | with_reducible refine block_kept ?_ | with_reducible refine next_kept ?_
    | with_reducible exact trivial | split | dsimp only | dsimp only [State.keeps]

theorem popWake_kept (q : Nat) (n : Fin 8) {s : State} (hmem : s.keeps iv) : (State.popWake s q n).keeps iv := by
  unfold State.popWake
  repeat' first
    | with_reducible assumption | with_reducible refine popHead_kept _ _ _ _ ?_
    | with_reducible refine wake_kept _ _ ?_ (fun _ _ _ => ?_) | with_reducible refine retire_kept ?_
    | with_reducible exact again_kept | split | dsimp only | dsimp only [State.keeps]

theorem popOn_kept (q : Nat) (n : Fin 8) {s : State} (hmem : s.keeps iv) : (State.popOn s q n).keeps iv := by
  unfold State.popOn
  repeat' first
    | with_reducible assumption | exact rfl | with_reducible refine refillDue_kept _ _ ?_
    | with_reducible refine emit_kept ?_ ?_ | split | dsimp only | dsimp only [State.keeps]

theorem execQueueRefill_kept (quad n : Nat) {s : State} (hmem : s.keeps iv) : outKept iv (execQueueRefill quad n s) := by
  unfold execQueueRefill
  repeat' first
    | with_reducible assumption | exact rfl | with_reducible refine errorRecord_kept _ _ _ _ _ ?_
    | with_reducible refine modThread_kept _ _ ?_ | with_reducible refine dropWalks_kept _ ?_
    | with_reducible refine startWalk_kept _ ?_ | with_reducible refine setFifo_kept _ _ _ ?_
    | with_reducible refine popWake_kept _ _ ?_ | with_reducible refine readAt_kept _ _ _ _ ?_
    | with_reducible refine raise_kept _ _ _ ?_ | with_reducible refine popOn_kept _ _ ?_
    | with_reducible refine emit_kept ?_ ?_ | with_reducible refine next_kept ?_ | with_reducible exact trivial | split
    | dsimp only | dsimp only [State.keeps]

theorem execWqringWrite_kept (g : Guard) (n : Fin 8) (a : GReg)
    {s : State} (hmem : s.keeps iv) : outKept iv (execWqringWrite g n a s) := by
  unfold execWqringWrite
  repeat' first
    | with_reducible assumption | with_reducible refine setFifo_kept _ _ _ ?_ | with_reducible refine trapOf_kept _ _ _ ?_
    | with_reducible refine issue_kept _ ?_ (fun _ _ => ?_) | with_reducible refine retire_kept ?_
    | with_reducible refine next_kept ?_ | with_reducible exact trivial | split | dsimp only | dsimp only [State.keeps]

/-! ## Matrix -/

theorem matrixIssue_kept (op : MatrixOp) (num : Nat) (t : Template)
    {s : State} (hmem : s.keeps iv) : (State.matrixIssue s op num t).kept iv := by
  unfold State.matrixIssue
  repeat' first
    | with_reducible assumption | exact rfl | with_reducible refine modCore_kept _ _ ?_
    | with_reducible refine snd_kept (by assumption) (fresh_kept ?_) | with_reducible refine fresh_kept ?_
    | with_reducible refine emit_kept ?_ ?_ | with_reducible refine trapOf_kept _ _ _ ?_
    | with_reducible refine foldl_kept ?_ (fun _ _ _ => ?_) | with_reducible refine retire_kept ?_
    | with_reducible refine trap_kept ?_ | with_reducible exact again_kept | with_reducible refine id_kept ?_ | split
    | dsimp only | dsimp only [State.keeps]

theorem setTemplate_kept (n : Nat) (t : Template)
    {s : State} (hmem : s.keeps iv) : (State.setTemplate s n t).keeps iv := by
  unfold State.setTemplate
  repeat' first
    | with_reducible assumption | with_reducible refine modCore_kept _ _ ?_ | split | dsimp only | dsimp only [State.keeps]

theorem execMma_kept (g : Guard) (look : Fin 16) (d a b : GReg)
    {s : State} (hmem : s.keeps iv) : outKept iv (execMma g look d a b s) := by
  unfold execMma
  repeat' first
    | with_reducible assumption | with_reducible refine matrixIssue_kept _ _ _ ?_
    | with_reducible refine issue_kept _ ?_ (fun _ _ => ?_) | with_reducible refine next_kept ?_
    | with_reducible exact trivial | split | dsimp only | dsimp only [State.keeps]

theorem execMgath_kept (g : Guard) (look : Fin 16) (d a b : GReg)
    {s : State} (hmem : s.keeps iv) : outKept iv (execMgath g look d a b s) := by
  unfold execMgath
  repeat' first
    | with_reducible assumption | with_reducible refine matrixIssue_kept _ _ _ ?_
    | with_reducible refine issue_kept _ ?_ (fun _ _ => ?_) | with_reducible refine next_kept ?_
    | with_reducible exact trivial | split | dsimp only | dsimp only [State.keeps]

theorem execMldb_kept (g : Guard) (a b : GReg) {s : State} (hmem : s.keeps iv) : outKept iv (execMldb g a b s) := by
  unfold execMldb
  repeat' first
    | with_reducible assumption | with_reducible refine matrixIssue_kept _ _ _ ?_
    | with_reducible refine issue_kept _ ?_ (fun _ _ => ?_) | with_reducible refine next_kept ?_
    | with_reducible exact trivial | split | dsimp only | dsimp only [State.keeps]

theorem execMacc_kept (g : Guard) (a b : GReg) {s : State} (hmem : s.keeps iv) : outKept iv (execMacc g a b s) := by
  unfold execMacc
  repeat' first
    | with_reducible assumption | with_reducible refine matrixIssue_kept _ _ _ ?_
    | with_reducible refine issue_kept _ ?_ (fun _ _ => ?_) | with_reducible refine next_kept ?_
    | with_reducible exact trivial | split | dsimp only | dsimp only [State.keeps]

theorem issueKind_kept (kind n : Nat) (t : Template)
    {s : State} (hmem : s.keeps iv) : (State.issueKind s kind n t).kept iv := by
  unfold State.issueKind
  repeat' first
    | with_reducible assumption | with_reducible refine matrixIssue_kept _ _ _ ?_ | with_reducible refine trapOf_kept _ _ _ ?_
    | split | dsimp only | dsimp only [State.keeps]

theorem affix_kept (t f : Fin 64) {k : Template → State → Res} {s : State} (h : s.keeps iv)
    (hk : ∀ w t, t.keeps iv → (k w t).kept iv) : outKept iv (affix t f k s) := by
  unfold affix
  refine issue_kept _ h (fun t ht => ?_)
  split
  · exact trapOf_kept _ _ _ ht
  · exact hk _ _ ht

theorem execAffixI_kept (t f : Fin 64) (x : BitVec 16) {s : State} (hmem : s.keeps iv) : outKept iv (execAffixI t f x s) := by
  unfold execAffixI
  repeat' first
    | with_reducible assumption | with_reducible refine issueKind_kept _ _ _ ?_
    | with_reducible refine affix_kept _ _ ?_ (fun _ _ _ => ?_) | with_reducible refine next_kept ?_
    | with_reducible exact trivial | split | dsimp only | dsimp only [State.keeps]

theorem execAffixK_kept (t f : Fin 64) (x : BitVec 16) {s : State} (hmem : s.keeps iv) : outKept iv (execAffixK t f x s) := by
  unfold execAffixK
  repeat' first
    | with_reducible assumption | with_reducible refine setTemplate_kept _ _ ?_
    | with_reducible refine issueKind_kept _ _ _ ?_ | with_reducible refine affix_kept _ _ ?_ (fun _ _ _ => ?_)
    | with_reducible refine trap_kept ?_ | with_reducible refine next_kept ?_ | with_reducible exact trivial | split
    | dsimp only | dsimp only [State.keeps]

theorem execAffixS_kept (t f : Fin 64) (x : BitVec 16) {s : State} (hmem : s.keeps iv) : outKept iv (execAffixS t f x s) := by
  unfold execAffixS
  repeat' first
    | with_reducible assumption | with_reducible refine setTemplate_kept _ _ ?_
    | with_reducible refine affix_kept _ _ ?_ (fun _ _ _ => ?_) | with_reducible refine retire_kept ?_
    | with_reducible refine next_kept ?_ | with_reducible exact trivial | split | dsimp only | dsimp only [State.keeps]

theorem image32_kept (addr : Nat) {k : Nat → State → Res} {s : State} (h : s.keeps iv)
    (hk : ∀ x t, t.keeps iv → (k x t).kept iv) : (s.image32 addr k).kept iv := by
  unfold State.image32
  split
  · exact h
  · split
    · exact h
    · exact hk _ _ (poolCorrect_kept _ _ _ h)

theorem execLexld_kept (g : Guard) (a b : GReg) {s : State} (hmem : s.keeps iv) : outKept iv (execLexld g a b s) := by
  unfold execLexld
  repeat' first
    | with_reducible assumption | with_reducible refine setTemplate_kept _ _ ?_
    | with_reducible refine image32_kept _ ?_ (fun _ _ _ => ?_) | with_reducible refine issue_kept _ ?_ (fun _ _ => ?_)
    | with_reducible refine retire_kept ?_ | with_reducible refine next_kept ?_ | with_reducible exact trivial | split
    | dsimp only | dsimp only [State.keeps]

theorem execInfl_kept (g : Guard) (a b : GReg) {s : State} (hmem : s.keeps iv) : outKept iv (execInfl g a b s) := by
  unfold execInfl
  repeat' first
    | with_reducible assumption | with_reducible refine modCore_kept _ _ ?_
    | with_reducible refine image32_kept _ ?_ (fun _ _ _ => ?_) | with_reducible refine trapOf_kept _ _ _ ?_
    | with_reducible refine issue_kept _ ?_ (fun _ _ => ?_) | with_reducible refine retire_kept ?_
    | with_reducible refine next_kept ?_ | with_reducible exact trivial | split | dsimp only | dsimp only [State.keeps]

theorem execMrd_kept (g : Guard) (d a : GReg) {s : State} (hmem : s.keeps iv) : outKept iv (execMrd g d a s) := by
  unfold execMrd
  repeat' first
    | with_reducible assumption | with_reducible refine modTh_kept _ ?_ | with_reducible refine setG_kept _ _ ?_
    | with_reducible refine issue_kept _ ?_ (fun _ _ => ?_) | with_reducible refine retire_kept ?_
    | with_reducible refine next_kept ?_ | with_reducible exact trivial | split | dsimp only | dsimp only [State.keeps]

theorem execMwait_kept (g : Guard) (a : GReg) {s : State} (hmem : s.keeps iv) : outKept iv (execMwait g a s) := by
  unfold execMwait
  repeat' first
    | with_reducible assumption | with_reducible refine acquireCore_kept _ _ ?_
    | with_reducible refine issue_kept _ ?_ (fun _ _ => ?_) | with_reducible refine retire_kept ?_
    | with_reducible refine block_kept ?_ | with_reducible refine next_kept ?_ | with_reducible exact trivial | split
    | dsimp only | dsimp only [State.keeps]

theorem execMwaitSatisfied_kept (tid : Nat) {s : State} (hmem : s.keeps iv) : outKept iv (execMwaitSatisfied tid s) := by
  unfold execMwaitSatisfied
  repeat' first
    | with_reducible assumption | with_reducible refine acquireCore_kept _ _ ?_
    | with_reducible refine wake_kept _ _ ?_ (fun _ _ _ => ?_) | with_reducible refine retire_kept ?_
    | with_reducible refine next_kept ?_ | with_reducible exact trivial | split | dsimp only | dsimp only [State.keeps]

theorem addCells_kept (e : MatrixEntry) (row from_ : Nat) : ∀ (ns : List Nat) {s : State} (fl : BitVec 6), s.keeps iv →
    (State.addCells e row from_ ns s fl).1.keeps iv
  | [], _, _, h => h
  | _ :: ns, _, _, h => addCells_kept e row from_ ns _ (ownWrite_kept _ _ _ h)

theorem matrixRow_kept (core : Nat) (e : MatrixEntry) (idx : List Nat) (j : Nat) {s : State} (h : s.keeps iv) :
    okFst iv (s.matrixRow core e idx j) := by
  unfold State.matrixRow
  dsimp only
  repeat' first
    | with_reducible assumption | with_reducible refine okFst_ok ?_ | with_reducible exact okFst_error
    | with_reducible refine ownWrite_kept _ _ _ ?_ | with_reducible refine poolCorrect_kept _ _ _ ?_
    | with_reducible refine modCore_kept _ _ ?_ | with_reducible refine modThread_kept _ _ ?_
    | with_reducible refine addCells_kept _ _ _ _ _ ?_ | with_reducible refine ite_wf ?_ ?_ | split

theorem matrixRows_kept (core : Nat) (e : MatrixEntry) (idx : List Nat) :
    ∀ (fuel j : Nat) {s : State} (fl : BitVec 6), s.keeps iv → (State.matrixRows core e idx fuel j s fl).1.keeps iv
  | 0, _, _, _, h => h
  | fuel + 1, j, s, fl, h => by
    unfold State.matrixRows
    split
    · exact h
    · rename_i he
      exact matrixRows_kept core e idx fuel (j + 1) _ (okFst_kept he (matrixRow_kept _ _ _ _ h))

theorem matrixPerform_kept (core : Nat) (e : MatrixEntry) {s : State} (hmem : s.keeps iv) :
    (s.matrixPerform core e).1.keeps iv := by
  unfold State.matrixPerform
  exact matrixRows_kept _ _ _ _ _ _ (ite_wf (poolCorrect_kept _ _ _ hmem) hmem)

theorem matrixNext_kept (core : Nat) {s : State} (hmem : s.keeps iv) : (State.matrixNext s core).keeps iv := by
  unfold State.matrixNext
  repeat' first
    | with_reducible assumption | exact rfl | with_reducible refine all_map (fun _ => ?_)
    | with_reducible refine all_filter ?_ | with_reducible exact all_nil | with_reducible refine emits_kept ?_ ?_
    | with_reducible refine emit_kept ?_ ?_ | with_reducible refine id_kept ?_ | split | dsimp only | dsimp only [State.keeps]

theorem matrixRetire_kept (core : Nat) : ∀ (q : List MatrixEntry) {s : State}, s.keeps iv →
    (State.matrixRetire core q s).keeps iv
  | [], _, h => modCore_kept _ _ h
  | e :: q, s, h => by
    unfold State.matrixRetire
    split
    · exact matrixRetire_kept core q (trace_kept _ _ _ _ _ _ _ (modThread_kept _ _ h))
    · exact modCore_kept _ _ h

theorem execMatrixEntryStart_kept (core idx : Nat)
    {s : State} (hmem : s.keeps iv) : outKept iv (execMatrixEntryStart core idx s) := by
  unfold execMatrixEntryStart
  repeat' first
    | with_reducible assumption | with_reducible refine matrixNext_kept _ ?_ | with_reducible refine modCore_kept _ _ ?_
    | with_reducible refine next_kept ?_ | with_reducible exact trivial | with_reducible refine id_kept ?_ | split
    | dsimp only | dsimp only [State.keeps]

theorem matrixStop_kept (core : Nat) (e : MatrixEntry) (row addr : Nat)
    {s : State} (hmem : s.keeps iv) : (State.matrixStop s core e row addr).keeps iv := by
  unfold State.matrixStop
  repeat' first
    | with_reducible assumption | with_reducible refine matrixRetire_kept _ _ ?_ | with_reducible refine matrixNext_kept _ ?_
    | with_reducible refine modThread_kept _ _ ?_ | with_reducible refine pendAlive_kept _ _ ?_
    | with_reducible refine id_kept ?_ | split | dsimp only | dsimp only [State.keeps]

theorem matrixRun_kept (core : Nat) (e : MatrixEntry)
    {s : State} (hmem : s.keeps iv) : (State.matrixRun s core e).keeps iv := by
  unfold State.matrixRun
  repeat' first
    | with_reducible assumption | with_reducible refine fst_kept (by assumption) (matrixPerform_kept _ _ ?_)
    | with_reducible refine matrixPerform_kept _ _ ?_ | with_reducible refine matrixRetire_kept _ _ ?_
    | with_reducible refine matrixNext_kept _ ?_ | with_reducible refine matrixStop_kept _ _ _ _ ?_
    | with_reducible refine id_kept ?_ | split | dsimp only | dsimp only [State.keeps]

theorem execMatrixEntryComplete_kept (core idx : Nat)
    {s : State} (hmem : s.keeps iv) : outKept iv (execMatrixEntryComplete core idx s) := by
  unfold execMatrixEntryComplete
  repeat' first
    | with_reducible assumption | with_reducible refine matrixRun_kept _ _ ?_ | with_reducible refine next_kept ?_
    | with_reducible exact trivial | with_reducible refine id_kept ?_ | split | dsimp only | dsimp only [State.keeps]

theorem execMatrixEntryFault_kept (core row addr : Nat)
    {s : State} (hmem : s.keeps iv) : outKept iv (execMatrixEntryFault core row addr s) := by
  unfold execMatrixEntryFault
  repeat' first
    | with_reducible assumption | with_reducible refine fst_kept (by assumption) (matrixPerform_kept _ _ ?_)
    | with_reducible refine matrixPerform_kept _ _ ?_ | with_reducible refine matrixRun_kept _ _ ?_
    | with_reducible refine next_kept ?_ | with_reducible exact trivial | split | dsimp only | dsimp only [State.keeps]

end Sys2Proof.Machine
end

