-- ==== Sys2Proof/Laws/KeptSystem.lean ====
section
/-!
SUPPORT. Sys2Proof/Laws/KeptSystem.lean: the heap, launches, contexts and the system keep the canonical form of memory (log 2) and an agenda of events.
-/
namespace Sys2Proof.Machine

variable {iv : Bool}

/-! ## Heap -/

theorem setHeap_kept (l : Nat) (h : Heap) {s : State} (hmem : s.keeps iv) : (State.setHeap s l h).keeps iv := by
  unfold State.setHeap
  repeat' first
    | with_reducible assumption | split | dsimp only | dsimp only [State.keeps]

theorem heapWrite_kept (l va : Nat) (bs : List Byte)
    {s : State} (hmem : s.keeps iv) : (State.heapWrite s l va bs).keeps iv := by
  unfold State.heapWrite
  repeat' first
    | with_reducible assumption | with_reducible refine hardwareRecord_kept _ _ ?_
    | with_reducible refine snd_kept (by assumption) (deviceWrite_kept _ _ _ _ ?_)
    | with_reducible refine deviceWrite_kept _ _ _ _ ?_ | split | dsimp only | dsimp only [State.keeps]

theorem writeEntries_kept (l : Nat) (h : Heap) : ∀ (fuel t : Nat) {s : State}, s.keeps iv →
    (s.writeEntries l h fuel t).keeps iv
  | 0, _, _, hm => hm
  | fuel + 1, t, _, hm => writeEntries_kept l h fuel (t + 1) (heapWrite_kept _ _ _ hm)

theorem heapEnd_kept (l : Nat) (cause final : Nat)
    {s : State} (hmem : s.keeps iv) : (State.heapEnd s l cause final).keeps iv := by
  unfold State.heapEnd
  repeat' first
    | with_reducible assumption | with_reducible refine writeEntries_kept _ _ _ _ ?_
    | with_reducible refine heapWrite_kept _ _ _ ?_ | with_reducible refine setHeap_kept _ _ ?_ | split | dsimp only
    | dsimp only [State.keeps]

theorem endTest_kept (l : Nat) {s : State} (hmem : s.keeps iv) : (State.endTest s l).keeps iv := by
  unfold State.endTest
  repeat' first
    | with_reducible assumption | with_reducible refine setHeap_kept _ _ ?_ | with_reducible refine heapEnd_kept _ _ _ ?_
    | split | dsimp only | dsimp only [State.keeps]

theorem setResidual_kept (l : Nat) (h : Heap) (t : Nat) (x : Task) (new : Nat)
    {s : State} (hmem : s.keeps iv) : (State.setResidual s l h t x new).keeps iv := by
  unfold State.setResidual
  repeat' first
    | with_reducible assumption | with_reducible refine setHeap_kept _ _ ?_ | with_reducible refine heapEnd_kept _ _ _ ?_
    | with_reducible refine endTest_kept _ ?_ | split | dsimp only | dsimp only [State.keeps]

theorem applyGain_kept (l t delta : Nat)
    {s : State} (hmem : s.keeps iv) : (State.applyGain s l t delta).keeps iv := by
  unfold State.applyGain
  repeat' first
    | with_reducible assumption | with_reducible refine setResidual_kept _ _ _ _ _ ?_
    | with_reducible refine setHeap_kept _ _ ?_ | with_reducible refine pend_kept _ _ ?_ | split | dsimp only
    | dsimp only [State.keeps]

theorem heapAbandon_kept (l : Nat) (halted : Bool)
    {s : State} (hmem : s.keeps iv) : (State.heapAbandon s l halted).keeps iv := by
  unfold State.heapAbandon
  repeat' first
    | with_reducible assumption | with_reducible refine setHeap_kept _ _ ?_ | with_reducible refine heapEnd_kept _ _ _ ?_
    | split | dsimp only | dsimp only [State.keeps]

theorem withHeap_kept {k : Nat → Heap → Res} {s : State} (h : s.keeps iv) (hk : ∀ l x, (k l x).kept iv) :
    (withHeap s k).kept iv := by
  unfold withHeap
  split
  · exact h
  · exact hk _ _

theorem execGain_kept (g : Guard) (a b : GReg) {s : State} (hmem : s.keeps iv) : outKept iv (execGain g a b s) := by
  unfold execGain
  repeat' first
    | with_reducible assumption | with_reducible refine snd_kept (by assumption) (inject_kept _ ?_)
    | with_reducible refine inject_kept _ ?_ | with_reducible refine withHeap_kept ?_ (fun _ _ => ?_)
    | with_reducible refine trapOf_kept _ _ _ ?_ | with_reducible refine issue_kept _ ?_ (fun _ _ => ?_)
    | with_reducible refine retire_kept ?_ | with_reducible refine next_kept ?_ | with_reducible exact trivial
    | with_reducible refine id_kept ?_ | split | dsimp only | dsimp only [State.keeps]

theorem execGainApply_kept (id : Nat) {s : State} (hmem : s.keeps iv) : outKept iv (execGainApply id s) := by
  unfold execGainApply
  repeat' first
    | with_reducible assumption | with_reducible exact Req.event_isEvent _ | exact rfl
    | with_reducible refine pendAlive_kept _ _ ?_ | with_reducible refine applyGain_kept _ _ _ ?_
    | with_reducible refine dropReq_kept _ ?_ | with_reducible refine emit_kept ?_ ?_ | with_reducible refine next_kept ?_
    | with_reducible exact trivial | with_reducible refine id_kept ?_ | split | dsimp only | dsimp only [State.keeps]

theorem doneEnd_kept (t : Nat) (keep : BitVec 32)
    {s : State} (hmem : s.keeps iv) : (State.doneEnd s t keep).keeps iv := by
  unfold State.doneEnd
  repeat' first
    | with_reducible assumption | with_reducible refine setResidual_kept _ _ _ _ _ ?_
    | with_reducible refine fenceEnd_kept _ ?_ | with_reducible refine modTh_kept _ ?_
    | with_reducible refine trace_kept _ _ _ _ _ _ _ ?_ | with_reducible refine pend_kept _ _ ?_ | split | dsimp only
    | dsimp only [State.keeps]

theorem doneRes_kept (t : Nat) (keep : BitVec 32) {s : State} (hmem : s.keeps iv) : (State.doneRes s t keep).kept iv := by
  unfold State.doneRes
  repeat' first
    | with_reducible assumption | with_reducible refine doneEnd_kept _ _ ?_ | with_reducible refine retire_kept ?_
    | with_reducible refine trap_kept ?_ | with_reducible refine doneTaken ?_ | with_reducible exact noneTaken
    | with_reducible refine stealTaken ?_ | split | dsimp only | dsimp only [State.keeps]

theorem execDone_kept (g : Guard) (a : GReg) {s : State} (hmem : s.keeps iv) : outKept iv (execDone g a s) := by
  unfold execDone
  repeat' first
    | with_reducible assumption | with_reducible refine drainAll_kept _ ?_ | with_reducible refine doneRes_kept _ _ ?_
    | with_reducible refine withHeap_kept ?_ (fun _ _ => ?_) | with_reducible refine trapOf_kept _ _ _ ?_
    | with_reducible refine issue_kept _ ?_ (fun _ _ => ?_)
    | with_reducible refine await_kept _ _ ?_ (fun _ _ => ?_) (fun _ _ => ?_) | with_reducible refine next_kept ?_
    | with_reducible exact trivial | split | dsimp only | dsimp only [State.keeps]

theorem execDoneApply_kept (tid : Nat) {s : State} (hmem : s.keeps iv) : outKept iv (execDoneApply tid s) := by
  unfold execDoneApply
  repeat' first
    | with_reducible assumption | with_reducible refine doneRes_kept _ _ ?_
    | with_reducible refine wake_kept _ _ ?_ (fun _ _ _ => ?_) | with_reducible exact again_kept
    | with_reducible refine next_kept ?_ | with_reducible exact trivial | split | dsimp only | dsimp only [State.keeps]

theorem seedEnd_kept (arm : Bool) {s : State} (hmem : s.keeps iv) : (State.seedEnd s arm).keeps iv := by
  unfold State.seedEnd
  repeat' first
    | with_reducible assumption | with_reducible refine setHeap_kept _ _ ?_ | with_reducible refine endTest_kept _ ?_ | split
    | dsimp only | dsimp only [State.keeps]

theorem execHseed_kept (g : Guard) (a b : GReg) {s : State} (hmem : s.keeps iv) : outKept iv (execHseed g a b s) := by
  unfold execHseed
  repeat' first
    | with_reducible assumption | with_reducible refine seedEnd_kept _ ?_
    | with_reducible refine withHeap_kept ?_ (fun _ _ => ?_) | with_reducible refine trapOf_kept _ _ _ ?_
    | with_reducible refine issue_kept _ ?_ (fun _ _ => ?_)
    | with_reducible refine await_kept _ _ ?_ (fun _ _ => ?_) (fun _ _ => ?_) | with_reducible refine retire_kept ?_
    | with_reducible refine next_kept ?_ | with_reducible exact trivial | with_reducible refine id_kept ?_ | split
    | dsimp only | dsimp only [State.keeps]

theorem execHseedEntryRead_kept (tid : Nat) {s : State} (hmem : s.keeps iv) : outKept iv (execHseedEntryRead tid s) := by
  unfold execHseedEntryRead
  repeat' first
    | with_reducible assumption | with_reducible refine snd_kept (by assumption) (deviceRead_kept _ _ _ _ ?_)
    | with_reducible refine deviceRead_kept _ _ _ _ ?_ | with_reducible refine modThread_kept _ _ ?_
    | with_reducible refine applyGain_kept _ _ _ ?_ | with_reducible refine seedEnd_kept _ ?_
    | with_reducible refine raise_kept _ _ _ ?_ | with_reducible refine wake_kept _ _ ?_ (fun _ _ _ => ?_)
    | with_reducible refine retire_kept ?_ | with_reducible refine next_kept ?_ | with_reducible exact trivial | split
    | dsimp only | dsimp only [State.keeps]

theorem takeTask_kept (l : Nat) (h : Heap) (t : Nat) (x : Task)
    {s : State} (hmem : s.keeps iv) : (State.takeTask s l h t x).2.keeps iv := by
  unfold State.takeTask
  repeat' first
    | with_reducible assumption | with_reducible refine acquireCore_kept _ _ ?_ | with_reducible refine setHeap_kept _ _ ?_
    | with_reducible refine modTh_kept _ ?_ | with_reducible refine pend_kept _ _ ?_ | split | dsimp only
    | dsimp only [State.keeps]

theorem refreshHeap_kept (l : Nat) (h : Heap)
    {s : State} (hmem : s.keeps iv) : (State.refreshHeap s l h).keeps iv := by
  unfold State.refreshHeap
  repeat' first
    | with_reducible assumption | with_reducible refine setHeap_kept _ _ ?_ | split | dsimp only | dsimp only [State.keeps]

theorem freshHeap_kept (l : Nat) {s : State} (hmem : s.keeps iv) : (State.freshHeap s l).keeps iv := by
  unfold State.freshHeap
  repeat' first
    | with_reducible assumption | with_reducible refine refreshHeap_kept _ _ ?_ | split | dsimp only
    | dsimp only [State.keeps]

def Taken.kept (iv : Bool) : Taken → Prop
  | .done _ s | .steal _ _ s => s.keeps iv
  | .none => True

theorem taken_done {e : Taken} {x : Word} {s : State} (he : e = .done x s) (h : e.kept iv) : s.keeps iv := by
  subst he; exact h
theorem taken_steal {e : Taken} {a b : Nat} {s : State} (he : e = .steal a b s) (h : e.kept iv) : s.keeps iv := by
  subst he; exact h

theorem takeLocal_kept (d f : Nat) {s : State} (hmem : s.keeps iv) : (s.takeLocal d f).kept iv := by
  unfold State.takeLocal
  split
  · trivial
  · split
    · exact acquireCore_kept _ _ hmem
    · split
      · exact takeTask_kept _ _ _ _ hmem
      · trivial

theorem takeAt_kept (d f : Nat) (loc : Bool) {s : State} (hmem : s.keeps iv) : (s.takeAt d f loc).kept iv := by
  unfold State.takeAt
  split
  · trivial
  · split
    · exact takeLocal_kept _ _ hmem
    · have hf : ∀ l, (s.freshHeap l).keeps iv := fun l => freshHeap_kept l hmem
      dsimp only
      split
      · trivial
      · split
        · exact hf _
        · exact takeLocal_kept _ _ (hf _)

theorem takeResult_kept (d : GReg) (x : Word) {s : State} (hmem : s.keeps iv) : (State.takeResult s d x).kept iv := by
  unfold State.takeResult
  repeat' first
    | with_reducible assumption | with_reducible refine trace_kept _ _ _ _ _ _ _ ?_ | with_reducible refine setG_kept _ _ ?_
    | with_reducible refine retire_kept ?_ | split | dsimp only | dsimp only [State.keeps]

theorem stealNow_kept (f die gd : Nat) {s : State} (hmem : s.keeps iv) : (s.stealNow f die gd).kept iv := by
  unfold State.stealNow
  dsimp only
  split
  · trivial
  · split
    · exact takeLocal_kept _ _ hmem
    · split
      · split
        · exact takeTask_kept _ _ _ _ hmem
        · exact takeLocal_kept _ _ hmem
      · exact takeLocal_kept _ _ hmem

theorem execTake_kept (g : Guard) (look : Fin 16) (two : Bool) (d a b : GReg)
    {s : State} (hmem : s.keeps iv) : outKept iv (execTake g look two d a b s) := by
  unfold execTake
  repeat' first
    | with_reducible assumption | with_reducible refine takeResult_kept _ _ ?_
    | with_reducible (first | refine taken_done (by assumption) (stealNow_kept _ _ _ ?_) | refine taken_steal (by assumption) (stealNow_kept _ _ _ ?_))
    | with_reducible (first | refine taken_done (by assumption) (takeAt_kept _ _ _ ?_) | refine taken_steal (by assumption) (takeAt_kept _ _ _ ?_))
    | with_reducible refine withHeap_kept ?_ (fun _ _ => ?_) | with_reducible refine trapOf_kept _ _ _ ?_
    | with_reducible refine issue_kept _ ?_ (fun _ _ => ?_) | with_reducible refine trap_kept ?_
    | with_reducible refine block_kept ?_ | with_reducible exact again_kept | with_reducible refine next_kept ?_
    | with_reducible exact trivial | split | dsimp only | dsimp only [State.keeps]

theorem takeReturn_kept (tid : Nat) (d : GReg) (x : Word) {s s1 : State} (hmem : s.keeps iv) (h1 : s1.keeps iv) :
    (s.takeReturn s1 tid d x).keeps iv := by
  unfold State.takeReturn
  dsimp only
  split
  · exact setThread_kept _ _ hmem
  · exact settle_kept _ _ h1 (takeResult_kept _ _ h1)

theorem execTakeWake_kept (tid : Nat) {s : State} (hmem : s.keeps iv) : outKept iv (execTakeWake tid s) := by
  unfold execTakeWake
  repeat' first
    | with_reducible assumption | with_reducible refine takeReturn_kept _ _ _ ?_ ?_
    | with_reducible refine modThread_kept _ _ ?_
    | with_reducible (first | refine taken_done (by assumption) (takeAt_kept _ _ _ ?_) | refine taken_steal (by assumption) (takeAt_kept _ _ _ ?_))
    | with_reducible refine next_kept ?_ | with_reducible exact trivial | split | dsimp only | dsimp only [State.keeps]

theorem execHeapSteal_kept (tid : Nat) {s : State} (hmem : s.keeps iv) : outKept iv (execHeapSteal tid s) := by
  unfold execHeapSteal
  repeat' first
    | with_reducible assumption | with_reducible refine takeReturn_kept _ _ _ ?_ ?_
    | with_reducible refine modThread_kept _ _ ?_
    | with_reducible (first | refine taken_done (by assumption) (stealNow_kept _ _ _ ?_) | refine taken_steal (by assumption) (stealNow_kept _ _ _ ?_))
    | with_reducible refine raise_kept _ _ _ ?_ | with_reducible refine next_kept ?_ | with_reducible exact trivial | split
    | dsimp only | dsimp only [State.keeps]

theorem execHeapMaxRefresh_kept (launch : Nat)
    {s : State} (hmem : s.keeps iv) : outKept iv (execHeapMaxRefresh launch s) := by
  unfold execHeapMaxRefresh
  repeat' first
    | with_reducible assumption | exact rfl | with_reducible refine refreshHeap_kept _ _ ?_
    | with_reducible refine emit_kept ?_ ?_ | with_reducible refine next_kept ?_ | with_reducible exact trivial | split
    | dsimp only | dsimp only [State.keeps]

theorem execResid_kept (g : Guard) (d : GReg) {s : State} (hmem : s.keeps iv) : outKept iv (execResid g d s) := by
  unfold execResid
  repeat' first
    | with_reducible assumption | with_reducible refine setG_kept _ _ ?_
    | with_reducible refine withHeap_kept ?_ (fun _ _ => ?_) | with_reducible refine issue_kept _ ?_ (fun _ _ => ?_)
    | with_reducible refine retire_kept ?_ | with_reducible refine next_kept ?_ | with_reducible exact trivial | split
    | dsimp only | dsimp only [State.keeps]

theorem execHpeek_kept (g : Guard) (d : GReg) {s : State} (hmem : s.keeps iv) : outKept iv (execHpeek g d s) := by
  unfold execHpeek
  repeat' first
    | with_reducible assumption | with_reducible refine setG_kept _ _ ?_
    | with_reducible refine withHeap_kept ?_ (fun _ _ => ?_) | with_reducible refine trapOf_kept _ _ _ ?_
    | with_reducible refine issue_kept _ ?_ (fun _ _ => ?_) | with_reducible refine retire_kept ?_
    | with_reducible refine next_kept ?_ | with_reducible exact trivial | split | dsimp only | dsimp only [State.keeps]

theorem execHcount_kept (g : Guard) (d : GReg) {s : State} (hmem : s.keeps iv) : outKept iv (execHcount g d s) := by
  unfold execHcount
  repeat' first
    | with_reducible assumption | with_reducible refine setG_kept _ _ ?_
    | with_reducible refine withHeap_kept ?_ (fun _ _ => ?_) | with_reducible refine trapOf_kept _ _ _ ?_
    | with_reducible refine issue_kept _ ?_ (fun _ _ => ?_) | with_reducible refine retire_kept ?_
    | with_reducible refine next_kept ?_ | with_reducible exact trivial | split | dsimp only | dsimp only [State.keeps]

/-! ## Launch -/

theorem claim_kept (id : Nat) (l : Launch) (c : Nat)
    {s : State} (hmem : s.keeps iv) : (State.claim s id l c).keeps iv := by
  unfold State.claim
  repeat' first
    | with_reducible assumption | with_reducible refine modQuad_kept _ _ ?_ | with_reducible refine modDie_kept _ _ ?_
    | with_reducible refine id_kept ?_ | split | dsimp only | dsimp only [State.keeps]

theorem startTeam_kept (id : Nat) (l : Launch) (i c : Nat) {s : State} (hmem : s.keeps iv) :
    (s.startTeam id l i c).keeps iv := by
  unfold State.startTeam
  refine acquireCore_kept _ _ ?_
  have h1 : ∀ {t : State} (r : Word), t.keeps iv → ((List.range l.threads).foldl
      (fun s i => s.setThread (8 * c + i) (Thread.start l (s.core c).rtvec i)) t).keeps iv :=
    fun _ h => foldl_kept h (fun _ _ h => setThread_kept _ _ h)
  split
  · exact h1 0 (kept_clear _ _ (claim_kept _ _ _ hmem))
  · exact h1 0 (kept_clear _ _ (claim_kept _ _ _ hmem))

theorem startTeams_kept (id : Nat) (l : Launch) (ps : List (Nat × Nat))
    {s : State} (hmem : s.keeps iv) : (State.startTeams s id l ps).keeps iv := by
  unfold State.startTeams
  repeat' first
    | with_reducible assumption | with_reducible refine startTeam_kept _ _ _ _ ?_
    | with_reducible refine foldl_kept ?_ (fun _ _ _ => ?_) | with_reducible refine id_kept ?_ | split | dsimp only
    | dsimp only [State.keeps]

theorem setHostQueue_kept (d q : Nat) (x : HostQueue)
    {s : State} (hmem : s.keeps iv) : (State.setHostQueue s d q x).keeps iv := by
  unfold State.setHostQueue
  repeat' first
    | with_reducible assumption | with_reducible refine modDie_kept _ _ ?_ | split | dsimp only | dsimp only [State.keeps]

theorem setQueueCur_kept (d q : Nat) (x : Option Nat)
    {s : State} (hmem : s.keeps iv) : (State.setQueueCur s d q x).keeps iv := by
  unfold State.setQueueCur
  repeat' first
    | with_reducible assumption | with_reducible refine setHostQueue_kept _ _ _ ?_ | with_reducible refine modDie_kept _ _ ?_
    | split | dsimp only | dsimp only [State.keeps]

theorem consume_kept (d q : Nat) {s : State} (hmem : s.keeps iv) : (State.consume s d q).keeps iv := by
  unfold State.consume
  repeat' first
    | with_reducible assumption | exact rfl | with_reducible refine setHostQueue_kept _ _ _ ?_
    | with_reducible refine setQueueCur_kept _ _ _ ?_ | with_reducible refine modDie_kept _ _ ?_
    | with_reducible refine emit_kept ?_ ?_ | split | dsimp only | dsimp only [State.keeps]

theorem redispatch_kept {s : State} (hmem : s.keeps iv) : (State.redispatch s).keeps iv := by
  unfold State.redispatch
  repeat' first
    | with_reducible assumption | exact rfl | with_reducible refine all_flatMap (fun _ => ?_)
    | with_reducible refine all_append ?_ ?_ | with_reducible refine all_cons ?_ ?_
    | with_reducible refine all_map (fun _ => ?_) | with_reducible refine all_filter ?_ | with_reducible exact all_nil
    | with_reducible refine emits_kept ?_ ?_ | split | dsimp only | dsimp only [State.keeps]

theorem execHqtailWrite_kept (die q val : Nat)
    {s : State} (hmem : s.keeps iv) : outKept iv (execHqtailWrite die q val s) := by
  unfold execHqtailWrite
  repeat' first
    | with_reducible assumption | exact rfl | with_reducible refine setHostQueue_kept _ _ _ ?_
    | with_reducible refine emit_kept ?_ ?_ | with_reducible refine next_kept ?_ | with_reducible exact trivial | split
    | dsimp only | dsimp only [State.keeps]

theorem launchWrite_kept (l : Launch) (va : Nat) (bs : List Byte)
    {s : State} (hmem : s.keeps iv) : (State.launchWrite s l va bs).2.keeps iv := by
  unfold State.launchWrite
  repeat' first
    | with_reducible assumption | with_reducible refine hardwareRecord_kept _ _ ?_
    | with_reducible refine snd_kept (by assumption) (deviceWrite_kept _ _ _ _ ?_)
    | with_reducible refine deviceWrite_kept _ _ _ _ ?_ | split | dsimp only | dsimp only [State.keeps]

theorem signal_kept (l : Launch) {s : State} (hmem : s.keeps iv) : (State.signal s l).keeps iv := by
  unfold State.signal
  repeat' first
    | with_reducible assumption | with_reducible refine snd_kept (by assumption) (deviceTranslate_kept _ _ _ _ ?_)
    | with_reducible refine deviceTranslate_kept _ _ _ _ ?_ | with_reducible refine hardwareRecord_kept _ _ ?_
    | with_reducible refine beforeAtomic_kept _ _ _ ?_ | with_reducible refine redispatch_kept ?_
    | with_reducible refine unitWrite_kept _ _ _ ?_ | with_reducible refine readAt_kept _ _ _ _ ?_ | split | dsimp only
    | dsimp only [State.keeps]

theorem record_kept (l : Launch) (status ended : Nat) (fault : Nat) (tRead : Nat)
    {s : State} (hmem : s.keeps iv) : (State.record s l status ended fault tRead).keeps iv := by
  unfold State.record
  repeat' first
    | with_reducible assumption | with_reducible refine snd_kept (by assumption) (launchWrite_kept _ _ _ ?_)
    | with_reducible refine launchWrite_kept _ _ _ ?_ | split | dsimp only | dsimp only [State.keeps]

theorem reject_kept (d q id status : Nat)
    {s : State} (hmem : s.keeps iv) : (State.reject s d q id status).keeps iv := by
  unfold State.reject
  repeat' first
    | with_reducible assumption | with_reducible refine consume_kept _ _ ?_ | with_reducible refine signal_kept _ ?_
    | with_reducible refine record_kept _ _ _ _ _ ?_ | with_reducible refine id_kept ?_ | split | dsimp only
    | dsimp only [State.keeps]

theorem release_kept (id : Nat) {s : State} (hmem : s.keeps iv) : (State.release s id).keeps iv := by
  unfold State.release
  repeat' first
    | with_reducible assumption | with_reducible refine id_kept ?_ | split | dsimp only | dsimp only [State.keeps]

theorem execLaunchComplete_kept (launch : Nat)
    {s : State} (hmem : s.keeps iv) : outKept iv (execLaunchComplete launch s) := by
  unfold execLaunchComplete
  repeat' first
    | with_reducible assumption | exact rfl | with_reducible refine releaseCore_kept _ _ ?_
    | with_reducible refine heapAbandon_kept _ _ ?_ | with_reducible refine redispatch_kept ?_
    | with_reducible refine release_kept _ ?_ | with_reducible refine signal_kept _ ?_
    | with_reducible refine record_kept _ _ _ _ _ ?_ | with_reducible refine emit_kept ?_ ?_
    | with_reducible refine foldl_kept ?_ (fun _ _ _ => ?_) | with_reducible refine next_kept ?_
    | with_reducible exact trivial | split | dsimp only | dsimp only [State.keeps]

theorem readBlock_kept (d q : Nat) {s : State} (hmem : s.keeps iv) : (State.readBlock s d q).keeps iv := by
  unfold State.readBlock
  repeat' first
    | with_reducible assumption | exact rfl | with_reducible refine setQueueCur_kept _ _ _ ?_
    | with_reducible refine snd_kept (by assumption) (deviceRead_kept _ _ _ _ ?_)
    | with_reducible refine deviceRead_kept _ _ _ _ ?_ | with_reducible refine consume_kept _ _ ?_
    | with_reducible refine snd_kept (by assumption) (fresh_kept ?_) | with_reducible refine fresh_kept ?_
    | with_reducible refine heard_kept _ _ _ ?_ | with_reducible refine emit_kept ?_ ?_ | with_reducible refine id_kept ?_
    | split | dsimp only | dsimp only [State.keeps]

theorem readCounters_kept (l : Launch) : ∀ (is : List Nat) {s : State}, s.keeps iv → (s.readCounters l is).2.keeps iv
  | [], _, h => h
  | i :: is, s, h => by
    unfold State.readCounters
    split
    · exact readCounters_kept l is h
    · split
      · rename_i he
        exact snd_kept he (deviceRead_kept _ _ _ _ h)
      · rename_i he
        have h2 := readCounters_kept l is (snd_kept he (deviceRead_kept _ _ _ _ h))
        split
        · rename_i he2
          exact snd_kept he2 h2
        · exact h2

theorem waitsMet_kept (l : Launch) {s : State} (hmem : s.keeps iv) : (s.waitsMet l).2.keeps iv :=
  readCounters_kept l _ hmem

theorem seedTasks_kept (id : Nat) (l : Launch) : ∀ (fuel t : Nat) {s : State}, s.keeps iv →
    (s.seedTasks id l fuel t).2.keeps iv
  | 0, _, _, h => h
  | fuel + 1, t, s, h => by
    unfold State.seedTasks
    split
    · rename_i he
      exact snd_kept he (deviceRead_kept _ _ _ _ h)
    · rename_i he
      exact seedTasks_kept id l fuel _ (applyGain_kept _ _ _ (snd_kept he (deviceRead_kept _ _ _ _ h)))

theorem arm_kept (id : Nat) {s : State} (hmem : s.keeps iv) : (State.arm s id).keeps iv := by
  unfold State.arm
  repeat' first
    | with_reducible assumption | with_reducible refine setHeap_kept _ _ ?_ | with_reducible refine endTest_kept _ ?_
    | with_reducible refine id_kept ?_ | split | dsimp only | dsimp only [State.keeps]

theorem heapBegin_kept (id : Nat) (l : Launch)
    {s : State} (hmem : s.keeps iv) : (State.heapBegin s id l).2.keeps iv := by
  unfold State.heapBegin
  repeat' first
    | with_reducible assumption | exact rfl | with_reducible refine snd_kept (by assumption) (deviceRead_kept _ _ _ _ ?_)
    | with_reducible refine deviceRead_kept _ _ _ _ ?_
    | with_reducible refine snd_kept (by assumption) (seedTasks_kept _ _ _ _ ?_)
    | with_reducible refine seedTasks_kept _ _ _ _ ?_ | with_reducible refine setHeap_kept _ _ ?_
    | with_reducible refine modDie_kept _ _ ?_ | with_reducible refine emit_kept ?_ ?_ | with_reducible refine arm_kept _ ?_
    | with_reducible refine foldl_kept ?_ (fun _ _ _ => ?_) | with_reducible refine id_kept ?_ | split | dsimp only
    | dsimp only [State.keeps]

theorem dropHeap_kept (id : Nat) {s : State} (hmem : s.keeps iv) : (State.dropHeap s id).keeps iv := by
  unfold State.dropHeap
  repeat' first
    | with_reducible assumption | with_reducible refine id_kept ?_ | split | dsimp only | dsimp only [State.keeps]

theorem takeHead_kept (d q id : Nat) (l : Launch) (ps : List (Nat × Nat)) {s : State} (hmem : s.keeps iv) :
    (s.takeHead d q id l ps).keeps iv := by
  unfold State.takeHead
  have hb : (if l.isHeap then s.heapBegin id l else ((none, s) : Option Nat × State)).2.keeps iv := by
    split
    · exact heapBegin_kept _ _ hmem
    · exact hmem
  split
  · rename_i he
    exact reject_kept _ _ _ _ (dropHeap_kept _ (snd_kept he hb))
  · rename_i s' he
    have h1 : s'.keeps iv := snd_kept he hb
    have h2 : ∀ t : State, t.keeps iv → (((t.consume d q).startTeams id l ps)).keeps iv :=
      fun t h => startTeams_kept _ _ _ (consume_kept _ _ h)
    dsimp only
    split <;> split <;> first | exact emit_kept rfl (modDie_kept _ _ (h2 _ h1)) | exact h2 _ h1

theorem forwardLaunch_kept (d id : Nat) (l : Launch)
    {s : State} (hmem : s.keeps iv) : (State.forwardLaunch s d id l).keeps iv := by
  unfold State.forwardLaunch
  repeat' first
    | with_reducible assumption | exact rfl | with_reducible refine all_map (fun _ => ?_)
    | with_reducible refine all_filter ?_ | with_reducible exact all_nil | with_reducible refine emits_kept ?_ ?_
    | with_reducible refine id_kept ?_ | split | dsimp only | dsimp only [State.keeps]

theorem execLaunchAdmission_kept (die q : Nat)
    {s : State} (hmem : s.keeps iv) : outKept iv (execLaunchAdmission die q s) := by
  unfold execLaunchAdmission
  repeat' first
    | with_reducible assumption | exact rfl | with_reducible refine forwardLaunch_kept _ _ _ ?_
    | with_reducible refine readBlock_kept _ _ ?_ | with_reducible refine snd_kept (by assumption) (waitsMet_kept _ ?_)
    | with_reducible refine waitsMet_kept _ ?_ | with_reducible refine takeHead_kept _ _ _ _ _ ?_
    | with_reducible refine reject_kept _ _ _ _ ?_ | with_reducible refine emit_kept ?_ ?_
    | with_reducible refine next_kept ?_ | with_reducible exact trivial | with_reducible refine id_kept ?_ | split
    | dsimp only | dsimp only [State.keeps]

theorem execLaunchForward_kept (die launch : Nat)
    {s : State} (hmem : s.keeps iv) : outKept iv (execLaunchForward die launch s) := by
  unfold execLaunchForward
  repeat' first
    | with_reducible assumption | with_reducible refine redispatch_kept ?_ | with_reducible refine heard_kept _ _ _ ?_
    | with_reducible refine next_kept ?_ | with_reducible exact trivial | split | dsimp only | dsimp only [State.keeps]

theorem execWaitCounterPoll_kept (die q : Nat)
    {s : State} (hmem : s.keeps iv) : outKept iv (execWaitCounterPoll die q s) := by
  unfold execWaitCounterPoll
  repeat' first
    | with_reducible assumption | with_reducible refine ite_event ?_ ?_ | exact rfl
    | with_reducible refine snd_kept (by assumption) (waitsMet_kept _ ?_) | with_reducible refine waitsMet_kept _ ?_
    | with_reducible refine reject_kept _ _ _ _ ?_ | with_reducible refine emit_kept ?_ ?_
    | with_reducible refine next_kept ?_ | with_reducible exact trivial | with_reducible refine id_kept ?_ | split
    | dsimp only | dsimp only [State.keeps]

theorem execTeamStart_kept (launch : Nat) {s : State} (hmem : s.keeps iv) : outKept iv (execTeamStart launch s) := by
  unfold execTeamStart
  repeat' first
    | with_reducible assumption | exact rfl | with_reducible refine startTeams_kept _ _ _ ?_
    | with_reducible refine modDie_kept _ _ ?_ | with_reducible refine emit_kept ?_ ?_ | with_reducible refine next_kept ?_
    | with_reducible exact trivial | split | dsimp only | dsimp only [State.keeps]

theorem modLaunch_kept (id : Nat) (f : Launch → Launch)
    {s : State} (hmem : s.keeps iv) : (State.modLaunch s id f).keeps iv := by
  unfold State.modLaunch
  repeat' first
    | with_reducible assumption | with_reducible refine id_kept ?_ | split | dsimp only | dsimp only [State.keeps]

theorem setFate_kept (id i : Nat) (fate : TeamFate)
    {s : State} (hmem : s.keeps iv) : (State.setFate s id i fate).keeps iv := by
  unfold State.setFate
  repeat' first
    | with_reducible assumption | exact rfl | with_reducible refine modLaunch_kept _ _ ?_
    | with_reducible refine emit_kept ?_ ?_ | with_reducible refine id_kept ?_ | split | dsimp only | dsimp only [State.keeps]

theorem freeCore_kept (c : Nat) {s : State} (hmem : s.keeps iv) : (State.freeCore s c).keeps iv := by
  unfold State.freeCore
  repeat' first
    | with_reducible assumption | with_reducible refine redispatch_kept ?_ | with_reducible refine drainAll_kept _ ?_
    | with_reducible refine modCore_kept _ _ ?_ | with_reducible refine foldl_kept ?_ (fun _ _ _ => ?_) | split | dsimp only
    | dsimp only [State.keeps]

theorem countGone_kept (id : Nat) {s : State} (hmem : s.keeps iv) : (State.countGone s id).keeps iv := by
  unfold State.countGone
  repeat' first
    | with_reducible assumption | with_reducible refine modCore_kept _ _ ?_
    | with_reducible refine foldl_kept ?_ (fun _ _ _ => ?_) | with_reducible refine id_kept ?_ | split | dsimp only
    | dsimp only [State.keeps]

theorem execWindowDepart_kept (launch : Nat) {s : State} (hmem : s.keeps iv) : outKept iv (execWindowDepart launch s) := by
  unfold execWindowDepart
  repeat' first
    | with_reducible assumption | with_reducible refine modLaunch_kept _ _ ?_ | with_reducible refine countGone_kept _ ?_
    | with_reducible refine freeCore_kept _ ?_ | with_reducible refine setFate_kept _ _ _ ?_
    | with_reducible refine foldl_kept ?_ (fun _ _ _ => ?_) | with_reducible refine next_kept ?_
    | with_reducible exact trivial | split | dsimp only | dsimp only [State.keeps]

theorem teamExit_kept (c : Nat) (tm : Team) {s : State} (hmem : s.keeps iv) : (State.teamExit s c tm).keeps iv := by
  unfold State.teamExit
  repeat' first
    | with_reducible assumption | exact rfl | with_reducible refine freeCore_kept _ ?_
    | with_reducible refine modCore_kept _ _ ?_ | with_reducible refine setFate_kept _ _ _ ?_
    | with_reducible refine emit_kept ?_ ?_ | split | dsimp only | dsimp only [State.keeps]

theorem endThread_kept (tid : Nat) {s : State} (hmem : s.keeps iv) : (State.endThread s tid).keeps iv := by
  unfold State.endThread
  repeat' first
    | with_reducible assumption | with_reducible refine modThread_kept _ _ ?_ | with_reducible refine drainAll_kept _ ?_
    | with_reducible refine teamExit_kept _ _ ?_ | split | dsimp only | dsimp only [State.keeps]

theorem exitEnd_kept (es : List Word) {s : State} (hmem : s.keeps iv) : (State.exitEnd s es).kept iv := by
  unfold State.exitEnd
  repeat' first
    | with_reducible assumption | exact rfl | with_reducible refine leaveObjects_kept _ ?_
    | with_reducible refine endThread_kept _ ?_ | with_reducible refine modDie_kept _ _ ?_
    | with_reducible refine emit_kept ?_ ?_ | with_reducible refine retire_kept ?_ | split | dsimp only
    | dsimp only [State.keeps]

theorem exitRead_kept (list : Option Nat) {s : State} (hmem : s.keeps iv) : (State.exitRead s list).kept iv := by
  unfold State.exitRead
  repeat' first
    | with_reducible assumption | with_reducible refine poolCorrect_kept _ _ _ ?_ | with_reducible refine drainAll_kept _ ?_
    | with_reducible refine fenceEnd_kept _ ?_ | with_reducible refine exitEnd_kept _ ?_
    | with_reducible refine trapOf_kept _ _ _ ?_ | with_reducible refine trap_kept ?_ | with_reducible refine block_kept ?_
    | split | dsimp only | dsimp only [State.keeps]

theorem exitGo_kept (list : Option Nat) (read : Option (List Word))
    {s : State} (hmem : s.keeps iv) : (State.exitGo s list read).kept iv := by
  unfold State.exitGo
  repeat' first
    | with_reducible assumption | with_reducible refine fenceEnd_kept _ ?_ | with_reducible refine exitRead_kept _ ?_
    | with_reducible refine exitEnd_kept _ ?_ | split | dsimp only | dsimp only [State.keeps]

theorem execExit_kept (g : Guard) (a : GReg) {s : State} (hmem : s.keeps iv) : outKept iv (execExit g a s) := by
  unfold execExit
  repeat' first
    | with_reducible assumption | with_reducible refine exitGo_kept _ _ ?_
    | with_reducible refine issue_kept _ ?_ (fun _ _ => ?_)
    | with_reducible refine await_kept _ _ ?_ (fun _ _ => ?_) (fun _ _ => ?_) | with_reducible refine trap_kept ?_
    | with_reducible refine next_kept ?_ | with_reducible exact trivial | with_reducible refine id_kept ?_ | split
    | dsimp only | dsimp only [State.keeps]

theorem execExitDrainDone_kept (tid : Nat) {s : State} (hmem : s.keeps iv) : outKept iv (execExitDrainDone tid s) := by
  unfold execExitDrainDone
  repeat' first
    | with_reducible assumption | with_reducible refine exitGo_kept _ _ ?_
    | with_reducible refine wake_kept _ _ ?_ (fun _ _ _ => ?_) | with_reducible exact again_kept
    | with_reducible refine next_kept ?_ | with_reducible exact trivial | split | dsimp only | dsimp only [State.keeps]

theorem detachEnd_kept {s : State} (hmem : s.keeps iv) : (State.detachEnd s).keeps iv := by
  unfold State.detachEnd
  repeat' first
    | with_reducible assumption | exact rfl | with_reducible refine modLaunch_kept _ _ ?_
    | with_reducible refine countGone_kept _ ?_ | with_reducible refine modCore_kept _ _ ?_
    | with_reducible refine modTh_kept _ ?_ | with_reducible refine emit_kept ?_ ?_ | split | dsimp only
    | dsimp only [State.keeps]

theorem execDetach_kept (g : Guard) {s : State} (hmem : s.keeps iv) : outKept iv (execDetach g s) := by
  unfold execDetach
  repeat' first
    | with_reducible assumption | with_reducible refine detachEnd_kept ?_ | with_reducible refine trapOf_kept _ _ _ ?_
    | with_reducible refine issue_kept _ ?_ (fun _ _ => ?_)
    | with_reducible refine await_kept _ _ ?_ (fun _ _ => ?_) (fun _ _ => ?_) | with_reducible refine retire_kept ?_
    | with_reducible refine next_kept ?_ | with_reducible exact trivial | with_reducible refine id_kept ?_ | split
    | dsimp only | dsimp only [State.keeps]

theorem execDetachStep_kept (tid : Nat) {s : State} (hmem : s.keeps iv) : outKept iv (execDetachStep tid s) := by
  unfold execDetachStep
  repeat' first
    | with_reducible assumption | with_reducible refine detachEnd_kept ?_
    | with_reducible refine wake_kept _ _ ?_ (fun _ _ _ => ?_) | with_reducible refine retire_kept ?_
    | with_reducible refine next_kept ?_ | with_reducible exact trivial | split | dsimp only | dsimp only [State.keeps]

theorem execTeamid_kept (g : Guard) (d : GReg) {s : State} (hmem : s.keeps iv) : outKept iv (execTeamid g d s) := by
  unfold execTeamid
  repeat' first
    | with_reducible assumption | with_reducible refine stage_kept _ _ ?_ | with_reducible refine setG_kept _ _ ?_
    | with_reducible refine issue_kept _ ?_ (fun _ _ => ?_) | with_reducible refine retire_kept ?_
    | with_reducible refine next_kept ?_ | with_reducible exact trivial | split | dsimp only | dsimp only [State.keeps]

theorem execYield_kept (g : Guard) {s : State} (hmem : s.keeps iv) : outKept iv (execYield g s) := by
  unfold execYield
  repeat' first
    | with_reducible assumption | with_reducible refine modTh_kept _ ?_ | with_reducible refine stage_kept _ _ ?_
    | with_reducible refine issue_kept _ ?_ (fun _ _ => ?_) | with_reducible refine retire_kept ?_
    | with_reducible refine jump_kept ?_ | with_reducible refine next_kept ?_ | with_reducible exact trivial | split
    | dsimp only | dsimp only [State.keeps]

/-! ## Context -/

theorem imagePlace_kept (m : Nat) (part : Option Nat) (va : Nat) (write : Bool)
    {s : State} (hmem : s.keeps iv) : (State.imagePlace s m part va write).2.keeps iv := by
  unfold State.imagePlace
  repeat' first
    | with_reducible assumption | with_reducible refine readAt_kept _ _ _ _ ?_ | with_reducible refine orPte_kept _ _ _ ?_
    | with_reducible refine foldl_kept ?_ (fun _ _ _ => ?_) | split | dsimp only | dsimp only [State.keeps]

theorem imageWrite_kept (m : Nat) (part : Option Nat) : ∀ (fuel va : Nat) (bs : List Byte) {s : State}, s.keeps iv →
    (s.imageWrite m part fuel va bs).2.keeps iv
  | 0, _, _, _, h => h
  | fuel + 1, va, bs, s, h => by
    unfold State.imageWrite
    split
    · exact h
    · split
      · rename_i he
        exact snd_kept he (imagePlace_kept _ _ _ _ h)
      · rename_i he
        have h2 := snd_kept he (imagePlace_kept _ _ _ _ h)
        split
        · exact h2
        · exact imageWrite_kept m part fuel _ _ (unitWrite_kept _ _ _ (touch_kept _ _ _ h2))

theorem imageRead_kept (m : Nat) (part : Option Nat) : ∀ (n va : Nat) {s : State}, s.keeps iv →
    (s.imageRead m part va n).2.keeps iv
  | 0, _, _, h => h
  | n + 1, va, s, h => by
    unfold State.imageRead
    split
    · rename_i he
      exact snd_kept he (imagePlace_kept _ _ _ _ h)
    · rename_i he
      have h2 := snd_kept he (imagePlace_kept _ _ _ _ h)
      split
      · exact h2
      · split
        · rename_i he2
          exact snd_kept he2 (imageRead_kept m part n (va + 64) (readAt_kept _ _ _ _ h2))
        · exact imageRead_kept m part n (va + 64) (readAt_kept _ _ _ _ h2)

theorem requestStop_kept (c : Nat) {s : State} (hmem : s.keeps iv) : (State.requestStop s c).keeps iv := by
  unfold State.requestStop
  repeat' first
    | with_reducible assumption | with_reducible refine setThread_kept _ _ ?_ | with_reducible refine modCore_kept _ _ ?_
    | with_reducible refine foldl_kept ?_ (fun _ _ _ => ?_) | split | dsimp only | dsimp only [State.keeps]

theorem markStopped_kept (c : Nat) {s : State} (hmem : s.keeps iv) : (State.markStopped s c).keeps iv := by
  unfold State.markStopped
  repeat' first
    | with_reducible assumption | with_reducible refine modCore_kept _ _ ?_ | split | dsimp only | dsimp only [State.keeps]

theorem vacate_kept (c : Nat) {s : State} (hmem : s.keeps iv) : (State.vacate s c).keeps iv := by
  unfold State.vacate
  repeat' first
    | with_reducible assumption | with_reducible refine kept_filter _ ?_ | with_reducible refine freeCore_kept _ ?_ | split
    | dsimp only | dsimp only [State.keeps]

theorem saveTeam_kept (c : Nat) (tm : Team) (area : Nat)
    {s : State} (hmem : s.keeps iv) : (State.saveTeam s c tm area).1.keeps iv := by
  unfold State.saveTeam
  repeat' first
    | with_reducible assumption | with_reducible refine releaseCore_kept _ _ ?_ | with_reducible refine markStopped_kept _ ?_
    | with_reducible refine snd_kept (by assumption) (imageWrite_kept _ _ _ _ _ ?_)
    | with_reducible refine imageWrite_kept _ _ _ _ _ ?_ | with_reducible refine modLaunch_kept _ _ ?_
    | with_reducible refine drainAll_kept _ ?_ | with_reducible refine vacate_kept _ ?_
    | with_reducible refine foldl_kept ?_ (fun _ _ _ => ?_) | split | dsimp only | dsimp only [State.keeps]

theorem discardTeam_kept (c : Nat) (tm : Team)
    {s : State} (hmem : s.keeps iv) : (State.discardTeam s c tm).1.keeps iv := by
  unfold State.discardTeam
  repeat' first
    | with_reducible assumption | exact rfl | with_reducible refine setFate_kept _ _ _ ?_
    | with_reducible refine vacate_kept _ ?_ | with_reducible refine emit_kept ?_ ?_ | split | dsimp only
    | dsimp only [State.keeps]

theorem restoreReq_kept (r : Req) {s : State} (hmem : s.keeps iv) : (State.restoreReq s r).keeps iv := by
  unfold State.restoreReq
  repeat' first
    | with_reducible assumption | with_reducible refine modThread_kept _ _ ?_
    | with_reducible refine snd_kept (by assumption) (fresh_kept ?_) | with_reducible refine fresh_kept ?_
    | with_reducible refine amo_kept _ _ _ _ _ _ _ _ ?_ | with_reducible refine id_kept ?_ | split | dsimp only
    | dsimp only [State.keeps]

theorem landPool_kept (c : Nat) (body : List Byte) {s : State} (hmem : s.keeps iv) : (s.landPool c body).keeps iv :=
  kept_writeBytes _ (kept_clear _ _ hmem)

theorem landTeam_kept (c : Nat) (x : SavedTeam) (threads : Nat) (body : List Byte)
    {s : State} (hmem : s.keeps iv) : (State.landTeam s c x threads body).keeps iv := by
  unfold State.landTeam
  repeat' first
    | with_reducible assumption | with_reducible refine restoreReq_kept _ ?_ | with_reducible refine setThread_kept _ _ ?_
    | with_reducible refine modLaunch_kept _ _ ?_ | with_reducible refine countGone_kept _ ?_
    | with_reducible refine landPool_kept _ _ ?_ | with_reducible refine setCore_kept _ _ ?_
    | with_reducible refine foldl_kept ?_ (fun _ _ _ => ?_) | split | dsimp only | dsimp only [State.keeps]

theorem loadTeam_kept (c : Nat) (area : Nat)
    {s : State} (hmem : s.keeps iv) : (State.loadTeam s c area).1.keeps iv := by
  unfold State.loadTeam
  repeat' first
    | with_reducible assumption | with_reducible refine snd_kept (by assumption) (imageRead_kept _ _ _ _ ?_)
    | with_reducible refine imageRead_kept _ _ _ _ ?_ | with_reducible refine landTeam_kept _ _ _ _ ?_ | split | dsimp only
    | dsimp only [State.keeps]

theorem latchStopped_kept (id : Nat) {s : State} (hmem : s.keeps iv) : (State.latchStopped s id).keeps iv := by
  unfold State.latchStopped
  repeat' first
    | with_reducible assumption | with_reducible refine id_kept ?_ | split | dsimp only | dsimp only [State.keeps]

theorem waiting_isEvent (c : Nat) (r : Req) (e : Instr) (h : (match r.st with
    | .waiting => some r.event
    | .refused => some (.retryTimer c (r.stream.getD 0))
    | _ => none) = some e) : isEvent e = true := by
  split at h <;> cases h
  · exact Req.event_isEvent _
  · rfl

theorem startStopped_kept (c : Nat) {s : State} (hmem : s.keeps iv) : (s.startStopped c).1.keeps iv := by
  unfold State.startStopped
  split
  · exact hmem
  · split
    · exact hmem
    · refine emits_kept (all_filterMap (fun r e h => waiting_isEvent c r e h)) ?_
      refine foldl_kept (foldl_kept (modCore_kept _ _ (latchStopped_kept _ hmem)) (fun _ _ h => ?_)) (fun _ _ h => goOn_kept _ _ h)
      dsimp only
      split
      · exact setThread_kept _ _ h
      · exact h

theorem contextIssue_kept (load : Bool) (g : Guard) (a : GReg)
    {s : State} (hmem : s.keeps iv) : outKept iv (contextIssue load g a s) := by
  unfold contextIssue
  repeat' first
    | with_reducible assumption | with_reducible refine poolCorrect_kept _ _ _ ?_ | with_reducible refine trapOf_kept _ _ _ ?_
    | with_reducible refine issue_kept _ ?_ (fun _ _ => ?_) | with_reducible refine retire_kept ?_
    | with_reducible refine trap_kept ?_ | with_reducible refine block_kept ?_ | with_reducible refine next_kept ?_
    | with_reducible exact trivial | split | dsimp only | dsimp only [State.keeps]

theorem execCtxsvStop_kept (g : Guard) (a : GReg) {s : State} (hmem : s.keeps iv) : outKept iv (execCtxsvStop g a s) := by
  unfold execCtxsvStop
  repeat' first
    | with_reducible assumption | with_reducible refine contextIssue_kept _ _ _ ?_ | with_reducible refine next_kept ?_
    | with_reducible exact trivial | split | dsimp only | dsimp only [State.keeps]

theorem execCtxldLoad_kept (g : Guard) (a : GReg) {s : State} (hmem : s.keeps iv) : outKept iv (execCtxldLoad g a s) := by
  unfold execCtxldLoad
  repeat' first
    | with_reducible assumption | with_reducible refine contextIssue_kept _ _ _ ?_ | with_reducible refine next_kept ?_
    | with_reducible exact trivial | split | dsimp only | dsimp only [State.keeps]

theorem contextEnd_kept (op c : Nat) (tm : Team) (area : Nat) {s : State} (hmem : s.keeps iv) :
    (s.contextEnd op c tm area).1.keeps iv := by
  unfold State.contextEnd
  split
  · exact markStopped_kept _ hmem
  · have h := saveTeam_kept c tm area hmem
    exact h
  · have h := discardTeam_kept c tm hmem
    exact h

theorem contextTry_kept (op c area : Nat) {s : State} (hmem : s.keeps iv) : (s.contextTry op c area).1.keeps iv := by
  have hr : (s.requestStop c).keeps iv := requestStop_kept _ hmem
  have hl : (s.loadTeam c area).1.keeps iv := loadTeam_kept _ _ hmem
  unfold State.contextTry
  split
  · split
    · exact hmem
    · split
      · exact hr
      · split
        · exact hr
        · exact contextEnd_kept _ _ _ _ hr
  · split
    · exact hl
    · split
      · exact startStopped_kept _ hmem
      · split
        · exact startStopped_kept _ hl
        · exact hl

theorem contextGo_kept (tid : Nat) (op : Nat)
    {s : State} (hmem : s.keeps iv) : (State.contextGo s tid op).keeps iv := by
  unfold State.contextGo
  repeat' first
    | with_reducible assumption | with_reducible refine fst_kept (by assumption) (contextTry_kept _ _ _ ?_)
    | with_reducible refine contextTry_kept _ _ _ ?_ | with_reducible refine ownWrite_kept _ _ _ ?_
    | with_reducible refine wake_kept _ _ ?_ (fun _ _ _ => ?_) | with_reducible refine retire_kept ?_ | split | dsimp only
    | dsimp only [State.keeps]

theorem execCtxsvSave_kept (tid : Nat) {s : State} (hmem : s.keeps iv) : outKept iv (execCtxsvSave tid s) := by
  unfold execCtxsvSave
  repeat' first
    | with_reducible assumption | with_reducible refine contextGo_kept _ _ ?_ | with_reducible refine next_kept ?_
    | with_reducible exact trivial | split | dsimp only | dsimp only [State.keeps]

theorem execCtxsvDiscard_kept (tid : Nat) {s : State} (hmem : s.keeps iv) : outKept iv (execCtxsvDiscard tid s) := by
  unfold execCtxsvDiscard
  repeat' first
    | with_reducible assumption | with_reducible refine contextGo_kept _ _ ?_ | with_reducible refine next_kept ?_
    | with_reducible exact trivial | split | dsimp only | dsimp only [State.keeps]

theorem execCtxldStart_kept (tid : Nat) {s : State} (hmem : s.keeps iv) : outKept iv (execCtxldStart tid s) := by
  unfold execCtxldStart
  repeat' first
    | with_reducible assumption | with_reducible refine contextGo_kept _ _ ?_ | with_reducible refine next_kept ?_
    | with_reducible exact trivial | split | dsimp only | dsimp only [State.keeps]

theorem execCtxldLoadStart_kept (tid : Nat) {s : State} (hmem : s.keeps iv) : outKept iv (execCtxldLoadStart tid s) := by
  unfold execCtxldLoadStart
  repeat' first
    | with_reducible assumption | with_reducible refine contextGo_kept _ _ ?_ | with_reducible refine next_kept ?_
    | with_reducible exact trivial | split | dsimp only | dsimp only [State.keeps]

/-! ## System -/

theorem afterEvent_kept {o : Host.Outcome State Fault Refusal} {s : State} (ho : outKept iv o) (hmem : s.keeps iv) :
    (afterEvent o s).keeps iv := by
  unfold afterEvent
  split
  · exact ho
  · exact hmem

theorem execMfs_kept (g : Guard) (d : GReg) (r : BitVec 10)
    {s : State} (hmem : s.keeps iv) : outKept iv (execMfs g d r s) := by
  unfold execMfs
  repeat' first
    | with_reducible assumption | with_reducible refine setG_kept _ _ ?_ | with_reducible refine trapOf_kept _ _ _ ?_
    | with_reducible refine issue_kept _ ?_ (fun _ _ => ?_) | with_reducible refine retire_kept ?_
    | with_reducible refine next_kept ?_ | with_reducible exact trivial | split | dsimp only | dsimp only [State.keeps]

theorem writeChst_kept (c n : Nat) (w : Word)
    {s : State} (hmem : s.keeps iv) : (State.writeChst s c n w).keeps iv := by
  unfold State.writeChst
  repeat' first
    | with_reducible assumption | with_reducible refine execChstFaultResume_kept _ _ ?_
    | with_reducible refine execChstAbort_kept _ _ ?_ | with_reducible refine afterEvent_kept ?_ ?_ | split | dsimp only
    | dsimp only [State.keeps]

theorem execHaltselRun_kept (module part : Nat)
    {s : State} (hmem : s.keeps iv) : outKept iv (execHaltselRun module part s) := by
  unfold execHaltselRun
  repeat' first
    | with_reducible assumption | with_reducible refine redispatch_kept ?_ | with_reducible refine release_kept _ ?_
    | with_reducible refine next_kept ?_ | with_reducible exact trivial | split | dsimp only | dsimp only [State.keeps]

theorem writeSys_kept (tid n : Nat) (w : Word)
    {s : State} (hmem : s.keeps iv) : (State.writeSys s tid n w).keeps iv := by
  unfold State.writeSys
  repeat' first
    | with_reducible assumption | exact rfl | with_reducible refine setPartition_kept _ _ _ ?_
    | with_reducible refine setHostQueue_kept _ _ _ ?_ | with_reducible refine modThread_kept _ _ ?_
    | with_reducible refine modModule_kept _ _ ?_ | with_reducible refine execHqtailWrite_kept _ _ _ ?_
    | with_reducible refine writeChst_kept _ _ _ ?_ | with_reducible refine execHaltselRun_kept _ _ ?_
    | with_reducible refine modCore_kept _ _ ?_ | with_reducible refine modDie_kept _ _ ?_
    | with_reducible refine emit_kept ?_ ?_ | with_reducible refine afterEvent_kept ?_ ?_ | with_reducible refine ite_wf ?_ ?_
    | split | dsimp only | dsimp only [State.keeps]

theorem execMts_kept (g : Guard) (a : GReg) (r : BitVec 10)
    {s : State} (hmem : s.keeps iv) : outKept iv (execMts g a r s) := by
  unfold execMts
  repeat' first
    | with_reducible assumption | with_reducible refine writeSys_kept _ _ _ ?_
    | with_reducible refine issue_kept _ ?_ (fun _ _ => ?_) | with_reducible refine retire_kept ?_
    | with_reducible refine next_kept ?_ | with_reducible exact trivial | split | dsimp only | dsimp only [State.keeps]

theorem settleView_kept (tid : Nat) (p w : Word)
    {s : State} (hmem : s.keeps iv) : (State.settleView s tid p w).keeps iv := by
  unfold State.settleView
  repeat' first
    | with_reducible assumption | with_reducible refine drainThrough_kept _ _ ?_ | split | dsimp only
    | dsimp only [State.keeps]

theorem execPubSlotWrite_kept (g : Guard) (n : Fin 4) (a : GReg)
    {s : State} (hmem : s.keeps iv) : outKept iv (execPubSlotWrite g n a s) := by
  unfold execPubSlotWrite
  repeat' first
    | with_reducible assumption | with_reducible refine settleView_kept _ _ _ ?_ | with_reducible refine modCore_kept _ _ ?_
    | with_reducible refine trapOf_kept _ _ _ ?_ | with_reducible refine issue_kept _ ?_ (fun _ _ => ?_)
    | with_reducible refine retire_kept ?_ | with_reducible refine next_kept ?_ | with_reducible exact trivial | split
    | dsimp only | dsimp only [State.keeps]

theorem execAccrWrite_kept (g : Guard) (a : GReg) {s : State} (hmem : s.keeps iv) : outKept iv (execAccrWrite g a s) := by
  unfold execAccrWrite
  repeat' first
    | with_reducible assumption | with_reducible refine modTh_kept _ ?_ | with_reducible refine trapOf_kept _ _ _ ?_
    | with_reducible refine issue_kept _ ?_ (fun _ _ => ?_) | with_reducible refine retire_kept ?_
    | with_reducible refine next_kept ?_ | with_reducible exact trivial | split | dsimp only | dsimp only [State.keeps]

theorem execIcinvWrite_kept (g : Guard) (a : GReg) {s : State} (hmem : s.keeps iv) : outKept iv (execIcinvWrite g a s) := by
  unfold execIcinvWrite
  repeat' first
    | with_reducible assumption | with_reducible refine issue_kept _ ?_ (fun _ _ => ?_) | with_reducible refine retire_kept ?_
    | with_reducible refine next_kept ?_ | with_reducible exact trivial | split | dsimp only | dsimp only [State.keeps]

theorem assignQuad_kept (q : Nat) (p : Option Nat)
    {s : State} (hmem : s.keeps iv) : (State.assignQuad s q p).keeps iv := by
  unfold State.assignQuad
  repeat' first
    | with_reducible assumption | with_reducible refine modCore_kept _ _ ?_ | with_reducible refine modQuad_kept _ _ ?_
    | with_reducible refine foldl_kept ?_ (fun _ _ _ => ?_) | split | dsimp only | dsimp only [State.keeps]

theorem execAsgpartWrite_kept (g : Guard) (a : GReg)
    {s : State} (hmem : s.keeps iv) : outKept iv (execAsgpartWrite g a s) := by
  unfold execAsgpartWrite
  repeat' first
    | with_reducible assumption | with_reducible refine redispatch_kept ?_ | with_reducible refine assignQuad_kept _ _ ?_
    | with_reducible refine modModule_kept _ _ ?_ | with_reducible refine modDie_kept _ _ ?_
    | with_reducible refine trapOf_kept _ _ _ ?_ | with_reducible refine issue_kept _ ?_ (fun _ _ => ?_)
    | with_reducible refine retire_kept ?_ | with_reducible refine next_kept ?_ | with_reducible exact trivial | split
    | dsimp only | dsimp only [State.keeps]

theorem execTrap_kept (g : Guard) (b : Fin 32) {s : State} (hmem : s.keeps iv) : outKept iv (execTrap g b s) := by
  unfold execTrap
  repeat' first
    | with_reducible assumption | with_reducible refine issue_kept _ ?_ (fun _ _ => ?_) | with_reducible refine trap_kept ?_
    | with_reducible refine next_kept ?_ | with_reducible exact trivial | split | dsimp only | dsimp only [State.keeps]

theorem execBrk_kept (g : Guard) {s : State} (hmem : s.keeps iv) : outKept iv (execBrk g s) := by
  unfold execBrk
  repeat' first
    | with_reducible assumption | with_reducible refine trapOf_kept _ _ _ ?_
    | with_reducible refine issue_kept _ ?_ (fun _ _ => ?_) | with_reducible refine next_kept ?_
    | with_reducible exact trivial | split | dsimp only | dsimp only [State.keeps]

theorem execRett_kept (g : Guard) {s : State} (hmem : s.keeps iv) : outKept iv (execRett g s) := by
  unfold execRett
  repeat' first
    | with_reducible assumption | with_reducible refine modTh_kept _ ?_ | with_reducible refine trapOf_kept _ _ _ ?_
    | with_reducible refine issue_kept _ ?_ (fun _ _ => ?_) | with_reducible refine jump_kept ?_
    | with_reducible refine next_kept ?_ | with_reducible exact trivial | split | dsimp only | dsimp only [State.keeps]

theorem execReservedEncoding_kept {s : State} (hmem : s.keeps iv) : outKept iv (execReservedEncoding s) := by
  unfold execReservedEncoding
  split
  · trivial
  · exact finish_kept _ hmem (trapOf_kept _ _ _ hmem)

theorem execTrapEntry_kept (tid : Nat) {s : State} (hmem : s.keeps iv) : outKept iv (execTrapEntry tid s) := by
  unfold execTrapEntry
  repeat' first
    | with_reducible assumption | with_reducible refine enterTrap_kept _ _ _ ?_ | with_reducible refine trap_kept ?_
    | with_reducible refine next_kept ?_ | with_reducible exact trivial | split | dsimp only | dsimp only [State.keeps]

theorem execWatchdogExpiry_kept (tid : Nat) {s : State} (hmem : s.keeps iv) : outKept iv (execWatchdogExpiry tid s) := by
  unfold execWatchdogExpiry
  repeat' first
    | with_reducible assumption | with_reducible refine pend_kept _ _ ?_ | with_reducible refine next_kept ?_
    | with_reducible exact trivial | split | dsimp only | dsimp only [State.keeps]

theorem haltPartition_kept (part cause : Nat)
    {s : State} (hmem : s.keeps iv) : (State.haltPartition s part cause).keeps iv := by
  unfold State.haltPartition
  repeat' first
    | with_reducible assumption | exact rfl | with_reducible refine all_map (fun _ => ?_)
    | with_reducible refine all_filter ?_ | with_reducible exact all_nil | with_reducible refine haltCore_kept _ _ _ ?_
    | with_reducible refine emits_kept ?_ ?_ | with_reducible refine foldl_kept ?_ (fun _ _ _ => ?_) | split | dsimp only
    | dsimp only [State.keeps]

theorem execHalt_kept (g : Guard) {s : State} (hmem : s.keeps iv) : outKept iv (execHalt g s) := by
  unfold execHalt
  repeat' first
    | with_reducible assumption | with_reducible refine haltPartition_kept _ _ ?_
    | with_reducible refine issue_kept _ ?_ (fun _ _ => ?_) | with_reducible refine retire_kept ?_
    | with_reducible refine next_kept ?_ | with_reducible exact trivial | split | dsimp only | dsimp only [State.keeps]

theorem execHaltRecords_kept (module part cause : Nat)
    {s : State} (hmem : s.keeps iv) : outKept iv (execHaltRecords module part cause s) := by
  unfold execHaltRecords
  repeat' first
    | with_reducible assumption | exact rfl | with_reducible refine unitWrite_kept _ _ _ ?_
    | with_reducible refine modCore_kept _ _ ?_ | with_reducible refine touch_kept _ _ _ ?_
    | with_reducible refine emit_kept ?_ ?_ | with_reducible refine foldl_kept ?_ (fun _ _ _ => ?_)
    | with_reducible refine next_kept ?_ | with_reducible exact trivial | split | dsimp only | dsimp only [State.keeps]

theorem execTimens_kept (g : Guard) (d : GReg) {s : State} (hmem : s.keeps iv) : outKept iv (execTimens g d s) := by
  unfold execTimens
  repeat' first
    | with_reducible assumption | with_reducible refine setG_kept _ _ ?_
    | with_reducible refine issue_kept _ ?_ (fun _ _ => ?_) | with_reducible refine retire_kept ?_
    | with_reducible refine next_kept ?_ | with_reducible exact trivial | split | dsimp only | dsimp only [State.keeps]

theorem execSleep_kept (g : Guard) (a : GReg) {s : State} (hmem : s.keeps iv) : outKept iv (execSleep g a s) := by
  unfold execSleep
  repeat' first
    | with_reducible assumption | with_reducible refine issue_kept _ ?_ (fun _ _ => ?_)
    | with_reducible refine await_kept _ _ ?_ (fun _ _ => ?_) (fun _ _ => ?_) | with_reducible refine retire_kept ?_
    | with_reducible refine next_kept ?_ | with_reducible exact trivial | with_reducible refine id_kept ?_ | split
    | dsimp only | dsimp only [State.keeps]

theorem execSleepm_kept (g : Guard) (a : GReg) {s : State} (hmem : s.keeps iv) : outKept iv (execSleepm g a s) := by
  unfold execSleepm
  repeat' first
    | with_reducible assumption | with_reducible refine issue_kept _ ?_ (fun _ _ => ?_)
    | with_reducible refine await_kept _ _ ?_ (fun _ _ => ?_) (fun _ _ => ?_) | with_reducible refine retire_kept ?_
    | with_reducible refine next_kept ?_ | with_reducible exact trivial | with_reducible refine id_kept ?_ | split
    | dsimp only | dsimp only [State.keeps]

theorem execSleepWake_kept (tid : Nat) {s : State} (hmem : s.keeps iv) : outKept iv (execSleepWake tid s) := by
  unfold execSleepWake
  repeat' first
    | with_reducible assumption | with_reducible refine wake_kept _ _ ?_ (fun _ _ _ => ?_)
    | with_reducible refine retire_kept ?_ | with_reducible refine next_kept ?_ | with_reducible exact trivial | split
    | dsimp only | dsimp only [State.keeps]

theorem execPerf_kept (g : Guard) (d a : GReg) {s : State} (hmem : s.keeps iv) : outKept iv (execPerf g d a s) := by
  unfold execPerf
  repeat' first
    | with_reducible assumption | with_reducible refine modCore_kept _ _ ?_ | with_reducible refine setG_kept _ _ ?_
    | with_reducible refine trapOf_kept _ _ _ ?_ | with_reducible refine issue_kept _ ?_ (fun _ _ => ?_)
    | with_reducible refine retire_kept ?_ | with_reducible refine next_kept ?_ | with_reducible exact trivial | split
    | dsimp only | dsimp only [State.keeps]

theorem execTrace_kept (g : Guard) (a : GReg) {s : State} (hmem : s.keeps iv) : outKept iv (execTrace g a s) := by
  unfold execTrace
  repeat' first
    | with_reducible assumption | with_reducible refine trace_kept _ _ _ _ _ _ _ ?_
    | with_reducible refine issue_kept _ ?_ (fun _ _ => ?_) | with_reducible refine retire_kept ?_
    | with_reducible refine next_kept ?_ | with_reducible exact trivial | split | dsimp only | dsimp only [State.keeps]

/-! ## Module -/

theorem discardModule_kept (m : Nat) {s : State} (hmem : s.keeps iv) : (s.discardModule m).keeps iv := by
  unfold State.discardModule
  exact emits_kept (all_map (fun _ => rfl)) (kept_clear _ _ hmem)

theorem execPowerGood_kept (module : Nat) {s : State} (hmem : s.keeps iv) : outKept iv (execPowerGood module s) := by
  unfold execPowerGood
  repeat' first
    | with_reducible assumption | exact rfl | with_reducible refine modModule_kept _ _ ?_
    | with_reducible refine reset_kept ?_ | with_reducible refine emit_kept ?_ ?_ | with_reducible refine next_kept ?_
    | with_reducible exact trivial | split | dsimp only | dsimp only [State.keeps]

theorem execClocksStarted_kept (module : Nat) {s : State} (hmem : s.keeps iv) : outKept iv (execClocksStarted module s) := by
  unfold execClocksStarted
  repeat' first
    | with_reducible assumption | exact rfl | with_reducible refine modModule_kept _ _ ?_
    | with_reducible refine reset_kept ?_ | with_reducible refine emit_kept ?_ ?_ | with_reducible refine next_kept ?_
    | with_reducible exact trivial | split | dsimp only | dsimp only [State.keeps]

theorem execRomImageVerify_kept (module : Nat)
    {s : State} (hmem : s.keeps iv) : outKept iv (execRomImageVerify module s) := by
  unfold execRomImageVerify
  repeat' first
    | with_reducible assumption | with_reducible refine setModule_kept _ _ ?_ | with_reducible refine next_kept ?_
    | with_reducible exact trivial | split | dsimp only | dsimp only [State.keeps]

theorem startFirmware_kept (m : Nat) {s : State} (hmem : s.keeps iv) : (State.startFirmware s m).keeps iv := by
  unfold State.startFirmware
  repeat' first
    | with_reducible assumption | with_reducible refine setThread_kept _ _ ?_
    | with_reducible refine foldl_kept ?_ (fun _ _ _ => ?_) | split | dsimp only | dsimp only [State.keeps]

theorem execTrainComplete_kept (module : Nat) (ok : Bool)
    {s : State} (hmem : s.keeps iv) : outKept iv (execTrainComplete module ok s) := by
  unfold execTrainComplete
  repeat' first
    | with_reducible assumption | with_reducible refine startFirmware_kept _ ?_ | with_reducible refine setModule_kept _ _ ?_
    | with_reducible refine next_kept ?_ | with_reducible exact trivial | with_reducible refine kept_clear _ _ ?_ | split
    | dsimp only | dsimp only [State.keeps]

theorem execMreset_kept (module : Nat) {s : State} (hmem : s.keeps iv) : outKept iv (execMreset module s) := by
  unfold execMreset
  repeat' first
    | with_reducible assumption | exact rfl | with_reducible refine discardModule_kept _ ?_
    | with_reducible refine modModule_kept _ _ ?_ | with_reducible refine emit_kept ?_ ?_ | with_reducible refine next_kept ?_
    | with_reducible exact trivial | split | dsimp only | dsimp only [State.keeps]

theorem execHaltreq_kept (module : Nat) {s : State} (hmem : s.keeps iv) : outKept iv (execHaltreq module s) := by
  unfold execHaltreq
  repeat' first
    | with_reducible assumption | with_reducible refine haltPartition_kept _ _ ?_ | with_reducible refine next_kept ?_
    | with_reducible exact trivial | split | dsimp only | dsimp only [State.keeps]

theorem execPowerLoss_kept (module : Nat) {s : State} (hmem : s.keeps iv) : outKept iv (execPowerLoss module s) := by
  unfold execPowerLoss
  repeat' first
    | with_reducible assumption | with_reducible refine discardModule_kept _ ?_ | with_reducible refine modModule_kept _ _ ?_
    | with_reducible refine next_kept ?_ | with_reducible exact trivial | with_reducible refine kept_clear _ _ ?_ | split
    | dsimp only | dsimp only [State.keeps]

theorem execPcieLinkTraining_kept (module width rate : Nat)
    {s : State} (hmem : s.keeps iv) : outKept iv (execPcieLinkTraining module width rate s) := by
  unfold execPcieLinkTraining
  repeat' first
    | with_reducible assumption | with_reducible refine modModule_kept _ _ ?_ | with_reducible refine next_kept ?_
    | with_reducible exact trivial | split | dsimp only | dsimp only [State.keeps]

theorem execIdent_kept (module : Nat) {s : State} (hmem : s.keeps iv) : outKept iv (execIdent module s) := by
  unfold execIdent
  repeat' first
    | with_reducible assumption | with_reducible refine setModule_kept _ _ ?_ | with_reducible refine reset_kept ?_
    | with_reducible refine reply_kept _ _ _ ?_ | with_reducible refine next_kept ?_ | with_reducible exact trivial | split
    | dsimp only | dsimp only [State.keeps]

theorem execAttest_kept (module : Nat) {s : State} (hmem : s.keeps iv) : outKept iv (execAttest module s) := by
  unfold execAttest
  repeat' first
    | with_reducible assumption | with_reducible refine setModule_kept _ _ ?_ | with_reducible refine reply_kept _ _ _ ?_
    | with_reducible refine next_kept ?_ | with_reducible exact trivial | split | dsimp only | dsimp only [State.keeps]

theorem execFwload_kept (module : Nat) {s : State} (hmem : s.keeps iv) : outKept iv (execFwload module s) := by
  unfold execFwload
  repeat' first
    | with_reducible assumption | with_reducible refine setModule_kept _ _ ?_ | with_reducible refine reply_kept _ _ _ ?_
    | with_reducible refine next_kept ?_ | with_reducible exact trivial | split | dsimp only | dsimp only [State.keeps]

theorem execFwcommit_kept (module : Nat) {s : State} (hmem : s.keeps iv) : outKept iv (execFwcommit module s) := by
  unfold execFwcommit
  repeat' first
    | with_reducible assumption | exact rfl | with_reducible refine setModule_kept _ _ ?_
    | with_reducible refine reply_kept _ _ _ ?_ | with_reducible refine emit_kept ?_ ?_ | with_reducible refine next_kept ?_
    | with_reducible exact trivial | split | dsimp only | dsimp only [State.keeps]

theorem execMailboxBadOperation_kept (module : Nat)
    {s : State} (hmem : s.keeps iv) : outKept iv (execMailboxBadOperation module s) := by
  unfold execMailboxBadOperation
  repeat' first
    | with_reducible assumption | with_reducible refine setModule_kept _ _ ?_ | with_reducible refine reply_kept _ _ _ ?_
    | with_reducible refine next_kept ?_ | with_reducible exact trivial | split | dsimp only | dsimp only [State.keeps]

theorem mailboxCommand_kept (m : Nat) (w : Word)
    {s : State} (hmem : s.keeps iv) : (State.mailboxCommand s m w).keeps iv := by
  unfold State.mailboxCommand
  repeat' first
    | with_reducible assumption | with_reducible exact mailboxEvent_isEvent _ _ | exact rfl
    | with_reducible refine setModule_kept _ _ ?_ | with_reducible refine emit_kept ?_ ?_ | split | dsimp only
    | dsimp only [State.keeps]

theorem execTimesetWrite_kept (module val : Nat)
    {s : State} (hmem : s.keeps iv) : outKept iv (execTimesetWrite module val s) := by
  unfold execTimesetWrite
  repeat' first
    | with_reducible assumption | with_reducible refine setModule_kept _ _ ?_ | with_reducible refine next_kept ?_
    | with_reducible exact trivial | split | dsimp only | dsimp only [State.keeps]

theorem execPtpFrame_kept (module gm : Nat) {s : State} (hmem : s.keeps iv) : outKept iv (execPtpFrame module gm s) := by
  unfold execPtpFrame
  repeat' first
    | with_reducible assumption | with_reducible refine setModule_kept _ _ ?_ | with_reducible refine next_kept ?_
    | with_reducible exact trivial | split | dsimp only | dsimp only [State.keeps]

theorem execLockLoss_kept (module : Nat) {s : State} (hmem : s.keeps iv) : outKept iv (execLockLoss module s) := by
  unfold execLockLoss
  repeat' first
    | with_reducible assumption | with_reducible refine setModule_kept _ _ ?_ | with_reducible refine next_kept ?_
    | with_reducible exact trivial | split | dsimp only | dsimp only [State.keeps]

theorem execDroopDetect_kept (die : Nat) {s : State} (hmem : s.keeps iv) : outKept iv (execDroopDetect die s) := by
  unfold execDroopDetect
  repeat' first
    | with_reducible assumption | with_reducible refine modDie_kept _ _ ?_ | with_reducible refine next_kept ?_
    | with_reducible exact trivial | split | dsimp only | dsimp only [State.keeps]

theorem execDroopRecover_kept (die _cycles _ns : Nat)
    {s : State} (hmem : s.keeps iv) : outKept iv (execDroopRecover die _cycles _ns s) := by
  unfold execDroopRecover
  repeat' first
    | with_reducible assumption | with_reducible refine modDie_kept _ _ ?_ | with_reducible refine trace_kept _ _ _ _ _ _ _ ?_
    | with_reducible refine foldl_kept ?_ (fun _ _ _ => ?_) | with_reducible refine next_kept ?_
    | with_reducible exact trivial | split | dsimp only | dsimp only [State.keeps]

theorem execPowerWindow_kept (module watts : Nat)
    {s : State} (hmem : s.keeps iv) : outKept iv (execPowerWindow module watts s) := by
  unfold execPowerWindow
  repeat' first
    | with_reducible assumption | with_reducible refine modModule_kept _ _ ?_ | with_reducible refine next_kept ?_
    | with_reducible exact trivial | split | dsimp only | dsimp only [State.keeps]

theorem execThermalThrottle_kept (module temp : Nat)
    {s : State} (hmem : s.keeps iv) : outKept iv (execThermalThrottle module temp s) := by
  unfold execThermalThrottle
  repeat' first
    | with_reducible assumption | exact rfl | with_reducible refine modModule_kept _ _ ?_
    | with_reducible refine emit_kept ?_ ?_ | with_reducible refine next_kept ?_ | with_reducible exact trivial | split
    | dsimp only | dsimp only [State.keeps]

theorem execThermalTrip_kept (module temp : Nat)
    {s : State} (hmem : s.keeps iv) : outKept iv (execThermalTrip module temp s) := by
  unfold execThermalTrip
  repeat' first
    | with_reducible assumption | exact rfl | with_reducible refine haltPartition_kept _ _ ?_
    | with_reducible refine discardModule_kept _ ?_ | with_reducible refine setModule_kept _ _ ?_
    | with_reducible refine reply_kept _ _ _ ?_ | with_reducible refine emit_kept ?_ ?_
    | with_reducible refine foldl_kept ?_ (fun _ _ _ => ?_) | with_reducible refine next_kept ?_
    | with_reducible exact trivial | split | dsimp only | dsimp only [State.keeps]

theorem windowWrite_kept (m base : Nat) (low : Bool) (w : Word)
    {s : State} (hmem : s.keeps iv) : (State.windowWrite s m base low w).keeps iv := by
  unfold State.windowWrite
  repeat' first
    | with_reducible assumption | exact rfl | with_reducible refine setHostQueue_kept _ _ _ ?_
    | with_reducible refine execHqtailWrite_kept _ _ _ ?_ | with_reducible refine emit_kept ?_ ?_
    | with_reducible refine afterEvent_kept ?_ ?_ | split | dsimp only | dsimp only [State.keeps]

theorem mgmtWrite_kept (m off size val : Nat)
    {s : State} (hmem : s.keeps iv) : (State.mgmtWrite s m off size val).keeps iv := by
  unfold State.mgmtWrite
  repeat' first
    | with_reducible assumption | with_reducible refine mailboxCommand_kept _ _ ?_
    | with_reducible refine windowWrite_kept _ _ _ _ ?_ | with_reducible refine execTimesetWrite_kept _ _ ?_
    | with_reducible refine modModule_kept _ _ ?_ | with_reducible refine modDie_kept _ _ ?_
    | with_reducible refine execHaltreq_kept _ ?_ | with_reducible refine afterEvent_kept ?_ ?_
    | with_reducible refine execMreset_kept _ ?_ | with_reducible refine ite_wf ?_ ?_ | split | dsimp only
    | dsimp only [State.keeps]

theorem answer_kept (bs : List Byte) {s : State} (hmem : s.keeps iv) : (State.answer s bs).keeps iv := by
  unfold State.answer
  repeat' first
    | with_reducible assumption | split | dsimp only | dsimp only [State.keeps]

theorem badAccess_kept (bridge n : Nat) (write : Bool)
    {s : State} (hmem : s.keeps iv) : (State.badAccess s bridge n write).keeps iv := by
  unfold State.badAccess
  repeat' first
    | with_reducible assumption | with_reducible refine modModule_kept _ _ ?_ | with_reducible refine answer_kept _ ?_ | split
    | dsimp only | dsimp only [State.keeps]

theorem mgmtAccess_kept (m bridge off size : Nat) (write : Bool) (val : Nat)
    {s : State} (hmem : s.keeps iv) : (State.mgmtAccess s m bridge off size write val).keeps iv := by
  unfold State.mgmtAccess
  repeat' first
    | with_reducible assumption | with_reducible refine mgmtWrite_kept _ _ _ _ ?_
    | with_reducible refine badAccess_kept _ _ _ ?_ | with_reducible refine answer_kept _ ?_ | split | dsimp only
    | dsimp only [State.keeps]

theorem execMgmtRegisterWrite_kept (module off size : Nat) (write : Bool) (val : Nat)
    {s : State} (hmem : s.keeps iv) : outKept iv (execMgmtRegisterWrite module off size write val s) := by
  unfold execMgmtRegisterWrite
  repeat' first
    | with_reducible assumption | exact rfl | with_reducible refine mgmtAccess_kept _ _ _ _ _ _ ?_
    | with_reducible refine badAccess_kept _ _ _ ?_ | with_reducible refine emit_kept ?_ ?_
    | with_reducible refine next_kept ?_ | with_reducible exact trivial | split | dsimp only | dsimp only [State.keeps]

theorem execMgmtControlPacket_kept (module bridge off size : Nat) (write : Bool) (val : Nat)
    {s : State} (hmem : s.keeps iv) : outKept iv (execMgmtControlPacket module bridge off size write val s) := by
  unfold execMgmtControlPacket
  repeat' first
    | with_reducible assumption | with_reducible refine mgmtAccess_kept _ _ _ _ _ _ ?_
    | with_reducible refine badAccess_kept _ _ _ ?_ | with_reducible refine reset_kept ?_ | with_reducible refine next_kept ?_
    | with_reducible exact trivial | split | dsimp only | dsimp only [State.keeps]

theorem execHostBar2Access_kept (module off : Nat) (write : Bool) (bytes : List (BitVec 8))
    {s : State} (hmem : s.keeps iv) : outKept iv (execHostBar2Access module off write bytes s) := by
  unfold execHostBar2Access
  repeat' first
    | with_reducible assumption | with_reducible refine unitWrite_kept _ _ _ ?_
    | with_reducible refine badAccess_kept _ _ _ ?_ | with_reducible refine readAt_kept _ _ _ _ ?_
    | with_reducible refine answer_kept _ ?_ | with_reducible refine touch_kept _ _ _ ?_ | with_reducible refine next_kept ?_
    | with_reducible exact trivial | split | dsimp only | dsimp only [State.keeps]

end Sys2Proof.Machine
end

