-- ==== Sys2Proof/Laws/PerInstr.lean ====
section
/-!
SUPPORT. Sys2Proof/Laws/PerInstr.lean: the round trip of the encoding, one lemma per constructor of `Instr`: decoding the words of
a well-formed instruction gives the instruction back.
-/
namespace Sys2Proof

theorem Guard.code_lt (g : Guard) : g.code < 16 := by
  have := g.p.isLt
  unfold Guard.code
  cases g.neg <;> simp <;> omega

/-- The guard is the low four bits (R33). -/
theorem guardOf_add (k : Nat) (g : Guard) : guardOf (16 * k + g.code) = some g := by
  obtain ⟨neg, p⟩ := g
  have hp := p.isLt
  have h1 : bits (16 * k + Guard.code ⟨neg, p⟩) 0 3 = p.val := by unfold bits Guard.code; cases neg <;> simp <;> omega
  have h2 : bits (16 * k + Guard.code ⟨neg, p⟩) 3 1 = neg.toNat := by unfold bits Guard.code; cases neg <;> simp <;> omega
  simp only [guardOf, h1, h2, finOf, hp, dif_pos]
  cases neg <;> simp

/-- A register field that holds a register's number names it (R30). -/
theorem finOf_eq {k n : Nat} {x : Fin k} (h : n = x.val) : finOf k n = some x := by
  subst h
  simp [finOf]

theorem tagOf_code (t : Tag) : tagOf t.code = some t := by cases t <;> rfl
theorem scopeOf_code (c : Scope) : scopeOf c.code = some c := by cases c <;> rfl
theorem Tag.code_lt (t : Tag) : t.code < 32 := by cases t <;> decide
theorem Scope.code_lt (c : Scope) : c.code < 6 := by cases c <;> decide

/-- A field that holds the number of a bit vector reads as it. -/
theorem ofNat_eq {k n : Nat} {x : BitVec k} (h : n = x.toNat) : BitVec.ofNat k n = x := by
  subst h
  simp

/-! ## The fields of each format (R29) -/

theorem fieldsR0 (maj d a b fn : Nat) (g : Guard) (hm : maj < 64) (hd : d < 32) (ha : a < 32) (hb : b < 32) (hfn : fn < 32) :
    fFrame (wordR maj d a b fn g.code) = 0 ∧
    fMajor (wordR maj d a b fn g.code) = maj ∧
    guardOf (wordR maj d a b fn g.code) = some g ∧
    fD (wordR maj d a b fn g.code) = d ∧
    fA (wordR maj d a b fn g.code) = a ∧
    fB (wordR maj d a b fn g.code) = b ∧
    fFn (wordR maj d a b fn g.code) = fn := by
  have hg := g.code_lt
  have e : wordR maj d a b fn g.code = 16 * ((wordR maj d a b fn g.code) / 16) + g.code := by unfold wordR; omega
  refine ⟨?_, ?_, ?_, ?_, ?_, ?_, ?_⟩
  · unfold fFrame bits wordR; omega
  · unfold fMajor bits wordR; omega
  · rw [e]; exact guardOf_add _ _
  · unfold fD bits wordR; omega
  · unfold fA bits wordR; omega
  · unfold fB bits wordR; omega
  · unfold fFn bits wordR; omega

theorem fieldsR1 (maj d a b fn : Nat) (g : Guard) (hm : maj < 64) (hd : d < 32) (ha : a < 32) (hb : b < 32) (hfn : fn < 32) :
    fFrame (2 ^ 30 + wordR maj d a b fn g.code) = 1 ∧
    fMajor (2 ^ 30 + wordR maj d a b fn g.code) = maj ∧
    guardOf (2 ^ 30 + wordR maj d a b fn g.code) = some g ∧
    fD (2 ^ 30 + wordR maj d a b fn g.code) = d ∧
    fA (2 ^ 30 + wordR maj d a b fn g.code) = a ∧
    fB (2 ^ 30 + wordR maj d a b fn g.code) = b ∧
    fFn (2 ^ 30 + wordR maj d a b fn g.code) = fn := by
  have hg := g.code_lt
  have e : 2 ^ 30 + wordR maj d a b fn g.code = 16 * ((2 ^ 30 + wordR maj d a b fn g.code) / 16) + g.code := by unfold wordR; omega
  refine ⟨?_, ?_, ?_, ?_, ?_, ?_, ?_⟩
  · unfold fFrame bits wordR; omega
  · unfold fMajor bits wordR; omega
  · rw [e]; exact guardOf_add _ _
  · unfold fD bits wordR; omega
  · unfold fA bits wordR; omega
  · unfold fB bits wordR; omega
  · unfold fFn bits wordR; omega

theorem fieldsI0 (maj d a imm : Nat) (g : Guard) (hm : maj < 64) (hd : d < 32) (ha : a < 32) (himm : imm < 1024) :
    fFrame (wordI maj d a imm g.code) = 0 ∧
    fMajor (wordI maj d a imm g.code) = maj ∧
    guardOf (wordI maj d a imm g.code) = some g ∧
    fD (wordI maj d a imm g.code) = d ∧
    fA (wordI maj d a imm g.code) = a ∧
    fImm (wordI maj d a imm g.code) = imm := by
  have hg := g.code_lt
  have e : wordI maj d a imm g.code = 16 * ((wordI maj d a imm g.code) / 16) + g.code := by unfold wordI; omega
  refine ⟨?_, ?_, ?_, ?_, ?_, ?_⟩
  · unfold fFrame bits wordI; omega
  · unfold fMajor bits wordI; omega
  · rw [e]; exact guardOf_add _ _
  · unfold fD bits wordI; omega
  · unfold fA bits wordI; omega
  · unfold fImm bits wordI; omega

theorem fieldsI1 (maj d a imm : Nat) (g : Guard) (hm : maj < 64) (hd : d < 32) (ha : a < 32) (himm : imm < 1024) :
    fFrame (2 ^ 30 + wordI maj d a imm g.code) = 1 ∧
    fMajor (2 ^ 30 + wordI maj d a imm g.code) = maj ∧
    guardOf (2 ^ 30 + wordI maj d a imm g.code) = some g ∧
    fD (2 ^ 30 + wordI maj d a imm g.code) = d ∧
    fA (2 ^ 30 + wordI maj d a imm g.code) = a ∧
    fImm (2 ^ 30 + wordI maj d a imm g.code) = imm := by
  have hg := g.code_lt
  have e : 2 ^ 30 + wordI maj d a imm g.code = 16 * ((2 ^ 30 + wordI maj d a imm g.code) / 16) + g.code := by unfold wordI; omega
  refine ⟨?_, ?_, ?_, ?_, ?_, ?_⟩
  · unfold fFrame bits wordI; omega
  · unfold fMajor bits wordI; omega
  · rw [e]; exact guardOf_add _ _
  · unfold fD bits wordI; omega
  · unfold fA bits wordI; omega
  · unfold fImm bits wordI; omega

theorem fieldsM0 (maj d a op off : Nat) (g : Guard) (hm : maj < 64) (hd : d < 32) (ha : a < 32) (hop : op < 16) (hoff : off < 64) :
    fFrame (wordM maj d a op off g.code) = 0 ∧
    fMajor (wordM maj d a op off g.code) = maj ∧
    guardOf (wordM maj d a op off g.code) = some g ∧
    fD (wordM maj d a op off g.code) = d ∧
    fA (wordM maj d a op off g.code) = a ∧
    bits (wordM maj d a op off g.code) 10 4 = op ∧
    fOff6 (wordM maj d a op off g.code) = off := by
  have hg := g.code_lt
  have e : wordM maj d a op off g.code = 16 * ((wordM maj d a op off g.code) / 16) + g.code := by unfold wordM; omega
  refine ⟨?_, ?_, ?_, ?_, ?_, ?_, ?_⟩
  · unfold fFrame bits wordM; omega
  · unfold fMajor bits wordM; omega
  · rw [e]; exact guardOf_add _ _
  · unfold fD bits wordM; omega
  · unfold fA bits wordM; omega
  · unfold bits wordM; omega
  · unfold fOff6 bits wordM; omega

theorem fieldsM1 (maj d a op off : Nat) (g : Guard) (hm : maj < 64) (hd : d < 32) (ha : a < 32) (hop : op < 16) (hoff : off < 64) :
    fFrame (2 ^ 30 + wordM maj d a op off g.code) = 1 ∧
    fMajor (2 ^ 30 + wordM maj d a op off g.code) = maj ∧
    guardOf (2 ^ 30 + wordM maj d a op off g.code) = some g ∧
    fD (2 ^ 30 + wordM maj d a op off g.code) = d ∧
    fA (2 ^ 30 + wordM maj d a op off g.code) = a ∧
    bits (2 ^ 30 + wordM maj d a op off g.code) 10 4 = op ∧
    fOff6 (2 ^ 30 + wordM maj d a op off g.code) = off := by
  have hg := g.code_lt
  have e : 2 ^ 30 + wordM maj d a op off g.code = 16 * ((2 ^ 30 + wordM maj d a op off g.code) / 16) + g.code := by unfold wordM; omega
  refine ⟨?_, ?_, ?_, ?_, ?_, ?_, ?_⟩
  · unfold fFrame bits wordM; omega
  · unfold fMajor bits wordM; omega
  · rw [e]; exact guardOf_add _ _
  · unfold fD bits wordM; omega
  · unfold fA bits wordM; omega
  · unfold bits wordM; omega
  · unfold fOff6 bits wordM; omega

theorem fieldsL0 (maj d a b look mode : Nat) (g : Guard) (hm : maj < 64) (hd : d < 32) (ha : a < 32) (hb : b < 32) (hlook : look < 16) (hmode : mode < 2) :
    fFrame (wordL maj d a b look mode g.code) = 0 ∧
    fMajor (wordL maj d a b look mode g.code) = maj ∧
    guardOf (wordL maj d a b look mode g.code) = some g ∧
    fD (wordL maj d a b look mode g.code) = d ∧
    fA (wordL maj d a b look mode g.code) = a ∧
    fB (wordL maj d a b look mode g.code) = b ∧
    fLook (wordL maj d a b look mode g.code) = look ∧
    fMode (wordL maj d a b look mode g.code) = mode := by
  have hg := g.code_lt
  have e : wordL maj d a b look mode g.code = 16 * ((wordL maj d a b look mode g.code) / 16) + g.code := by unfold wordL; omega
  refine ⟨?_, ?_, ?_, ?_, ?_, ?_, ?_, ?_⟩
  · unfold fFrame bits wordL; omega
  · unfold fMajor bits wordL; omega
  · rw [e]; exact guardOf_add _ _
  · unfold fD bits wordL; omega
  · unfold fA bits wordL; omega
  · unfold fB bits wordL; omega
  · unfold fLook bits wordL; omega
  · unfold fMode bits wordL; omega

theorem fieldsL1 (maj d a b look mode : Nat) (g : Guard) (hm : maj < 64) (hd : d < 32) (ha : a < 32) (hb : b < 32) (hlook : look < 16) (hmode : mode < 2) :
    fFrame (2 ^ 30 + wordL maj d a b look mode g.code) = 1 ∧
    fMajor (2 ^ 30 + wordL maj d a b look mode g.code) = maj ∧
    guardOf (2 ^ 30 + wordL maj d a b look mode g.code) = some g ∧
    fD (2 ^ 30 + wordL maj d a b look mode g.code) = d ∧
    fA (2 ^ 30 + wordL maj d a b look mode g.code) = a ∧
    fB (2 ^ 30 + wordL maj d a b look mode g.code) = b ∧
    fLook (2 ^ 30 + wordL maj d a b look mode g.code) = look ∧
    fMode (2 ^ 30 + wordL maj d a b look mode g.code) = mode := by
  have hg := g.code_lt
  have e : 2 ^ 30 + wordL maj d a b look mode g.code = 16 * ((2 ^ 30 + wordL maj d a b look mode g.code) / 16) + g.code := by unfold wordL; omega
  refine ⟨?_, ?_, ?_, ?_, ?_, ?_, ?_, ?_⟩
  · unfold fFrame bits wordL; omega
  · unfold fMajor bits wordL; omega
  · rw [e]; exact guardOf_add _ _
  · unfold fD bits wordL; omega
  · unfold fA bits wordL; omega
  · unfold fB bits wordL; omega
  · unfold fLook bits wordL; omega
  · unfold fMode bits wordL; omega

theorem fieldsB0 (maj off : Nat) (g : Guard) (hm : maj < 64) (hoff : off < 1048576) :
    fFrame (wordB maj off g.code) = 0 ∧
    fMajor (wordB maj off g.code) = maj ∧
    guardOf (wordB maj off g.code) = some g ∧
    fOff20 (wordB maj off g.code) = off := by
  have hg := g.code_lt
  have e : wordB maj off g.code = 16 * ((wordB maj off g.code) / 16) + g.code := by unfold wordB; omega
  refine ⟨?_, ?_, ?_, ?_⟩
  · unfold fFrame bits wordB; omega
  · unfold fMajor bits wordB; omega
  · rw [e]; exact guardOf_add _ _
  · unfold fOff20 bits wordB; omega

theorem rawA {w x : Nat} (h : fFrame w = 2) : decodeRaw w x = decodeAffix w := by unfold decodeRaw; rw [h]; rfl

theorem fieldsA (t f mode : Nat) (x : BitVec 16) (ht : t < 64) (hf : f < 64) (hm : mode < 4) :
    fFrame (wordA t f mode x.toNat) = 2 ∧ bits (wordA t f mode x.toNat) 16 2 = mode ∧ bits (wordA t f mode x.toNat) 24 6 = t ∧
    bits (wordA t f mode x.toNat) 18 6 = f ∧ BitVec.ofNat 16 (wordA t f mode x.toNat) = x := by
  have hx := x.isLt
  refine ⟨?_, ?_, ?_, ?_, BitVec.eq_of_toNat_eq ?_⟩
  · unfold fFrame bits wordA; omega
  · unfold bits wordA; omega
  · unfold bits wordA; omega
  · unfold bits wordA; omega
  · rw [BitVec.toNat_ofNat]; unfold wordA; omega

/-! ## The major opcode selects the decoder (R43) -/

theorem raw1_1 {w x : Nat} (h : fFrame w = 0) (hm : fMajor w = 1) : decodeRaw w x = decode1_1 w := by
  unfold decodeRaw decode1; rw [h, hm]; rfl
theorem raw1_2 {w x : Nat} (h : fFrame w = 0) (hm : fMajor w = 2) : decodeRaw w x = decode1_2 w := by
  unfold decodeRaw decode1; rw [h, hm]; rfl
theorem raw1_3 {w x : Nat} (h : fFrame w = 0) (hm : fMajor w = 3) : decodeRaw w x = decode1_3 w := by
  unfold decodeRaw decode1; rw [h, hm]; rfl
theorem raw1_4 {w x : Nat} (h : fFrame w = 0) (hm : fMajor w = 4) : decodeRaw w x = decode1_4 w := by
  unfold decodeRaw decode1; rw [h, hm]; rfl
theorem raw1_5 {w x : Nat} (h : fFrame w = 0) (hm : fMajor w = 5) : decodeRaw w x = decode1_5 w := by
  unfold decodeRaw decode1; rw [h, hm]; rfl
theorem raw1_6 {w x : Nat} (h : fFrame w = 0) (hm : fMajor w = 6) : decodeRaw w x = decode1_6 w := by
  unfold decodeRaw decode1; rw [h, hm]; rfl
theorem raw1_7 {w x : Nat} (h : fFrame w = 0) (hm : fMajor w = 7) : decodeRaw w x = decode1_7 w := by
  unfold decodeRaw decode1; rw [h, hm]; rfl
theorem raw1_8 {w x : Nat} (h : fFrame w = 0) (hm : fMajor w = 8) : decodeRaw w x = decode1_8 w := by
  unfold decodeRaw decode1; rw [h, hm]; rfl
theorem raw1_9 {w x : Nat} (h : fFrame w = 0) (hm : fMajor w = 9) : decodeRaw w x = decode1_9 w := by
  unfold decodeRaw decode1; rw [h, hm]; rfl
theorem raw1_10 {w x : Nat} (h : fFrame w = 0) (hm : fMajor w = 10) : decodeRaw w x = decode1_10 w := by
  unfold decodeRaw decode1; rw [h, hm]; rfl
theorem raw1_11 {w x : Nat} (h : fFrame w = 0) (hm : fMajor w = 11) : decodeRaw w x = decode1_11 w := by
  unfold decodeRaw decode1; rw [h, hm]; rfl
theorem raw1_12 {w x : Nat} (h : fFrame w = 0) (hm : fMajor w = 12) : decodeRaw w x = decode1_12 w := by
  unfold decodeRaw decode1; rw [h, hm]; rfl
theorem raw1_13 {w x : Nat} (h : fFrame w = 0) (hm : fMajor w = 13) : decodeRaw w x = decode1_13 w := by
  unfold decodeRaw decode1; rw [h, hm]; rfl
theorem raw1_14 {w x : Nat} (h : fFrame w = 0) (hm : fMajor w = 14) : decodeRaw w x = decode1_14 w := by
  unfold decodeRaw decode1; rw [h, hm]; rfl
theorem raw1_15 {w x : Nat} (h : fFrame w = 0) (hm : fMajor w = 15) : decodeRaw w x = decode1_15 w := by
  unfold decodeRaw decode1; rw [h, hm]; rfl
theorem raw1_16 {w x : Nat} (h : fFrame w = 0) (hm : fMajor w = 16) : decodeRaw w x = decode1_16 w := by
  unfold decodeRaw decode1; rw [h, hm]; rfl
theorem raw1_17 {w x : Nat} (h : fFrame w = 0) (hm : fMajor w = 17) : decodeRaw w x = decode1_17 w := by
  unfold decodeRaw decode1; rw [h, hm]; rfl
theorem raw1_18 {w x : Nat} (h : fFrame w = 0) (hm : fMajor w = 18) : decodeRaw w x = decode1_18 w := by
  unfold decodeRaw decode1; rw [h, hm]; rfl
theorem raw1_19 {w x : Nat} (h : fFrame w = 0) (hm : fMajor w = 19) : decodeRaw w x = decode1_19 w := by
  unfold decodeRaw decode1; rw [h, hm]; rfl
theorem raw1_20 {w x : Nat} (h : fFrame w = 0) (hm : fMajor w = 20) : decodeRaw w x = decode1_20 w := by
  unfold decodeRaw decode1; rw [h, hm]; rfl
theorem raw1_21 {w x : Nat} (h : fFrame w = 0) (hm : fMajor w = 21) : decodeRaw w x = decode1_21 w := by
  unfold decodeRaw decode1; rw [h, hm]; rfl
theorem raw1_24 {w x : Nat} (h : fFrame w = 0) (hm : fMajor w = 24) : decodeRaw w x = decode1_24 w := by
  unfold decodeRaw decode1; rw [h, hm]; rfl
theorem raw1_25 {w x : Nat} (h : fFrame w = 0) (hm : fMajor w = 25) : decodeRaw w x = decode1_25 w := by
  unfold decodeRaw decode1; rw [h, hm]; rfl
theorem raw1_26 {w x : Nat} (h : fFrame w = 0) (hm : fMajor w = 26) : decodeRaw w x = decode1_26 w := by
  unfold decodeRaw decode1; rw [h, hm]; rfl
theorem raw1_27 {w x : Nat} (h : fFrame w = 0) (hm : fMajor w = 27) : decodeRaw w x = decode1_27 w := by
  unfold decodeRaw decode1; rw [h, hm]; rfl
theorem raw1_28 {w x : Nat} (h : fFrame w = 0) (hm : fMajor w = 28) : decodeRaw w x = decode1_28 w := by
  unfold decodeRaw decode1; rw [h, hm]; rfl
theorem raw1_29 {w x : Nat} (h : fFrame w = 0) (hm : fMajor w = 29) : decodeRaw w x = decode1_29 w := by
  unfold decodeRaw decode1; rw [h, hm]; rfl
theorem raw1_32 {w x : Nat} (h : fFrame w = 0) (hm : fMajor w = 32) : decodeRaw w x = decode1_32 w := by
  unfold decodeRaw decode1; rw [h, hm]; rfl
theorem raw1_33 {w x : Nat} (h : fFrame w = 0) (hm : fMajor w = 33) : decodeRaw w x = decode1_33 w := by
  unfold decodeRaw decode1; rw [h, hm]; rfl
theorem raw1_34 {w x : Nat} (h : fFrame w = 0) (hm : fMajor w = 34) : decodeRaw w x = decode1_34 w := by
  unfold decodeRaw decode1; rw [h, hm]; rfl
theorem raw1_36 {w x : Nat} (h : fFrame w = 0) (hm : fMajor w = 36) : decodeRaw w x = decode1_36 w := by
  unfold decodeRaw decode1; rw [h, hm]; rfl
theorem raw1_37 {w x : Nat} (h : fFrame w = 0) (hm : fMajor w = 37) : decodeRaw w x = decode1_37 w := by
  unfold decodeRaw decode1; rw [h, hm]; rfl
theorem raw1_38 {w x : Nat} (h : fFrame w = 0) (hm : fMajor w = 38) : decodeRaw w x = decode1_38 w := by
  unfold decodeRaw decode1; rw [h, hm]; rfl
theorem raw1_39 {w x : Nat} (h : fFrame w = 0) (hm : fMajor w = 39) : decodeRaw w x = decode1_39 w := by
  unfold decodeRaw decode1; rw [h, hm]; rfl
theorem raw1_40 {w x : Nat} (h : fFrame w = 0) (hm : fMajor w = 40) : decodeRaw w x = decode1_40 w := by
  unfold decodeRaw decode1; rw [h, hm]; rfl
theorem raw1_41 {w x : Nat} (h : fFrame w = 0) (hm : fMajor w = 41) : decodeRaw w x = decode1_41 w := by
  unfold decodeRaw decode1; rw [h, hm]; rfl
theorem raw1_42 {w x : Nat} (h : fFrame w = 0) (hm : fMajor w = 42) : decodeRaw w x = decode1_42 w := by
  unfold decodeRaw decode1; rw [h, hm]; rfl
theorem raw1_43 {w x : Nat} (h : fFrame w = 0) (hm : fMajor w = 43) : decodeRaw w x = decode1_43 w := by
  unfold decodeRaw decode1; rw [h, hm]; rfl
theorem raw1_44 {w x : Nat} (h : fFrame w = 0) (hm : fMajor w = 44) : decodeRaw w x = decode1_44 w := by
  unfold decodeRaw decode1; rw [h, hm]; rfl
theorem raw1_45 {w x : Nat} (h : fFrame w = 0) (hm : fMajor w = 45) : decodeRaw w x = decode1_45 w := by
  unfold decodeRaw decode1; rw [h, hm]; rfl
theorem raw1_46 {w x : Nat} (h : fFrame w = 0) (hm : fMajor w = 46) : decodeRaw w x = decode1_46 w := by
  unfold decodeRaw decode1; rw [h, hm]; rfl
theorem raw1_47 {w x : Nat} (h : fFrame w = 0) (hm : fMajor w = 47) : decodeRaw w x = decode1_47 w := by
  unfold decodeRaw decode1; rw [h, hm]; rfl
theorem raw1_48 {w x : Nat} (h : fFrame w = 0) (hm : fMajor w = 48) : decodeRaw w x = decode1_48 w := by
  unfold decodeRaw decode1; rw [h, hm]; rfl
theorem raw1_49 {w x : Nat} (h : fFrame w = 0) (hm : fMajor w = 49) : decodeRaw w x = decode1_49 w := by
  unfold decodeRaw decode1; rw [h, hm]; rfl
theorem raw1_50 {w x : Nat} (h : fFrame w = 0) (hm : fMajor w = 50) : decodeRaw w x = decode1_50 w := by
  unfold decodeRaw decode1; rw [h, hm]; rfl
theorem raw1_51 {w x : Nat} (h : fFrame w = 0) (hm : fMajor w = 51) : decodeRaw w x = decode1_51 w := by
  unfold decodeRaw decode1; rw [h, hm]; rfl
theorem raw1_52 {w x : Nat} (h : fFrame w = 0) (hm : fMajor w = 52) : decodeRaw w x = decode1_52 w := by
  unfold decodeRaw decode1; rw [h, hm]; rfl
theorem raw1_54 {w x : Nat} (h : fFrame w = 0) (hm : fMajor w = 54) : decodeRaw w x = decode1_54 w := by
  unfold decodeRaw decode1; rw [h, hm]; rfl
theorem raw1_55 {w x : Nat} (h : fFrame w = 0) (hm : fMajor w = 55) : decodeRaw w x = decode1_55 w := by
  unfold decodeRaw decode1; rw [h, hm]; rfl
theorem raw1_56 {w x : Nat} (h : fFrame w = 0) (hm : fMajor w = 56) : decodeRaw w x = decode1_56 w := by
  unfold decodeRaw decode1; rw [h, hm]; rfl
theorem raw1_57 {w x : Nat} (h : fFrame w = 0) (hm : fMajor w = 57) : decodeRaw w x = decode1_57 w := by
  unfold decodeRaw decode1; rw [h, hm]; rfl
theorem raw1_58 {w x : Nat} (h : fFrame w = 0) (hm : fMajor w = 58) : decodeRaw w x = decode1_58 w := by
  unfold decodeRaw decode1; rw [h, hm]; rfl
theorem raw1_59 {w x : Nat} (h : fFrame w = 0) (hm : fMajor w = 59) : decodeRaw w x = decode1_59 w := by
  unfold decodeRaw decode1; rw [h, hm]; rfl
theorem raw1_60 {w x : Nat} (h : fFrame w = 0) (hm : fMajor w = 60) : decodeRaw w x = decode1_60 w := by
  unfold decodeRaw decode1; rw [h, hm]; rfl
theorem raw1_61 {w x : Nat} (h : fFrame w = 0) (hm : fMajor w = 61) : decodeRaw w x = decode1_61 w := by
  unfold decodeRaw decode1; rw [h, hm]; rfl
theorem raw1_62 {w x : Nat} (h : fFrame w = 0) (hm : fMajor w = 62) : decodeRaw w x = decode1_62 w := by
  unfold decodeRaw decode1; rw [h, hm]; rfl
theorem raw2_1 {w x : Nat} (h : fFrame w = 1) (hm : fMajor w = 1) : decodeRaw w x = decode2_1 w x := by
  unfold decodeRaw decode2; rw [h, hm]; rfl
theorem raw2_2 {w x : Nat} (h : fFrame w = 1) (hm : fMajor w = 2) : decodeRaw w x = decode2_2 w x := by
  unfold decodeRaw decode2; rw [h, hm]; rfl
theorem raw2_3 {w x : Nat} (h : fFrame w = 1) (hm : fMajor w = 3) : decodeRaw w x = decode2_3 w x := by
  unfold decodeRaw decode2; rw [h, hm]; rfl
theorem raw2_4 {w x : Nat} (h : fFrame w = 1) (hm : fMajor w = 4) : decodeRaw w x = decode2_4 w x := by
  unfold decodeRaw decode2; rw [h, hm]; rfl
theorem raw2_5 {w x : Nat} (h : fFrame w = 1) (hm : fMajor w = 5) : decodeRaw w x = decode2_5 w x := by
  unfold decodeRaw decode2; rw [h, hm]; rfl
theorem raw2_7 {w x : Nat} (h : fFrame w = 1) (hm : fMajor w = 7) : decodeRaw w x = decode2_7 w x := by
  unfold decodeRaw decode2; rw [h, hm]; rfl
theorem raw2_9 {w x : Nat} (h : fFrame w = 1) (hm : fMajor w = 9) : decodeRaw w x = decode2_9 w x := by
  unfold decodeRaw decode2; rw [h, hm]; rfl
theorem raw2_10 {w x : Nat} (h : fFrame w = 1) (hm : fMajor w = 10) : decodeRaw w x = decode2_10 w x := by
  unfold decodeRaw decode2; rw [h, hm]; rfl
theorem raw2_15 {w x : Nat} (h : fFrame w = 1) (hm : fMajor w = 15) : decodeRaw w x = decode2_15 w x := by
  unfold decodeRaw decode2; rw [h, hm]; rfl
theorem raw2_16 {w x : Nat} (h : fFrame w = 1) (hm : fMajor w = 16) : decodeRaw w x = decode2_16 w x := by
  unfold decodeRaw decode2; rw [h, hm]; rfl
theorem raw2_17 {w x : Nat} (h : fFrame w = 1) (hm : fMajor w = 17) : decodeRaw w x = decode2_17 w x := by
  unfold decodeRaw decode2; rw [h, hm]; rfl
theorem raw2_21 {w x : Nat} (h : fFrame w = 1) (hm : fMajor w = 21) : decodeRaw w x = decode2_21 w x := by
  unfold decodeRaw decode2; rw [h, hm]; rfl
theorem raw2_36 {w x : Nat} (h : fFrame w = 1) (hm : fMajor w = 36) : decodeRaw w x = decode2_36 w x := by
  unfold decodeRaw decode2; rw [h, hm]; rfl
theorem raw2_37 {w x : Nat} (h : fFrame w = 1) (hm : fMajor w = 37) : decodeRaw w x = decode2_37 w x := by
  unfold decodeRaw decode2; rw [h, hm]; rfl
theorem raw2_38 {w x : Nat} (h : fFrame w = 1) (hm : fMajor w = 38) : decodeRaw w x = decode2_38 w x := by
  unfold decodeRaw decode2; rw [h, hm]; rfl
theorem raw2_41 {w x : Nat} (h : fFrame w = 1) (hm : fMajor w = 41) : decodeRaw w x = decode2_41 w x := by
  unfold decodeRaw decode2; rw [h, hm]; rfl
theorem raw2_42 {w x : Nat} (h : fFrame w = 1) (hm : fMajor w = 42) : decodeRaw w x = decode2_42 w x := by
  unfold decodeRaw decode2; rw [h, hm]; rfl
theorem raw2_43 {w x : Nat} (h : fFrame w = 1) (hm : fMajor w = 43) : decodeRaw w x = decode2_43 w x := by
  unfold decodeRaw decode2; rw [h, hm]; rfl
theorem raw2_44 {w x : Nat} (h : fFrame w = 1) (hm : fMajor w = 44) : decodeRaw w x = decode2_44 w x := by
  unfold decodeRaw decode2; rw [h, hm]; rfl
theorem raw2_45 {w x : Nat} (h : fFrame w = 1) (hm : fMajor w = 45) : decodeRaw w x = decode2_45 w x := by
  unfold decodeRaw decode2; rw [h, hm]; rfl
theorem raw2_47 {w x : Nat} (h : fFrame w = 1) (hm : fMajor w = 47) : decodeRaw w x = decode2_47 w x := by
  unfold decodeRaw decode2; rw [h, hm]; rfl
theorem raw2_51 {w x : Nat} (h : fFrame w = 1) (hm : fMajor w = 51) : decodeRaw w x = decode2_51 w x := by
  unfold decodeRaw decode2; rw [h, hm]; rfl
theorem raw2_55 {w x : Nat} (h : fFrame w = 1) (hm : fMajor w = 55) : decodeRaw w x = decode2_55 w x := by
  unfold decodeRaw decode2; rw [h, hm]; rfl
theorem raw2_57 {w x : Nat} (h : fFrame w = 1) (hm : fMajor w = 57) : decodeRaw w x = decode2_57 w x := by
  unfold decodeRaw decode2; rw [h, hm]; rfl

/-! ## The round trip -/

namespace Laws.RoundTrip

/-- Decoding the words of the instruction, if it is a well-formed instruction word, gives the instruction. -/
def Statement (i : Instr) : Prop :=
  i.words ≠ 0 → i.wf = true → decode i.word0 i.word1 = .ok i ∧ i.word0 < 2 ^ 32 ∧ i.word1 < 2 ^ 32

theorem of_raw {i : Instr} (w : Nat) (hw : i.word0 = w) (b0 : w < 2 ^ 32) (b1 : i.word1 < 2 ^ 32)
    (h : i.wf = true → decodeRaw w i.word1 = some i) : Statement i := by
  intro _ hf
  refine ⟨?_, hw ▸ b0, b1⟩
  simp only [decode, hw, h hf, hf, if_true]

theorem of_event {i : Instr} (h : i.words = 0) : Statement i := fun h' => absurd h h'

theorem add (g : Guard) (d : GReg) (a : GReg) (b : GReg) : Statement (.add g d a b) := by
  have f0 := g.code_lt
  have f1 := d.isLt
  have f2 := a.isLt
  have f3 := b.isLt
  refine of_raw (wordR 1 d.val a.val b.val 0 g.code) rfl (by unfold wordR; omega) (show 0 < 2 ^ 32 by omega) (fun _ => ?_)
  have := d.isLt
  have := a.isLt
  have := b.isLt
  obtain ⟨h0, h1, h2, eD, eA, eB, eFn⟩ := fieldsR0 1 d.val a.val b.val 0 g (by omega) (by omega) (by omega) (by omega) (by omega)
  rw [raw1_1 h0 h1]; unfold decode1_1; rw [h2, finOf_eq eD, finOf_eq eA, finOf_eq eB, eFn]; rfl

theorem sub (g : Guard) (d : GReg) (a : GReg) (b : GReg) : Statement (.sub g d a b) := by
  have f0 := g.code_lt
  have f1 := d.isLt
  have f2 := a.isLt
  have f3 := b.isLt
  refine of_raw (wordR 1 d.val a.val b.val 1 g.code) rfl (by unfold wordR; omega) (show 0 < 2 ^ 32 by omega) (fun _ => ?_)
  have := d.isLt
  have := a.isLt
  have := b.isLt
  obtain ⟨h0, h1, h2, eD, eA, eB, eFn⟩ := fieldsR0 1 d.val a.val b.val 1 g (by omega) (by omega) (by omega) (by omega) (by omega)
  rw [raw1_1 h0 h1]; unfold decode1_1; rw [h2, finOf_eq eD, finOf_eq eA, finOf_eq eB, eFn]; rfl

theorem and (g : Guard) (d : GReg) (a : GReg) (b : GReg) : Statement (.and g d a b) := by
  have f0 := g.code_lt
  have f1 := d.isLt
  have f2 := a.isLt
  have f3 := b.isLt
  refine of_raw (wordR 1 d.val a.val b.val 2 g.code) rfl (by unfold wordR; omega) (show 0 < 2 ^ 32 by omega) (fun _ => ?_)
  have := d.isLt
  have := a.isLt
  have := b.isLt
  obtain ⟨h0, h1, h2, eD, eA, eB, eFn⟩ := fieldsR0 1 d.val a.val b.val 2 g (by omega) (by omega) (by omega) (by omega) (by omega)
  rw [raw1_1 h0 h1]; unfold decode1_1; rw [h2, finOf_eq eD, finOf_eq eA, finOf_eq eB, eFn]; rfl

theorem or (g : Guard) (d : GReg) (a : GReg) (b : GReg) : Statement (.or g d a b) := by
  have f0 := g.code_lt
  have f1 := d.isLt
  have f2 := a.isLt
  have f3 := b.isLt
  refine of_raw (wordR 1 d.val a.val b.val 3 g.code) rfl (by unfold wordR; omega) (show 0 < 2 ^ 32 by omega) (fun _ => ?_)
  have := d.isLt
  have := a.isLt
  have := b.isLt
  obtain ⟨h0, h1, h2, eD, eA, eB, eFn⟩ := fieldsR0 1 d.val a.val b.val 3 g (by omega) (by omega) (by omega) (by omega) (by omega)
  rw [raw1_1 h0 h1]; unfold decode1_1; rw [h2, finOf_eq eD, finOf_eq eA, finOf_eq eB, eFn]; rfl

theorem xor (g : Guard) (d : GReg) (a : GReg) (b : GReg) : Statement (.xor g d a b) := by
  have f0 := g.code_lt
  have f1 := d.isLt
  have f2 := a.isLt
  have f3 := b.isLt
  refine of_raw (wordR 1 d.val a.val b.val 4 g.code) rfl (by unfold wordR; omega) (show 0 < 2 ^ 32 by omega) (fun _ => ?_)
  have := d.isLt
  have := a.isLt
  have := b.isLt
  obtain ⟨h0, h1, h2, eD, eA, eB, eFn⟩ := fieldsR0 1 d.val a.val b.val 4 g (by omega) (by omega) (by omega) (by omega) (by omega)
  rw [raw1_1 h0 h1]; unfold decode1_1; rw [h2, finOf_eq eD, finOf_eq eA, finOf_eq eB, eFn]; rfl

theorem andn (g : Guard) (d : GReg) (a : GReg) (b : GReg) : Statement (.andn g d a b) := by
  have f0 := g.code_lt
  have f1 := d.isLt
  have f2 := a.isLt
  have f3 := b.isLt
  refine of_raw (wordR 1 d.val a.val b.val 5 g.code) rfl (by unfold wordR; omega) (show 0 < 2 ^ 32 by omega) (fun _ => ?_)
  have := d.isLt
  have := a.isLt
  have := b.isLt
  obtain ⟨h0, h1, h2, eD, eA, eB, eFn⟩ := fieldsR0 1 d.val a.val b.val 5 g (by omega) (by omega) (by omega) (by omega) (by omega)
  rw [raw1_1 h0 h1]; unfold decode1_1; rw [h2, finOf_eq eD, finOf_eq eA, finOf_eq eB, eFn]; rfl

theorem shl (g : Guard) (d : GReg) (a : GReg) (b : GReg) : Statement (.shl g d a b) := by
  have f0 := g.code_lt
  have f1 := d.isLt
  have f2 := a.isLt
  have f3 := b.isLt
  refine of_raw (wordR 1 d.val a.val b.val 6 g.code) rfl (by unfold wordR; omega) (show 0 < 2 ^ 32 by omega) (fun _ => ?_)
  have := d.isLt
  have := a.isLt
  have := b.isLt
  obtain ⟨h0, h1, h2, eD, eA, eB, eFn⟩ := fieldsR0 1 d.val a.val b.val 6 g (by omega) (by omega) (by omega) (by omega) (by omega)
  rw [raw1_1 h0 h1]; unfold decode1_1; rw [h2, finOf_eq eD, finOf_eq eA, finOf_eq eB, eFn]; rfl

theorem shr (g : Guard) (d : GReg) (a : GReg) (b : GReg) : Statement (.shr g d a b) := by
  have f0 := g.code_lt
  have f1 := d.isLt
  have f2 := a.isLt
  have f3 := b.isLt
  refine of_raw (wordR 1 d.val a.val b.val 7 g.code) rfl (by unfold wordR; omega) (show 0 < 2 ^ 32 by omega) (fun _ => ?_)
  have := d.isLt
  have := a.isLt
  have := b.isLt
  obtain ⟨h0, h1, h2, eD, eA, eB, eFn⟩ := fieldsR0 1 d.val a.val b.val 7 g (by omega) (by omega) (by omega) (by omega) (by omega)
  rw [raw1_1 h0 h1]; unfold decode1_1; rw [h2, finOf_eq eD, finOf_eq eA, finOf_eq eB, eFn]; rfl

theorem sar (g : Guard) (d : GReg) (a : GReg) (b : GReg) : Statement (.sar g d a b) := by
  have f0 := g.code_lt
  have f1 := d.isLt
  have f2 := a.isLt
  have f3 := b.isLt
  refine of_raw (wordR 1 d.val a.val b.val 8 g.code) rfl (by unfold wordR; omega) (show 0 < 2 ^ 32 by omega) (fun _ => ?_)
  have := d.isLt
  have := a.isLt
  have := b.isLt
  obtain ⟨h0, h1, h2, eD, eA, eB, eFn⟩ := fieldsR0 1 d.val a.val b.val 8 g (by omega) (by omega) (by omega) (by omega) (by omega)
  rw [raw1_1 h0 h1]; unfold decode1_1; rw [h2, finOf_eq eD, finOf_eq eA, finOf_eq eB, eFn]; rfl

theorem rol (g : Guard) (d : GReg) (a : GReg) (b : GReg) : Statement (.rol g d a b) := by
  have f0 := g.code_lt
  have f1 := d.isLt
  have f2 := a.isLt
  have f3 := b.isLt
  refine of_raw (wordR 1 d.val a.val b.val 9 g.code) rfl (by unfold wordR; omega) (show 0 < 2 ^ 32 by omega) (fun _ => ?_)
  have := d.isLt
  have := a.isLt
  have := b.isLt
  obtain ⟨h0, h1, h2, eD, eA, eB, eFn⟩ := fieldsR0 1 d.val a.val b.val 9 g (by omega) (by omega) (by omega) (by omega) (by omega)
  rw [raw1_1 h0 h1]; unfold decode1_1; rw [h2, finOf_eq eD, finOf_eq eA, finOf_eq eB, eFn]; rfl

theorem mul (g : Guard) (d : GReg) (a : GReg) (b : GReg) : Statement (.mul g d a b) := by
  have f0 := g.code_lt
  have f1 := d.isLt
  have f2 := a.isLt
  have f3 := b.isLt
  refine of_raw (wordR 1 d.val a.val b.val 10 g.code) rfl (by unfold wordR; omega) (show 0 < 2 ^ 32 by omega) (fun _ => ?_)
  have := d.isLt
  have := a.isLt
  have := b.isLt
  obtain ⟨h0, h1, h2, eD, eA, eB, eFn⟩ := fieldsR0 1 d.val a.val b.val 10 g (by omega) (by omega) (by omega) (by omega) (by omega)
  rw [raw1_1 h0 h1]; unfold decode1_1; rw [h2, finOf_eq eD, finOf_eq eA, finOf_eq eB, eFn]; rfl

theorem mulh (g : Guard) (d : GReg) (a : GReg) (b : GReg) : Statement (.mulh g d a b) := by
  have f0 := g.code_lt
  have f1 := d.isLt
  have f2 := a.isLt
  have f3 := b.isLt
  refine of_raw (wordR 1 d.val a.val b.val 11 g.code) rfl (by unfold wordR; omega) (show 0 < 2 ^ 32 by omega) (fun _ => ?_)
  have := d.isLt
  have := a.isLt
  have := b.isLt
  obtain ⟨h0, h1, h2, eD, eA, eB, eFn⟩ := fieldsR0 1 d.val a.val b.val 11 g (by omega) (by omega) (by omega) (by omega) (by omega)
  rw [raw1_1 h0 h1]; unfold decode1_1; rw [h2, finOf_eq eD, finOf_eq eA, finOf_eq eB, eFn]; rfl

theorem mulhz (g : Guard) (d : GReg) (a : GReg) (b : GReg) : Statement (.mulhz g d a b) := by
  have f0 := g.code_lt
  have f1 := d.isLt
  have f2 := a.isLt
  have f3 := b.isLt
  refine of_raw (wordR 1 d.val a.val b.val 12 g.code) rfl (by unfold wordR; omega) (show 0 < 2 ^ 32 by omega) (fun _ => ?_)
  have := d.isLt
  have := a.isLt
  have := b.isLt
  obtain ⟨h0, h1, h2, eD, eA, eB, eFn⟩ := fieldsR0 1 d.val a.val b.val 12 g (by omega) (by omega) (by omega) (by omega) (by omega)
  rw [raw1_1 h0 h1]; unfold decode1_1; rw [h2, finOf_eq eD, finOf_eq eA, finOf_eq eB, eFn]; rfl

theorem div (g : Guard) (d : GReg) (a : GReg) (b : GReg) : Statement (.div g d a b) := by
  have f0 := g.code_lt
  have f1 := d.isLt
  have f2 := a.isLt
  have f3 := b.isLt
  refine of_raw (wordR 1 d.val a.val b.val 13 g.code) rfl (by unfold wordR; omega) (show 0 < 2 ^ 32 by omega) (fun _ => ?_)
  have := d.isLt
  have := a.isLt
  have := b.isLt
  obtain ⟨h0, h1, h2, eD, eA, eB, eFn⟩ := fieldsR0 1 d.val a.val b.val 13 g (by omega) (by omega) (by omega) (by omega) (by omega)
  rw [raw1_1 h0 h1]; unfold decode1_1; rw [h2, finOf_eq eD, finOf_eq eA, finOf_eq eB, eFn]; rfl

theorem divz (g : Guard) (d : GReg) (a : GReg) (b : GReg) : Statement (.divz g d a b) := by
  have f0 := g.code_lt
  have f1 := d.isLt
  have f2 := a.isLt
  have f3 := b.isLt
  refine of_raw (wordR 1 d.val a.val b.val 14 g.code) rfl (by unfold wordR; omega) (show 0 < 2 ^ 32 by omega) (fun _ => ?_)
  have := d.isLt
  have := a.isLt
  have := b.isLt
  obtain ⟨h0, h1, h2, eD, eA, eB, eFn⟩ := fieldsR0 1 d.val a.val b.val 14 g (by omega) (by omega) (by omega) (by omega) (by omega)
  rw [raw1_1 h0 h1]; unfold decode1_1; rw [h2, finOf_eq eD, finOf_eq eA, finOf_eq eB, eFn]; rfl

theorem rem (g : Guard) (d : GReg) (a : GReg) (b : GReg) : Statement (.rem g d a b) := by
  have f0 := g.code_lt
  have f1 := d.isLt
  have f2 := a.isLt
  have f3 := b.isLt
  refine of_raw (wordR 1 d.val a.val b.val 15 g.code) rfl (by unfold wordR; omega) (show 0 < 2 ^ 32 by omega) (fun _ => ?_)
  have := d.isLt
  have := a.isLt
  have := b.isLt
  obtain ⟨h0, h1, h2, eD, eA, eB, eFn⟩ := fieldsR0 1 d.val a.val b.val 15 g (by omega) (by omega) (by omega) (by omega) (by omega)
  rw [raw1_1 h0 h1]; unfold decode1_1; rw [h2, finOf_eq eD, finOf_eq eA, finOf_eq eB, eFn]; rfl

theorem remz (g : Guard) (d : GReg) (a : GReg) (b : GReg) : Statement (.remz g d a b) := by
  have f0 := g.code_lt
  have f1 := d.isLt
  have f2 := a.isLt
  have f3 := b.isLt
  refine of_raw (wordR 1 d.val a.val b.val 16 g.code) rfl (by unfold wordR; omega) (show 0 < 2 ^ 32 by omega) (fun _ => ?_)
  have := d.isLt
  have := a.isLt
  have := b.isLt
  obtain ⟨h0, h1, h2, eD, eA, eB, eFn⟩ := fieldsR0 1 d.val a.val b.val 16 g (by omega) (by omega) (by omega) (by omega) (by omega)
  rw [raw1_1 h0 h1]; unfold decode1_1; rw [h2, finOf_eq eD, finOf_eq eA, finOf_eq eB, eFn]; rfl

theorem min (g : Guard) (d : GReg) (a : GReg) (b : GReg) : Statement (.min g d a b) := by
  have f0 := g.code_lt
  have f1 := d.isLt
  have f2 := a.isLt
  have f3 := b.isLt
  refine of_raw (wordR 1 d.val a.val b.val 17 g.code) rfl (by unfold wordR; omega) (show 0 < 2 ^ 32 by omega) (fun _ => ?_)
  have := d.isLt
  have := a.isLt
  have := b.isLt
  obtain ⟨h0, h1, h2, eD, eA, eB, eFn⟩ := fieldsR0 1 d.val a.val b.val 17 g (by omega) (by omega) (by omega) (by omega) (by omega)
  rw [raw1_1 h0 h1]; unfold decode1_1; rw [h2, finOf_eq eD, finOf_eq eA, finOf_eq eB, eFn]; rfl

theorem max (g : Guard) (d : GReg) (a : GReg) (b : GReg) : Statement (.max g d a b) := by
  have f0 := g.code_lt
  have f1 := d.isLt
  have f2 := a.isLt
  have f3 := b.isLt
  refine of_raw (wordR 1 d.val a.val b.val 18 g.code) rfl (by unfold wordR; omega) (show 0 < 2 ^ 32 by omega) (fun _ => ?_)
  have := d.isLt
  have := a.isLt
  have := b.isLt
  obtain ⟨h0, h1, h2, eD, eA, eB, eFn⟩ := fieldsR0 1 d.val a.val b.val 18 g (by omega) (by omega) (by omega) (by omega) (by omega)
  rw [raw1_1 h0 h1]; unfold decode1_1; rw [h2, finOf_eq eD, finOf_eq eA, finOf_eq eB, eFn]; rfl

theorem minz (g : Guard) (d : GReg) (a : GReg) (b : GReg) : Statement (.minz g d a b) := by
  have f0 := g.code_lt
  have f1 := d.isLt
  have f2 := a.isLt
  have f3 := b.isLt
  refine of_raw (wordR 1 d.val a.val b.val 19 g.code) rfl (by unfold wordR; omega) (show 0 < 2 ^ 32 by omega) (fun _ => ?_)
  have := d.isLt
  have := a.isLt
  have := b.isLt
  obtain ⟨h0, h1, h2, eD, eA, eB, eFn⟩ := fieldsR0 1 d.val a.val b.val 19 g (by omega) (by omega) (by omega) (by omega) (by omega)
  rw [raw1_1 h0 h1]; unfold decode1_1; rw [h2, finOf_eq eD, finOf_eq eA, finOf_eq eB, eFn]; rfl

theorem maxz (g : Guard) (d : GReg) (a : GReg) (b : GReg) : Statement (.maxz g d a b) := by
  have f0 := g.code_lt
  have f1 := d.isLt
  have f2 := a.isLt
  have f3 := b.isLt
  refine of_raw (wordR 1 d.val a.val b.val 20 g.code) rfl (by unfold wordR; omega) (show 0 < 2 ^ 32 by omega) (fun _ => ?_)
  have := d.isLt
  have := a.isLt
  have := b.isLt
  obtain ⟨h0, h1, h2, eD, eA, eB, eFn⟩ := fieldsR0 1 d.val a.val b.val 20 g (by omega) (by omega) (by omega) (by omega) (by omega)
  rw [raw1_1 h0 h1]; unfold decode1_1; rw [h2, finOf_eq eD, finOf_eq eA, finOf_eq eB, eFn]; rfl

theorem clz (g : Guard) (d : GReg) (a : GReg) : Statement (.clz g d a) := by
  have f0 := g.code_lt
  have f1 := d.isLt
  have f2 := a.isLt
  refine of_raw (wordR 1 d.val a.val 0 21 g.code) rfl (by unfold wordR; omega) (show 0 < 2 ^ 32 by omega) (fun _ => ?_)
  have := d.isLt
  have := a.isLt
  obtain ⟨h0, h1, h2, eD, eA, eB, eFn⟩ := fieldsR0 1 d.val a.val 0 21 g (by omega) (by omega) (by omega) (by omega) (by omega)
  rw [raw1_1 h0 h1]; unfold decode1_1; rw [h2, finOf_eq eD, finOf_eq eA, eFn, eB]; rfl

theorem ctz (g : Guard) (d : GReg) (a : GReg) : Statement (.ctz g d a) := by
  have f0 := g.code_lt
  have f1 := d.isLt
  have f2 := a.isLt
  refine of_raw (wordR 1 d.val a.val 0 22 g.code) rfl (by unfold wordR; omega) (show 0 < 2 ^ 32 by omega) (fun _ => ?_)
  have := d.isLt
  have := a.isLt
  obtain ⟨h0, h1, h2, eD, eA, eB, eFn⟩ := fieldsR0 1 d.val a.val 0 22 g (by omega) (by omega) (by omega) (by omega) (by omega)
  rw [raw1_1 h0 h1]; unfold decode1_1; rw [h2, finOf_eq eD, finOf_eq eA, eFn, eB]; rfl

theorem popc (g : Guard) (d : GReg) (a : GReg) : Statement (.popc g d a) := by
  have f0 := g.code_lt
  have f1 := d.isLt
  have f2 := a.isLt
  refine of_raw (wordR 1 d.val a.val 0 23 g.code) rfl (by unfold wordR; omega) (show 0 < 2 ^ 32 by omega) (fun _ => ?_)
  have := d.isLt
  have := a.isLt
  obtain ⟨h0, h1, h2, eD, eA, eB, eFn⟩ := fieldsR0 1 d.val a.val 0 23 g (by omega) (by omega) (by omega) (by omega) (by omega)
  rw [raw1_1 h0 h1]; unfold decode1_1; rw [h2, finOf_eq eD, finOf_eq eA, eFn, eB]; rfl

theorem sextB (g : Guard) (d : GReg) (a : GReg) : Statement (.sextB g d a) := by
  have f0 := g.code_lt
  have f1 := d.isLt
  have f2 := a.isLt
  refine of_raw (wordR 1 d.val a.val 0 24 g.code) rfl (by unfold wordR; omega) (show 0 < 2 ^ 32 by omega) (fun _ => ?_)
  have := d.isLt
  have := a.isLt
  obtain ⟨h0, h1, h2, eD, eA, eB, eFn⟩ := fieldsR0 1 d.val a.val 0 24 g (by omega) (by omega) (by omega) (by omega) (by omega)
  rw [raw1_1 h0 h1]; unfold decode1_1; rw [h2, finOf_eq eD, finOf_eq eA, eFn, eB]; rfl

theorem sextH (g : Guard) (d : GReg) (a : GReg) : Statement (.sextH g d a) := by
  have f0 := g.code_lt
  have f1 := d.isLt
  have f2 := a.isLt
  refine of_raw (wordR 1 d.val a.val 0 25 g.code) rfl (by unfold wordR; omega) (show 0 < 2 ^ 32 by omega) (fun _ => ?_)
  have := d.isLt
  have := a.isLt
  obtain ⟨h0, h1, h2, eD, eA, eB, eFn⟩ := fieldsR0 1 d.val a.val 0 25 g (by omega) (by omega) (by omega) (by omega) (by omega)
  rw [raw1_1 h0 h1]; unfold decode1_1; rw [h2, finOf_eq eD, finOf_eq eA, eFn, eB]; rfl

theorem sextW (g : Guard) (d : GReg) (a : GReg) : Statement (.sextW g d a) := by
  have f0 := g.code_lt
  have f1 := d.isLt
  have f2 := a.isLt
  refine of_raw (wordR 1 d.val a.val 0 26 g.code) rfl (by unfold wordR; omega) (show 0 < 2 ^ 32 by omega) (fun _ => ?_)
  have := d.isLt
  have := a.isLt
  obtain ⟨h0, h1, h2, eD, eA, eB, eFn⟩ := fieldsR0 1 d.val a.val 0 26 g (by omega) (by omega) (by omega) (by omega) (by omega)
  rw [raw1_1 h0 h1]; unfold decode1_1; rw [h2, finOf_eq eD, finOf_eq eA, eFn, eB]; rfl

theorem zextB (g : Guard) (d : GReg) (a : GReg) : Statement (.zextB g d a) := by
  have f0 := g.code_lt
  have f1 := d.isLt
  have f2 := a.isLt
  refine of_raw (wordR 1 d.val a.val 0 27 g.code) rfl (by unfold wordR; omega) (show 0 < 2 ^ 32 by omega) (fun _ => ?_)
  have := d.isLt
  have := a.isLt
  obtain ⟨h0, h1, h2, eD, eA, eB, eFn⟩ := fieldsR0 1 d.val a.val 0 27 g (by omega) (by omega) (by omega) (by omega) (by omega)
  rw [raw1_1 h0 h1]; unfold decode1_1; rw [h2, finOf_eq eD, finOf_eq eA, eFn, eB]; rfl

theorem zextH (g : Guard) (d : GReg) (a : GReg) : Statement (.zextH g d a) := by
  have f0 := g.code_lt
  have f1 := d.isLt
  have f2 := a.isLt
  refine of_raw (wordR 1 d.val a.val 0 28 g.code) rfl (by unfold wordR; omega) (show 0 < 2 ^ 32 by omega) (fun _ => ?_)
  have := d.isLt
  have := a.isLt
  obtain ⟨h0, h1, h2, eD, eA, eB, eFn⟩ := fieldsR0 1 d.val a.val 0 28 g (by omega) (by omega) (by omega) (by omega) (by omega)
  rw [raw1_1 h0 h1]; unfold decode1_1; rw [h2, finOf_eq eD, finOf_eq eA, eFn, eB]; rfl

theorem zextW (g : Guard) (d : GReg) (a : GReg) : Statement (.zextW g d a) := by
  have f0 := g.code_lt
  have f1 := d.isLt
  have f2 := a.isLt
  refine of_raw (wordR 1 d.val a.val 0 29 g.code) rfl (by unfold wordR; omega) (show 0 < 2 ^ 32 by omega) (fun _ => ?_)
  have := d.isLt
  have := a.isLt
  obtain ⟨h0, h1, h2, eD, eA, eB, eFn⟩ := fieldsR0 1 d.val a.val 0 29 g (by omega) (by omega) (by omega) (by omega) (by omega)
  rw [raw1_1 h0 h1]; unfold decode1_1; rw [h2, finOf_eq eD, finOf_eq eA, eFn, eB]; rfl

theorem bext (g : Guard) (d : GReg) (a : GReg) (b : GReg) : Statement (.bext g d a b) := by
  have f0 := g.code_lt
  have f1 := d.isLt
  have f2 := a.isLt
  have f3 := b.isLt
  refine of_raw (wordR 1 d.val a.val b.val 30 g.code) rfl (by unfold wordR; omega) (show 0 < 2 ^ 32 by omega) (fun _ => ?_)
  have := d.isLt
  have := a.isLt
  have := b.isLt
  obtain ⟨h0, h1, h2, eD, eA, eB, eFn⟩ := fieldsR0 1 d.val a.val b.val 30 g (by omega) (by omega) (by omega) (by omega) (by omega)
  rw [raw1_1 h0 h1]; unfold decode1_1; rw [h2, finOf_eq eD, finOf_eq eA, finOf_eq eB, eFn]; rfl

theorem bins (g : Guard) (d : GReg) (a : GReg) (b : GReg) : Statement (.bins g d a b) := by
  have f0 := g.code_lt
  have f1 := d.isLt
  have f2 := a.isLt
  have f3 := b.isLt
  refine of_raw (wordR 1 d.val a.val b.val 31 g.code) rfl (by unfold wordR; omega) (show 0 < 2 ^ 32 by omega) (fun _ => ?_)
  have := d.isLt
  have := a.isLt
  have := b.isLt
  obtain ⟨h0, h1, h2, eD, eA, eB, eFn⟩ := fieldsR0 1 d.val a.val b.val 31 g (by omega) (by omega) (by omega) (by omega) (by omega)
  rw [raw1_1 h0 h1]; unfold decode1_1; rw [h2, finOf_eq eD, finOf_eq eA, finOf_eq eB, eFn]; rfl

theorem bextDw (g : Guard) (d : GReg) (a : GReg) (pos : Fin 64) (wid : Fin 128) : Statement (.bextDw g d a pos wid) := by
  have f0 := g.code_lt
  have f1 := d.isLt
  have f2 := a.isLt
  have f3 := pos.isLt
  have f4 := wid.isLt
  refine of_raw (2 ^ 30 + wordR 1 d.val a.val 0 30 g.code) rfl (by unfold wordR; omega) (show pos.val + 256 * wid.val < 2 ^ 32 by omega) (fun _ => ?_)
  change decodeRaw _ (pos.val + 256 * wid.val) = _
  have := d.isLt
  have := a.isLt
  have := pos.isLt
  have := wid.isLt
  obtain ⟨h0, h1, h2, eD, eA, eB, eFn⟩ := fieldsR1 1 d.val a.val 0 30 g (by omega) (by omega) (by omega) (by omega) (by omega)
  have x1 : bits (pos.val + 256 * wid.val) 6 2 = 0 := by unfold bits; omega
  have x2 : bits (pos.val + 256 * wid.val) 15 17 = 0 := by unfold bits; omega
  have x3 : bits (pos.val + 256 * wid.val) 0 6 = pos.val := by unfold bits; omega
  have x4 : bits (pos.val + 256 * wid.val) 8 7 = wid.val := by unfold bits; omega
  rw [raw2_1 h0 h1]; unfold decode2_1; rw [h2, finOf_eq eD, finOf_eq eA, finOf_eq x3, finOf_eq x4, eFn, eB, x1, x2]; rfl

theorem binsDw (g : Guard) (d : GReg) (a : GReg) (pos : Fin 64) (wid : Fin 128) : Statement (.binsDw g d a pos wid) := by
  have f0 := g.code_lt
  have f1 := d.isLt
  have f2 := a.isLt
  have f3 := pos.isLt
  have f4 := wid.isLt
  refine of_raw (2 ^ 30 + wordR 1 d.val a.val 0 31 g.code) rfl (by unfold wordR; omega) (show pos.val + 256 * wid.val < 2 ^ 32 by omega) (fun _ => ?_)
  change decodeRaw _ (pos.val + 256 * wid.val) = _
  have := d.isLt
  have := a.isLt
  have := pos.isLt
  have := wid.isLt
  obtain ⟨h0, h1, h2, eD, eA, eB, eFn⟩ := fieldsR1 1 d.val a.val 0 31 g (by omega) (by omega) (by omega) (by omega) (by omega)
  have x1 : bits (pos.val + 256 * wid.val) 6 2 = 0 := by unfold bits; omega
  have x2 : bits (pos.val + 256 * wid.val) 15 17 = 0 := by unfold bits; omega
  have x3 : bits (pos.val + 256 * wid.val) 0 6 = pos.val := by unfold bits; omega
  have x4 : bits (pos.val + 256 * wid.val) 8 7 = wid.val := by unfold bits; omega
  rw [raw2_1 h0 h1]; unfold decode2_1; rw [h2, finOf_eq eD, finOf_eq eA, finOf_eq x3, finOf_eq x4, eFn, eB, x1, x2]; rfl

theorem addi (g : Guard) (d : GReg) (a : GReg) (imm : BitVec 10) : Statement (.addi g d a imm) := by
  have f0 := g.code_lt
  have f1 := d.isLt
  have f2 := a.isLt
  have f3 := imm.isLt
  refine of_raw (wordI 2 d.val a.val imm.toNat g.code) rfl (by unfold wordI; omega) (show 0 < 2 ^ 32 by omega) (fun _ => ?_)
  have := d.isLt
  have := a.isLt
  have := imm.isLt
  obtain ⟨h0, h1, h2, eD, eA, eImm⟩ := fieldsI0 2 d.val a.val imm.toNat g (by omega) (by omega) (by omega) (by omega)
  rw [raw1_2 h0 h1]; unfold decode1_2; rw [h2, finOf_eq eD, finOf_eq eA, ofNat_eq eImm]; rfl

theorem andi (g : Guard) (d : GReg) (a : GReg) (imm : BitVec 10) : Statement (.andi g d a imm) := by
  have f0 := g.code_lt
  have f1 := d.isLt
  have f2 := a.isLt
  have f3 := imm.isLt
  refine of_raw (wordI 3 d.val a.val imm.toNat g.code) rfl (by unfold wordI; omega) (show 0 < 2 ^ 32 by omega) (fun _ => ?_)
  have := d.isLt
  have := a.isLt
  have := imm.isLt
  obtain ⟨h0, h1, h2, eD, eA, eImm⟩ := fieldsI0 3 d.val a.val imm.toNat g (by omega) (by omega) (by omega) (by omega)
  rw [raw1_3 h0 h1]; unfold decode1_3; rw [h2, finOf_eq eD, finOf_eq eA, ofNat_eq eImm]; rfl

theorem ori (g : Guard) (d : GReg) (a : GReg) (imm : BitVec 10) : Statement (.ori g d a imm) := by
  have f0 := g.code_lt
  have f1 := d.isLt
  have f2 := a.isLt
  have f3 := imm.isLt
  refine of_raw (wordI 4 d.val a.val imm.toNat g.code) rfl (by unfold wordI; omega) (show 0 < 2 ^ 32 by omega) (fun _ => ?_)
  have := d.isLt
  have := a.isLt
  have := imm.isLt
  obtain ⟨h0, h1, h2, eD, eA, eImm⟩ := fieldsI0 4 d.val a.val imm.toNat g (by omega) (by omega) (by omega) (by omega)
  rw [raw1_4 h0 h1]; unfold decode1_4; rw [h2, finOf_eq eD, finOf_eq eA, ofNat_eq eImm]; rfl

theorem xori (g : Guard) (d : GReg) (a : GReg) (imm : BitVec 10) : Statement (.xori g d a imm) := by
  have f0 := g.code_lt
  have f1 := d.isLt
  have f2 := a.isLt
  have f3 := imm.isLt
  refine of_raw (wordI 5 d.val a.val imm.toNat g.code) rfl (by unfold wordI; omega) (show 0 < 2 ^ 32 by omega) (fun _ => ?_)
  have := d.isLt
  have := a.isLt
  have := imm.isLt
  obtain ⟨h0, h1, h2, eD, eA, eImm⟩ := fieldsI0 5 d.val a.val imm.toNat g (by omega) (by omega) (by omega) (by omega)
  rw [raw1_5 h0 h1]; unfold decode1_5; rw [h2, finOf_eq eD, finOf_eq eA, ofNat_eq eImm]; rfl

theorem addiDw (g : Guard) (d : GReg) (a : GReg) (imm : BitVec 32) : Statement (.addiDw g d a imm) := by
  have f0 := g.code_lt
  have f1 := d.isLt
  have f2 := a.isLt
  have f3 := imm.isLt
  refine of_raw (2 ^ 30 + wordI 2 d.val a.val 0 g.code) rfl (by unfold wordI; omega) (show imm.toNat < 2 ^ 32 by omega) (fun _ => ?_)
  change decodeRaw _ (imm.toNat) = _
  have := d.isLt
  have := a.isLt
  have := imm.isLt
  obtain ⟨h0, h1, h2, eD, eA, eImm⟩ := fieldsI1 2 d.val a.val 0 g (by omega) (by omega) (by omega) (by omega)
  rw [raw2_2 h0 h1]; unfold decode2_2; rw [h2, finOf_eq eD, finOf_eq eA, ofNat_eq (n := imm.toNat) rfl, eImm]; rfl

theorem andiDw (g : Guard) (d : GReg) (a : GReg) (imm : BitVec 32) : Statement (.andiDw g d a imm) := by
  have f0 := g.code_lt
  have f1 := d.isLt
  have f2 := a.isLt
  have f3 := imm.isLt
  refine of_raw (2 ^ 30 + wordI 3 d.val a.val 0 g.code) rfl (by unfold wordI; omega) (show imm.toNat < 2 ^ 32 by omega) (fun _ => ?_)
  change decodeRaw _ (imm.toNat) = _
  have := d.isLt
  have := a.isLt
  have := imm.isLt
  obtain ⟨h0, h1, h2, eD, eA, eImm⟩ := fieldsI1 3 d.val a.val 0 g (by omega) (by omega) (by omega) (by omega)
  rw [raw2_3 h0 h1]; unfold decode2_3; rw [h2, finOf_eq eD, finOf_eq eA, ofNat_eq (n := imm.toNat) rfl, eImm]; rfl

theorem oriDw (g : Guard) (d : GReg) (a : GReg) (imm : BitVec 32) : Statement (.oriDw g d a imm) := by
  have f0 := g.code_lt
  have f1 := d.isLt
  have f2 := a.isLt
  have f3 := imm.isLt
  refine of_raw (2 ^ 30 + wordI 4 d.val a.val 0 g.code) rfl (by unfold wordI; omega) (show imm.toNat < 2 ^ 32 by omega) (fun _ => ?_)
  change decodeRaw _ (imm.toNat) = _
  have := d.isLt
  have := a.isLt
  have := imm.isLt
  obtain ⟨h0, h1, h2, eD, eA, eImm⟩ := fieldsI1 4 d.val a.val 0 g (by omega) (by omega) (by omega) (by omega)
  rw [raw2_4 h0 h1]; unfold decode2_4; rw [h2, finOf_eq eD, finOf_eq eA, ofNat_eq (n := imm.toNat) rfl, eImm]; rfl

theorem xoriDw (g : Guard) (d : GReg) (a : GReg) (imm : BitVec 32) : Statement (.xoriDw g d a imm) := by
  have f0 := g.code_lt
  have f1 := d.isLt
  have f2 := a.isLt
  have f3 := imm.isLt
  refine of_raw (2 ^ 30 + wordI 5 d.val a.val 0 g.code) rfl (by unfold wordI; omega) (show imm.toNat < 2 ^ 32 by omega) (fun _ => ?_)
  change decodeRaw _ (imm.toNat) = _
  have := d.isLt
  have := a.isLt
  have := imm.isLt
  obtain ⟨h0, h1, h2, eD, eA, eImm⟩ := fieldsI1 5 d.val a.val 0 g (by omega) (by omega) (by omega) (by omega)
  rw [raw2_5 h0 h1]; unfold decode2_5; rw [h2, finOf_eq eD, finOf_eq eA, ofNat_eq (n := imm.toNat) rfl, eImm]; rfl

theorem shli (g : Guard) (d : GReg) (a : GReg) (n : Fin 64) : Statement (.shli g d a n) := by
  have f0 := g.code_lt
  have f1 := d.isLt
  have f2 := a.isLt
  have f3 := n.isLt
  refine of_raw (wordI 6 d.val a.val (0 * 256 + n.val) g.code) rfl (by unfold wordI; omega) (show 0 < 2 ^ 32 by omega) (fun _ => ?_)
  have := d.isLt
  have := a.isLt
  have := n.isLt
  obtain ⟨h0, h1, h2, eD, eA, eImm⟩ := fieldsI0 6 d.val a.val (0 * 256 + n.val) g (by omega) (by omega) (by omega) (by omega)
  have x1 : fImm (wordI 6 d.val a.val (0 * 256 + n.val) g.code) % 256 = n.val := by omega
  have x2 : fImm (wordI 6 d.val a.val (0 * 256 + n.val) g.code) / 256 = 0 := by omega
  rw [raw1_6 h0 h1]; unfold decode1_6; rw [h2, finOf_eq eD, finOf_eq eA, finOf_eq x1, x2]; rfl

theorem shri (g : Guard) (d : GReg) (a : GReg) (n : Fin 64) : Statement (.shri g d a n) := by
  have f0 := g.code_lt
  have f1 := d.isLt
  have f2 := a.isLt
  have f3 := n.isLt
  refine of_raw (wordI 6 d.val a.val (1 * 256 + n.val) g.code) rfl (by unfold wordI; omega) (show 0 < 2 ^ 32 by omega) (fun _ => ?_)
  have := d.isLt
  have := a.isLt
  have := n.isLt
  obtain ⟨h0, h1, h2, eD, eA, eImm⟩ := fieldsI0 6 d.val a.val (1 * 256 + n.val) g (by omega) (by omega) (by omega) (by omega)
  have x1 : fImm (wordI 6 d.val a.val (1 * 256 + n.val) g.code) % 256 = n.val := by omega
  have x2 : fImm (wordI 6 d.val a.val (1 * 256 + n.val) g.code) / 256 = 1 := by omega
  rw [raw1_6 h0 h1]; unfold decode1_6; rw [h2, finOf_eq eD, finOf_eq eA, finOf_eq x1, x2]; rfl

theorem sari (g : Guard) (d : GReg) (a : GReg) (n : Fin 64) : Statement (.sari g d a n) := by
  have f0 := g.code_lt
  have f1 := d.isLt
  have f2 := a.isLt
  have f3 := n.isLt
  refine of_raw (wordI 6 d.val a.val (2 * 256 + n.val) g.code) rfl (by unfold wordI; omega) (show 0 < 2 ^ 32 by omega) (fun _ => ?_)
  have := d.isLt
  have := a.isLt
  have := n.isLt
  obtain ⟨h0, h1, h2, eD, eA, eImm⟩ := fieldsI0 6 d.val a.val (2 * 256 + n.val) g (by omega) (by omega) (by omega) (by omega)
  have x1 : fImm (wordI 6 d.val a.val (2 * 256 + n.val) g.code) % 256 = n.val := by omega
  have x2 : fImm (wordI 6 d.val a.val (2 * 256 + n.val) g.code) / 256 = 2 := by omega
  rw [raw1_6 h0 h1]; unfold decode1_6; rw [h2, finOf_eq eD, finOf_eq eA, finOf_eq x1, x2]; rfl

theorem limm (g : Guard) (d : GReg) (imm : BitVec 10) : Statement (.limm g d imm) := by
  have f0 := g.code_lt
  have f1 := d.isLt
  have f2 := imm.isLt
  refine of_raw (wordI 7 d.val 0 imm.toNat g.code) rfl (by unfold wordI; omega) (show 0 < 2 ^ 32 by omega) (fun _ => ?_)
  have := d.isLt
  have := imm.isLt
  obtain ⟨h0, h1, h2, eD, eA, eImm⟩ := fieldsI0 7 d.val 0 imm.toNat g (by omega) (by omega) (by omega) (by omega)
  rw [raw1_7 h0 h1]; unfold decode1_7; rw [h2, finOf_eq eD, ofNat_eq eImm, eA]; rfl

theorem limmh (g : Guard) (d : GReg) (imm : BitVec 10) : Statement (.limmh g d imm) := by
  have f0 := g.code_lt
  have f1 := d.isLt
  have f2 := imm.isLt
  refine of_raw (wordI 7 d.val 1 imm.toNat g.code) rfl (by unfold wordI; omega) (show 0 < 2 ^ 32 by omega) (fun _ => ?_)
  have := d.isLt
  have := imm.isLt
  obtain ⟨h0, h1, h2, eD, eA, eImm⟩ := fieldsI0 7 d.val 1 imm.toNat g (by omega) (by omega) (by omega) (by omega)
  rw [raw1_7 h0 h1]; unfold decode1_7; rw [h2, finOf_eq eD, ofNat_eq eImm, eA]; rfl

theorem addpc (g : Guard) (d : GReg) (imm : BitVec 10) : Statement (.addpc g d imm) := by
  have f0 := g.code_lt
  have f1 := d.isLt
  have f2 := imm.isLt
  refine of_raw (wordI 7 d.val 2 imm.toNat g.code) rfl (by unfold wordI; omega) (show 0 < 2 ^ 32 by omega) (fun _ => ?_)
  have := d.isLt
  have := imm.isLt
  obtain ⟨h0, h1, h2, eD, eA, eImm⟩ := fieldsI0 7 d.val 2 imm.toNat g (by omega) (by omega) (by omega) (by omega)
  rw [raw1_7 h0 h1]; unfold decode1_7; rw [h2, finOf_eq eD, ofNat_eq eImm, eA]; rfl

theorem limmDw (g : Guard) (d : GReg) (imm : BitVec 32) : Statement (.limmDw g d imm) := by
  have f0 := g.code_lt
  have f1 := d.isLt
  have f2 := imm.isLt
  refine of_raw (2 ^ 30 + wordI 7 d.val 0 0 g.code) rfl (by unfold wordI; omega) (show imm.toNat < 2 ^ 32 by omega) (fun _ => ?_)
  change decodeRaw _ (imm.toNat) = _
  have := d.isLt
  have := imm.isLt
  obtain ⟨h0, h1, h2, eD, eA, eImm⟩ := fieldsI1 7 d.val 0 0 g (by omega) (by omega) (by omega) (by omega)
  rw [raw2_7 h0 h1]; unfold decode2_7; rw [h2, finOf_eq eD, ofNat_eq (n := imm.toNat) rfl, eA, eImm]; rfl

theorem limmhDw (g : Guard) (d : GReg) (imm : BitVec 32) : Statement (.limmhDw g d imm) := by
  have f0 := g.code_lt
  have f1 := d.isLt
  have f2 := imm.isLt
  refine of_raw (2 ^ 30 + wordI 7 d.val 1 0 g.code) rfl (by unfold wordI; omega) (show imm.toNat < 2 ^ 32 by omega) (fun _ => ?_)
  change decodeRaw _ (imm.toNat) = _
  have := d.isLt
  have := imm.isLt
  obtain ⟨h0, h1, h2, eD, eA, eImm⟩ := fieldsI1 7 d.val 1 0 g (by omega) (by omega) (by omega) (by omega)
  rw [raw2_7 h0 h1]; unfold decode2_7; rw [h2, finOf_eq eD, ofNat_eq (n := imm.toNat) rfl, eA, eImm]; rfl

theorem addpcDw (g : Guard) (d : GReg) (imm : BitVec 32) : Statement (.addpcDw g d imm) := by
  have f0 := g.code_lt
  have f1 := d.isLt
  have f2 := imm.isLt
  refine of_raw (2 ^ 30 + wordI 7 d.val 2 0 g.code) rfl (by unfold wordI; omega) (show imm.toNat < 2 ^ 32 by omega) (fun _ => ?_)
  change decodeRaw _ (imm.toNat) = _
  have := d.isLt
  have := imm.isLt
  obtain ⟨h0, h1, h2, eD, eA, eImm⟩ := fieldsI1 7 d.val 2 0 g (by omega) (by omega) (by omega) (by omega)
  rw [raw2_7 h0 h1]; unfold decode2_7; rw [h2, finOf_eq eD, ofNat_eq (n := imm.toNat) rfl, eA, eImm]; rfl

theorem cmpCc (g : Guard) (c : Fin 8) (p : PReg) (a : GReg) (b : GReg) : Statement (.cmpCc g c p a b) := by
  have f0 := g.code_lt
  have f1 := c.isLt
  have f2 := p.isLt
  have f3 := a.isLt
  have f4 := b.isLt
  refine of_raw (wordR 8 p.val a.val b.val c.val g.code) rfl (by unfold wordR; omega) (show 0 < 2 ^ 32 by omega) (fun _ => ?_)
  have := c.isLt
  have := p.isLt
  have := a.isLt
  have := b.isLt
  obtain ⟨h0, h1, h2, eD, eA, eB, eFn⟩ := fieldsR0 8 p.val a.val b.val c.val g (by omega) (by omega) (by omega) (by omega) (by omega)
  rw [raw1_8 h0 h1]; unfold decode1_8; rw [h2, finOf_eq eFn, finOf_eq eD, finOf_eq eA, finOf_eq eB]; rfl

theorem cmpiCcLow (g : Guard) (c : Fin 4) (p : PReg) (a : GReg) (imm : BitVec 10) : Statement (.cmpiCcLow g c p a imm) := by
  have f0 := g.code_lt
  have f1 := c.isLt
  have f2 := p.isLt
  have f3 := a.isLt
  have f4 := imm.isLt
  refine of_raw (wordI 9 (8 * c.val + p.val) a.val imm.toNat g.code) rfl (by unfold wordI; omega) (show 0 < 2 ^ 32 by omega) (fun _ => ?_)
  have := c.isLt
  have := p.isLt
  have := a.isLt
  have := imm.isLt
  obtain ⟨h0, h1, h2, eD, eA, eImm⟩ := fieldsI0 9 (8 * c.val + p.val) a.val imm.toNat g (by omega) (by omega) (by omega) (by omega)
  have x1 : fD (wordI 9 (8 * c.val + p.val) a.val imm.toNat g.code) / 8 = c.val := by omega
  have x2 : fD (wordI 9 (8 * c.val + p.val) a.val imm.toNat g.code) % 8 = p.val := by omega
  rw [raw1_9 h0 h1]; unfold decode1_9; rw [h2, finOf_eq x1, finOf_eq x2, finOf_eq eA, ofNat_eq eImm]; rfl

theorem cmpiCcHigh (g : Guard) (c : Fin 4) (p : PReg) (a : GReg) (imm : BitVec 10) : Statement (.cmpiCcHigh g c p a imm) := by
  have f0 := g.code_lt
  have f1 := c.isLt
  have f2 := p.isLt
  have f3 := a.isLt
  have f4 := imm.isLt
  refine of_raw (wordI 10 (8 * c.val + p.val) a.val imm.toNat g.code) rfl (by unfold wordI; omega) (show 0 < 2 ^ 32 by omega) (fun _ => ?_)
  have := c.isLt
  have := p.isLt
  have := a.isLt
  have := imm.isLt
  obtain ⟨h0, h1, h2, eD, eA, eImm⟩ := fieldsI0 10 (8 * c.val + p.val) a.val imm.toNat g (by omega) (by omega) (by omega) (by omega)
  have x1 : fD (wordI 10 (8 * c.val + p.val) a.val imm.toNat g.code) / 8 = c.val := by omega
  have x2 : fD (wordI 10 (8 * c.val + p.val) a.val imm.toNat g.code) % 8 = p.val := by omega
  rw [raw1_10 h0 h1]; unfold decode1_10; rw [h2, finOf_eq x1, finOf_eq x2, finOf_eq eA, ofNat_eq eImm]; rfl

theorem cmpiDw (g : Guard) (c : Fin 8) (p : PReg) (a : GReg) (imm : BitVec 32) : Statement (.cmpiDw g c p a imm) := by
  have f0 := g.code_lt
  have f1 := c.isLt
  have f2 := p.isLt
  have f3 := a.isLt
  have f4 := imm.isLt
  refine of_raw (2 ^ 30 + wordI (9 + c.val / 4) (8 * (c.val % 4) + p.val) a.val 0 g.code) rfl (by unfold wordI; omega) (show imm.toNat < 2 ^ 32 by omega) (fun _ => ?_)
  change decodeRaw _ imm.toNat = _
  have hc := c.isLt
  have hp := p.isLt
  obtain ⟨h0, h1, h2, eD, eA, eImm⟩ := fieldsI1 (9 + c.val / 4) (8 * (c.val % 4) + p.val) a.val 0 g (by omega) (by omega) a.isLt (by omega)
  generalize hw : 2 ^ 30 + wordI (9 + c.val / 4) (8 * (c.val % 4) + p.val) a.val 0 g.code = w at *
  have x1 : 4 * (fMajor w - 9) + fD w / 8 = c.val := by omega
  have x2 : fD w % 8 = p.val := by omega
  have hm : fMajor w = 9 ∨ fMajor w = 10 := by omega
  rcases hm with hm | hm
  · rw [raw2_9 h0 hm]; unfold decode2_9; rw [h2, finOf_eq x1, finOf_eq x2, finOf_eq eA, eImm, ofNat_eq (n := imm.toNat) rfl]; rfl
  · rw [raw2_10 h0 hm]; unfold decode2_10; rw [h2, finOf_eq x1, finOf_eq x2, finOf_eq eA, eImm, ofNat_eq (n := imm.toNat) rfl]; rfl

theorem pand (g : Guard) (d : PReg) (a : PReg) (b : PReg) : Statement (.pand g d a b) := by
  have f0 := g.code_lt
  have f1 := d.isLt
  have f2 := a.isLt
  have f3 := b.isLt
  refine of_raw (wordR 11 d.val a.val b.val 0 g.code) rfl (by unfold wordR; omega) (show 0 < 2 ^ 32 by omega) (fun _ => ?_)
  have := d.isLt
  have := a.isLt
  have := b.isLt
  obtain ⟨h0, h1, h2, eD, eA, eB, eFn⟩ := fieldsR0 11 d.val a.val b.val 0 g (by omega) (by omega) (by omega) (by omega) (by omega)
  rw [raw1_11 h0 h1]; unfold decode1_11; rw [h2, finOf_eq eD, finOf_eq eA, finOf_eq eB, eFn]; rfl

theorem por (g : Guard) (d : PReg) (a : PReg) (b : PReg) : Statement (.por g d a b) := by
  have f0 := g.code_lt
  have f1 := d.isLt
  have f2 := a.isLt
  have f3 := b.isLt
  refine of_raw (wordR 11 d.val a.val b.val 1 g.code) rfl (by unfold wordR; omega) (show 0 < 2 ^ 32 by omega) (fun _ => ?_)
  have := d.isLt
  have := a.isLt
  have := b.isLt
  obtain ⟨h0, h1, h2, eD, eA, eB, eFn⟩ := fieldsR0 11 d.val a.val b.val 1 g (by omega) (by omega) (by omega) (by omega) (by omega)
  rw [raw1_11 h0 h1]; unfold decode1_11; rw [h2, finOf_eq eD, finOf_eq eA, finOf_eq eB, eFn]; rfl

theorem pxor (g : Guard) (d : PReg) (a : PReg) (b : PReg) : Statement (.pxor g d a b) := by
  have f0 := g.code_lt
  have f1 := d.isLt
  have f2 := a.isLt
  have f3 := b.isLt
  refine of_raw (wordR 11 d.val a.val b.val 2 g.code) rfl (by unfold wordR; omega) (show 0 < 2 ^ 32 by omega) (fun _ => ?_)
  have := d.isLt
  have := a.isLt
  have := b.isLt
  obtain ⟨h0, h1, h2, eD, eA, eB, eFn⟩ := fieldsR0 11 d.val a.val b.val 2 g (by omega) (by omega) (by omega) (by omega) (by omega)
  rw [raw1_11 h0 h1]; unfold decode1_11; rw [h2, finOf_eq eD, finOf_eq eA, finOf_eq eB, eFn]; rfl

theorem pnot (g : Guard) (d : PReg) (a : PReg) : Statement (.pnot g d a) := by
  have f0 := g.code_lt
  have f1 := d.isLt
  have f2 := a.isLt
  refine of_raw (wordR 11 d.val a.val 0 3 g.code) rfl (by unfold wordR; omega) (show 0 < 2 ^ 32 by omega) (fun _ => ?_)
  have := d.isLt
  have := a.isLt
  obtain ⟨h0, h1, h2, eD, eA, eB, eFn⟩ := fieldsR0 11 d.val a.val 0 3 g (by omega) (by omega) (by omega) (by omega) (by omega)
  rw [raw1_11 h0 h1]; unfold decode1_11; rw [h2, finOf_eq eD, finOf_eq eA, eFn, eB]; rfl

theorem pmov (g : Guard) (d : PReg) (a : PReg) : Statement (.pmov g d a) := by
  have f0 := g.code_lt
  have f1 := d.isLt
  have f2 := a.isLt
  refine of_raw (wordR 11 d.val a.val 0 4 g.code) rfl (by unfold wordR; omega) (show 0 < 2 ^ 32 by omega) (fun _ => ?_)
  have := d.isLt
  have := a.isLt
  obtain ⟨h0, h1, h2, eD, eA, eB, eFn⟩ := fieldsR0 11 d.val a.val 0 4 g (by omega) (by omega) (by omega) (by omega) (by omega)
  rw [raw1_11 h0 h1]; unfold decode1_11; rw [h2, finOf_eq eD, finOf_eq eA, eFn, eB]; rfl

theorem br (g : Guard) (off : BitVec 20) : Statement (.br g off) := by
  have f0 := g.code_lt
  have f1 := off.isLt
  refine of_raw (wordB 12 off.toNat g.code) rfl (by unfold wordB; omega) (show 0 < 2 ^ 32 by omega) (fun _ => ?_)
  have := off.isLt
  obtain ⟨h0, h1, h2, eOff20⟩ := fieldsB0 12 off.toNat g (by omega) (by omega)
  rw [raw1_12 h0 h1]; unfold decode1_12; rw [h2, ofNat_eq eOff20]; rfl

theorem call (g : Guard) (off : BitVec 20) : Statement (.call g off) := by
  have f0 := g.code_lt
  have f1 := off.isLt
  refine of_raw (wordB 13 off.toNat g.code) rfl (by unfold wordB; omega) (show 0 < 2 ^ 32 by omega) (fun _ => ?_)
  have := off.isLt
  obtain ⟨h0, h1, h2, eOff20⟩ := fieldsB0 13 off.toNat g (by omega) (by omega)
  rw [raw1_13 h0 h1]; unfold decode1_13; rw [h2, ofNat_eq eOff20]; rfl

theorem jr (g : Guard) (a : GReg) : Statement (.jr g a) := by
  have f0 := g.code_lt
  have f1 := a.isLt
  refine of_raw (wordR 14 0 a.val 0 0 g.code) rfl (by unfold wordR; omega) (show 0 < 2 ^ 32 by omega) (fun _ => ?_)
  have := a.isLt
  obtain ⟨h0, h1, h2, eD, eA, eB, eFn⟩ := fieldsR0 14 0 a.val 0 0 g (by omega) (by omega) (by omega) (by omega) (by omega)
  rw [raw1_14 h0 h1]; unfold decode1_14; rw [h2, finOf_eq eA, eFn, eD, eB]; rfl

theorem ret (g : Guard) : Statement (.ret g) := by
  have f0 := g.code_lt
  refine of_raw (wordR 14 0 0 0 1 g.code) rfl (by unfold wordR; omega) (show 0 < 2 ^ 32 by omega) (fun _ => ?_)
  obtain ⟨h0, h1, h2, eD, eA, eB, eFn⟩ := fieldsR0 14 0 0 0 1 g (by omega) (by omega) (by omega) (by omega) (by omega)
  rw [raw1_14 h0 h1]; unfold decode1_14; rw [h2, eFn, eD, eA, eB]; rfl

theorem rot (g : Guard) : Statement (.rot g) := by
  have f0 := g.code_lt
  refine of_raw (wordR 14 0 0 0 2 g.code) rfl (by unfold wordR; omega) (show 0 < 2 ^ 32 by omega) (fun _ => ?_)
  obtain ⟨h0, h1, h2, eD, eA, eB, eFn⟩ := fieldsR0 14 0 0 0 2 g (by omega) (by omega) (by omega) (by omega) (by omega)
  rw [raw1_14 h0 h1]; unfold decode1_14; rw [h2, eFn, eD, eA, eB]; rfl

theorem stage (g : Guard) (a : GReg) : Statement (.stage g a) := by
  have f0 := g.code_lt
  have f1 := a.isLt
  refine of_raw (wordR 14 0 a.val 0 3 g.code) rfl (by unfold wordR; omega) (show 0 < 2 ^ 32 by omega) (fun _ => ?_)
  have := a.isLt
  obtain ⟨h0, h1, h2, eD, eA, eB, eFn⟩ := fieldsR0 14 0 a.val 0 3 g (by omega) (by omega) (by omega) (by omega) (by omega)
  rw [raw1_14 h0 h1]; unfold decode1_14; rw [h2, finOf_eq eA, eFn, eD, eB]; rfl

theorem nop (g : Guard) : Statement (.nop g) := by
  have f0 := g.code_lt
  refine of_raw (wordR 14 0 0 0 4 g.code) rfl (by unfold wordR; omega) (show 0 < 2 ^ 32 by omega) (fun _ => ?_)
  obtain ⟨h0, h1, h2, eD, eA, eB, eFn⟩ := fieldsR0 14 0 0 0 4 g (by omega) (by omega) (by omega) (by omega) (by omega)
  rw [raw1_14 h0 h1]; unfold decode1_14; rw [h2, eFn, eD, eA, eB]; rfl

theorem hint (g : Guard) (b : Fin 32) : Statement (.hint g b) := by
  have f0 := g.code_lt
  have f1 := b.isLt
  refine of_raw (wordR 14 0 0 b.val 5 g.code) rfl (by unfold wordR; omega) (show 0 < 2 ^ 32 by omega) (fun _ => ?_)
  have := b.isLt
  obtain ⟨h0, h1, h2, eD, eA, eB, eFn⟩ := fieldsR0 14 0 0 b.val 5 g (by omega) (by omega) (by omega) (by omega) (by omega)
  rw [raw1_14 h0 h1]; unfold decode1_14; rw [h2, finOf_eq eB, eFn, eD, eA]; rfl

theorem loop (g : Guard) (n : LcReg) (a : GReg) (len : BitVec 10) : Statement (.loop g n a len) := by
  have f0 := g.code_lt
  have f1 := n.isLt
  have f2 := a.isLt
  have f3 := len.isLt
  refine of_raw (wordI 15 (n.val + 2 * 0) a.val len.toNat g.code) rfl (by unfold wordI; omega) (show 0 < 2 ^ 32 by omega) (fun _ => ?_)
  have := n.isLt
  have := a.isLt
  have := len.isLt
  obtain ⟨h0, h1, h2, eD, eA, eImm⟩ := fieldsI0 15 (n.val + 2 * 0) a.val len.toNat g (by omega) (by omega) (by omega) (by omega)
  have x1 : fD (wordI 15 (n.val + 2 * 0) a.val len.toNat g.code) % 2 = n.val := by omega
  have x2 : fD (wordI 15 (n.val + 2 * 0) a.val len.toNat g.code) / 2 = 0 := by omega
  rw [raw1_15 h0 h1]; unfold decode1_15; rw [h2, finOf_eq x1, finOf_eq eA, ofNat_eq eImm, x2]; rfl

theorem loopP (g : Guard) (n : LcReg) (a : GReg) (len : BitVec 10) : Statement (.loopP g n a len) := by
  have f0 := g.code_lt
  have f1 := n.isLt
  have f2 := a.isLt
  have f3 := len.isLt
  refine of_raw (wordI 15 (n.val + 2 * 1) a.val len.toNat g.code) rfl (by unfold wordI; omega) (show 0 < 2 ^ 32 by omega) (fun _ => ?_)
  have := n.isLt
  have := a.isLt
  have := len.isLt
  obtain ⟨h0, h1, h2, eD, eA, eImm⟩ := fieldsI0 15 (n.val + 2 * 1) a.val len.toNat g (by omega) (by omega) (by omega) (by omega)
  have x1 : fD (wordI 15 (n.val + 2 * 1) a.val len.toNat g.code) % 2 = n.val := by omega
  have x2 : fD (wordI 15 (n.val + 2 * 1) a.val len.toNat g.code) / 2 = 1 := by omega
  rw [raw1_15 h0 h1]; unfold decode1_15; rw [h2, finOf_eq x1, finOf_eq eA, ofNat_eq eImm, x2]; rfl

theorem loopDw (g : Guard) (pipe : Bool) (n : LcReg) (len : BitVec 10) (trips : BitVec 32) : Statement (.loopDw g pipe n len trips) := by
  have f0 := g.code_lt
  have f1 := pipe.toNat_lt
  have f2 := n.isLt
  have f3 := len.isLt
  have f4 := trips.isLt
  refine of_raw (2 ^ 30 + wordI 15 (n.val + 2 * pipe.toNat) 0 len.toNat g.code) rfl (by unfold wordI; omega) (show trips.toNat < 2 ^ 32 by omega) (fun _ => ?_)
  change decodeRaw _ trips.toNat = _
  have hn := n.isLt
  have hp := pipe.toNat_lt
  obtain ⟨h0, h1, h2, eD, eA, eImm⟩ := fieldsI1 15 (n.val + 2 * pipe.toNat) 0 len.toNat g (by omega) (by omega) (by omega) len.isLt
  have x1 : fD (2 ^ 30 + wordI 15 (n.val + 2 * pipe.toNat) 0 len.toNat g.code) % 2 = n.val := by omega
  have x2 : fD (2 ^ 30 + wordI 15 (n.val + 2 * pipe.toNat) 0 len.toNat g.code) / 4 = 0 := by omega
  have x3 : fD (2 ^ 30 + wordI 15 (n.val + 2 * pipe.toNat) 0 len.toNat g.code) / 2 % 2 = pipe.toNat := by omega
  rw [raw2_15 h0 h1]; unfold decode2_15
  rw [h2, finOf_eq x1, x2, x3, ofNat_eq eImm, ofNat_eq (n := trips.toNat) rfl, eA]
  cases pipe <;> rfl

theorem ldb (g : Guard) (d : GReg) (a : GReg) (off : BitVec 6) : Statement (.ldb g d a off) := by
  have f0 := g.code_lt
  have f1 := d.isLt
  have f2 := a.isLt
  have f3 := off.isLt
  refine of_raw (wordM 16 d.val a.val 0 off.toNat g.code) rfl (by unfold wordM; omega) (show 0 < 2 ^ 32 by omega) (fun _ => ?_)
  have := d.isLt
  have := a.isLt
  have := off.isLt
  obtain ⟨h0, h1, h2, eD, eA, eOp, eOff6⟩ := fieldsM0 16 d.val a.val 0 off.toNat g (by omega) (by omega) (by omega) (by omega) (by omega)
  rw [raw1_16 h0 h1]; unfold decode1_16; rw [h2, finOf_eq eD, finOf_eq eA, ofNat_eq eOff6, eOp]; rfl

theorem ldh (g : Guard) (d : GReg) (a : GReg) (off : BitVec 6) : Statement (.ldh g d a off) := by
  have f0 := g.code_lt
  have f1 := d.isLt
  have f2 := a.isLt
  have f3 := off.isLt
  refine of_raw (wordM 16 d.val a.val 1 off.toNat g.code) rfl (by unfold wordM; omega) (show 0 < 2 ^ 32 by omega) (fun _ => ?_)
  have := d.isLt
  have := a.isLt
  have := off.isLt
  obtain ⟨h0, h1, h2, eD, eA, eOp, eOff6⟩ := fieldsM0 16 d.val a.val 1 off.toNat g (by omega) (by omega) (by omega) (by omega) (by omega)
  rw [raw1_16 h0 h1]; unfold decode1_16; rw [h2, finOf_eq eD, finOf_eq eA, ofNat_eq eOff6, eOp]; rfl

theorem ldw (g : Guard) (d : GReg) (a : GReg) (off : BitVec 6) : Statement (.ldw g d a off) := by
  have f0 := g.code_lt
  have f1 := d.isLt
  have f2 := a.isLt
  have f3 := off.isLt
  refine of_raw (wordM 16 d.val a.val 2 off.toNat g.code) rfl (by unfold wordM; omega) (show 0 < 2 ^ 32 by omega) (fun _ => ?_)
  have := d.isLt
  have := a.isLt
  have := off.isLt
  obtain ⟨h0, h1, h2, eD, eA, eOp, eOff6⟩ := fieldsM0 16 d.val a.val 2 off.toNat g (by omega) (by omega) (by omega) (by omega) (by omega)
  rw [raw1_16 h0 h1]; unfold decode1_16; rw [h2, finOf_eq eD, finOf_eq eA, ofNat_eq eOff6, eOp]; rfl

theorem ldd (g : Guard) (d : GReg) (a : GReg) (off : BitVec 6) : Statement (.ldd g d a off) := by
  have f0 := g.code_lt
  have f1 := d.isLt
  have f2 := a.isLt
  have f3 := off.isLt
  refine of_raw (wordM 16 d.val a.val 3 off.toNat g.code) rfl (by unfold wordM; omega) (show 0 < 2 ^ 32 by omega) (fun _ => ?_)
  have := d.isLt
  have := a.isLt
  have := off.isLt
  obtain ⟨h0, h1, h2, eD, eA, eOp, eOff6⟩ := fieldsM0 16 d.val a.val 3 off.toNat g (by omega) (by omega) (by omega) (by omega) (by omega)
  rw [raw1_16 h0 h1]; unfold decode1_16; rw [h2, finOf_eq eD, finOf_eq eA, ofNat_eq eOff6, eOp]; rfl

theorem ldbz (g : Guard) (d : GReg) (a : GReg) (off : BitVec 6) : Statement (.ldbz g d a off) := by
  have f0 := g.code_lt
  have f1 := d.isLt
  have f2 := a.isLt
  have f3 := off.isLt
  refine of_raw (wordM 16 d.val a.val 4 off.toNat g.code) rfl (by unfold wordM; omega) (show 0 < 2 ^ 32 by omega) (fun _ => ?_)
  have := d.isLt
  have := a.isLt
  have := off.isLt
  obtain ⟨h0, h1, h2, eD, eA, eOp, eOff6⟩ := fieldsM0 16 d.val a.val 4 off.toNat g (by omega) (by omega) (by omega) (by omega) (by omega)
  rw [raw1_16 h0 h1]; unfold decode1_16; rw [h2, finOf_eq eD, finOf_eq eA, ofNat_eq eOff6, eOp]; rfl

theorem ldhz (g : Guard) (d : GReg) (a : GReg) (off : BitVec 6) : Statement (.ldhz g d a off) := by
  have f0 := g.code_lt
  have f1 := d.isLt
  have f2 := a.isLt
  have f3 := off.isLt
  refine of_raw (wordM 16 d.val a.val 5 off.toNat g.code) rfl (by unfold wordM; omega) (show 0 < 2 ^ 32 by omega) (fun _ => ?_)
  have := d.isLt
  have := a.isLt
  have := off.isLt
  obtain ⟨h0, h1, h2, eD, eA, eOp, eOff6⟩ := fieldsM0 16 d.val a.val 5 off.toNat g (by omega) (by omega) (by omega) (by omega) (by omega)
  rw [raw1_16 h0 h1]; unfold decode1_16; rw [h2, finOf_eq eD, finOf_eq eA, ofNat_eq eOff6, eOp]; rfl

theorem ldwz (g : Guard) (d : GReg) (a : GReg) (off : BitVec 6) : Statement (.ldwz g d a off) := by
  have f0 := g.code_lt
  have f1 := d.isLt
  have f2 := a.isLt
  have f3 := off.isLt
  refine of_raw (wordM 16 d.val a.val 6 off.toNat g.code) rfl (by unfold wordM; omega) (show 0 < 2 ^ 32 by omega) (fun _ => ?_)
  have := d.isLt
  have := a.isLt
  have := off.isLt
  obtain ⟨h0, h1, h2, eD, eA, eOp, eOff6⟩ := fieldsM0 16 d.val a.val 6 off.toNat g (by omega) (by omega) (by omega) (by omega) (by omega)
  rw [raw1_16 h0 h1]; unfold decode1_16; rw [h2, finOf_eq eD, finOf_eq eA, ofNat_eq eOff6, eOp]; rfl

theorem stb (g : Guard) (d : GReg) (a : GReg) (off : BitVec 6) : Statement (.stb g d a off) := by
  have f0 := g.code_lt
  have f1 := d.isLt
  have f2 := a.isLt
  have f3 := off.isLt
  refine of_raw (wordM 16 d.val a.val 8 off.toNat g.code) rfl (by unfold wordM; omega) (show 0 < 2 ^ 32 by omega) (fun _ => ?_)
  have := d.isLt
  have := a.isLt
  have := off.isLt
  obtain ⟨h0, h1, h2, eD, eA, eOp, eOff6⟩ := fieldsM0 16 d.val a.val 8 off.toNat g (by omega) (by omega) (by omega) (by omega) (by omega)
  rw [raw1_16 h0 h1]; unfold decode1_16; rw [h2, finOf_eq eD, finOf_eq eA, ofNat_eq eOff6, eOp]; rfl

theorem sth (g : Guard) (d : GReg) (a : GReg) (off : BitVec 6) : Statement (.sth g d a off) := by
  have f0 := g.code_lt
  have f1 := d.isLt
  have f2 := a.isLt
  have f3 := off.isLt
  refine of_raw (wordM 16 d.val a.val 9 off.toNat g.code) rfl (by unfold wordM; omega) (show 0 < 2 ^ 32 by omega) (fun _ => ?_)
  have := d.isLt
  have := a.isLt
  have := off.isLt
  obtain ⟨h0, h1, h2, eD, eA, eOp, eOff6⟩ := fieldsM0 16 d.val a.val 9 off.toNat g (by omega) (by omega) (by omega) (by omega) (by omega)
  rw [raw1_16 h0 h1]; unfold decode1_16; rw [h2, finOf_eq eD, finOf_eq eA, ofNat_eq eOff6, eOp]; rfl

theorem stw (g : Guard) (d : GReg) (a : GReg) (off : BitVec 6) : Statement (.stw g d a off) := by
  have f0 := g.code_lt
  have f1 := d.isLt
  have f2 := a.isLt
  have f3 := off.isLt
  refine of_raw (wordM 16 d.val a.val 10 off.toNat g.code) rfl (by unfold wordM; omega) (show 0 < 2 ^ 32 by omega) (fun _ => ?_)
  have := d.isLt
  have := a.isLt
  have := off.isLt
  obtain ⟨h0, h1, h2, eD, eA, eOp, eOff6⟩ := fieldsM0 16 d.val a.val 10 off.toNat g (by omega) (by omega) (by omega) (by omega) (by omega)
  rw [raw1_16 h0 h1]; unfold decode1_16; rw [h2, finOf_eq eD, finOf_eq eA, ofNat_eq eOff6, eOp]; rfl

theorem std (g : Guard) (d : GReg) (a : GReg) (off : BitVec 6) : Statement (.std g d a off) := by
  have f0 := g.code_lt
  have f1 := d.isLt
  have f2 := a.isLt
  have f3 := off.isLt
  refine of_raw (wordM 16 d.val a.val 11 off.toNat g.code) rfl (by unfold wordM; omega) (show 0 < 2 ^ 32 by omega) (fun _ => ?_)
  have := d.isLt
  have := a.isLt
  have := off.isLt
  obtain ⟨h0, h1, h2, eD, eA, eOp, eOff6⟩ := fieldsM0 16 d.val a.val 11 off.toNat g (by omega) (by omega) (by omega) (by omega) (by omega)
  rw [raw1_16 h0 h1]; unfold decode1_16; rw [h2, finOf_eq eD, finOf_eq eA, ofNat_eq eOff6, eOp]; rfl

theorem ldbDw (g : Guard) (d : GReg) (a : GReg) (disp : BitVec 32) : Statement (.ldbDw g d a disp) := by
  have f0 := g.code_lt
  have f1 := d.isLt
  have f2 := a.isLt
  have f3 := disp.isLt
  refine of_raw (2 ^ 30 + wordM 16 d.val a.val 0 0 g.code) rfl (by unfold wordM; omega) (show disp.toNat < 2 ^ 32 by omega) (fun _ => ?_)
  change decodeRaw _ (disp.toNat) = _
  have := d.isLt
  have := a.isLt
  have := disp.isLt
  obtain ⟨h0, h1, h2, eD, eA, eOp, eOff6⟩ := fieldsM1 16 d.val a.val 0 0 g (by omega) (by omega) (by omega) (by omega) (by omega)
  rw [raw2_16 h0 h1]; unfold decode2_16; rw [h2, finOf_eq eD, finOf_eq eA, ofNat_eq (n := disp.toNat) rfl, eOp, eOff6]; rfl

theorem ldhDw (g : Guard) (d : GReg) (a : GReg) (disp : BitVec 32) : Statement (.ldhDw g d a disp) := by
  have f0 := g.code_lt
  have f1 := d.isLt
  have f2 := a.isLt
  have f3 := disp.isLt
  refine of_raw (2 ^ 30 + wordM 16 d.val a.val 1 0 g.code) rfl (by unfold wordM; omega) (show disp.toNat < 2 ^ 32 by omega) (fun _ => ?_)
  change decodeRaw _ (disp.toNat) = _
  have := d.isLt
  have := a.isLt
  have := disp.isLt
  obtain ⟨h0, h1, h2, eD, eA, eOp, eOff6⟩ := fieldsM1 16 d.val a.val 1 0 g (by omega) (by omega) (by omega) (by omega) (by omega)
  rw [raw2_16 h0 h1]; unfold decode2_16; rw [h2, finOf_eq eD, finOf_eq eA, ofNat_eq (n := disp.toNat) rfl, eOp, eOff6]; rfl

theorem ldwDw (g : Guard) (d : GReg) (a : GReg) (disp : BitVec 32) : Statement (.ldwDw g d a disp) := by
  have f0 := g.code_lt
  have f1 := d.isLt
  have f2 := a.isLt
  have f3 := disp.isLt
  refine of_raw (2 ^ 30 + wordM 16 d.val a.val 2 0 g.code) rfl (by unfold wordM; omega) (show disp.toNat < 2 ^ 32 by omega) (fun _ => ?_)
  change decodeRaw _ (disp.toNat) = _
  have := d.isLt
  have := a.isLt
  have := disp.isLt
  obtain ⟨h0, h1, h2, eD, eA, eOp, eOff6⟩ := fieldsM1 16 d.val a.val 2 0 g (by omega) (by omega) (by omega) (by omega) (by omega)
  rw [raw2_16 h0 h1]; unfold decode2_16; rw [h2, finOf_eq eD, finOf_eq eA, ofNat_eq (n := disp.toNat) rfl, eOp, eOff6]; rfl

theorem lddDw (g : Guard) (d : GReg) (a : GReg) (disp : BitVec 32) : Statement (.lddDw g d a disp) := by
  have f0 := g.code_lt
  have f1 := d.isLt
  have f2 := a.isLt
  have f3 := disp.isLt
  refine of_raw (2 ^ 30 + wordM 16 d.val a.val 3 0 g.code) rfl (by unfold wordM; omega) (show disp.toNat < 2 ^ 32 by omega) (fun _ => ?_)
  change decodeRaw _ (disp.toNat) = _
  have := d.isLt
  have := a.isLt
  have := disp.isLt
  obtain ⟨h0, h1, h2, eD, eA, eOp, eOff6⟩ := fieldsM1 16 d.val a.val 3 0 g (by omega) (by omega) (by omega) (by omega) (by omega)
  rw [raw2_16 h0 h1]; unfold decode2_16; rw [h2, finOf_eq eD, finOf_eq eA, ofNat_eq (n := disp.toNat) rfl, eOp, eOff6]; rfl

theorem ldbzDw (g : Guard) (d : GReg) (a : GReg) (disp : BitVec 32) : Statement (.ldbzDw g d a disp) := by
  have f0 := g.code_lt
  have f1 := d.isLt
  have f2 := a.isLt
  have f3 := disp.isLt
  refine of_raw (2 ^ 30 + wordM 16 d.val a.val 4 0 g.code) rfl (by unfold wordM; omega) (show disp.toNat < 2 ^ 32 by omega) (fun _ => ?_)
  change decodeRaw _ (disp.toNat) = _
  have := d.isLt
  have := a.isLt
  have := disp.isLt
  obtain ⟨h0, h1, h2, eD, eA, eOp, eOff6⟩ := fieldsM1 16 d.val a.val 4 0 g (by omega) (by omega) (by omega) (by omega) (by omega)
  rw [raw2_16 h0 h1]; unfold decode2_16; rw [h2, finOf_eq eD, finOf_eq eA, ofNat_eq (n := disp.toNat) rfl, eOp, eOff6]; rfl

theorem ldhzDw (g : Guard) (d : GReg) (a : GReg) (disp : BitVec 32) : Statement (.ldhzDw g d a disp) := by
  have f0 := g.code_lt
  have f1 := d.isLt
  have f2 := a.isLt
  have f3 := disp.isLt
  refine of_raw (2 ^ 30 + wordM 16 d.val a.val 5 0 g.code) rfl (by unfold wordM; omega) (show disp.toNat < 2 ^ 32 by omega) (fun _ => ?_)
  change decodeRaw _ (disp.toNat) = _
  have := d.isLt
  have := a.isLt
  have := disp.isLt
  obtain ⟨h0, h1, h2, eD, eA, eOp, eOff6⟩ := fieldsM1 16 d.val a.val 5 0 g (by omega) (by omega) (by omega) (by omega) (by omega)
  rw [raw2_16 h0 h1]; unfold decode2_16; rw [h2, finOf_eq eD, finOf_eq eA, ofNat_eq (n := disp.toNat) rfl, eOp, eOff6]; rfl

theorem ldwzDw (g : Guard) (d : GReg) (a : GReg) (disp : BitVec 32) : Statement (.ldwzDw g d a disp) := by
  have f0 := g.code_lt
  have f1 := d.isLt
  have f2 := a.isLt
  have f3 := disp.isLt
  refine of_raw (2 ^ 30 + wordM 16 d.val a.val 6 0 g.code) rfl (by unfold wordM; omega) (show disp.toNat < 2 ^ 32 by omega) (fun _ => ?_)
  change decodeRaw _ (disp.toNat) = _
  have := d.isLt
  have := a.isLt
  have := disp.isLt
  obtain ⟨h0, h1, h2, eD, eA, eOp, eOff6⟩ := fieldsM1 16 d.val a.val 6 0 g (by omega) (by omega) (by omega) (by omega) (by omega)
  rw [raw2_16 h0 h1]; unfold decode2_16; rw [h2, finOf_eq eD, finOf_eq eA, ofNat_eq (n := disp.toNat) rfl, eOp, eOff6]; rfl

theorem stbDw (g : Guard) (d : GReg) (a : GReg) (disp : BitVec 32) : Statement (.stbDw g d a disp) := by
  have f0 := g.code_lt
  have f1 := d.isLt
  have f2 := a.isLt
  have f3 := disp.isLt
  refine of_raw (2 ^ 30 + wordM 16 d.val a.val 8 0 g.code) rfl (by unfold wordM; omega) (show disp.toNat < 2 ^ 32 by omega) (fun _ => ?_)
  change decodeRaw _ (disp.toNat) = _
  have := d.isLt
  have := a.isLt
  have := disp.isLt
  obtain ⟨h0, h1, h2, eD, eA, eOp, eOff6⟩ := fieldsM1 16 d.val a.val 8 0 g (by omega) (by omega) (by omega) (by omega) (by omega)
  rw [raw2_16 h0 h1]; unfold decode2_16; rw [h2, finOf_eq eD, finOf_eq eA, ofNat_eq (n := disp.toNat) rfl, eOp, eOff6]; rfl

theorem sthDw (g : Guard) (d : GReg) (a : GReg) (disp : BitVec 32) : Statement (.sthDw g d a disp) := by
  have f0 := g.code_lt
  have f1 := d.isLt
  have f2 := a.isLt
  have f3 := disp.isLt
  refine of_raw (2 ^ 30 + wordM 16 d.val a.val 9 0 g.code) rfl (by unfold wordM; omega) (show disp.toNat < 2 ^ 32 by omega) (fun _ => ?_)
  change decodeRaw _ (disp.toNat) = _
  have := d.isLt
  have := a.isLt
  have := disp.isLt
  obtain ⟨h0, h1, h2, eD, eA, eOp, eOff6⟩ := fieldsM1 16 d.val a.val 9 0 g (by omega) (by omega) (by omega) (by omega) (by omega)
  rw [raw2_16 h0 h1]; unfold decode2_16; rw [h2, finOf_eq eD, finOf_eq eA, ofNat_eq (n := disp.toNat) rfl, eOp, eOff6]; rfl

theorem stwDw (g : Guard) (d : GReg) (a : GReg) (disp : BitVec 32) : Statement (.stwDw g d a disp) := by
  have f0 := g.code_lt
  have f1 := d.isLt
  have f2 := a.isLt
  have f3 := disp.isLt
  refine of_raw (2 ^ 30 + wordM 16 d.val a.val 10 0 g.code) rfl (by unfold wordM; omega) (show disp.toNat < 2 ^ 32 by omega) (fun _ => ?_)
  change decodeRaw _ (disp.toNat) = _
  have := d.isLt
  have := a.isLt
  have := disp.isLt
  obtain ⟨h0, h1, h2, eD, eA, eOp, eOff6⟩ := fieldsM1 16 d.val a.val 10 0 g (by omega) (by omega) (by omega) (by omega) (by omega)
  rw [raw2_16 h0 h1]; unfold decode2_16; rw [h2, finOf_eq eD, finOf_eq eA, ofNat_eq (n := disp.toNat) rfl, eOp, eOff6]; rfl

theorem stdDw (g : Guard) (d : GReg) (a : GReg) (disp : BitVec 32) : Statement (.stdDw g d a disp) := by
  have f0 := g.code_lt
  have f1 := d.isLt
  have f2 := a.isLt
  have f3 := disp.isLt
  refine of_raw (2 ^ 30 + wordM 16 d.val a.val 11 0 g.code) rfl (by unfold wordM; omega) (show disp.toNat < 2 ^ 32 by omega) (fun _ => ?_)
  change decodeRaw _ (disp.toNat) = _
  have := d.isLt
  have := a.isLt
  have := disp.isLt
  obtain ⟨h0, h1, h2, eD, eA, eOp, eOff6⟩ := fieldsM1 16 d.val a.val 11 0 g (by omega) (by omega) (by omega) (by omega) (by omega)
  rw [raw2_16 h0 h1]; unfold decode2_16; rw [h2, finOf_eq eD, finOf_eq eA, ofNat_eq (n := disp.toNat) rfl, eOp, eOff6]; rfl

theorem vld (g : Guard) (d : VField) (a : GReg) (off : BitVec 6) : Statement (.vld g d a off) := by
  have f0 := g.code_lt
  have f1 := d.isLt
  have f2 := a.isLt
  have f3 := off.isLt
  refine of_raw (wordM 17 d.val a.val 0 off.toNat g.code) rfl (by unfold wordM; omega) (show 0 < 2 ^ 32 by omega) (fun _ => ?_)
  have := d.isLt
  have := a.isLt
  have := off.isLt
  obtain ⟨h0, h1, h2, eD, eA, eOp, eOff6⟩ := fieldsM0 17 d.val a.val 0 off.toNat g (by omega) (by omega) (by omega) (by omega) (by omega)
  rw [raw1_17 h0 h1]; unfold decode1_17; rw [h2, finOf_eq eD, finOf_eq eA, ofNat_eq eOff6, eOp]; rfl

theorem vst (g : Guard) (d : VField) (a : GReg) (off : BitVec 6) : Statement (.vst g d a off) := by
  have f0 := g.code_lt
  have f1 := d.isLt
  have f2 := a.isLt
  have f3 := off.isLt
  refine of_raw (wordM 17 d.val a.val 1 off.toNat g.code) rfl (by unfold wordM; omega) (show 0 < 2 ^ 32 by omega) (fun _ => ?_)
  have := d.isLt
  have := a.isLt
  have := off.isLt
  obtain ⟨h0, h1, h2, eD, eA, eOp, eOff6⟩ := fieldsM0 17 d.val a.val 1 off.toNat g (by omega) (by omega) (by omega) (by omega) (by omega)
  rw [raw1_17 h0 h1]; unfold decode1_17; rw [h2, finOf_eq eD, finOf_eq eA, ofNat_eq eOff6, eOp]; rfl

theorem vldDw (g : Guard) (d : VField) (a : GReg) (disp : BitVec 32) : Statement (.vldDw g d a disp) := by
  have f0 := g.code_lt
  have f1 := d.isLt
  have f2 := a.isLt
  have f3 := disp.isLt
  refine of_raw (2 ^ 30 + wordM 17 d.val a.val 0 0 g.code) rfl (by unfold wordM; omega) (show disp.toNat < 2 ^ 32 by omega) (fun _ => ?_)
  change decodeRaw _ (disp.toNat) = _
  have := d.isLt
  have := a.isLt
  have := disp.isLt
  obtain ⟨h0, h1, h2, eD, eA, eOp, eOff6⟩ := fieldsM1 17 d.val a.val 0 0 g (by omega) (by omega) (by omega) (by omega) (by omega)
  rw [raw2_17 h0 h1]; unfold decode2_17; rw [h2, finOf_eq eD, finOf_eq eA, ofNat_eq (n := disp.toNat) rfl, eOp, eOff6]; rfl

theorem vstDw (g : Guard) (d : VField) (a : GReg) (disp : BitVec 32) : Statement (.vstDw g d a disp) := by
  have f0 := g.code_lt
  have f1 := d.isLt
  have f2 := a.isLt
  have f3 := disp.isLt
  refine of_raw (2 ^ 30 + wordM 17 d.val a.val 1 0 g.code) rfl (by unfold wordM; omega) (show disp.toNat < 2 ^ 32 by omega) (fun _ => ?_)
  change decodeRaw _ (disp.toNat) = _
  have := d.isLt
  have := a.isLt
  have := disp.isLt
  obtain ⟨h0, h1, h2, eD, eA, eOp, eOff6⟩ := fieldsM1 17 d.val a.val 1 0 g (by omega) (by omega) (by omega) (by omega) (by omega)
  rw [raw2_17 h0 h1]; unfold decode2_17; rw [h2, finOf_eq eD, finOf_eq eA, ofNat_eq (n := disp.toNat) rfl, eOp, eOff6]; rfl

theorem vlds (g : Guard) (d : VField) (a : GReg) (b : GReg) : Statement (.vlds g d a b) := by
  have f0 := g.code_lt
  have f1 := d.isLt
  have f2 := a.isLt
  have f3 := b.isLt
  refine of_raw (wordR 18 d.val a.val b.val 0 g.code) rfl (by unfold wordR; omega) (show 0 < 2 ^ 32 by omega) (fun _ => ?_)
  have := d.isLt
  have := a.isLt
  have := b.isLt
  obtain ⟨h0, h1, h2, eD, eA, eB, eFn⟩ := fieldsR0 18 d.val a.val b.val 0 g (by omega) (by omega) (by omega) (by omega) (by omega)
  rw [raw1_18 h0 h1]; unfold decode1_18; rw [h2, finOf_eq eD, finOf_eq eA, finOf_eq eB, eFn]; rfl

theorem vsts (g : Guard) (d : VField) (a : GReg) (b : GReg) : Statement (.vsts g d a b) := by
  have f0 := g.code_lt
  have f1 := d.isLt
  have f2 := a.isLt
  have f3 := b.isLt
  refine of_raw (wordR 18 d.val a.val b.val 1 g.code) rfl (by unfold wordR; omega) (show 0 < 2 ^ 32 by omega) (fun _ => ?_)
  have := d.isLt
  have := a.isLt
  have := b.isLt
  obtain ⟨h0, h1, h2, eD, eA, eB, eFn⟩ := fieldsR0 18 d.val a.val b.val 1 g (by omega) (by omega) (by omega) (by omega) (by omega)
  rw [raw1_18 h0 h1]; unfold decode1_18; rw [h2, finOf_eq eD, finOf_eq eA, finOf_eq eB, eFn]; rfl

theorem vgathl (g : Guard) (d : VField) (a : GReg) (b : VField) : Statement (.vgathl g d a b) := by
  have f0 := g.code_lt
  have f1 := d.isLt
  have f2 := a.isLt
  have f3 := b.isLt
  refine of_raw (wordR 18 d.val a.val b.val 2 g.code) rfl (by unfold wordR; omega) (show 0 < 2 ^ 32 by omega) (fun _ => ?_)
  have := d.isLt
  have := a.isLt
  have := b.isLt
  obtain ⟨h0, h1, h2, eD, eA, eB, eFn⟩ := fieldsR0 18 d.val a.val b.val 2 g (by omega) (by omega) (by omega) (by omega) (by omega)
  rw [raw1_18 h0 h1]; unfold decode1_18; rw [h2, finOf_eq eD, finOf_eq eA, finOf_eq eB, eFn]; rfl

theorem vscatl (g : Guard) (d : VField) (a : GReg) (b : VField) : Statement (.vscatl g d a b) := by
  have f0 := g.code_lt
  have f1 := d.isLt
  have f2 := a.isLt
  have f3 := b.isLt
  refine of_raw (wordR 18 d.val a.val b.val 3 g.code) rfl (by unfold wordR; omega) (show 0 < 2 ^ 32 by omega) (fun _ => ?_)
  have := d.isLt
  have := a.isLt
  have := b.isLt
  obtain ⟨h0, h1, h2, eD, eA, eB, eFn⟩ := fieldsR0 18 d.val a.val b.val 3 g (by omega) (by omega) (by omega) (by omega) (by omega)
  rw [raw1_18 h0 h1]; unfold decode1_18; rw [h2, finOf_eq eD, finOf_eq eA, finOf_eq eB, eFn]; rfl

theorem cclean (g : Guard) (a : GReg) : Statement (.cclean g a) := by
  have f0 := g.code_lt
  have f1 := a.isLt
  refine of_raw (wordR 19 0 a.val 0 0 g.code) rfl (by unfold wordR; omega) (show 0 < 2 ^ 32 by omega) (fun _ => ?_)
  have := a.isLt
  obtain ⟨h0, h1, h2, eD, eA, eB, eFn⟩ := fieldsR0 19 0 a.val 0 0 g (by omega) (by omega) (by omega) (by omega) (by omega)
  rw [raw1_19 h0 h1]; unfold decode1_19; rw [h2, finOf_eq eA, eFn, eD, eB]; rfl

theorem cinv (g : Guard) (a : GReg) : Statement (.cinv g a) := by
  have f0 := g.code_lt
  have f1 := a.isLt
  refine of_raw (wordR 19 0 a.val 0 1 g.code) rfl (by unfold wordR; omega) (show 0 < 2 ^ 32 by omega) (fun _ => ?_)
  have := a.isLt
  obtain ⟨h0, h1, h2, eD, eA, eB, eFn⟩ := fieldsR0 19 0 a.val 0 1 g (by omega) (by omega) (by omega) (by omega) (by omega)
  rw [raw1_19 h0 h1]; unfold decode1_19; rw [h2, finOf_eq eA, eFn, eD, eB]; rfl

theorem tlbinv (g : Guard) (a : GReg) (b : GReg) : Statement (.tlbinv g a b) := by
  have f0 := g.code_lt
  have f1 := a.isLt
  have f2 := b.isLt
  refine of_raw (wordR 19 0 a.val b.val 2 g.code) rfl (by unfold wordR; omega) (show 0 < 2 ^ 32 by omega) (fun _ => ?_)
  have := a.isLt
  have := b.isLt
  obtain ⟨h0, h1, h2, eD, eA, eB, eFn⟩ := fieldsR0 19 0 a.val b.val 2 g (by omega) (by omega) (by omega) (by omega) (by omega)
  rw [raw1_19 h0 h1]; unfold decode1_19; rw [h2, finOf_eq eA, finOf_eq eB, eFn, eD]; rfl

theorem tlbinvComplete (tid : Nat) : Statement (.tlbinvComplete tid) := of_event rfl

theorem dclset (g : Guard) (a : GReg) : Statement (.dclset g a) := by
  have f0 := g.code_lt
  have f1 := a.isLt
  refine of_raw (wordR 20 0 a.val 0 0 g.code) rfl (by unfold wordR; omega) (show 0 < 2 ^ 32 by omega) (fun _ => ?_)
  have := a.isLt
  obtain ⟨h0, h1, h2, eD, eA, eB, eFn⟩ := fieldsR0 20 0 a.val 0 0 g (by omega) (by omega) (by omega) (by omega) (by omega)
  rw [raw1_20 h0 h1]; unfold decode1_20; rw [h2, finOf_eq eA, eFn, eD, eB]; rfl

theorem sylset (g : Guard) (d : Fin 16) (a : GReg) : Statement (.sylset g d a) := by
  have f0 := g.code_lt
  have f1 := d.isLt
  have f2 := a.isLt
  refine of_raw (wordR 20 d.val a.val 0 1 g.code) rfl (by unfold wordR; omega) (show 0 < 2 ^ 32 by omega) (fun _ => ?_)
  have := d.isLt
  have := a.isLt
  obtain ⟨h0, h1, h2, eD, eA, eB, eFn⟩ := fieldsR0 20 d.val a.val 0 1 g (by omega) (by omega) (by omega) (by omega) (by omega)
  rw [raw1_20 h0 h1]; unfold decode1_20; rw [h2, finOf_eq eD, finOf_eq eA, eFn, eB]; rfl

theorem vldd (g : Guard) (d : VField) (a : GReg) (off : BitVec 6) : Statement (.vldd g d a off) := by
  have f0 := g.code_lt
  have f1 := d.isLt
  have f2 := a.isLt
  have f3 := off.isLt
  refine of_raw (wordM 21 d.val a.val 0 off.toNat g.code) rfl (by unfold wordM; omega) (show 0 < 2 ^ 32 by omega) (fun _ => ?_)
  have := d.isLt
  have := a.isLt
  have := off.isLt
  obtain ⟨h0, h1, h2, eD, eA, eOp, eOff6⟩ := fieldsM0 21 d.val a.val 0 off.toNat g (by omega) (by omega) (by omega) (by omega) (by omega)
  rw [raw1_21 h0 h1]; unfold decode1_21; rw [h2, finOf_eq eD, finOf_eq eA, ofNat_eq eOff6, eOp]; rfl

theorem vldp (g : Guard) (d : VField) (a : GReg) (off : BitVec 6) : Statement (.vldp g d a off) := by
  have f0 := g.code_lt
  have f1 := d.isLt
  have f2 := a.isLt
  have f3 := off.isLt
  refine of_raw (wordM 21 d.val a.val 1 off.toNat g.code) rfl (by unfold wordM; omega) (show 0 < 2 ^ 32 by omega) (fun _ => ?_)
  have := d.isLt
  have := a.isLt
  have := off.isLt
  obtain ⟨h0, h1, h2, eD, eA, eOp, eOff6⟩ := fieldsM0 21 d.val a.val 1 off.toNat g (by omega) (by omega) (by omega) (by omega) (by omega)
  rw [raw1_21 h0 h1]; unfold decode1_21; rw [h2, finOf_eq eD, finOf_eq eA, ofNat_eq eOff6, eOp]; rfl

theorem vlddDw (g : Guard) (d : VField) (a : GReg) (disp : BitVec 32) : Statement (.vlddDw g d a disp) := by
  have f0 := g.code_lt
  have f1 := d.isLt
  have f2 := a.isLt
  have f3 := disp.isLt
  refine of_raw (2 ^ 30 + wordM 21 d.val a.val 0 0 g.code) rfl (by unfold wordM; omega) (show disp.toNat < 2 ^ 32 by omega) (fun _ => ?_)
  change decodeRaw _ (disp.toNat) = _
  have := d.isLt
  have := a.isLt
  have := disp.isLt
  obtain ⟨h0, h1, h2, eD, eA, eOp, eOff6⟩ := fieldsM1 21 d.val a.val 0 0 g (by omega) (by omega) (by omega) (by omega) (by omega)
  rw [raw2_21 h0 h1]; unfold decode2_21; rw [h2, finOf_eq eD, finOf_eq eA, ofNat_eq (n := disp.toNat) rfl, eOp, eOff6]; rfl

theorem vldpDw (g : Guard) (d : VField) (a : GReg) (disp : BitVec 32) : Statement (.vldpDw g d a disp) := by
  have f0 := g.code_lt
  have f1 := d.isLt
  have f2 := a.isLt
  have f3 := disp.isLt
  refine of_raw (2 ^ 30 + wordM 21 d.val a.val 1 0 g.code) rfl (by unfold wordM; omega) (show disp.toNat < 2 ^ 32 by omega) (fun _ => ?_)
  change decodeRaw _ (disp.toNat) = _
  have := d.isLt
  have := a.isLt
  have := disp.isLt
  obtain ⟨h0, h1, h2, eD, eA, eOp, eOff6⟩ := fieldsM1 21 d.val a.val 1 0 g (by omega) (by omega) (by omega) (by omega) (by omega)
  rw [raw2_21 h0 h1]; unfold decode2_21; rw [h2, finOf_eq eD, finOf_eq eA, ofNat_eq (n := disp.toNat) rfl, eOp, eOff6]; rfl

theorem vadd (g : Guard) (d : VField) (a : VField) (b : VField) : Statement (.vadd g d a b) := by
  have f0 := g.code_lt
  have f1 := d.isLt
  have f2 := a.isLt
  have f3 := b.isLt
  refine of_raw (wordR 24 d.val a.val b.val 0 g.code) rfl (by unfold wordR; omega) (show 0 < 2 ^ 32 by omega) (fun _ => ?_)
  have := d.isLt
  have := a.isLt
  have := b.isLt
  obtain ⟨h0, h1, h2, eD, eA, eB, eFn⟩ := fieldsR0 24 d.val a.val b.val 0 g (by omega) (by omega) (by omega) (by omega) (by omega)
  rw [raw1_24 h0 h1]; unfold decode1_24; rw [h2, finOf_eq eD, finOf_eq eA, finOf_eq eB, eFn]; rfl

theorem vsub (g : Guard) (d : VField) (a : VField) (b : VField) : Statement (.vsub g d a b) := by
  have f0 := g.code_lt
  have f1 := d.isLt
  have f2 := a.isLt
  have f3 := b.isLt
  refine of_raw (wordR 24 d.val a.val b.val 1 g.code) rfl (by unfold wordR; omega) (show 0 < 2 ^ 32 by omega) (fun _ => ?_)
  have := d.isLt
  have := a.isLt
  have := b.isLt
  obtain ⟨h0, h1, h2, eD, eA, eB, eFn⟩ := fieldsR0 24 d.val a.val b.val 1 g (by omega) (by omega) (by omega) (by omega) (by omega)
  rw [raw1_24 h0 h1]; unfold decode1_24; rw [h2, finOf_eq eD, finOf_eq eA, finOf_eq eB, eFn]; rfl

theorem vmul (g : Guard) (d : VField) (a : VField) (b : VField) : Statement (.vmul g d a b) := by
  have f0 := g.code_lt
  have f1 := d.isLt
  have f2 := a.isLt
  have f3 := b.isLt
  refine of_raw (wordR 24 d.val a.val b.val 2 g.code) rfl (by unfold wordR; omega) (show 0 < 2 ^ 32 by omega) (fun _ => ?_)
  have := d.isLt
  have := a.isLt
  have := b.isLt
  obtain ⟨h0, h1, h2, eD, eA, eB, eFn⟩ := fieldsR0 24 d.val a.val b.val 2 g (by omega) (by omega) (by omega) (by omega) (by omega)
  rw [raw1_24 h0 h1]; unfold decode1_24; rw [h2, finOf_eq eD, finOf_eq eA, finOf_eq eB, eFn]; rfl

theorem vmin (g : Guard) (d : VField) (a : VField) (b : VField) : Statement (.vmin g d a b) := by
  have f0 := g.code_lt
  have f1 := d.isLt
  have f2 := a.isLt
  have f3 := b.isLt
  refine of_raw (wordR 24 d.val a.val b.val 3 g.code) rfl (by unfold wordR; omega) (show 0 < 2 ^ 32 by omega) (fun _ => ?_)
  have := d.isLt
  have := a.isLt
  have := b.isLt
  obtain ⟨h0, h1, h2, eD, eA, eB, eFn⟩ := fieldsR0 24 d.val a.val b.val 3 g (by omega) (by omega) (by omega) (by omega) (by omega)
  rw [raw1_24 h0 h1]; unfold decode1_24; rw [h2, finOf_eq eD, finOf_eq eA, finOf_eq eB, eFn]; rfl

theorem vmax (g : Guard) (d : VField) (a : VField) (b : VField) : Statement (.vmax g d a b) := by
  have f0 := g.code_lt
  have f1 := d.isLt
  have f2 := a.isLt
  have f3 := b.isLt
  refine of_raw (wordR 24 d.val a.val b.val 4 g.code) rfl (by unfold wordR; omega) (show 0 < 2 ^ 32 by omega) (fun _ => ?_)
  have := d.isLt
  have := a.isLt
  have := b.isLt
  obtain ⟨h0, h1, h2, eD, eA, eB, eFn⟩ := fieldsR0 24 d.val a.val b.val 4 g (by omega) (by omega) (by omega) (by omega) (by omega)
  rw [raw1_24 h0 h1]; unfold decode1_24; rw [h2, finOf_eq eD, finOf_eq eA, finOf_eq eB, eFn]; rfl

theorem vabs (g : Guard) (d : VField) (a : VField) : Statement (.vabs g d a) := by
  have f0 := g.code_lt
  have f1 := d.isLt
  have f2 := a.isLt
  refine of_raw (wordR 24 d.val a.val 0 5 g.code) rfl (by unfold wordR; omega) (show 0 < 2 ^ 32 by omega) (fun _ => ?_)
  have := d.isLt
  have := a.isLt
  obtain ⟨h0, h1, h2, eD, eA, eB, eFn⟩ := fieldsR0 24 d.val a.val 0 5 g (by omega) (by omega) (by omega) (by omega) (by omega)
  rw [raw1_24 h0 h1]; unfold decode1_24; rw [h2, finOf_eq eD, finOf_eq eA, eFn, eB]; rfl

theorem vneg (g : Guard) (d : VField) (a : VField) : Statement (.vneg g d a) := by
  have f0 := g.code_lt
  have f1 := d.isLt
  have f2 := a.isLt
  refine of_raw (wordR 24 d.val a.val 0 6 g.code) rfl (by unfold wordR; omega) (show 0 < 2 ^ 32 by omega) (fun _ => ?_)
  have := d.isLt
  have := a.isLt
  obtain ⟨h0, h1, h2, eD, eA, eB, eFn⟩ := fieldsR0 24 d.val a.val 0 6 g (by omega) (by omega) (by omega) (by omega) (by omega)
  rw [raw1_24 h0 h1]; unfold decode1_24; rw [h2, finOf_eq eD, finOf_eq eA, eFn, eB]; rfl

theorem vand (g : Guard) (d : VField) (a : VField) (b : VField) : Statement (.vand g d a b) := by
  have f0 := g.code_lt
  have f1 := d.isLt
  have f2 := a.isLt
  have f3 := b.isLt
  refine of_raw (wordR 24 d.val a.val b.val 7 g.code) rfl (by unfold wordR; omega) (show 0 < 2 ^ 32 by omega) (fun _ => ?_)
  have := d.isLt
  have := a.isLt
  have := b.isLt
  obtain ⟨h0, h1, h2, eD, eA, eB, eFn⟩ := fieldsR0 24 d.val a.val b.val 7 g (by omega) (by omega) (by omega) (by omega) (by omega)
  rw [raw1_24 h0 h1]; unfold decode1_24; rw [h2, finOf_eq eD, finOf_eq eA, finOf_eq eB, eFn]; rfl

theorem vor (g : Guard) (d : VField) (a : VField) (b : VField) : Statement (.vor g d a b) := by
  have f0 := g.code_lt
  have f1 := d.isLt
  have f2 := a.isLt
  have f3 := b.isLt
  refine of_raw (wordR 24 d.val a.val b.val 8 g.code) rfl (by unfold wordR; omega) (show 0 < 2 ^ 32 by omega) (fun _ => ?_)
  have := d.isLt
  have := a.isLt
  have := b.isLt
  obtain ⟨h0, h1, h2, eD, eA, eB, eFn⟩ := fieldsR0 24 d.val a.val b.val 8 g (by omega) (by omega) (by omega) (by omega) (by omega)
  rw [raw1_24 h0 h1]; unfold decode1_24; rw [h2, finOf_eq eD, finOf_eq eA, finOf_eq eB, eFn]; rfl

theorem vxor (g : Guard) (d : VField) (a : VField) (b : VField) : Statement (.vxor g d a b) := by
  have f0 := g.code_lt
  have f1 := d.isLt
  have f2 := a.isLt
  have f3 := b.isLt
  refine of_raw (wordR 24 d.val a.val b.val 9 g.code) rfl (by unfold wordR; omega) (show 0 < 2 ^ 32 by omega) (fun _ => ?_)
  have := d.isLt
  have := a.isLt
  have := b.isLt
  obtain ⟨h0, h1, h2, eD, eA, eB, eFn⟩ := fieldsR0 24 d.val a.val b.val 9 g (by omega) (by omega) (by omega) (by omega) (by omega)
  rw [raw1_24 h0 h1]; unfold decode1_24; rw [h2, finOf_eq eD, finOf_eq eA, finOf_eq eB, eFn]; rfl

theorem vshl (g : Guard) (d : VField) (a : VField) (b : VField) : Statement (.vshl g d a b) := by
  have f0 := g.code_lt
  have f1 := d.isLt
  have f2 := a.isLt
  have f3 := b.isLt
  refine of_raw (wordR 24 d.val a.val b.val 10 g.code) rfl (by unfold wordR; omega) (show 0 < 2 ^ 32 by omega) (fun _ => ?_)
  have := d.isLt
  have := a.isLt
  have := b.isLt
  obtain ⟨h0, h1, h2, eD, eA, eB, eFn⟩ := fieldsR0 24 d.val a.val b.val 10 g (by omega) (by omega) (by omega) (by omega) (by omega)
  rw [raw1_24 h0 h1]; unfold decode1_24; rw [h2, finOf_eq eD, finOf_eq eA, finOf_eq eB, eFn]; rfl

theorem vshr (g : Guard) (d : VField) (a : VField) (b : VField) : Statement (.vshr g d a b) := by
  have f0 := g.code_lt
  have f1 := d.isLt
  have f2 := a.isLt
  have f3 := b.isLt
  refine of_raw (wordR 24 d.val a.val b.val 11 g.code) rfl (by unfold wordR; omega) (show 0 < 2 ^ 32 by omega) (fun _ => ?_)
  have := d.isLt
  have := a.isLt
  have := b.isLt
  obtain ⟨h0, h1, h2, eD, eA, eB, eFn⟩ := fieldsR0 24 d.val a.val b.val 11 g (by omega) (by omega) (by omega) (by omega) (by omega)
  rw [raw1_24 h0 h1]; unfold decode1_24; rw [h2, finOf_eq eD, finOf_eq eA, finOf_eq eB, eFn]; rfl

theorem vsar (g : Guard) (d : VField) (a : VField) (b : VField) : Statement (.vsar g d a b) := by
  have f0 := g.code_lt
  have f1 := d.isLt
  have f2 := a.isLt
  have f3 := b.isLt
  refine of_raw (wordR 24 d.val a.val b.val 12 g.code) rfl (by unfold wordR; omega) (show 0 < 2 ^ 32 by omega) (fun _ => ?_)
  have := d.isLt
  have := a.isLt
  have := b.isLt
  obtain ⟨h0, h1, h2, eD, eA, eB, eFn⟩ := fieldsR0 24 d.val a.val b.val 12 g (by omega) (by omega) (by omega) (by omega) (by omega)
  rw [raw1_24 h0 h1]; unfold decode1_24; rw [h2, finOf_eq eD, finOf_eq eA, finOf_eq eB, eFn]; rfl

theorem vaddS (g : Guard) (d : VField) (a : VField) (b : VField) : Statement (.vaddS g d a b) := by
  have f0 := g.code_lt
  have f1 := d.isLt
  have f2 := a.isLt
  have f3 := b.isLt
  refine of_raw (wordR 24 d.val a.val b.val 13 g.code) rfl (by unfold wordR; omega) (show 0 < 2 ^ 32 by omega) (fun _ => ?_)
  have := d.isLt
  have := a.isLt
  have := b.isLt
  obtain ⟨h0, h1, h2, eD, eA, eB, eFn⟩ := fieldsR0 24 d.val a.val b.val 13 g (by omega) (by omega) (by omega) (by omega) (by omega)
  rw [raw1_24 h0 h1]; unfold decode1_24; rw [h2, finOf_eq eD, finOf_eq eA, finOf_eq eB, eFn]; rfl

theorem vsubS (g : Guard) (d : VField) (a : VField) (b : VField) : Statement (.vsubS g d a b) := by
  have f0 := g.code_lt
  have f1 := d.isLt
  have f2 := a.isLt
  have f3 := b.isLt
  refine of_raw (wordR 24 d.val a.val b.val 14 g.code) rfl (by unfold wordR; omega) (show 0 < 2 ^ 32 by omega) (fun _ => ?_)
  have := d.isLt
  have := a.isLt
  have := b.isLt
  obtain ⟨h0, h1, h2, eD, eA, eB, eFn⟩ := fieldsR0 24 d.val a.val b.val 14 g (by omega) (by omega) (by omega) (by omega) (by omega)
  rw [raw1_24 h0 h1]; unfold decode1_24; rw [h2, finOf_eq eD, finOf_eq eA, finOf_eq eB, eFn]; rfl

theorem vsel (g : Guard) (d : VField) (a : VField) (b : VField) (k : MReg) : Statement (.vsel g d a b k) := by
  have f0 := g.code_lt
  have f1 := d.isLt
  have f2 := a.isLt
  have f3 := b.isLt
  have f4 := k.isLt
  refine of_raw (wordR 24 d.val a.val b.val (16 + k.val) g.code) rfl (by unfold wordR; omega) (show 0 < 2 ^ 32 by omega) (fun _ => ?_)
  have hk := k.isLt
  obtain ⟨h0, h1, h2, eD, eA, eB, eFn⟩ := fieldsR0 24 d.val a.val b.val (16 + k.val) g (by omega) d.isLt a.isLt b.isLt (by omega)
  have x1 : fFn (wordR 24 d.val a.val b.val (16 + k.val) g.code) - 16 = k.val := by omega
  rw [raw1_24 h0 h1]; unfold decode1_24; rw [h2, finOf_eq x1, finOf_eq eD, finOf_eq eA, finOf_eq eB, eFn]
  obtain ⟨k, hk'⟩ := k
  match k, hk' with
  | 0, _ | 1, _ | 2, _ | 3, _ | 4, _ | 5, _ | 6, _ | 7, _ => rfl

theorem vfma (g : Guard) (d : VField) (a : VField) (b : VField) : Statement (.vfma g d a b) := by
  have f0 := g.code_lt
  have f1 := d.isLt
  have f2 := a.isLt
  have f3 := b.isLt
  refine of_raw (wordR 25 d.val a.val b.val 0 g.code) rfl (by unfold wordR; omega) (show 0 < 2 ^ 32 by omega) (fun _ => ?_)
  have := d.isLt
  have := a.isLt
  have := b.isLt
  obtain ⟨h0, h1, h2, eD, eA, eB, eFn⟩ := fieldsR0 25 d.val a.val b.val 0 g (by omega) (by omega) (by omega) (by omega) (by omega)
  rw [raw1_25 h0 h1]; unfold decode1_25; rw [h2, finOf_eq eD, finOf_eq eA, finOf_eq eB, eFn]; rfl

theorem vfms (g : Guard) (d : VField) (a : VField) (b : VField) : Statement (.vfms g d a b) := by
  have f0 := g.code_lt
  have f1 := d.isLt
  have f2 := a.isLt
  have f3 := b.isLt
  refine of_raw (wordR 25 d.val a.val b.val 1 g.code) rfl (by unfold wordR; omega) (show 0 < 2 ^ 32 by omega) (fun _ => ?_)
  have := d.isLt
  have := a.isLt
  have := b.isLt
  obtain ⟨h0, h1, h2, eD, eA, eB, eFn⟩ := fieldsR0 25 d.val a.val b.val 1 g (by omega) (by omega) (by omega) (by omega) (by omega)
  rw [raw1_25 h0 h1]; unfold decode1_25; rw [h2, finOf_eq eD, finOf_eq eA, finOf_eq eB, eFn]; rfl

theorem vnfma (g : Guard) (d : VField) (a : VField) (b : VField) : Statement (.vnfma g d a b) := by
  have f0 := g.code_lt
  have f1 := d.isLt
  have f2 := a.isLt
  have f3 := b.isLt
  refine of_raw (wordR 25 d.val a.val b.val 2 g.code) rfl (by unfold wordR; omega) (show 0 < 2 ^ 32 by omega) (fun _ => ?_)
  have := d.isLt
  have := a.isLt
  have := b.isLt
  obtain ⟨h0, h1, h2, eD, eA, eB, eFn⟩ := fieldsR0 25 d.val a.val b.val 2 g (by omega) (by omega) (by omega) (by omega) (by omega)
  rw [raw1_25 h0 h1]; unfold decode1_25; rw [h2, finOf_eq eD, finOf_eq eA, finOf_eq eB, eFn]; rfl

theorem vdot (g : Guard) (d : VField) (a : VField) (b : VField) : Statement (.vdot g d a b) := by
  have f0 := g.code_lt
  have f1 := d.isLt
  have f2 := a.isLt
  have f3 := b.isLt
  refine of_raw (wordR 25 d.val a.val b.val 3 g.code) rfl (by unfold wordR; omega) (show 0 < 2 ^ 32 by omega) (fun _ => ?_)
  have := d.isLt
  have := a.isLt
  have := b.isLt
  obtain ⟨h0, h1, h2, eD, eA, eB, eFn⟩ := fieldsR0 25 d.val a.val b.val 3 g (by omega) (by omega) (by omega) (by omega) (by omega)
  rw [raw1_25 h0 h1]; unfold decode1_25; rw [h2, finOf_eq eD, finOf_eq eA, finOf_eq eB, eFn]; rfl

theorem vdotf (g : Guard) (d : VField) (a : VField) (b : VField) : Statement (.vdotf g d a b) := by
  have f0 := g.code_lt
  have f1 := d.isLt
  have f2 := a.isLt
  have f3 := b.isLt
  refine of_raw (wordR 25 d.val a.val b.val 4 g.code) rfl (by unfold wordR; omega) (show 0 < 2 ^ 32 by omega) (fun _ => ?_)
  have := d.isLt
  have := a.isLt
  have := b.isLt
  obtain ⟨h0, h1, h2, eD, eA, eB, eFn⟩ := fieldsR0 25 d.val a.val b.val 4 g (by omega) (by omega) (by omega) (by omega) (by omega)
  rw [raw1_25 h0 h1]; unfold decode1_25; rw [h2, finOf_eq eD, finOf_eq eA, finOf_eq eB, eFn]; rfl

theorem vcmpCc (g : Guard) (c : Fin 7) (d : MReg) (a : VField) (b : VField) : Statement (.vcmpCc g c d a b) := by
  have f0 := g.code_lt
  have f1 := c.isLt
  have f2 := d.isLt
  have f3 := a.isLt
  have f4 := b.isLt
  refine of_raw (wordR 26 d.val a.val b.val c.val g.code) rfl (by unfold wordR; omega) (show 0 < 2 ^ 32 by omega) (fun _ => ?_)
  have := c.isLt
  have := d.isLt
  have := a.isLt
  have := b.isLt
  obtain ⟨h0, h1, h2, eD, eA, eB, eFn⟩ := fieldsR0 26 d.val a.val b.val c.val g (by omega) (by omega) (by omega) (by omega) (by omega)
  rw [raw1_26 h0 h1]; unfold decode1_26; rw [h2, finOf_eq eFn, finOf_eq eD, finOf_eq eA, finOf_eq eB]; rfl

theorem vredAdd (g : Guard) (d : VField) (a : VField) : Statement (.vredAdd g d a) := by
  have f0 := g.code_lt
  have f1 := d.isLt
  have f2 := a.isLt
  refine of_raw (wordR 27 d.val a.val 0 0 g.code) rfl (by unfold wordR; omega) (show 0 < 2 ^ 32 by omega) (fun _ => ?_)
  have := d.isLt
  have := a.isLt
  obtain ⟨h0, h1, h2, eD, eA, eB, eFn⟩ := fieldsR0 27 d.val a.val 0 0 g (by omega) (by omega) (by omega) (by omega) (by omega)
  rw [raw1_27 h0 h1]; unfold decode1_27; rw [h2, finOf_eq eD, finOf_eq eA, eFn, eB]; rfl

theorem vredMin (g : Guard) (d : VField) (a : VField) : Statement (.vredMin g d a) := by
  have f0 := g.code_lt
  have f1 := d.isLt
  have f2 := a.isLt
  refine of_raw (wordR 27 d.val a.val 0 1 g.code) rfl (by unfold wordR; omega) (show 0 < 2 ^ 32 by omega) (fun _ => ?_)
  have := d.isLt
  have := a.isLt
  obtain ⟨h0, h1, h2, eD, eA, eB, eFn⟩ := fieldsR0 27 d.val a.val 0 1 g (by omega) (by omega) (by omega) (by omega) (by omega)
  rw [raw1_27 h0 h1]; unfold decode1_27; rw [h2, finOf_eq eD, finOf_eq eA, eFn, eB]; rfl

theorem vredMax (g : Guard) (d : VField) (a : VField) : Statement (.vredMax g d a) := by
  have f0 := g.code_lt
  have f1 := d.isLt
  have f2 := a.isLt
  refine of_raw (wordR 27 d.val a.val 0 2 g.code) rfl (by unfold wordR; omega) (show 0 < 2 ^ 32 by omega) (fun _ => ?_)
  have := d.isLt
  have := a.isLt
  obtain ⟨h0, h1, h2, eD, eA, eB, eFn⟩ := fieldsR0 27 d.val a.val 0 2 g (by omega) (by omega) (by omega) (by omega) (by omega)
  rw [raw1_27 h0 h1]; unfold decode1_27; rw [h2, finOf_eq eD, finOf_eq eA, eFn, eB]; rfl

theorem vscanAdd (g : Guard) (d : VField) (a : VField) : Statement (.vscanAdd g d a) := by
  have f0 := g.code_lt
  have f1 := d.isLt
  have f2 := a.isLt
  refine of_raw (wordR 27 d.val a.val 0 3 g.code) rfl (by unfold wordR; omega) (show 0 < 2 ^ 32 by omega) (fun _ => ?_)
  have := d.isLt
  have := a.isLt
  obtain ⟨h0, h1, h2, eD, eA, eB, eFn⟩ := fieldsR0 27 d.val a.val 0 3 g (by omega) (by omega) (by omega) (by omega) (by omega)
  rw [raw1_27 h0 h1]; unfold decode1_27; rw [h2, finOf_eq eD, finOf_eq eA, eFn, eB]; rfl

theorem vscanMin (g : Guard) (d : VField) (a : VField) : Statement (.vscanMin g d a) := by
  have f0 := g.code_lt
  have f1 := d.isLt
  have f2 := a.isLt
  refine of_raw (wordR 27 d.val a.val 0 4 g.code) rfl (by unfold wordR; omega) (show 0 < 2 ^ 32 by omega) (fun _ => ?_)
  have := d.isLt
  have := a.isLt
  obtain ⟨h0, h1, h2, eD, eA, eB, eFn⟩ := fieldsR0 27 d.val a.val 0 4 g (by omega) (by omega) (by omega) (by omega) (by omega)
  rw [raw1_27 h0 h1]; unfold decode1_27; rw [h2, finOf_eq eD, finOf_eq eA, eFn, eB]; rfl

theorem vscanMax (g : Guard) (d : VField) (a : VField) : Statement (.vscanMax g d a) := by
  have f0 := g.code_lt
  have f1 := d.isLt
  have f2 := a.isLt
  refine of_raw (wordR 27 d.val a.val 0 5 g.code) rfl (by unfold wordR; omega) (show 0 < 2 ^ 32 by omega) (fun _ => ?_)
  have := d.isLt
  have := a.isLt
  obtain ⟨h0, h1, h2, eD, eA, eB, eFn⟩ := fieldsR0 27 d.val a.val 0 5 g (by omega) (by omega) (by omega) (by omega) (by omega)
  rw [raw1_27 h0 h1]; unfold decode1_27; rw [h2, finOf_eq eD, finOf_eq eA, eFn, eB]; rfl

theorem vperm (g : Guard) (d : VField) (a : VField) (b : VField) : Statement (.vperm g d a b) := by
  have f0 := g.code_lt
  have f1 := d.isLt
  have f2 := a.isLt
  have f3 := b.isLt
  refine of_raw (wordR 27 d.val a.val b.val 6 g.code) rfl (by unfold wordR; omega) (show 0 < 2 ^ 32 by omega) (fun _ => ?_)
  have := d.isLt
  have := a.isLt
  have := b.isLt
  obtain ⟨h0, h1, h2, eD, eA, eB, eFn⟩ := fieldsR0 27 d.val a.val b.val 6 g (by omega) (by omega) (by omega) (by omega) (by omega)
  rw [raw1_27 h0 h1]; unfold decode1_27; rw [h2, finOf_eq eD, finOf_eq eA, finOf_eq eB, eFn]; rfl

theorem vbcast (g : Guard) (d : VField) (a : GReg) : Statement (.vbcast g d a) := by
  have f0 := g.code_lt
  have f1 := d.isLt
  have f2 := a.isLt
  refine of_raw (wordR 27 d.val a.val 0 7 g.code) rfl (by unfold wordR; omega) (show 0 < 2 ^ 32 by omega) (fun _ => ?_)
  have := d.isLt
  have := a.isLt
  obtain ⟨h0, h1, h2, eD, eA, eB, eFn⟩ := fieldsR0 27 d.val a.val 0 7 g (by omega) (by omega) (by omega) (by omega) (by omega)
  rw [raw1_27 h0 h1]; unfold decode1_27; rw [h2, finOf_eq eD, finOf_eq eA, eFn, eB]; rfl

theorem vext (g : Guard) (d : GReg) (a : VField) (b : GReg) : Statement (.vext g d a b) := by
  have f0 := g.code_lt
  have f1 := d.isLt
  have f2 := a.isLt
  have f3 := b.isLt
  refine of_raw (wordR 27 d.val a.val b.val 8 g.code) rfl (by unfold wordR; omega) (show 0 < 2 ^ 32 by omega) (fun _ => ?_)
  have := d.isLt
  have := a.isLt
  have := b.isLt
  obtain ⟨h0, h1, h2, eD, eA, eB, eFn⟩ := fieldsR0 27 d.val a.val b.val 8 g (by omega) (by omega) (by omega) (by omega) (by omega)
  rw [raw1_27 h0 h1]; unfold decode1_27; rw [h2, finOf_eq eD, finOf_eq eA, finOf_eq eB, eFn]; rfl

theorem vins (g : Guard) (d : VField) (a : GReg) (b : GReg) : Statement (.vins g d a b) := by
  have f0 := g.code_lt
  have f1 := d.isLt
  have f2 := a.isLt
  have f3 := b.isLt
  refine of_raw (wordR 27 d.val a.val b.val 9 g.code) rfl (by unfold wordR; omega) (show 0 < 2 ^ 32 by omega) (fun _ => ?_)
  have := d.isLt
  have := a.isLt
  have := b.isLt
  obtain ⟨h0, h1, h2, eD, eA, eB, eFn⟩ := fieldsR0 27 d.val a.val b.val 9 g (by omega) (by omega) (by omega) (by omega) (by omega)
  rw [raw1_27 h0 h1]; unfold decode1_27; rw [h2, finOf_eq eD, finOf_eq eA, finOf_eq eB, eFn]; rfl

theorem vrcp (g : Guard) (d : VField) (a : VField) : Statement (.vrcp g d a) := by
  have f0 := g.code_lt
  have f1 := d.isLt
  have f2 := a.isLt
  refine of_raw (wordR 28 d.val a.val 0 0 g.code) rfl (by unfold wordR; omega) (show 0 < 2 ^ 32 by omega) (fun _ => ?_)
  have := d.isLt
  have := a.isLt
  obtain ⟨h0, h1, h2, eD, eA, eB, eFn⟩ := fieldsR0 28 d.val a.val 0 0 g (by omega) (by omega) (by omega) (by omega) (by omega)
  rw [raw1_28 h0 h1]; unfold decode1_28; rw [h2, finOf_eq eD, finOf_eq eA, eFn, eB]; rfl

theorem vrsq (g : Guard) (d : VField) (a : VField) : Statement (.vrsq g d a) := by
  have f0 := g.code_lt
  have f1 := d.isLt
  have f2 := a.isLt
  refine of_raw (wordR 28 d.val a.val 0 1 g.code) rfl (by unfold wordR; omega) (show 0 < 2 ^ 32 by omega) (fun _ => ?_)
  have := d.isLt
  have := a.isLt
  obtain ⟨h0, h1, h2, eD, eA, eB, eFn⟩ := fieldsR0 28 d.val a.val 0 1 g (by omega) (by omega) (by omega) (by omega) (by omega)
  rw [raw1_28 h0 h1]; unfold decode1_28; rw [h2, finOf_eq eD, finOf_eq eA, eFn, eB]; rfl

theorem vexp2 (g : Guard) (d : VField) (a : VField) : Statement (.vexp2 g d a) := by
  have f0 := g.code_lt
  have f1 := d.isLt
  have f2 := a.isLt
  refine of_raw (wordR 28 d.val a.val 0 2 g.code) rfl (by unfold wordR; omega) (show 0 < 2 ^ 32 by omega) (fun _ => ?_)
  have := d.isLt
  have := a.isLt
  obtain ⟨h0, h1, h2, eD, eA, eB, eFn⟩ := fieldsR0 28 d.val a.val 0 2 g (by omega) (by omega) (by omega) (by omega) (by omega)
  rw [raw1_28 h0 h1]; unfold decode1_28; rw [h2, finOf_eq eD, finOf_eq eA, eFn, eB]; rfl

theorem vlog2 (g : Guard) (d : VField) (a : VField) : Statement (.vlog2 g d a) := by
  have f0 := g.code_lt
  have f1 := d.isLt
  have f2 := a.isLt
  refine of_raw (wordR 28 d.val a.val 0 3 g.code) rfl (by unfold wordR; omega) (show 0 < 2 ^ 32 by omega) (fun _ => ?_)
  have := d.isLt
  have := a.isLt
  obtain ⟨h0, h1, h2, eD, eA, eB, eFn⟩ := fieldsR0 28 d.val a.val 0 3 g (by omega) (by omega) (by omega) (by omega) (by omega)
  rw [raw1_28 h0 h1]; unfold decode1_28; rw [h2, finOf_eq eD, finOf_eq eA, eFn, eB]; rfl

theorem vtanh (g : Guard) (d : VField) (a : VField) : Statement (.vtanh g d a) := by
  have f0 := g.code_lt
  have f1 := d.isLt
  have f2 := a.isLt
  refine of_raw (wordR 28 d.val a.val 0 4 g.code) rfl (by unfold wordR; omega) (show 0 < 2 ^ 32 by omega) (fun _ => ?_)
  have := d.isLt
  have := a.isLt
  obtain ⟨h0, h1, h2, eD, eA, eB, eFn⟩ := fieldsR0 28 d.val a.val 0 4 g (by omega) (by omega) (by omega) (by omega) (by omega)
  rw [raw1_28 h0 h1]; unfold decode1_28; rw [h2, finOf_eq eD, finOf_eq eA, eFn, eB]; rfl

theorem vsigm (g : Guard) (d : VField) (a : VField) : Statement (.vsigm g d a) := by
  have f0 := g.code_lt
  have f1 := d.isLt
  have f2 := a.isLt
  refine of_raw (wordR 28 d.val a.val 0 5 g.code) rfl (by unfold wordR; omega) (show 0 < 2 ^ 32 by omega) (fun _ => ?_)
  have := d.isLt
  have := a.isLt
  obtain ⟨h0, h1, h2, eD, eA, eB, eFn⟩ := fieldsR0 28 d.val a.val 0 5 g (by omega) (by omega) (by omega) (by omega) (by omega)
  rw [raw1_28 h0 h1]; unfold decode1_28; rw [h2, finOf_eq eD, finOf_eq eA, eFn, eB]; rfl

theorem vlong (g : Guard) : Statement (.vlong g) := by
  have f0 := g.code_lt
  refine of_raw (wordR 29 0 0 0 0 g.code) rfl (by unfold wordR; omega) (show 0 < 2 ^ 32 by omega) (fun _ => ?_)
  obtain ⟨h0, h1, h2, eD, eA, eB, eFn⟩ := fieldsR0 29 0 0 0 0 g (by omega) (by omega) (by omega) (by omega) (by omega)
  rw [raw1_29 h0 h1]; unfold decode1_29; rw [h2, eFn, eD, eA, eB]; rfl

theorem vshort (g : Guard) : Statement (.vshort g) := by
  have f0 := g.code_lt
  refine of_raw (wordR 29 0 0 0 1 g.code) rfl (by unfold wordR; omega) (show 0 < 2 ^ 32 by omega) (fun _ => ?_)
  obtain ⟨h0, h1, h2, eD, eA, eB, eFn⟩ := fieldsR0 29 0 0 0 1 g (by omega) (by omega) (by omega) (by omega) (by omega)
  rw [raw1_29 h0 h1]; unfold decode1_29; rw [h2, eFn, eD, eA, eB]; rfl

theorem cvtRne (g : Guard) (d : VField) (a : VField) (t : Tag) : Statement (.cvtRne g d a t) := by
  have f0 := g.code_lt
  have f1 := d.isLt
  have f2 := a.isLt
  have f3 := t.code_lt
  refine of_raw (wordR 32 d.val a.val t.code 0 g.code) rfl (by unfold wordR; omega) (show 0 < 2 ^ 32 by omega) (fun _ => ?_)
  have := d.isLt
  have := a.isLt
  have := t.code_lt
  obtain ⟨h0, h1, h2, eD, eA, eB, eFn⟩ := fieldsR0 32 d.val a.val t.code 0 g (by omega) (by omega) (by omega) (by omega) (by omega)
  rw [raw1_32 h0 h1]; unfold decode1_32; rw [h2, finOf_eq eD, finOf_eq eA, eFn, eB, tagOf_code]; rfl

theorem cvtRtz (g : Guard) (d : VField) (a : VField) (t : Tag) : Statement (.cvtRtz g d a t) := by
  have f0 := g.code_lt
  have f1 := d.isLt
  have f2 := a.isLt
  have f3 := t.code_lt
  refine of_raw (wordR 32 d.val a.val t.code 1 g.code) rfl (by unfold wordR; omega) (show 0 < 2 ^ 32 by omega) (fun _ => ?_)
  have := d.isLt
  have := a.isLt
  have := t.code_lt
  obtain ⟨h0, h1, h2, eD, eA, eB, eFn⟩ := fieldsR0 32 d.val a.val t.code 1 g (by omega) (by omega) (by omega) (by omega) (by omega)
  rw [raw1_32 h0 h1]; unfold decode1_32; rw [h2, finOf_eq eD, finOf_eq eA, eFn, eB, tagOf_code]; rfl

theorem cvtRup (g : Guard) (d : VField) (a : VField) (t : Tag) : Statement (.cvtRup g d a t) := by
  have f0 := g.code_lt
  have f1 := d.isLt
  have f2 := a.isLt
  have f3 := t.code_lt
  refine of_raw (wordR 32 d.val a.val t.code 2 g.code) rfl (by unfold wordR; omega) (show 0 < 2 ^ 32 by omega) (fun _ => ?_)
  have := d.isLt
  have := a.isLt
  have := t.code_lt
  obtain ⟨h0, h1, h2, eD, eA, eB, eFn⟩ := fieldsR0 32 d.val a.val t.code 2 g (by omega) (by omega) (by omega) (by omega) (by omega)
  rw [raw1_32 h0 h1]; unfold decode1_32; rw [h2, finOf_eq eD, finOf_eq eA, eFn, eB, tagOf_code]; rfl

theorem cvtRdn (g : Guard) (d : VField) (a : VField) (t : Tag) : Statement (.cvtRdn g d a t) := by
  have f0 := g.code_lt
  have f1 := d.isLt
  have f2 := a.isLt
  have f3 := t.code_lt
  refine of_raw (wordR 32 d.val a.val t.code 3 g.code) rfl (by unfold wordR; omega) (show 0 < 2 ^ 32 by omega) (fun _ => ?_)
  have := d.isLt
  have := a.isLt
  have := t.code_lt
  obtain ⟨h0, h1, h2, eD, eA, eB, eFn⟩ := fieldsR0 32 d.val a.val t.code 3 g (by omega) (by omega) (by omega) (by omega) (by omega)
  rw [raw1_32 h0 h1]; unfold decode1_32; rw [h2, finOf_eq eD, finOf_eq eA, eFn, eB, tagOf_code]; rfl

theorem cvtSat (g : Guard) (d : VField) (a : VField) (t : Tag) : Statement (.cvtSat g d a t) := by
  have f0 := g.code_lt
  have f1 := d.isLt
  have f2 := a.isLt
  have f3 := t.code_lt
  refine of_raw (wordR 32 d.val a.val t.code 4 g.code) rfl (by unfold wordR; omega) (show 0 < 2 ^ 32 by omega) (fun _ => ?_)
  have := d.isLt
  have := a.isLt
  have := t.code_lt
  obtain ⟨h0, h1, h2, eD, eA, eB, eFn⟩ := fieldsR0 32 d.val a.val t.code 4 g (by omega) (by omega) (by omega) (by omega) (by omega)
  rw [raw1_32 h0 h1]; unfold decode1_32; rw [h2, finOf_eq eD, finOf_eq eA, eFn, eB, tagOf_code]; rfl

theorem qn4 (g : Guard) (d : VField) (a : VField) (b : VField) : Statement (.qn4 g d a b) := by
  have f0 := g.code_lt
  have f1 := d.isLt
  have f2 := a.isLt
  have f3 := b.isLt
  refine of_raw (wordR 33 d.val a.val b.val 0 g.code) rfl (by unfold wordR; omega) (show 0 < 2 ^ 32 by omega) (fun _ => ?_)
  have := d.isLt
  have := a.isLt
  have := b.isLt
  obtain ⟨h0, h1, h2, eD, eA, eB, eFn⟩ := fieldsR0 33 d.val a.val b.val 0 g (by omega) (by omega) (by omega) (by omega) (by omega)
  rw [raw1_33 h0 h1]; unfold decode1_33; rw [h2, finOf_eq eD, finOf_eq eA, finOf_eq eB, eFn]; rfl

theorem dqn4 (g : Guard) (d : VField) (a : VField) (b : VField) : Statement (.dqn4 g d a b) := by
  have f0 := g.code_lt
  have f1 := d.isLt
  have f2 := a.isLt
  have f3 := b.isLt
  refine of_raw (wordR 33 d.val a.val b.val 1 g.code) rfl (by unfold wordR; omega) (show 0 < 2 ^ 32 by omega) (fun _ => ?_)
  have := d.isLt
  have := a.isLt
  have := b.isLt
  obtain ⟨h0, h1, h2, eD, eA, eB, eFn⟩ := fieldsR0 33 d.val a.val b.val 1 g (by omega) (by omega) (by omega) (by omega) (by omega)
  rw [raw1_33 h0 h1]; unfold decode1_33; rw [h2, finOf_eq eD, finOf_eq eA, finOf_eq eB, eFn]; rfl

theorem qscale (g : Guard) (d : VField) (a : VField) (b : VField) : Statement (.qscale g d a b) := by
  have f0 := g.code_lt
  have f1 := d.isLt
  have f2 := a.isLt
  have f3 := b.isLt
  refine of_raw (wordR 33 d.val a.val b.val 2 g.code) rfl (by unfold wordR; omega) (show 0 < 2 ^ 32 by omega) (fun _ => ?_)
  have := d.isLt
  have := a.isLt
  have := b.isLt
  obtain ⟨h0, h1, h2, eD, eA, eB, eFn⟩ := fieldsR0 33 d.val a.val b.val 2 g (by omega) (by omega) (by omega) (by omega) (by omega)
  rw [raw1_33 h0 h1]; unfold decode1_33; rw [h2, finOf_eq eD, finOf_eq eA, finOf_eq eB, eFn]; rfl

theorem tagset (g : Guard) (d : VField) (t : Tag) : Statement (.tagset g d t) := by
  have f0 := g.code_lt
  have f1 := d.isLt
  have f2 := t.code_lt
  refine of_raw (wordR 34 d.val 0 t.code 0 g.code) rfl (by unfold wordR; omega) (show 0 < 2 ^ 32 by omega) (fun _ => ?_)
  have := d.isLt
  have := t.code_lt
  obtain ⟨h0, h1, h2, eD, eA, eB, eFn⟩ := fieldsR0 34 d.val 0 t.code 0 g (by omega) (by omega) (by omega) (by omega) (by omega)
  rw [raw1_34 h0 h1]; unfold decode1_34; rw [h2, finOf_eq eD, eFn, eA, eB, tagOf_code]; rfl

theorem tagget (g : Guard) (d : GReg) (a : VField) : Statement (.tagget g d a) := by
  have f0 := g.code_lt
  have f1 := d.isLt
  have f2 := a.isLt
  refine of_raw (wordR 34 d.val a.val 0 1 g.code) rfl (by unfold wordR; omega) (show 0 < 2 ^ 32 by omega) (fun _ => ?_)
  have := d.isLt
  have := a.isLt
  obtain ⟨h0, h1, h2, eD, eA, eB, eFn⟩ := fieldsR0 34 d.val a.val 0 1 g (by omega) (by omega) (by omega) (by omega) (by omega)
  rw [raw1_34 h0 h1]; unfold decode1_34; rw [h2, finOf_eq eD, finOf_eq eA, eFn, eB]; rfl

theorem fclass (g : Guard) (d : VField) (a : VField) : Statement (.fclass g d a) := by
  have f0 := g.code_lt
  have f1 := d.isLt
  have f2 := a.isLt
  refine of_raw (wordR 34 d.val a.val 0 2 g.code) rfl (by unfold wordR; omega) (show 0 < 2 ^ 32 by omega) (fun _ => ?_)
  have := d.isLt
  have := a.isLt
  obtain ⟨h0, h1, h2, eD, eA, eB, eFn⟩ := fieldsR0 34 d.val a.val 0 2 g (by omega) (by omega) (by omega) (by omega) (by omega)
  rw [raw1_34 h0 h1]; unfold decode1_34; rw [h2, finOf_eq eD, finOf_eq eA, eFn, eB]; rfl

theorem draw (g : Guard) (look : Fin 16) (d : GReg) (a : GReg) (b : GReg) : Statement (.draw g look d a b) := by
  have f0 := g.code_lt
  have f1 := look.isLt
  have f2 := d.isLt
  have f3 := a.isLt
  have f4 := b.isLt
  refine of_raw (wordL 36 d.val a.val b.val look.val 0 g.code) rfl (by unfold wordL; omega) (show 0 < 2 ^ 32 by omega) (fun _ => ?_)
  have := look.isLt
  have := d.isLt
  have := a.isLt
  have := b.isLt
  obtain ⟨h0, h1, h2, eD, eA, eB, eLook, eMode⟩ := fieldsL0 36 d.val a.val b.val look.val 0 g (by omega) (by omega) (by omega) (by omega) (by omega) (by omega)
  rw [raw1_36 h0 h1]; unfold decode1_36; rw [h2, finOf_eq eLook, finOf_eq eD, finOf_eq eA, finOf_eq eB, eMode]; rfl

theorem stow (g : Guard) (look : Fin 16) (d : GReg) (a : GReg) (b : GReg) : Statement (.stow g look d a b) := by
  have f0 := g.code_lt
  have f1 := look.isLt
  have f2 := d.isLt
  have f3 := a.isLt
  have f4 := b.isLt
  refine of_raw (wordL 36 d.val a.val b.val look.val 1 g.code) rfl (by unfold wordL; omega) (show 0 < 2 ^ 32 by omega) (fun _ => ?_)
  have := look.isLt
  have := d.isLt
  have := a.isLt
  have := b.isLt
  obtain ⟨h0, h1, h2, eD, eA, eB, eLook, eMode⟩ := fieldsL0 36 d.val a.val b.val look.val 1 g (by omega) (by omega) (by omega) (by omega) (by omega) (by omega)
  rw [raw1_36 h0 h1]; unfold decode1_36; rw [h2, finOf_eq eLook, finOf_eq eD, finOf_eq eA, finOf_eq eB, eMode]; rfl

theorem draws (g : Guard) (look : Fin 16) (d : GReg) (a : GReg) (b : GReg) : Statement (.draws g look d a b) := by
  have f0 := g.code_lt
  have f1 := look.isLt
  have f2 := d.isLt
  have f3 := a.isLt
  have f4 := b.isLt
  refine of_raw (wordL 37 d.val a.val b.val look.val 0 g.code) rfl (by unfold wordL; omega) (show 0 < 2 ^ 32 by omega) (fun _ => ?_)
  have := look.isLt
  have := d.isLt
  have := a.isLt
  have := b.isLt
  obtain ⟨h0, h1, h2, eD, eA, eB, eLook, eMode⟩ := fieldsL0 37 d.val a.val b.val look.val 0 g (by omega) (by omega) (by omega) (by omega) (by omega) (by omega)
  rw [raw1_37 h0 h1]; unfold decode1_37; rw [h2, finOf_eq eLook, finOf_eq eD, finOf_eq eA, finOf_eq eB, eMode]; rfl

theorem stows (g : Guard) (look : Fin 16) (d : GReg) (a : GReg) (b : GReg) : Statement (.stows g look d a b) := by
  have f0 := g.code_lt
  have f1 := look.isLt
  have f2 := d.isLt
  have f3 := a.isLt
  have f4 := b.isLt
  refine of_raw (wordL 37 d.val a.val b.val look.val 1 g.code) rfl (by unfold wordL; omega) (show 0 < 2 ^ 32 by omega) (fun _ => ?_)
  have := look.isLt
  have := d.isLt
  have := a.isLt
  have := b.isLt
  obtain ⟨h0, h1, h2, eD, eA, eB, eLook, eMode⟩ := fieldsL0 37 d.val a.val b.val look.val 1 g (by omega) (by omega) (by omega) (by omega) (by omega) (by omega)
  rw [raw1_37 h0 h1]; unfold decode1_37; rw [h2, finOf_eq eLook, finOf_eq eD, finOf_eq eA, finOf_eq eB, eMode]; rfl

theorem drawDw (g : Guard) (look : Fin 16) (d : GReg) (a : GReg) (b : GReg) (ext : BitVec 32) : Statement (.drawDw g look d a b ext) := by
  have f0 := g.code_lt
  have f1 := look.isLt
  have f2 := d.isLt
  have f3 := a.isLt
  have f4 := b.isLt
  have f5 := ext.isLt
  refine of_raw (2 ^ 30 + wordL 36 d.val a.val b.val look.val 0 g.code) rfl (by unfold wordL; omega) (show ext.toNat < 2 ^ 32 by omega) (fun _ => ?_)
  change decodeRaw _ (ext.toNat) = _
  have := look.isLt
  have := d.isLt
  have := a.isLt
  have := b.isLt
  have := ext.isLt
  obtain ⟨h0, h1, h2, eD, eA, eB, eLook, eMode⟩ := fieldsL1 36 d.val a.val b.val look.val 0 g (by omega) (by omega) (by omega) (by omega) (by omega) (by omega)
  rw [raw2_36 h0 h1]; unfold decode2_36; rw [h2, finOf_eq eLook, finOf_eq eD, finOf_eq eA, finOf_eq eB, ofNat_eq (n := ext.toNat) rfl, eMode]; rfl

theorem stowDw (g : Guard) (look : Fin 16) (d : GReg) (a : GReg) (b : GReg) (ext : BitVec 32) : Statement (.stowDw g look d a b ext) := by
  have f0 := g.code_lt
  have f1 := look.isLt
  have f2 := d.isLt
  have f3 := a.isLt
  have f4 := b.isLt
  have f5 := ext.isLt
  refine of_raw (2 ^ 30 + wordL 36 d.val a.val b.val look.val 1 g.code) rfl (by unfold wordL; omega) (show ext.toNat < 2 ^ 32 by omega) (fun _ => ?_)
  change decodeRaw _ (ext.toNat) = _
  have := look.isLt
  have := d.isLt
  have := a.isLt
  have := b.isLt
  have := ext.isLt
  obtain ⟨h0, h1, h2, eD, eA, eB, eLook, eMode⟩ := fieldsL1 36 d.val a.val b.val look.val 1 g (by omega) (by omega) (by omega) (by omega) (by omega) (by omega)
  rw [raw2_36 h0 h1]; unfold decode2_36; rw [h2, finOf_eq eLook, finOf_eq eD, finOf_eq eA, finOf_eq eB, ofNat_eq (n := ext.toNat) rfl, eMode]; rfl

theorem drawsDw (g : Guard) (look : Fin 16) (d : GReg) (a : GReg) (b : GReg) (ext : BitVec 32) : Statement (.drawsDw g look d a b ext) := by
  have f0 := g.code_lt
  have f1 := look.isLt
  have f2 := d.isLt
  have f3 := a.isLt
  have f4 := b.isLt
  have f5 := ext.isLt
  refine of_raw (2 ^ 30 + wordL 37 d.val a.val b.val look.val 0 g.code) rfl (by unfold wordL; omega) (show ext.toNat < 2 ^ 32 by omega) (fun _ => ?_)
  change decodeRaw _ (ext.toNat) = _
  have := look.isLt
  have := d.isLt
  have := a.isLt
  have := b.isLt
  have := ext.isLt
  obtain ⟨h0, h1, h2, eD, eA, eB, eLook, eMode⟩ := fieldsL1 37 d.val a.val b.val look.val 0 g (by omega) (by omega) (by omega) (by omega) (by omega) (by omega)
  rw [raw2_37 h0 h1]; unfold decode2_37; rw [h2, finOf_eq eLook, finOf_eq eD, finOf_eq eA, finOf_eq eB, ofNat_eq (n := ext.toNat) rfl, eMode]; rfl

theorem stowsDw (g : Guard) (look : Fin 16) (d : GReg) (a : GReg) (b : GReg) (ext : BitVec 32) : Statement (.stowsDw g look d a b ext) := by
  have f0 := g.code_lt
  have f1 := look.isLt
  have f2 := d.isLt
  have f3 := a.isLt
  have f4 := b.isLt
  have f5 := ext.isLt
  refine of_raw (2 ^ 30 + wordL 37 d.val a.val b.val look.val 1 g.code) rfl (by unfold wordL; omega) (show ext.toNat < 2 ^ 32 by omega) (fun _ => ?_)
  change decodeRaw _ (ext.toNat) = _
  have := look.isLt
  have := d.isLt
  have := a.isLt
  have := b.isLt
  have := ext.isLt
  obtain ⟨h0, h1, h2, eD, eA, eB, eLook, eMode⟩ := fieldsL1 37 d.val a.val b.val look.val 1 g (by omega) (by omega) (by omega) (by omega) (by omega) (by omega)
  rw [raw2_37 h0 h1]; unfold decode2_37; rw [h2, finOf_eq eLook, finOf_eq eD, finOf_eq eA, finOf_eq eB, ofNat_eq (n := ext.toNat) rfl, eMode]; rfl

theorem dzero (g : Guard) (look : Fin 16) (d : GReg) (b : GReg) : Statement (.dzero g look d b) := by
  have f0 := g.code_lt
  have f1 := look.isLt
  have f2 := d.isLt
  have f3 := b.isLt
  refine of_raw (wordL 38 d.val 0 b.val look.val 0 g.code) rfl (by unfold wordL; omega) (show 0 < 2 ^ 32 by omega) (fun _ => ?_)
  have := look.isLt
  have := d.isLt
  have := b.isLt
  obtain ⟨h0, h1, h2, eD, eA, eB, eLook, eMode⟩ := fieldsL0 38 d.val 0 b.val look.val 0 g (by omega) (by omega) (by omega) (by omega) (by omega) (by omega)
  rw [raw1_38 h0 h1]; unfold decode1_38; rw [h2, finOf_eq eLook, finOf_eq eD, finOf_eq eB, eMode, eA]; rfl

theorem dcopy (g : Guard) (look : Fin 16) (d : GReg) (a : GReg) (b : GReg) : Statement (.dcopy g look d a b) := by
  have f0 := g.code_lt
  have f1 := look.isLt
  have f2 := d.isLt
  have f3 := a.isLt
  have f4 := b.isLt
  refine of_raw (wordL 38 d.val a.val b.val look.val 1 g.code) rfl (by unfold wordL; omega) (show 0 < 2 ^ 32 by omega) (fun _ => ?_)
  have := look.isLt
  have := d.isLt
  have := a.isLt
  have := b.isLt
  obtain ⟨h0, h1, h2, eD, eA, eB, eLook, eMode⟩ := fieldsL0 38 d.val a.val b.val look.val 1 g (by omega) (by omega) (by omega) (by omega) (by omega) (by omega)
  rw [raw1_38 h0 h1]; unfold decode1_38; rw [h2, finOf_eq eLook, finOf_eq eD, finOf_eq eA, finOf_eq eB, eMode]; rfl

theorem dzeroDw (g : Guard) (look : Fin 16) (d : GReg) (b : GReg) (ext : BitVec 32) : Statement (.dzeroDw g look d b ext) := by
  have f0 := g.code_lt
  have f1 := look.isLt
  have f2 := d.isLt
  have f3 := b.isLt
  have f4 := ext.isLt
  refine of_raw (2 ^ 30 + wordL 38 d.val 0 b.val look.val 0 g.code) rfl (by unfold wordL; omega) (show ext.toNat < 2 ^ 32 by omega) (fun _ => ?_)
  change decodeRaw _ (ext.toNat) = _
  have := look.isLt
  have := d.isLt
  have := b.isLt
  have := ext.isLt
  obtain ⟨h0, h1, h2, eD, eA, eB, eLook, eMode⟩ := fieldsL1 38 d.val 0 b.val look.val 0 g (by omega) (by omega) (by omega) (by omega) (by omega) (by omega)
  rw [raw2_38 h0 h1]; unfold decode2_38; rw [h2, finOf_eq eLook, finOf_eq eD, finOf_eq eB, ofNat_eq (n := ext.toNat) rfl, eMode, eA]; rfl

theorem dcopyDw (g : Guard) (look : Fin 16) (d : GReg) (a : GReg) (b : GReg) (ext : BitVec 32) : Statement (.dcopyDw g look d a b ext) := by
  have f0 := g.code_lt
  have f1 := look.isLt
  have f2 := d.isLt
  have f3 := a.isLt
  have f4 := b.isLt
  have f5 := ext.isLt
  refine of_raw (2 ^ 30 + wordL 38 d.val a.val b.val look.val 1 g.code) rfl (by unfold wordL; omega) (show ext.toNat < 2 ^ 32 by omega) (fun _ => ?_)
  change decodeRaw _ (ext.toNat) = _
  have := look.isLt
  have := d.isLt
  have := a.isLt
  have := b.isLt
  have := ext.isLt
  obtain ⟨h0, h1, h2, eD, eA, eB, eLook, eMode⟩ := fieldsL1 38 d.val a.val b.val look.val 1 g (by omega) (by omega) (by omega) (by omega) (by omega) (by omega)
  rw [raw2_38 h0 h1]; unfold decode2_38; rw [h2, finOf_eq eLook, finOf_eq eD, finOf_eq eA, finOf_eq eB, ofNat_eq (n := ext.toNat) rfl, eMode]; rfl

theorem chain (g : Guard) (a : GReg) (b : GReg) : Statement (.chain g a b) := by
  have f0 := g.code_lt
  have f1 := a.isLt
  have f2 := b.isLt
  refine of_raw (wordR 39 0 a.val b.val 0 g.code) rfl (by unfold wordR; omega) (show 0 < 2 ^ 32 by omega) (fun _ => ?_)
  have := a.isLt
  have := b.isLt
  obtain ⟨h0, h1, h2, eD, eA, eB, eFn⟩ := fieldsR0 39 0 a.val b.val 0 g (by omega) (by omega) (by omega) (by omega) (by omega)
  rw [raw1_39 h0 h1]; unfold decode1_39; rw [h2, finOf_eq eA, finOf_eq eB, eFn, eD]; rfl

theorem kick (g : Guard) (b : Channel) : Statement (.kick g b) := by
  have f0 := g.code_lt
  have f1 := b.isLt
  refine of_raw (wordR 39 0 0 b.val 1 g.code) rfl (by unfold wordR; omega) (show 0 < 2 ^ 32 by omega) (fun _ => ?_)
  have := b.isLt
  obtain ⟨h0, h1, h2, eD, eA, eB, eFn⟩ := fieldsR0 39 0 0 b.val 1 g (by omega) (by omega) (by omega) (by omega) (by omega)
  rw [raw1_39 h0 h1]; unfold decode1_39; rw [h2, finOf_eq eB, eFn, eD, eA]; rfl

theorem cwait (g : Guard) (d : CcReg) (a : GReg) : Statement (.cwait g d a) := by
  have f0 := g.code_lt
  have f1 := d.isLt
  have f2 := a.isLt
  refine of_raw (wordR 39 d.val a.val 0 2 g.code) rfl (by unfold wordR; omega) (show 0 < 2 ^ 32 by omega) (fun _ => ?_)
  have := d.isLt
  have := a.isLt
  obtain ⟨h0, h1, h2, eD, eA, eB, eFn⟩ := fieldsR0 39 d.val a.val 0 2 g (by omega) (by omega) (by omega) (by omega) (by omega)
  rw [raw1_39 h0 h1]; unfold decode1_39; rw [h2, finOf_eq eD, finOf_eq eA, eFn, eB]; rfl

theorem cwaitSatisfied (tid : Nat) : Statement (.cwaitSatisfied tid) := of_event rfl

theorem cpost (g : Guard) (d : CcReg) (a : GReg) : Statement (.cpost g d a) := by
  have f0 := g.code_lt
  have f1 := d.isLt
  have f2 := a.isLt
  refine of_raw (wordR 39 d.val a.val 0 3 g.code) rfl (by unfold wordR; omega) (show 0 < 2 ^ 32 by omega) (fun _ => ?_)
  have := d.isLt
  have := a.isLt
  obtain ⟨h0, h1, h2, eD, eA, eB, eFn⟩ := fieldsR0 39 d.val a.val 0 3 g (by omega) (by omega) (by omega) (by omega) (by omega)
  rw [raw1_39 h0 h1]; unfold decode1_39; rw [h2, finOf_eq eD, finOf_eq eA, eFn, eB]; rfl

theorem wpwait (g : Guard) (d : WpReg) (a : GReg) : Statement (.wpwait g d a) := by
  have f0 := g.code_lt
  have f1 := d.isLt
  have f2 := a.isLt
  refine of_raw (wordR 39 d.val a.val 0 4 g.code) rfl (by unfold wordR; omega) (show 0 < 2 ^ 32 by omega) (fun _ => ?_)
  have := d.isLt
  have := a.isLt
  obtain ⟨h0, h1, h2, eD, eA, eB, eFn⟩ := fieldsR0 39 d.val a.val 0 4 g (by omega) (by omega) (by omega) (by omega) (by omega)
  rw [raw1_39 h0 h1]; unfold decode1_39; rw [h2, finOf_eq eD, finOf_eq eA, eFn, eB]; rfl

theorem wpwaitSatisfied (tid : Nat) : Statement (.wpwaitSatisfied tid) := of_event rfl

theorem publish (g : Guard) (sc : Scope) (a : GReg) : Statement (.publish g sc a) := by
  have f0 := g.code_lt
  have f1 := sc.code_lt
  have f2 := a.isLt
  refine of_raw (wordR 39 0 a.val 0 (8 + sc.code) g.code) rfl (by unfold wordR; omega) (show 0 < 2 ^ 32 by omega) (fun _ => ?_)
  have := sc.code_lt
  obtain ⟨h0, h1, h2, eD, eA, eB, eFn⟩ := fieldsR0 39 0 a.val 0 (8 + sc.code) g (by omega) (by omega) a.isLt (by omega) (by omega)
  rw [raw1_39 h0 h1]; unfold decode1_39; rw [h2, finOf_eq eA, eD, eB, eFn]
  cases sc <;> rfl

theorem publishToggle (tid : Nat) : Statement (.publishToggle tid) := of_event rfl

theorem channelEntryStart (core : Nat) (ch : Nat) : Statement (.channelEntryStart core ch) := of_event rfl

theorem chainEntryStep (core : Nat) (ch : Nat) : Statement (.chainEntryStep core ch) := of_event rfl

theorem operationPacket (core : Nat) (ch : Nat) : Statement (.operationPacket core ch) := of_event rfl

theorem dramRequestAccept (core : Nat) (ch : Nat) : Statement (.dramRequestAccept core ch) := of_event rfl

theorem ownershipDecision (quad : Nat) (pa : Nat) : Statement (.ownershipDecision quad pa) := of_event rfl

theorem clusterCacheEviction (quad : Nat) (line : Nat) : Statement (.clusterCacheEviction quad line) := of_event rfl

theorem entryComplete (core : Nat) (ch : Nat) : Statement (.entryComplete core ch) := of_event rfl

theorem remoteBumpArrival (id : Nat) : Statement (.remoteBumpArrival id) := of_event rfl

theorem channelFault (core : Nat) (ch : Nat) (cause : Cause) (sub : Nat) (addr : Nat) : Statement (.channelFault core ch cause sub addr) := of_event rfl

theorem chstFaultResume (core : Nat) (ch : Nat) : Statement (.chstFaultResume core ch) := of_event rfl

theorem chstAbort (core : Nat) (ch : Nat) : Statement (.chstAbort core ch) := of_event rfl

theorem rowCommandPiece (core : Nat) (ch : Nat) : Statement (.rowCommandPiece core ch) := of_event rfl

theorem landingPacket (core : Nat) (ch : Nat) : Statement (.landingPacket core ch) := of_event rfl

theorem pageWalkRead (id : Nat) : Statement (.pageWalkRead id) := of_event rfl

theorem hotPageEpoch (chan : Nat) : Statement (.hotPageEpoch chan) := of_event rfl

theorem poolScrub (core : Nat) (word : Nat) : Statement (.poolScrub core word) := of_event rfl

theorem fetchMissFill (quad : Nat) (line : Nat) : Statement (.fetchMissFill quad line) := of_event rfl

theorem tblset (g : Guard) (a : GReg) (b : GReg) : Statement (.tblset g a b) := by
  have f0 := g.code_lt
  have f1 := a.isLt
  have f2 := b.isLt
  refine of_raw (wordR 40 0 a.val b.val 0 g.code) rfl (by unfold wordR; omega) (show 0 < 2 ^ 32 by omega) (fun _ => ?_)
  have := a.isLt
  have := b.isLt
  obtain ⟨h0, h1, h2, eD, eA, eB, eFn⟩ := fieldsR0 40 0 a.val b.val 0 g (by omega) (by omega) (by omega) (by omega) (by omega)
  rw [raw1_40 h0 h1]; unfold decode1_40; rw [h2, finOf_eq eA, finOf_eq eB, eFn, eD]; rfl

theorem tblsetComplete (tid : Nat) : Statement (.tblsetComplete tid) := of_event rfl

theorem idhash (g : Guard) (d : GReg) (a : GReg) (b : GReg) : Statement (.idhash g d a b) := by
  have f0 := g.code_lt
  have f1 := d.isLt
  have f2 := a.isLt
  have f3 := b.isLt
  refine of_raw (wordR 40 d.val a.val b.val 1 g.code) rfl (by unfold wordR; omega) (show 0 < 2 ^ 32 by omega) (fun _ => ?_)
  have := d.isLt
  have := a.isLt
  have := b.isLt
  obtain ⟨h0, h1, h2, eD, eA, eB, eFn⟩ := fieldsR0 40 d.val a.val b.val 1 g (by omega) (by omega) (by omega) (by omega) (by omega)
  rw [raw1_40 h0 h1]; unfold decode1_40; rw [h2, finOf_eq eD, finOf_eq eA, finOf_eq eB, eFn]; rfl

theorem rowwait (g : Guard) (a : GReg) : Statement (.rowwait g a) := by
  have f0 := g.code_lt
  have f1 := a.isLt
  refine of_raw (wordR 40 0 a.val 0 2 g.code) rfl (by unfold wordR; omega) (show 0 < 2 ^ 32 by omega) (fun _ => ?_)
  have := a.isLt
  obtain ⟨h0, h1, h2, eD, eA, eB, eFn⟩ := fieldsR0 40 0 a.val 0 2 g (by omega) (by omega) (by omega) (by omega) (by omega)
  rw [raw1_40 h0 h1]; unfold decode1_40; rw [h2, finOf_eq eA, eFn, eD, eB]; rfl

theorem rowwaitSatisfied (tid : Nat) : Statement (.rowwaitSatisfied tid) := of_event rfl

theorem rowacc (g : Guard) (a : GReg) (b : GReg) : Statement (.rowacc g a b) := by
  have f0 := g.code_lt
  have f1 := a.isLt
  have f2 := b.isLt
  refine of_raw (wordR 40 0 a.val b.val 3 g.code) rfl (by unfold wordR; omega) (show 0 < 2 ^ 32 by omega) (fun _ => ?_)
  have := a.isLt
  have := b.isLt
  obtain ⟨h0, h1, h2, eD, eA, eB, eFn⟩ := fieldsR0 40 0 a.val b.val 3 g (by omega) (by omega) (by omega) (by omega) (by omega)
  rw [raw1_40 h0 h1]; unfold decode1_40; rw [h2, finOf_eq eA, finOf_eq eB, eFn, eD]; rfl

theorem rowset (g : Guard) (a : GReg) (b : GReg) : Statement (.rowset g a b) := by
  have f0 := g.code_lt
  have f1 := a.isLt
  have f2 := b.isLt
  refine of_raw (wordR 40 0 a.val b.val 4 g.code) rfl (by unfold wordR; omega) (show 0 < 2 ^ 32 by omega) (fun _ => ?_)
  have := a.isLt
  have := b.isLt
  obtain ⟨h0, h1, h2, eD, eA, eB, eFn⟩ := fieldsR0 40 0 a.val b.val 4 g (by omega) (by omega) (by omega) (by omega) (by omega)
  rw [raw1_40 h0 h1]; unfold decode1_40; rw [h2, finOf_eq eA, finOf_eq eB, eFn, eD]; rfl

theorem elide (g : Guard) (look : Fin 16) (two : Bool) (d : GReg) (a : GReg) (b : GReg) : Statement (.elide g look two d a b) := by
  cases two
  · have f0 := g.code_lt
    have f1 := look.isLt
    have f2 := d.isLt
    have f3 := a.isLt
    have f4 := b.isLt
    refine of_raw (wordL 41 d.val a.val b.val look.val 0 g.code) (Nat.zero_add _) (by unfold wordL; omega) (show 0 < 2 ^ 32 by omega) (fun _ => ?_)
    have := look.isLt
    have := d.isLt
    have := a.isLt
    have := b.isLt
    obtain ⟨h0, h1, h2, eD, eA, eB, eLook, eMode⟩ := fieldsL0 41 d.val a.val b.val look.val 0 g (by omega) (by omega) (by omega) (by omega) (by omega) (by omega)
    rw [raw1_41 h0 h1]; unfold decode1_41; rw [h2, finOf_eq eLook, finOf_eq eD, finOf_eq eA, finOf_eq eB, eMode]; rfl
  · have f0 := g.code_lt
    have f1 := look.isLt
    have f2 := d.isLt
    have f3 := a.isLt
    have f4 := b.isLt
    refine of_raw (2 ^ 30 + wordL 41 d.val a.val b.val look.val 0 g.code) rfl (by unfold wordL; omega) (show 0 < 2 ^ 32 by omega) (fun _ => ?_)
    change decodeRaw _ 0 = _
    have := look.isLt
    have := d.isLt
    have := a.isLt
    have := b.isLt
    obtain ⟨h0, h1, h2, eD, eA, eB, eLook, eMode⟩ := fieldsL1 41 d.val a.val b.val look.val 0 g (by omega) (by omega) (by omega) (by omega) (by omega) (by omega)
    rw [raw2_41 h0 h1]; unfold decode2_41; rw [h2, finOf_eq eLook, finOf_eq eD, finOf_eq eA, finOf_eq eB, eMode]; rfl

theorem elidem (g : Guard) (look : Fin 16) (two : Bool) (d : GReg) (a : GReg) (b : GReg) : Statement (.elidem g look two d a b) := by
  cases two
  · have f0 := g.code_lt
    have f1 := look.isLt
    have f2 := d.isLt
    have f3 := a.isLt
    have f4 := b.isLt
    refine of_raw (wordL 41 d.val a.val b.val look.val 1 g.code) (Nat.zero_add _) (by unfold wordL; omega) (show 0 < 2 ^ 32 by omega) (fun _ => ?_)
    have := look.isLt
    have := d.isLt
    have := a.isLt
    have := b.isLt
    obtain ⟨h0, h1, h2, eD, eA, eB, eLook, eMode⟩ := fieldsL0 41 d.val a.val b.val look.val 1 g (by omega) (by omega) (by omega) (by omega) (by omega) (by omega)
    rw [raw1_41 h0 h1]; unfold decode1_41; rw [h2, finOf_eq eLook, finOf_eq eD, finOf_eq eA, finOf_eq eB, eMode]; rfl
  · have f0 := g.code_lt
    have f1 := look.isLt
    have f2 := d.isLt
    have f3 := a.isLt
    have f4 := b.isLt
    refine of_raw (2 ^ 30 + wordL 41 d.val a.val b.val look.val 1 g.code) rfl (by unfold wordL; omega) (show 0 < 2 ^ 32 by omega) (fun _ => ?_)
    change decodeRaw _ 0 = _
    have := look.isLt
    have := d.isLt
    have := a.isLt
    have := b.isLt
    obtain ⟨h0, h1, h2, eD, eA, eB, eLook, eMode⟩ := fieldsL1 41 d.val a.val b.val look.val 1 g (by omega) (by omega) (by omega) (by omega) (by omega) (by omega)
    rw [raw2_41 h0 h1]; unfold decode2_41; rw [h2, finOf_eq eLook, finOf_eq eD, finOf_eq eA, finOf_eq eB, eMode]; rfl

theorem elisionComplete (id : Nat) : Statement (.elisionComplete id) := of_event rfl

theorem rowget (g : Guard) (look : Fin 16) (d : GReg) (a : GReg) (b : GReg) : Statement (.rowget g look d a b) := by
  have f0 := g.code_lt
  have f1 := look.isLt
  have f2 := d.isLt
  have f3 := a.isLt
  have f4 := b.isLt
  refine of_raw (wordL 42 d.val a.val b.val look.val 0 g.code) rfl (by unfold wordL; omega) (show 0 < 2 ^ 32 by omega) (fun _ => ?_)
  have := look.isLt
  have := d.isLt
  have := a.isLt
  have := b.isLt
  obtain ⟨h0, h1, h2, eD, eA, eB, eLook, eMode⟩ := fieldsL0 42 d.val a.val b.val look.val 0 g (by omega) (by omega) (by omega) (by omega) (by omega) (by omega)
  rw [raw1_42 h0 h1]; unfold decode1_42; rw [h2, finOf_eq eLook, finOf_eq eD, finOf_eq eA, finOf_eq eB, eMode]; rfl

theorem rowgetw (g : Guard) (look : Fin 16) (d : GReg) (a : GReg) (b : GReg) : Statement (.rowgetw g look d a b) := by
  have f0 := g.code_lt
  have f1 := look.isLt
  have f2 := d.isLt
  have f3 := a.isLt
  have f4 := b.isLt
  refine of_raw (wordL 42 d.val a.val b.val look.val 1 g.code) rfl (by unfold wordL; omega) (show 0 < 2 ^ 32 by omega) (fun _ => ?_)
  have := look.isLt
  have := d.isLt
  have := a.isLt
  have := b.isLt
  obtain ⟨h0, h1, h2, eD, eA, eB, eLook, eMode⟩ := fieldsL0 42 d.val a.val b.val look.val 1 g (by omega) (by omega) (by omega) (by omega) (by omega) (by omega)
  rw [raw1_42 h0 h1]; unfold decode1_42; rw [h2, finOf_eq eLook, finOf_eq eD, finOf_eq eA, finOf_eq eB, eMode]; rfl

theorem rowgetDw (g : Guard) (look : Fin 16) (d : GReg) (a : GReg) (b : GReg) (ext : BitVec 32) : Statement (.rowgetDw g look d a b ext) := by
  have f0 := g.code_lt
  have f1 := look.isLt
  have f2 := d.isLt
  have f3 := a.isLt
  have f4 := b.isLt
  have f5 := ext.isLt
  refine of_raw (2 ^ 30 + wordL 42 d.val a.val b.val look.val 0 g.code) rfl (by unfold wordL; omega) (show ext.toNat < 2 ^ 32 by omega) (fun _ => ?_)
  change decodeRaw _ (ext.toNat) = _
  have := look.isLt
  have := d.isLt
  have := a.isLt
  have := b.isLt
  have := ext.isLt
  obtain ⟨h0, h1, h2, eD, eA, eB, eLook, eMode⟩ := fieldsL1 42 d.val a.val b.val look.val 0 g (by omega) (by omega) (by omega) (by omega) (by omega) (by omega)
  rw [raw2_42 h0 h1]; unfold decode2_42; rw [h2, finOf_eq eLook, finOf_eq eD, finOf_eq eA, finOf_eq eB, ofNat_eq (n := ext.toNat) rfl, eMode]; rfl

theorem rowgetwDw (g : Guard) (look : Fin 16) (d : GReg) (a : GReg) (b : GReg) (ext : BitVec 32) : Statement (.rowgetwDw g look d a b ext) := by
  have f0 := g.code_lt
  have f1 := look.isLt
  have f2 := d.isLt
  have f3 := a.isLt
  have f4 := b.isLt
  have f5 := ext.isLt
  refine of_raw (2 ^ 30 + wordL 42 d.val a.val b.val look.val 1 g.code) rfl (by unfold wordL; omega) (show ext.toNat < 2 ^ 32 by omega) (fun _ => ?_)
  change decodeRaw _ (ext.toNat) = _
  have := look.isLt
  have := d.isLt
  have := a.isLt
  have := b.isLt
  have := ext.isLt
  obtain ⟨h0, h1, h2, eD, eA, eB, eLook, eMode⟩ := fieldsL1 42 d.val a.val b.val look.val 1 g (by omega) (by omega) (by omega) (by omega) (by omega) (by omega)
  rw [raw2_42 h0 h1]; unfold decode2_42; rw [h2, finOf_eq eLook, finOf_eq eD, finOf_eq eA, finOf_eq eB, ofNat_eq (n := ext.toNat) rfl, eMode]; rfl

theorem segred (g : Guard) (look : Fin 16) (d : GReg) (a : GReg) (b : GReg) : Statement (.segred g look d a b) := by
  have f0 := g.code_lt
  have f1 := look.isLt
  have f2 := d.isLt
  have f3 := a.isLt
  have f4 := b.isLt
  refine of_raw (wordL 43 d.val a.val b.val look.val 0 g.code) rfl (by unfold wordL; omega) (show 0 < 2 ^ 32 by omega) (fun _ => ?_)
  have := look.isLt
  have := d.isLt
  have := a.isLt
  have := b.isLt
  obtain ⟨h0, h1, h2, eD, eA, eB, eLook, eMode⟩ := fieldsL0 43 d.val a.val b.val look.val 0 g (by omega) (by omega) (by omega) (by omega) (by omega) (by omega)
  rw [raw1_43 h0 h1]; unfold decode1_43; rw [h2, finOf_eq eLook, finOf_eq eD, finOf_eq eA, finOf_eq eB, eMode]; rfl

theorem segscat (g : Guard) (look : Fin 16) (d : GReg) (a : GReg) (b : GReg) : Statement (.segscat g look d a b) := by
  have f0 := g.code_lt
  have f1 := look.isLt
  have f2 := d.isLt
  have f3 := a.isLt
  have f4 := b.isLt
  refine of_raw (wordL 43 d.val a.val b.val look.val 1 g.code) rfl (by unfold wordL; omega) (show 0 < 2 ^ 32 by omega) (fun _ => ?_)
  have := look.isLt
  have := d.isLt
  have := a.isLt
  have := b.isLt
  obtain ⟨h0, h1, h2, eD, eA, eB, eLook, eMode⟩ := fieldsL0 43 d.val a.val b.val look.val 1 g (by omega) (by omega) (by omega) (by omega) (by omega) (by omega)
  rw [raw1_43 h0 h1]; unfold decode1_43; rw [h2, finOf_eq eLook, finOf_eq eD, finOf_eq eA, finOf_eq eB, eMode]; rfl

theorem segredDw (g : Guard) (look : Fin 16) (d : GReg) (a : GReg) (b : GReg) (ext : BitVec 32) : Statement (.segredDw g look d a b ext) := by
  have f0 := g.code_lt
  have f1 := look.isLt
  have f2 := d.isLt
  have f3 := a.isLt
  have f4 := b.isLt
  have f5 := ext.isLt
  refine of_raw (2 ^ 30 + wordL 43 d.val a.val b.val look.val 0 g.code) rfl (by unfold wordL; omega) (show ext.toNat < 2 ^ 32 by omega) (fun _ => ?_)
  change decodeRaw _ (ext.toNat) = _
  have := look.isLt
  have := d.isLt
  have := a.isLt
  have := b.isLt
  have := ext.isLt
  obtain ⟨h0, h1, h2, eD, eA, eB, eLook, eMode⟩ := fieldsL1 43 d.val a.val b.val look.val 0 g (by omega) (by omega) (by omega) (by omega) (by omega) (by omega)
  rw [raw2_43 h0 h1]; unfold decode2_43; rw [h2, finOf_eq eLook, finOf_eq eD, finOf_eq eA, finOf_eq eB, ofNat_eq (n := ext.toNat) rfl, eMode]; rfl

theorem segscatDw (g : Guard) (look : Fin 16) (d : GReg) (a : GReg) (b : GReg) (ext : BitVec 32) : Statement (.segscatDw g look d a b ext) := by
  have f0 := g.code_lt
  have f1 := look.isLt
  have f2 := d.isLt
  have f3 := a.isLt
  have f4 := b.isLt
  have f5 := ext.isLt
  refine of_raw (2 ^ 30 + wordL 43 d.val a.val b.val look.val 1 g.code) rfl (by unfold wordL; omega) (show ext.toNat < 2 ^ 32 by omega) (fun _ => ?_)
  change decodeRaw _ (ext.toNat) = _
  have := look.isLt
  have := d.isLt
  have := a.isLt
  have := b.isLt
  have := ext.isLt
  obtain ⟨h0, h1, h2, eD, eA, eB, eLook, eMode⟩ := fieldsL1 43 d.val a.val b.val look.val 1 g (by omega) (by omega) (by omega) (by omega) (by omega) (by omega)
  rw [raw2_43 h0 h1]; unfold decode2_43; rw [h2, finOf_eq eLook, finOf_eq eD, finOf_eq eA, finOf_eq eB, ofNat_eq (n := ext.toNat) rfl, eMode]; rfl

theorem lookupOpStart (id : Nat) : Statement (.lookupOpStart id) := of_event rfl

theorem rowRequestMerge (id : Nat) (row : Nat) (id2 : Nat) (row2 : Nat) : Statement (.rowRequestMerge id row id2 row2) := of_event rfl

theorem rowRequestServe (id : Nat) (row : Nat) : Statement (.rowRequestServe id row) := of_event rfl

theorem rowRead (id : Nat) (row : Nat) : Statement (.rowRead id row) := of_event rfl

theorem rowAccumulate (id : Nat) (row : Nat) : Statement (.rowAccumulate id row) := of_event rfl

theorem rowStore (id : Nat) (row : Nat) : Statement (.rowStore id row) := of_event rfl

theorem rowReplyLand (id : Nat) (row : Nat) : Statement (.rowReplyLand id row) := of_event rfl

theorem lookupOpComplete (id : Nat) : Statement (.lookupOpComplete id) := of_event rfl

theorem lookupOpFault (id : Nat) (cause : Cause) (sub : Nat) (addr : Nat) : Statement (.lookupOpFault id cause sub addr) := of_event rfl

theorem amoAddW (g : Guard) (look : Fin 16) (d : GReg) (a : GReg) (b : GReg) : Statement (.amoAddW g look d a b) := by
  have f0 := g.code_lt
  have f1 := look.isLt
  have f2 := d.isLt
  have f3 := a.isLt
  have f4 := b.isLt
  refine of_raw (wordL 44 d.val a.val b.val look.val 0 g.code) rfl (by unfold wordL; omega) (show 0 < 2 ^ 32 by omega) (fun _ => ?_)
  have := look.isLt
  have := d.isLt
  have := a.isLt
  have := b.isLt
  obtain ⟨h0, h1, h2, eD, eA, eB, eLook, eMode⟩ := fieldsL0 44 d.val a.val b.val look.val 0 g (by omega) (by omega) (by omega) (by omega) (by omega) (by omega)
  rw [raw1_44 h0 h1]; unfold decode1_44; rw [h2, finOf_eq eLook, finOf_eq eD, finOf_eq eA, finOf_eq eB, eMode]; rfl

theorem amoAddD (g : Guard) (look : Fin 16) (d : GReg) (a : GReg) (b : GReg) : Statement (.amoAddD g look d a b) := by
  have f0 := g.code_lt
  have f1 := look.isLt
  have f2 := d.isLt
  have f3 := a.isLt
  have f4 := b.isLt
  refine of_raw (wordL 44 d.val a.val b.val look.val 1 g.code) rfl (by unfold wordL; omega) (show 0 < 2 ^ 32 by omega) (fun _ => ?_)
  have := look.isLt
  have := d.isLt
  have := a.isLt
  have := b.isLt
  obtain ⟨h0, h1, h2, eD, eA, eB, eLook, eMode⟩ := fieldsL0 44 d.val a.val b.val look.val 1 g (by omega) (by omega) (by omega) (by omega) (by omega) (by omega)
  rw [raw1_44 h0 h1]; unfold decode1_44; rw [h2, finOf_eq eLook, finOf_eq eD, finOf_eq eA, finOf_eq eB, eMode]; rfl

theorem amoAddDw (g : Guard) (look : Fin 16) (dbl : Bool) (d : GReg) (a : GReg) (b : GReg) : Statement (.amoAddDw g look dbl d a b) := by
  have f0 := g.code_lt
  have f1 := look.isLt
  have f2 := dbl.toNat_lt
  have f3 := d.isLt
  have f4 := a.isLt
  have f5 := b.isLt
  refine of_raw (2 ^ 30 + wordL 44 d.val a.val b.val look.val dbl.toNat g.code) rfl (by unfold wordL; omega) (show 0 < 2 ^ 32 by omega) (fun _ => ?_)
  change decodeRaw _ 0 = _
  have hd := dbl.toNat_lt
  obtain ⟨h0, h1, h2, eD, eA, eB, eLook, eMode⟩ := fieldsL1 44 d.val a.val b.val look.val dbl.toNat g (by omega) d.isLt a.isLt b.isLt
    look.isLt (by omega)
  rw [raw2_44 h0 h1]; unfold decode2_44; rw [h2, finOf_eq eLook, finOf_eq eD, finOf_eq eA, finOf_eq eB, eMode]
  cases dbl <;> rfl

theorem amoAnd (g : Guard) (look : Fin 16) (dbl : Bool) (d : GReg) (a : GReg) (b : GReg) : Statement (.amoAnd g look dbl d a b) := by
  have f0 := g.code_lt
  have f1 := look.isLt
  have f2 := dbl.toNat_lt
  have f3 := d.isLt
  have f4 := a.isLt
  have f5 := b.isLt
  refine of_raw (2 ^ 30 + wordL 44 d.val a.val b.val look.val dbl.toNat g.code) rfl (by unfold wordL; omega) (show 1 < 2 ^ 32 by omega) (fun _ => ?_)
  change decodeRaw _ 1 = _
  have hd := dbl.toNat_lt
  obtain ⟨h0, h1, h2, eD, eA, eB, eLook, eMode⟩ := fieldsL1 44 d.val a.val b.val look.val dbl.toNat g (by omega) d.isLt a.isLt b.isLt
    look.isLt (by omega)
  rw [raw2_44 h0 h1]; unfold decode2_44; rw [h2, finOf_eq eLook, finOf_eq eD, finOf_eq eA, finOf_eq eB, eMode]
  cases dbl <;> rfl

theorem amoOr (g : Guard) (look : Fin 16) (dbl : Bool) (d : GReg) (a : GReg) (b : GReg) : Statement (.amoOr g look dbl d a b) := by
  have f0 := g.code_lt
  have f1 := look.isLt
  have f2 := dbl.toNat_lt
  have f3 := d.isLt
  have f4 := a.isLt
  have f5 := b.isLt
  refine of_raw (2 ^ 30 + wordL 44 d.val a.val b.val look.val dbl.toNat g.code) rfl (by unfold wordL; omega) (show 2 < 2 ^ 32 by omega) (fun _ => ?_)
  change decodeRaw _ 2 = _
  have hd := dbl.toNat_lt
  obtain ⟨h0, h1, h2, eD, eA, eB, eLook, eMode⟩ := fieldsL1 44 d.val a.val b.val look.val dbl.toNat g (by omega) d.isLt a.isLt b.isLt
    look.isLt (by omega)
  rw [raw2_44 h0 h1]; unfold decode2_44; rw [h2, finOf_eq eLook, finOf_eq eD, finOf_eq eA, finOf_eq eB, eMode]
  cases dbl <;> rfl

theorem amoXor (g : Guard) (look : Fin 16) (dbl : Bool) (d : GReg) (a : GReg) (b : GReg) : Statement (.amoXor g look dbl d a b) := by
  have f0 := g.code_lt
  have f1 := look.isLt
  have f2 := dbl.toNat_lt
  have f3 := d.isLt
  have f4 := a.isLt
  have f5 := b.isLt
  refine of_raw (2 ^ 30 + wordL 44 d.val a.val b.val look.val dbl.toNat g.code) rfl (by unfold wordL; omega) (show 3 < 2 ^ 32 by omega) (fun _ => ?_)
  change decodeRaw _ 3 = _
  have hd := dbl.toNat_lt
  obtain ⟨h0, h1, h2, eD, eA, eB, eLook, eMode⟩ := fieldsL1 44 d.val a.val b.val look.val dbl.toNat g (by omega) d.isLt a.isLt b.isLt
    look.isLt (by omega)
  rw [raw2_44 h0 h1]; unfold decode2_44; rw [h2, finOf_eq eLook, finOf_eq eD, finOf_eq eA, finOf_eq eB, eMode]
  cases dbl <;> rfl

theorem amoMin (g : Guard) (look : Fin 16) (dbl : Bool) (d : GReg) (a : GReg) (b : GReg) : Statement (.amoMin g look dbl d a b) := by
  have f0 := g.code_lt
  have f1 := look.isLt
  have f2 := dbl.toNat_lt
  have f3 := d.isLt
  have f4 := a.isLt
  have f5 := b.isLt
  refine of_raw (2 ^ 30 + wordL 44 d.val a.val b.val look.val dbl.toNat g.code) rfl (by unfold wordL; omega) (show 4 < 2 ^ 32 by omega) (fun _ => ?_)
  change decodeRaw _ 4 = _
  have hd := dbl.toNat_lt
  obtain ⟨h0, h1, h2, eD, eA, eB, eLook, eMode⟩ := fieldsL1 44 d.val a.val b.val look.val dbl.toNat g (by omega) d.isLt a.isLt b.isLt
    look.isLt (by omega)
  rw [raw2_44 h0 h1]; unfold decode2_44; rw [h2, finOf_eq eLook, finOf_eq eD, finOf_eq eA, finOf_eq eB, eMode]
  cases dbl <;> rfl

theorem amoMax (g : Guard) (look : Fin 16) (dbl : Bool) (d : GReg) (a : GReg) (b : GReg) : Statement (.amoMax g look dbl d a b) := by
  have f0 := g.code_lt
  have f1 := look.isLt
  have f2 := dbl.toNat_lt
  have f3 := d.isLt
  have f4 := a.isLt
  have f5 := b.isLt
  refine of_raw (2 ^ 30 + wordL 44 d.val a.val b.val look.val dbl.toNat g.code) rfl (by unfold wordL; omega) (show 5 < 2 ^ 32 by omega) (fun _ => ?_)
  change decodeRaw _ 5 = _
  have hd := dbl.toNat_lt
  obtain ⟨h0, h1, h2, eD, eA, eB, eLook, eMode⟩ := fieldsL1 44 d.val a.val b.val look.val dbl.toNat g (by omega) d.isLt a.isLt b.isLt
    look.isLt (by omega)
  rw [raw2_44 h0 h1]; unfold decode2_44; rw [h2, finOf_eq eLook, finOf_eq eD, finOf_eq eA, finOf_eq eB, eMode]
  cases dbl <;> rfl

theorem amoMinz (g : Guard) (look : Fin 16) (dbl : Bool) (d : GReg) (a : GReg) (b : GReg) : Statement (.amoMinz g look dbl d a b) := by
  have f0 := g.code_lt
  have f1 := look.isLt
  have f2 := dbl.toNat_lt
  have f3 := d.isLt
  have f4 := a.isLt
  have f5 := b.isLt
  refine of_raw (2 ^ 30 + wordL 44 d.val a.val b.val look.val dbl.toNat g.code) rfl (by unfold wordL; omega) (show 6 < 2 ^ 32 by omega) (fun _ => ?_)
  change decodeRaw _ 6 = _
  have hd := dbl.toNat_lt
  obtain ⟨h0, h1, h2, eD, eA, eB, eLook, eMode⟩ := fieldsL1 44 d.val a.val b.val look.val dbl.toNat g (by omega) d.isLt a.isLt b.isLt
    look.isLt (by omega)
  rw [raw2_44 h0 h1]; unfold decode2_44; rw [h2, finOf_eq eLook, finOf_eq eD, finOf_eq eA, finOf_eq eB, eMode]
  cases dbl <;> rfl

theorem amoMaxz (g : Guard) (look : Fin 16) (dbl : Bool) (d : GReg) (a : GReg) (b : GReg) : Statement (.amoMaxz g look dbl d a b) := by
  have f0 := g.code_lt
  have f1 := look.isLt
  have f2 := dbl.toNat_lt
  have f3 := d.isLt
  have f4 := a.isLt
  have f5 := b.isLt
  refine of_raw (2 ^ 30 + wordL 44 d.val a.val b.val look.val dbl.toNat g.code) rfl (by unfold wordL; omega) (show 7 < 2 ^ 32 by omega) (fun _ => ?_)
  change decodeRaw _ 7 = _
  have hd := dbl.toNat_lt
  obtain ⟨h0, h1, h2, eD, eA, eB, eLook, eMode⟩ := fieldsL1 44 d.val a.val b.val look.val dbl.toNat g (by omega) d.isLt a.isLt b.isLt
    look.isLt (by omega)
  rw [raw2_44 h0 h1]; unfold decode2_44; rw [h2, finOf_eq eLook, finOf_eq eD, finOf_eq eA, finOf_eq eB, eMode]
  cases dbl <;> rfl

theorem amoSwap (g : Guard) (look : Fin 16) (dbl : Bool) (d : GReg) (a : GReg) (b : GReg) : Statement (.amoSwap g look dbl d a b) := by
  have f0 := g.code_lt
  have f1 := look.isLt
  have f2 := dbl.toNat_lt
  have f3 := d.isLt
  have f4 := a.isLt
  have f5 := b.isLt
  refine of_raw (2 ^ 30 + wordL 44 d.val a.val b.val look.val dbl.toNat g.code) rfl (by unfold wordL; omega) (show 8 < 2 ^ 32 by omega) (fun _ => ?_)
  change decodeRaw _ 8 = _
  have hd := dbl.toNat_lt
  obtain ⟨h0, h1, h2, eD, eA, eB, eLook, eMode⟩ := fieldsL1 44 d.val a.val b.val look.val dbl.toNat g (by omega) d.isLt a.isLt b.isLt
    look.isLt (by omega)
  rw [raw2_44 h0 h1]; unfold decode2_44; rw [h2, finOf_eq eLook, finOf_eq eD, finOf_eq eA, finOf_eq eB, eMode]
  cases dbl <;> rfl

theorem casW (g : Guard) (look : Fin 16) (two : Bool) (d : GReg) (a : GReg) (b : GReg) : Statement (.casW g look two d a b) := by
  cases two
  · have f0 := g.code_lt
    have f1 := look.isLt
    have f2 := d.isLt
    have f3 := a.isLt
    have f4 := b.isLt
    refine of_raw (wordL 45 d.val a.val b.val look.val 0 g.code) (Nat.zero_add _) (by unfold wordL; omega) (show 0 < 2 ^ 32 by omega) (fun _ => ?_)
    have := look.isLt
    have := d.isLt
    have := a.isLt
    have := b.isLt
    obtain ⟨h0, h1, h2, eD, eA, eB, eLook, eMode⟩ := fieldsL0 45 d.val a.val b.val look.val 0 g (by omega) (by omega) (by omega) (by omega) (by omega) (by omega)
    rw [raw1_45 h0 h1]; unfold decode1_45; rw [h2, finOf_eq eLook, finOf_eq eD, finOf_eq eA, finOf_eq eB, eMode]; rfl
  · have f0 := g.code_lt
    have f1 := look.isLt
    have f2 := d.isLt
    have f3 := a.isLt
    have f4 := b.isLt
    refine of_raw (2 ^ 30 + wordL 45 d.val a.val b.val look.val 0 g.code) rfl (by unfold wordL; omega) (show 0 < 2 ^ 32 by omega) (fun _ => ?_)
    change decodeRaw _ 0 = _
    have := look.isLt
    have := d.isLt
    have := a.isLt
    have := b.isLt
    obtain ⟨h0, h1, h2, eD, eA, eB, eLook, eMode⟩ := fieldsL1 45 d.val a.val b.val look.val 0 g (by omega) (by omega) (by omega) (by omega) (by omega) (by omega)
    rw [raw2_45 h0 h1]; unfold decode2_45; rw [h2, finOf_eq eLook, finOf_eq eD, finOf_eq eA, finOf_eq eB, eMode]; rfl

theorem casD (g : Guard) (look : Fin 16) (two : Bool) (d : GReg) (a : GReg) (b : GReg) : Statement (.casD g look two d a b) := by
  cases two
  · have f0 := g.code_lt
    have f1 := look.isLt
    have f2 := d.isLt
    have f3 := a.isLt
    have f4 := b.isLt
    refine of_raw (wordL 45 d.val a.val b.val look.val 1 g.code) (Nat.zero_add _) (by unfold wordL; omega) (show 0 < 2 ^ 32 by omega) (fun _ => ?_)
    have := look.isLt
    have := d.isLt
    have := a.isLt
    have := b.isLt
    obtain ⟨h0, h1, h2, eD, eA, eB, eLook, eMode⟩ := fieldsL0 45 d.val a.val b.val look.val 1 g (by omega) (by omega) (by omega) (by omega) (by omega) (by omega)
    rw [raw1_45 h0 h1]; unfold decode1_45; rw [h2, finOf_eq eLook, finOf_eq eD, finOf_eq eA, finOf_eq eB, eMode]; rfl
  · have f0 := g.code_lt
    have f1 := look.isLt
    have f2 := d.isLt
    have f3 := a.isLt
    have f4 := b.isLt
    refine of_raw (2 ^ 30 + wordL 45 d.val a.val b.val look.val 1 g.code) rfl (by unfold wordL; omega) (show 0 < 2 ^ 32 by omega) (fun _ => ?_)
    change decodeRaw _ 0 = _
    have := look.isLt
    have := d.isLt
    have := a.isLt
    have := b.isLt
    obtain ⟨h0, h1, h2, eD, eA, eB, eLook, eMode⟩ := fieldsL1 45 d.val a.val b.val look.val 1 g (by omega) (by omega) (by omega) (by omega) (by omega) (by omega)
    rw [raw2_45 h0 h1]; unfold decode2_45; rw [h2, finOf_eq eLook, finOf_eq eD, finOf_eq eA, finOf_eq eB, eMode]; rfl

theorem atomicExecute (id : Nat) : Statement (.atomicExecute id) := of_event rfl

theorem amoCombine (id : Nat) (id2 : Nat) : Statement (.amoCombine id id2) := of_event rfl

theorem atomicFaultReply (id : Nat) : Statement (.atomicFaultReply id) := of_event rfl

theorem accF32 (g : Guard) (a : GReg) (b : GReg) : Statement (.accF32 g a b) := by
  have f0 := g.code_lt
  have f1 := a.isLt
  have f2 := b.isLt
  refine of_raw (wordR 46 0 a.val b.val 0 g.code) rfl (by unfold wordR; omega) (show 0 < 2 ^ 32 by omega) (fun _ => ?_)
  have := a.isLt
  have := b.isLt
  obtain ⟨h0, h1, h2, eD, eA, eB, eFn⟩ := fieldsR0 46 0 a.val b.val 0 g (by omega) (by omega) (by omega) (by omega) (by omega)
  rw [raw1_46 h0 h1]; unfold decode1_46; rw [h2, finOf_eq eA, finOf_eq eB, eFn, eD]; rfl

theorem accBf16 (g : Guard) (a : GReg) (b : GReg) : Statement (.accBf16 g a b) := by
  have f0 := g.code_lt
  have f1 := a.isLt
  have f2 := b.isLt
  refine of_raw (wordR 46 0 a.val b.val 1 g.code) rfl (by unfold wordR; omega) (show 0 < 2 ^ 32 by omega) (fun _ => ?_)
  have := a.isLt
  have := b.isLt
  obtain ⟨h0, h1, h2, eD, eA, eB, eFn⟩ := fieldsR0 46 0 a.val b.val 1 g (by omega) (by omega) (by omega) (by omega) (by omega)
  rw [raw1_46 h0 h1]; unfold decode1_46; rw [h2, finOf_eq eA, finOf_eq eB, eFn, eD]; rfl

theorem accF64 (g : Guard) (a : GReg) (b : GReg) : Statement (.accF64 g a b) := by
  have f0 := g.code_lt
  have f1 := a.isLt
  have f2 := b.isLt
  refine of_raw (wordR 46 0 a.val b.val 2 g.code) rfl (by unfold wordR; omega) (show 0 < 2 ^ 32 by omega) (fun _ => ?_)
  have := a.isLt
  have := b.isLt
  obtain ⟨h0, h1, h2, eD, eA, eB, eFn⟩ := fieldsR0 46 0 a.val b.val 2 g (by omega) (by omega) (by omega) (by omega) (by omega)
  rw [raw1_46 h0 h1]; unfold decode1_46; rw [h2, finOf_eq eA, finOf_eq eB, eFn, eD]; rfl

theorem fold (g : Guard) (a : GReg) : Statement (.fold g a) := by
  have f0 := g.code_lt
  have f1 := a.isLt
  refine of_raw (wordR 46 0 a.val 0 3 g.code) rfl (by unfold wordR; omega) (show 0 < 2 ^ 32 by omega) (fun _ => ?_)
  have := a.isLt
  obtain ⟨h0, h1, h2, eD, eA, eB, eFn⟩ := fieldsR0 46 0 a.val 0 3 g (by omega) (by omega) (by omega) (by omega) (by omega)
  rw [raw1_46 h0 h1]; unfold decode1_46; rw [h2, finOf_eq eA, eFn, eD, eB]; rfl

theorem accArrival (id : Nat) : Statement (.accArrival id) := of_event rfl

theorem foldArrival (id : Nat) : Statement (.foldArrival id) := of_event rfl

theorem recvred (g : Guard) (look : Fin 16) (two : Bool) (d : GReg) (a : GReg) (b : GReg) : Statement (.recvred g look two d a b) := by
  cases two
  · have f0 := g.code_lt
    have f1 := look.isLt
    have f2 := d.isLt
    have f3 := a.isLt
    have f4 := b.isLt
    refine of_raw (wordL 47 d.val a.val b.val look.val 0 g.code) (Nat.zero_add _) (by unfold wordL; omega) (show 0 < 2 ^ 32 by omega) (fun _ => ?_)
    have := look.isLt
    have := d.isLt
    have := a.isLt
    have := b.isLt
    obtain ⟨h0, h1, h2, eD, eA, eB, eLook, eMode⟩ := fieldsL0 47 d.val a.val b.val look.val 0 g (by omega) (by omega) (by omega) (by omega) (by omega) (by omega)
    rw [raw1_47 h0 h1]; unfold decode1_47; rw [h2, finOf_eq eLook, finOf_eq eD, finOf_eq eA, finOf_eq eB, eMode]; rfl
  · have f0 := g.code_lt
    have f1 := look.isLt
    have f2 := d.isLt
    have f3 := a.isLt
    have f4 := b.isLt
    refine of_raw (2 ^ 30 + wordL 47 d.val a.val b.val look.val 0 g.code) rfl (by unfold wordL; omega) (show 0 < 2 ^ 32 by omega) (fun _ => ?_)
    change decodeRaw _ 0 = _
    have := look.isLt
    have := d.isLt
    have := a.isLt
    have := b.isLt
    obtain ⟨h0, h1, h2, eD, eA, eB, eLook, eMode⟩ := fieldsL1 47 d.val a.val b.val look.val 0 g (by omega) (by omega) (by omega) (by omega) (by omega) (by omega)
    rw [raw2_47 h0 h1]; unfold decode2_47; rw [h2, finOf_eq eLook, finOf_eq eD, finOf_eq eA, finOf_eq eB, eMode]; rfl

theorem recvredMessage (tid : Nat) : Statement (.recvredMessage tid) := of_event rfl

theorem fence (g : Guard) (sc : Scope) : Statement (.fence g sc) := by
  have f0 := g.code_lt
  have f1 := sc.code_lt
  refine of_raw (wordR 48 0 0 0 sc.code g.code) rfl (by unfold wordR; omega) (show 0 < 2 ^ 32 by omega) (fun _ => ?_)
  have := sc.code_lt
  obtain ⟨h0, h1, h2, eD, eA, eB, eFn⟩ := fieldsR0 48 0 0 0 sc.code g (by omega) (by omega) (by omega) (by omega) (by omega)
  rw [raw1_48 h0 h1]; unfold decode1_48; rw [h2, eFn, scopeOf_code, eD, eA, eB]; rfl

theorem fenceComplete (tid : Nat) : Statement (.fenceComplete tid) := of_event rfl

theorem bjoin (g : Guard) (a : GReg) : Statement (.bjoin g a) := by
  have f0 := g.code_lt
  have f1 := a.isLt
  refine of_raw (wordR 49 0 a.val 0 0 g.code) rfl (by unfold wordR; omega) (show 0 < 2 ^ 32 by omega) (fun _ => ?_)
  have := a.isLt
  obtain ⟨h0, h1, h2, eD, eA, eB, eFn⟩ := fieldsR0 49 0 a.val 0 0 g (by omega) (by omega) (by omega) (by omega) (by omega)
  rw [raw1_49 h0 h1]; unfold decode1_49; rw [h2, finOf_eq eA, eFn, eD, eB]; rfl

theorem barr (g : Guard) (a : GReg) : Statement (.barr g a) := by
  have f0 := g.code_lt
  have f1 := a.isLt
  refine of_raw (wordR 49 0 a.val 0 1 g.code) rfl (by unfold wordR; omega) (show 0 < 2 ^ 32 by omega) (fun _ => ?_)
  have := a.isLt
  obtain ⟨h0, h1, h2, eD, eA, eB, eFn⟩ := fieldsR0 49 0 a.val 0 1 g (by omega) (by omega) (by omega) (by omega) (by omega)
  rw [raw1_49 h0 h1]; unfold decode1_49; rw [h2, finOf_eq eA, eFn, eD, eB]; rfl

theorem bwait (g : Guard) (a : GReg) : Statement (.bwait g a) := by
  have f0 := g.code_lt
  have f1 := a.isLt
  refine of_raw (wordR 49 0 a.val 0 2 g.code) rfl (by unfold wordR; omega) (show 0 < 2 ^ 32 by omega) (fun _ => ?_)
  have := a.isLt
  obtain ⟨h0, h1, h2, eD, eA, eB, eFn⟩ := fieldsR0 49 0 a.val 0 2 g (by omega) (by omega) (by omega) (by omega) (by omega)
  rw [raw1_49 h0 h1]; unfold decode1_49; rw [h2, finOf_eq eA, eFn, eD, eB]; rfl

theorem barrw (g : Guard) (a : GReg) : Statement (.barrw g a) := by
  have f0 := g.code_lt
  have f1 := a.isLt
  refine of_raw (wordR 49 0 a.val 0 3 g.code) rfl (by unfold wordR; omega) (show 0 < 2 ^ 32 by omega) (fun _ => ?_)
  have := a.isLt
  obtain ⟨h0, h1, h2, eD, eA, eB, eFn⟩ := fieldsR0 49 0 a.val 0 3 g (by omega) (by omega) (by omega) (by omega) (by omega)
  rw [raw1_49 h0 h1]; unfold decode1_49; rw [h2, finOf_eq eA, eFn, eD, eB]; rfl

theorem bexp (g : Guard) (a : GReg) (b : GReg) : Statement (.bexp g a b) := by
  have f0 := g.code_lt
  have f1 := a.isLt
  have f2 := b.isLt
  refine of_raw (wordR 49 0 a.val b.val 4 g.code) rfl (by unfold wordR; omega) (show 0 < 2 ^ 32 by omega) (fun _ => ?_)
  have := a.isLt
  have := b.isLt
  obtain ⟨h0, h1, h2, eD, eA, eB, eFn⟩ := fieldsR0 49 0 a.val b.val 4 g (by omega) (by omega) (by omega) (by omega) (by omega)
  rw [raw1_49 h0 h1]; unfold decode1_49; rw [h2, finOf_eq eA, finOf_eq eB, eFn, eD]; rfl

theorem bmiss (g : Guard) (d : GReg) (a : GReg) : Statement (.bmiss g d a) := by
  have f0 := g.code_lt
  have f1 := d.isLt
  have f2 := a.isLt
  refine of_raw (wordR 49 d.val a.val 0 5 g.code) rfl (by unfold wordR; omega) (show 0 < 2 ^ 32 by omega) (fun _ => ?_)
  have := d.isLt
  have := a.isLt
  obtain ⟨h0, h1, h2, eD, eA, eB, eFn⟩ := fieldsR0 49 d.val a.val 0 5 g (by omega) (by omega) (by omega) (by omega) (by omega)
  rw [raw1_49 h0 h1]; unfold decode1_49; rw [h2, finOf_eq eD, finOf_eq eA, eFn, eB]; rfl

theorem barrierArrival (tid : Nat) : Statement (.barrierArrival tid) := of_event rfl

theorem byteDelivery (quad : Nat) (obj : Nat) (n : Nat) : Statement (.byteDelivery quad obj n) := of_event rfl

theorem bwaitReturn (tid : Nat) : Statement (.bwaitReturn tid) := of_event rfl

theorem send (g : Guard) (a : GReg) (b : GReg) : Statement (.send g a b) := by
  have f0 := g.code_lt
  have f1 := a.isLt
  have f2 := b.isLt
  refine of_raw (wordR 50 0 a.val b.val 0 g.code) rfl (by unfold wordR; omega) (show 0 < 2 ^ 32 by omega) (fun _ => ?_)
  have := a.isLt
  have := b.isLt
  obtain ⟨h0, h1, h2, eD, eA, eB, eFn⟩ := fieldsR0 50 0 a.val b.val 0 g (by omega) (by omega) (by omega) (by omega) (by omega)
  rw [raw1_50 h0 h1]; unfold decode1_50; rw [h2, finOf_eq eA, finOf_eq eB, eFn, eD]; rfl

theorem sendl (g : Guard) (a : GReg) (b : GReg) : Statement (.sendl g a b) := by
  have f0 := g.code_lt
  have f1 := a.isLt
  have f2 := b.isLt
  refine of_raw (wordR 50 0 a.val b.val 1 g.code) rfl (by unfold wordR; omega) (show 0 < 2 ^ 32 by omega) (fun _ => ?_)
  have := a.isLt
  have := b.isLt
  obtain ⟨h0, h1, h2, eD, eA, eB, eFn⟩ := fieldsR0 50 0 a.val b.val 1 g (by omega) (by omega) (by omega) (by omega) (by omega)
  rw [raw1_50 h0 h1]; unfold decode1_50; rw [h2, finOf_eq eA, finOf_eq eB, eFn, eD]; rfl

theorem recv (g : Guard) (d : GReg) (a : GReg) : Statement (.recv g d a) := by
  have f0 := g.code_lt
  have f1 := d.isLt
  have f2 := a.isLt
  refine of_raw (wordR 50 d.val a.val 0 2 g.code) rfl (by unfold wordR; omega) (show 0 < 2 ^ 32 by omega) (fun _ => ?_)
  have := d.isLt
  have := a.isLt
  obtain ⟨h0, h1, h2, eD, eA, eB, eFn⟩ := fieldsR0 50 d.val a.val 0 2 g (by omega) (by omega) (by omega) (by omega) (by omega)
  rw [raw1_50 h0 h1]; unfold decode1_50; rw [h2, finOf_eq eD, finOf_eq eA, eFn, eB]; rfl

theorem recvTake (tid : Nat) : Statement (.recvTake tid) := of_event rfl

theorem rpeek (g : Guard) (d : GReg) : Statement (.rpeek g d) := by
  have f0 := g.code_lt
  have f1 := d.isLt
  refine of_raw (wordR 50 d.val 0 0 3 g.code) rfl (by unfold wordR; omega) (show 0 < 2 ^ 32 by omega) (fun _ => ?_)
  have := d.isLt
  obtain ⟨h0, h1, h2, eD, eA, eB, eFn⟩ := fieldsR0 50 d.val 0 0 3 g (by omega) (by omega) (by omega) (by omega) (by omega)
  rw [raw1_50 h0 h1]; unfold decode1_50; rw [h2, finOf_eq eD, eFn, eA, eB]; rfl

theorem rqset (g : Guard) (a : GReg) (b : GReg) : Statement (.rqset g a b) := by
  have f0 := g.code_lt
  have f1 := a.isLt
  have f2 := b.isLt
  refine of_raw (wordR 50 0 a.val b.val 4 g.code) rfl (by unfold wordR; omega) (show 0 < 2 ^ 32 by omega) (fun _ => ?_)
  have := a.isLt
  have := b.isLt
  obtain ⟨h0, h1, h2, eD, eA, eB, eFn⟩ := fieldsR0 50 0 a.val b.val 4 g (by omega) (by omega) (by omega) (by omega) (by omega)
  rw [raw1_50 h0 h1]; unfold decode1_50; rw [h2, finOf_eq eA, finOf_eq eB, eFn, eD]; rfl

theorem resume (g : Guard) (a : GReg) (b : GReg) : Statement (.resume g a b) := by
  have f0 := g.code_lt
  have f1 := a.isLt
  have f2 := b.isLt
  refine of_raw (wordR 50 0 a.val b.val 5 g.code) rfl (by unfold wordR; omega) (show 0 < 2 ^ 32 by omega) (fun _ => ?_)
  have := a.isLt
  have := b.isLt
  obtain ⟨h0, h1, h2, eD, eA, eB, eFn⟩ := fieldsR0 50 0 a.val b.val 5 g (by omega) (by omega) (by omega) (by omega) (by omega)
  rw [raw1_50 h0 h1]; unfold decode1_50; rw [h2, finOf_eq eA, finOf_eq eB, eFn, eD]; rfl

theorem resumeArrival (id : Nat) : Statement (.resumeArrival id) := of_event rfl

theorem messageArrival (id : Nat) : Statement (.messageArrival id) := of_event rfl

theorem retryTimer (core : Nat) (stream : Nat) : Statement (.retryTimer core stream) := of_event rfl

theorem rget (g : Guard) (look : Fin 16) (d : GReg) (a : GReg) (b : GReg) : Statement (.rget g look d a b) := by
  have f0 := g.code_lt
  have f1 := look.isLt
  have f2 := d.isLt
  have f3 := a.isLt
  have f4 := b.isLt
  refine of_raw (wordL 51 d.val a.val b.val look.val 0 g.code) rfl (by unfold wordL; omega) (show 0 < 2 ^ 32 by omega) (fun _ => ?_)
  have := look.isLt
  have := d.isLt
  have := a.isLt
  have := b.isLt
  obtain ⟨h0, h1, h2, eD, eA, eB, eLook, eMode⟩ := fieldsL0 51 d.val a.val b.val look.val 0 g (by omega) (by omega) (by omega) (by omega) (by omega) (by omega)
  rw [raw1_51 h0 h1]; unfold decode1_51; rw [h2, finOf_eq eLook, finOf_eq eD, finOf_eq eA, finOf_eq eB, eMode]; rfl

theorem rsto (g : Guard) (look : Fin 16) (d : GReg) (a : GReg) (b : GReg) : Statement (.rsto g look d a b) := by
  have f0 := g.code_lt
  have f1 := look.isLt
  have f2 := d.isLt
  have f3 := a.isLt
  have f4 := b.isLt
  refine of_raw (wordL 51 d.val a.val b.val look.val 1 g.code) rfl (by unfold wordL; omega) (show 0 < 2 ^ 32 by omega) (fun _ => ?_)
  have := look.isLt
  have := d.isLt
  have := a.isLt
  have := b.isLt
  obtain ⟨h0, h1, h2, eD, eA, eB, eLook, eMode⟩ := fieldsL0 51 d.val a.val b.val look.val 1 g (by omega) (by omega) (by omega) (by omega) (by omega) (by omega)
  rw [raw1_51 h0 h1]; unfold decode1_51; rw [h2, finOf_eq eLook, finOf_eq eD, finOf_eq eA, finOf_eq eB, eMode]; rfl

theorem rgetDw (g : Guard) (look : Fin 16) (d : GReg) (a : GReg) (b : GReg) (ext : BitVec 32) : Statement (.rgetDw g look d a b ext) := by
  have f0 := g.code_lt
  have f1 := look.isLt
  have f2 := d.isLt
  have f3 := a.isLt
  have f4 := b.isLt
  have f5 := ext.isLt
  refine of_raw (2 ^ 30 + wordL 51 d.val a.val b.val look.val 0 g.code) rfl (by unfold wordL; omega) (show ext.toNat < 2 ^ 32 by omega) (fun _ => ?_)
  change decodeRaw _ (ext.toNat) = _
  have := look.isLt
  have := d.isLt
  have := a.isLt
  have := b.isLt
  have := ext.isLt
  obtain ⟨h0, h1, h2, eD, eA, eB, eLook, eMode⟩ := fieldsL1 51 d.val a.val b.val look.val 0 g (by omega) (by omega) (by omega) (by omega) (by omega) (by omega)
  rw [raw2_51 h0 h1]; unfold decode2_51; rw [h2, finOf_eq eLook, finOf_eq eD, finOf_eq eA, finOf_eq eB, ofNat_eq (n := ext.toNat) rfl, eMode]; rfl

theorem rstoDw (g : Guard) (look : Fin 16) (d : GReg) (a : GReg) (b : GReg) (ext : BitVec 32) : Statement (.rstoDw g look d a b ext) := by
  have f0 := g.code_lt
  have f1 := look.isLt
  have f2 := d.isLt
  have f3 := a.isLt
  have f4 := b.isLt
  have f5 := ext.isLt
  refine of_raw (2 ^ 30 + wordL 51 d.val a.val b.val look.val 1 g.code) rfl (by unfold wordL; omega) (show ext.toNat < 2 ^ 32 by omega) (fun _ => ?_)
  change decodeRaw _ (ext.toNat) = _
  have := look.isLt
  have := d.isLt
  have := a.isLt
  have := b.isLt
  have := ext.isLt
  obtain ⟨h0, h1, h2, eD, eA, eB, eLook, eMode⟩ := fieldsL1 51 d.val a.val b.val look.val 1 g (by omega) (by omega) (by omega) (by omega) (by omega) (by omega)
  rw [raw2_51 h0 h1]; unfold decode2_51; rw [h2, finOf_eq eLook, finOf_eq eD, finOf_eq eA, finOf_eq eB, ofNat_eq (n := ext.toNat) rfl, eMode]; rfl

theorem remoteRequestArrival (id : Nat) : Statement (.remoteRequestArrival id) := of_event rfl

theorem remoteReply (id : Nat) : Statement (.remoteReply id) := of_event rfl

theorem refusalReturn (id : Nat) : Statement (.refusalReturn id) := of_event rfl

theorem flitReceive (link : Nat) (seq : Nat) (crcOk : Bool) : Statement (.flitReceive link seq crcOk) := of_event rfl

theorem replayRequest (link : Nat) (seq : Nat) : Statement (.replayRequest link seq) := of_event rfl

theorem linkDown (link : Nat) : Statement (.linkDown link) := of_event rfl

theorem qpush (g : Guard) (a : GReg) (b : GReg) : Statement (.qpush g a b) := by
  have f0 := g.code_lt
  have f1 := a.isLt
  have f2 := b.isLt
  refine of_raw (wordR 52 0 a.val b.val 0 g.code) rfl (by unfold wordR; omega) (show 0 < 2 ^ 32 by omega) (fun _ => ?_)
  have := a.isLt
  have := b.isLt
  obtain ⟨h0, h1, h2, eD, eA, eB, eFn⟩ := fieldsR0 52 0 a.val b.val 0 g (by omega) (by omega) (by omega) (by omega) (by omega)
  rw [raw1_52 h0 h1]; unfold decode1_52; rw [h2, finOf_eq eA, finOf_eq eB, eFn, eD]; rfl

theorem qpop (g : Guard) (d : GReg) (a : GReg) : Statement (.qpop g d a) := by
  have f0 := g.code_lt
  have f1 := d.isLt
  have f2 := a.isLt
  refine of_raw (wordR 52 d.val a.val 0 1 g.code) rfl (by unfold wordR; omega) (show 0 < 2 ^ 32 by omega) (fun _ => ?_)
  have := d.isLt
  have := a.isLt
  obtain ⟨h0, h1, h2, eD, eA, eB, eFn⟩ := fieldsR0 52 d.val a.val 0 1 g (by omega) (by omega) (by omega) (by omega) (by omega)
  rw [raw1_52 h0 h1]; unfold decode1_52; rw [h2, finOf_eq eD, finOf_eq eA, eFn, eB]; rfl

theorem queueRefill (quad : Nat) (n : Nat) : Statement (.queueRefill quad n) := of_event rfl

theorem wqringWrite (g : Guard) (n : Fin 8) (a : GReg) : Statement (.wqringWrite g n a) := by
  have f0 := g.code_lt
  have f1 := n.isLt
  have f2 := a.isLt
  refine of_raw (wordI 61 0 a.val (60 + n.val) g.code) rfl (by unfold wordI; omega) (show 0 < 2 ^ 32 by omega) (fun _ => ?_)
  have hn := n.isLt
  obtain ⟨h0, h1, h2, eD, eA, eImm⟩ := fieldsI0 61 0 a.val (60 + n.val) g (by omega) (by omega) a.isLt (by omega)
  have x1 : fImm (wordI 61 0 a.val (60 + n.val) g.code) - 60 = n.val := by omega
  rw [raw1_61 h0 h1]; unfold decode1_61; rw [h2, eD, finOf_eq eA, finOf_eq x1, eImm]
  repeat first | rw [if_pos (by omega)] | rw [if_neg (by omega)]
  rfl

theorem exit (g : Guard) (a : GReg) : Statement (.exit g a) := by
  have f0 := g.code_lt
  have f1 := a.isLt
  refine of_raw (wordR 54 0 a.val 0 0 g.code) rfl (by unfold wordR; omega) (show 0 < 2 ^ 32 by omega) (fun _ => ?_)
  have := a.isLt
  obtain ⟨h0, h1, h2, eD, eA, eB, eFn⟩ := fieldsR0 54 0 a.val 0 0 g (by omega) (by omega) (by omega) (by omega) (by omega)
  rw [raw1_54 h0 h1]; unfold decode1_54; rw [h2, finOf_eq eA, eFn, eD, eB]; rfl

theorem exitDrainDone (tid : Nat) : Statement (.exitDrainDone tid) := of_event rfl

theorem windowDepart (launch : Nat) : Statement (.windowDepart launch) := of_event rfl

theorem detach (g : Guard) : Statement (.detach g) := by
  have f0 := g.code_lt
  refine of_raw (wordR 54 0 0 0 1 g.code) rfl (by unfold wordR; omega) (show 0 < 2 ^ 32 by omega) (fun _ => ?_)
  obtain ⟨h0, h1, h2, eD, eA, eB, eFn⟩ := fieldsR0 54 0 0 0 1 g (by omega) (by omega) (by omega) (by omega) (by omega)
  rw [raw1_54 h0 h1]; unfold decode1_54; rw [h2, eFn, eD, eA, eB]; rfl

theorem detachStep (tid : Nat) : Statement (.detachStep tid) := of_event rfl

theorem teamid (g : Guard) (d : GReg) : Statement (.teamid g d) := by
  have f0 := g.code_lt
  have f1 := d.isLt
  refine of_raw (wordR 54 d.val 0 0 2 g.code) rfl (by unfold wordR; omega) (show 0 < 2 ^ 32 by omega) (fun _ => ?_)
  have := d.isLt
  obtain ⟨h0, h1, h2, eD, eA, eB, eFn⟩ := fieldsR0 54 d.val 0 0 2 g (by omega) (by omega) (by omega) (by omega) (by omega)
  rw [raw1_54 h0 h1]; unfold decode1_54; rw [h2, finOf_eq eD, eFn, eA, eB]; rfl

theorem yield (g : Guard) : Statement (.yield g) := by
  have f0 := g.code_lt
  refine of_raw (wordR 54 0 0 0 3 g.code) rfl (by unfold wordR; omega) (show 0 < 2 ^ 32 by omega) (fun _ => ?_)
  obtain ⟨h0, h1, h2, eD, eA, eB, eFn⟩ := fieldsR0 54 0 0 0 3 g (by omega) (by omega) (by omega) (by omega) (by omega)
  rw [raw1_54 h0 h1]; unfold decode1_54; rw [h2, eFn, eD, eA, eB]; rfl

theorem wld (g : Guard) (look : Fin 16) (d : GReg) (a : GReg) (b : GReg) : Statement (.wld g look d a b) := by
  have f0 := g.code_lt
  have f1 := look.isLt
  have f2 := d.isLt
  have f3 := a.isLt
  have f4 := b.isLt
  refine of_raw (wordL 55 d.val a.val b.val look.val 0 g.code) rfl (by unfold wordL; omega) (show 0 < 2 ^ 32 by omega) (fun _ => ?_)
  have := look.isLt
  have := d.isLt
  have := a.isLt
  have := b.isLt
  obtain ⟨h0, h1, h2, eD, eA, eB, eLook, eMode⟩ := fieldsL0 55 d.val a.val b.val look.val 0 g (by omega) (by omega) (by omega) (by omega) (by omega) (by omega)
  rw [raw1_55 h0 h1]; unfold decode1_55; rw [h2, finOf_eq eLook, finOf_eq eD, finOf_eq eA, finOf_eq eB, eMode]; rfl

theorem wst (g : Guard) (look : Fin 16) (d : GReg) (a : GReg) (b : GReg) : Statement (.wst g look d a b) := by
  have f0 := g.code_lt
  have f1 := look.isLt
  have f2 := d.isLt
  have f3 := a.isLt
  have f4 := b.isLt
  refine of_raw (wordL 55 d.val a.val b.val look.val 1 g.code) rfl (by unfold wordL; omega) (show 0 < 2 ^ 32 by omega) (fun _ => ?_)
  have := look.isLt
  have := d.isLt
  have := a.isLt
  have := b.isLt
  obtain ⟨h0, h1, h2, eD, eA, eB, eLook, eMode⟩ := fieldsL0 55 d.val a.val b.val look.val 1 g (by omega) (by omega) (by omega) (by omega) (by omega) (by omega)
  rw [raw1_55 h0 h1]; unfold decode1_55; rw [h2, finOf_eq eLook, finOf_eq eD, finOf_eq eA, finOf_eq eB, eMode]; rfl

theorem wldDw (g : Guard) (look : Fin 16) (d : GReg) (a : GReg) (b : GReg) (ext : BitVec 32) : Statement (.wldDw g look d a b ext) := by
  have f0 := g.code_lt
  have f1 := look.isLt
  have f2 := d.isLt
  have f3 := a.isLt
  have f4 := b.isLt
  have f5 := ext.isLt
  refine of_raw (2 ^ 30 + wordL 55 d.val a.val b.val look.val 0 g.code) rfl (by unfold wordL; omega) (show ext.toNat < 2 ^ 32 by omega) (fun _ => ?_)
  change decodeRaw _ (ext.toNat) = _
  have := look.isLt
  have := d.isLt
  have := a.isLt
  have := b.isLt
  have := ext.isLt
  obtain ⟨h0, h1, h2, eD, eA, eB, eLook, eMode⟩ := fieldsL1 55 d.val a.val b.val look.val 0 g (by omega) (by omega) (by omega) (by omega) (by omega) (by omega)
  rw [raw2_55 h0 h1]; unfold decode2_55; rw [h2, finOf_eq eLook, finOf_eq eD, finOf_eq eA, finOf_eq eB, ofNat_eq (n := ext.toNat) rfl, eMode]; rfl

theorem wstDw (g : Guard) (look : Fin 16) (d : GReg) (a : GReg) (b : GReg) (ext : BitVec 32) : Statement (.wstDw g look d a b ext) := by
  have f0 := g.code_lt
  have f1 := look.isLt
  have f2 := d.isLt
  have f3 := a.isLt
  have f4 := b.isLt
  have f5 := ext.isLt
  refine of_raw (2 ^ 30 + wordL 55 d.val a.val b.val look.val 1 g.code) rfl (by unfold wordL; omega) (show ext.toNat < 2 ^ 32 by omega) (fun _ => ?_)
  change decodeRaw _ (ext.toNat) = _
  have := look.isLt
  have := d.isLt
  have := a.isLt
  have := b.isLt
  have := ext.isLt
  obtain ⟨h0, h1, h2, eD, eA, eB, eLook, eMode⟩ := fieldsL1 55 d.val a.val b.val look.val 1 g (by omega) (by omega) (by omega) (by omega) (by omega) (by omega)
  rw [raw2_55 h0 h1]; unfold decode2_55; rw [h2, finOf_eq eLook, finOf_eq eD, finOf_eq eA, finOf_eq eB, ofNat_eq (n := ext.toNat) rfl, eMode]; rfl

theorem hseed (g : Guard) (a : GReg) (b : GReg) : Statement (.hseed g a b) := by
  have f0 := g.code_lt
  have f1 := a.isLt
  have f2 := b.isLt
  refine of_raw (wordR 56 0 a.val b.val 0 g.code) rfl (by unfold wordR; omega) (show 0 < 2 ^ 32 by omega) (fun _ => ?_)
  have := a.isLt
  have := b.isLt
  obtain ⟨h0, h1, h2, eD, eA, eB, eFn⟩ := fieldsR0 56 0 a.val b.val 0 g (by omega) (by omega) (by omega) (by omega) (by omega)
  rw [raw1_56 h0 h1]; unfold decode1_56; rw [h2, finOf_eq eA, finOf_eq eB, eFn, eD]; rfl

theorem hseedEntryRead (tid : Nat) : Statement (.hseedEntryRead tid) := of_event rfl

theorem gain (g : Guard) (a : GReg) (b : GReg) : Statement (.gain g a b) := by
  have f0 := g.code_lt
  have f1 := a.isLt
  have f2 := b.isLt
  refine of_raw (wordR 56 0 a.val b.val 1 g.code) rfl (by unfold wordR; omega) (show 0 < 2 ^ 32 by omega) (fun _ => ?_)
  have := a.isLt
  have := b.isLt
  obtain ⟨h0, h1, h2, eD, eA, eB, eFn⟩ := fieldsR0 56 0 a.val b.val 1 g (by omega) (by omega) (by omega) (by omega) (by omega)
  rw [raw1_56 h0 h1]; unfold decode1_56; rw [h2, finOf_eq eA, finOf_eq eB, eFn, eD]; rfl

theorem gainApply (id : Nat) : Statement (.gainApply id) := of_event rfl

theorem done (g : Guard) (a : GReg) : Statement (.done g a) := by
  have f0 := g.code_lt
  have f1 := a.isLt
  refine of_raw (wordR 56 0 a.val 0 2 g.code) rfl (by unfold wordR; omega) (show 0 < 2 ^ 32 by omega) (fun _ => ?_)
  have := a.isLt
  obtain ⟨h0, h1, h2, eD, eA, eB, eFn⟩ := fieldsR0 56 0 a.val 0 2 g (by omega) (by omega) (by omega) (by omega) (by omega)
  rw [raw1_56 h0 h1]; unfold decode1_56; rw [h2, finOf_eq eA, eFn, eD, eB]; rfl

theorem doneApply (tid : Nat) : Statement (.doneApply tid) := of_event rfl

theorem resid (g : Guard) (d : GReg) : Statement (.resid g d) := by
  have f0 := g.code_lt
  have f1 := d.isLt
  refine of_raw (wordR 56 d.val 0 0 3 g.code) rfl (by unfold wordR; omega) (show 0 < 2 ^ 32 by omega) (fun _ => ?_)
  have := d.isLt
  obtain ⟨h0, h1, h2, eD, eA, eB, eFn⟩ := fieldsR0 56 d.val 0 0 3 g (by omega) (by omega) (by omega) (by omega) (by omega)
  rw [raw1_56 h0 h1]; unfold decode1_56; rw [h2, finOf_eq eD, eFn, eA, eB]; rfl

theorem hpeek (g : Guard) (d : GReg) : Statement (.hpeek g d) := by
  have f0 := g.code_lt
  have f1 := d.isLt
  refine of_raw (wordR 56 d.val 0 0 4 g.code) rfl (by unfold wordR; omega) (show 0 < 2 ^ 32 by omega) (fun _ => ?_)
  have := d.isLt
  obtain ⟨h0, h1, h2, eD, eA, eB, eFn⟩ := fieldsR0 56 d.val 0 0 4 g (by omega) (by omega) (by omega) (by omega) (by omega)
  rw [raw1_56 h0 h1]; unfold decode1_56; rw [h2, finOf_eq eD, eFn, eA, eB]; rfl

theorem hcount (g : Guard) (d : GReg) : Statement (.hcount g d) := by
  have f0 := g.code_lt
  have f1 := d.isLt
  refine of_raw (wordR 56 d.val 0 0 5 g.code) rfl (by unfold wordR; omega) (show 0 < 2 ^ 32 by omega) (fun _ => ?_)
  have := d.isLt
  obtain ⟨h0, h1, h2, eD, eA, eB, eFn⟩ := fieldsR0 56 d.val 0 0 5 g (by omega) (by omega) (by omega) (by omega) (by omega)
  rw [raw1_56 h0 h1]; unfold decode1_56; rw [h2, finOf_eq eD, eFn, eA, eB]; rfl

theorem take (g : Guard) (look : Fin 16) (two : Bool) (d : GReg) (a : GReg) (b : GReg) : Statement (.take g look two d a b) := by
  cases two
  · have f0 := g.code_lt
    have f1 := look.isLt
    have f2 := d.isLt
    have f3 := a.isLt
    have f4 := b.isLt
    refine of_raw (wordL 57 d.val a.val b.val look.val 0 g.code) (Nat.zero_add _) (by unfold wordL; omega) (show 0 < 2 ^ 32 by omega) (fun _ => ?_)
    have := look.isLt
    have := d.isLt
    have := a.isLt
    have := b.isLt
    obtain ⟨h0, h1, h2, eD, eA, eB, eLook, eMode⟩ := fieldsL0 57 d.val a.val b.val look.val 0 g (by omega) (by omega) (by omega) (by omega) (by omega) (by omega)
    rw [raw1_57 h0 h1]; unfold decode1_57; rw [h2, finOf_eq eLook, finOf_eq eD, finOf_eq eA, finOf_eq eB, eMode]; rfl
  · have f0 := g.code_lt
    have f1 := look.isLt
    have f2 := d.isLt
    have f3 := a.isLt
    have f4 := b.isLt
    refine of_raw (2 ^ 30 + wordL 57 d.val a.val b.val look.val 0 g.code) rfl (by unfold wordL; omega) (show 0 < 2 ^ 32 by omega) (fun _ => ?_)
    change decodeRaw _ 0 = _
    have := look.isLt
    have := d.isLt
    have := a.isLt
    have := b.isLt
    obtain ⟨h0, h1, h2, eD, eA, eB, eLook, eMode⟩ := fieldsL1 57 d.val a.val b.val look.val 0 g (by omega) (by omega) (by omega) (by omega) (by omega) (by omega)
    rw [raw2_57 h0 h1]; unfold decode2_57; rw [h2, finOf_eq eLook, finOf_eq eD, finOf_eq eA, finOf_eq eB, eMode]; rfl

theorem takeWake (tid : Nat) : Statement (.takeWake tid) := of_event rfl

theorem heapMaxRefresh (launch : Nat) : Statement (.heapMaxRefresh launch) := of_event rfl

theorem heapSteal (tid : Nat) : Statement (.heapSteal tid) := of_event rfl

theorem lexld (g : Guard) (a : GReg) (b : GReg) : Statement (.lexld g a b) := by
  have f0 := g.code_lt
  have f1 := a.isLt
  have f2 := b.isLt
  refine of_raw (wordR 58 0 a.val b.val 0 g.code) rfl (by unfold wordR; omega) (show 0 < 2 ^ 32 by omega) (fun _ => ?_)
  have := a.isLt
  have := b.isLt
  obtain ⟨h0, h1, h2, eD, eA, eB, eFn⟩ := fieldsR0 58 0 a.val b.val 0 g (by omega) (by omega) (by omega) (by omega) (by omega)
  rw [raw1_58 h0 h1]; unfold decode1_58; rw [h2, finOf_eq eA, finOf_eq eB, eFn, eD]; rfl

theorem mldb (g : Guard) (a : GReg) (b : GReg) : Statement (.mldb g a b) := by
  have f0 := g.code_lt
  have f1 := a.isLt
  have f2 := b.isLt
  refine of_raw (wordR 58 0 a.val b.val 1 g.code) rfl (by unfold wordR; omega) (show 0 < 2 ^ 32 by omega) (fun _ => ?_)
  have := a.isLt
  have := b.isLt
  obtain ⟨h0, h1, h2, eD, eA, eB, eFn⟩ := fieldsR0 58 0 a.val b.val 1 g (by omega) (by omega) (by omega) (by omega) (by omega)
  rw [raw1_58 h0 h1]; unfold decode1_58; rw [h2, finOf_eq eA, finOf_eq eB, eFn, eD]; rfl

theorem macc (g : Guard) (a : GReg) (b : GReg) : Statement (.macc g a b) := by
  have f0 := g.code_lt
  have f1 := a.isLt
  have f2 := b.isLt
  refine of_raw (wordR 58 0 a.val b.val 2 g.code) rfl (by unfold wordR; omega) (show 0 < 2 ^ 32 by omega) (fun _ => ?_)
  have := a.isLt
  have := b.isLt
  obtain ⟨h0, h1, h2, eD, eA, eB, eFn⟩ := fieldsR0 58 0 a.val b.val 2 g (by omega) (by omega) (by omega) (by omega) (by omega)
  rw [raw1_58 h0 h1]; unfold decode1_58; rw [h2, finOf_eq eA, finOf_eq eB, eFn, eD]; rfl

theorem mrd (g : Guard) (d : GReg) (a : GReg) : Statement (.mrd g d a) := by
  have f0 := g.code_lt
  have f1 := d.isLt
  have f2 := a.isLt
  refine of_raw (wordR 58 d.val a.val 0 3 g.code) rfl (by unfold wordR; omega) (show 0 < 2 ^ 32 by omega) (fun _ => ?_)
  have := d.isLt
  have := a.isLt
  obtain ⟨h0, h1, h2, eD, eA, eB, eFn⟩ := fieldsR0 58 d.val a.val 0 3 g (by omega) (by omega) (by omega) (by omega) (by omega)
  rw [raw1_58 h0 h1]; unfold decode1_58; rw [h2, finOf_eq eD, finOf_eq eA, eFn, eB]; rfl

theorem infl (g : Guard) (a : GReg) (b : GReg) : Statement (.infl g a b) := by
  have f0 := g.code_lt
  have f1 := a.isLt
  have f2 := b.isLt
  refine of_raw (wordR 58 0 a.val b.val 4 g.code) rfl (by unfold wordR; omega) (show 0 < 2 ^ 32 by omega) (fun _ => ?_)
  have := a.isLt
  have := b.isLt
  obtain ⟨h0, h1, h2, eD, eA, eB, eFn⟩ := fieldsR0 58 0 a.val b.val 4 g (by omega) (by omega) (by omega) (by omega) (by omega)
  rw [raw1_58 h0 h1]; unfold decode1_58; rw [h2, finOf_eq eA, finOf_eq eB, eFn, eD]; rfl

theorem mwait (g : Guard) (a : GReg) : Statement (.mwait g a) := by
  have f0 := g.code_lt
  have f1 := a.isLt
  refine of_raw (wordR 58 0 a.val 0 5 g.code) rfl (by unfold wordR; omega) (show 0 < 2 ^ 32 by omega) (fun _ => ?_)
  have := a.isLt
  obtain ⟨h0, h1, h2, eD, eA, eB, eFn⟩ := fieldsR0 58 0 a.val 0 5 g (by omega) (by omega) (by omega) (by omega) (by omega)
  rw [raw1_58 h0 h1]; unfold decode1_58; rw [h2, finOf_eq eA, eFn, eD, eB]; rfl

theorem mwaitSatisfied (tid : Nat) : Statement (.mwaitSatisfied tid) := of_event rfl

theorem mma (g : Guard) (look : Fin 16) (d : GReg) (a : GReg) (b : GReg) : Statement (.mma g look d a b) := by
  have f0 := g.code_lt
  have f1 := look.isLt
  have f2 := d.isLt
  have f3 := a.isLt
  have f4 := b.isLt
  refine of_raw (wordL 59 d.val a.val b.val look.val 0 g.code) rfl (by unfold wordL; omega) (show 0 < 2 ^ 32 by omega) (fun _ => ?_)
  have := look.isLt
  have := d.isLt
  have := a.isLt
  have := b.isLt
  obtain ⟨h0, h1, h2, eD, eA, eB, eLook, eMode⟩ := fieldsL0 59 d.val a.val b.val look.val 0 g (by omega) (by omega) (by omega) (by omega) (by omega) (by omega)
  rw [raw1_59 h0 h1]; unfold decode1_59; rw [h2, finOf_eq eLook, finOf_eq eD, finOf_eq eA, finOf_eq eB, eMode]; rfl

theorem mgath (g : Guard) (look : Fin 16) (d : GReg) (a : GReg) (b : GReg) : Statement (.mgath g look d a b) := by
  have f0 := g.code_lt
  have f1 := look.isLt
  have f2 := d.isLt
  have f3 := a.isLt
  have f4 := b.isLt
  refine of_raw (wordL 59 d.val a.val b.val look.val 1 g.code) rfl (by unfold wordL; omega) (show 0 < 2 ^ 32 by omega) (fun _ => ?_)
  have := look.isLt
  have := d.isLt
  have := a.isLt
  have := b.isLt
  obtain ⟨h0, h1, h2, eD, eA, eB, eLook, eMode⟩ := fieldsL0 59 d.val a.val b.val look.val 1 g (by omega) (by omega) (by omega) (by omega) (by omega) (by omega)
  rw [raw1_59 h0 h1]; unfold decode1_59; rw [h2, finOf_eq eLook, finOf_eq eD, finOf_eq eA, finOf_eq eB, eMode]; rfl

theorem affixI (t : Fin 64) (f : Fin 64) (x : BitVec 16) : Statement (.affixI t f x) := by
  have f0 := t.isLt
  have f1 := f.isLt
  have f2 := x.isLt
  refine of_raw (wordA t.val f.val 0 x.toNat) rfl (by unfold wordA; omega) (show 0 < 2 ^ 32 by omega) (fun _ => ?_)
  change decodeRaw _ 0 = _
  obtain ⟨h0, h1, h2, h3, h4⟩ := fieldsA t.val f.val 0 x t.isLt f.isLt (by omega)
  generalize (wordA t.val f.val 0 x.toNat) = w at *
  rw [rawA h0]; unfold decodeAffix; rw [h1, finOf_eq h2, finOf_eq h3, h4]; rfl

theorem affixK (t : Fin 64) (f : Fin 64) (x : BitVec 16) : Statement (.affixK t f x) := by
  have f0 := t.isLt
  have f1 := f.isLt
  have f2 := x.isLt
  refine of_raw (wordA t.val f.val 1 x.toNat) rfl (by unfold wordA; omega) (show 0 < 2 ^ 32 by omega) (fun _ => ?_)
  change decodeRaw _ 0 = _
  obtain ⟨h0, h1, h2, h3, h4⟩ := fieldsA t.val f.val 1 x t.isLt f.isLt (by omega)
  generalize (wordA t.val f.val 1 x.toNat) = w at *
  rw [rawA h0]; unfold decodeAffix; rw [h1, finOf_eq h2, finOf_eq h3, h4]; rfl

theorem affixS (t : Fin 64) (f : Fin 64) (x : BitVec 16) : Statement (.affixS t f x) := by
  have f0 := t.isLt
  have f1 := f.isLt
  have f2 := x.isLt
  refine of_raw (wordA t.val f.val 2 x.toNat) rfl (by unfold wordA; omega) (show 0 < 2 ^ 32 by omega) (fun _ => ?_)
  change decodeRaw _ 0 = _
  obtain ⟨h0, h1, h2, h3, h4⟩ := fieldsA t.val f.val 2 x t.isLt f.isLt (by omega)
  generalize (wordA t.val f.val 2 x.toNat) = w at *
  rw [rawA h0]; unfold decodeAffix; rw [h1, finOf_eq h2, finOf_eq h3, h4]; rfl

theorem matrixEntryStart (core : Nat) (idx : Nat) : Statement (.matrixEntryStart core idx) := of_event rfl

theorem matrixEntryComplete (core : Nat) (idx : Nat) : Statement (.matrixEntryComplete core idx) := of_event rfl

theorem matrixEntryFault (core : Nat) (row : Nat) (addr : Nat) : Statement (.matrixEntryFault core row addr) := of_event rfl

theorem mfs (g : Guard) (d : GReg) (r : BitVec 10) : Statement (.mfs g d r) := by
  have f0 := g.code_lt
  have f1 := d.isLt
  have f2 := r.isLt
  refine of_raw (wordI 60 d.val 0 r.toNat g.code) rfl (by unfold wordI; omega) (show 0 < 2 ^ 32 by omega) (fun _ => ?_)
  have := d.isLt
  have := r.isLt
  obtain ⟨h0, h1, h2, eD, eA, eImm⟩ := fieldsI0 60 d.val 0 r.toNat g (by omega) (by omega) (by omega) (by omega)
  rw [raw1_60 h0 h1]; unfold decode1_60; rw [h2, finOf_eq eD, ofNat_eq eImm, eA]; rfl

theorem mts (g : Guard) (a : GReg) (r : BitVec 10) : Statement (.mts g a r) := by
  have f0 := g.code_lt
  have f1 := a.isLt
  have f2 := r.isLt
  refine of_raw (wordI 61 0 a.val r.toNat g.code) rfl (by unfold wordI; omega) (show 0 < 2 ^ 32 by omega) (fun hwf => ?_)
  have hr := r.isLt
  obtain ⟨h0, h1, h2, eD, eA, eImm⟩ := fieldsI0 61 0 a.val r.toNat g (by omega) (by omega) a.isLt (by omega)
  have hp : mtsPlain r.toNat = true := by
    have := hwf
    simp only [Instr.wf, Bool.and_eq_true] at this
    exact this.2
  simp only [mtsPlain, sysRegAssigned, Bool.and_eq_true, Bool.not_eq_true', Bool.or_eq_false_iff, Bool.and_eq_false_iff, beq_eq_false_iff_ne,
    decide_eq_false_iff_not, Nat.not_le] at hp
  rw [raw1_61 h0 h1]; unfold decode1_61; rw [h2, eD, finOf_eq eA, ofNat_eq eImm, eImm]
  repeat rw [if_neg (by omega)]
  rfl

theorem pubSlotWrite (g : Guard) (n : Fin 4) (a : GReg) : Statement (.pubSlotWrite g n a) := by
  have f0 := g.code_lt
  have f1 := n.isLt
  have f2 := a.isLt
  refine of_raw (wordI 61 0 a.val (28 + n.val) g.code) rfl (by unfold wordI; omega) (show 0 < 2 ^ 32 by omega) (fun _ => ?_)
  have hn := n.isLt
  obtain ⟨h0, h1, h2, eD, eA, eImm⟩ := fieldsI0 61 0 a.val (28 + n.val) g (by omega) (by omega) a.isLt (by omega)
  have x1 : fImm (wordI 61 0 a.val (28 + n.val) g.code) - 28 = n.val := by omega
  rw [raw1_61 h0 h1]; unfold decode1_61; rw [h2, eD, finOf_eq eA, finOf_eq x1, eImm]
  repeat first | rw [if_pos (by omega)] | rw [if_neg (by omega)]
  rfl

theorem accrWrite (g : Guard) (a : GReg) : Statement (.accrWrite g a) := by
  have f0 := g.code_lt
  have f1 := a.isLt
  refine of_raw (wordI 61 0 a.val 12 g.code) rfl (by unfold wordI; omega) (show 0 < 2 ^ 32 by omega) (fun _ => ?_)
  obtain ⟨h0, h1, h2, eD, eA, eImm⟩ := fieldsI0 61 0 a.val 12 g (by omega) (by omega) a.isLt (by omega)
  rw [raw1_61 h0 h1]; unfold decode1_61; rw [h2, eD, finOf_eq eA, eImm]
  repeat first | rw [if_pos (by omega)] | rw [if_neg (by omega)]
  rfl

theorem icinvWrite (g : Guard) (a : GReg) : Statement (.icinvWrite g a) := by
  have f0 := g.code_lt
  have f1 := a.isLt
  refine of_raw (wordI 61 0 a.val 69 g.code) rfl (by unfold wordI; omega) (show 0 < 2 ^ 32 by omega) (fun _ => ?_)
  obtain ⟨h0, h1, h2, eD, eA, eImm⟩ := fieldsI0 61 0 a.val 69 g (by omega) (by omega) a.isLt (by omega)
  rw [raw1_61 h0 h1]; unfold decode1_61; rw [h2, eD, finOf_eq eA, eImm]
  repeat first | rw [if_pos (by omega)] | rw [if_neg (by omega)]
  rfl

theorem asgpartWrite (g : Guard) (a : GReg) : Statement (.asgpartWrite g a) := by
  have f0 := g.code_lt
  have f1 := a.isLt
  refine of_raw (wordI 61 0 a.val 84 g.code) rfl (by unfold wordI; omega) (show 0 < 2 ^ 32 by omega) (fun _ => ?_)
  obtain ⟨h0, h1, h2, eD, eA, eImm⟩ := fieldsI0 61 0 a.val 84 g (by omega) (by omega) a.isLt (by omega)
  rw [raw1_61 h0 h1]; unfold decode1_61; rw [h2, eD, finOf_eq eA, eImm]
  repeat first | rw [if_pos (by omega)] | rw [if_neg (by omega)]
  rfl

theorem haltselRun (module : Nat) (part : Nat) : Statement (.haltselRun module part) := of_event rfl

theorem trap (g : Guard) (b : Fin 32) : Statement (.trap g b) := by
  have f0 := g.code_lt
  have f1 := b.isLt
  refine of_raw (wordR 62 0 0 b.val 0 g.code) rfl (by unfold wordR; omega) (show 0 < 2 ^ 32 by omega) (fun _ => ?_)
  have := b.isLt
  obtain ⟨h0, h1, h2, eD, eA, eB, eFn⟩ := fieldsR0 62 0 0 b.val 0 g (by omega) (by omega) (by omega) (by omega) (by omega)
  rw [raw1_62 h0 h1]; unfold decode1_62; rw [h2, finOf_eq eB, eFn, eD, eA]; rfl

theorem rett (g : Guard) : Statement (.rett g) := by
  have f0 := g.code_lt
  refine of_raw (wordR 62 0 0 0 1 g.code) rfl (by unfold wordR; omega) (show 0 < 2 ^ 32 by omega) (fun _ => ?_)
  obtain ⟨h0, h1, h2, eD, eA, eB, eFn⟩ := fieldsR0 62 0 0 0 1 g (by omega) (by omega) (by omega) (by omega) (by omega)
  rw [raw1_62 h0 h1]; unfold decode1_62; rw [h2, eFn, eD, eA, eB]; rfl

theorem halt (g : Guard) : Statement (.halt g) := by
  have f0 := g.code_lt
  refine of_raw (wordR 62 0 0 0 2 g.code) rfl (by unfold wordR; omega) (show 0 < 2 ^ 32 by omega) (fun _ => ?_)
  obtain ⟨h0, h1, h2, eD, eA, eB, eFn⟩ := fieldsR0 62 0 0 0 2 g (by omega) (by omega) (by omega) (by omega) (by omega)
  rw [raw1_62 h0 h1]; unfold decode1_62; rw [h2, eFn, eD, eA, eB]; rfl

theorem haltRecords (module : Nat) (part : Nat) (cause : Nat) : Statement (.haltRecords module part cause) := of_event rfl

theorem ctxsvStop (g : Guard) (a : GReg) : Statement (.ctxsvStop g a) := by
  have f0 := g.code_lt
  have f1 := a.isLt
  refine of_raw (wordR 62 0 a.val 0 3 g.code) rfl (by unfold wordR; omega) (show 0 < 2 ^ 32 by omega) (fun _ => ?_)
  have := a.isLt
  obtain ⟨h0, h1, h2, eD, eA, eB, eFn⟩ := fieldsR0 62 0 a.val 0 3 g (by omega) (by omega) (by omega) (by omega) (by omega)
  rw [raw1_62 h0 h1]; unfold decode1_62; rw [h2, finOf_eq eA, eFn, eD, eB]; rfl

theorem ctxsvSave (tid : Nat) : Statement (.ctxsvSave tid) := of_event rfl

theorem ctxsvDiscard (tid : Nat) : Statement (.ctxsvDiscard tid) := of_event rfl

theorem ctxldLoad (g : Guard) (a : GReg) : Statement (.ctxldLoad g a) := by
  have f0 := g.code_lt
  have f1 := a.isLt
  refine of_raw (wordR 62 0 a.val 0 4 g.code) rfl (by unfold wordR; omega) (show 0 < 2 ^ 32 by omega) (fun _ => ?_)
  have := a.isLt
  obtain ⟨h0, h1, h2, eD, eA, eB, eFn⟩ := fieldsR0 62 0 a.val 0 4 g (by omega) (by omega) (by omega) (by omega) (by omega)
  rw [raw1_62 h0 h1]; unfold decode1_62; rw [h2, finOf_eq eA, eFn, eD, eB]; rfl

theorem ctxldStart (tid : Nat) : Statement (.ctxldStart tid) := of_event rfl

theorem ctxldLoadStart (tid : Nat) : Statement (.ctxldLoadStart tid) := of_event rfl

theorem brk (g : Guard) : Statement (.brk g) := by
  have f0 := g.code_lt
  refine of_raw (wordR 62 0 0 0 5 g.code) rfl (by unfold wordR; omega) (show 0 < 2 ^ 32 by omega) (fun _ => ?_)
  obtain ⟨h0, h1, h2, eD, eA, eB, eFn⟩ := fieldsR0 62 0 0 0 5 g (by omega) (by omega) (by omega) (by omega) (by omega)
  rw [raw1_62 h0 h1]; unfold decode1_62; rw [h2, eFn, eD, eA, eB]; rfl

theorem timens (g : Guard) (d : GReg) : Statement (.timens g d) := by
  have f0 := g.code_lt
  have f1 := d.isLt
  refine of_raw (wordR 62 d.val 0 0 6 g.code) rfl (by unfold wordR; omega) (show 0 < 2 ^ 32 by omega) (fun _ => ?_)
  have := d.isLt
  obtain ⟨h0, h1, h2, eD, eA, eB, eFn⟩ := fieldsR0 62 d.val 0 0 6 g (by omega) (by omega) (by omega) (by omega) (by omega)
  rw [raw1_62 h0 h1]; unfold decode1_62; rw [h2, finOf_eq eD, eFn, eA, eB]; rfl

theorem sleep (g : Guard) (a : GReg) : Statement (.sleep g a) := by
  have f0 := g.code_lt
  have f1 := a.isLt
  refine of_raw (wordR 62 0 a.val 0 7 g.code) rfl (by unfold wordR; omega) (show 0 < 2 ^ 32 by omega) (fun _ => ?_)
  have := a.isLt
  obtain ⟨h0, h1, h2, eD, eA, eB, eFn⟩ := fieldsR0 62 0 a.val 0 7 g (by omega) (by omega) (by omega) (by omega) (by omega)
  rw [raw1_62 h0 h1]; unfold decode1_62; rw [h2, finOf_eq eA, eFn, eD, eB]; rfl

theorem sleepm (g : Guard) (a : GReg) : Statement (.sleepm g a) := by
  have f0 := g.code_lt
  have f1 := a.isLt
  refine of_raw (wordR 62 0 a.val 0 8 g.code) rfl (by unfold wordR; omega) (show 0 < 2 ^ 32 by omega) (fun _ => ?_)
  have := a.isLt
  obtain ⟨h0, h1, h2, eD, eA, eB, eFn⟩ := fieldsR0 62 0 a.val 0 8 g (by omega) (by omega) (by omega) (by omega) (by omega)
  rw [raw1_62 h0 h1]; unfold decode1_62; rw [h2, finOf_eq eA, eFn, eD, eB]; rfl

theorem sleepWake (tid : Nat) : Statement (.sleepWake tid) := of_event rfl

theorem perf (g : Guard) (d : GReg) (a : GReg) : Statement (.perf g d a) := by
  have f0 := g.code_lt
  have f1 := d.isLt
  have f2 := a.isLt
  refine of_raw (wordR 62 d.val a.val 0 9 g.code) rfl (by unfold wordR; omega) (show 0 < 2 ^ 32 by omega) (fun _ => ?_)
  have := d.isLt
  have := a.isLt
  obtain ⟨h0, h1, h2, eD, eA, eB, eFn⟩ := fieldsR0 62 d.val a.val 0 9 g (by omega) (by omega) (by omega) (by omega) (by omega)
  rw [raw1_62 h0 h1]; unfold decode1_62; rw [h2, finOf_eq eD, finOf_eq eA, eFn, eB]; rfl

theorem trace (g : Guard) (a : GReg) : Statement (.trace g a) := by
  have f0 := g.code_lt
  have f1 := a.isLt
  refine of_raw (wordR 62 0 a.val 0 10 g.code) rfl (by unfold wordR; omega) (show 0 < 2 ^ 32 by omega) (fun _ => ?_)
  have := a.isLt
  obtain ⟨h0, h1, h2, eD, eA, eB, eFn⟩ := fieldsR0 62 0 a.val 0 10 g (by omega) (by omega) (by omega) (by omega) (by omega)
  rw [raw1_62 h0 h1]; unfold decode1_62; rw [h2, finOf_eq eA, eFn, eD, eB]; rfl

theorem trapEntry (tid : Nat) : Statement (.trapEntry tid) := of_event rfl

theorem watchdogExpiry (tid : Nat) : Statement (.watchdogExpiry tid) := of_event rfl

theorem hqtailWrite (die : Nat) (q : Nat) (val : Nat) : Statement (.hqtailWrite die q val) := of_event rfl

theorem launchAdmission (die : Nat) (q : Nat) : Statement (.launchAdmission die q) := of_event rfl

theorem launchForward (die : Nat) (launch : Nat) : Statement (.launchForward die launch) := of_event rfl

theorem waitCounterPoll (die : Nat) (q : Nat) : Statement (.waitCounterPoll die q) := of_event rfl

theorem teamStart (launch : Nat) : Statement (.teamStart launch) := of_event rfl

theorem launchComplete (launch : Nat) : Statement (.launchComplete launch) := of_event rfl

theorem powerGood (module : Nat) : Statement (.powerGood module) := of_event rfl

theorem clocksStarted (module : Nat) : Statement (.clocksStarted module) := of_event rfl

theorem romImageVerify (module : Nat) : Statement (.romImageVerify module) := of_event rfl

theorem trainComplete (module : Nat) (ok : Bool) : Statement (.trainComplete module ok) := of_event rfl

theorem mreset (module : Nat) : Statement (.mreset module) := of_event rfl

theorem haltreq (module : Nat) : Statement (.haltreq module) := of_event rfl

theorem mgmtRegisterWrite (module : Nat) (off : Nat) (size : Nat) (write : Bool) (val : Nat) : Statement (.mgmtRegisterWrite module off size write val) := of_event rfl

theorem mgmtControlPacket (module : Nat) (bridge : Nat) (off : Nat) (size : Nat) (write : Bool) (val : Nat) : Statement (.mgmtControlPacket module bridge off size write val) := of_event rfl

theorem hostBar2Access (module : Nat) (off : Nat) (write : Bool) (bytes : List (BitVec 8)) : Statement (.hostBar2Access module off write bytes) := of_event rfl

theorem ident (module : Nat) : Statement (.ident module) := of_event rfl

theorem attest (module : Nat) : Statement (.attest module) := of_event rfl

theorem fwload (module : Nat) : Statement (.fwload module) := of_event rfl

theorem fwcommit (module : Nat) : Statement (.fwcommit module) := of_event rfl

theorem timesetWrite (module : Nat) (val : Nat) : Statement (.timesetWrite module val) := of_event rfl

theorem ptpFrame (module : Nat) (gm : Nat) : Statement (.ptpFrame module gm) := of_event rfl

theorem lockLoss (module : Nat) : Statement (.lockLoss module) := of_event rfl

theorem droopDetect (die : Nat) : Statement (.droopDetect die) := of_event rfl

theorem droopRecover (die : Nat) (cycles : Nat) (ns : Nat) : Statement (.droopRecover die cycles ns) := of_event rfl

theorem powerWindow (module : Nat) (watts : Nat) : Statement (.powerWindow module watts) := of_event rfl

theorem thermalThrottle (module : Nat) (temp : Nat) : Statement (.thermalThrottle module temp) := of_event rfl

theorem thermalTrip (module : Nat) (temp : Nat) : Statement (.thermalTrip module temp) := of_event rfl

theorem reservedEncoding : Statement (.reservedEncoding) := of_event rfl

theorem powerLoss (module : Nat) : Statement (.powerLoss module) := of_event rfl

theorem mailboxBadOperation (module : Nat) : Statement (.mailboxBadOperation module) := of_event rfl

theorem pcieLinkTraining (module : Nat) (width : Nat) (rate : Nat) : Statement (.pcieLinkTraining module width rate) := of_event rfl

end Laws.RoundTrip

end Sys2Proof
end

