-- ==== Sys2Proof/Laws/State.lean ====
section
/-!
SUPPORT. Sys2Proof/Laws/State.lean: what each update of the state leaves of each field, and how the tables read after a change.
-/
namespace Sys2Proof.Machine

/-! ## Tables -/

@[simp] theorem Tbl.getD_put {α : Type} (k j : Nat) (x dflt : α) : ∀ t : Tbl α,
    Tbl.getD (Tbl.put t k x) j dflt = if j = k then x else Tbl.getD t j dflt
  | [] => by
    simp only [Tbl.put, Tbl.getD]
    by_cases h : j = k
    · simp [h]
    · rw [if_neg h, if_neg (fun e => h e.symm)]
  | (i, y) :: t => by
    have ih := Tbl.getD_put k j x dflt t
    simp only [Tbl.put]
    split
    · rename_i h
      simp only [Tbl.getD]
      by_cases hj : j = k
      · simp [hj]
      · rw [if_neg (fun e => hj e.symm), if_neg hj, if_neg (by omega)]
    · split
      · simp only [Tbl.getD]
        by_cases hj : j = k
        · simp [hj]
        · rw [if_neg (fun e => hj e.symm), if_neg hj]
      · simp only [Tbl.getD]
        by_cases hi : i = j
        · rw [if_pos hi, if_neg (by omega), if_pos hi]
        · rw [if_neg hi, ih, if_neg hi]

@[simp] theorem Tbl.get?_put {α : Type} (k j : Nat) (x : α) : ∀ t : Tbl α,
    Tbl.get? (Tbl.put t k x) j = if j = k then some x else Tbl.get? t j
  | [] => by
    simp only [Tbl.put, Tbl.get?]
    by_cases h : j = k
    · simp [h]
    · rw [if_neg h, if_neg (fun e => h e.symm)]
  | (i, y) :: t => by
    have ih := Tbl.get?_put k j x t
    simp only [Tbl.put]
    split
    · rename_i h
      simp only [Tbl.get?]
      by_cases hj : j = k
      · simp [hj]
      · rw [if_neg (fun e => hj e.symm), if_neg hj, if_neg (by omega)]
    · split
      · simp only [Tbl.get?]
        by_cases hj : j = k
        · simp [hj]
        · rw [if_neg (fun e => hj e.symm), if_neg hj]
      · simp only [Tbl.get?]
        by_cases hi : i = j
        · rw [if_pos hi, if_neg (by omega), if_pos hi]
        · rw [if_neg hi, ih, if_neg hi]

/-! ## The parts of the state -/

@[simp] theorem setThread_agenda (s : State) (tid : Nat) (x : Thread) : (s.setThread tid x).agenda = s.agenda := rfl
@[simp] theorem modThread_agenda (s : State) (tid : Nat) (h : Thread → Thread) : (s.modThread tid h).agenda = s.agenda := rfl
@[simp] theorem setThread_sched (s : State) (tid : Nat) (x : Thread) : (s.setThread tid x).sched = s.sched := rfl
@[simp] theorem modThread_sched (s : State) (tid : Nat) (h : Thread → Thread) : (s.modThread tid h).sched = s.sched := rfl
@[simp] theorem setThread_holdStores (s : State) (tid : Nat) (x : Thread) : (s.setThread tid x).holdStores = s.holdStores := rfl
@[simp] theorem modThread_holdStores (s : State) (tid : Nat) (h : Thread → Thread) : (s.modThread tid h).holdStores = s.holdStores := rfl
@[simp] theorem setThread_grain (s : State) (tid : Nat) (x : Thread) : (s.setThread tid x).grain = s.grain := rfl
@[simp] theorem modThread_grain (s : State) (tid : Nat) (h : Thread → Thread) : (s.modThread tid h).grain = s.grain := rfl
@[simp] theorem setThread_cur (s : State) (tid : Nat) (x : Thread) : (s.setThread tid x).cur = s.cur := rfl
@[simp] theorem modThread_cur (s : State) (tid : Nat) (h : Thread → Thread) : (s.modThread tid h).cur = s.cur := rfl
@[simp] theorem setThread_bundle (s : State) (tid : Nat) (x : Thread) : (s.setThread tid x).bundle = s.bundle := rfl
@[simp] theorem modThread_bundle (s : State) (tid : Nat) (h : Thread → Thread) : (s.modThread tid h).bundle = s.bundle := rfl
@[simp] theorem setThread_nextId (s : State) (tid : Nat) (x : Thread) : (s.setThread tid x).nextId = s.nextId := rfl
@[simp] theorem modThread_nextId (s : State) (tid : Nat) (h : Thread → Thread) : (s.modThread tid h).nextId = s.nextId := rfl
@[simp] theorem setThread_tick (s : State) (tid : Nat) (x : Thread) : (s.setThread tid x).tick = s.tick := rfl
@[simp] theorem modThread_tick (s : State) (tid : Nat) (h : Thread → Thread) : (s.modThread tid h).tick = s.tick := rfl
@[simp] theorem setThread_dt (s : State) (tid : Nat) (x : Thread) : (s.setThread tid x).dt = s.dt := rfl
@[simp] theorem modThread_dt (s : State) (tid : Nat) (h : Thread → Thread) : (s.modThread tid h).dt = s.dt := rfl
@[simp] theorem setThread_stretch (s : State) (tid : Nat) (x : Thread) : (s.setThread tid x).stretch = s.stretch := rfl
@[simp] theorem modThread_stretch (s : State) (tid : Nat) (h : Thread → Thread) : (s.modThread tid h).stretch = s.stretch := rfl
@[simp] theorem setThread_free (s : State) (tid : Nat) (x : Thread) : (s.setThread tid x).free = s.free := rfl
@[simp] theorem modThread_free (s : State) (tid : Nat) (h : Thread → Thread) : (s.modThread tid h).free = s.free := rfl
@[simp] theorem setThread_mem (s : State) (tid : Nat) (x : Thread) : (s.setThread tid x).mem = s.mem := rfl
@[simp] theorem modThread_mem (s : State) (tid : Nat) (h : Thread → Thread) : (s.modThread tid h).mem = s.mem := rfl
@[simp] theorem setThread_cores (s : State) (tid : Nat) (x : Thread) : (s.setThread tid x).cores = s.cores := rfl
@[simp] theorem modThread_cores (s : State) (tid : Nat) (h : Thread → Thread) : (s.modThread tid h).cores = s.cores := rfl
@[simp] theorem setThread_quads (s : State) (tid : Nat) (x : Thread) : (s.setThread tid x).quads = s.quads := rfl
@[simp] theorem modThread_quads (s : State) (tid : Nat) (h : Thread → Thread) : (s.modThread tid h).quads = s.quads := rfl
@[simp] theorem setThread_dies (s : State) (tid : Nat) (x : Thread) : (s.setThread tid x).dies = s.dies := rfl
@[simp] theorem modThread_dies (s : State) (tid : Nat) (h : Thread → Thread) : (s.modThread tid h).dies = s.dies := rfl
@[simp] theorem setThread_modules (s : State) (tid : Nat) (x : Thread) : (s.setThread tid x).modules = s.modules := rfl
@[simp] theorem modThread_modules (s : State) (tid : Nat) (h : Thread → Thread) : (s.modThread tid h).modules = s.modules := rfl
@[simp] theorem setThread_links (s : State) (tid : Nat) (x : Thread) : (s.setThread tid x).links = s.links := rfl
@[simp] theorem modThread_links (s : State) (tid : Nat) (h : Thread → Thread) : (s.modThread tid h).links = s.links := rfl
@[simp] theorem setThread_launches (s : State) (tid : Nat) (x : Thread) : (s.setThread tid x).launches = s.launches := rfl
@[simp] theorem modThread_launches (s : State) (tid : Nat) (h : Thread → Thread) : (s.modThread tid h).launches = s.launches := rfl
@[simp] theorem setThread_heaps (s : State) (tid : Nat) (x : Thread) : (s.setThread tid x).heaps = s.heaps := rfl
@[simp] theorem modThread_heaps (s : State) (tid : Nat) (h : Thread → Thread) : (s.modThread tid h).heaps = s.heaps := rfl
@[simp] theorem setThread_podObjs (s : State) (tid : Nat) (x : Thread) : (s.setThread tid x).podObjs = s.podObjs := rfl
@[simp] theorem modThread_podObjs (s : State) (tid : Nat) (h : Thread → Thread) : (s.modThread tid h).podObjs = s.podObjs := rfl
@[simp] theorem setThread_reqs (s : State) (tid : Nat) (x : Thread) : (s.setThread tid x).reqs = s.reqs := rfl
@[simp] theorem modThread_reqs (s : State) (tid : Nat) (h : Thread → Thread) : (s.modThread tid h).reqs = s.reqs := rfl
@[simp] theorem setThread_lookups (s : State) (tid : Nat) (x : Thread) : (s.setThread tid x).lookups = s.lookups := rfl
@[simp] theorem modThread_lookups (s : State) (tid : Nat) (h : Thread → Thread) : (s.modThread tid h).lookups = s.lookups := rfl
@[simp] theorem setThread_elisions (s : State) (tid : Nat) (x : Thread) : (s.setThread tid x).elisions = s.elisions := rfl
@[simp] theorem modThread_elisions (s : State) (tid : Nat) (h : Thread → Thread) : (s.modThread tid h).elisions = s.elisions := rfl
@[simp] theorem setThread_walks (s : State) (tid : Nat) (x : Thread) : (s.setThread tid x).walks = s.walks := rfl
@[simp] theorem modThread_walks (s : State) (tid : Nat) (h : Thread → Thread) : (s.modThread tid h).walks = s.walks := rfl
@[simp] theorem setThread_saved (s : State) (tid : Nat) (x : Thread) : (s.setThread tid x).saved = s.saved := rfl
@[simp] theorem modThread_saved (s : State) (tid : Nat) (h : Thread → Thread) : (s.modThread tid h).saved = s.saved := rfl
@[simp] theorem setThread_toHost (s : State) (tid : Nat) (x : Thread) : (s.setThread tid x).toHost = s.toHost := rfl
@[simp] theorem modThread_toHost (s : State) (tid : Nat) (h : Thread → Thread) : (s.modThread tid h).toHost = s.toHost := rfl
@[simp] theorem setThread_thread (s : State) (tid k : Nat) (x : Thread) :
    (s.setThread tid x).thread k = if k = tid then x else s.thread k := Tbl.getD_put ..
@[simp] theorem modThread_thread (s : State) (tid k : Nat) (h : Thread → Thread) :
    (s.modThread tid h).thread k = if k = tid then h (s.thread tid) else s.thread k := Tbl.getD_put ..
@[simp] theorem setThread_core (s : State) (tid k : Nat) (x : Thread) : (s.setThread tid x).core k = s.core k := rfl
@[simp] theorem modThread_core (s : State) (tid k : Nat) (h : Thread → Thread) : (s.modThread tid h).core k = s.core k := rfl
@[simp] theorem setThread_quad (s : State) (tid k : Nat) (x : Thread) : (s.setThread tid x).quad k = s.quad k := rfl
@[simp] theorem modThread_quad (s : State) (tid k : Nat) (h : Thread → Thread) : (s.modThread tid h).quad k = s.quad k := rfl
@[simp] theorem setThread_die (s : State) (tid k : Nat) (x : Thread) : (s.setThread tid x).die k = s.die k := rfl
@[simp] theorem modThread_die (s : State) (tid k : Nat) (h : Thread → Thread) : (s.modThread tid h).die k = s.die k := rfl
@[simp] theorem setThread_module (s : State) (tid k : Nat) (x : Thread) : (s.setThread tid x).module k = s.module k := rfl
@[simp] theorem modThread_module (s : State) (tid k : Nat) (h : Thread → Thread) : (s.modThread tid h).module k = s.module k := rfl

@[simp] theorem setCore_agenda (s : State) (c : Nat) (x : Core) : (s.setCore c x).agenda = s.agenda := rfl
@[simp] theorem modCore_agenda (s : State) (c : Nat) (h : Core → Core) : (s.modCore c h).agenda = s.agenda := rfl
@[simp] theorem setCore_sched (s : State) (c : Nat) (x : Core) : (s.setCore c x).sched = s.sched := rfl
@[simp] theorem modCore_sched (s : State) (c : Nat) (h : Core → Core) : (s.modCore c h).sched = s.sched := rfl
@[simp] theorem setCore_holdStores (s : State) (c : Nat) (x : Core) : (s.setCore c x).holdStores = s.holdStores := rfl
@[simp] theorem modCore_holdStores (s : State) (c : Nat) (h : Core → Core) : (s.modCore c h).holdStores = s.holdStores := rfl
@[simp] theorem setCore_grain (s : State) (c : Nat) (x : Core) : (s.setCore c x).grain = s.grain := rfl
@[simp] theorem modCore_grain (s : State) (c : Nat) (h : Core → Core) : (s.modCore c h).grain = s.grain := rfl
@[simp] theorem setCore_cur (s : State) (c : Nat) (x : Core) : (s.setCore c x).cur = s.cur := rfl
@[simp] theorem modCore_cur (s : State) (c : Nat) (h : Core → Core) : (s.modCore c h).cur = s.cur := rfl
@[simp] theorem setCore_bundle (s : State) (c : Nat) (x : Core) : (s.setCore c x).bundle = s.bundle := rfl
@[simp] theorem modCore_bundle (s : State) (c : Nat) (h : Core → Core) : (s.modCore c h).bundle = s.bundle := rfl
@[simp] theorem setCore_nextId (s : State) (c : Nat) (x : Core) : (s.setCore c x).nextId = s.nextId := rfl
@[simp] theorem modCore_nextId (s : State) (c : Nat) (h : Core → Core) : (s.modCore c h).nextId = s.nextId := rfl
@[simp] theorem setCore_tick (s : State) (c : Nat) (x : Core) : (s.setCore c x).tick = s.tick := rfl
@[simp] theorem modCore_tick (s : State) (c : Nat) (h : Core → Core) : (s.modCore c h).tick = s.tick := rfl
@[simp] theorem setCore_dt (s : State) (c : Nat) (x : Core) : (s.setCore c x).dt = s.dt := rfl
@[simp] theorem modCore_dt (s : State) (c : Nat) (h : Core → Core) : (s.modCore c h).dt = s.dt := rfl
@[simp] theorem setCore_stretch (s : State) (c : Nat) (x : Core) : (s.setCore c x).stretch = s.stretch := rfl
@[simp] theorem modCore_stretch (s : State) (c : Nat) (h : Core → Core) : (s.modCore c h).stretch = s.stretch := rfl
@[simp] theorem setCore_free (s : State) (c : Nat) (x : Core) : (s.setCore c x).free = s.free := rfl
@[simp] theorem modCore_free (s : State) (c : Nat) (h : Core → Core) : (s.modCore c h).free = s.free := rfl
@[simp] theorem setCore_mem (s : State) (c : Nat) (x : Core) : (s.setCore c x).mem = s.mem := rfl
@[simp] theorem modCore_mem (s : State) (c : Nat) (h : Core → Core) : (s.modCore c h).mem = s.mem := rfl
@[simp] theorem setCore_threads (s : State) (c : Nat) (x : Core) : (s.setCore c x).threads = s.threads := rfl
@[simp] theorem modCore_threads (s : State) (c : Nat) (h : Core → Core) : (s.modCore c h).threads = s.threads := rfl
@[simp] theorem setCore_quads (s : State) (c : Nat) (x : Core) : (s.setCore c x).quads = s.quads := rfl
@[simp] theorem modCore_quads (s : State) (c : Nat) (h : Core → Core) : (s.modCore c h).quads = s.quads := rfl
@[simp] theorem setCore_dies (s : State) (c : Nat) (x : Core) : (s.setCore c x).dies = s.dies := rfl
@[simp] theorem modCore_dies (s : State) (c : Nat) (h : Core → Core) : (s.modCore c h).dies = s.dies := rfl
@[simp] theorem setCore_modules (s : State) (c : Nat) (x : Core) : (s.setCore c x).modules = s.modules := rfl
@[simp] theorem modCore_modules (s : State) (c : Nat) (h : Core → Core) : (s.modCore c h).modules = s.modules := rfl
@[simp] theorem setCore_links (s : State) (c : Nat) (x : Core) : (s.setCore c x).links = s.links := rfl
@[simp] theorem modCore_links (s : State) (c : Nat) (h : Core → Core) : (s.modCore c h).links = s.links := rfl
@[simp] theorem setCore_launches (s : State) (c : Nat) (x : Core) : (s.setCore c x).launches = s.launches := rfl
@[simp] theorem modCore_launches (s : State) (c : Nat) (h : Core → Core) : (s.modCore c h).launches = s.launches := rfl
@[simp] theorem setCore_heaps (s : State) (c : Nat) (x : Core) : (s.setCore c x).heaps = s.heaps := rfl
@[simp] theorem modCore_heaps (s : State) (c : Nat) (h : Core → Core) : (s.modCore c h).heaps = s.heaps := rfl
@[simp] theorem setCore_podObjs (s : State) (c : Nat) (x : Core) : (s.setCore c x).podObjs = s.podObjs := rfl
@[simp] theorem modCore_podObjs (s : State) (c : Nat) (h : Core → Core) : (s.modCore c h).podObjs = s.podObjs := rfl
@[simp] theorem setCore_reqs (s : State) (c : Nat) (x : Core) : (s.setCore c x).reqs = s.reqs := rfl
@[simp] theorem modCore_reqs (s : State) (c : Nat) (h : Core → Core) : (s.modCore c h).reqs = s.reqs := rfl
@[simp] theorem setCore_lookups (s : State) (c : Nat) (x : Core) : (s.setCore c x).lookups = s.lookups := rfl
@[simp] theorem modCore_lookups (s : State) (c : Nat) (h : Core → Core) : (s.modCore c h).lookups = s.lookups := rfl
@[simp] theorem setCore_elisions (s : State) (c : Nat) (x : Core) : (s.setCore c x).elisions = s.elisions := rfl
@[simp] theorem modCore_elisions (s : State) (c : Nat) (h : Core → Core) : (s.modCore c h).elisions = s.elisions := rfl
@[simp] theorem setCore_walks (s : State) (c : Nat) (x : Core) : (s.setCore c x).walks = s.walks := rfl
@[simp] theorem modCore_walks (s : State) (c : Nat) (h : Core → Core) : (s.modCore c h).walks = s.walks := rfl
@[simp] theorem setCore_saved (s : State) (c : Nat) (x : Core) : (s.setCore c x).saved = s.saved := rfl
@[simp] theorem modCore_saved (s : State) (c : Nat) (h : Core → Core) : (s.modCore c h).saved = s.saved := rfl
@[simp] theorem setCore_toHost (s : State) (c : Nat) (x : Core) : (s.setCore c x).toHost = s.toHost := rfl
@[simp] theorem modCore_toHost (s : State) (c : Nat) (h : Core → Core) : (s.modCore c h).toHost = s.toHost := rfl
@[simp] theorem setCore_thread (s : State) (c k : Nat) (x : Core) : (s.setCore c x).thread k = s.thread k := rfl
@[simp] theorem modCore_thread (s : State) (c k : Nat) (h : Core → Core) : (s.modCore c h).thread k = s.thread k := rfl
@[simp] theorem setCore_core (s : State) (c k : Nat) (x : Core) :
    (s.setCore c x).core k = if k = c then x else s.core k := Tbl.getD_put ..
@[simp] theorem modCore_core (s : State) (c k : Nat) (h : Core → Core) :
    (s.modCore c h).core k = if k = c then h (s.core c) else s.core k := Tbl.getD_put ..
@[simp] theorem setCore_quad (s : State) (c k : Nat) (x : Core) : (s.setCore c x).quad k = s.quad k := rfl
@[simp] theorem modCore_quad (s : State) (c k : Nat) (h : Core → Core) : (s.modCore c h).quad k = s.quad k := rfl
@[simp] theorem setCore_die (s : State) (c k : Nat) (x : Core) : (s.setCore c x).die k = s.die k := rfl
@[simp] theorem modCore_die (s : State) (c k : Nat) (h : Core → Core) : (s.modCore c h).die k = s.die k := rfl
@[simp] theorem setCore_module (s : State) (c k : Nat) (x : Core) : (s.setCore c x).module k = s.module k := rfl
@[simp] theorem modCore_module (s : State) (c k : Nat) (h : Core → Core) : (s.modCore c h).module k = s.module k := rfl

@[simp] theorem setQuad_agenda (s : State) (q : Nat) (x : Quad) : (s.setQuad q x).agenda = s.agenda := rfl
@[simp] theorem modQuad_agenda (s : State) (q : Nat) (h : Quad → Quad) : (s.modQuad q h).agenda = s.agenda := rfl
@[simp] theorem setQuad_sched (s : State) (q : Nat) (x : Quad) : (s.setQuad q x).sched = s.sched := rfl
@[simp] theorem modQuad_sched (s : State) (q : Nat) (h : Quad → Quad) : (s.modQuad q h).sched = s.sched := rfl
@[simp] theorem setQuad_holdStores (s : State) (q : Nat) (x : Quad) : (s.setQuad q x).holdStores = s.holdStores := rfl
@[simp] theorem modQuad_holdStores (s : State) (q : Nat) (h : Quad → Quad) : (s.modQuad q h).holdStores = s.holdStores := rfl
@[simp] theorem setQuad_grain (s : State) (q : Nat) (x : Quad) : (s.setQuad q x).grain = s.grain := rfl
@[simp] theorem modQuad_grain (s : State) (q : Nat) (h : Quad → Quad) : (s.modQuad q h).grain = s.grain := rfl
@[simp] theorem setQuad_cur (s : State) (q : Nat) (x : Quad) : (s.setQuad q x).cur = s.cur := rfl
@[simp] theorem modQuad_cur (s : State) (q : Nat) (h : Quad → Quad) : (s.modQuad q h).cur = s.cur := rfl
@[simp] theorem setQuad_bundle (s : State) (q : Nat) (x : Quad) : (s.setQuad q x).bundle = s.bundle := rfl
@[simp] theorem modQuad_bundle (s : State) (q : Nat) (h : Quad → Quad) : (s.modQuad q h).bundle = s.bundle := rfl
@[simp] theorem setQuad_nextId (s : State) (q : Nat) (x : Quad) : (s.setQuad q x).nextId = s.nextId := rfl
@[simp] theorem modQuad_nextId (s : State) (q : Nat) (h : Quad → Quad) : (s.modQuad q h).nextId = s.nextId := rfl
@[simp] theorem setQuad_tick (s : State) (q : Nat) (x : Quad) : (s.setQuad q x).tick = s.tick := rfl
@[simp] theorem modQuad_tick (s : State) (q : Nat) (h : Quad → Quad) : (s.modQuad q h).tick = s.tick := rfl
@[simp] theorem setQuad_dt (s : State) (q : Nat) (x : Quad) : (s.setQuad q x).dt = s.dt := rfl
@[simp] theorem modQuad_dt (s : State) (q : Nat) (h : Quad → Quad) : (s.modQuad q h).dt = s.dt := rfl
@[simp] theorem setQuad_stretch (s : State) (q : Nat) (x : Quad) : (s.setQuad q x).stretch = s.stretch := rfl
@[simp] theorem modQuad_stretch (s : State) (q : Nat) (h : Quad → Quad) : (s.modQuad q h).stretch = s.stretch := rfl
@[simp] theorem setQuad_free (s : State) (q : Nat) (x : Quad) : (s.setQuad q x).free = s.free := rfl
@[simp] theorem modQuad_free (s : State) (q : Nat) (h : Quad → Quad) : (s.modQuad q h).free = s.free := rfl
@[simp] theorem setQuad_mem (s : State) (q : Nat) (x : Quad) : (s.setQuad q x).mem = s.mem := rfl
@[simp] theorem modQuad_mem (s : State) (q : Nat) (h : Quad → Quad) : (s.modQuad q h).mem = s.mem := rfl
@[simp] theorem setQuad_threads (s : State) (q : Nat) (x : Quad) : (s.setQuad q x).threads = s.threads := rfl
@[simp] theorem modQuad_threads (s : State) (q : Nat) (h : Quad → Quad) : (s.modQuad q h).threads = s.threads := rfl
@[simp] theorem setQuad_cores (s : State) (q : Nat) (x : Quad) : (s.setQuad q x).cores = s.cores := rfl
@[simp] theorem modQuad_cores (s : State) (q : Nat) (h : Quad → Quad) : (s.modQuad q h).cores = s.cores := rfl
@[simp] theorem setQuad_dies (s : State) (q : Nat) (x : Quad) : (s.setQuad q x).dies = s.dies := rfl
@[simp] theorem modQuad_dies (s : State) (q : Nat) (h : Quad → Quad) : (s.modQuad q h).dies = s.dies := rfl
@[simp] theorem setQuad_modules (s : State) (q : Nat) (x : Quad) : (s.setQuad q x).modules = s.modules := rfl
@[simp] theorem modQuad_modules (s : State) (q : Nat) (h : Quad → Quad) : (s.modQuad q h).modules = s.modules := rfl
@[simp] theorem setQuad_links (s : State) (q : Nat) (x : Quad) : (s.setQuad q x).links = s.links := rfl
@[simp] theorem modQuad_links (s : State) (q : Nat) (h : Quad → Quad) : (s.modQuad q h).links = s.links := rfl
@[simp] theorem setQuad_launches (s : State) (q : Nat) (x : Quad) : (s.setQuad q x).launches = s.launches := rfl
@[simp] theorem modQuad_launches (s : State) (q : Nat) (h : Quad → Quad) : (s.modQuad q h).launches = s.launches := rfl
@[simp] theorem setQuad_heaps (s : State) (q : Nat) (x : Quad) : (s.setQuad q x).heaps = s.heaps := rfl
@[simp] theorem modQuad_heaps (s : State) (q : Nat) (h : Quad → Quad) : (s.modQuad q h).heaps = s.heaps := rfl
@[simp] theorem setQuad_podObjs (s : State) (q : Nat) (x : Quad) : (s.setQuad q x).podObjs = s.podObjs := rfl
@[simp] theorem modQuad_podObjs (s : State) (q : Nat) (h : Quad → Quad) : (s.modQuad q h).podObjs = s.podObjs := rfl
@[simp] theorem setQuad_reqs (s : State) (q : Nat) (x : Quad) : (s.setQuad q x).reqs = s.reqs := rfl
@[simp] theorem modQuad_reqs (s : State) (q : Nat) (h : Quad → Quad) : (s.modQuad q h).reqs = s.reqs := rfl
@[simp] theorem setQuad_lookups (s : State) (q : Nat) (x : Quad) : (s.setQuad q x).lookups = s.lookups := rfl
@[simp] theorem modQuad_lookups (s : State) (q : Nat) (h : Quad → Quad) : (s.modQuad q h).lookups = s.lookups := rfl
@[simp] theorem setQuad_elisions (s : State) (q : Nat) (x : Quad) : (s.setQuad q x).elisions = s.elisions := rfl
@[simp] theorem modQuad_elisions (s : State) (q : Nat) (h : Quad → Quad) : (s.modQuad q h).elisions = s.elisions := rfl
@[simp] theorem setQuad_walks (s : State) (q : Nat) (x : Quad) : (s.setQuad q x).walks = s.walks := rfl
@[simp] theorem modQuad_walks (s : State) (q : Nat) (h : Quad → Quad) : (s.modQuad q h).walks = s.walks := rfl
@[simp] theorem setQuad_saved (s : State) (q : Nat) (x : Quad) : (s.setQuad q x).saved = s.saved := rfl
@[simp] theorem modQuad_saved (s : State) (q : Nat) (h : Quad → Quad) : (s.modQuad q h).saved = s.saved := rfl
@[simp] theorem setQuad_toHost (s : State) (q : Nat) (x : Quad) : (s.setQuad q x).toHost = s.toHost := rfl
@[simp] theorem modQuad_toHost (s : State) (q : Nat) (h : Quad → Quad) : (s.modQuad q h).toHost = s.toHost := rfl
@[simp] theorem setQuad_thread (s : State) (q k : Nat) (x : Quad) : (s.setQuad q x).thread k = s.thread k := rfl
@[simp] theorem modQuad_thread (s : State) (q k : Nat) (h : Quad → Quad) : (s.modQuad q h).thread k = s.thread k := rfl
@[simp] theorem setQuad_core (s : State) (q k : Nat) (x : Quad) : (s.setQuad q x).core k = s.core k := rfl
@[simp] theorem modQuad_core (s : State) (q k : Nat) (h : Quad → Quad) : (s.modQuad q h).core k = s.core k := rfl
@[simp] theorem setQuad_quad (s : State) (q k : Nat) (x : Quad) :
    (s.setQuad q x).quad k = if k = q then x else s.quad k := Tbl.getD_put ..
@[simp] theorem modQuad_quad (s : State) (q k : Nat) (h : Quad → Quad) :
    (s.modQuad q h).quad k = if k = q then h (s.quad q) else s.quad k := Tbl.getD_put ..
@[simp] theorem setQuad_die (s : State) (q k : Nat) (x : Quad) : (s.setQuad q x).die k = s.die k := rfl
@[simp] theorem modQuad_die (s : State) (q k : Nat) (h : Quad → Quad) : (s.modQuad q h).die k = s.die k := rfl
@[simp] theorem setQuad_module (s : State) (q k : Nat) (x : Quad) : (s.setQuad q x).module k = s.module k := rfl
@[simp] theorem modQuad_module (s : State) (q k : Nat) (h : Quad → Quad) : (s.modQuad q h).module k = s.module k := rfl

@[simp] theorem setDie_agenda (s : State) (d : Nat) (x : Die) : (s.setDie d x).agenda = s.agenda := rfl
@[simp] theorem modDie_agenda (s : State) (d : Nat) (h : Die → Die) : (s.modDie d h).agenda = s.agenda := rfl
@[simp] theorem setDie_sched (s : State) (d : Nat) (x : Die) : (s.setDie d x).sched = s.sched := rfl
@[simp] theorem modDie_sched (s : State) (d : Nat) (h : Die → Die) : (s.modDie d h).sched = s.sched := rfl
@[simp] theorem setDie_holdStores (s : State) (d : Nat) (x : Die) : (s.setDie d x).holdStores = s.holdStores := rfl
@[simp] theorem modDie_holdStores (s : State) (d : Nat) (h : Die → Die) : (s.modDie d h).holdStores = s.holdStores := rfl
@[simp] theorem setDie_grain (s : State) (d : Nat) (x : Die) : (s.setDie d x).grain = s.grain := rfl
@[simp] theorem modDie_grain (s : State) (d : Nat) (h : Die → Die) : (s.modDie d h).grain = s.grain := rfl
@[simp] theorem setDie_cur (s : State) (d : Nat) (x : Die) : (s.setDie d x).cur = s.cur := rfl
@[simp] theorem modDie_cur (s : State) (d : Nat) (h : Die → Die) : (s.modDie d h).cur = s.cur := rfl
@[simp] theorem setDie_bundle (s : State) (d : Nat) (x : Die) : (s.setDie d x).bundle = s.bundle := rfl
@[simp] theorem modDie_bundle (s : State) (d : Nat) (h : Die → Die) : (s.modDie d h).bundle = s.bundle := rfl
@[simp] theorem setDie_nextId (s : State) (d : Nat) (x : Die) : (s.setDie d x).nextId = s.nextId := rfl
@[simp] theorem modDie_nextId (s : State) (d : Nat) (h : Die → Die) : (s.modDie d h).nextId = s.nextId := rfl
@[simp] theorem setDie_tick (s : State) (d : Nat) (x : Die) : (s.setDie d x).tick = s.tick := rfl
@[simp] theorem modDie_tick (s : State) (d : Nat) (h : Die → Die) : (s.modDie d h).tick = s.tick := rfl
@[simp] theorem setDie_dt (s : State) (d : Nat) (x : Die) : (s.setDie d x).dt = s.dt := rfl
@[simp] theorem modDie_dt (s : State) (d : Nat) (h : Die → Die) : (s.modDie d h).dt = s.dt := rfl
@[simp] theorem setDie_stretch (s : State) (d : Nat) (x : Die) : (s.setDie d x).stretch = s.stretch := rfl
@[simp] theorem modDie_stretch (s : State) (d : Nat) (h : Die → Die) : (s.modDie d h).stretch = s.stretch := rfl
@[simp] theorem setDie_free (s : State) (d : Nat) (x : Die) : (s.setDie d x).free = s.free := rfl
@[simp] theorem modDie_free (s : State) (d : Nat) (h : Die → Die) : (s.modDie d h).free = s.free := rfl
@[simp] theorem setDie_mem (s : State) (d : Nat) (x : Die) : (s.setDie d x).mem = s.mem := rfl
@[simp] theorem modDie_mem (s : State) (d : Nat) (h : Die → Die) : (s.modDie d h).mem = s.mem := rfl
@[simp] theorem setDie_threads (s : State) (d : Nat) (x : Die) : (s.setDie d x).threads = s.threads := rfl
@[simp] theorem modDie_threads (s : State) (d : Nat) (h : Die → Die) : (s.modDie d h).threads = s.threads := rfl
@[simp] theorem setDie_cores (s : State) (d : Nat) (x : Die) : (s.setDie d x).cores = s.cores := rfl
@[simp] theorem modDie_cores (s : State) (d : Nat) (h : Die → Die) : (s.modDie d h).cores = s.cores := rfl
@[simp] theorem setDie_quads (s : State) (d : Nat) (x : Die) : (s.setDie d x).quads = s.quads := rfl
@[simp] theorem modDie_quads (s : State) (d : Nat) (h : Die → Die) : (s.modDie d h).quads = s.quads := rfl
@[simp] theorem setDie_modules (s : State) (d : Nat) (x : Die) : (s.setDie d x).modules = s.modules := rfl
@[simp] theorem modDie_modules (s : State) (d : Nat) (h : Die → Die) : (s.modDie d h).modules = s.modules := rfl
@[simp] theorem setDie_links (s : State) (d : Nat) (x : Die) : (s.setDie d x).links = s.links := rfl
@[simp] theorem modDie_links (s : State) (d : Nat) (h : Die → Die) : (s.modDie d h).links = s.links := rfl
@[simp] theorem setDie_launches (s : State) (d : Nat) (x : Die) : (s.setDie d x).launches = s.launches := rfl
@[simp] theorem modDie_launches (s : State) (d : Nat) (h : Die → Die) : (s.modDie d h).launches = s.launches := rfl
@[simp] theorem setDie_heaps (s : State) (d : Nat) (x : Die) : (s.setDie d x).heaps = s.heaps := rfl
@[simp] theorem modDie_heaps (s : State) (d : Nat) (h : Die → Die) : (s.modDie d h).heaps = s.heaps := rfl
@[simp] theorem setDie_podObjs (s : State) (d : Nat) (x : Die) : (s.setDie d x).podObjs = s.podObjs := rfl
@[simp] theorem modDie_podObjs (s : State) (d : Nat) (h : Die → Die) : (s.modDie d h).podObjs = s.podObjs := rfl
@[simp] theorem setDie_reqs (s : State) (d : Nat) (x : Die) : (s.setDie d x).reqs = s.reqs := rfl
@[simp] theorem modDie_reqs (s : State) (d : Nat) (h : Die → Die) : (s.modDie d h).reqs = s.reqs := rfl
@[simp] theorem setDie_lookups (s : State) (d : Nat) (x : Die) : (s.setDie d x).lookups = s.lookups := rfl
@[simp] theorem modDie_lookups (s : State) (d : Nat) (h : Die → Die) : (s.modDie d h).lookups = s.lookups := rfl
@[simp] theorem setDie_elisions (s : State) (d : Nat) (x : Die) : (s.setDie d x).elisions = s.elisions := rfl
@[simp] theorem modDie_elisions (s : State) (d : Nat) (h : Die → Die) : (s.modDie d h).elisions = s.elisions := rfl
@[simp] theorem setDie_walks (s : State) (d : Nat) (x : Die) : (s.setDie d x).walks = s.walks := rfl
@[simp] theorem modDie_walks (s : State) (d : Nat) (h : Die → Die) : (s.modDie d h).walks = s.walks := rfl
@[simp] theorem setDie_saved (s : State) (d : Nat) (x : Die) : (s.setDie d x).saved = s.saved := rfl
@[simp] theorem modDie_saved (s : State) (d : Nat) (h : Die → Die) : (s.modDie d h).saved = s.saved := rfl
@[simp] theorem setDie_toHost (s : State) (d : Nat) (x : Die) : (s.setDie d x).toHost = s.toHost := rfl
@[simp] theorem modDie_toHost (s : State) (d : Nat) (h : Die → Die) : (s.modDie d h).toHost = s.toHost := rfl
@[simp] theorem setDie_thread (s : State) (d k : Nat) (x : Die) : (s.setDie d x).thread k = s.thread k := rfl
@[simp] theorem modDie_thread (s : State) (d k : Nat) (h : Die → Die) : (s.modDie d h).thread k = s.thread k := rfl
@[simp] theorem setDie_core (s : State) (d k : Nat) (x : Die) : (s.setDie d x).core k = s.core k := rfl
@[simp] theorem modDie_core (s : State) (d k : Nat) (h : Die → Die) : (s.modDie d h).core k = s.core k := rfl
@[simp] theorem setDie_quad (s : State) (d k : Nat) (x : Die) : (s.setDie d x).quad k = s.quad k := rfl
@[simp] theorem modDie_quad (s : State) (d k : Nat) (h : Die → Die) : (s.modDie d h).quad k = s.quad k := rfl
@[simp] theorem setDie_die (s : State) (d k : Nat) (x : Die) :
    (s.setDie d x).die k = if k = d then x else s.die k := Tbl.getD_put ..
@[simp] theorem modDie_die (s : State) (d k : Nat) (h : Die → Die) :
    (s.modDie d h).die k = if k = d then h (s.die d) else s.die k := Tbl.getD_put ..
@[simp] theorem setDie_module (s : State) (d k : Nat) (x : Die) : (s.setDie d x).module k = s.module k := rfl
@[simp] theorem modDie_module (s : State) (d k : Nat) (h : Die → Die) : (s.modDie d h).module k = s.module k := rfl

@[simp] theorem setModule_agenda (s : State) (m : Nat) (x : Module) : (s.setModule m x).agenda = s.agenda := rfl
@[simp] theorem modModule_agenda (s : State) (m : Nat) (h : Module → Module) : (s.modModule m h).agenda = s.agenda := rfl
@[simp] theorem setModule_sched (s : State) (m : Nat) (x : Module) : (s.setModule m x).sched = s.sched := rfl
@[simp] theorem modModule_sched (s : State) (m : Nat) (h : Module → Module) : (s.modModule m h).sched = s.sched := rfl
@[simp] theorem setModule_holdStores (s : State) (m : Nat) (x : Module) : (s.setModule m x).holdStores = s.holdStores := rfl
@[simp] theorem modModule_holdStores (s : State) (m : Nat) (h : Module → Module) : (s.modModule m h).holdStores = s.holdStores := rfl
@[simp] theorem setModule_grain (s : State) (m : Nat) (x : Module) : (s.setModule m x).grain = s.grain := rfl
@[simp] theorem modModule_grain (s : State) (m : Nat) (h : Module → Module) : (s.modModule m h).grain = s.grain := rfl
@[simp] theorem setModule_cur (s : State) (m : Nat) (x : Module) : (s.setModule m x).cur = s.cur := rfl
@[simp] theorem modModule_cur (s : State) (m : Nat) (h : Module → Module) : (s.modModule m h).cur = s.cur := rfl
@[simp] theorem setModule_bundle (s : State) (m : Nat) (x : Module) : (s.setModule m x).bundle = s.bundle := rfl
@[simp] theorem modModule_bundle (s : State) (m : Nat) (h : Module → Module) : (s.modModule m h).bundle = s.bundle := rfl
@[simp] theorem setModule_nextId (s : State) (m : Nat) (x : Module) : (s.setModule m x).nextId = s.nextId := rfl
@[simp] theorem modModule_nextId (s : State) (m : Nat) (h : Module → Module) : (s.modModule m h).nextId = s.nextId := rfl
@[simp] theorem setModule_tick (s : State) (m : Nat) (x : Module) : (s.setModule m x).tick = s.tick := rfl
@[simp] theorem modModule_tick (s : State) (m : Nat) (h : Module → Module) : (s.modModule m h).tick = s.tick := rfl
@[simp] theorem setModule_dt (s : State) (m : Nat) (x : Module) : (s.setModule m x).dt = s.dt := rfl
@[simp] theorem modModule_dt (s : State) (m : Nat) (h : Module → Module) : (s.modModule m h).dt = s.dt := rfl
@[simp] theorem setModule_stretch (s : State) (m : Nat) (x : Module) : (s.setModule m x).stretch = s.stretch := rfl
@[simp] theorem modModule_stretch (s : State) (m : Nat) (h : Module → Module) : (s.modModule m h).stretch = s.stretch := rfl
@[simp] theorem setModule_free (s : State) (m : Nat) (x : Module) : (s.setModule m x).free = s.free := rfl
@[simp] theorem modModule_free (s : State) (m : Nat) (h : Module → Module) : (s.modModule m h).free = s.free := rfl
@[simp] theorem setModule_mem (s : State) (m : Nat) (x : Module) : (s.setModule m x).mem = s.mem := rfl
@[simp] theorem modModule_mem (s : State) (m : Nat) (h : Module → Module) : (s.modModule m h).mem = s.mem := rfl
@[simp] theorem setModule_threads (s : State) (m : Nat) (x : Module) : (s.setModule m x).threads = s.threads := rfl
@[simp] theorem modModule_threads (s : State) (m : Nat) (h : Module → Module) : (s.modModule m h).threads = s.threads := rfl
@[simp] theorem setModule_cores (s : State) (m : Nat) (x : Module) : (s.setModule m x).cores = s.cores := rfl
@[simp] theorem modModule_cores (s : State) (m : Nat) (h : Module → Module) : (s.modModule m h).cores = s.cores := rfl
@[simp] theorem setModule_quads (s : State) (m : Nat) (x : Module) : (s.setModule m x).quads = s.quads := rfl
@[simp] theorem modModule_quads (s : State) (m : Nat) (h : Module → Module) : (s.modModule m h).quads = s.quads := rfl
@[simp] theorem setModule_dies (s : State) (m : Nat) (x : Module) : (s.setModule m x).dies = s.dies := rfl
@[simp] theorem modModule_dies (s : State) (m : Nat) (h : Module → Module) : (s.modModule m h).dies = s.dies := rfl
@[simp] theorem setModule_links (s : State) (m : Nat) (x : Module) : (s.setModule m x).links = s.links := rfl
@[simp] theorem modModule_links (s : State) (m : Nat) (h : Module → Module) : (s.modModule m h).links = s.links := rfl
@[simp] theorem setModule_launches (s : State) (m : Nat) (x : Module) : (s.setModule m x).launches = s.launches := rfl
@[simp] theorem modModule_launches (s : State) (m : Nat) (h : Module → Module) : (s.modModule m h).launches = s.launches := rfl
@[simp] theorem setModule_heaps (s : State) (m : Nat) (x : Module) : (s.setModule m x).heaps = s.heaps := rfl
@[simp] theorem modModule_heaps (s : State) (m : Nat) (h : Module → Module) : (s.modModule m h).heaps = s.heaps := rfl
@[simp] theorem setModule_podObjs (s : State) (m : Nat) (x : Module) : (s.setModule m x).podObjs = s.podObjs := rfl
@[simp] theorem modModule_podObjs (s : State) (m : Nat) (h : Module → Module) : (s.modModule m h).podObjs = s.podObjs := rfl
@[simp] theorem setModule_reqs (s : State) (m : Nat) (x : Module) : (s.setModule m x).reqs = s.reqs := rfl
@[simp] theorem modModule_reqs (s : State) (m : Nat) (h : Module → Module) : (s.modModule m h).reqs = s.reqs := rfl
@[simp] theorem setModule_lookups (s : State) (m : Nat) (x : Module) : (s.setModule m x).lookups = s.lookups := rfl
@[simp] theorem modModule_lookups (s : State) (m : Nat) (h : Module → Module) : (s.modModule m h).lookups = s.lookups := rfl
@[simp] theorem setModule_elisions (s : State) (m : Nat) (x : Module) : (s.setModule m x).elisions = s.elisions := rfl
@[simp] theorem modModule_elisions (s : State) (m : Nat) (h : Module → Module) : (s.modModule m h).elisions = s.elisions := rfl
@[simp] theorem setModule_walks (s : State) (m : Nat) (x : Module) : (s.setModule m x).walks = s.walks := rfl
@[simp] theorem modModule_walks (s : State) (m : Nat) (h : Module → Module) : (s.modModule m h).walks = s.walks := rfl
@[simp] theorem setModule_saved (s : State) (m : Nat) (x : Module) : (s.setModule m x).saved = s.saved := rfl
@[simp] theorem modModule_saved (s : State) (m : Nat) (h : Module → Module) : (s.modModule m h).saved = s.saved := rfl
@[simp] theorem setModule_toHost (s : State) (m : Nat) (x : Module) : (s.setModule m x).toHost = s.toHost := rfl
@[simp] theorem modModule_toHost (s : State) (m : Nat) (h : Module → Module) : (s.modModule m h).toHost = s.toHost := rfl
@[simp] theorem setModule_thread (s : State) (m k : Nat) (x : Module) : (s.setModule m x).thread k = s.thread k := rfl
@[simp] theorem modModule_thread (s : State) (m k : Nat) (h : Module → Module) : (s.modModule m h).thread k = s.thread k := rfl
@[simp] theorem setModule_core (s : State) (m k : Nat) (x : Module) : (s.setModule m x).core k = s.core k := rfl
@[simp] theorem modModule_core (s : State) (m k : Nat) (h : Module → Module) : (s.modModule m h).core k = s.core k := rfl
@[simp] theorem setModule_quad (s : State) (m k : Nat) (x : Module) : (s.setModule m x).quad k = s.quad k := rfl
@[simp] theorem modModule_quad (s : State) (m k : Nat) (h : Module → Module) : (s.modModule m h).quad k = s.quad k := rfl
@[simp] theorem setModule_die (s : State) (m k : Nat) (x : Module) : (s.setModule m x).die k = s.die k := rfl
@[simp] theorem modModule_die (s : State) (m k : Nat) (h : Module → Module) : (s.modModule m h).die k = s.die k := rfl
@[simp] theorem setModule_module (s : State) (m k : Nat) (x : Module) :
    (s.setModule m x).module k = if k = m then x else s.module k := Tbl.getD_put ..
@[simp] theorem modModule_module (s : State) (m k : Nat) (h : Module → Module) :
    (s.modModule m h).module k = if k = m then h (s.module m) else s.module k := Tbl.getD_put ..

/-! ## The agenda -/

@[simp] theorem emit_sched (s : State) (e : Instr) : (s.emit e).sched = s.sched := rfl
@[simp] theorem emit_holdStores (s : State) (e : Instr) : (s.emit e).holdStores = s.holdStores := rfl
@[simp] theorem emit_grain (s : State) (e : Instr) : (s.emit e).grain = s.grain := rfl
@[simp] theorem emit_cur (s : State) (e : Instr) : (s.emit e).cur = s.cur := rfl
@[simp] theorem emit_bundle (s : State) (e : Instr) : (s.emit e).bundle = s.bundle := rfl
@[simp] theorem emit_nextId (s : State) (e : Instr) : (s.emit e).nextId = s.nextId := rfl
@[simp] theorem emit_tick (s : State) (e : Instr) : (s.emit e).tick = s.tick := rfl
@[simp] theorem emit_dt (s : State) (e : Instr) : (s.emit e).dt = s.dt := rfl
@[simp] theorem emit_stretch (s : State) (e : Instr) : (s.emit e).stretch = s.stretch := rfl
@[simp] theorem emit_free (s : State) (e : Instr) : (s.emit e).free = s.free := rfl
@[simp] theorem emit_mem (s : State) (e : Instr) : (s.emit e).mem = s.mem := rfl
@[simp] theorem emit_threads (s : State) (e : Instr) : (s.emit e).threads = s.threads := rfl
@[simp] theorem emit_cores (s : State) (e : Instr) : (s.emit e).cores = s.cores := rfl
@[simp] theorem emit_quads (s : State) (e : Instr) : (s.emit e).quads = s.quads := rfl
@[simp] theorem emit_dies (s : State) (e : Instr) : (s.emit e).dies = s.dies := rfl
@[simp] theorem emit_modules (s : State) (e : Instr) : (s.emit e).modules = s.modules := rfl
@[simp] theorem emit_links (s : State) (e : Instr) : (s.emit e).links = s.links := rfl
@[simp] theorem emit_launches (s : State) (e : Instr) : (s.emit e).launches = s.launches := rfl
@[simp] theorem emit_heaps (s : State) (e : Instr) : (s.emit e).heaps = s.heaps := rfl
@[simp] theorem emit_podObjs (s : State) (e : Instr) : (s.emit e).podObjs = s.podObjs := rfl
@[simp] theorem emit_reqs (s : State) (e : Instr) : (s.emit e).reqs = s.reqs := rfl
@[simp] theorem emit_lookups (s : State) (e : Instr) : (s.emit e).lookups = s.lookups := rfl
@[simp] theorem emit_elisions (s : State) (e : Instr) : (s.emit e).elisions = s.elisions := rfl
@[simp] theorem emit_walks (s : State) (e : Instr) : (s.emit e).walks = s.walks := rfl
@[simp] theorem emit_saved (s : State) (e : Instr) : (s.emit e).saved = s.saved := rfl
@[simp] theorem emit_toHost (s : State) (e : Instr) : (s.emit e).toHost = s.toHost := rfl
@[simp] theorem emit_agenda (s : State) (e : Instr) : (s.emit e).agenda = s.agenda ++ [e] := rfl
@[simp] theorem emit_thread (s : State) (e : Instr) (k : Nat) : (s.emit e).thread k = s.thread k := rfl
@[simp] theorem emit_core (s : State) (e : Instr) (k : Nat) : (s.emit e).core k = s.core k := rfl
@[simp] theorem emit_quad (s : State) (e : Instr) (k : Nat) : (s.emit e).quad k = s.quad k := rfl
@[simp] theorem emit_die (s : State) (e : Instr) (k : Nat) : (s.emit e).die k = s.die k := rfl
@[simp] theorem emit_module (s : State) (e : Instr) (k : Nat) : (s.emit e).module k = s.module k := rfl

/-! ## The issuing thread and its registers -/

@[simp] theorem setTh_agenda (s : State) (t : Thread) : (s.setTh t).agenda = s.agenda := rfl
@[simp] theorem modTh_agenda (s : State) (h : Thread → Thread) : (s.modTh h).agenda = s.agenda := rfl
@[simp] theorem setG_agenda (s : State) (r : GReg) (x : Word) : (s.setG r x).agenda = s.agenda := rfl
@[simp] theorem setP_agenda (s : State) (r : PReg) (x : Bool) : (s.setP r x).agenda = s.agenda := rfl
@[simp] theorem setMask_agenda (s : State) (k : MReg) (x : BitVec 256) : (s.setMask k x).agenda = s.agenda := rfl
@[simp] theorem orFlags_agenda (s : State) (b : BitVec 6) : (s.orFlags b).agenda = s.agenda := rfl
@[simp] theorem setVec_agenda (s : State) (d : VField) (x : Nat) (t : Tag) : (s.setVec d x t).agenda = s.agenda := rfl
@[simp] theorem putVec_agenda (s : State) (d : VField) (x : Nat) (t : Tag) : (s.putVec d x t).agenda = s.agenda := rfl
@[simp] theorem setTh_sched (s : State) (t : Thread) : (s.setTh t).sched = s.sched := rfl
@[simp] theorem modTh_sched (s : State) (h : Thread → Thread) : (s.modTh h).sched = s.sched := rfl
@[simp] theorem setG_sched (s : State) (r : GReg) (x : Word) : (s.setG r x).sched = s.sched := rfl
@[simp] theorem setP_sched (s : State) (r : PReg) (x : Bool) : (s.setP r x).sched = s.sched := rfl
@[simp] theorem setMask_sched (s : State) (k : MReg) (x : BitVec 256) : (s.setMask k x).sched = s.sched := rfl
@[simp] theorem orFlags_sched (s : State) (b : BitVec 6) : (s.orFlags b).sched = s.sched := rfl
@[simp] theorem setVec_sched (s : State) (d : VField) (x : Nat) (t : Tag) : (s.setVec d x t).sched = s.sched := rfl
@[simp] theorem putVec_sched (s : State) (d : VField) (x : Nat) (t : Tag) : (s.putVec d x t).sched = s.sched := rfl
@[simp] theorem setTh_holdStores (s : State) (t : Thread) : (s.setTh t).holdStores = s.holdStores := rfl
@[simp] theorem modTh_holdStores (s : State) (h : Thread → Thread) : (s.modTh h).holdStores = s.holdStores := rfl
@[simp] theorem setG_holdStores (s : State) (r : GReg) (x : Word) : (s.setG r x).holdStores = s.holdStores := rfl
@[simp] theorem setP_holdStores (s : State) (r : PReg) (x : Bool) : (s.setP r x).holdStores = s.holdStores := rfl
@[simp] theorem setMask_holdStores (s : State) (k : MReg) (x : BitVec 256) : (s.setMask k x).holdStores = s.holdStores := rfl
@[simp] theorem orFlags_holdStores (s : State) (b : BitVec 6) : (s.orFlags b).holdStores = s.holdStores := rfl
@[simp] theorem setVec_holdStores (s : State) (d : VField) (x : Nat) (t : Tag) : (s.setVec d x t).holdStores = s.holdStores := rfl
@[simp] theorem putVec_holdStores (s : State) (d : VField) (x : Nat) (t : Tag) : (s.putVec d x t).holdStores = s.holdStores := rfl
@[simp] theorem setTh_grain (s : State) (t : Thread) : (s.setTh t).grain = s.grain := rfl
@[simp] theorem modTh_grain (s : State) (h : Thread → Thread) : (s.modTh h).grain = s.grain := rfl
@[simp] theorem setG_grain (s : State) (r : GReg) (x : Word) : (s.setG r x).grain = s.grain := rfl
@[simp] theorem setP_grain (s : State) (r : PReg) (x : Bool) : (s.setP r x).grain = s.grain := rfl
@[simp] theorem setMask_grain (s : State) (k : MReg) (x : BitVec 256) : (s.setMask k x).grain = s.grain := rfl
@[simp] theorem orFlags_grain (s : State) (b : BitVec 6) : (s.orFlags b).grain = s.grain := rfl
@[simp] theorem setVec_grain (s : State) (d : VField) (x : Nat) (t : Tag) : (s.setVec d x t).grain = s.grain := rfl
@[simp] theorem putVec_grain (s : State) (d : VField) (x : Nat) (t : Tag) : (s.putVec d x t).grain = s.grain := rfl
@[simp] theorem setTh_cur (s : State) (t : Thread) : (s.setTh t).cur = s.cur := rfl
@[simp] theorem modTh_cur (s : State) (h : Thread → Thread) : (s.modTh h).cur = s.cur := rfl
@[simp] theorem setG_cur (s : State) (r : GReg) (x : Word) : (s.setG r x).cur = s.cur := rfl
@[simp] theorem setP_cur (s : State) (r : PReg) (x : Bool) : (s.setP r x).cur = s.cur := rfl
@[simp] theorem setMask_cur (s : State) (k : MReg) (x : BitVec 256) : (s.setMask k x).cur = s.cur := rfl
@[simp] theorem orFlags_cur (s : State) (b : BitVec 6) : (s.orFlags b).cur = s.cur := rfl
@[simp] theorem setVec_cur (s : State) (d : VField) (x : Nat) (t : Tag) : (s.setVec d x t).cur = s.cur := rfl
@[simp] theorem putVec_cur (s : State) (d : VField) (x : Nat) (t : Tag) : (s.putVec d x t).cur = s.cur := rfl
@[simp] theorem setTh_bundle (s : State) (t : Thread) : (s.setTh t).bundle = s.bundle := rfl
@[simp] theorem modTh_bundle (s : State) (h : Thread → Thread) : (s.modTh h).bundle = s.bundle := rfl
@[simp] theorem setG_bundle (s : State) (r : GReg) (x : Word) : (s.setG r x).bundle = s.bundle := rfl
@[simp] theorem setP_bundle (s : State) (r : PReg) (x : Bool) : (s.setP r x).bundle = s.bundle := rfl
@[simp] theorem setMask_bundle (s : State) (k : MReg) (x : BitVec 256) : (s.setMask k x).bundle = s.bundle := rfl
@[simp] theorem orFlags_bundle (s : State) (b : BitVec 6) : (s.orFlags b).bundle = s.bundle := rfl
@[simp] theorem setVec_bundle (s : State) (d : VField) (x : Nat) (t : Tag) : (s.setVec d x t).bundle = s.bundle := rfl
@[simp] theorem putVec_bundle (s : State) (d : VField) (x : Nat) (t : Tag) : (s.putVec d x t).bundle = s.bundle := rfl
@[simp] theorem setTh_nextId (s : State) (t : Thread) : (s.setTh t).nextId = s.nextId := rfl
@[simp] theorem modTh_nextId (s : State) (h : Thread → Thread) : (s.modTh h).nextId = s.nextId := rfl
@[simp] theorem setG_nextId (s : State) (r : GReg) (x : Word) : (s.setG r x).nextId = s.nextId := rfl
@[simp] theorem setP_nextId (s : State) (r : PReg) (x : Bool) : (s.setP r x).nextId = s.nextId := rfl
@[simp] theorem setMask_nextId (s : State) (k : MReg) (x : BitVec 256) : (s.setMask k x).nextId = s.nextId := rfl
@[simp] theorem orFlags_nextId (s : State) (b : BitVec 6) : (s.orFlags b).nextId = s.nextId := rfl
@[simp] theorem setVec_nextId (s : State) (d : VField) (x : Nat) (t : Tag) : (s.setVec d x t).nextId = s.nextId := rfl
@[simp] theorem putVec_nextId (s : State) (d : VField) (x : Nat) (t : Tag) : (s.putVec d x t).nextId = s.nextId := rfl
@[simp] theorem setTh_tick (s : State) (t : Thread) : (s.setTh t).tick = s.tick := rfl
@[simp] theorem modTh_tick (s : State) (h : Thread → Thread) : (s.modTh h).tick = s.tick := rfl
@[simp] theorem setG_tick (s : State) (r : GReg) (x : Word) : (s.setG r x).tick = s.tick := rfl
@[simp] theorem setP_tick (s : State) (r : PReg) (x : Bool) : (s.setP r x).tick = s.tick := rfl
@[simp] theorem setMask_tick (s : State) (k : MReg) (x : BitVec 256) : (s.setMask k x).tick = s.tick := rfl
@[simp] theorem orFlags_tick (s : State) (b : BitVec 6) : (s.orFlags b).tick = s.tick := rfl
@[simp] theorem setVec_tick (s : State) (d : VField) (x : Nat) (t : Tag) : (s.setVec d x t).tick = s.tick := rfl
@[simp] theorem putVec_tick (s : State) (d : VField) (x : Nat) (t : Tag) : (s.putVec d x t).tick = s.tick := rfl
@[simp] theorem setTh_dt (s : State) (t : Thread) : (s.setTh t).dt = s.dt := rfl
@[simp] theorem modTh_dt (s : State) (h : Thread → Thread) : (s.modTh h).dt = s.dt := rfl
@[simp] theorem setG_dt (s : State) (r : GReg) (x : Word) : (s.setG r x).dt = s.dt := rfl
@[simp] theorem setP_dt (s : State) (r : PReg) (x : Bool) : (s.setP r x).dt = s.dt := rfl
@[simp] theorem setMask_dt (s : State) (k : MReg) (x : BitVec 256) : (s.setMask k x).dt = s.dt := rfl
@[simp] theorem orFlags_dt (s : State) (b : BitVec 6) : (s.orFlags b).dt = s.dt := rfl
@[simp] theorem setVec_dt (s : State) (d : VField) (x : Nat) (t : Tag) : (s.setVec d x t).dt = s.dt := rfl
@[simp] theorem putVec_dt (s : State) (d : VField) (x : Nat) (t : Tag) : (s.putVec d x t).dt = s.dt := rfl
@[simp] theorem setTh_stretch (s : State) (t : Thread) : (s.setTh t).stretch = s.stretch := rfl
@[simp] theorem modTh_stretch (s : State) (h : Thread → Thread) : (s.modTh h).stretch = s.stretch := rfl
@[simp] theorem setG_stretch (s : State) (r : GReg) (x : Word) : (s.setG r x).stretch = s.stretch := rfl
@[simp] theorem setP_stretch (s : State) (r : PReg) (x : Bool) : (s.setP r x).stretch = s.stretch := rfl
@[simp] theorem setMask_stretch (s : State) (k : MReg) (x : BitVec 256) : (s.setMask k x).stretch = s.stretch := rfl
@[simp] theorem orFlags_stretch (s : State) (b : BitVec 6) : (s.orFlags b).stretch = s.stretch := rfl
@[simp] theorem setVec_stretch (s : State) (d : VField) (x : Nat) (t : Tag) : (s.setVec d x t).stretch = s.stretch := rfl
@[simp] theorem putVec_stretch (s : State) (d : VField) (x : Nat) (t : Tag) : (s.putVec d x t).stretch = s.stretch := rfl
@[simp] theorem setTh_free (s : State) (t : Thread) : (s.setTh t).free = s.free := rfl
@[simp] theorem modTh_free (s : State) (h : Thread → Thread) : (s.modTh h).free = s.free := rfl
@[simp] theorem setG_free (s : State) (r : GReg) (x : Word) : (s.setG r x).free = s.free := rfl
@[simp] theorem setP_free (s : State) (r : PReg) (x : Bool) : (s.setP r x).free = s.free := rfl
@[simp] theorem setMask_free (s : State) (k : MReg) (x : BitVec 256) : (s.setMask k x).free = s.free := rfl
@[simp] theorem orFlags_free (s : State) (b : BitVec 6) : (s.orFlags b).free = s.free := rfl
@[simp] theorem setVec_free (s : State) (d : VField) (x : Nat) (t : Tag) : (s.setVec d x t).free = s.free := rfl
@[simp] theorem putVec_free (s : State) (d : VField) (x : Nat) (t : Tag) : (s.putVec d x t).free = s.free := rfl
@[simp] theorem setTh_mem (s : State) (t : Thread) : (s.setTh t).mem = s.mem := rfl
@[simp] theorem modTh_mem (s : State) (h : Thread → Thread) : (s.modTh h).mem = s.mem := rfl
@[simp] theorem setG_mem (s : State) (r : GReg) (x : Word) : (s.setG r x).mem = s.mem := rfl
@[simp] theorem setP_mem (s : State) (r : PReg) (x : Bool) : (s.setP r x).mem = s.mem := rfl
@[simp] theorem setMask_mem (s : State) (k : MReg) (x : BitVec 256) : (s.setMask k x).mem = s.mem := rfl
@[simp] theorem orFlags_mem (s : State) (b : BitVec 6) : (s.orFlags b).mem = s.mem := rfl
@[simp] theorem setVec_mem (s : State) (d : VField) (x : Nat) (t : Tag) : (s.setVec d x t).mem = s.mem := rfl
@[simp] theorem putVec_mem (s : State) (d : VField) (x : Nat) (t : Tag) : (s.putVec d x t).mem = s.mem := rfl
@[simp] theorem setTh_cores (s : State) (t : Thread) : (s.setTh t).cores = s.cores := rfl
@[simp] theorem modTh_cores (s : State) (h : Thread → Thread) : (s.modTh h).cores = s.cores := rfl
@[simp] theorem setG_cores (s : State) (r : GReg) (x : Word) : (s.setG r x).cores = s.cores := rfl
@[simp] theorem setP_cores (s : State) (r : PReg) (x : Bool) : (s.setP r x).cores = s.cores := rfl
@[simp] theorem setMask_cores (s : State) (k : MReg) (x : BitVec 256) : (s.setMask k x).cores = s.cores := rfl
@[simp] theorem orFlags_cores (s : State) (b : BitVec 6) : (s.orFlags b).cores = s.cores := rfl
@[simp] theorem setVec_cores (s : State) (d : VField) (x : Nat) (t : Tag) : (s.setVec d x t).cores = s.cores := rfl
@[simp] theorem putVec_cores (s : State) (d : VField) (x : Nat) (t : Tag) : (s.putVec d x t).cores = s.cores := rfl
@[simp] theorem setTh_quads (s : State) (t : Thread) : (s.setTh t).quads = s.quads := rfl
@[simp] theorem modTh_quads (s : State) (h : Thread → Thread) : (s.modTh h).quads = s.quads := rfl
@[simp] theorem setG_quads (s : State) (r : GReg) (x : Word) : (s.setG r x).quads = s.quads := rfl
@[simp] theorem setP_quads (s : State) (r : PReg) (x : Bool) : (s.setP r x).quads = s.quads := rfl
@[simp] theorem setMask_quads (s : State) (k : MReg) (x : BitVec 256) : (s.setMask k x).quads = s.quads := rfl
@[simp] theorem orFlags_quads (s : State) (b : BitVec 6) : (s.orFlags b).quads = s.quads := rfl
@[simp] theorem setVec_quads (s : State) (d : VField) (x : Nat) (t : Tag) : (s.setVec d x t).quads = s.quads := rfl
@[simp] theorem putVec_quads (s : State) (d : VField) (x : Nat) (t : Tag) : (s.putVec d x t).quads = s.quads := rfl
@[simp] theorem setTh_dies (s : State) (t : Thread) : (s.setTh t).dies = s.dies := rfl
@[simp] theorem modTh_dies (s : State) (h : Thread → Thread) : (s.modTh h).dies = s.dies := rfl
@[simp] theorem setG_dies (s : State) (r : GReg) (x : Word) : (s.setG r x).dies = s.dies := rfl
@[simp] theorem setP_dies (s : State) (r : PReg) (x : Bool) : (s.setP r x).dies = s.dies := rfl
@[simp] theorem setMask_dies (s : State) (k : MReg) (x : BitVec 256) : (s.setMask k x).dies = s.dies := rfl
@[simp] theorem orFlags_dies (s : State) (b : BitVec 6) : (s.orFlags b).dies = s.dies := rfl
@[simp] theorem setVec_dies (s : State) (d : VField) (x : Nat) (t : Tag) : (s.setVec d x t).dies = s.dies := rfl
@[simp] theorem putVec_dies (s : State) (d : VField) (x : Nat) (t : Tag) : (s.putVec d x t).dies = s.dies := rfl
@[simp] theorem setTh_modules (s : State) (t : Thread) : (s.setTh t).modules = s.modules := rfl
@[simp] theorem modTh_modules (s : State) (h : Thread → Thread) : (s.modTh h).modules = s.modules := rfl
@[simp] theorem setG_modules (s : State) (r : GReg) (x : Word) : (s.setG r x).modules = s.modules := rfl
@[simp] theorem setP_modules (s : State) (r : PReg) (x : Bool) : (s.setP r x).modules = s.modules := rfl
@[simp] theorem setMask_modules (s : State) (k : MReg) (x : BitVec 256) : (s.setMask k x).modules = s.modules := rfl
@[simp] theorem orFlags_modules (s : State) (b : BitVec 6) : (s.orFlags b).modules = s.modules := rfl
@[simp] theorem setVec_modules (s : State) (d : VField) (x : Nat) (t : Tag) : (s.setVec d x t).modules = s.modules := rfl
@[simp] theorem putVec_modules (s : State) (d : VField) (x : Nat) (t : Tag) : (s.putVec d x t).modules = s.modules := rfl
@[simp] theorem setTh_links (s : State) (t : Thread) : (s.setTh t).links = s.links := rfl
@[simp] theorem modTh_links (s : State) (h : Thread → Thread) : (s.modTh h).links = s.links := rfl
@[simp] theorem setG_links (s : State) (r : GReg) (x : Word) : (s.setG r x).links = s.links := rfl
@[simp] theorem setP_links (s : State) (r : PReg) (x : Bool) : (s.setP r x).links = s.links := rfl
@[simp] theorem setMask_links (s : State) (k : MReg) (x : BitVec 256) : (s.setMask k x).links = s.links := rfl
@[simp] theorem orFlags_links (s : State) (b : BitVec 6) : (s.orFlags b).links = s.links := rfl
@[simp] theorem setVec_links (s : State) (d : VField) (x : Nat) (t : Tag) : (s.setVec d x t).links = s.links := rfl
@[simp] theorem putVec_links (s : State) (d : VField) (x : Nat) (t : Tag) : (s.putVec d x t).links = s.links := rfl
@[simp] theorem setTh_launches (s : State) (t : Thread) : (s.setTh t).launches = s.launches := rfl
@[simp] theorem modTh_launches (s : State) (h : Thread → Thread) : (s.modTh h).launches = s.launches := rfl
@[simp] theorem setG_launches (s : State) (r : GReg) (x : Word) : (s.setG r x).launches = s.launches := rfl
@[simp] theorem setP_launches (s : State) (r : PReg) (x : Bool) : (s.setP r x).launches = s.launches := rfl
@[simp] theorem setMask_launches (s : State) (k : MReg) (x : BitVec 256) : (s.setMask k x).launches = s.launches := rfl
@[simp] theorem orFlags_launches (s : State) (b : BitVec 6) : (s.orFlags b).launches = s.launches := rfl
@[simp] theorem setVec_launches (s : State) (d : VField) (x : Nat) (t : Tag) : (s.setVec d x t).launches = s.launches := rfl
@[simp] theorem putVec_launches (s : State) (d : VField) (x : Nat) (t : Tag) : (s.putVec d x t).launches = s.launches := rfl
@[simp] theorem setTh_heaps (s : State) (t : Thread) : (s.setTh t).heaps = s.heaps := rfl
@[simp] theorem modTh_heaps (s : State) (h : Thread → Thread) : (s.modTh h).heaps = s.heaps := rfl
@[simp] theorem setG_heaps (s : State) (r : GReg) (x : Word) : (s.setG r x).heaps = s.heaps := rfl
@[simp] theorem setP_heaps (s : State) (r : PReg) (x : Bool) : (s.setP r x).heaps = s.heaps := rfl
@[simp] theorem setMask_heaps (s : State) (k : MReg) (x : BitVec 256) : (s.setMask k x).heaps = s.heaps := rfl
@[simp] theorem orFlags_heaps (s : State) (b : BitVec 6) : (s.orFlags b).heaps = s.heaps := rfl
@[simp] theorem setVec_heaps (s : State) (d : VField) (x : Nat) (t : Tag) : (s.setVec d x t).heaps = s.heaps := rfl
@[simp] theorem putVec_heaps (s : State) (d : VField) (x : Nat) (t : Tag) : (s.putVec d x t).heaps = s.heaps := rfl
@[simp] theorem setTh_podObjs (s : State) (t : Thread) : (s.setTh t).podObjs = s.podObjs := rfl
@[simp] theorem modTh_podObjs (s : State) (h : Thread → Thread) : (s.modTh h).podObjs = s.podObjs := rfl
@[simp] theorem setG_podObjs (s : State) (r : GReg) (x : Word) : (s.setG r x).podObjs = s.podObjs := rfl
@[simp] theorem setP_podObjs (s : State) (r : PReg) (x : Bool) : (s.setP r x).podObjs = s.podObjs := rfl
@[simp] theorem setMask_podObjs (s : State) (k : MReg) (x : BitVec 256) : (s.setMask k x).podObjs = s.podObjs := rfl
@[simp] theorem orFlags_podObjs (s : State) (b : BitVec 6) : (s.orFlags b).podObjs = s.podObjs := rfl
@[simp] theorem setVec_podObjs (s : State) (d : VField) (x : Nat) (t : Tag) : (s.setVec d x t).podObjs = s.podObjs := rfl
@[simp] theorem putVec_podObjs (s : State) (d : VField) (x : Nat) (t : Tag) : (s.putVec d x t).podObjs = s.podObjs := rfl
@[simp] theorem setTh_reqs (s : State) (t : Thread) : (s.setTh t).reqs = s.reqs := rfl
@[simp] theorem modTh_reqs (s : State) (h : Thread → Thread) : (s.modTh h).reqs = s.reqs := rfl
@[simp] theorem setG_reqs (s : State) (r : GReg) (x : Word) : (s.setG r x).reqs = s.reqs := rfl
@[simp] theorem setP_reqs (s : State) (r : PReg) (x : Bool) : (s.setP r x).reqs = s.reqs := rfl
@[simp] theorem setMask_reqs (s : State) (k : MReg) (x : BitVec 256) : (s.setMask k x).reqs = s.reqs := rfl
@[simp] theorem orFlags_reqs (s : State) (b : BitVec 6) : (s.orFlags b).reqs = s.reqs := rfl
@[simp] theorem setVec_reqs (s : State) (d : VField) (x : Nat) (t : Tag) : (s.setVec d x t).reqs = s.reqs := rfl
@[simp] theorem putVec_reqs (s : State) (d : VField) (x : Nat) (t : Tag) : (s.putVec d x t).reqs = s.reqs := rfl
@[simp] theorem setTh_lookups (s : State) (t : Thread) : (s.setTh t).lookups = s.lookups := rfl
@[simp] theorem modTh_lookups (s : State) (h : Thread → Thread) : (s.modTh h).lookups = s.lookups := rfl
@[simp] theorem setG_lookups (s : State) (r : GReg) (x : Word) : (s.setG r x).lookups = s.lookups := rfl
@[simp] theorem setP_lookups (s : State) (r : PReg) (x : Bool) : (s.setP r x).lookups = s.lookups := rfl
@[simp] theorem setMask_lookups (s : State) (k : MReg) (x : BitVec 256) : (s.setMask k x).lookups = s.lookups := rfl
@[simp] theorem orFlags_lookups (s : State) (b : BitVec 6) : (s.orFlags b).lookups = s.lookups := rfl
@[simp] theorem setVec_lookups (s : State) (d : VField) (x : Nat) (t : Tag) : (s.setVec d x t).lookups = s.lookups := rfl
@[simp] theorem putVec_lookups (s : State) (d : VField) (x : Nat) (t : Tag) : (s.putVec d x t).lookups = s.lookups := rfl
@[simp] theorem setTh_elisions (s : State) (t : Thread) : (s.setTh t).elisions = s.elisions := rfl
@[simp] theorem modTh_elisions (s : State) (h : Thread → Thread) : (s.modTh h).elisions = s.elisions := rfl
@[simp] theorem setG_elisions (s : State) (r : GReg) (x : Word) : (s.setG r x).elisions = s.elisions := rfl
@[simp] theorem setP_elisions (s : State) (r : PReg) (x : Bool) : (s.setP r x).elisions = s.elisions := rfl
@[simp] theorem setMask_elisions (s : State) (k : MReg) (x : BitVec 256) : (s.setMask k x).elisions = s.elisions := rfl
@[simp] theorem orFlags_elisions (s : State) (b : BitVec 6) : (s.orFlags b).elisions = s.elisions := rfl
@[simp] theorem setVec_elisions (s : State) (d : VField) (x : Nat) (t : Tag) : (s.setVec d x t).elisions = s.elisions := rfl
@[simp] theorem putVec_elisions (s : State) (d : VField) (x : Nat) (t : Tag) : (s.putVec d x t).elisions = s.elisions := rfl
@[simp] theorem setTh_walks (s : State) (t : Thread) : (s.setTh t).walks = s.walks := rfl
@[simp] theorem modTh_walks (s : State) (h : Thread → Thread) : (s.modTh h).walks = s.walks := rfl
@[simp] theorem setG_walks (s : State) (r : GReg) (x : Word) : (s.setG r x).walks = s.walks := rfl
@[simp] theorem setP_walks (s : State) (r : PReg) (x : Bool) : (s.setP r x).walks = s.walks := rfl
@[simp] theorem setMask_walks (s : State) (k : MReg) (x : BitVec 256) : (s.setMask k x).walks = s.walks := rfl
@[simp] theorem orFlags_walks (s : State) (b : BitVec 6) : (s.orFlags b).walks = s.walks := rfl
@[simp] theorem setVec_walks (s : State) (d : VField) (x : Nat) (t : Tag) : (s.setVec d x t).walks = s.walks := rfl
@[simp] theorem putVec_walks (s : State) (d : VField) (x : Nat) (t : Tag) : (s.putVec d x t).walks = s.walks := rfl
@[simp] theorem setTh_saved (s : State) (t : Thread) : (s.setTh t).saved = s.saved := rfl
@[simp] theorem modTh_saved (s : State) (h : Thread → Thread) : (s.modTh h).saved = s.saved := rfl
@[simp] theorem setG_saved (s : State) (r : GReg) (x : Word) : (s.setG r x).saved = s.saved := rfl
@[simp] theorem setP_saved (s : State) (r : PReg) (x : Bool) : (s.setP r x).saved = s.saved := rfl
@[simp] theorem setMask_saved (s : State) (k : MReg) (x : BitVec 256) : (s.setMask k x).saved = s.saved := rfl
@[simp] theorem orFlags_saved (s : State) (b : BitVec 6) : (s.orFlags b).saved = s.saved := rfl
@[simp] theorem setVec_saved (s : State) (d : VField) (x : Nat) (t : Tag) : (s.setVec d x t).saved = s.saved := rfl
@[simp] theorem putVec_saved (s : State) (d : VField) (x : Nat) (t : Tag) : (s.putVec d x t).saved = s.saved := rfl
@[simp] theorem setTh_toHost (s : State) (t : Thread) : (s.setTh t).toHost = s.toHost := rfl
@[simp] theorem modTh_toHost (s : State) (h : Thread → Thread) : (s.modTh h).toHost = s.toHost := rfl
@[simp] theorem setG_toHost (s : State) (r : GReg) (x : Word) : (s.setG r x).toHost = s.toHost := rfl
@[simp] theorem setP_toHost (s : State) (r : PReg) (x : Bool) : (s.setP r x).toHost = s.toHost := rfl
@[simp] theorem setMask_toHost (s : State) (k : MReg) (x : BitVec 256) : (s.setMask k x).toHost = s.toHost := rfl
@[simp] theorem orFlags_toHost (s : State) (b : BitVec 6) : (s.orFlags b).toHost = s.toHost := rfl
@[simp] theorem setVec_toHost (s : State) (d : VField) (x : Nat) (t : Tag) : (s.setVec d x t).toHost = s.toHost := rfl
@[simp] theorem putVec_toHost (s : State) (d : VField) (x : Nat) (t : Tag) : (s.putVec d x t).toHost = s.toHost := rfl
@[simp] theorem setTh_th (s : State) (t : Thread) : (s.setTh t).th = t := by simp [State.setTh, State.th]
@[simp] theorem modTh_th (s : State) (h : Thread → Thread) : (s.modTh h).th = h s.th := by simp [State.modTh, State.th]
@[simp] theorem setG_th (s : State) (r : GReg) (x : Word) : (s.setG r x).th = s.th.setG r x := modTh_th ..
@[simp] theorem setP_th (s : State) (r : PReg) (x : Bool) : (s.setP r x).th = s.th.setP r x := modTh_th ..
@[simp] theorem setTh_thread (s : State) (t : Thread) (k : Nat) : (s.setTh t).thread k = if k = s.cur then t else s.thread k :=
  setThread_thread ..
@[simp] theorem modTh_thread (s : State) (h : Thread → Thread) (k : Nat) :
    (s.modTh h).thread k = if k = s.cur then h s.th else s.thread k := modThread_thread ..

end Sys2Proof.Machine
end

