-- ==== Sys2Proof/Machine/Packets.lean ====
section
/-!
DEFINITION. Sys2Proof/Machine/Packets.lean: the packets of the fabric: kinds, headers and flits (R280).  Where R280 gives a
field no value for a packet (the core of a memory-side unit, the source of an answer) the model's choice is log 28.
-/
namespace Sys2Proof.Machine

/-- The packet kinds, in the order of their codes (R280). -/
inductive PacketKind where
  | request | reply | rowRequest | rowReply | combining | message | resume | control
  deriving DecidableEq, Repr

def PacketKind.code : PacketKind → Nat
  | .request => 0 | .reply => 1 | .rowRequest => 2 | .rowReply => 3
  | .combining => 4 | .message => 5 | .resume => 6 | .control => 7

/-- What the header of a packet says; destination and source as bytes 2–4 and 5–7 hold them. -/
structure Packet where
  kind : PacketKind
  first : Bool := false
  retry : Bool := false
  stream : Nat := 0
  dst : Nat
  src : Nat
  gen : Nat := 0
  payload : Nat := 0
  deriving DecidableEq, Repr

/-- The 16-byte header (R280). -/
def Packet.header (p : Packet) : List Byte :=
  bytesOf 1 (p.kind.code + p.first.toNat * 2 ^ 3 + p.retry.toNat * 2 ^ 4) ++ bytesOf 1 (p.stream % 16)
    ++ bytesOf 3 p.dst ++ bytesOf 3 p.src ++ bytesOf 2 p.gen ++ bytesOf 2 p.payload ++ bytesOf 4 0

/-- The 64-byte flits of a packet: the first holds the header and up to 48 bytes of payload (R280). -/
def Packet.flits (p : Packet) : Nat := (16 + p.payload + 63) / 64

/-- The destination field of a memory-side unit: its module and die, and the number of its pseudo-channel on the die. -/
def unitWord (m pa : Nat) : Nat := m * 2 ^ 12 + dieOfPa pa * 2 ^ 8 + channelOfPa pa % 128

/-- The source field of a core or unit that no thread speaks for. -/
def senderWord (dst : Nat) : Nat := dst * 2 ^ 3

/-! ## Requests, messages and their answers -/

def Req.kind (r : Req) : PacketKind :=
  match r.body with
  | .amo .add .. => .combining
  | .message .. => .message
  | .resume .. => .resume
  | _ => .request

/-- Payload bytes: those of a message, and the data of a request. -/
def Req.payload (r : Req) : Nat :=
  match r.body with
  | .message _ _ p => p.length
  | .write n _ => n
  | .amo op n .. => if op = .cas then 2 * n else n
  | .acc f64 .. => if f64 then 8 else 4
  | .gain .. => 4
  | _ => 0

/-- Where a request goes: to a memory-side unit, to the supervisor of a task's home, or to a core. -/
def State.destination (s : State) (r : Req) : Nat :=
  match r.body with
  | .amo _ _ _ _ _ (some p) => unitWord p.m p.pa
  | .acc _ _ _ p => unitWord p.m p.pa
  | .fold _ p _ => unitWord p.m p.pa
  | .gain l t _ =>
    match s.heaps.get? l with
    | some h => coreWord (superOfDie (h.home t))
    | none => 0
  | _ => coreWord ((s.boundFor r).getD r.src)

/-- The packet of a request, message or resumption. -/
def State.packetOf (s : State) (r : Req) : Packet :=
  { kind := r.kind, first := r.first, retry := r.retry, stream := r.stream.getD 0, dst := s.destination r
    src := threadWord r.tid, gen := r.gen, payload := r.payload }

/-- Bytes of data that the answer to a request carries: a value, and nothing for a completion, a refusal or a fault. -/
def Req.answerBytes (r : Req) : Nat :=
  match r.st, r.body with
  | .replied _, .read n .. => n
  | .replied _, .amo _ n .. => n
  | _, _ => 0

/-- The answer to a request. -/
def State.replyOf (s : State) (r : Req) : Packet :=
  { kind := .reply, dst := coreWord r.src, src := senderWord (s.destination r), gen := r.gen, payload := r.answerBytes }

/-! ## Rows of lookup operations -/

/-- The request for a row: `ROWGET` and `ROWGETW` ask, the others bring the row's data. -/
def LookupOp.rowPacket (l : LookupOp) (r : LookupRow) (home : Nat) : Packet :=
  { kind := if l.writes then .request else .rowRequest, dst := coreWord home, src := threadWord l.tid, gen := r.gen
    payload := if l.writes then tbRb l.desc else 0 }

/-- The answer of a row's home. -/
def LookupOp.rowReply (l : LookupOp) (r : LookupRow) (home : Nat) : Packet :=
  { kind := if l.writes then .reply else .rowReply, dst := coreWord l.core, src := senderWord (coreWord home), gen := r.gen
    payload := match r.st with
      | .read bs => bs.length
      | _ => 0 }

/-! ## Operations of channels -/

/-- An operation packet of a channel, to a core on the channel's stream or to a memory-side unit on none, with the bytes that
it brings (R266). -/
def State.operationPacket (s : State) (core : Nat) (ch : Fin 4) (e : Entry) (dst : Nat) (memory : Bool) (payload : Nat) : Packet :=
  { kind := .request, first := (s.chan core ch).first, stream := if memory then 0 else 12 + ch.val, dst, src := threadWord e.tid
    gen := (s.module (moduleOfCore core)).gen.toNat, payload }

/-! ## Control packets -/

/-- What the fabric's own packets carry: credits, replay requests, the halt tree and the time discipline are used up at each
hop, and management accesses go on by their destination module (R280). -/
inductive ControlUse where
  | credits | replay | halt | time | management
  deriving DecidableEq, Repr

def ControlUse.forwarded : ControlUse → Bool
  | .management => true
  | _ => false

/-- A control packet between the supervisor cores of two dies. -/
def controlPacket (fromDie toDie payload : Nat) : Packet :=
  { kind := .control, dst := coreWord (superOfDie toDie), src := senderWord (coreWord (superOfDie fromDie)), payload }

/-- The packet of a management access to another member of the group, and its answer (R26, R380, R384). -/
def managementPacket (bridge module size : Nat) (write : Bool) : Packet :=
  controlPacket (16 * bridge) (16 * module) (if write then size else 0)

end Sys2Proof.Machine
end

