-- ==== Sys2Proof/Tests/Slice0.lean ====
section
/-!
SUPPORT. Sys2Proof/Tests/Slice0.lean: instructions that are not well formed, which the check refuses; words that decode to the
instructions they stand for; single instructions on values worked out by hand or by the manual; and for every obligation that
has hypotheses a witness that they can be met, for each of its clauses, at the ends of their ranges.
-/
namespace Sys2Proof.Tests
open Sys2Proof Sys2Proof.Machine

section
set_option Elab.async false

/-! ## States of the tests -/

def always : Guard := { p := 0, neg := false }

/-- A team of partition 0 with eight threads. -/
def team0 : Team := { launch := 0, index := 0, threads := 8, part := some 0 }

/-- A thread that issues at 0x10000, with these general registers. -/
def thr (l : List (Nat × Word)) (t : Thread := {}) : Thread :=
  { t with status := .running, pc := 0x10000, g := Vector.ofFn (fun i => (l.lookup i.val).getD 0) }

/-- Module 0 up, all of the pool scratchpad, and a team of partition 0 on core `c` whose thread 0 is this one and is at work. -/
def on (c : Nat) (t : Thread) (k : Core := { partw := 0x100 }) : State :=
  let s := (State.reset.modModule 0 (fun m => { m with state := .ready, powered := true, clocks := true })).modQuad (quadOfCore c)
    (fun q => { q with part := some 0 })
  { ((s.setCore c { k with team := some team0 }).setThread (8 * c) t) with cur := 8 * c }

/-- On lookup core 0. -/
def lcc (l : List (Nat × Word)) (t : Thread := {}) : State := on 0 (thr l t)

/-- On the DCC, core 128, in slot `n` of a bundle. -/
def dcc (n : Nat) (l : List (Nat × Word)) (t : Thread := {}) (k : Core := { partw := 0x100 }) : State :=
  { on 128 (thr l t) k with bundle := some { slot := n, old := thr l t } }

/-- A thread with these short vector registers. -/
def vecs (l : List (Nat × VReg)) (t : Thread := {}) : Thread := { t with v := Vector.ofFn (fun i => (l.lookup i.val).getD {}) }

def executesB (s : State) (m : Meta) : Bool :=
  s.src.status == .running && decide (decodeCheck m s = none) && !stalled m s && decide (badRead m s = none)
    && decide (flipReads m s = []) && s.guardHolds m.guard

theorem runs {s : State} {m : Meta} (h : executesB s m = true) : s.executes m := by
  simpa [executesB, State.executes, and_assoc] using h

/-- Several shapes issue and execute in one state. -/
theorem meets {s : State} {l : List Meta} (h : l.all (executesB s) = true) : ∀ m ∈ l, s.executes m :=
  fun m hm => runs (List.all_eq_true.1 h m hm)

theorem no_pub {v : Vector Word 4} (h : v = Vector.replicate 4 0) : ∀ p ∈ v, p.getLsbD 63 = false := by
  subst h; intro p hp; simp at hp; simp [hp]


/-- The same in several states. -/
theorem meetsAll {qs : List State} {ms : List Meta} (h : qs.all (fun q => ms.all (executesB q)) = true) :
    ∀ q ∈ qs, ∀ m ∈ ms, q.executes m :=
  fun q hq m hm => runs (List.all_eq_true.1 (List.all_eq_true.1 h q hq) m hm)

/-! ### Ill-formed terms, one for each check -/

def illFormed (l : List Instr) : Bool := l.all (fun i => !i.wf)

theorem wf_refuses_guard : illFormed [.add ⟨true, 0⟩ 1 2 3, .br ⟨true, 0⟩ 1, .ldd ⟨true, 0⟩ 1 2 0, .vadd ⟨true, 0⟩ 1 2 3, .drawDw ⟨true, 0⟩ 0 1 2 0 0,
    .mma ⟨true, 0⟩ 0 1 2 3, .mfs ⟨true, 0⟩ 1 0] = true := by decide +kernel

theorem wf_refuses_loop_length : illFormed [.loop always 0 1 0, .loopP always 0 1 0, .loopDw always false 0 0 5] = true := by decide +kernel

theorem wf_refuses_convert_target : illFormed [.cvtRne always 1 2 .none, .cvtRtz always 1 2 .n4, .cvtRup always 1 2 .n4, .cvtRdn always 1 2 .none,
    .cvtSat always 1 2 .n4] = true := by decide +kernel

/-- gB without RE; LAND 6; a slot without LAND; fields of PUB without it; PUB with LAND; SCOPE 6; RCC without RE; LCC without LE;
LAND on a `DRAW`. -/
theorem wf_refuses_transfer : illFormed [.draw always 0 1 2 3, .stow always 0 1 2 3, .draws always 0 1 2 3, .stows always 0 1 2 3] = true ∧
    [0x180000, 0x240000, 0x10000, 0x48000, 0x6000, 0x100, 8].all (fun n => let x := BitVec.ofNat 32 n
      illFormed [.stowDw always 0 1 2 0 x, .drawDw always 0 1 2 0 x, .stowsDw always 0 1 2 0 x, .drawsDw always 0 1 2 0 x]) = true ∧
    illFormed [.drawDw always 0 1 2 0 0x40000, .drawsDw always 0 1 2 0 0x40000] = true := by decide +kernel

/-- A reserved bit, the fields of RE, SCOPE 7, LCC without LE. -/
theorem wf_refuses_row_command : [0x8000, 0x80, 0x7000, 0x8].all (fun n => let x := BitVec.ofNat 32 n
    illFormed [.dzeroDw always 0 1 2 x, .dcopyDw always 0 1 2 3 x]) = true := by decide +kernel

/-- Reserved bits, SCOPE 6, RCC without RE, LCC without LE; RE on `ROWGET`. -/
theorem wf_refuses_gather : [0x400000, 1, 0x6000, 0x100, 0x8].all (fun n => let x := BitVec.ofNat 32 n
      illFormed [.rowgetDw always 0 1 2 3 x, .rowgetwDw always 0 1 2 3 x]) = true ∧
    (Instr.rowgetDw always 0 1 2 3 0x80).wf = false ∧ (Instr.rowgetwDw always 0 1 2 3 0x80).wf = true := by decide +kernel

/-- Reserved bits and LCC without LE; KIND max on `SEGSCAT`. -/
theorem wf_refuses_segment : [0x10000, 2, 0x8].all (fun n => let x := BitVec.ofNat 32 n
      illFormed [.segredDw always 0 1 2 3 x, .segscatDw always 0 1 2 3 x]) = true ∧
    (Instr.segscatDw always 0 1 2 3 0x8000).wf = false ∧ (Instr.segredDw always 0 1 2 3 0x8000).wf = true := by decide +kernel

/-- Reserved bits and streams above 11; a sign extension on a store. -/
theorem wf_refuses_remote : illFormed [.rgetDw always 0 1 2 3 0x80, .rgetDw always 0 1 2 3 0x60, .rstoDw always 0 1 2 3 0x80, .rstoDw always 0 1 2 3 0x60,
      .rstoDw always 0 1 2 3 4, .wldDw always 0 1 2 3 8, .wstDw always 0 1 2 3 8, .wstDw always 0 1 2 3 4] = true ∧
    (Instr.wldDw always 0 1 2 3 4).wf = true := by decide +kernel

/-- Numbers that R324 does not list, and those whose write is a row of its own. -/
theorem wf_refuses_system_register : illFormed [.mfs always 1 0x55, .mfs always 1 0x57, .mfs always 1 0x68, .mfs always 1 0x3FF, .mts always 1 0x55] = true ∧
    [0x0C, 0x1C, 0x1F, 0x3C, 0x43, 0x45, 0x54].all (fun n => !(Instr.mts always 1 (BitVec.ofNat 10 n)).wf && (Instr.mfs always 1 (BitVec.ofNat 10 n)).wf) = true := by
  decide +kernel

/-! ## Decoding

Every instruction's word is put together from the fixed bits and the fields of its row of the opcode table, or, where the row
has none, from the formats of R29, R32, R39 and R47, with a different value in every field; a double form's second word
follows R32. -/

/-- The words decode to the instruction. -/
noncomputable def decodes (c : Nat × Nat × Instr) : Bool :=
  match decode c.1 c.2.1 with
  | .ok j => j == c.2.2
  | .error _ => false

/-- Guard `1010`: p2 must be false (R33). -/
def unlessP2 : Guard := { p := 2, neg := true }

theorem test_decode_major_01_a : ([
    (0x012c7c0a, 0x0, .add unlessP2 5 17 30),
    (0x012c7c1a, 0x0, .sub unlessP2 5 17 30),
    (0x012c7c2a, 0x0, .and unlessP2 5 17 30),
    (0x012c7c3a, 0x0, .or unlessP2 5 17 30),
    (0x012c7c4a, 0x0, .xor unlessP2 5 17 30),
    (0x012c7c5a, 0x0, .andn unlessP2 5 17 30),
    (0x012c7c6a, 0x0, .shl unlessP2 5 17 30),
    (0x012c7c7a, 0x0, .shr unlessP2 5 17 30)] : List (Nat × Nat × Instr)).all decodes = true := by decide +kernel

theorem test_decode_major_01_b : ([
    (0x012c7c8a, 0x0, .sar unlessP2 5 17 30),
    (0x012c7c9a, 0x0, .rol unlessP2 5 17 30),
    (0x012c7caa, 0x0, .mul unlessP2 5 17 30),
    (0x012c7cba, 0x0, .mulh unlessP2 5 17 30),
    (0x012c7cca, 0x0, .mulhz unlessP2 5 17 30),
    (0x012c7cda, 0x0, .div unlessP2 5 17 30),
    (0x012c7cea, 0x0, .divz unlessP2 5 17 30),
    (0x012c7cfa, 0x0, .rem unlessP2 5 17 30)] : List (Nat × Nat × Instr)).all decodes = true := by decide +kernel

theorem test_decode_major_01_c : ([
    (0x012c7d0a, 0x0, .remz unlessP2 5 17 30),
    (0x012c7d1a, 0x0, .min unlessP2 5 17 30),
    (0x012c7d2a, 0x0, .max unlessP2 5 17 30),
    (0x012c7d3a, 0x0, .minz unlessP2 5 17 30),
    (0x012c7d4a, 0x0, .maxz unlessP2 5 17 30),
    (0x012c415a, 0x0, .clz unlessP2 5 17),
    (0x012c416a, 0x0, .ctz unlessP2 5 17),
    (0x012c417a, 0x0, .popc unlessP2 5 17)] : List (Nat × Nat × Instr)).all decodes = true := by decide +kernel

theorem test_decode_major_01_d : ([
    (0x012c418a, 0x0, .sextB unlessP2 5 17),
    (0x012c419a, 0x0, .sextH unlessP2 5 17),
    (0x012c41aa, 0x0, .sextW unlessP2 5 17),
    (0x012c41ba, 0x0, .zextB unlessP2 5 17),
    (0x012c41ca, 0x0, .zextH unlessP2 5 17),
    (0x012c41da, 0x0, .zextW unlessP2 5 17),
    (0x012c7dea, 0x0, .bext unlessP2 5 17 30),
    (0x012c7dfa, 0x0, .bins unlessP2 5 17 30)] : List (Nat × Nat × Instr)).all decodes = true := by decide +kernel

theorem test_decode_major_01_e : ([
    (0x412c41ea, 0x4133, .bextDw unlessP2 5 17 51 65),
    (0x412c41fa, 0x4133, .binsDw unlessP2 5 17 51 65)] : List (Nat × Nat × Instr)).all decodes = true := by decide +kernel

theorem test_decode_major_02 : ([
    (0x022c6a5a, 0x0, .addi unlessP2 5 17 677),
    (0x422c400a, 0x89abcdef, .addiDw unlessP2 5 17 2309737967)] : List (Nat × Nat × Instr)).all decodes = true := by decide +kernel

theorem test_decode_major_03 : ([
    (0x032c6a5a, 0x0, .andi unlessP2 5 17 677),
    (0x432c400a, 0x89abcdef, .andiDw unlessP2 5 17 2309737967)] : List (Nat × Nat × Instr)).all decodes = true := by decide +kernel

theorem test_decode_major_04 : ([
    (0x042c6a5a, 0x0, .ori unlessP2 5 17 677),
    (0x442c400a, 0x89abcdef, .oriDw unlessP2 5 17 2309737967)] : List (Nat × Nat × Instr)).all decodes = true := by decide +kernel

theorem test_decode_major_05 : ([
    (0x052c6a5a, 0x0, .xori unlessP2 5 17 677),
    (0x452c400a, 0x89abcdef, .xoriDw unlessP2 5 17 2309737967)] : List (Nat × Nat × Instr)).all decodes = true := by decide +kernel

theorem test_decode_major_06 : ([
    (0x062c401a, 0x0, .shli unlessP2 5 17 1),
    (0x062c501a, 0x0, .shri unlessP2 5 17 1),
    (0x062c601a, 0x0, .sari unlessP2 5 17 1)] : List (Nat × Nat × Instr)).all decodes = true := by decide +kernel

theorem test_decode_major_07 : ([
    (0x07282a5a, 0x0, .limm unlessP2 5 677),
    (0x07286a5a, 0x0, .limmh unlessP2 5 677),
    (0x0728aa5a, 0x0, .addpc unlessP2 5 677),
    (0x4728000a, 0x89abcdef, .limmDw unlessP2 5 2309737967),
    (0x4728400a, 0x89abcdef, .limmhDw unlessP2 5 2309737967),
    (0x4728800a, 0x89abcdef, .addpcDw unlessP2 5 2309737967)] : List (Nat × Nat × Instr)).all decodes = true := by decide +kernel

theorem test_decode_major_08 : ([
    (0x082c7c2a, 0x0, .cmpCc unlessP2 2 5 17 30)] : List (Nat × Nat × Instr)).all decodes = true := by decide +kernel

theorem test_decode_major_09 : ([
    (0x09ac6a5a, 0x0, .cmpiCcLow unlessP2 2 5 17 677),
    (0x4a6c400a, 0xfffffffe, .cmpiDw unlessP2 5 5 17 4294967294)] : List (Nat × Nat × Instr)).all decodes = true := by decide +kernel

theorem test_decode_major_0a : ([
    (0x0aac6a5a, 0x0, .cmpiCcHigh unlessP2 2 5 17 677)] : List (Nat × Nat × Instr)).all decodes = true := by decide +kernel

theorem test_decode_major_0b : ([
    (0x0b298e0a, 0x0, .pand unlessP2 5 6 7),
    (0x0b298e1a, 0x0, .por unlessP2 5 6 7),
    (0x0b298e2a, 0x0, .pxor unlessP2 5 6 7),
    (0x0b29803a, 0x0, .pnot unlessP2 5 6),
    (0x0b29804a, 0x0, .pmov unlessP2 5 6)] : List (Nat × Nat × Instr)).all decodes = true := by decide +kernel

theorem test_decode_major_0c : ([
    (0x0cabcdea, 0x0, .br unlessP2 703710)] : List (Nat × Nat × Instr)).all decodes = true := by decide +kernel

theorem test_decode_major_0d : ([
    (0x0dabcdea, 0x0, .call unlessP2 703710)] : List (Nat × Nat × Instr)).all decodes = true := by decide +kernel

theorem test_decode_major_0e : ([
    (0x0e04400a, 0x0, .jr unlessP2 17),
    (0x0e00001a, 0x0, .ret unlessP2),
    (0x0e00002a, 0x0, .rot unlessP2),
    (0x0e04403a, 0x0, .stage unlessP2 17),
    (0x0e00004a, 0x0, .nop unlessP2),
    (0x0e000e5a, 0x0, .hint unlessP2 7)] : List (Nat × Nat × Instr)).all decodes = true := by decide +kernel

theorem test_decode_major_0f : ([
    (0x0f0c415a, 0x0, .loop unlessP2 1 17 21),
    (0x0f1c415a, 0x0, .loopP unlessP2 1 17 21),
    (0x4f18015a, 0x80000001, .loopDw unlessP2 true 1 21 2147483649)] : List (Nat × Nat × Instr)).all decodes = true := by decide +kernel

theorem test_decode_major_10_a : ([
    (0x102c42ba, 0x0, .ldb unlessP2 5 17 43),
    (0x102c46ba, 0x0, .ldh unlessP2 5 17 43),
    (0x102c4aba, 0x0, .ldw unlessP2 5 17 43),
    (0x102c4eba, 0x0, .ldd unlessP2 5 17 43),
    (0x102c52ba, 0x0, .ldbz unlessP2 5 17 43),
    (0x102c56ba, 0x0, .ldhz unlessP2 5 17 43),
    (0x102c5aba, 0x0, .ldwz unlessP2 5 17 43),
    (0x102c62ba, 0x0, .stb unlessP2 5 17 43)] : List (Nat × Nat × Instr)).all decodes = true := by decide +kernel

theorem test_decode_major_10_b : ([
    (0x102c66ba, 0x0, .sth unlessP2 5 17 43),
    (0x102c6aba, 0x0, .stw unlessP2 5 17 43),
    (0x102c6eba, 0x0, .std unlessP2 5 17 43),
    (0x502c400a, 0xfffffff8, .ldbDw unlessP2 5 17 4294967288),
    (0x502c440a, 0xfffffff8, .ldhDw unlessP2 5 17 4294967288),
    (0x502c480a, 0xfffffff8, .ldwDw unlessP2 5 17 4294967288),
    (0x502c4c0a, 0xfffffff8, .lddDw unlessP2 5 17 4294967288),
    (0x502c500a, 0xfffffff8, .ldbzDw unlessP2 5 17 4294967288)] : List (Nat × Nat × Instr)).all decodes = true := by decide +kernel

theorem test_decode_major_10_c : ([
    (0x502c540a, 0xfffffff8, .ldhzDw unlessP2 5 17 4294967288),
    (0x502c580a, 0xfffffff8, .ldwzDw unlessP2 5 17 4294967288),
    (0x502c600a, 0xfffffff8, .stbDw unlessP2 5 17 4294967288),
    (0x502c640a, 0xfffffff8, .sthDw unlessP2 5 17 4294967288),
    (0x502c680a, 0xfffffff8, .stwDw unlessP2 5 17 4294967288),
    (0x502c6c0a, 0xfffffff8, .stdDw unlessP2 5 17 4294967288)] : List (Nat × Nat × Instr)).all decodes = true := by decide +kernel

theorem test_decode_major_11 : ([
    (0x114c42ba, 0x0, .vld unlessP2 9 17 43),
    (0x114c46ba, 0x0, .vst unlessP2 9 17 43),
    (0x512c400a, 0xfffffff8, .vldDw unlessP2 5 17 4294967288),
    (0x512c440a, 0xfffffff8, .vstDw unlessP2 5 17 4294967288)] : List (Nat × Nat × Instr)).all decodes = true := by decide +kernel

theorem test_decode_major_12 : ([
    (0x124c7c0a, 0x0, .vlds unlessP2 9 17 30),
    (0x124c7c1a, 0x0, .vsts unlessP2 9 17 30),
    (0x124c5c2a, 0x0, .vgathl unlessP2 9 17 14),
    (0x124c5c3a, 0x0, .vscatl unlessP2 9 17 14)] : List (Nat × Nat × Instr)).all decodes = true := by decide +kernel

theorem test_decode_major_13 : ([
    (0x1304400a, 0x0, .cclean unlessP2 17),
    (0x1304401a, 0x0, .cinv unlessP2 17),
    (0x13047c2a, 0x0, .tlbinv unlessP2 17 30)] : List (Nat × Nat × Instr)).all decodes = true := by decide +kernel

theorem test_decode_major_14 : ([
    (0x1404400a, 0x0, .dclset unlessP2 17),
    (0x142c401a, 0x0, .sylset unlessP2 5 17)] : List (Nat × Nat × Instr)).all decodes = true := by decide +kernel

theorem test_decode_major_15 : ([
    (0x154c42ba, 0x0, .vldd unlessP2 9 17 43),
    (0x154c46ba, 0x0, .vldp unlessP2 9 17 43),
    (0x552c400a, 0xfffffff8, .vlddDw unlessP2 5 17 4294967288),
    (0x552c440a, 0xfffffff8, .vldpDw unlessP2 5 17 4294967288)] : List (Nat × Nat × Instr)).all decodes = true := by decide +kernel

theorem test_decode_major_18_a : ([
    (0x184b5c0a, 0x0, .vadd unlessP2 9 13 14),
    (0x184b5c1a, 0x0, .vsub unlessP2 9 13 14),
    (0x184b5c2a, 0x0, .vmul unlessP2 9 13 14),
    (0x184b5c3a, 0x0, .vmin unlessP2 9 13 14),
    (0x184b5c4a, 0x0, .vmax unlessP2 9 13 14),
    (0x184b405a, 0x0, .vabs unlessP2 9 13),
    (0x184b406a, 0x0, .vneg unlessP2 9 13),
    (0x184b5c7a, 0x0, .vand unlessP2 9 13 14)] : List (Nat × Nat × Instr)).all decodes = true := by decide +kernel

theorem test_decode_major_18_b : ([
    (0x184b5c8a, 0x0, .vor unlessP2 9 13 14),
    (0x184b5c9a, 0x0, .vxor unlessP2 9 13 14),
    (0x184b5caa, 0x0, .vshl unlessP2 9 13 14),
    (0x184b5cba, 0x0, .vshr unlessP2 9 13 14),
    (0x184b5cca, 0x0, .vsar unlessP2 9 13 14),
    (0x184b5cda, 0x0, .vaddS unlessP2 9 13 14),
    (0x184b5cea, 0x0, .vsubS unlessP2 9 13 14),
    (0x184b5d3a, 0x0, .vsel unlessP2 9 13 14 3)] : List (Nat × Nat × Instr)).all decodes = true := by decide +kernel

theorem test_decode_major_19 : ([
    (0x194b5c0a, 0x0, .vfma unlessP2 9 13 14),
    (0x194b5c1a, 0x0, .vfms unlessP2 9 13 14),
    (0x194b5c2a, 0x0, .vnfma unlessP2 9 13 14),
    (0x194b5c3a, 0x0, .vdot unlessP2 9 13 14),
    (0x194b5c4a, 0x0, .vdotf unlessP2 9 13 14)] : List (Nat × Nat × Instr)).all decodes = true := by decide +kernel

theorem test_decode_major_1a : ([
    (0x1a2b5c6a, 0x0, .vcmpCc unlessP2 6 5 13 14)] : List (Nat × Nat × Instr)).all decodes = true := by decide +kernel

theorem test_decode_major_1b_a : ([
    (0x1b4b400a, 0x0, .vredAdd unlessP2 9 13),
    (0x1b4b401a, 0x0, .vredMin unlessP2 9 13),
    (0x1b4b402a, 0x0, .vredMax unlessP2 9 13),
    (0x1b4b403a, 0x0, .vscanAdd unlessP2 9 13),
    (0x1b4b404a, 0x0, .vscanMin unlessP2 9 13),
    (0x1b4b405a, 0x0, .vscanMax unlessP2 9 13),
    (0x1b4b5c6a, 0x0, .vperm unlessP2 9 13 14),
    (0x1b4c407a, 0x0, .vbcast unlessP2 9 17)] : List (Nat × Nat × Instr)).all decodes = true := by decide +kernel

theorem test_decode_major_1b_b : ([
    (0x1b2b7c8a, 0x0, .vext unlessP2 5 13 30),
    (0x1b4c7c9a, 0x0, .vins unlessP2 9 17 30)] : List (Nat × Nat × Instr)).all decodes = true := by decide +kernel

theorem test_decode_major_1c : ([
    (0x1c4b400a, 0x0, .vrcp unlessP2 9 13),
    (0x1c4b401a, 0x0, .vrsq unlessP2 9 13),
    (0x1c4b402a, 0x0, .vexp2 unlessP2 9 13),
    (0x1c4b403a, 0x0, .vlog2 unlessP2 9 13),
    (0x1c4b404a, 0x0, .vtanh unlessP2 9 13),
    (0x1c4b405a, 0x0, .vsigm unlessP2 9 13)] : List (Nat × Nat × Instr)).all decodes = true := by decide +kernel

theorem test_decode_major_1d : ([
    (0x1d00000a, 0x0, .vlong unlessP2),
    (0x1d00001a, 0x0, .vshort unlessP2)] : List (Nat × Nat × Instr)).all decodes = true := by decide +kernel

theorem test_decode_major_20 : ([
    (0x204b5e0a, 0x0, .cvtRne unlessP2 9 13 .f16),
    (0x204b5e1a, 0x0, .cvtRtz unlessP2 9 13 .f16),
    (0x204b5e2a, 0x0, .cvtRup unlessP2 9 13 .f16),
    (0x204b5e3a, 0x0, .cvtRdn unlessP2 9 13 .f16),
    (0x204b5e4a, 0x0, .cvtSat unlessP2 9 13 .f16)] : List (Nat × Nat × Instr)).all decodes = true := by decide +kernel

theorem test_decode_major_21 : ([
    (0x214b5c0a, 0x0, .qn4 unlessP2 9 13 14),
    (0x214b5c1a, 0x0, .dqn4 unlessP2 9 13 14),
    (0x214b5c2a, 0x0, .qscale unlessP2 9 13 14)] : List (Nat × Nat × Instr)).all decodes = true := by decide +kernel

theorem test_decode_major_22 : ([
    (0x22481e0a, 0x0, .tagset unlessP2 9 .f16),
    (0x222b401a, 0x0, .tagget unlessP2 5 13),
    (0x224b402a, 0x0, .fclass unlessP2 9 13)] : List (Nat × Nat × Instr)).all decodes = true := by decide +kernel

theorem test_decode_major_24 : ([
    (0x242c412a, 0x0, .draw unlessP2 9 5 17 0),
    (0x242c413a, 0x0, .stow unlessP2 9 5 17 0),
    (0x642c412a, 0x0, .drawDw unlessP2 9 5 17 0 0),
    (0x642c413a, 0x0, .stowDw unlessP2 9 5 17 0 0)] : List (Nat × Nat × Instr)).all decodes = true := by decide +kernel

theorem test_decode_major_25 : ([
    (0x252c412a, 0x0, .draws unlessP2 9 5 17 0),
    (0x252c413a, 0x0, .stows unlessP2 9 5 17 0),
    (0x652c412a, 0x0, .drawsDw unlessP2 9 5 17 0 0),
    (0x652c413a, 0x0, .stowsDw unlessP2 9 5 17 0 0)] : List (Nat × Nat × Instr)).all decodes = true := by decide +kernel

theorem test_decode_major_26 : ([
    (0x26283d2a, 0x0, .dzero unlessP2 9 5 30),
    (0x262c7d3a, 0x0, .dcopy unlessP2 9 5 17 30),
    (0x66283d2a, 0x0, .dzeroDw unlessP2 9 5 30 0),
    (0x662c7d3a, 0x0, .dcopyDw unlessP2 9 5 17 30 0)] : List (Nat × Nat × Instr)).all decodes = true := by decide +kernel

theorem test_decode_major_27 : ([
    (0x27047c0a, 0x0, .chain unlessP2 17 30),
    (0x2700061a, 0x0, .kick unlessP2 3),
    (0x272c402a, 0x0, .cwait unlessP2 5 17),
    (0x272c403a, 0x0, .cpost unlessP2 5 17),
    (0x270c404a, 0x0, .wpwait unlessP2 1 17),
    (0x270440ca, 0x0, .publish unlessP2 .pod 17)] : List (Nat × Nat × Instr)).all decodes = true := by decide +kernel

theorem test_decode_major_28 : ([
    (0x28047c0a, 0x0, .tblset unlessP2 17 30),
    (0x282c7c1a, 0x0, .idhash unlessP2 5 17 30),
    (0x2804402a, 0x0, .rowwait unlessP2 17),
    (0x28047c3a, 0x0, .rowacc unlessP2 17 30),
    (0x28047c4a, 0x0, .rowset unlessP2 17 30)] : List (Nat × Nat × Instr)).all decodes = true := by decide +kernel

theorem test_decode_major_29 : ([
    (0x292c7d2a, 0x0, .elide unlessP2 9 false 5 17 30),
    (0x292c7d3a, 0x0, .elidem unlessP2 9 false 5 17 30)] : List (Nat × Nat × Instr)).all decodes = true := by decide +kernel

theorem test_decode_major_2a : ([
    (0x2a2c7d2a, 0x0, .rowget unlessP2 9 5 17 30),
    (0x2a2c7d3a, 0x0, .rowgetw unlessP2 9 5 17 30),
    (0x6a2c7d2a, 0x0, .rowgetDw unlessP2 9 5 17 30 0),
    (0x6a2c7d3a, 0x0, .rowgetwDw unlessP2 9 5 17 30 0)] : List (Nat × Nat × Instr)).all decodes = true := by decide +kernel

theorem test_decode_major_2b : ([
    (0x2b2c7d2a, 0x0, .segred unlessP2 9 5 17 30),
    (0x2b2c7d3a, 0x0, .segscat unlessP2 9 5 17 30),
    (0x6b2c7d2a, 0x0, .segredDw unlessP2 9 5 17 30 0),
    (0x6b2c7d3a, 0x0, .segscatDw unlessP2 9 5 17 30 0)] : List (Nat × Nat × Instr)).all decodes = true := by decide +kernel

theorem test_decode_major_2c_a : ([
    (0x2c2c7d2a, 0x0, .amoAddW unlessP2 9 5 17 30),
    (0x2c2c7d3a, 0x0, .amoAddD unlessP2 9 5 17 30),
    (0x6c2c7d3a, 0x0, .amoAddDw unlessP2 9 true 5 17 30),
    (0x6c2c7d3a, 0x1, .amoAnd unlessP2 9 true 5 17 30),
    (0x6c2c7d3a, 0x2, .amoOr unlessP2 9 true 5 17 30),
    (0x6c2c7d3a, 0x3, .amoXor unlessP2 9 true 5 17 30),
    (0x6c2c7d3a, 0x4, .amoMin unlessP2 9 true 5 17 30),
    (0x6c2c7d3a, 0x5, .amoMax unlessP2 9 true 5 17 30)] : List (Nat × Nat × Instr)).all decodes = true := by decide +kernel

theorem test_decode_major_2c_b : ([
    (0x6c2c7d3a, 0x6, .amoMinz unlessP2 9 true 5 17 30),
    (0x6c2c7d3a, 0x7, .amoMaxz unlessP2 9 true 5 17 30),
    (0x6c2c7d3a, 0x8, .amoSwap unlessP2 9 true 5 17 30)] : List (Nat × Nat × Instr)).all decodes = true := by decide +kernel

theorem test_decode_major_2d : ([
    (0x2d2c7d2a, 0x0, .casW unlessP2 9 false 5 17 30),
    (0x2d2c7d3a, 0x0, .casD unlessP2 9 false 5 17 30)] : List (Nat × Nat × Instr)).all decodes = true := by decide +kernel

theorem test_decode_major_2e : ([
    (0x2e047c0a, 0x0, .accF32 unlessP2 17 30),
    (0x2e047c1a, 0x0, .accBf16 unlessP2 17 30),
    (0x2e047c2a, 0x0, .accF64 unlessP2 17 30),
    (0x2e04403a, 0x0, .fold unlessP2 17)] : List (Nat × Nat × Instr)).all decodes = true := by decide +kernel

theorem test_decode_major_2f : ([
    (0x2f2c7d2a, 0x0, .recvred unlessP2 9 false 5 17 30)] : List (Nat × Nat × Instr)).all decodes = true := by decide +kernel

theorem test_decode_major_30 : ([
    (0x3000004a, 0x0, .fence unlessP2 .pod)] : List (Nat × Nat × Instr)).all decodes = true := by decide +kernel

theorem test_decode_major_31 : ([
    (0x3104400a, 0x0, .bjoin unlessP2 17),
    (0x3104401a, 0x0, .barr unlessP2 17),
    (0x3104402a, 0x0, .bwait unlessP2 17),
    (0x3104403a, 0x0, .barrw unlessP2 17),
    (0x31047c4a, 0x0, .bexp unlessP2 17 30),
    (0x312c405a, 0x0, .bmiss unlessP2 5 17)] : List (Nat × Nat × Instr)).all decodes = true := by decide +kernel

theorem test_decode_major_32 : ([
    (0x32047c0a, 0x0, .send unlessP2 17 30),
    (0x32047c1a, 0x0, .sendl unlessP2 17 30),
    (0x322c402a, 0x0, .recv unlessP2 5 17),
    (0x3228003a, 0x0, .rpeek unlessP2 5),
    (0x32047c4a, 0x0, .rqset unlessP2 17 30),
    (0x32047c5a, 0x0, .resume unlessP2 17 30)] : List (Nat × Nat × Instr)).all decodes = true := by decide +kernel

theorem test_decode_major_33 : ([
    (0x332c7d2a, 0x0, .rget unlessP2 9 5 17 30),
    (0x332c7d3a, 0x0, .rsto unlessP2 9 5 17 30),
    (0x732c7d2a, 0x0, .rgetDw unlessP2 9 5 17 30 0),
    (0x732c7d3a, 0x0, .rstoDw unlessP2 9 5 17 30 0)] : List (Nat × Nat × Instr)).all decodes = true := by decide +kernel

theorem test_decode_major_34 : ([
    (0x34047c0a, 0x0, .qpush unlessP2 17 30),
    (0x342c401a, 0x0, .qpop unlessP2 5 17)] : List (Nat × Nat × Instr)).all decodes = true := by decide +kernel

theorem test_decode_major_3d : ([
    (0x3d0443da, 0x0, .wqringWrite unlessP2 1 17),
    (0x3d04406a, 0x0, .mts unlessP2 17 6),
    (0x3d0441da, 0x0, .pubSlotWrite unlessP2 1 17),
    (0x3d0440ca, 0x0, .accrWrite unlessP2 17),
    (0x3d04445a, 0x0, .icinvWrite unlessP2 17),
    (0x3d04454a, 0x0, .asgpartWrite unlessP2 17)] : List (Nat × Nat × Instr)).all decodes = true := by decide +kernel

theorem test_decode_major_36 : ([
    (0x3604400a, 0x0, .exit unlessP2 17),
    (0x3600001a, 0x0, .detach unlessP2),
    (0x3628002a, 0x0, .teamid unlessP2 5),
    (0x3600003a, 0x0, .yield unlessP2)] : List (Nat × Nat × Instr)).all decodes = true := by decide +kernel

theorem test_decode_major_37 : ([
    (0x372c7d2a, 0x0, .wld unlessP2 9 5 17 30),
    (0x372c7d3a, 0x0, .wst unlessP2 9 5 17 30),
    (0x772c7d2a, 0x0, .wldDw unlessP2 9 5 17 30 0),
    (0x772c7d3a, 0x0, .wstDw unlessP2 9 5 17 30 0)] : List (Nat × Nat × Instr)).all decodes = true := by decide +kernel

theorem test_decode_major_38 : ([
    (0x38047c0a, 0x0, .hseed unlessP2 17 30),
    (0x38047c1a, 0x0, .gain unlessP2 17 30),
    (0x3804402a, 0x0, .done unlessP2 17),
    (0x3828003a, 0x0, .resid unlessP2 5),
    (0x3828004a, 0x0, .hpeek unlessP2 5),
    (0x3828005a, 0x0, .hcount unlessP2 5)] : List (Nat × Nat × Instr)).all decodes = true := by decide +kernel

theorem test_decode_major_39 : ([
    (0x392c7d2a, 0x0, .take unlessP2 9 false 5 17 30)] : List (Nat × Nat × Instr)).all decodes = true := by decide +kernel

theorem test_decode_major_3a : ([
    (0x3a047c0a, 0x0, .lexld unlessP2 17 30),
    (0x3a047c1a, 0x0, .mldb unlessP2 17 30),
    (0x3a047c2a, 0x0, .macc unlessP2 17 30),
    (0x3a2c403a, 0x0, .mrd unlessP2 5 17),
    (0x3a047c4a, 0x0, .infl unlessP2 17 30),
    (0x3a04405a, 0x0, .mwait unlessP2 17)] : List (Nat × Nat × Instr)).all decodes = true := by decide +kernel

theorem test_decode_major_3b : ([
    (0x3b2c7d2a, 0x0, .mma unlessP2 9 5 17 30),
    (0x3b2c7d3a, 0x0, .mgath unlessP2 9 5 17 30)] : List (Nat × Nat × Instr)).all decodes = true := by decide +kernel

theorem test_decode_affix : ([
    (0xa114beef, 0x0, .affixI 33 5 0xBEEF),
    (0xa115beef, 0x0, .affixK 33 5 0xBEEF),
    (0xa116beef, 0x0, .affixS 33 5 0xBEEF)] : List (Nat × Nat × Instr)).all decodes = true := by decide +kernel

theorem test_decode_major_3c : ([
    (0x3c28006a, 0x0, .mfs unlessP2 5 6)] : List (Nat × Nat × Instr)).all decodes = true := by decide +kernel

theorem test_decode_major_3e_a : ([
    (0x3e000e0a, 0x0, .trap unlessP2 7),
    (0x3e00001a, 0x0, .rett unlessP2),
    (0x3e00002a, 0x0, .halt unlessP2),
    (0x3e04403a, 0x0, .ctxsvStop unlessP2 17),
    (0x3e04404a, 0x0, .ctxldLoad unlessP2 17),
    (0x3e00005a, 0x0, .brk unlessP2),
    (0x3e28006a, 0x0, .timens unlessP2 5),
    (0x3e04407a, 0x0, .sleep unlessP2 17)] : List (Nat × Nat × Instr)).all decodes = true := by decide +kernel

theorem test_decode_major_3e_b : ([
    (0x3e04408a, 0x0, .sleepm unlessP2 17),
    (0x3e2c409a, 0x0, .perf unlessP2 5 17),
    (0x3e0440aa, 0x0, .trace unlessP2 17)] : List (Nat × Nat × Instr)).all decodes = true := by decide +kernel

/-! ## Witnesses of the obligations' hypotheses -/

/-! ## Witnesses: every statement's hypotheses are met -/

theorem wit_division : ∃ s t u : State, s.executes (metaG 0x01 always [3] [1, 2]) ∧ s.g 2 = 0 ∧ s.bundle = none ∧
    t.executes (metaG 0x01 always [3] [1, 2]) ∧ t.g 2 ≠ 0 ∧
    u.executes (metaG 0x01 always [3] [1, 2]) ∧ u.g 1 = BitVec.intMin 64 ∧ u.g 2 = -1 :=
  ⟨lcc [(1, 7)], lcc [(1, 7), (2, 3)], lcc [(1, 0x8000000000000000), (2, -1)], by
    and_intros <;> first | exact runs (by decide +kernel) | decide +kernel⟩

/-- Position 63 and width 64, the ends of their ranges. -/
theorem wit_bitFields : ∃ s : State, 63 = (s.g 2).toNat % 2 ^ 6 ∧ 64 = (s.g 2).toNat / 2 ^ 8 % 2 ^ 7 ∧
    s.executes (metaG 0x01 always [3] [1, 2]) ∧ s.executes (metaG 0x01 always [3] [3, 1, 2]) ∧
    s.executes (metaG 0x01 always [3] [1] 2) ∧ s.executes (metaG 0x01 always [3] [3, 1] 2) ∧
    fFn 0x41180BE0 = 30 ∧ fB 0x41180BE0 ≠ 0 :=
  ⟨lcc [(1, 7), (2, 0x403F)], by
    and_intros <;> first | exact runs (by decide +kernel) | decide +kernel⟩

theorem wit_scalarArithmetic : ∃ s : State, s.executes (metaG 0x01 always [3] [1, 2]) ∧ s.executes (metaG 0x01 always [3] [1]) :=
  ⟨lcc [(1, 7)], runs (by decide +kernel), runs (by decide +kernel)⟩

theorem wit_immediatesAndConstants : ∃ s : State, (∀ m ∈ [2, 3, 4, 5, 6], ∀ w ∈ [1, 2], s.executes (metaG m always [3] [1] w)) ∧
    (∀ w ∈ [1, 2], s.executes (metaG 0x07 always [3] [] w) ∧ s.executes (metaG 0x07 always [3] [3] w)) :=
  ⟨lcc [(1, 7)], by
    have h : ∀ m ∈ [2, 3, 4, 5, 6], ∀ w ∈ [1, 2], executesB (lcc [(1, 7)]) (metaG m always [3] [1] w) = true := by decide +kernel
    exact fun m hm w hw => runs (h m hm w hw), by
    have h : ∀ w ∈ [1, 2], executesB (lcc [(1, 7)]) (metaG 0x07 always [3] [] w) = true ∧
        executesB (lcc [(1, 7)]) (metaG 0x07 always [3] [3] w) = true := by decide +kernel
    exact fun w hw => ⟨runs (h w hw).1, runs (h w hw).2⟩⟩

theorem wit_comparesAndPredicates : ∃ s : State,
    s.executes { major := 0x08, guard := always, reads := gs [1, 2], writes := ps [3] } ∧
    s.executes { major := 0x09, guard := always, reads := gs [1], writes := ps [3] } ∧
    s.executes { major := 0x0A, guard := always, words := 2, reads := gs [1], writes := ps [3] } ∧
    s.executes { major := 0x0B, guard := always, reads := ps [1, 2], writes := ps [3] } ∧
    s.executes { major := 0x0B, guard := always, reads := ps [1], writes := ps [3] } :=
  ⟨lcc [], by
    and_intros <;> first | exact runs (by decide +kernel) | decide +kernel⟩

/-- A target just past the last canonical address, one that is not a multiple of 4, and one that is. -/
theorem wit_controlFlow : ∃ s t u : State, s.executes { major := 0x0E, guard := always, reads := gs [1] } ∧ (s.g 1).toNat = 2 ^ 57 ∧
    t.executes { major := 0x0E, guard := always, reads := gs [1] } ∧ (t.g 1).toNat < 2 ^ 57 ∧ (t.g 1).toNat % 4 ≠ 0 ∧
    t.kind ≠ .dcc ∧
    u.executes { major := 0x0C, guard := always } ∧ u.executes { major := 0x0D, guard := always, writes := gs [31] } ∧
    u.executes { major := 0x0E, guard := always, reads := gs [31] } ∧ (u.g 31).toNat % 4 = 0 ∧
    u.executes { major := 0x0E, guard := always } ∧ u.executes { major := 0x0E, guard := always, anySlot := true } :=
  ⟨lcc [(1, 0x200000000000000)], lcc [(1, 0x1FFFFFFFFFFFFFF)], lcc [], by
    and_intros <;> first | exact runs (by decide +kernel) | decide +kernel⟩

/-- Counters 0 and 1 active or not, each with its body ending at the next word or elsewhere, and with these executions left. -/
def looping (rem0 rem1 : Word) (beg1 end1 : Word := 0) : State :=
  lcc [] { lccnt := #v[rem0, rem1], lcbeg := #v[0x10001, beg1], lcend := #v[0x10004, end1] }

def endsAt (t : Thread) (n : Fin 2) (seq : Nat) : Bool := t.lcbeg[n].getLsbD 0 && seq == t.lcend[n].toNat / 4 % 2 ^ 55 * 4

/-- The first turns of counter 0, its last with and without counter 1 ending there too, the turn of counter 1 alone and its last, a
handler, and no end; a bundle, and a jump from inside a loop. -/
theorem wit_loops : ∃ s t u x y z h : State, ∃ b : Bundle, s.executes { major := 0x0F, guard := always, reads := gs [1] } ∧
    s.executes { major := 0x0F, guard := always, reads := gs [1], writes := ps [4, 5, 6, 7] ++ loopRegs 0 true } ∧
    s.executes { major := 0x0F, guard := always, words := 2 } ∧ s.bundle = none ∧
    (∀ q ∈ [s, t, u, x, y, z, h], q.th.status = .running ∧ q.bundle = none ∧ q.kind ≠ .dcc ∧ q.th.pc = 0x10000) ∧
    (∀ q ∈ [s, t, u, x, y, z], q.th.hnd = false) ∧ h.th.hnd = true ∧ endsAt h.th 0 0x10004 = true ∧
    endsAt s.th 0 0x10004 = false ∧ endsAt s.th 1 0x10004 = false ∧ endsAt t.th 0 0x10004 = true ∧ t.th.lccnt[0].toNat % 2 ^ 32 = 2 ∧
    endsAt u.th 0 0x10004 = true ∧ u.th.lccnt[0].toNat % 2 ^ 32 = 1 ∧ endsAt u.th 1 0x10004 = false ∧
    endsAt x.th 0 0x10004 = true ∧ x.th.lccnt[0].toNat % 2 ^ 32 = 1 ∧ endsAt x.th 1 0x10004 = true ∧ x.th.lccnt[1].toNat % 2 ^ 32 = 0 ∧
    endsAt y.th 0 0x10004 = false ∧ endsAt y.th 1 0x10004 = true ∧ y.th.lccnt[1].toNat % 2 ^ 32 = 2 ∧
    endsAt z.th 0 0x10004 = false ∧ endsAt z.th 1 0x10004 = true ∧ z.th.lccnt[1].toNat % 2 ^ 32 = 1 ∧
    b.jump = none ∧ b.ends = false ∧ endsAt y.th 1 (b.old.pc + 16).toNat = true :=
  let only1 := fun (rem : Word) => lcc [] { lccnt := #v[0, rem], lcbeg := #v[0, 0xFFF1], lcend := #v[0, 0x10004] }
  ⟨lcc [], looping 2 0, looping 1 0, looping 1 0 0xFFF1 0x10004, only1 2, only1 1,
    { looping 2 0 with threads := [(0, thr [] { hnd := true, lcbeg := #v[0x10001, 0], lcend := #v[0x10004, 0] })] },
    { slot := 0, old := { pc := 0xFFF4 } }, by
    and_intros <;> first | exact runs (by decide +kernel) | decide +kernel⟩

/-- A load of the last eight bytes of the window, of one byte more than it, and of a misaligned word; a store
likewise; an uncorrectable word, read, and stored to in part; and a thread with a store under way. -/
theorem wit_localScalarAccesses : ∃ s t u x y : State,
    (∀ m ∈ [metaG 0x10 always [3] [1], metaG 0x10 always [] [3, 1], metaG 0x10 always [3] [1] 2, metaG 0x10 always [] [3, 1] 2],
      s.executes m) ∧ (∀ p ∈ (s.core s.myCore).pub, p.getLsbD 63 = false) ∧ (∀ m ∈ [metaG 0x10 always [3] [1]], t.executes m) ∧
    (∀ m ∈ [metaG 0x10 always [3] [1]], u.executes m) ∧
    (∀ m ∈ [metaG 0x10 always [3] [1], metaG 0x10 always [] [3, 1]], x.executes m) ∧
    (s.g 1).toNat % poolSize s.kind + 8 = s.accEnd s.myCore ∧ (s.g 1).toNat % 8 = 0 ∧
    s.poolBad s.myCore (s.g 1).toNat 8 = false ∧ s.poolBadStore s.myCore (s.g 1).toNat 8 = false ∧
    s.loadBad (s.g 1).toNat 8 = false ∧ x.loadBad (x.g 1).toNat 8 = true ∧ x.poolBadStore x.myCore (x.g 1).toNat 4 = true ∧
    (x.g 1).toNat + 8 ≤ x.accEnd x.myCore ∧ (x.g 1).toNat % 8 = 0 ∧ y.holdStores = true ∧ y.mem.wf = true ∧ y.th.stores = [] ∧
    s.mem.wf = true ∧ (s.thread s.cur).stores = [] ∧ s.holdStores = false ∧
    t.accEnd t.myCore < (t.g 1).toNat % poolSize t.kind + 8 ∧
    (u.g 1).toNat + 8 ≤ u.accEnd u.myCore ∧ (u.g 1).toNat % 8 ≠ 0 :=
  ⟨lcc [(1, 0xFFFF8)], lcc [(1, 0xFFFF9)], lcc [(1, 0xFFFF4)],
    (lcc [(1, 0x40)]).modCore 0 (fun k => { k with poisoned := [8] }), { lcc [] with holdStores := true }, by
    and_intros <;> first | exact meets (by decide +kernel) | exact no_pub (by decide +kernel) | decide +kernel⟩

/-! ### Vectors and formats -/

def vld1 : Meta := { major := 0x11, guard := always, reads := gs [1], writes := vs [3], vfields := [3] }
def vst1 : Meta := { major := 0x11, guard := always, reads := gs [1] ++ vs [3], vfields := [3] }
def vgather (load : Bool) : Meta :=
  { major := 0x12, guard := always, reads := gs [1] ++ vs [3, 4], writes := if load then vs [3] else [], vfields := [3, 4] }
def vstride (load : Bool) : Meta :=
  { major := 0x12, guard := always, reads := gs [1, 2] ++ vs [3], writes := if load then vs [3] else [], vfields := [3] }

/-- The last 32 bytes of the window, the bytes just past them, and a misaligned vector; strided accesses that fit, one whose
second element does not, and gathers through lanes of bytes. -/
theorem wit_localVectorAccesses : ∃ s t u x : State,
    (∀ m ∈ [vld1, vst1, { vld1 with words := 2 }, { vst1 with words := 2 }, vstride true, vstride false, vgather true, vgather false],
      s.executes m) ∧ (∀ m ∈ [vld1, vst1], t.executes m) ∧ (∀ m ∈ [vld1, vst1], u.executes m) ∧ (∀ m ∈ [vstride true], x.executes m) ∧
    (s.g 1).toNat % poolSize s.kind + 32 = s.accEnd s.myCore ∧ (s.g 1).toNat % 32 = 0 ∧ s.poolBad s.myCore (s.g 1).toNat 32 = false ∧
    s.poolBadStore s.myCore (s.g 1).toNat 32 = false ∧ t.accEnd t.myCore < (t.g 1).toNat % poolSize t.kind + 32 ∧
    (u.g 1).toNat + 32 ≤ u.accEnd u.myCore ∧ (u.g 1).toNat % 32 ≠ 0 ∧
    (s.core s.myCore).poisoned = [] ∧ (s.vec 3).2.width ≠ 4 ∧ (s.vec 4).2.isInt = true ∧ (s.vec 4).2.width ≤ (s.vec 3).2.width ∧
    (∀ i < 8, ((s.g 1 + Word.of i * s.g 2).toNat % poolSize s.kind) % 4 = 0 ∧
      (s.g 1 + Word.of i * s.g 2).toNat % poolSize s.kind + 4 ≤ s.accEnd s.myCore) ∧
    ((List.range 8).map (fun i => (x.g 1 + Word.of i * x.g 2).toNat % poolSize x.kind)).findSome? (fun e => x.checkLocal e 4 4) =
      some { cause := .localRange, addr := 0xFFFFE } :=
  ⟨lcc [(1, 0xFFFE0), (2, 4)] (vecs [(3, { tag := .f32 }), (4, { tag := .z8 })]), lcc [(1, 0xFFFE1)], lcc [(1, 0xFFFC1)],
    lcc [(1, 0xFFFFC), (2, 2)] (vecs [(3, { tag := .f32 })]),
    by
    and_intros <;> first | exact meets (by decide +kernel) | decide +kernel⟩

/-- Equal tags, `Z32` with `IDX`, tags that differ, shifts of one width, and shifts of two. -/
theorem wit_integerLanes : ∃ s t u : State, (∀ q ∈ [s, t, u], ∀ m ∈ [metaV 0x18 always 1 2 3, metaV1 0x18 always 1 2], q.executes m) ∧
    (s.vec 2).2 = .i8 ∧ (s.vec 3).2 = .i8 ∧ (t.vec 2).2 = .z32 ∧ (t.vec 3).2 = .idx ∧
    (u.vec 2).2.isInt = true ∧ ¬((u.vec 2).2 = (u.vec 3).2 ∨ (u.vec 2).2 ∈ [Tag.z32, .idx] ∧ (u.vec 3).2 ∈ [Tag.z32, .idx]) ∧
    ((t.vec 2).2.isInt = true ∧ (t.vec 3).2.isInt = true ∧ (t.vec 3).2.width = (t.vec 2).2.width) ∧
    ¬((u.vec 2).2.isInt = true ∧ (u.vec 3).2.isInt = true ∧ (u.vec 3).2.width = (u.vec 2).2.width) :=
  let s := lcc [] (vecs [(2, { tag := .i8 }), (3, { tag := .i8 })])
  let t := lcc [] (vecs [(2, { tag := .z32 }), (3, { tag := .idx })])
  let u := lcc [] (vecs [(2, { tag := .i8 }), (3, { tag := .i16 })])
  ⟨s, t, u, meetsAll (by decide +kernel), by decide +kernel⟩

def fused : Meta := { metaV 0x19 always 1 2 3 with reads := vs [2, 3, 1] }

/-- Three registers of `F32`; a tag that differs; dot products of bytes into `I32` and of `F8A` into `F32`. -/
theorem wit_floatLanes : ∃ s t u x : State,
    (∀ q ∈ [s, t, u, x], ∀ m ∈ [metaV 0x18 always 1 2 3, metaV1 0x18 always 1 2, fused], q.executes m) ∧
    (s.vec 2).2.float = some f32Fmt ∧ (s.vec 3).2 = (s.vec 2).2 ∧ (s.vec 1).2 = (s.vec 2).2 ∧
    (t.vec 2).2.float = some f32Fmt ∧ (t.vec 3).2 ≠ (t.vec 2).2 ∧
    (u.vec 2).2 = .i8 ∧ (u.vec 3).2 = .z8 ∧ (u.vec 1).2 = .i32 ∧ (x.vec 2).2 = .f8a ∧ (x.vec 3).2 = .f8b ∧ (x.vec 1).2 = .f32 ∧
    (u.vec 1).2 ∉ [Tag.f32] ∧ (x.vec 1).2 ∉ [Tag.i32] ∧
    Tag.f32.float = some f32Fmt ∧ (f32Fmt.val 0x7FC00000).isNan = true ∧ (f32Fmt.val 0).isNan = false ∧
    ((f32Fmt.val 0).cmp (f32Fmt.val 0x3F800000)).1 = true :=
  let s := lcc [] (vecs [(1, { tag := .f32 }), (2, { tag := .f32 }), (3, { tag := .f32 })])
  let t := lcc [] (vecs [(2, { tag := .f32 }), (3, { tag := .f16 })])
  let u := lcc [] (vecs [(1, { tag := .i32 }), (2, { tag := .i8 }), (3, { tag := .z8 })])
  let x := lcc [] (vecs [(1, { tag := .f32 }), (2, { tag := .f8a }), (3, { tag := .f8b })])
  ⟨s, t, u, x, meetsAll (by decide +kernel), by decide +kernel⟩

/-- A long register of a 4-bit format, permutations that can and cannot name every lane, and lane numbers at the end. -/
theorem wit_vectorComparesAndMoves : ∃ s t u : State,
    (∀ q ∈ [s, t, u], ∀ m ∈ ([{ major := 0x1A, guard := always, reads := vs [2, 3], writes := [.m 1], vfields := [2, 3] }, metaV 0x18 always 1 2 3,
      metaV 0x1B always 1 2 3, { metaV 0x18 always 1 2 3 with reads := vs [2, 3] ++ [.m 1] },
      { major := 0x1B, guard := always, reads := gs [1], writes := vs [1], vfields := [1] },
      { major := 0x1B, guard := always, reads := vs [2] ++ gs [2], writes := gs [1], vfields := [2] },
      { major := 0x1B, guard := always, reads := gs [1, 2] ++ vs [1], writes := vs [1], vfields := [1] }] : List Meta), q.executes m) ∧
    (s.vec 2).2 ∉ [Tag.none, .n4] ∧ (s.vec 2).2 = (s.vec 3).2 ∧ (s.vec 2).2.width ≠ 4 ∧ (s.vec 3).2.isInt = true ∧
    s.vecBits / (s.vec 2).2.width ≤ s.vecBits / (s.vec 3).2.width ∧ (s.g 2).toNat < s.vecBits / (s.vec 1).2.width ∧
    t.src.long = true ∧ (t.vec 2).2.width = 4 ∧ (t.vec 3).2 = (t.vec 2).2 ∧ t.vecBits / (t.vec 1).2.width = (t.g 2).toNat ∧
    ¬((u.vec 2).2 ∉ [Tag.none, .n4]) :=
  let s := lcc [(2, 31)] (vecs [(1, { tag := .i8 }), (2, { tag := .i8 }), (3, { tag := .i8 })])
  let t := lcc [(2, 512)] { long := true, w := Vector.ofFn (fun _ => { tag := .i4 }) }
  let u := lcc [] (vecs [(2, { tag := .n4 })])
  ⟨s, t, u, meetsAll (by decide +kernel), by decide +kernel⟩

theorem wit_reductionsAndFunctions : ∃ s t u : State,
    (∀ q ∈ [s, t, u], ∀ m ∈ ([metaV1 0x1B always 1 2, metaV1 0x1C always 1 2, { major := 0x1D, guard := always }] : List Meta), q.executes m) ∧
    (s.vec 2).2 ∉ [Tag.none, .n4] ∧ (s.vec 2).2 = .f64 ∧ (s.vec 2).2.float = some f64Fmt ∧ s.src.long = false ∧
    (t.vec 2).2 = .n4 ∧ t.src.long = true ∧ (u.vec 2).2 = .bf16 ∧
    ((f64Fmt.val 0xBFF0000000000000).cmp (f64Fmt.val 0)).1 = true :=
  let s := lcc [] (vecs [(2, { tag := .f64 })])
  let t := lcc [] { long := true, w := Vector.ofFn (fun _ => { tag := .n4 }) }
  let u := lcc [] (vecs [(2, { tag := .bf16 })])
  ⟨s, t, u, meetsAll (by decide +kernel), by decide +kernel⟩

def longRegs (l : List (Nat × LReg)) : Thread := { long := true, w := Vector.ofFn (fun i => (l.lookup i.val).getD {}) }

/-- Each quantisation instruction with the tags that it takes and with others; and conversions at and past the ends of `I8`. -/
theorem wit_conversions : ∃ s t u x : State,
    (∀ q ∈ [s, x], ∀ m ∈ ([metaV1 0x20 always 1 2, { major := 0x22, guard := always, writes := vs [1], vfields := [1] },
      { major := 0x22, guard := always, reads := vs [2], writes := gs [1], vfields := [2] }, metaV1 0x22 always 1 2] : List Meta), q.executes m) ∧
    (∀ q ∈ [t, u, x], ∀ m ∈ ([metaV 0x21 always 1 2 3, { metaV 0x21 always 1 2 3 with reads := vs [2, 3, 1] }] : List Meta), q.executes m) ∧
    (s.vec 2).2.float = some f32Fmt ∧ (s.vec 2).2 ∉ [Tag.none, .n4] ∧ (x.vec 2).2 = .n4 ∧ (x.vec 2).2.float = none ∧
    (t.vec 2).2 = .f32 ∧ (t.vec 3).2 = .f32 ∧ (u.vec 2).2 = .f32 ∧ (u.vec 3).2 = .z8 ∧ (u.vec 1).2 = .n4 ∧ (x.vec 3).2 = .z8 ∧
    Tag.i8.isInt = true ∧ f32Fmt.val 0x4B000000 = .fin false 8388608 0 ∧ f32Fmt.val 0x7F800000 = .inf false ∧
    f32Fmt.val 0xFFC00000 = .nan true ∧ Tag.i16.isInt = true :=
  let s := lcc [] (vecs [(2, { tag := .f32 })])
  let t := lcc [] (longRegs [(2, { tag := .f32 }), (3, { tag := .f32 })])
  let u := lcc [] (longRegs [(1, { tag := .n4 }), (2, { tag := .f32 }), (3, { tag := .z8 })])
  let x := lcc [] (longRegs [(2, { tag := .n4 }), (3, { tag := .z8 })])
  ⟨s, t, u, x, meetsAll (by decide +kernel),
    meetsAll (by decide +kernel), by decide +kernel⟩

/-- A Declension entry in force. -/
def declared (e : BitVec 128) (l : List (Nat × Word)) : State := lcc l { decl := Vector.replicate 16 e, lccnt := #v[0, 0xF00000000] }

def vldd1 : Meta := { major := 0x15, guard := always, reads := gs [1], writes := vs [3], vfields := [3] }

/-- A table at the end of the window and one past it; entries that load raw bytes, `N4`, scaled `I8`, and Syllable patterns. -/
theorem wit_declension : ∃ s t u x y z : State,
    (∀ q ∈ [s, t, u, x, y, z], ∀ m ∈ [metaG 0x14 always [] [1], vldd1, { vldd1 with words := 2 }], q.executes m) ∧
    (s.g 1).toNat % poolSize s.kind + 256 = s.accEnd s.myCore ∧ (s.g 1).toNat % 32 = 0 ∧
    s.poolBad s.myCore (s.g 1).toNat 256 = false ∧ (s.core s.myCore).poisoned = [] ∧
    (s.loadLocal (s.g 1).toNat 256).1 = 0 ∧
    t.accEnd t.myCore < (t.g 1).toNat % poolSize t.kind + 32 ∧ (u.g 1).toNat + 256 ≤ u.accEnd u.myCore ∧ (u.g 1).toNat % 16 ≠ 0 ∧
    (x.src.decl[min ((x.src.lccnt[1]).toNat / 2 ^ 32) 15]'(by omega)) = 0x100D#128 ∧
    (y.src.decl[min ((y.src.lccnt[1]).toNat / 2 ^ 32) 15]'(by omega)) = 0x12001#128 ∧
    (z.src.decl[min ((z.src.lccnt[1]).toNat / 2 ^ 32) 15]'(by omega)) = 0x21#128 ∧ Machine.tagOf 13 = some .n4 ∧
    Machine.tagOf 1 = some .i8 :=
  let s := declared 0 [(1, 0xFFF00)]
  let t := declared 0 [(1, 0xFFFF0)]
  let u := declared 0 [(1, 0x101)]
  let x := declared 0x100D [(1, 0x100)]
  let y := declared 0x12001 [(1, 0x100)]
  let z := declared 0x21 [(1, 0x100)]
  ⟨s, t, u, x, y, z, meetsAll (by decide +kernel), by decide +kernel⟩

/-! ### Memory, transfers and the fabric -/

/-- A page of DRAM at 0x20000 for virtual page 0x10, with these further bits of its leaf, in the TLB of quad 0. -/
def mapped (bits : Word) (s : State) : State :=
  s.modQuad 0 (fun q => { q with tlb := [{ asid := 0, base := 0x10, size := 12, pte := 0x20001 ||| bits, leaf := 0x1000 }] })

/-- A walk of module 0 for a write, at a level, whose table at 0x3000 holds this entry. -/
def theWalk (level : Nat) : Walk := { id := 5, quad := 0, module := 0, part := some 0, asid := 0, va := 0, level, table := 3, req := 0, write := true }
def walking (level : Nat) (entry : Nat) : State := { (lcc []).setDramNat 0 0x3000 8 entry with walks := [theWalk level] }

/-- Sixteen leaves, a page apart, that make one translation. -/
def group : State := (List.range 16).foldl (fun s i => s.setDramNat 0 (0x3000 + 8 * i) 8 (0x10000 + 0x1000 * i + 0x107)) (walking 1 0)

/-- Virtual page 0x10 names module 1's DRAM, whose ingress translator holds a leaf with these bits. -/
def peer (bits : Word) : State :=
  ((lcc []).setPartition 0 (some 0) { (lcc []).partition 0 (some 0) with remote := [(0x10000, 0x1000, 1)] }).modQuad (ingressQuad 1)
    (fun q => { q with tlb := [{ asid := 0, base := 0x10, size := 12, pte := 0x20001 ||| bits, leaf := 0x1000 }] })

/-- A page that users may write and one of the supervisor alone; a peer's page with PIN and without it; a tolerant page; a walk that
has failed and none; entries that are absent, reserved, a table, a large leaf that is written, a plain leaf and a group. -/
theorem wit_translationAndWalks : ∃ (s t r r' o u x y z v n : State) (e f : TlbEntry) (w : Walk),
    tlbHit (s.quad 0).tlb (s.partition 0 (some 0)).asid 0x10FFF = some e ∧ bit e.pte 1 = true ∧ bit e.pte 2 = true ∧ bit e.pte 3 = true ∧
    tlbHit (t.quad 0).tlb (t.partition 0 (some 0)).asid 0x10000 = some f ∧ bit f.pte 3 = false ∧
    r.homeOf 0 (some 0) 0x10000 = 1 ∧ s.homeOf 0 (some 0) 0x10000 = 0 ∧
    (tlbHit (r.quad (ingressQuad 1)).tlb (r.partition 1 (some 0)).asid 0x10000).any (fun e => bit e.pte 1 && bit e.pte 3 && bit e.pte 9) = true ∧
    (tlbHit (r'.quad (ingressQuad 1)).tlb (r'.partition 1 (some 0)).asid 0x10000).any (fun e => bit e.pte 1 && bit e.pte 3 && !bit e.pte 9) = true ∧
    (tlbHit (o.quad 0).tlb (o.partition 0 (some 0)).asid 0x10004).any (fun e => bit e.pte 10) = true ∧
    (tlbHit (n.quad 0).tlb (n.partition 0 (some 0)).asid 0).isNone = true ∧ n.walks.length = 1 ∧
    tlbHit [{ asid := 0, base := 1, size := 16, pte := 0x2010F, leaf := 0x1000 }] 0 0x1F000 =
      some { asid := 0, base := 1, size := 16, pte := 0x2010F, leaf := 0x1000 } ∧ n.walks.all (fun w => w.failed == some .pageFault) = true ∧
    (tlbHit (u.quad 0).tlb (u.partition 0 (some 0)).asid 0).isNone = true ∧ u.walks.all (fun w => w.failed == none) = true ∧
    (∀ s ∈ [u, x, y, z], s.walks.find? (fun x => x.id == 5 && x.failed.isNone) = some w ∧ (s.module 0).poisoned = [] ∧ s.mem.wf = true) ∧
    u.dramNat 0 0x3000 8 = 0 ∧ x.dramNat 0 0x3000 8 = 2 ^ 63 + 1 ∧ y.dramNat 0 0x3000 8 = 0x4001 ∧
    z.dramNat 0 0x3000 8 = 0x4000008B ∧ w.level = 3 ∧ w.write = true ∧
    (v.walks = [theWalk 1] ∧ v.dramNat 0 0x3000 8 % 2 ^ 9 = 0x107 ∧ v.mem.wf = true ∧
      ctGroup ((List.range 16).map (fun i => Word.of (v.dramNat 0 (0x3000 + 8 * i) 8))) = true) :=
  ⟨mapped 0xE (lcc []), mapped 0x6 (lcc []), peer 0x20A, peer 0xA, mapped 0x40A (lcc []), walking 3 0, walking 3 (2 ^ 63 + 1), walking 3 0x4001,
    walking 3 0x4000008B, group, { walking 3 0 with walks := [{ theWalk 3 with failed := some .pageFault }] },
    { asid := 0, base := 0x10, size := 12, pte := 0x2000F, leaf := 0x1000 },
    { asid := 0, base := 0x10, size := 12, pte := 0x20007, leaf := 0x1000 }, theWalk 3, by decide +kernel⟩

/-- A dirty line of the mapped page in the cache of quad 0, some of whose words are uncorrectable. -/
def theLine (bad : BitVec 8) : CacheLine := { line := 0x800, data := 7, dirty := 1, bad }
def cached (s : State) (bad : BitVec 8 := 0) : State := s.modQuad 0 (fun q => { q with cache := [theLine bad] })

/-- An address with a dirty line, one without, one of another form, a page of memory-side units; an invalidation of one page and of all,
by address or not, with a walk that has failed; a line with an uncorrectable word in its dirty part and one outside it; a page
counter's candidates and none; a pool word and a register with a single-bit error and none; fills from DRAM, with a second quad of
the die that asks for the same line, and from the quad's own cache. -/
theorem wit_cachesAndTlbs : ∃ s t u v : State, ∃ p : Place,
    (∀ q ∈ [s, t], ∀ m ∈ [metaG 0x13 always [] [1]], q.executes m) ∧
    (∀ q ∈ [u, v], ∀ m ∈ [{ metaG 0x13 always [] [1, 2] with priv := true }], q.executes m) ∧
    addrForm (s.g 1) = .dram 0x10000 ∧
    s.translate { req := reqThread s.cur, core := s.myCore, part := s.partOfThread s.cur, va := 0x10000, sup := s.src.sup } s.src.sup .read = .ok p ∧
    bit p.pte 4 = false ∧ bit p.pte 11 = false ∧ p.m = s.myModule ∧ s.cacheLine s.myQuad p.pa = some (theLine 0) ∧ s.mem.wf = true ∧
    (mapped 0xE (lcc [(1, 0x10000)])).cacheLine 0 p.pa = none ∧ 
    (mapped 0x1E (lcc [])).translate { req := 0, core := 0, part := some 0, va := 0x10000 } false .read = .ok { p with pte := 0x2001F } ∧
    addrForm (t.g 1) = .nonCanonical ∧ u.src.granted = false ∧ u.tlbinvBusy u.myModule = false ∧ (u.g 2).getLsbD 12 = true ∧
    (v.g 2).getLsbD 12 = false ∧ addrForm (v.g 1) = .dram 0x10000 ∧ v.src.granted = false ∧ v.tlbinvBusy v.myModule = false ∧
    v.walks.any (fun w => w.failed.isSome) = true ∧ addrForm ((lcc [(1, 1 <<< 63)]).g 1) = .core 0 0 ∧
    (s.quad 0).cache.find? (fun x => x.line == 0x800) = some (theLine 0) ∧ (s.module (moduleOfQuad 0)).poisoned = [] ∧
    (theLine 1).bad.getLsbD 0 = true ∧ (theLine 1).dirty.toNat / 2 ^ 0 % 256 ≠ 0 ∧ (theLine 2).bad.getLsbD 1 = true ∧
    (theLine 2).dirty.toNat / 2 ^ 8 % 256 = 0 :=
  let s := cached (mapped 0xE (lcc [(1, 0x10000)]))
  let u := lcc [(2, 0x3000)] { sup := true }
  let v := { lcc [(1, 0x10000)] { sup := true } with walks := [{ theWalk 3 with failed := some .pageFault }] }
  ⟨s, lcc [(1, 0x200000000000000)], u, v, { pte := 0x2000F, size := 12, off := 0, leaf := 0x1000, m := 0 },
    meetsAll (by decide +kernel), meetsAll (by decide +kernel), by decide +kernel⟩

theorem wit_cachesAndTlbs_events : ∃ s t u x y : State,
    (∀ q ∈ [s, t, u, x, y], q.mem.wf = true ∧ (q.module 0).poisoned = []) ∧
    (s.module 0).hot.getD 0 [] = [(2, 7), (3, 7)] ∧ (t.module 0).hot.getD 0 [] = [] ∧ 5 ∈ (s.core 0).flipped ∧ 5 ∉ (t.core 0).flipped ∧
    (∀ i < 8, s.flippedIn 0 i 5 = []) ∧ (∀ i < 8, t.flippedIn 0 i 5 = []) ∧
    u.th.flipRegs = [.g 3] ∧
    (∀ q ∈ [0, 1], x.heldForFetch q 0x80 = none ∧ ∀ l ∈ (x.quad q).cache, l.dirty = 0) ∧ Instr.fetchMissFill 1 0x80 ∈ x.agenda ∧
    (x.askOf 0 0x80).ms = false ∧ (x.askOf 1 0x80).ms = true ∧
    y.joinedFetch 0 0x800 = [] ∧ (y.askOf 0 0x800).ms = false ∧ y.heldForFetch 0 0x800 = some (theLine 0) ∧
    u.joinedFetch 0 0x80 = [] ∧ (u.askOf 0 0x80).ms = true :=
  let ask := fun (q : Nat) (ms : Bool) (s : State) => s.modQuad q (fun k => { k with asks := [{ line := 0x80, ms, w := false, pin := false }] })
  ⟨((lcc []).modModule 0 (fun k => { k with hot := [(0, [(2, 7), (3, 7)])] })).modCore 0 (fun k => { k with flipped := [5] }), lcc [],
    ask 0 true (lcc [] { flipRegs := [.g 3] }), { ask 0 false (ask 1 true (lcc [])) with agenda := [.fetchMissFill 1 0x80] },
    (cached (lcc [])).modQuad 0 (fun k => { k with asks := [{ line := 0x800, ms := false, w := false, pin := false }] }), by decide +kernel⟩

/-- Sixteen entries in channel 0. -/
def full (s : State) : State :=
  s.modChan s.myCore 0 (fun k => { k with
    queue := List.replicate 16 { tid := 0, kind := .draw, ext := 0, opd := 0, opa := 0, opb := 0 } })

/-- A transfer of the last 64 bytes of the window, one past it, a far address out of range, a full queue; and row commands of
whole KiB, of a length and of an address that are not. -/
theorem wit_transferIssue : ∃ s t u x y z : State,
    (∀ q ∈ [s, t, u, x, y, z], ∀ m ∈ [metaL 0x24 always 0 [] [3, 1, 2], metaL 0x25 always 0 [] [3, 1, 2] 2, metaL 0x26 always 0 [] [3, 1, 2], metaL 0x26 always 0 [] [3, 2]], q.executes m) ∧
    (s.chan s.myCore 0).queue.length < 16 ∧ (s.chan s.myCore 0).running = false ∧ addrForm (s.g 1) = .dram 0x10000 ∧
    (s.g 3).toNat % 2 ^ 32 % poolSize s.kind + (s.g 3).toNat / 2 ^ 32 = s.accEnd s.myCore ∧
    s.blockCheck s.myCore (s.capture .draw 0 (s.g 3) (s.g 1) (s.g 2)) s.src.tdet = none ∧
    t.accEnd t.myCore < (t.g 3).toNat % 2 ^ 32 % poolSize t.kind + (t.g 3).toNat / 2 ^ 32 ∧
    addrForm (u.g 1) = .nonCanonical ∧ 16 ≤ (x.chan x.myCore 0).queue.length ∧
    addrForm (y.g 3) = .dram 0x10000 ∧ addrForm (y.g 1) = .dram 0x20000 ∧ (y.g 2).toNat % 2 ^ 32 % 1024 = 0 ∧
    (z.g 3).toNat % 1024 ≠ 0 ∧ addrForm (z.g 3) = .dram 0x10200 :=
  let s := lcc [(1, 0x10000), (3, 0x40000FFFC0)]
  let t := lcc [(1, 0x10000), (3, 0x41000FFFC0)]
  let u := lcc [(1, 0x200000000000000)]
  let x := full (lcc [])
  let y := lcc [(1, 0x20000), (2, 0x400), (3, 0x10000)]
  let z := lcc [(2, 0x400), (3, 0x10200)]
  ⟨s, t, u, x, y, z, meetsAll (by decide +kernel), by decide +kernel⟩

def drawEntry : Entry := { tid := 0, kind := .draw, ext := 0, opd := 0x4000000000, opa := 0x10000, opb := 0 }

/-- Channel 1 of core 0 holds this. -/
def channel (k : ChannelState) (s : State) : State := s.modChan 0 1 (fun _ => k)

/-- A chain at the last 64 bytes, one past them; an idle channel, one that has a chain; counters reached, by a difference of
2^31 − 1, and not reached, by 2^31; entries that start, alone and beside one that moves its bytes, with WP asked for by none and by
both; an entry that is done, with and without a remote bump; faults, with a bump held and without, on a stream that the target has
refused and not; and a bump that its target accepts and one that it refuses. -/
theorem wit_channels : ∃ s t u x y z w v : State,
    (∀ q ∈ [s, t, u], ∀ m ∈ [metaG 0x27 always [] [1, 2], metaG 0x27 always [] [1], metaG 0x27 always [] []], q.executes m) ∧
    (s.g 1).toNat % 2 ^ 20 + 64 = s.accEnd s.myCore ∧ (s.g 1).toNat % 2 ^ 20 % 64 = 0 ∧ (s.core 0).chans[0].queue = [] ∧
    (s.core 0).chans[0].running = false ∧ (s.core 0).chans[0].chn = false ∧ (s.thread s.cur).stores = [] ∧ s.src.granted = false ∧
    t.accEnd t.myCore < (t.g 1).toNat % 2 ^ 20 + 64 ∧ (t.core 0).chans[1].chn = true ∧
    ((t.core 0).cc[0].toNat + 2 ^ 32 - (t.g 1).toNat % 2 ^ 32) % 2 ^ 32 = 2 ^ 31 - 1 ∧
    ((u.core 0).cc[0].toNat + 2 ^ 32 - (u.g 1).toNat % 2 ^ 32) % 2 ^ 32 = 2 ^ 31 ∧ ¬((u.g 1).toNat ≤ (u.core 0).wp[0].toNat) ∧
    (s.g 1).toNat % 2 ^ 32 ≠ 0 ∧
    (x.chan 0 1).queue = [drawEntry] ∧ (x.chan 0 1).fault = none ∧ (x.chan 0 1).stopping = false ∧
    (y.chan 0 1).queue = [{ drawEntry with started := true, done := 64 }] ∧ drawEntry.len = 64 ∧ (y.quad 0).cache = [] ∧
    drawEntry.bumpsRemote = false ∧ ({ drawEntry with ext := 0x80 } : Entry).bumpsRemote = true ∧
    (w.chan 0 1).queue = [{ drawEntry with started := true }, drawEntry] ∧ drawEntry.streamed = false ∧
    ({ drawEntry with kind := .draws } : Entry).streamed = true ∧ (w.chan 0 1).fault = none ∧ (w.chan 0 1).refuser = none ∧
    (w.thread (w.chan 0 1).owner).alive = true ∧ (v.chan 0 1).refuser = some (some 1) ∧
    (z.chan 0 1).fault = some { cause := .pageFault, sub := 0, addr := 0x10000 } ∧ (z.chan 0 1).held = none ∧
    (v.chan 0 1).fault = some { cause := .remoteFault, sub := 1, addr := 0x10000, bump := true } ∧
    (v.chan 0 1).held = some (0, 3, 0x8000000000000000, 64, false) ∧
    (z.req? 9).map (fun r => (r.body, r.part)) = some (.bump 3 (some (1, 64, false)), some 0) ∧ z.reqs.all z.mayGo = true ∧
    z.reqs.all (fun r => addrForm r.ea == .core 0 0) = true ∧ z.partOfCore 0 = some 0 ∧
    (z.core 0).team.any (fun tm => tm.part == some 0) = true ∧ z.blockedWay 0 0 = none ∧
    (v.req? 9).map (fun r => r.part) = some (some 1) ∧ v.reqs.all v.mayGo = true ∧ v.partOfCore 0 ≠ some 1 :=
  let s := lcc [(1, 0xFFFC0)]
  let t := channel { chn := true } ((lcc [(1, 0xFFFC1)]).modCore 0 (fun k => { k with cc := k.cc.set 0 0x800FFFC0 }))
  let u := (lcc [(1, 0x80000000)])
  let x := channel { queue := [drawEntry] } (lcc [])
  let y := channel { queue := [{ drawEntry with started := true, done := 64 }] } (lcc [])
  let bump : Req := { id := 9, tid := 8, src := 1, part := some 0, ea := 0x8000000000000000, dst := some 0, body := .bump 3 (some (1, 64, false)) }
  let z := { channel { fault := some { cause := .pageFault, sub := 0, addr := 0x10000 } } (lcc []) with reqs := [bump] }
  let w := channel { queue := [{ drawEntry with started := true }, drawEntry] } (lcc [])
  let v := { channel { fault := some { cause := .remoteFault, sub := 1, addr := 0x10000, bump := true }, refuser := some (some 1)
                       held := some (0, 3, 0x8000000000000000, 64, false) } (lcc []) with reqs := [{ bump with part := some 1 }] }
  ⟨s, t, u, x, y, z, w, v, meetsAll (by decide +kernel), by and_intros <;> decide +kernel⟩

/-- A chain whose first entry is a 64-byte `DRAW`, one whose entry waits for a counter that is there and one whose counter is not,
one whose entry fails its checks, and one that ends; a store of the linking thread from before `CHAIN`, and one from after it. -/
theorem wit_channels_chain : ∃ s w n b t : State, ∃ e : Entry, ∃ k : ChannelState,
    (∀ q ∈ [s, w, n, b, t], q.chan 0 1 = k ∧ q.faultDue 0 1 = false ∧ q.poolBad 0 0x1000 64 = false ∧ q.poolBad 0 0x1000 4 = false) ∧
    k.running = true ∧ k.fault = none ∧ k.stopping = false ∧ k.queue = [] ∧ k.cpos = 0x1000 ∧ 0x1040 ≤ s.accEnd 0 ∧
    (∀ q ∈ [s, w, n, b, t], (q.thread (k.reader 0)).stores = []) ∧ kindOfCode (s.poolNat 0 0x1000 4 % 16) = some .draw ∧
    chainExtOk .draw e.ext = true ∧ s.entryCheck 0 e (s.thread 0).tdet = none ∧ s.poolNat 0 0x100C 4 = 0 ∧
    s.poolBytes 0 0x1028 24 = List.replicate 24 0 ∧ e.opd = Word.of (s.poolNat 0 0x1010 8) ∧ e.opa = Word.of (s.poolNat 0 0x1018 8) ∧
    s.poolNat 0 0x1000 4 = 1 ∧ w.poolNat 0 0x1000 4 = 0x11 ∧ n.poolNat 0 0x1000 4 = 0x11 ∧
    ((w.core 0).cc[0].toNat + 2 ^ 32 - w.poolNat 0 0x1008 4) % 2 ^ 32 < 2 ^ 31 ∧
    ¬((n.core 0).cc[0].toNat + 2 ^ 32 - n.poolNat 0 0x1008 4) % 2 ^ 32 < 2 ^ 31 ∧
    (b.entryCheck 0 { e with opd := Word.of (b.poolNat 0 0x1010 8) } (b.thread 0).tdet).isSome = true ∧ t.poolNat 0 0x1000 4 = 0 :=
  let go := fun (flags count len : Nat) =>
    channel { chn := true, running := true, cpos := 0x1000 } (((((lcc []).setPoolNat 0 0x1000 4 (1 + flags)).setPoolNat 0 0x1008 4 count).setPoolNat
      0 0x1010 8 (len * 2 ^ 32)).setPoolNat 0 0x1018 8 0x10000)
  ⟨go 0 0 64, go 16 0 64, go 16 1 64, go 0 0 0x200000, channel { chn := true, running := true, cpos := 0x1000 } (lcc []),
    { tid := 0, kind := .draw, ext := 0, opd := 0x4000000000, opa := 0x10000, opb := 0, chained := true, started := true },
    { chn := true, running := true, cpos := 0x1000 }, by decide +kernel⟩

theorem getD_all {α : Type} {P : α → Prop} {d : α} (hd : P d) : ∀ {t : Tbl α}, (∀ e ∈ t, P e.2) → ∀ k, P (t.getD k d)
  | [], _, _ => hd
  | (j, x) :: t, h, k => by
    unfold Tbl.getD
    split
    · exact h (j, x) (List.mem_cons_self ..)
    · exact getD_all hd (fun e he => h e (List.mem_cons_of_mem _ he)) k

/-- No core of the state has an uncorrectable word or a publish slot in use. -/
theorem clean_cores {s : State} (h : s.cores.all (fun e => decide (e.2.poisoned = [] ∧ e.2.flipped = [] ∧ e.2.pub = Vector.replicate 4 0)) = true)
    (k : Nat) : (s.core k).poisoned = [] ∧ (s.core k).flipped = [] ∧ ∀ p ∈ (s.core k).pub, p.getLsbD 63 = false := by
  have h1 := getD_all (P := fun c : Core => c.poisoned = [] ∧ c.flipped = [] ∧ c.pub = Vector.replicate 4 0) (d := {}) ⟨rfl, rfl, rfl⟩
    (t := s.cores) (fun e he => of_decide_eq_true (List.all_eq_true.1 h e he)) k
  exact ⟨h1.1, h1.2.1, no_pub h1.2.2⟩

theorem clean_modules {s : State} (h : s.modules.all (fun e => decide (e.2.poisoned = [] ∧ e.2.badBuffers = [])) = true) (k : Nat) :
    (s.module k).poisoned = [] ∧ (s.module k).badBuffers = [] :=
  getD_all (P := fun c : Module => c.poisoned = [] ∧ c.badBuffers = []) (d := {}) ⟨rfl, rfl⟩
    (t := s.modules) (fun e he => of_decide_eq_true (List.all_eq_true.1 h e he)) k

/-- Nothing of this state is uncorrectable, and no publish slot is in use. -/
def cleanB (z : State) : Bool := z.cores.all (fun e => decide (e.2.poisoned = [] ∧ e.2.flipped = [] ∧ e.2.pub = Vector.replicate 4 0)) &&
  z.modules.all (fun e => decide (e.2.poisoned = [] ∧ e.2.badBuffers = []))

theorem clean {l : List State} (h : l.all cleanB = true) : ∀ z ∈ l, ∀ k,
    ((z.core k).poisoned = [] ∧ (z.core k).flipped = [] ∧ ∀ p ∈ (z.core k).pub, p.getLsbD 63 = false) ∧
      (z.module k).poisoned = [] ∧ (z.module k).badBuffers = [] := by
  intro z hz k
  have h := List.all_eq_true.1 h z hz
  rw [cleanB, Bool.and_eq_true] at h
  exact ⟨clean_cores h.1 k, clean_modules h.2 k⟩

/-- These states have no links that are down, and memories in their form. -/
def calmB (z : State) : Bool := cleanB z && decide (z.links = []) && z.mem.wf

theorem calm {l : List State} (h : l.all calmB = true) : ∀ z ∈ l, z.links = [] ∧ z.mem.wf = true ∧ ∀ k,
    ((z.core k).poisoned = [] ∧ (z.core k).flipped = [] ∧ ∀ p ∈ (z.core k).pub, p.getLsbD 63 = false) ∧
      (z.module k).poisoned = [] ∧ (z.module k).badBuffers = [] := by
  intro z hz
  have hz' := List.all_eq_true.1 h z hz
  simp only [calmB, Bool.and_eq_true, decide_eq_true_eq] at hz'
  have hc := clean (l := [z]) (by simpa using hz'.1.1)
  exact ⟨hz'.1.2, hz'.2, hc z (by simp)⟩

def stowEntry : Entry := { drawEntry with kind := .stow, started := true }
def zeroEntry : Entry := { tid := 0, kind := .dzero, ext := 0, opd := 0x10000, opa := 0, opb := 0x400, started := true }

/-- A transfer of a line from a DRAM page that the quad's cache may hold, one to a page of memory-side units, ones to a page that the
quad owns and has yet to own, one between two pools, a landing, and a KiB to clear and to copy, before and after its cached lines are
gone. -/
theorem wit_transferMoves : ∃ s t u x y z w v c : State, ∃ p : Place,
    (∀ q ∈ [s, t, u, x, y, z, w, v, c], ∀ k, ((q.core k).poisoned = [] ∧ (q.core k).flipped = [] ∧ ∀ p ∈ (q.core k).pub, p.getLsbD 63 = false) ∧
      (q.module k).poisoned = [] ∧ (q.module k).badBuffers = []) ∧
    [s, t, u, x, y, z, w, v, c].all (fun z => decide (z.mem.wf = true ∧ z.links = [] ∧ (z.chan 0 1).fault = none ∧ (z.chan 0 1).pick = 0 ∧
      (z.chan 0 1).blocked = none ∧ z.faultDue 0 1 = false ∧ z.blockedWay 0 0 = none ∧ z.grain = 64 ∧ (z.core 0).trctl = 0)) = true ∧
    (s.chan 0 1).queue = [{ drawEntry with started := true }] ∧
    s.translate { req := reqChannel 0 1, core := 0, part := some 0, va := 0x10000 } false .read = .ok p ∧
    (s.farRead 0 p 64).toOption.isSome = true ∧
    (t.chan 0 1).queue = [stowEntry] ∧
    t.translate { req := reqChannel 0 1, core := 0, part := some 0, va := 0x10000, write := true } false .write = .ok { p with pte := 0x2001F } ∧
    ({ p with pte := 0x2001F } : Place).memside 0 = true ∧ p.memside 0 = false ∧ p.pa < 2 ^ 42 ∧ p.pa % 64 + 64 ≤ 64 ∧
    stowEntry.land = 0 ∧ stowEntry.pub = false ∧
    (∀ q ∈ [z, w], (q.chan 0 1).queue = [stowEntry] ∧ q.translate { req := reqChannel 0 1, core := 0, part := some 0, va := 0x10000, write := true } false .write = .ok p ∧
      (q.ownership 0 p.pa).memside = 0) ∧
    (z.ownership 0 p.pa).owners = [(0, 0xFFFF, 0)] ∧ (w.ownership 0 p.pa).owners = [] ∧
    (u.chan 0 1).queue = [{ stowEntry with opa := 0x8000000000000040 }] ∧
    u.target 0 (u.partOfThread 0) (.core 0 0x40) = .ok 0 ∧ u.targetRange 0 (.core 0 0x40) 64 = true ∧
    (x.chan 0 1).queue = [{ stowEntry with ext := 0x40000 }] ∧ ({ stowEntry with ext := 0x40000 } : Entry).land = 1 ∧
    x.translate { req := reqChannel 0 1, core := 0, part := some 0, va := 0x10000, write := true } false .write = .ok { p with pte := 0x2005F } ∧
    (x.ownership 0 0x20000).owners = [] ∧ x.cacheLine (quadOfCore 0) 0x20000 = none ∧
    (y.chan 0 1).queue = [zeroEntry] ∧ (v.chan 0 1).queue = [{ zeroEntry with cleared := true }] ∧
    (c.chan 0 1).queue = [{ zeroEntry with kind := .dcopy, cleared := true, opa := 0x10000 }] ∧
    y.translate { req := reqChannel 0 1, core := 0, part := some 0, va := 0x10000, write := true } false .write = .ok p ∧
    zeroEntry.row = true ∧ p.pa % 1024 = 0 ∧ bit p.pte 10 = false ∧ bit p.pte 11 = false ∧ dieOfPa p.pa = 0 ∧ p.m = 0 ∧
    p.pa < 2 ^ 42 ∧ bit ({ p with pte := 0x2005F } : Place).pte 6 = true :=
  let s := channel { queue := [{ drawEntry with started := true }] } (mapped 0xE (lcc []))
  let t := channel { queue := [stowEntry] } (mapped 0x1E (lcc []))
  let u := channel { queue := [{ stowEntry with opa := 0x8000000000000040 }] } (lcc [])
  let x := channel { queue := [{ stowEntry with ext := 0x40000 }] } (mapped 0x5E (lcc []))
  let w := channel { queue := [stowEntry] } (mapped 0xE (lcc []))
  let rows := fun (e : Entry) => channel { queue := [e] } (mapped 0xE (lcc []))
  let y := rows zeroEntry
  let z := w.setOwnership 0 { page := 2, owners := [(0, 0xFFFF, 0)] }
  let v := rows { zeroEntry with cleared := true }
  let c := rows { zeroEntry with kind := .dcopy, cleared := true, opa := 0x10000 }
  by
  refine ⟨s, t, u, x, y, z, w, v, c, { pte := 0x2000F, size := 12, off := 0, leaf := 0x1000, m := 0 }, clean ?_, ?_⟩
  · decide +kernel
  · and_intros <;> decide +kernel

/-- For quad 0: a page of no owner, a sub-page of another quad not yet written and one written, its own, and one of the memory side. -/
theorem wit_transferMoves_ownership : ∃ s t u x y : State,
    (s.ownership 0 0).memside = 0 ∧ (s.ownership 0 0).owners = [] ∧
    (t.ownership 0 0).owners = [(1, 1, 0)] ∧ (t.ownership 0 0).memside.getLsbD 0 = false ∧
    (u.ownership 0 0).owners = [(1, 1, 1)] ∧ (x.ownership 0 0).memside.getLsbD 0 = true ∧ (y.ownership 0 0).owners = [(0, 1, 0)] :=
  let own := fun (o : Ownership) => (lcc []).setOwnership 0 o
  ⟨lcc [], own { page := 0, owners := [(1, 1, 0)] }, own { page := 0, owners := [(1, 1, 1)] }, own { page := 0, memside := 1 },
    own { page := 0, owners := [(0, 1, 0)] }, by decide +kernel⟩

/-- The bytes that an event reads and writes: a whole line; the last of a transfer whose bytes are all carried; four bytes of a source
that ends before the destination's 8 bytes do; and bytes carried that fill up 8. -/
theorem wit_transferMoves_pieces :
    (let f := fun (e : Entry) (src dst : Nat) =>
       let r := e.done + e.carry.length
       let hi := min e.len (r + (64 - (src + r) % 64))
       (hi - r, min (if hi = e.len then hi - e.done else hi - e.done - min (hi - e.done) ((dst + hi) % 8)) (64 - (dst + e.done) % 64))
     f drawEntry 0x10000 0 = (64, 64) ∧ f { drawEntry with done := 60, carry := [1, 2, 3, 4] } 0x10000 0 = (0, 4) ∧
     f { stowEntry with opd := 0x400000003C } 60 0x10000 = (4, 0) ∧
     f { stowEntry with opd := 0x400000003C, carry := [1, 2, 3, 4] } 60 0x10000 = (60, 64)) := by decide +kernel

/-! ### Ordering, messages, remote accesses and lookups -/

def request (b : ReqBody) : Req := { id := 9, tid := 0, src := 0, part := some 0, stream := some 0, ea := 0x8000000000000040, dst := some 0, body := b }
def sent (r : Req) (s : State) : State := { s with reqs := [r], nextId := 10 }

theorem wit_fences : ∃ s t u : State, (∀ q ∈ [s, t, u], ∀ m ∈ [metaG 0x30 always [] [], metaG 0x27 always [] [1]], q.executes m) ∧
    s.src.granted = false ∧ s.reqs.all (fun r => r.tid != s.cur) = true ∧ (s.core s.myCore).pub[0].getLsbD 63 = false ∧
    t.reqs.all (fun r => r.tid == t.cur && t.fenceWaits 0 r) = true ∧ t.reqs ≠ [] ∧
    (u.core u.myCore).pub[0].getLsbD 63 = true ∧ u.reqs = [] ∧ (u.core u.myCore).chans.all (fun k => k.queue.isEmpty) = true :=
  let s := lcc []
  let t := sent (request (.write 8 1)) (lcc [])
  let u := (lcc []).modCore 0 (fun k => { k with pub := k.pub.set 0 (1 <<< 63) })
  ⟨s, t, u, meetsAll (by decide +kernel), by decide +kernel⟩

/-- Object 1 of quad 0, which holds this. -/
def object (c : Conj) (s : State) : State := s.setObj (.quad 0 1) c

/-- A thread that joins and one that leaves; one that is no member, one that has yet to arrive, the last of two and one that has
arrived; a deadline of one byte and of 2^39 − 1; levels 4 and 5; and an object of another partition. -/
theorem wit_barriers : ∃ s t u x y z w : State,
    (∀ q ∈ [s, t, u, x, y, z, w], ∀ m ∈ [metaG 0x31 always [] [1], metaG 0x31 always [] [1, 2], metaG 0x31 always [3] [1]], q.executes m) ∧
    s.objRef s.cur (s.g 1) = .quad 0 1 ∧ s.objAllowed s.cur (.quad 0 1) = true ∧ bit (s.g 1) 15 = false ∧ bit (t.g 1) 15 = true ∧
    memberBit 0 0 = 0 ∧ (s.obj (.quad 0 1)).memb = 0 ∧ s.src.granted = false ∧ s.reqs = [] ∧
    (u.obj (.quad 0 1)).memb = 3 ∧ (u.obj (.quad 0 1)).arrv = 0 ∧ u.src.barrw = [] ∧
    bit (s.g 1) 48 = false ∧ (s.thread s.cur).lastb ≠ some (1, 0) ∧ (y.thread y.cur).lastb = some ((ObjRef.quad 0 1).num, 0) ∧
    (y.obj (.quad 0 1)).phase = 0 ∧ ((ObjRef.quad 0 1).num, y.th.pc) ∉ y.src.barrw ∧
    (x.obj (.quad 0 1)).memb = 3 ∧ (x.obj (.quad 0 1)).arrv = 2 ∧ (y.obj (.quad 0 1)).arrv = 1 ∧
    (s.g 2).toNat = 1 ∧ (x.g 2).toNat = 2 ^ 39 - 1 ∧ (y.g 2).toNat = 2 ^ 39 ∧ (s.obj (.quad 0 1)).bytes - 1 ≤ 0 ∧
    (z.g 1).toNat / 2 ^ 8 % 8 = 5 ∧ (w.g 1).toNat / 2 ^ 8 % 8 = 3 ∧ w.objAllowed w.cur (w.objRef w.cur (w.g 1)) = false :=
  let s := lcc [(1, 1), (2, 1)]
  let t := lcc [(1, 0x8001)]
  let u := object { memb := 3 } (lcc [(1, 1)])
  let x := object { memb := 3, arrv := 2 } (lcc [(1, 1), (2, 0x7FFFFFFFFF)])
  let y := object { memb := 3, arrv := 1 } (lcc [(1, 1), (2, 0x8000000000)] { lastb := some ((ObjRef.quad 0 1).num, 0) })
  let z := lcc [(1, 0x501)]
  let w := lcc [(1, 0x301)]
  ⟨s, t, u, x, y, z, w, meetsAll (by decide +kernel), by decide +kernel⟩

/-- A thread that waits in an instruction. -/
def waiting (w : Wait) (s : State) : State := s.modThread 0 (fun t => { t with status := .waiting, wait := some w })

/-- A member that has yet to arrive, one that has arrived in the phase in progress, before and after it has taken note of it, one whose
phase is over, and a wait that ends with its arrival; bytes for an object that expects none and for one that they overrun, whose
poster is a thread of no team, of a saved team and of a resident one. -/
theorem wit_barriers_events : ∃ s t u x y z w v a : State,
    (∀ q ∈ [s, t, u, x], (q.thread 0).status = .waiting ∧ (q.thread 0).stores = [] ∧ q.reqs = []) ∧
    (s.thread 0).wait = some (.barrier 1 true true none) ∧ (s.obj (.quad 0 1)).arrv = 0 ∧ s.objRef 0 1 = .quad 0 1 ∧
    (t.thread 0).wait = some (.barrier 1 true true none) ∧ (t.obj (.quad 0 1)).arrv = 1 ∧
    (u.thread 0).wait = some (.barrier 1 true true (some 0)) ∧ (u.obj (.quad 0 1)).phase.toNat = 0 ∧
    (x.thread 0).wait = some (.barrier 1 true true (some 0)) ∧ (x.obj (.quad 0 1)).phase.toNat = 1 ∧
    y.waits 0 (.barrier 1 true false none) ∧ (y.as 0).arriveReady 0 1 none = true ∧
    (s.obj (.quad 0 1)).expf = false ∧ (z.obj (.quad 0 1)).expf = true ∧ 0 < min ((z.obj (.quad 0 1)).bytes + 1) (2 ^ 39 - 1) ∧
    (z.obj (.quad 0 1)).posterTeam = none ∧ (z.thread (threadOfMember 0 (z.obj (.quad 0 1)).poster)).alive = true ∧
    (w.obj (.quad 0 1)).posterTeam = some (7, 2) ∧ w.saved.any (fun x => x.launch == 7 && x.index == 2) = true ∧
    (v.obj (.quad 0 1)).posterTeam = some (0, 0) ∧ v.saved = [] ∧
    (v.core 0).team.any (fun x => x.launch == 0 && x.index == 0) = true ∧
    (v.launches.get? 0).bind (fun l => (l.teams[0]?).bind (fun x => x.core)) = some 0 ∧
    (v.thread (threadOfMember 0 (v.obj (.quad 0 1)).poster)).alive = true ∧ (a.obj (.quad 0 1)).bytes + 5 ≤ 0 ∧ (a.obj (.quad 0 1)).expf = true :=
  let at_ := fun (c : Conj) (phase : Option Nat) => waiting (.barrier 1 true true phase) (object c (lcc []))
  let spilt := fun (team : Option (Nat × Nat)) => object { memb := 3, expf := true, posterTeam := team } (lcc [])
  ⟨at_ { memb := 3 } none, at_ { memb := 3, arrv := 1 } none, at_ { memb := 3, arrv := 1 } (some 0), at_ { memb := 3, arrv := 1, phase := 1 } (some 0),
    waiting (.barrier 1 true false none) (object { memb := 3 } (lcc [])), spilt none,
    { spilt (some (7, 2)) with saved := [{ home := 3, launch := 7, index := 2, part := some 0, cc := Vector.replicate 16 0 }] },
    { spilt (some (0, 0)) with 
        launches := [(0, { words := Vector.replicate 16 0, die := 0, addr := 0, part := some 0, supq := false, queue := 0, tRead := 0, heard := [], teams := [{ core := some 0 }] })] },
    object { memb := 3, expf := true, bytes := -5 } (lcc []), by and_intros <;> decide +kernel⟩

/-- A request queue of 1 KiB at 0xF000, which holds one message of 8 bytes in its ring. -/
def queued (used : Word) (s : State) : State :=
  ((s.modCore 0 (fun k => { k with rqcfg := 0x80F000, rqptr := used <<< 32 })).setPoolNat 0 0xF000 8 0x800000000).setPoolNat 0 0xF010 8 7

/-- Destinations of each form; a message of 2048 bytes at the end of the window, one byte longer, and one past the end; rings of
1 KiB and 64 KiB, a misaligned one, one past the scratchpad, one in use, and a size that is none; messages that fit and do not. -/
theorem wit_messages : ∃ s t u x y z w v a : State,
    (∀ q ∈ [s, t, u, x, y, z, w, v, a], ∀ m ∈ [metaG 0x32 always [] [1, 2], metaG 0x32 always [3] [1], metaG 0x32 always [3] []], q.executes m) ∧
    addrForm (s.g 2) = .core 0 0 ∧ (s.g 1).toNat / 2 ^ 32 % 2 ^ 12 = 2048 ∧
    (s.g 1).toNat % 2 ^ 25 % poolSize s.kind + 2048 = s.accEnd s.myCore ∧ s.staged s.myCore + 2048 ≤ 8192 ∧
    (s.thread s.cur).stores = [] ∧ (s.core 0).poisoned = [] ∧ (s.core 0).flipped = [] ∧
    addrForm (t.g 2) = .core 0 12 ∧ (t.g 1).toNat / 2 ^ 32 % 2 ^ 12 = 2049 ∧ addrForm (u.g 2) = .nonCanonical ∧ addrForm (x.g 2) = .dram 0 ∧
    addrForm (y.g 2) = .window 0 0 ∧ y.src.tdet = true ∧
    (z.g 2).toNat = 1024 * 2 ^ 6 ∧ (z.g 1).toNat % 2 ^ 20 % (z.g 2).toNat = 0 ∧
    (z.g 1).toNat % 2 ^ 20 + (z.g 2).toNat ≤ z.scratchEnd z.myCore ∧ (z.core 0).rqUsed ≠ 0 ∧ (s.core 0).rqUsed = 0 ∧
    (w.g 2).toNat = 1024 ∧ (w.g 1).toNat % 2 ^ 20 % 1024 ≠ 0 ∧ (x.g 2).toNat = 0 ∧ (∀ k < 7, (t.g 2).toNat ≠ 1024 * 2 ^ k) ∧
    z.recvReady z.cur = true ∧ (z.headSummary 0).toNat / 2 ^ 32 % 2 ^ 12 = 8 ∧ s.recvReady s.cur = false ∧
    (z.g 1).toNat % poolSize z.kind + 8 ≤ z.accEnd z.myCore ∧ z.mem.wf = true ∧ z.headBad 0 false = none ∧
    (z.core 0).poisoned = [] ∧ (s.reqs.filter (fun r => r.isMessage && r.queued)).length < 1024 ∧
    (v.g 1).toNat / 2 ^ 32 % 2 ^ 12 = 2048 ∧ v.accEnd v.myCore < (v.g 1).toNat % 2 ^ 25 % poolSize v.kind + 2048 ∧
    addrForm (v.g 2) = .core 0 0 ∧ 8192 < v.staged v.myCore + 8 ∧ v.recvReady v.cur = true ∧ v.headBad 0 false = none ∧
    v.accEnd v.myCore < (v.g 1).toNat % poolSize v.kind + 8 ∧ a.recvReady a.cur = true ∧ (a.headBad 0 false).isSome = true ∧
    (a.core 0).rqUsed ≠ 0 :=
  let s := lcc [(1, 0x800000FF800), (2, 0x8000000000000000)]
  let t := lcc [(1, 0x80100000000), (2, 0x800000000000000C)]
  let u := lcc [(2, 0x200000000000000)]
  let x := lcc []
  let y := lcc [(2, 0xC000000000000000)] { tdet := true }
  let z := queued 32 (lcc [(1, 0x10000), (2, 0x10000)])
  let w := lcc [(1, 0x10001), (2, 0x400)]
  let v := sent (request (.message 0 0 (List.replicate 8192 1))) (queued 32 (lcc [(1, 0x800000FFFF9), (2, 0x8000000000000000)]))
  let a := (queued 32 (lcc [(1, 0x10000)])).modCore 0 (fun k => { k with poisoned := [0xF000 / 8] })
  ⟨s, t, u, x, y, z, w, v, a, meetsAll (by decide +kernel), by and_intros <;> decide +kernel⟩

/-- A get at the start of a pool, forms that trap, the 32nd request and the 33rd; a store and a get that arrive in range, a store
that does not, a reply and a refusal. -/
theorem wit_remoteAccesses : ∃ s t u x y z w v a : State,
    (∀ q ∈ [s, t, u, x, y], ∀ m ∈ [metaL 0x33 always 0 [3] [1, 2], metaL 0x33 always 0 [] [3, 1, 2] 2, metaL 0x37 always 0 [3] [1, 2], metaL 0x37 always 0 [] [3, 1, 2] 2], q.executes m) ∧
    addrForm (s.g 1 + s.g 2) = .core 0 0x40 ∧ (s.g 1 + s.g 2).toNat % 8 = 0 ∧ s.remoteCount s.cur = 31 ∧
    addrForm (t.g 1 + t.g 2) = .nonCanonical ∧ addrForm (u.g 1 + u.g 2) = .dram 0 ∧ (x.g 1 + x.g 2).toNat % 8 ≠ 0 ∧
    addrForm (x.g 1 + x.g 2) = .core 0 1 ∧ y.remoteCount y.cur = 32 ∧ addrForm (y.g 1 + y.g 2) = .core 0 0x40 ∧
    z.req? 9 = some (request (.write 8 7)) ∧ z.mayGo (request (.write 8 7)) = true ∧
    z.target 0 (some 0) (addrForm 0x8000000000000040) = .ok 0 ∧ z.targetRange 0 (addrForm 0x8000000000000040) 8 = true ∧
    z.mem.wf = true ∧ (z.core 0).poisoned = [] ∧
    (w.req? 9).map (fun r => r.body) = some (.write 8 7) ∧ w.targetRange 0 (addrForm 0x80000000000FFFF9) 8 = false ∧
    w.reqs.all w.mayGo = true ∧ (v.req? 9).map (fun r => r.st) = some (.replied 7) ∧
    (v.thread 0).outstanding.any (fun o => o.id == 9) = true ∧
    (a.req? 9).map (fun r => r.st) = some (.faulted { cause := .remoteFault }) ∧ (a.thread 0).alive = true :=
  let s := { lcc [(1, 0x8000000000000000), (2, 0x40)] with reqs := List.replicate 31 (request (.write 8 1)) }
  let t := lcc [(1, 0x200000000000000)]
  let u := lcc []
  let x := lcc [(1, 0x8000000000000001)]
  let y := { lcc [(1, 0x8000000000000000), (2, 0x40)] with reqs := List.replicate 32 (request (.write 8 1)) }
  let z := sent (request (.write 8 7)) (lcc [])
  let w := sent { request (.write 8 7) with ea := 0x80000000000FFFF9 } (lcc [])
  let v := (sent { request (.read 8 false 3) with st := .replied 7 } (lcc [])).modThread 0 (fun t => { t with
    outstanding := [{ id := 9, writes := gs [3] }] })
  let a := sent { request (.write 8 7) with st := .faulted { cause := .remoteFault } } (lcc [])
  ⟨s, t, u, x, y, z, w, v, a, meetsAll (by decide +kernel),
    by decide +kernel⟩

/-- `RESUME` of stream 11 and of stream 12, of another partition's core, of a DRAM and a window form and of no form; a frozen stream
with a faulted packet before one that waits, and a stream that is not frozen; messages for a ring with room, a closed queue, a full
ring, a ring smaller than the message, and a stopped team; the flit expected, another, one after a request for replay, the sixteenth
replay and one more, and a link that is down. -/
theorem wit_streamsAndLinks : ∃ s t u x y z w v f : State,
    (∀ q ∈ [s, t], ∀ m ∈ [metaG 0x32 always [] [1, 2]], q.executes m) ∧
    addrForm (s.g 1) = .core 0 0 ∧ (s.g 2).toNat % 16 = 11 ∧ (s.g 2).toNat / 16 % 4 = 2 ∧ s.partOfThread s.cur ≠ none ∧
    s.partOfCore 0 = s.partOfThread s.cur ∧ s.partOfCore 9 ≠ s.partOfThread s.cur ∧ (t.g 2).toNat % 16 = 12 ∧
    addrForm (t.g 1) = .nonCanonical ∧ addrForm (t.g 3) = .dram 0 ∧ addrForm (t.g 4) = .window 0 0 ∧
    (u.req? 8).map (fun r => (r.body, r.dst)) = some (.resume 3 1, some 0) ∧ u.isFrozen 0 3 = true ∧ s.isFrozen 0 3 = false ∧
    ((u.reqs.filter (fun x => x.id != 8 && x.src == 0 && x.stream == some 3 && x.queued)).map (fun x => (x.id, x.isFaulted))) =
      [(9, true), (10, false)] ∧
    x.req? 9 = some (request (.message 0 0 [1])) ∧ x.mayGo (request (.message 0 0 [1])) = true ∧
    x.target 0 (some 0) (addrForm 0x8000000000000040) = .ok 0 ∧ rqEn (x.core 0).rqcfg = true ∧ (x.core 0).rqUsed + 32 ≤ rqSize (x.core 0).rqcfg ∧
    y.req? 9 = some (request (.message 0 0 [1])) ∧ rqEn (y.core 0).rqcfg = false ∧
    rqSize (z.core 0).rqcfg = (z.core 0).rqUsed ∧ rqEn (z.core 0).rqcfg = true ∧ 32 ≤ rqSize (z.core 0).rqcfg ∧
    rqSize (w.core 0).rqcfg < entrySize 2048 ∧ (w.req? 9).map (fun r => r.body) = some (.message 0 0 (List.replicate 2048 1)) ∧
    v.target 0 (some 0) (addrForm 0x8000000000000040) = .retry ∧ v.savedTarget { request (.message 0 0 [1]) with left := true } = none ∧
    v.boundFor { request (.message 0 0 [1]) with left := true } = some 0 ∧ 32 ≤ rqSize (v.core 0).rqcfg ∧
    v.req? 9 = some { request (.message 0 0 [1]) with left := true } ∧ v.mayGo { request (.message 0 0 [1]) with left := true } = true ∧
    (f.link 1).down = false ∧ (f.link 1).expect = 5 ∧ (f.link 1).asked = true ∧ (s.link 1).asked = false ∧ (s.link 1).expect = 0 ∧
    (f.link 1).replays = 15 ∧ (f.link 2).replays = 16 ∧ (f.link 2).down = false ∧ (f.link 3).down = true :=
  let m := request (.message 0 0 [1])
  let fault : TrapInfo := { cause := .remoteFault, origin := 4, unit := 3 }
  let u := { (lcc []).modCore 0 (fun k => { k with frozen := 8 }) with
    reqs := [{ request (.resume 3 1) with id := 8 }, { m with stream := some 3, st := .faulted fault }, { m with id := 10, stream := some 3 }] }
  ⟨lcc [(1, 0x8000000000000000), (2, 0x2B)], lcc [(1, 0x200000000000000), (2, 0xC), (4, 0xC000000000000000)], u, sent m (queued 0 (lcc [])),
    sent m (lcc []), sent m (queued 0x400 (lcc [])), sent (request (.message 0 0 (List.replicate 2048 1))) (queued 0 (lcc [])),
    sent { m with left := true } ((queued 0 (lcc [])).modCore 0 (fun k => { k with team := some { team0 with status := .stopped } })),
    (((lcc []).setLink 1 { expect := 5, asked := true, replays := 15 }).setLink 2 { replays := 16 }).setLink 3 { down := true },
    meetsAll (by decide +kernel), by and_intros <;> decide +kernel⟩

/-- FIFO 0 of quad 0. -/
def fifo0 (f : Fifo) (s : State) : State := s.setFifo 0 0 f

/-- A FIFO of 31 records and of 32, an empty ring of none, a record to pop, one still in the ring; rings aligned and not. -/
theorem wit_workQueues : ∃ s t u x : State,
    (∀ q ∈ [s, t, u], ∀ m ∈ [metaG 0x34 always [] [1, 2], metaG 0x34 always [3] [1]], q.executes m) ∧
    (∀ m ∈ [metaMts always 1 0x3C x], x.executes m) ∧
    (s.g 1).toNat % poolSize s.kind + 32 ≤ s.accEnd s.myCore ∧ (s.g 1).toNat % poolSize s.kind % 32 = 0 ∧ (s.thread s.cur).stores = [] ∧
    (s.fifo 0 0).rcnt = 0 ∧ (s.fifo 0 0).recs.length = 31 ∧ (t.fifo 0 0).recs.length = 32 ∧ (t.fifo 0 0).cap ≤ (t.fifo 0 0).rcnt ∧
    (u.fifo 0 0).recs = [] ∧ (u.fifo 0 0).rcnt = 1 ∧ (x.fifo 0 0).recs = [] ∧ (x.fifo 0 0).rcnt = 0 ∧ u.popWaiters 0 0 = none ∧
    (u.ringPlace 0 ((coresOfQuad 0).headD 0) (reqFifo 0 0) ((u.fifo 0 0).slot ((u.fifo 0 0).tail - (u.fifo 0 0).rcnt)) .read).isLeft = true ∧
    (x.g 1).toNat / 2 ^ 12 % 2 ^ 45 * 2 ^ 12 % (max 4096 (32 * 2 ^ 5)) = 0 ∧ (x.g 1).toNat % 2 ^ 4 = 1 :=
  let s := fifo0 { recs := List.replicate 31 7 } (lcc [(1, 0xFFE0)])
  let t := fifo0 { recs := List.replicate 32 7 } (lcc [(1, 0xFFE0)])
  let u := fifo0 { ring := 0x10001, tail := 1, rcnt := 1 } (mapped 0xE (lcc [(1, 0xFFE0)]))
  let x := lcc [(1, 0x10001)] { sup := true }
  ⟨s, t, u, x, meetsAll (by decide +kernel), meets (by decide +kernel), by decide +kernel⟩

/-- The descriptor of a table of 16 rows of 32 bytes of F32, with this many accumulator slots, at home on core 0. -/
def table (slots : Nat) : BitVec 512 :=
  BitVec.ofNat 512 (2 ^ 319 + 2 ^ 296 + slots * 2 ^ 288 + 16 * 2 ^ 272 + 2 ^ 236 + 16 * 2 ^ 160 + 2 ^ 128 + 0x40000 * 2 ^ 64 + 0x10000)

/-- Slot `n` of the directory of die 0 holds this. -/
def slotHolds (n : Nat) (e : TableSlot) (s : State) : State := s.modDie 0 (fun k => { k with directory := k.directory.put n e })

/-- On lookup core 0, whose accumulator window is the last quarter of its pool, and the directory's slot 0 in use. -/
def looking (slots : Nat) (l : List (Nat × Word)) : State :=
  slotHolds 0 { desc := table slots, owner := some 0 } (on 0 (thr l) { partw := 0x80C0 })

/-- Images that end a window, one past it, one misaligned, one for a slot of another partition and one that is not in order; a
unit that is full; operations of 4096 rows and of one; a gather to another core, one to no table; and none open, or one. -/
theorem wit_lookupIssue : ∃ s t u x y z w v a b c : State,
    (∀ q ∈ [s, t, u, x, y, z], ∀ m ∈ [metaG 0x28 always [] [1, 2], metaG 0x28 always [3] [1, 2]], q.executes m) ∧
    (∀ q ∈ [w, v, a, b, c], ∀ m ∈ [metaG 0x28 always [] [1], metaG 0x28 always [] [1, 2], metaL 0x2A always 0 [] [3, 1, 2] 1,
      metaL 0x2A always 0 [] [3, 1, 2] 2, metaL 0x2B always 0 [] [3, 1, 2] 1, metaL 0x2B always 0 [] [3, 1, 2] 2], q.executes m) ∧
    (∀ q ∈ [s, t, u, x, y, z, w, v, a, b, c], (q.thread q.cur).stores = [] ∧ (q.core q.myCore).poisoned = [] ∧ (q.core q.myCore).flipped = []) ∧
    (s.g 2).toNat % 2 ^ 20 + 64 = s.accEnd s.myCore ∧ s.src.granted = false ∧ y.src.granted = true ∧ (y.g 2).toNat = 0 ∧
    t.accEnd t.myCore < (t.g 2).toNat % 2 ^ 20 + 64 ∧ (u.g 2).toNat % 2 ^ 20 % 64 ≠ 0 ∧
    ((x.die x.myDie).directory.get? 0).map (fun e => e.owner) = some (some 5) ∧ x.partOfThread x.cur = some 0 ∧ (x.g 1).toNat % 2 ^ 6 = 0 ∧
    z.poolNat z.myCore 0x1000 64 = 2 ^ 319 ∧ tableOk (BitVec.ofNat 512 (2 ^ 319)) = false ∧ tableOk (table 1) = true ∧
    w.lookups.countP (fun l => l.core == w.myCore) = 16 ∧ v.lookups = [] ∧ v.table 1 = none ∧ v.table 0 = some (table 1) ∧
    (v.g 1).toNat = 4096 * 2 ^ 32 ∧ (v.g 3).toNat % 2 ^ 20 = 0x20000 ∧
    0x20000 + 4095 * tbRb (table 1) + tbRb (table 1) ≤ v.accEnd v.myCore ∧ addrForm (a.g 3) = .core 0 0 ∧
    (b.g 1).toNat = 0x10002000 ∧ (b.g 2).toNat = 2 ^ 32 ∧ 1 ≤ tbSlots (table 1) ∧
    (c.g 3).toNat = 2 ^ 32 + 0xC0000 ∧ (c.g 1).toNat = 2 ^ 32 * 32 ∧ c.scratchEnd c.myCore = 0xC0000 ∧ c.accEnd c.myCore = 2 ^ 20 ∧
    0xC0000 + 4 * tbElems (table 1) ≤ c.accEnd c.myCore ∧ (w.g 1).toNat = 0 ∧ w.lookups.countP (fun l => l.tid == w.cur) = 16 := by
  let op : LookupOp := { id := 1, tid := 0, core := 0, kind := .store 0, desc := table 1 }
  let s := lcc [(1, 5), (2, 0xFFFC0)]
  let t := lcc [(1, 5), (2, 0xFFFC1)]
  let u := lcc [(1, 5), (2, 1)]
  let x := slotHolds 0 { desc := 0, owner := some 5 } (lcc [])
  let y := lcc [(1, 5)] { granted := true }
  let z := (lcc [(1, 5), (2, 0x1000)]).setPoolNat 0 0x1000 64 (2 ^ 319)
  let w := { looking 1 [] with lookups := List.replicate 16 op }
  let v := looking 1 [(1, 0x100000000000), (3, 0x20000)]
  let a := looking 1 [(3, 0x8000000000000000)]
  let b := looking 1 [(1, 0x10002000), (2, 0x100000000)]
  let c := looking 1 [(3, 0x1000C0000), (1, 0x2000000000)]
  exact ⟨s, t, u, x, y, z, w, v, a, b, c, meetsAll (by decide +kernel), meetsAll (by decide +kernel), by decide +kernel⟩

/-- A misaligned set, too many identifiers, lists that leave the window, a misaligned list, and lists of one identifier that end
it; a set that is empty and one that is full; and an operation under way on a core that holds a set. -/
theorem wit_elision : ∃ s t u x y z w : State, ∃ e : Elision,
    (∀ q ∈ [s, t, u, x, y, z], ∀ m ∈ [metaL 0x29 always 0 [3] [3, 1, 2], metaL 0x29 always 0 [3] [3, 1, 2] 2], q.executes m) ∧
    (s.g 3).toNat % 2 ^ 20 % 4 ≠ 0 ∧ (t.g 1).toNat / 2 ^ 32 = 4097 ∧ (t.g 3).toNat = 0 ∧
    (u.g 1).toNat / 2 ^ 32 = 1 ∧ u.accEnd u.myCore < (u.g 3).toNat % 2 ^ 20 + 4 ∧ (u.g 3).toNat % 4 = 0 ∧
    (x.g 1).toNat / 2 ^ 32 = 4096 ∧ x.accEnd x.myCore < (x.g 1).toNat % 2 ^ 20 + 4 * 4096 ∧ (x.g 3).toNat = 0 ∧
    (y.g 1).toNat = 2 ^ 32 + 2 ∧ (y.g 3).toNat = 0 ∧
    (z.g 3).toNat % 2 ^ 20 + 4 = z.accEnd z.myCore ∧ (z.g 1).toNat = 2 ^ 32 + 0xFFFFC ∧ (z.g 2).toNat % 2 ^ 20 + 2 = z.accEnd z.myCore ∧
    w.elisions = [e] ∧ e.merge = true ∧ e.n = 4096 ∧ (w.core e.core).elision = [7] ∧ (w.core e.core).poisoned = [] ∧
    (w.core e.core).flipped = [] ∧ e.core = coreOfThread e.tid ∧ (w.thread e.tid).outstanding.any (fun o => o.id == e.id) = true :=
  let e : Elision := { id := 9, tid := 0, core := 0, merge := true, n := 4096, list := 0, out := 0x8000, inv := 0xC000, d := 3 }
  ⟨lcc [(3, 1)], lcc [(1, 0x100100000000)], on 0 (thr [(1, 0x100000000), (3, 0xFFF00)]) { partw := 0xFF },
    lcc [(1, 0x1000000FFFFC)], lcc [(1, 0x100000002)], lcc [(1, 0x1000FFFFC), (2, 0xFFFFE), (3, 0xFFFFC)],
    ({ lcc [] with elisions := [e] }.modCore 0 (fun k => { k with elision := [7] })).modThread 0 (fun t => { t with outstanding := [{ id := 9, writes := gs [3] }] }),
    e, meetsAll (by decide +kernel), by and_intros <;> decide +kernel⟩

/-- A list of 7, 9 and 7 merged into the set that holds 7, whose outputs it does not meet, and a set that is full. -/
theorem wit_elision_loop : ∃ s t : State, ∃ e : Elision, ((s.core e.core).elision.length ≤ 4096 ∧ (s.core e.core).elision.Nodup) ∧
    e.merge = true ∧ e.core = coreOfThread e.tid ∧ s.mem.wf = true ∧ (∀ p ∈ (s.core e.core).pub, p.getLsbD 63 = false) ∧
    (s.thread e.tid).stores = [] ∧ e.list + 4 * e.n ≤ e.out ∧ e.list + 4 * e.n ≤ e.inv ∧ e.out + 4 * e.n ≤ e.inv ∧
    (List.range e.n).map (fun i => BitVec.ofNat 32 (s.poolNat e.core (e.list + 4 * i) 4)) = [7, 9, 7] ∧
    (s.elide e).2 = { new := 1 } ∧ (t.core e.core).elision.length = 4096 ∧ 0 < (t.elide { e with n := 1 }).2.ovf :=
  let e : Elision := { id := 9, tid := 0, core := 0, merge := true, n := 3, list := 0, out := 0x8000, inv := 0xC000, d := 3 }
  ⟨((((lcc []).setPoolNat 0 0 4 7).setPoolNat 0 4 4 9).setPoolNat 0 8 4 7).modCore 0 (fun k => { k with elision := [7] }),
    (lcc []).modCore 0 (fun k => { k with elision := (List.range 4096).map (fun i => BitVec.ofNat 32 (i + 1)) }), e,
    by and_intros <;> first | exact no_pub (by decide +kernel) | decide +kernel⟩

/-- An operation of this kind over rows in these states, alone in its unit. -/
def operates (slots : Nat) (k : LookupKind) (started : Bool) (rows : List LookupRow) (s : State) : State :=
  { s with nextId := 10, lookups := [{ id := 9, tid := 0, core := 0, kind := k, desc := table slots, n := 1, started, rows, lcc := some 3 }] }

def dram (pa : Nat) : DramAt := { m := 0, pa }
def gather : LookupKind := .gather false none 0x100 32
def piece (slots : List Nat) : RowPiece := { va := 0x101E0, pa := 0x201E0, tol := false, slots := slots.map dram }
def row15 : List Byte := List.replicate 32 1

/-- The one row of operation 9, and what the events ask of the machine around it. -/
def theRow (s : State) : Option RowStatus := ((s.lookup? 9).bind (fun l => l.rows[0]?)).map (fun r => r.st)

/-- A gather about to read an identifier in the table and one past it; a sum of one bag, a spread of it, and one whose offsets fall; rows
waiting whose home is in another partition, whose page is mapped, and whose page users may not read. -/
theorem wit_lookupEvents : ∃ s t u u' f x b z : State,
    (∀ q ∈ [s, t, u, u', f, x, b, z], q.links = [] ∧ q.mem.wf = true ∧ ∀ k,
      ((q.core k).poisoned = [] ∧ (q.core k).flipped = [] ∧ ∀ p ∈ (q.core k).pub, p.getLsbD 63 = false) ∧
        (q.module k).poisoned = [] ∧ (q.module k).badBuffers = []) ∧
    [s, t, u, u', f, x, b, z].all (fun q => (q.lookup? 9).any (fun l => l.core == coreOfThread l.tid && (q.thread l.tid).stores.isEmpty
      && q.lookups.all (fun y => y.id == 9))) = true ∧
    (s.lookup? 9).map (fun l => (l.kind, l.started, s.poolNat l.core (l.list + 4 * 0) 4, tbRows l.desc)) = some (gather, false, 15, 16) ∧
    (t.lookup? 9).map (fun l => (l.started, t.poolNat l.core (l.list + 4 * 0) 4, tbRows l.desc)) = some (false, 16, 16) ∧
    (u.lookup? 9).map (fun l => (u.segCheck l.tid l.desc false true 1 1 0x2000 32 0x3000 0x1000).toOption) = some (some [0, 1]) ∧
    0x3000 + 2 * 1 ≤ 0xFF000 ∧ 0x2000 + 0 * 32 + 32 ≤ 0xFF000 ∧
    (u'.lookup? 9).map (fun l => (u'.segCheck l.tid l.desc true false 1 1 0x2000 0 0 0x1000).toOption) = some (some [0, 1]) ∧
    (f.lookup? 9).map (fun l => (f.segCheck l.tid l.desc false false 1 1 0x2000 32 0 0x1000).toOption) = some none ∧
    theRow x = some .waiting ∧ tbHome (table 0) 15 = 0 ∧ x.blockedWay 0 0 = none ∧ b.blockedWay 0 0 = none ∧ x.partOfCore 0 = some 0 ∧ x.partOfThread 0 = some 0 ∧
    (x.lookup? 9).map (fun l => match x.piecesTranslate l 0 (rowPieces l.desc (rowVa l.desc 15) l.folds) with
      | .ok ps _ => ps.map (fun p => (p.va, p.pa, p.slots))
      | _ => []) = some [(0x101E0, 0x201E0, [])] ∧
    theRow b = some .waiting ∧ b.partOfThread 0 = some 0 ∧ b.partOfCore 0 = some 0 ∧
    (b.lookup? 9).map (fun l => match b.piecesTranslate l 0 (rowPieces l.desc (rowVa l.desc 15) l.folds) with
      | .fault c _ => some c
      | _ => none) = some (some .pageProt) ∧
    theRow z = some .waiting ∧ z.partOfCore 0 ≠ z.partOfThread 0 :=
  let wait : List LookupRow := [{ rid := 15 }]
  let one := ((lcc []).setPoolNat 0 0x1004 4 1).setPoolBytes 0 0x2000 row15
  ⟨operates 0 gather false [] ((lcc []).setPoolNat 0 0 4 15), operates 0 gather false [] ((lcc []).setPoolNat 0 0 4 16),
    operates 0 (.segred 0 true 1 0xFF000 0x2000 32 0x3000 0x1000) false [] one,
    operates 0 (.segscat 0 false 1 1 0xFF000 0x2000 0 0x1000) false [] one,
    operates 0 (.segred 0 false 1 0xFF000 0x2000 32 0 0x1000) false [] ((lcc []).setPoolNat 0 0x1000 4 1),
    operates 0 gather true wait (mapped 0x1E (lcc [])), operates 0 gather true wait (mapped 0x16 (lcc [])),
    (operates 0 gather true wait (lcc [])).modQuad 0 (fun q => { q with part := some 5 }),
    calm (by decide +kernel), by and_intros <;> decide +kernel⟩

/-- Rows at their unit: a gather, to which another has joined, a store and an accumulate; a row that is read, and one that is finished. -/
theorem wit_lookupEvents_unit : ∃ y z w v a : State,
    (∀ q ∈ [y, z, w, v, a], q.links = [] ∧ q.mem.wf = true ∧ ∀ k,
      ((q.core k).poisoned = [] ∧ (q.core k).flipped = [] ∧ ∀ p ∈ (q.core k).pub, p.getLsbD 63 = false) ∧
        (q.module k).poisoned = [] ∧ (q.module k).badBuffers = []) ∧
    [y, z, w, v, a].all (fun q => (q.lookup? 9).any (fun l => l.core == coreOfThread l.tid && (q.thread l.tid).stores.isEmpty)) = true ∧
    theRow y = some (.served 0 [piece []]) ∧ y.groupFirst [(9, 0)] = true ∧ y.sourcesClear 9 0 0 [piece []] = true ∧ y.unitDown 0 0 0x201E0 = none ∧
    y.joinedTo 9 0 = [(10, 0)] ∧ tbSlots (table 0) = 0 ∧ ownPieces (table 0) (rowVa (table 0) 15) [piece []] = [piece []] ∧
    theRow z = some (.served 0 [piece []]) ∧ z.groupFirst [(9, 0)] = true ∧ z.sourcesClear 9 0 0 [piece []] = true ∧ z.unitDown 0 0 0x201E0 = none ∧
    (z.lookup? 9).map (fun l => (l.kind, l.rows.map (fun r => r.data.length))) = some (.store 0x100, [32]) ∧
    theRow w = some (.served 0 [piece [0x401E0]]) ∧ w.groupFirst [(9, 0)] = true ∧ w.sourcesClear 9 0 0 [piece [0x401E0]] = true ∧ w.unitDown 0 0 0x201E0 = none ∧
    (w.lookup? 9).map (fun l => (l.kind, rowVa l.desc 15, l.rows.map (fun r => r.data.length))) = some (.accumulate 0 0x100, 0x101E0, [32]) ∧
    0x401E0 % 32 = 0 ∧ channelOfPa 0x401E0 = channelOfPa 0x201E0 ∧
    theRow v = some (.read row15) ∧ v.blockedWay 0 0 = none ∧ (v.lookup? 9).map (fun l => l.kind) = some gather ∧
    (a.lookup? 9).map (fun l => (l.started, l.rows.map (fun r => r.st), a.lookups.find? (fun x => x.tid == l.tid) == some l)) = some (true, [.finished], true) ∧
    (a.thread 0).alive = true :=
  let r := fun (st : RowStatus) => [({ rid := 15, data := row15, st } : LookupRow)]
  let y := operates 0 gather true (r (.served 0 [piece []])) (lcc [])
  ⟨{ y with lookups := y.lookups ++ [{ id := 10, tid := 1, core := 0, kind := gather, desc := table 0, n := 1, started := true, rows := r (.merged 9 0) }] },
    operates 0 (.store 0x100) true (r (.served 0 [piece []])) (lcc []), operates 1 (.accumulate 0 0x100) true (r (.served 0 [piece [0x401E0]])) (lcc []),
    operates 0 gather true (r (.read row15)) (lcc []), operates 0 gather true (r .finished) (lcc []),
    calm (by decide +kernel), by and_intros <;> decide +kernel⟩

def op9 : LookupOp := { id := 9, tid := 0, core := 0, kind := gather, desc := table 0, n := 1, started := true, rows := [{ rid := 15 }] }

/-- Two gathers of the same row; to the second, a third has joined. -/
theorem wit_lookupEvents_merge : ∃ s : State, ∃ l l2 : LookupOp, ∃ r r2 : LookupRow,
    s.lookup? 9 = some l ∧ s.lookup? 10 = some l2 ∧ l.rows = [r] ∧ l2.rows = [r2] ∧ r.st = .waiting ∧ r2.st = .waiting ∧
    s.sameRequest l r l2 r2 = true ∧ s.groupFirst [(9, 0), (10, 0)] = true ∧ s.soloBefore [(9, 0), (10, 0)] = true ∧ s.joinedTo 10 0 = [(11, 0)] ∧
    (s.lookups.filter (fun y => y.id == 11)).length = 1 :=
  ⟨{ mapped 0x1E (lcc []) with nextId := 12, lookups := [op9, { op9 with id := 10, tid := 1 },
      { op9 with id := 11, tid := 2, rows := [{ rid := 15, st := .merged 10 0 }] }] }, op9, { op9 with id := 10, tid := 1 },
    { rid := 15 }, { rid := 15 }, by and_intros <;> decide +kernel⟩

/-- Two pages of this module, whose leaves have these bits, for virtual pages 0x10 and 0x11, and one for 0x12. -/
def pages (bits : Word) (s : State) : State :=
  s.modQuad 0 (fun q => { q with tlb := [{ asid := 0, base := 0x10, size := 12, pte := 0x20001 ||| bits, leaf := 0x1000 },
    { asid := 0, base := 0x11, size := 12, pte := 0x21001 ||| bits, leaf := 0x1008 },
    { asid := 0, base := 0x12, size := 12, pte := 0x22001 ||| bits, leaf := 0x1010 }] })

/-- What a thread's write of this address translates to, for a unit that wants pages of this RED. -/
def missOf (s : State) (red : Bool) (va : Nat) : Miss :=
  { req := reqThread s.cur, core := s.myCore, part := s.partOfThread s.cur, va, write := true, sup := s.src.sup, tol := false, red := some red }
def writesTo (s : State) (red : Bool) (va : Nat) : Trans := s.translate (missOf s red va) s.src.sup .write
def hitOf (s : State) (red : Bool) (va : Nat) : Option TlbEntry :=
  tlbHit (s.quad (s.translator (missOf s red va)).2).tlb (s.partition (s.translator (missOf s red va)).1 (s.partOfThread s.cur)).asid va

/-- An atomic on DRAM, on a pool, on a window of a thread that has detached and of one that has not, misaligned, at no address, on pages
of modes that refuse it, one of them a peer's that no other module may write, on one that may not be written, and on a peer's page that
refuses it. -/
theorem wit_atomicIssue : ∃ s t t' t'' u x x' y z f r : State, ∃ p : Place,
    (∀ w ∈ [s, t, t', t'', u, x, x', y, z, f, r], ∀ m ∈ [metaL 0x2C always 0 [3] [1, 2] 2, metaL 0x2C always 0 [3] [1, 2] 1, metaL 0x2D always 0 [3] [3, 1, 2] 2,
      metaL 0x2D always 0 [3] [3, 1, 2] 1], w.executes m) ∧
    (∀ w ∈ [s, t, t', t'', f, r], addrForm (w.g 1) = .dram 0x10000) ∧ bit p.pte 10 = false ∧ bit p.pte 11 = false ∧
    writesTo s false 0x10000 = .ok p ∧ (hitOf t false 0x10000).map (fun e => bit e.pte 10) = some true ∧
    (hitOf t' false 0x10000).map (fun e => bit e.pte 11) = some true ∧
    (hitOf t'' false 0x10000).map (fun e => (bit e.pte 11, bit e.pte 9)) = some (true, false) ∧ t''.homeOf 0 (some 0) 0x10000 = 1 ∧
    writesTo f false 0x10000 = .fault .pageProt 0 ∧ writesTo r false 0x10000 = .fault .remoteFault 3 ∧
    addrForm (u.g 1) = .core 0 0x40 ∧ (u.g 1).toNat % 8 = 0 ∧ addrForm (x.g 1) = .window 0 0 ∧
    x.src.tdet = true ∧ addrForm (x'.g 1) = .window 0 0 ∧ x'.src.tdet = false ∧ (x'.core x'.myCore).team.any (fun t => t.mdet) = false ∧
    addrForm (y.g 1) = .nonCanonical ∧ addrForm (z.g 1) = .core 0 2 ∧ (z.g 1).toNat % 4 ≠ 0 :=
  let at_ := fun (bits : Word) => mapped bits (lcc [(1, 0x10000)])
  ⟨at_ 0xE, at_ 0x40E, at_ 0x80E, { peer 0x80E with threads := (lcc [(1, 0x10000)]).threads }, lcc [(1, 0x8000000000000040)], lcc [(1, 0xC000000000000000)] { tdet := true },
    lcc [(1, 0xC000000000000000)], lcc [(1, 0x200000000000000)], lcc [(1, 0x8000000000000002)], at_ 0xC,
    { peer 0xE with threads := (lcc [(1, 0x10000)]).threads }, { pte := 0x2000F, size := 12, off := 0, leaf := 0x1000, m := 0 },
    meetsAll (by decide +kernel), by and_intros <;> decide +kernel⟩

def amo (op : AmoOp) (pa : Option DramAt) : ReqBody := .amo op 4 7 5 3 pa

/-- An atomic at a pool and at a DRAM unit, one past the DRAM, two for another module that a switch combines, one that has failed and
one answered. -/
theorem wit_atomicEvents : ∃ s t u x y z : State, ∃ r q : Req,
    (∀ w ∈ [s, t, u, x, y, z], w.links = [] ∧ w.mem.wf = true ∧ ∀ k,
      ((w.core k).poisoned = [] ∧ (w.core k).flipped = [] ∧ ∀ p ∈ (w.core k).pub, p.getLsbD 63 = false) ∧
        (w.module k).poisoned = [] ∧ (w.module k).badBuffers = []) ∧
    (∀ w ∈ [s, t, u], (w.req? 9).map (fun r => w.mayGo r && w.unitTurn r && r.joined.isEmpty) = some true) ∧
    s.target 0 (some 0) (addrForm 0x8000000000000040) = .ok 0 ∧ s.targetRange 0 (addrForm 0x8000000000000040) 4 = true ∧
    (t.req? 9).map (fun r => r.body) = some (amo .cas (some (dram 0x20000))) ∧ (t.ownership 0 0x20000).owners = [] ∧
    (u.req? 9).map (fun r => r.body) = some (amo .add (some (dram (2 ^ 42)))) ∧
    x.req? 9 = some r ∧ x.req? 10 = some q ∧ x.ready r = true ∧ x.ready q = true ∧ x.combinable r q = true ∧
    (y.req? 9).map (fun r => r.st) = some (.failed { cause := .memsideError }) ∧ (y.thread 0).alive = true ∧
    (z.req? 9).map (fun r => r.st) = some (.replied 7) ∧ (z.thread 0).outstanding.any (fun o => o.id == 9) = true :=
  let r := request (amo .add none)
  let far := { r with ea := 0x8000002000000040, dst := some 4096 }
  let q := { far with id := 10, tid := 8, src := 1 }
  let at_ := fun (b : ReqBody) => { request b with stream := none, dst := none, ea := 0x10000 }
  ⟨sent r (lcc []), sent (at_ (amo .cas (some (dram 0x20000)))) (mapped 0xE (lcc [])),
    sent (at_ (amo .add (some (dram (2 ^ 42))))) (lcc []), { lcc [] with reqs := [far, q], nextId := 11 },
    sent { r with st := .failed { cause := .memsideError } } (lcc []),
    (sent { r with st := .replied 7 } (lcc [])).modThread 0 (fun t => { t with outstanding := [{ id := 9, writes := gs [3] }] }), far, q,
    calm (by decide +kernel), by and_intros <;> decide +kernel⟩

/-- An accumulate and a fold whose region has two slots, a page apart; one with no slot, one of the other width; one misaligned, and
one at no DRAM address; and pages whose RED is clear, the element's and the slot's alone. -/
theorem wit_reductionRegions : ∃ s t u u' x y z z' : State, ∃ p q q' : Place,
    (∀ w ∈ [s, t, u, u', x, y, z, z'], ∀ m ∈ [metaG 0x2E always [] [1, 2], metaG 0x2E always [] [1]], w.executes m) ∧
    (∀ w ∈ [s, t, u, u', z, z'], addrForm (w.g 1) = .dram 0x10000) ∧ s.src.accr.toNat / 2 ^ 51 % 2 ^ 7 = 2 ∧ s.src.accr.toNat / 2 ^ 50 % 2 = 0 ∧
    s.src.accr.toNat / 2 ^ 58 = 0 ∧ s.src.accr.toNat % 2 ^ 25 = 1 ∧ s.src.accr.toNat / 2 ^ 25 % 2 ^ 25 = 128 ∧
    writesTo s true 0x10000 = .ok p ∧ writesTo s true 0x11000 = .ok q ∧ writesTo s true 0x12000 = .ok q' ∧
    (hitOf z true 0x10000).map (fun e => bit e.pte 11) = some false ∧ writesTo z true 0x10000 = .fault .pageProt 0 ∧
    z.src.accr = s.src.accr ∧ writesTo z true 0x11000 = .ok q ∧ z'.src.accr = s.src.accr ∧ writesTo z' true 0x10000 = .ok p ∧
    writesTo z' true 0x11000 = .fault .pageProt 0 ∧
    [p, q, q'].all (fun z => bit z.pte 11 && !bit z.pte 10 && bit z.pte 6) = true ∧
    t.src.accr = 0 ∧ u.src.accr.toNat / 2 ^ 50 % 2 = 1 ∧ u.src.accr.toNat / 2 ^ 51 % 2 ^ 7 = 1 ∧
    writesTo u true 0x10000 = .ok p ∧ writesTo u true 0x11000 = .ok q ∧ u'.src.accr = s.src.accr ∧
    addrForm (x.g 1) = .dram 0x10002 ∧ x.src.accr = s.src.accr ∧ addrForm (y.g 1) = .core 0 0 :=
  let two : Word := 0x10000100000001
  let at_ := fun (a : Word) (accr : Word) => pages 0x85E (lcc [(1, a)] { accr })
  let off := fun (n i : Nat) (e : TlbEntry) => if i == n then { e with pte := e.pte &&& ~~~0x800 } else e
  let plain := fun (n : Nat) (s : State) => s.modQuad 0 (fun q => { q with tlb := q.tlb.mapIdx (off n) })
  let place := fun (pte : Word) (leaf : Nat) => ({ pte, size := 12, off := 0, leaf, m := 0 } : Place)
  ⟨at_ 0x10000 two, at_ 0x10000 0, at_ 0x10000 0xC000000000001, at_ 0x10000 two, at_ 0x10002 two, at_ 0x8000000000000000 two,
    plain 0 (at_ 0x10000 two), plain 1 (at_ 0x10000 two), place 0x2085F 0x1000, place 0x2185F 0x1008, place 0x2285F 0x1010, meetsAll (by decide +kernel), by and_intros <;> decide +kernel⟩

/-- An accumulate, a fold of two slots and one of none at their unit, and one with a slot at another unit. -/
theorem wit_reductionRegions_events : ∃ y z n a : State,
    (∀ w ∈ [y, z, n, a], w.links = [] ∧ w.mem.wf = true ∧ ∀ k,
      ((w.core k).poisoned = [] ∧ (w.core k).flipped = [] ∧ ∀ p ∈ (w.core k).pub, p.getLsbD 63 = false) ∧
        (w.module k).poisoned = [] ∧ (w.module k).badBuffers = []) ∧
    (∀ w ∈ [y, z, n, a], (w.req? 9).map (fun r => w.mayGo r && w.unitTurn r) = some true) ∧
    (∀ q ∈ [y, z, n, a], q.unitDown 0 0 0x20000 = none) ∧
    (y.req? 9).map (fun r => r.body) = some (.acc false 0x3F800000 (dram 0x20000) (dram 0x21000)) ∧
    (z.req? 9).map (fun r => r.body) = some (.fold false (dram 0x20000) [dram 0x21000, dram 0x22000]) ∧
    (∀ q ∈ [0x21000, 0x22000], q % 64 = 0 ∧ q + 64 ≤ 2 ^ 41 ∧ q ≠ 0x20000 ∧ channelOfPa q = channelOfPa 0x20000) ∧
    (n.req? 9).map (fun r => r.body) = some (.fold true (dram 0x20000) []) ∧
    (a.req? 9).map (fun r => r.body) = some (.fold false (dram 0x20000) [dram 0x40000000, { m := 1, pa := 0x21000 }]) ∧ channelOfPa 0x40000000 ≠ channelOfPa 0x20000 :=
  let at_ := fun (b : ReqBody) => sent { request b with stream := none, dst := none, ea := 0x10000 } (lcc [])
  ⟨at_ (.acc false 0x3F800000 (dram 0x20000) (dram 0x21000)), at_ (.fold false (dram 0x20000) [dram 0x21000, dram 0x22000]),
    at_ (.fold true (dram 0x20000) []), at_ (.fold false (dram 0x20000) [dram 0x40000000, { m := 1, pa := 0x21000 }]), calm (by decide +kernel), by and_intros <;> decide +kernel⟩

/-- A sum of one element of F32 in the accumulators; no format; nothing to sum; a message too long; misaligned; in the
scratchpad; two messages awaited, and none; and a thread that waits for two and has one, one that has the last, one whose queue is
empty and one whose message has another length. -/
theorem wit_receiveReduce : ∃ s t u x y z w v l a b : State,
    (∀ q ∈ [s, t, u, x, y, z, w], ∀ m ∈ [metaL 0x2F always 0 [3] [3, 1, 2], metaL 0x2F always 0 [3] [3, 1, 2] 2], q.executes m) ∧
    (∀ q ∈ [s, t, u, x, y, z, w], q.scratchEnd q.myCore = 0xC0000 ∧ q.accEnd q.myCore = 2 ^ 20) ∧
    Tag.f32.code = 16 ∧ recvFormat ((t.g 2).toNat / 2 ^ 16 % 2 ^ 5) = none ∧
    (s.g 1).toNat = 0xFFFE0 ∧ (s.g 2).toNat = 2 * 2 ^ 32 + 16 * 2 ^ 16 + 1 ∧ (s.g 3).toNat = 1 ∧ s.src.granted = false ∧
    (u.g 2).toNat = 16 * 2 ^ 16 ∧ (x.g 2).toNat = 16 * 2 ^ 16 + 513 ∧ (x.g 1).toNat = 0xC0000 ∧
    (y.g 1).toNat = 0xC0001 ∧ (y.g 2).toNat = 16 * 2 ^ 16 + 1 ∧ (z.g 1).toNat = 0xBFFE0 ∧ (z.g 2).toNat = 16 * 2 ^ 16 + 1 ∧
    (w.g 2).toNat = 16 * 2 ^ 16 + 512 ∧ (w.g 1).toNat = 0xC0000 ∧
    v.waits 0 (.recvred 3 0xFFFE0 0 2 .f32 2 1) ∧ l.waits 0 (.recvred 3 0xFFFE0 1 2 .f32 2 1) ∧
    (∀ q ∈ [v, l], q.recvReady 0 = true ∧ summaryLen (q.headSummary 0) = 2 * 4 ∧ (q.core 0).poisoned = [] ∧ (q.thread 0).stores = [] ∧
      q.mem.wf = true) ∧
    (v.core 0).pub = Vector.replicate 4 0 ∧ (l.core 0).pub = Vector.replicate 4 0 ∧
    a.waits 0 (.recvred 3 0xFFFE0 0 2 .f32 2 1) ∧ a.recvReady 0 = false ∧
    b.waits 0 (.recvred 3 0xFFFE0 0 2 .f32 1 1) ∧ b.recvReady 0 = true ∧ b.headBad 0 false = none ∧ summaryLen (b.headSummary 0) ≠ 1 * 4 :=
  let q := fun (l : List (Nat × Word)) => on 0 (thr l) { partw := 0x80C0 }
  let has := fun (k e : Nat) => waiting (.recvred 3 0xFFFE0 k 2 .f32 e 1) (queued 32 (q []))
  ⟨q [(1, 0xFFFE0), (2, 0x200100001), (3, 1)], q [(2, 1)], q [(2, 0x100000)], q [(1, 0xC0000), (2, 0x100201)],
    q [(1, 0xC0001), (2, 0x100001)], q [(1, 0xBFFE0), (2, 0x100001)], q [(1, 0xC0000), (2, 0x100200)],
    has 0 2, has 1 2, waiting (.recvred 3 0xFFFE0 0 2 .f32 2 1) (q []), has 0 1,
    meetsAll (by decide +kernel), by and_intros <;> first | exact no_pub (by decide +kernel) | decide +kernel⟩

/-- A template with these fields. -/
def tpl (l : List Nat) : BitVec 256 := BitVec.ofNat 256 (l.foldr (fun x acc => x + 2 ^ 16 * acc) 0)

/-- Templates on `I8`: a tile of one cell of four products at 0x1800000, a gather of one row, a load of a buffer. -/
def tplMma : BitVec 256 := tpl [0x11, 1, 4, 1, 0, 0, 1, 0, 0x180]
def tplGath : BitVec 256 := tpl [0x12, 1, 0, 0, 0, 32, 0, 0, 0, 0, 0, 0, 0, 5]
def tplLdb : BitVec 256 := tpl [0x13, 0, 0, 0, 0, 32]

/-- A block whose latch row 0 and buffer 0 hold `I8`, with this template 0 and this queue. -/
def block (t : BitVec 256) (q : List MatrixEntry := []) : Core :=
  { partw := 0x80C0, lexicon := (Vector.replicate 64 0).set 0 t, latch := [(0, { tag := .i8 })]
    bbufs := (Vector.replicate 4 {}).set 0 { tag := .i8 }, mqueue := q }

def entry (op : MatrixOp) (t : BitVec 256) : MatrixEntry := { id := 5, tid := 1024, bundle := 0x10000, num := 0, op, template := t, btag := .i8 }

/-- Entries that go in by each form, with their operands from registers and from the template; a queue that is full, no
template, a buffer of another tag, a misaligned tile. -/
theorem wit_matrixIssue : ∃ s t u x y z w v a : State,
    (∀ q ∈ [s, t, u, x, y, z, w, v, a], ∀ m ∈ [metaMx 0x3B always [] [3, 1, 2] (some 0), metaMx 0x3A always [] [1, 2],
      { major := 64, guard := { p := 0, neg := false } }], q.executes m) ∧
    (∀ q ∈ [s, t, u, x, z, w, v, a], (q.core q.myCore).mqueue.length < 16) ∧ (y.core y.myCore).mqueue.length = 16 ∧
    s.template 0 = tplMma ∧ lexiconBad (s.core s.myCore) .mma tplMma = false ∧ matrixTagBad (s.core s.myCore) tplMma = false ∧
    matrixAddrs s .mma tplMma = none ∧ (s.g 1).toNat = 2 ^ 16 ∧ (s.g 3).toNat = 0x1800000 ∧ setTplAddr tplMma 7 0x1800000 = tplMma ∧
    setTplField (setTplField tplMma 4 0) 1 1 = tplMma ∧
    t.template 0 = tplGath ∧ lexiconBad (t.core t.myCore) .mgath tplGath = false ∧ matrixAddrs t .mgath tplGath = none ∧ (t.g 1).toNat = 0 ∧
    (t.g 3).toNat = 0 ∧ setTplAddr (setTplAddr tplGath 9 0) 11 0 = tplGath ∧
    u.template 0 = tplLdb ∧ lexiconBad (u.core u.myCore) .mldb tplLdb = false ∧ matrixAddrs u .mldb tplLdb = none ∧ setTplAddr tplLdb 9 0 = tplLdb ∧
    x.template 0 = tplMma ∧ (x.g 1).toNat = 0x1800020 ∧ lexiconBad (x.core x.myCore) (.macc 0x1800020) tplMma = false ∧
    matrixAddrs x (.macc 0x1800020) tplMma = none ∧
    z.template 0 = 0 ∧ lexiconBad (z.core z.myCore) .mma 0 = true ∧ tplField 0 0 % 16 = 0 ∧
    w.template 0 = tplMma ∧ matrixTagBad (w.core w.myCore) tplMma = true ∧ v.template 0 = setTplField tplMma 7 1 ∧
    matrixAddrs v .mma (v.template 0) = some { cause := .misalign, addr := 0x1800001 } ∧
    tplField (setTplField tplMma 0 0x14) 0 % 16 = 4 ∧ tplField (a.template 0) 0 % 16 = 4 :=
  ⟨dcc 3 [(1, 0x10000), (3, 0x1800000)] {} (block tplMma), dcc 3 [] {} (block tplGath), dcc 3 [] {} (block tplLdb),
    dcc 3 [(1, 0x1800020)] {} (block tplMma), dcc 3 [] {} (block tplMma (List.replicate 16 (entry .mma tplMma))), dcc 3 [] {} (block 0),
    dcc 3 [] {} { block tplMma with bbufs := Vector.replicate 4 {} }, dcc 3 [] {} (block (setTplField tplMma 7 1)),
    dcc 3 [] {} (block (setTplField tplMma 0 0x14)), meetsAll (by decide +kernel), by decide +kernel⟩

/-- A template of format F64 with its inflation, whose fields are at their ends. -/
theorem wit_matrixIssue_fields : lexiconBad { block 0 with infl := (Vector.replicate 2 none).set 0 (some 1) } .mma
      (tpl [0x1111, 256, 64, 16, 0, 0, 4, 0, 0x1FF]) = false ∧ (tpl [0x1111]).toNat.testBit 12 = true ∧
    lexiconBad {} .mma (tpl [0x1111, 256, 64, 16, 0, 0, 4, 0, 0x1FF]) = true :=
  by decide +kernel

/-- Images at the end of the window, one past it, misaligned; a program that passes its checks, and none; each selection of
`MRD`; and none or one of the thread's entries in the queue. -/
theorem wit_matrixInstructions : ∃ s t u x y z w v : State,
    (∀ q ∈ [s, t, u, x, y, z, w, v], ∀ m ∈ [metaMx 0x3A always [] [1, 2], metaMx 0x3A always [3] [1], metaMx 0x3A always [] [1]], q.executes m) ∧
    (∀ q ∈ [s, t, u, x, y, z, w, v], (q.thread q.cur).stores = [] ∧ (q.core q.myCore).poisoned = [] ∧ (q.core q.myCore).flipped = []) ∧
    (s.g 2).toNat % 2 ^ 25 + 32 = s.accEnd s.myCore ∧ (s.g 2).toNat % 32 = 0 ∧ t.accEnd t.myCore < (t.g 2).toNat % 2 ^ 25 + 32 ∧
    (t.g 2).toNat % 32 = 0 ∧ (u.g 2).toNat % 2 ^ 25 % 32 ≠ 0 ∧
    x.poolNat x.myCore 0x1000 32 = 2 ^ 128 + 0x10000 ∧ (x.g 1).toNat = 0x1000 ∧ (y.g 1).toNat = 0x1000 ∧ y.poolNat y.myCore 0x1000 32 = 0 ∧
    (x.g 1).toNat / 2 ^ 14 % 4 = 0 ∧ (z.g 1).toNat / 2 ^ 14 % 4 = 1 ∧ (w.g 1).toNat / 2 ^ 14 % 4 = 2 ∧ (v.g 1).toNat / 2 ^ 14 % 4 = 3 ∧
    (x.core x.myCore).mqueue = [] ∧ ((v.core v.myCore).mqueue.filter (fun e => e.tid = v.cur)).length = 1 ∧ (v.g 1).toNat % 2 ^ 16 = 0xC000 ∧
    ((z.core z.myCore).mqueue.filter (fun e => e.tid = z.cur)).length = 2 ∧ (u.g 1).toNat % 2 ^ 16 = 0 ∧
    ((u.core u.myCore).mqueue.filter (fun e => e.tid = u.cur)).length = 1 := by
  let b := block 0
  let e := entry .mma tplMma
  let s := dcc 3 [(2, 0x1FFFFE0)] {} b
  let t := dcc 3 [(2, 0x1FFFFE0)] {} { b with partw := 0x40C0 }
  let u := dcc 3 [(2, 1)] {} { b with mqueue := [e] }
  let x := (dcc 3 [(1, 0x1000)] {} b).setPoolNat 128 0x1000 32 (2 ^ 128 + 0x10000)
  let y := dcc 3 [(1, 0x1000)] {} b
  let z := dcc 3 [(1, 0x4000)] {} { b with mqueue := [e, e] }
  let w := dcc 3 [(1, 0x8000)] {} b
  let v := dcc 3 [(1, 0xC000)] {} { b with mqueue := [e] }
  exact ⟨s, t, u, x, y, z, w, v, meetsAll (by decide +kernel), by decide +kernel⟩

/-- The block of core 128 at work on one entry. -/
def sequencing (e : MatrixEntry) (k : Core := block 0) : State :=
  on 128 (thr []) { k with mqueue := [{ e with started := true }], partw := 0x80C0 }

/-- An entry of each form, alone and under way, whose checks pass and which meets no word in error; and a queue in which the second
entry may start, and one in which it may not. -/
theorem wit_matrixSequencer :
    (∀ e ∈ [entry .mldb tplLdb, entry .mgath tplGath, entry .mma tplMma, entry (.macc 0x1800040) tplMma,
        entry (.macc 0x1800040) (setTplField tplMma 0 0x101)],
      let s := sequencing e
      (s.core 128).mqueue = [{ e with started := true }] ∧ e.complete = false ∧ s.mem.wf = true ∧ (s.core 128).poisoned = [] ∧
      (s.core 128).flipped = [] ∧ (s.core 128).trctl.getLsbD 63 = false ∧ (s.core 128).pub = Vector.replicate 4 0 ∧
      (s.core 128).latchBad = [] ∧ (s.core 128).bufBad = [] ∧ e.inflBad = false ∧ 128 = coreOfThread e.tid ∧ (s.thread e.tid).stores = [] ∧
      lexiconBad (s.core 128) e.op e.template = false ∧ matrixAddrs { s with cur := 8 * 128 } e.op e.template = none ∧
      (s.thread e.tid).alive = true) ∧
    (tTag tplMma).isInt = true ∧ tM tplMma = 1 ∧ (tTag (setTplField tplMma 0 0x101)).isInt = false ∧ tM (setTplField tplMma 0 0x101) = 1 ∧
    tplAddr tplMma 7 ≤ 0x1800040 ∧
    mayStart [entry .mldb tplLdb] (entry .mldb tplLdb) = true ∧
    mayStart [entry .mgath tplGath, { entry .mldb tplLdb with id := 6 }] { entry .mldb tplLdb with id := 6 } = false ∧
    entriesConflict (entry .mma tplMma) (entry .mma tplMma) = true := by
  decide +kernel

/-- A load of a buffer whose second record holds an uncorrectable word; products whose row of the latch, column of the buffer or
program is uncorrectable. -/
theorem wit_matrixSequencer_stops :
    (let s := sequencing (entry .mldb tplLdb) { block 0 with poisoned := [0x400 / 8] }
     let e := { entry .mldb tplLdb with started := true }
     (s.core 128).mqueue = [e] ∧ (s.thread e.tid).alive = true ∧ s.readsBad e 0 1024 = none ∧ tW tplLdb = 32 ∧ tApitch tplLdb = 32 ∧
       s.readsBad e 0x400 1024 = some 0x400 ∧ (s.core 128).flipped = [] ∧ (s.thread e.tid).stores = []) ∧
    (∀ k ∈ [{ block 0 with latchBad := [(0, 0)] }, { block 0 with bufBad := [(0, 0, 0)] }],
      let e := { entry .mma tplMma with started := true }
      ((sequencing e k).core 128).mqueue = [e] ∧ 1 ≤ tM tplMma ∧ ((∃ w < 4 * tW tplMma, (tLrow tplMma, w) ∈ k.latchBad) ∨
        ∃ c < tNcol tplMma, ∃ w < 4 * tW tplMma, ((tBuffer tplMma).val, c, w) ∈ k.bufBad)) ∧
    (let e := { entry .mma tplMma with started := true, inflBad := true }
     ((sequencing e).core 128).mqueue = [e] ∧ e.inflBad = true) := by
  decide +kernel

/-- Task 1 of the heap kernel of launch 0 holds this; the kernel serves dies 0 and 1 of module 0. -/
def kernel (h : Heap) (t : Task) : Heap := { h with tasks := [(1, { r := 0x3F000000, mode := .queued }), (2, t)] }
def heap0 : Heap := { module := 0, dies := 3, n := 3, tol := 0x3E45798EE2308C3A, slack := 0, global := false, table := 0x10000, part := some 0 }
def kernelOf (h : Heap) (s : State) : State := { s with heaps := [(0, h)] }
def queuedTask : Task := { r := 0x3F800000, mode := .queued }

/-- Tasks 2 and 3 of three; deltas of 1 and of infinity; a task held; an entry, and the one past the end; takes on a die of the
kernel and on one that is not, with a floor below and above what is queued, on a kernel that has ended and one that steals. -/
theorem wit_heapInstructions : ∃ s t u x y z w v a b c : State, ∃ h : Heap,
    (∀ q ∈ [s, t, u, x, y, z, w, v, a, b, c], ∀ m ∈ [metaG 0x38 always [] [1, 2], metaG 0x38 always [] [1], metaG 0x38 always [3] [],
      metaL 0x39 always 0 [3] [1, 2] 1, metaL 0x39 always 0 [3] [1, 2] 2], q.executes m) ∧
    s.heapOf s.cur = none ∧ (∀ q ∈ [t, u, x, y], q.heapOf q.cur = some (0, h) ∧ q.heaps.get? 0 = some h) ∧ h.n = 3 ∧ h.ended = false ∧
    (t.g 1).toNat = 2 ∧ (t.g 2).toNat = 0x3F800000 ∧ (u.g 1).toNat = 3 ∧ (u.g 2).toNat = 0 ∧ (x.g 1).toNat = 2 ∧ (x.g 2).toNat = 1 ∧
    (y.g 1).toNat = 2 ∧ (y.g 2).toNat = 0x7F800000 ∧ (∀ q ∈ [t, u, x], q.src.granted = false ∧ q.src.held = none) ∧
    z.src.held = some 2 ∧ (z.g 1).toNat = 0x3F800000 * 2 ^ 32 + 2 ∧ z.reqs = [] ∧ z.src.granted = false ∧
    (z.heapOf 0).map (fun x => (x.2.ended, x.2.armed, x.2.tasks.getD 2 {})) = some (false, false, { queuedTask with mode := .taken, pend := 0x3F800000 }) ∧
    (f32Fmt.add 0x3F800000 0x3F800000).1 = 0x40000000 ∧
    w.src.held = some 2 ∧ w.reqs.any (fun r => r.tid == w.cur && w.fenceWaits 3 r) = true ∧ w.src.granted = false ∧ (w.g 1).toNat / 2 ^ 32 = 0 ∧ (w.g 1).toNat = 2 ∧
    h.dies.getLsbD (t.myDie % 16) = true ∧ t.earlierTaker 0 t.myDie t.nextId = false ∧ h.global = false ∧ h.tasks.sorted = true ∧
    h.home 2 = t.myDie % 16 ∧ h.tasks = [(1, { r := 0x3F000000, mode := .queued }), (2, queuedTask)] ∧
    h.best (t.myDie % 16) 0 = some (2, queuedTask) ∧ (t.g 2).toNat ≤ queuedTask.r.toNat ∧ (t.g 1).getLsbD 0 = false ∧
    (v.g 2).toNat = 0x40000000 ∧ (v.g 1).toNat = 1 ∧ v.heapOf v.cur = some (0, h) ∧
    (a.heapOf a.cur).map (fun x => x.2.ended) = some true ∧
    (b.heapOf b.cur).map (fun x => (x.2.steals (b.myDie % 16), decide ((b.module x.2.module).cycles ≤ x.2.mcyc + 128), x.2.dies.getLsbD (b.myDie % 16), x.2.ended)) =
      some (true, true, true, false) ∧ (b.g 1).getLsbD 1 = false ∧ b.earlierTaker 0 b.myDie b.nextId = false ∧ b.src.granted = false ∧
    (c.heapOf c.cur).map (fun x => x.2.dies.getLsbD (c.myDie % 16)) = some false ∧ (x.g 1).getLsbD 63 = false := by
  let h := kernel heap0 queuedTask
  let q := fun (l : List (Nat × Word)) => kernelOf h (lcc l)
  let z := kernelOf (kernel heap0 { queuedTask with mode := .taken, pend := 0x3F800000 }) (lcc [(1, 0x3F80000000000002)] { held := some 2 })
  let w := { kernelOf h (lcc [(1, 2)] { held := some 2 }) with reqs := [request (.write 8 1)] }
  exact ⟨lcc [], q [(1, 2), (2, 0x3F800000)], q [(1, 3)], q [(1, 2), (2, 1)], q [(1, 2), (2, 0x7F800000)], z, w, q [(1, 1), (2, 0x40000000)],
    kernelOf { h with ended := true } (lcc []), kernelOf { h with global := true, mhat := 0x40000000, mdie := 1 } (lcc []),
    kernelOf { h with dies := 2 } (lcc []), h, meetsAll (by decide +kernel),
    by and_intros <;> decide +kernel⟩

def waitsB (s : State) (w : Wait) : Bool := (s.thread 0).status == .waiting && (s.thread 0).wait == some w

theorem waitsB_waits {s : State} {w : Wait} (h : waitsB s w = true) : s.waits 0 w := by
  simp only [waitsB, Bool.and_eq_true, beq_iff_eq] at h
  exact ⟨h.1, h.2, by decide⟩

/-- A gain for a task queued, taken, and of a kernel that has ended; sums of the residuals above and below the tolerance; an entry
of the table that is mapped, one that is not, and the last; takers asleep with and without a task, and one that steals. -/
theorem wit_heapEvents : ∃ s t u x y z w v a b : State, ∃ h : Heap,
    (∀ q ∈ [s, t, u], (q.req? 9).map (fun r => r.body) = some (.gain 0 2 0x3F800000) ∧ 9 < q.nextId ∧ q.reqs.length = 1) ∧
    s.heaps.get? 0 = some h ∧ h.ended = false ∧ h.armed = false ∧ (h.tasks.getD 2 {}).mode = .queued ∧ (f32Fmt.add 0x3F800000 0x3F800000).1 < 0x7F800000 ∧
    (t.heaps.get? 0).map (fun h => (h.ended, (h.tasks.getD 2 {}).mode)) = some (false, .taken) ∧
    (u.heaps.get? 0).map (fun h => (h.ended, (h.tasks.getD 2 {}).mode, (f32Fmt.add (h.tasks.getD 2 {}).r.toNat 0x3F800000).1)) =
      some (false, .queued, 0x7FC00000) ∧
    (x.heaps.get? 0).map (fun h => (h.ended, h.armed, h.taken, f64Less h.res.toNat h.tol.toNat, f64Less h.sum h.tol.toNat)) = some (false, true, 0, true, true) ∧
    (∀ q ∈ [y, z, w], (q.heapOf 0).isSome = true ∧ q.reqs = []) ∧
    waitsB y (.hseed 0 2 false) = true ∧ (y.deviceRead 0 (some 0) (0x10000 + 64 + 8 * 0) 8).1.toOption = none ∧
    waitsB z (.hseed 0 2 false) = true ∧ (z.deviceRead 0 (some 0) (0x10000 + 64 + 8 * 0) 8).1.toOption.isSome = true ∧ waitsB w (.hseed 2 2 true) = true ∧
    waitsB v (.take false false 0 3 none) = true ∧ (v.core 0).team = some team0 ∧ v.heaps.get? 0 = some h ∧ h.tasks.sorted = true ∧
    h.best 0 0 = some (2, queuedTask) ∧ v.earlierTaker 0 (dieOfCore 0) (v.thread 0).waitSince = false ∧ (v.thread 0).held = none ∧
    waitsB a (.take false false 0 3 (some (1, 0))) = true ∧ a.heaps.get? 0 = some h ∧ h.best 1 0 = some (1, { r := 0x3F000000, mode := .queued }) ∧
    (a.thread 0).held = none ∧ waitsB b (.take true false 0 3 (some (1, 0))) = true ∧ (b.heaps.get? 0).map (fun h => h.tasks) = some [] ∧
    h.dieList = [0, 1] ∧ h.global = false ∧ (b.heaps.get? 0).map (fun h => h.global) = some true := by
  let h := kernel heap0 queuedTask
  let k := fun (h : Heap) => kernelOf h (lcc [])
  let g := fun (s : State) => sent (request (.gain 0 2 0x3F800000)) s
  let st := fun (s : State) => (s.setDramNat 0 0x3000 8 0x4001 |>.setDramNat 0 0x4000 8 0x5001 |>.setDramNat 0 0x5000 8 0x6001
    |>.setDramNat 0 0x6000 8 0x7001 |>.setDramNat 0 0x7080 8 0x800F)
  exact ⟨g (k h), g (k (kernel heap0 { queuedTask with mode := .taken })), g (k (kernel heap0 { queuedTask with r := 0x7FC00000 })),
    k { heap0 with armed := true }, waiting (.hseed 0 2 false) (k h), waiting (.hseed 0 2 false) (st ((k h).modModule 0 (fun m => { m with
      parts := [(0, { ptroot := 0x3000 })] }))), waiting (.hseed 2 2 true) (k h), waiting (.take false false 0 3 none) (k h),
    waiting (.take false false 0 3 (some (1, 0))) (k h), waiting (.take true false 0 3 (some (1, 0))) (k { heap0 with global := true }), h,
    by and_intros <;> decide +kernel⟩

/-- Takers asleep: one behind another that waits longer; one of a kernel that has ended; one that hears of a larger gain on another
die, by the sample that it has and by the next; one that another die beats, and one that it does not. -/
theorem wit_heapEvents_takers : ∃ s e m n b k : State,
    (∀ q ∈ [s, e, m, n], waitsB q (.take false false 0 3 none) = true) ∧ (∀ q ∈ [b, k], waitsB q (.take false false 0 3 (some (1, 0))) = true) ∧
    (∀ q ∈ [s, e, m, n, b, k], (q.core 0).team = some team0 ∧ (q.thread 0).held = none ∧ (q.heaps.get? 0).any (fun h => h.tasks.sorted) = true) ∧
    s.earlierTaker 0 (dieOfCore 0) (s.thread 0).waitSince = true ∧ (s.heaps.get? 0).map (fun h => h.ended) = some false ∧
    (e.heaps.get? 0).map (fun h => h.ended) = some true ∧
    (∀ q ∈ [m, n, b, k], q.earlierTaker 0 (dieOfCore 0) (q.thread 0).waitSince = false ∧ (q.heaps.get? 0).map (fun h => h.ended) = some false) ∧
    (m.heaps.get? 0).map (fun h => (h.global, h.steals 0, h.dieList, decide ((m.module h.module).cycles ≤ h.mcyc + 128), (h.best 0 0).isSome)) =
      some (true, true, [0, 1], true, true) ∧
    (n.heaps.get? 0).map (fun h => (h.tasks, h.best 0 0)) = some ([], none) ∧
    (b.heaps.get? 0).map (fun h => (h.best 1 0).map (fun p => decide (0 < p.2.gain))) = some (some true) ∧
    (k.heaps.get? 0).map (fun h => (h.best 1 0, (h.best 0 0).isSome)) = some (none, true) :=
  let asleep := fun (st : Option (Nat × Nat)) (h : Heap) => waiting (.take false false 0 3 st) (kernelOf h (lcc []))
  let h := kernel heap0 queuedTask
  ⟨((asleep none h).modThread 0 (fun t => { t with waitSince := 5 })).setThread 1 { (waiting (.take false false 0 3 none) (lcc [])).thread 0 with waitSince := 3 },
    asleep none { h with ended := true }, asleep none { h with global := true, mhat := 0x40000000, mdie := 1 }, asleep none heap0,
    asleep (some (1, 0)) h, asleep (some (1, 0)) { h with tasks := [(2, queuedTask)] }, by and_intros <;> decide +kernel⟩

/-- A launch of one team of eight threads at 0x10000 on lookup cores of die 0 of module 0, with these further bits of word 0. -/
def launch0 (bits : Word) (fate : TeamFate := .running) (w4 : Word := 0) : Launch :=
  { words := ((((Vector.replicate 16 0).set 0 (0x13800 ||| bits)).set 1 0x7F0000000001).set 3 0x10000).set 4 w4
    die := 0, addr := 0x20000, part := some 0, supq := false, queue := 0, tRead := 0, heard := [0], checked := true
    teams := [{ core := if fate = .pending then none else some 0, fate }] }

/-- Launch 0 of the machine. -/
def launched (l : Launch) (s : State) : State := { s with launches := [(0, l)] }

/-- Core 0 without a team. -/
def noTeam (s : State) : State := s.modCore 0 (fun k => { k with team := none })

/-- The first `n` threads of core 0 at work, in this stage. -/
def busy (n stage : Nat) (s : State) : State := (List.range n).foldl (fun s i => s.modThread i (fun t => { t with status := .running, stage })) s

/-- No instruction or queue has anything of thread 0 under way. -/
def quietB (s : State) : Bool := s.reqs.all (fun r => r.tid != 0) && s.lookups.all (fun l => l.tid != 0) && (s.core 0).mqueue.all (fun e => e.tid != 0)
  && decide ((s.thread 0).outstanding = []) && (s.core 0).chans.all (fun k => decide (k = {}))

/-- Exits: of one thread of a team and of the last, of a thread without a team, with a list that ends the window, with one bit too
many, misaligned, past the window, of the supervisor, with a task, with an entry in the queue, in a bundle; launches with a window
and without; stages to go up from, and down. -/
theorem wit_threadEnds : ∃ s t u x y z w v a b c d e f g : State,
    (∀ q ∈ [s, t, u, x, y, z, w, v, a, b, c, d, e, f, g], ∀ m ∈ [metaG 0x36 always [] [1], metaG 0x36 always [] [], metaG 0x36 always [3] []], q.executes m) ∧
    (∀ q ∈ [s, t, u, c, d, e, f, g], quietB q = true ∧ (q.core 0).poisoned = [] ∧ (q.thread 0).stores = [] ∧ q.bundle = none ∧
      q.src.sup = false ∧ q.src.held = none ∧ q.src.granted = false) ∧
    (s.g 1).toNat % poolSize s.kind + 32 = s.accEnd s.myCore ∧ (s.g 1).toNat % 32 = 0 ∧ s.poolNat s.myCore 0xFFFE0 8 = 2 ^ 57 - 2 ^ 7 + 1 ∧
    (s.core 0).team = some team0 ∧ s.launches.get? 0 = some (launch0 0) ∧ (s.thread 1).status = .running ∧
    (t.core 0).team = some team0 ∧ (List.range 8).all (fun i => i == 0 || decide ((t.thread i).status = .ended)) = true ∧
    t.launches.get? 0 = some (launch0 0x10) ∧ (launch0 0x10).win = true ∧ (launch0 0).win = false ∧
    (c.core 0).team = some team0 ∧ (List.range 8).all (fun i => i == 0 || decide ((c.thread i).status = .ended)) = true ∧
    c.launches.get? 0 = some (launch0 0) ∧ (u.core 0).team = none ∧
    x.poolNat x.myCore 0 8 = 0x41 ∧ (x.g 1).toNat = 0 ∧ (y.g 1).toNat % 32 = 1 ∧ z.accEnd z.myCore < (z.g 1).toNat + 32 ∧ (z.g 1).toNat % 32 = 0 ∧
    w.src.sup = true ∧ v.src.held = some 1 ∧ (a.core a.myCore).mqueue.all (fun e => e.tid == a.cur) = true ∧ (a.core a.myCore).mqueue ≠ [] ∧
    (b.bundle).isSome = true ∧ b.cur = 1024 ∧ (b.core b.myCore).mqueue = [] ∧
    (s.core 0).winst.getLsbD 16 = false ∧ (d.core 0).winst.getLsbD 16 = true ∧ (d.core 0).team = some team0 ∧
    (e.core 0).team = some team0 ∧ e.launches.get? 0 = some (launch0 0x100) ∧ (launch0 0x100).stages = 2 ∧ e.src.stage = 0 ∧
    (e.fifo 0 0).recs.length = 24 ∧ ((List.range 8).filter (fun i => (e.thread i).status ≠ .ended ∧ (e.thread i).stage = 0)).length = 8 ∧
    (f.core 0).team = some team0 ∧ f.launches.get? 0 = some (launch0 0x100) ∧ f.src.stage = 1 ∧ (f.fifo 0 0).recs = [] ∧
    ((List.range 8).filter (fun i => (f.thread i).status ≠ .ended ∧ (f.thread i).stage = 1)).length = 2 ∧
    g.launches.get? 0 = some (launch0 0) ∧ (launch0 0).stages = 1 := by
  let ended := fun (s : State) => (List.range 7).foldl (fun s i => s.modThread (i + 1) (fun t => { t with status := .ended })) s
  let l := launch0 0
  exact ⟨launched l (busy 8 0 ((lcc [(1, 0xFFFE0)]).setPoolNat 0 0xFFFE0 8 (2 ^ 57 - 2 ^ 7 + 1))), launched (launch0 0x10) (ended (lcc [])),
    (lcc []).modQuad 0 (fun q => { q with part := some 0 }) |> noTeam, (lcc []).setPoolNat 0 0 8 0x41, lcc [(1, 1)],
    on 0 (thr [(1, 0xFFFE0)]) { partw := 0xFF }, lcc [] { sup := true }, lcc [] { held := some 1 },
    dcc 1 [] {} (block 0 [entry .mma tplMma]), dcc 1 [] {} (block 0), launched l (ended (lcc [])),
    launched (launch0 0x10) ((lcc []).modCore 0 (fun k => { k with winst := 0x10000 })),
    fifo0 { recs := List.replicate 24 1 } (launched (launch0 0x100) (busy 8 0 (lcc []))), launched (launch0 0x100) (busy 2 1 (lcc [])), launched l (lcc []),
    meetsAll (by decide +kernel), by
    and_intros <;> first | decide +kernel⟩

/-- A `DETACH` before a window operation of the thread has left. -/
theorem wit_threadEnds_window : ∃ s : State, s.executes (metaG 0x36 always [] []) ∧ (s.core s.myCore).winst.getLsbD 16 = true ∧ s.src.granted = false ∧
    s.reqs.any (fun r => r.tid == s.cur && r.window && r.st == .waiting) = true :=
  ⟨sent { request (.write 8 1) with window := true } ((lcc []).modCore 0 (fun k => { k with winst := 0x10000 })), runs (by decide +kernel), by decide +kernel⟩

/-- Module 0 up, quad 0 in partition 0 and no team anywhere; queue 0 of die 0 holds this. -/
def idle (q : HostQueue) : State :=
  ((State.reset.modModule 0 (fun m => { m with state := .ready, powered := true, clocks := true, parts := [(0, { ptroot := 0x3000 })] })).modQuad 0
    (fun q => { q with part := some 0 })).setHostQueue 0 0 q

/-- A queue that is enabled, with one block at 0x10000. -/
def queue1 : HostQueue := { ctl := 0x8000000000000000, base := 0x10000, tail := 1 }

/-- The tables of partition 0 map the page at 0x10000. -/
def tables (s : State) : State := s.setDramNat 0 0x3000 8 0x4001 |>.setDramNat 0 0x4000 8 0x5001 |>.setDramNat 0 0x5000 8 0x6001
  |>.setDramNat 0 0x6000 8 0x7001 |>.setDramNat 0 0x7080 8 0x800F

/-- Tails of as many blocks as a queue has and of one more; heads that are absent, unmapped and mapped; blocks that are rejected,
whose partition is held, whose heap another kernel has taken, that start, whose counters cannot be read and which have none; and a head of a
queue that has stopped. -/
theorem wit_launchEvents : ∃ s t u x y z w v b c f : State, ∃ id : Nat,
    (s.hostQueue 0 0).cur = none ∧ s.queueHas 0 0 = false ∧ (s.hostQueue 0 0).size = 16 ∧ (s.hostQueue 0 0).head = 0 ∧
    t.queueHas 0 0 = true ∧ (t.hostQueue 0 0).cur = none ∧ (t.deviceRead 0 (some 0) 0x10000 128).1.toOption.isSome = false ∧
    u.queueHas 0 0 = true ∧ (u.hostQueue 0 0).cur = none ∧ (u.deviceRead 0 (some 0) 0x10000 128).1.toOption.isSome = true ∧
    (∀ q ∈ [x, y, z, w, v, b, c], (q.hostQueue 0 0).cur = some id ∧ (q.hostQueue 0 0).en = true ∧ (q.hostQueue 0 0).stopped = false) ∧
    (f.hostQueue 0 0).cur = some id ∧ (f.hostQueue 0 0).stopped = true ∧ (f.launches.get? id).isSome = true ∧
    (∀ q ∈ [b, c], (q.launches.get? id).map (fun l => (l.checked, l.isHeap, q.heapBusy l)) = some (true, true, true)) ∧
    (b.launches.get? id).map (fun l => decide (l.prog = 0)) = some false ∧ (c.launches.get? id).map (fun l => decide (l.prog = 0)) = some true ∧
    (x.launches.get? id).map (fun l => (l.checked, (x.rejection l).isSome)) = some (false, true) ∧
    (y.launches.get? id).map (fun l => (l.checked, y.partHeld l)) = some (true, true) ∧
    (z.launches.get? id).map (fun l => (l.checked, z.partHeld l)) = some (true, false) ∧
    (z.launches.get? id).map (fun l => (l.isHeap, l.f 6 48 4, z.placement id l)) = some (false, 0, some [(0, 0)]) ∧
    z.unreadHead 0 0 = none ∧ z.betterHead 0 0 id = none ∧ z.launches.sorted = true ∧ z.mem.wf = true ∧
    (z.launches.get? id).map (fun l => (l.teamCount, l.threads, l.teams.length)) = some (1, 8, 1) ∧
    (w.launches.get? id).map (fun l => (w.waitsMet l).1.toOption.isSome) = some false ∧
    (v.launches.get? id).map (fun l => (v.waitsMet l).1.toOption) = some (some true) := by
  let cur := { queue1 with cur := some 0 }
  let l := launch0 0 .pending
  let x := launched { l with checked := false, words := l.words.set 0 3 } (idle cur)
  let y := launched l ((idle cur).setPartition 0 (some 0) { halted := true })
  let z := launched l (idle cur)
  let w := launched { l with words := l.words.set 6 0x1000000000000 } (idle cur)
  let heap := fun (prog : Word) => launched { l with words := (l.words.set 0 (0x13820 ||| prog)).set 11 0x100000000 } ((idle cur).modDie 0 (fun d => { d with heap := some 5 }))
  exact ⟨idle {}, idle queue1, tables (idle queue1), x, y, z, w, z, heap 4, heap 0, launched l (idle { cur with stopped := true }), 0,
    by and_intros <;> decide +kernel⟩

/-- Launches unknown, heard of and not, admitted and not, with a team to start, over with a `GAIN` on its way and with none; and
windows with a member at work and with one held. -/
theorem wit_launchEvents_runs : ∃ s t u x y z w : State,
    s.launches.get? 0 = none ∧
    (t.launches.get? 0).map (fun l => (l.heard, l.over, l.win)) = some ([], false, false) ∧ 0 ∉ (t.die 0).admitted ∧
    (u.launches.get? 0).map (fun l => (l.heard, u.partHeld l, l.threads)) = some ([0], false, 8) ∧
    (u.launches.get? 0).map (fun l => u.placement 0 l) = some (some [(0, 0)]) ∧ 0 ∈ (u.die 0).admitted ∧
    (x.launches.get? 0).map (fun l => l.over) = some true ∧ x.reqs.any (fun r => decide (r.body = .gain 0 2 0x3F800000)) = true ∧
    (y.launches.get? 0).map (fun l => l.over) = some true ∧ y.reqs = [] ∧
    (z.launches.get? 0).map (fun l => (l.win, l.teams.map (fun t => (z.memberGone 0 t, t.fate)))) = some (true, [(false, .running)]) ∧
    (w.launches.get? 0).map (fun l => (l.win, l.teams.map (fun t => (t.fate, t.core)))) = some (true, [(.held, some 0)]) := by
  exact ⟨idle {}, launched { launch0 0 .pending with heard := [] } (idle {}), launched (launch0 0 .pending) ((idle {}).modDie 0 (fun d => { d with admitted := [0] })),
    sent (request (.gain 0 2 0x3F800000)) (launched (launch0 0 .exited) (idle {})), launched (launch0 0 .exited) (idle {}),
    launched (launch0 0x10) (idle {}), launched (launch0 0x10 .held) (idle {}), by and_intros <;> decide +kernel⟩

/-- A command block at 0x1000 in the pool of core 129 for a core, with this operation. -/
def command (target : Nat) (op : Nat) (s : State) : State :=
  ((s.setPoolNat 129 0x1000 8 target).setPoolNat 129 0x1008 8 0x10000).setPoolNat 129 0x1010 8 op

/-- On the die supervisor's core 129, in supervisor mode. -/
def onSuper (b : Word) : State :=
  (on 129 (thr [(1, b)] { sup := true }) {}).modCore 129 (fun k => { k with partw := 0x100, team := none })

/-- Blocks that are misaligned, past the window, with a target that is none, the issuing core and another, and an operation that is none. -/
theorem wit_contexts : ∃ s t u x y z w : State,
    (∀ q ∈ [s, t, u, x, y, z, w], ∀ m ∈ [{ metaG 0x3E always [] [1] with priv := true }], q.executes m) ∧
    (s.g 1).toNat % poolSize s.kind % 32 ≠ 0 ∧ t.accEnd t.myCore < (t.g 1).toNat % poolSize t.kind + 32 ∧ (t.g 1).toNat % poolSize t.kind % 32 = 0 ∧
    (∀ q ∈ [u, x, y, z, w], (q.g 1).toNat = 0x1000 ∧ 0x1000 + 32 ≤ q.accEnd q.myCore ∧ 0x1000 < poolSize q.kind ∧ (q.thread q.cur).stores = [] ∧
      (q.core q.myCore).poisoned = [] ∧ (q.core q.myCore).flipped = [] ∧ q.poolNat q.myCore 0x1011 7 = 0) ∧
    addrForm (Word.of (u.poolNat u.myCore 0x1000 8)) = .nonCanonical ∧ addrForm (Word.of (x.poolNat x.myCore 0x1000 8)) = .core 129 0 ∧ x.myCore = 129 ∧
    addrForm (Word.of (y.poolNat y.myCore 0x1000 8)) = .core 0 0 ∧ y.poolNat y.myCore 0x1010 1 = 3 ∧
    addrForm (Word.of (z.poolNat z.myCore 0x1000 8)) = .core 0 0 ∧ z.poolNat z.myCore 0x1010 1 = 2 ∧ z.src.granted = false ∧
    addrForm (Word.of (w.poolNat w.myCore 0x1000 8)) = .core 0 0 ∧ w.src.granted = true :=
  let b := fun (target op : Nat) => command target op (onSuper 0x1000)
  ⟨onSuper 1, (onSuper 0x80000).modCore 129 (fun k => { k with partw := 0x40 }), b 0x200000000000000 0, b 0x8000000102000000 0, b 0x8000000000000000 3,
    b 0x8000000000000000 2, (b 0x8000000000000000 2).modTh (fun t => { t with granted := true }), meetsAll (by decide +kernel), by decide +kernel⟩

/-- Thread 0 of core 129 waits in an operation on core 0, which holds this. -/
def contextual (op : Nat) (k : Core) : State :=
  ((command 0x8000000000000000 op (onSuper 0x1000)).setCore 0 k).modThread 1032 (fun t => { t with status := .waiting, wait := some (.context op 0x1000) })

/-- Operations on a core with a team at work, stopped, with an entry under way, and on one with none or one that is not free. -/
theorem wit_contexts_events : ∃ s t u x y z w v : State,
    (∀ q ∈ [s, t, u, x, y, z, w, v], ((q.thread 1032).status = .waiting ∧ kindOfCore (coreOfThread 1032) ≠ .dcc ∧ q.dueCause 1032 = none) ∧
      (q.mem.wf = true ∧ (q.core 129).pub = Vector.replicate 4 0 ∧ addrForm (q.ctxTarget 1032 0x1000) = .core 0 0)) ∧
    (s.thread 1032).wait = some (.context 0 0x1000) ∧ (s.core 0).team = some team0 ∧ (s.requestStop 0).quiet 0 = true ∧
    (t.thread 1032).wait = some (.context 1 0x1000) ∧ (t.core 0).team = none ∧
    (u.thread 1032).wait = some (.context 2 0x1000) ∧ (u.requestStop 0).quiet 0 = false ∧ (u.core 0).team = some team0 ∧
    (v.thread 1032).wait = some (.context 2 0x1000) ∧ (v.requestStop 0).quiet 0 = true ∧ (v.core 0).team = some team0 ∧
    (x.thread 1032).wait = some (.context 4 0x1000) ∧ (x.core 0).team = some { team0 with status := .stopped } ∧
    (y.thread 1032).wait = some (.context 3 0x1000) ∧ y.coreFree 0 = false ∧ (z.thread 1032).wait = some (.context 5 0x1000) ∧ z.coreFree 0 = false ∧
    (w.thread 1032).wait = some (.context 4 0x1000) ∧ (w.core 0).team = some team0 ∧ team0.status ≠ .stopped :=
  let at_ := fun (op : Nat) => contextual op { team := some team0 }
  ⟨at_ 0, contextual 1 {}, contextual 2 { team := some team0, chans := (Vector.replicate 4 {}).set 0 { queue := [{ drawEntry with started := true }] } },
    contextual 4 { team := some { team0 with status := .stopped } }, at_ 3, at_ 5, at_ 4, at_ 2, by and_intros <;> decide +kernel⟩

/-- Registers that are assigned and that are not, in either mode; writes of a publish slot whose fields are in order, of one that
meets another, and of one that is off; of `ACCR` with 64 slots, and with 65; instruction caches, assignments and holds. -/
theorem wit_registerAccess : ∃ s t u x y : State,
    (∀ q ∈ [s, t, u, x, y], q.src.status = .running ∧ q.bundle = none) ∧ s.src.sup = true ∧ t.src.sup = false ∧
    (∀ m ∈ [metaMts always 1 0x1C s, metaMts always 1 0x0C s, metaMts always 1 0x45 s, metaMts always 1 0x54 s], s.executes m) ∧
    (∀ m ∈ [metaMts always 1 0x1C u, metaMts always 1 0x0C u, metaMts always 1 0x54 u], u.executes m) ∧
    (∀ m ∈ [metaMts always 1 0x1C x, metaMts always 1 0x0C x, metaMts always 1 0x54 x], x.executes m) ∧
    (∀ m ∈ [metaMts always 1 0x1C y, metaMts always 1 0x54 y], y.executes m) ∧
    (∀ q ∈ [s, u, x, y], (q.thread q.cur).stores = []) ∧
    (s.g 1) = 0 ∧ u.accEnd u.myCore = 0x80000 ∧ u.regFileStart u.myCore = 2 ^ 20 ∧
    (u.g 1).toNat = 2 ^ 63 + 0x80000 * 2 ^ 40 + 0x80000 * 2 ^ 20 ∧ (u.core u.myCore).pub = Vector.replicate 4 0 ∧
    (x.g 1).getLsbD 63 = true ∧ (x.g 1).toNat / 2 ^ 20 % 2 ^ 20 = 0 ∧ (x.g 1).toNat / 2 ^ 51 % 2 ^ 7 = 65 ∧ (y.g 1).toNat / 2 ^ 51 % 2 ^ 7 = 64 ∧
    ((s.die s.myDie).asgsel.toNat / 2 ^ 16 % 2 ^ 3, (s.die s.myDie).asgsel.toNat / 2 ^ 8 % 2 ^ 8) = (0, 0) ∧ (s.quad 0).part = some 0 ∧ (s.core 0).team ≠ none ∧
    (u.die u.myDie).asgsel.toNat / 2 ^ 16 % 2 ^ 3 = 1 ∧ (u.die u.myDie).claims = [] ∧ (x.die x.myDie).asgsel.toNat / 2 ^ 16 % 2 ^ 3 = 2 ∧
    (y.die y.myDie).asgsel.toNat / 2 ^ 16 % 2 ^ 3 = 3 ∧ (s.partition 0 (some 5)).halted = false ∧ (u.partition 0 (some 5)).halted = true := by
  let q := fun (x : Word) (sel : Word) => (lcc [(1, x)] { sup := true }).modDie 0 (fun d => { d with asgsel := sel })
  let s := q 0 0
  let u := ((q 0x8800008000000000 0x10000).modCore 0 (fun k => { k with partw := 0x80 })).setPartition 0 (some 5) { halted := true }
  let x := q 0x8208000000000000 0x20000
  let y := q 0x0200000000000000 0x30000
  exact ⟨s, lcc [], u, x, y, by decide +kernel, by decide +kernel, by decide +kernel, meets (by decide +kernel), meets (by decide +kernel),
    meets (by decide +kernel), meets (by decide +kernel), by and_intros <;> decide +kernel⟩

/-- Reads and writes in supervisor mode, of a register open to it. -/
theorem wit_systemRegisters : ∃ s : State,
    (∀ n ∈ [0x000, 0x00B, 0x00D, 0x04D, 0x04F, 0x054, 0x067], s.executes { metaG 0x3C always [3] [] with sys := sysCheck n false s.src.sup }) ∧
    (∀ n ∈ [0x001, 0x017, 0x018, 0x044, 0x047, 0x04B, 0x04D, 0x04E, 0x067], s.executes (metaMts always 1 n s)) ∧ (s.g 1).getLsbD 8 = false ∧
    s.asgTarget s.myDie ≠ .none ∧ s.assignment s.myDie (s.asgTarget s.myDie) = some 0 := by
  have h : [0x000, 0x00B, 0x00D, 0x04D, 0x04F, 0x054, 0x067].all (fun n => executesB (lcc [] { sup := true })
      { metaG 0x3C always [3] [] with sys := sysCheck n false (lcc [] { sup := true }).src.sup }) = true := by decide +kernel
  have h2 : [0x001, 0x017, 0x018, 0x044, 0x047, 0x04B, 0x04D, 0x04E, 0x067].all (fun n => executesB (lcc [] { sup := true })
      (metaMts always 1 n (lcc [] { sup := true }))) = true := by decide +kernel
  exact ⟨lcc [] { sup := true }, fun n hn => runs (List.all_eq_true.1 h n hn), fun n hn => runs (List.all_eq_true.1 h2 n hn), by decide +kernel⟩

/-- Traps of a thread with a handler, in one, with none, with a long-latency instruction under way, with an exhausted chain; one
waiting for its trap; returns from a handler to each mode, and with a reserved bit; halts of a partition and of none. -/
theorem wit_traps : ∃ s t u x y z w v a : State,
    (∀ q ∈ [s, t, u, x, y, z, w, v], ∀ m ∈ [metaG 0x3E always [] []], q.executes m) ∧
    (∀ q ∈ [s, x, v, a], ∀ m ∈ [{ metaG 0x3E always [] [] with priv := true }], q.executes m) ∧
    (s.thread 0).outstanding = [] ∧ (s.thread 0).hnd = false ∧ (s.thread 0).tvec.getLsbD 0 = true ∧
    (t.thread 0).hnd = true ∧ (t.thread 0).tchain.getLsbD 2 = false ∧ (u.thread 0).tvec.getLsbD 0 = false ∧ (u.thread 0).hnd = false ∧
    (x.thread 0).outstanding.any (fun o => !o.ended) = true ∧ (y.thread 0).hnd = true ∧ (y.thread 0).tchain = 7 ∧ (y.core 0).halt = none ∧
    t.src.tsaved = 1 ∧ z.src.hnd = true ∧ z.src.tsaved = 2 ∧ s.partOfCore s.myCore = some 0 ∧ a.kind = .super ∧ v.partOfCore v.myCore = none ∧
    v.kind = .lookup ∧ kindOfCore 0 ≠ .super ∧ w.src.status = .running := by
  let s := lcc [] { sup := true, tvec := 0x20001 }
  let t := lcc [] { hnd := true, tsaved := 1 }
  let x := lcc [] { sup := true, outstanding := [{ id := 9, writes := gs [3] }] }
  exact ⟨s, t, lcc [], x, lcc [] { hnd := true, tchain := 7 }, lcc [] { hnd := true, tsaved := 2 }, lcc [],
    noTeam (lcc [] { sup := true }) |>.modQuad 0 (fun q => { q with part := none }), onSuper 0, meetsAll (by decide +kernel), meetsAll (by decide +kernel),
    by and_intros <;> decide +kernel⟩

/-- A thread that waits to trap, with and without an instruction under way; threads whose trap goes to a supervisor: from a lookup core,
from a supervisor's, and from one that handles the trap of another and has one place further to go, and none. -/
theorem wit_traps_entry : ∃ s t a b c e : State, ∃ u : TrapInfo, (∀ q ∈ [s, t], (q.thread 0).status = .waiting ∧ (q.thread 0).wait = some (.trap u)) ∧
    (s.thread 0).outstanding = [] ∧ (t.thread 0).outstanding.any (fun o => !o.ended) = true ∧ u.origin = 0 ∧
    (a.thread 0).tvec.getLsbD 0 = false ∧ (a.thread 0).tchain.toNat % 8 = 0 ∧ kindOfCore 0 ≠ .super ∧
    (∀ q ∈ [b, c, e], (q.thread 1032).outstanding = [] ∧ (q.thread 1032).tvec.getLsbD 0 = false) ∧ kindOfCore (coreOfThread 1032) = .super ∧
    (b.thread 1032).tchain.toNat % 8 = 0 ∧ 2 ^ 15 ≤ (b.die 0).hchain.toNat / 2 ^ 16 % 2 ^ 16 ∧
    (c.thread 1032).tchain.toNat % 8 = 4 ∧ 2 ^ 15 ≤ (c.thread 1032).tchain.toNat / 2 ^ 16 % 2 ^ 16 ∧ (c.thread 1032).origin = some 5 ∧
    (e.thread 1032).tchain.toNat % 8 = 4 ∧ (e.thread 1032).tchain.toNat / 2 ^ 16 % 2 ^ 16 < 2 ^ 15 ∧ 0 ∈ coresOfQuad (quadOfCore (5 / 8)) ∧
    (e.core 0).halt = none :=
  let chained := fun (chain : Word) => (onSuper 0).modThread 1032 (fun t => { t with tchain := chain, origin := some 5 })
  ⟨waiting (.trap { cause := .illegal }) (lcc []), waiting (.trap { cause := .illegal }) (lcc [] { outstanding := [{ id := 9, writes := gs [3] }] }),
    lcc [], (onSuper 0).modDie 0 (fun d => { d with hchain := 0x81000000 }), chained 0x80000004, chained 4, { cause := .illegal }, by and_intros <;> decide +kernel⟩

/-- Objects to assign: a quad without a team, and an object that a launch has claimed; and no object at all. -/
theorem wit_registerRows : ∃ s t u : State,
    s.executes (metaMts always 1 0x54 s) ∧ t.executes (metaMts always 1 0x54 t) ∧ (∀ q ∈ [s, t], (q.g 1).toNat = 0x100) ∧
    (s.die s.myDie).asgsel.toNat / 2 ^ 16 % 2 ^ 3 = 0 ∧ (s.die s.myDie).asgsel.toNat / 2 ^ 8 % 2 ^ 8 = 1 ∧
    (∀ c ∈ coresOfQuad 1, (s.core c).team = none ∧ s.savedAt c = none) ∧
    (t.die t.myDie).asgsel.toNat / 2 ^ 16 % 2 ^ 3 = 1 ∧ (t.die t.myDie).objPart[(0 : Fin 16)] ≠ some 0 ∧ (t.die t.myDie).claims.any (fun c => c.1.testBit 0) = true ∧
    u.executes { metaG 0x3C always [3] [] with sys := sysCheck 0x54 false u.src.sup } ∧ u.asgTarget u.myDie = .none :=
  let q := fun (sel : Word) => (lcc [(1, 0x100)] { sup := true }).modDie 0 (fun d => { d with asgsel := sel })
  ⟨q 0x100, (q 0x10000).modDie 0 (fun d => { d with claims := [(1, 5)] }), q 0x70000,
    by and_intros <;> first | exact runs (by decide +kernel) | decide +kernel⟩

/-- A thread that has waited one cycle longer than the limit, and one that has not; a core halted, its record not written, whose
messages are gone, and one with a message on its way. -/
theorem wit_timeAndRecords : ∃ s t u x : State, ∃ k k' : Core, ∃ h : HaltMark,
    (s.thread 0).status = .waiting ∧ (s.thread 0).wait = some (.counter 0 1) ∧ Wait.watched (.counter 0 1) = true ∧
    (s.core 0).wdog.toNat % 2 ^ 16 = 1 ∧ 65536 < (s.module 0).cycles - (s.thread 0).waitCycle ∧ (s.thread 0).pending = [] ∧
    (t.module 0).cycles - (t.thread 0).waitCycle = 65536 ∧ (t.core 0).wdog.toNat % 2 ^ 16 = 1 ∧
    u.cores = [(0, k)] ∧ k.halt = some h ∧ h.written = false ∧ u.reqs = [] ∧ u.mem.wf = true ∧ (u.module 0).poisoned = [] ∧
    (u.module 0).haltbase.toNat + 256 ≤ 2 ^ 41 ∧ x.cores = [(0, k')] ∧ k'.halt = some h ∧
    x.reqs.any (fun r => r.src == 0 && r.left && r.st == .waiting && decide (r.body = .message 0 0 [1])) = true := by
  let s := fun (n : Nat) => (waiting (.counter 0 1) (lcc [])).modCore 0 (fun k => { k with wdog := 1 }) |>.modModule 0 (fun m => { m with cycles := n })
  let k : Core := { halt := some { cause := 1, cycle := 5, time := 0, part := some 0, written := false } }
  let u := idle {} |>.setCore 0 k
  exact ⟨s 65537, s 65536, u, sent { request (.message 0 0 [1]) with left := true } u, k, k,
    { cause := 1, cycle := 5, time := 0, part := some 0, written := false }, by and_intros <;> decide +kernel⟩

/-- A time reached and one to come, a message in the queue; a trace class that is off, a ring that is full, one that wraps, one with room;
and counters open to a user, closed to one, and cleared by the supervisor. -/
theorem wit_timeAndRecords_instructions : ∃ s t u x y z : State,
    (∀ q ∈ [s, t, u, x, y, z], ∀ m ∈ [metaG 0x3E always [3] [], metaG 0x3E always [] [1], metaG 0x3E always [3] [1]], q.executes m) ∧
    (s.g 1).toNat = 0 ∧ s.src.granted = false ∧ (t.g 1).toNat = 7 ∧ (t.module t.myModule).timeRun = false ∧ t.src.granted = false ∧
    (t.core t.myCore).rqptr = 0 ∧ (u.g 1).toNat = 7 ∧ (u.core u.myCore).rqptr.toNat / 2 ^ 32 ≠ (u.core u.myCore).rqptr.toNat % 2 ^ 32 ∧
    (s.core 0).trctl.getLsbD 63 = false ∧
    (x.core 0).trctl.getLsbD 63 = true ∧ (x.core 0).trctl.getLsbD 8 = true ∧ (x.core 0).trctl.getLsbD 62 = false ∧ (x.core 0).trptr.toNat = 127 ∧
    2 ^ ((x.core 0).trctl.toNat % 16 + 7) = 128 ∧ x.mem.wf = true ∧ (x.core 0).trbase.toNat + 32 * 127 + 32 ≤ 2 ^ 41 ∧
    (y.core 0).trctl.getLsbD 63 = true ∧ (y.core 0).trctl.getLsbD 8 = true ∧ (y.core 0).trctl.getLsbD 62 = false ∧ (y.core 0).trptr.toNat = 128 ∧
    s.src.sup = false ∧ (s.g 1).getLsbD 3 = false ∧ ((s.core 0).psel[0]).getLsbD 30 = false ∧ ((t.core 0).psel[7]).getLsbD 30 = true ∧
    z.src.sup = true ∧ (z.g 1).getLsbD 3 = true :=
  let r := fun (n : Word) (s : State) => s.modCore 0 (fun k => { k with trctl := 0x8000000000000100, trptr := n, psel := Vector.replicate 8 0x40000000 })
  ⟨lcc [], r 0 (lcc [(1, 7)]), queued 32 (lcc [(1, 7)]), r 127 (lcc []), r 128 (lcc []), lcc [(1, 8)] { sup := true },
    meetsAll (by decide +kernel), by and_intros <;> decide +kernel⟩

/-- Modules without power, in each state of bring-up, up, and committing an image.  Whether an image verifies, and whether a bridge
is enabled, is the free functions' to say (log 24): either case is stated. -/
theorem wit_bringUp : ∃ s t u x y z : State, (s.module 0).powered = false ∧ (t.module 0).powered = true ∧ (t.module 0).state = .reset ∧
    (u.module 0).powered = true ∧ (u.module 0).state = .rom ∧ (imageOk 0 (u.module 0).flash = true ∨ imageOk 0 (u.module 0).flash = false) ∧
    (x.module 0).state = .train ∧ (y.module 0).state = .ready ∧ (y.module 0).powered = true ∧ (z.module 0).flashing = true :=
  let s := fun (k : Module) => State.reset.setModule 0 k
  ⟨s {}, s { powered := true }, s { powered := true, state := .rom }, s { powered := true, state := .train }, s { powered := true, state := .ready },
    s { flashing := true }, by and_intros <;> first | exact Bool.eq_false_or_eq_true _ | decide +kernel⟩

/-- Each operation in progress, in a state that allows it and in one that does not; chunks at the end of the staging buffer and past
it; and an operation that is none. -/
theorem wit_mailbox : ∃ k : Nat → BringUp → Module,
    (∀ op ∈ [1, 2, 3, 4, 5], ∀ st ∈ [BringUp.reset, .ready, .recovery], let s := State.reset.setModule 0 (k op st)
      (s.module 0).mbcode = 1 ∧ (s.module 0).mbrun = BitVec.ofNat 8 op ∧ (s.module 0).state = st) ∧
    (k 3 .ready).mbval.toNat % 2 ^ 32 + min 8192 ((k 3 .ready).mbval.toNat / 2 ^ 48 + 1) = 48 * 2 ^ 20 ∧
    48 * 2 ^ 20 < (k 3 .recovery).mbval.toNat % 2 ^ 32 + min 8192 ((k 3 .recovery).mbval.toNat / 2 ^ 48 + 1) ∧
    (k 4 .ready).flashing = false ∧ (k 4 .recovery).flashing = true ∧ (∀ op st, (k op st).mbbuf.wf = true ∧ (k op st).staging.wf = true) :=
  ⟨fun op st => { state := st, powered := true, mbcode := 1, mbrun := BitVec.ofNat 8 op, flashing := st == .recovery
                  mbval := if st = .ready then 0x1FFF000002FFE000 else 0x1FFF000002FFE001 },
    by and_intros <;> first | decide +kernel | exact fun _ _ => ⟨rfl, rfl⟩⟩

/-- Accesses to a module that has no power, in reset and up; past the members of every group, and to the first member.  Whether the
module's bridge is enabled is the configuration's to say: either case is stated. -/
theorem wit_hostAccesses : ∃ s t u : State, ∃ off : Nat, (Config.bridgeEnabled 0 = true ∨ Config.bridgeEnabled 0 = false) ∧ (s.module 0).powered = false ∧ (t.module 0).powered = true ∧ (t.module 0).state = .reset ∧
    (u.module 0).state = .ready ∧ (u.module 0).powered = true ∧ (u.module 0).mbcode ≠ 1 ∧ (Config.groupCount 0).toNat + 1 ≤ off / 2 ^ 20 ∧
    0 < (Config.groupCount 0).toNat + 1 :=
  let s := fun (k : Module) => State.reset.setModule 0 k
  ⟨s {}, s { powered := true }, s { powered := true, state := .ready }, 16 * 2 ^ 20, Bool.eq_false_or_eq_true _, by decide +kernel, by decide +kernel, by decide +kernel,
    by decide +kernel, by decide +kernel, by decide +kernel, by have := (Config.groupCount 0).isLt; omega, by omega⟩

/-- A BAR2 access of a byte to the first member of a group, which is up. -/
theorem wit_hostAccesses_bar2 : ∃ (s : State) (m off : Nat) (bytes : List (BitVec 8)), (s.module m).powered = true ∧
    off / 2 ^ 41 < (Config.groupCount m).toNat + 1 ∧ (s.module ((Config.groupFirst m).toNat + off / 2 ^ 41)).state = .ready ∧
    off % 2 ^ 41 + bytes.length ≤ 2 ^ 41 ∧ (s.module ((Config.groupFirst m).toNat + off / 2 ^ 41)).poisoned = [] ∧ s.mem.wf = true := by
  refine ⟨((State.reset.setModule (Config.groupFirst 0).toNat { state := .ready, powered := true }).modModule 0 (fun k => { k with powered := true })),
    0, 0, [1], ?_⟩
  generalize (Config.groupFirst 0).toNat = n
  refine ⟨?_, by omega, ?_, by decide, ?_, rfl⟩ <;>
  · cases n
    · rfl
    · simp [State.modModule, State.setModule, State.module, State.reset, Tbl.put, Tbl.getD, Tbl.get?]

/-- Time that runs and does not; modules up and not; a lock that has been lost, and one that is kept; droops; a module that trips, one
that has tripped with a record to write, and one with none. -/
theorem wit_timePowerHeat : ∃ s t u x y z : State,
    (s.module 0).state = .ready ∧ (s.module 0).timeRun = false ∧ (t.module 0).state = .ready ∧ (t.module 0).timeRun = true ∧
    (z.module 0).state = .train ∧ (u.module 0).lockHeld = true ∧ (u.module 0).lastLock + 2 ^ 31 < (u.module 0).cycles ∧ (s.module 0).lockHeld = false ∧
    (s.die 0).droop = false ∧ (x.die 0).droop = true ∧ (s.module 0).tripped = false ∧ (s.module 0).ttrip.toNat ≤ 255 ∧ 0 < (s.module 0).ttrip.toNat ∧
    (y.module 0).tripped = true ∧ y.cores.any (fun e => e.1 / 4096 == 0 && e.2.halt.any (fun h => !h.written)) = true ∧ (x.module 0).tripped = true ∧
    x.cores.all (fun e => e.2.halt.isNone) = true ∧ (s.core 0).team = some team0 ∧ team0.part = some 0 ∧ (s.core 0).halt = none ∧ (0, s.core 0) ∈ s.cores :=
  let s := fun (f : Module → Module) => (lcc []).modModule 0 f
  ⟨s id, s (fun k => { k with timeRun := true, time := 1000 }), s (fun k => { k with lockHeld := true, cycles := 2 ^ 31 + 1 }),
    (s (fun k => { k with tripped := true })).setDie 0 { droop := true },
    (s (fun k => { k with tripped := true })).modCore 0 (fun k => { k with halt := some { cause := 3, cycle := 5, time := 0, part := some 0, written := false } }),
    s (fun k => { k with state := .train }), by and_intros <;> decide +kernel⟩

/-- A thread of a lookup core and one of the DCC, in any wait. -/
theorem wit_waitsEnd (w : Wait) : (waiting w (lcc [])).waits 0 w ∧
    (let s := (dcc 0 []).modThread 1024 (fun t => { t with status := .waiting, wait := some w })
     (s.thread 1024).status = .waiting ∧ (s.thread 1024).wait = some w ∧ kindOfCore (coreOfThread 1024) = .dcc) :=
  ⟨⟨rfl, rfl, by decide⟩, rfl, rfl, by decide⟩

/-- The thread of these tests next, its page of code mapped and in the instruction cache. -/
def coded (ws : List Nat) (s : State) : State :=
  { s.placeCode s.cur 0x10000 (ws.flatMap (bytesOf 4)) with sched := [.issue s.cur], bundle := none }

noncomputable def decodesTo (w x : Nat) : Option Instr := (decode w x).toOption

/-- Steps of one word, of two, of a word that stands for nothing, of a bundle, of a miss, of an event and of a cause. -/
theorem wit_stepRunsDecoded : ∃ s t u x y z w : State,
    (∀ q ∈ [s, t, u], let v : State := { q.pass with sched := [], cur := 0, bundle := none }
      q.sched = [.issue 0] ∧ v.th.status = .running ∧ v.dueCause 0 = none ∧ v.kind ≠ .dcc) ∧
    s.pass.fetch 0 = .words [0x01190A00] ∧ decodesTo 0x01190A00 0 = some (.add ⟨false, 0⟩ 3 4 5) ∧
    t.pass.fetch 0 = .words [0x47100000, 0x12345678] ∧ decodesTo 0x47100000 0x12345678 = some (.limmDw ⟨false, 0⟩ 2 0x12345678) ∧
    u.pass.fetch 0 = .words [0] ∧ decodesTo 0 0 = none ∧
    x.sched = [.issue 1024] ∧ x.pass.fetch 1024 = .words [0x0E000040, 0x0E000040, 0x0E000040, 0x0E000040] ∧ (x.thread 1024).status = .running ∧
    (match y.pass.fetch 0 with
      | .wait f => decide (f = .walk { req := reqFetch 0, core := 0, part := some 0, va := 0x10000, own := true })
      | _ => false) = true ∧ y.sched = [.issue 0] ∧
    z.sched = [.event 0] ∧ z.agenda[0]? = some (.powerGood 0) ∧
    w.sched = [.issue 0] ∧ (w.thread 0).status = .running ∧ (w.dueCause 0).isSome = true :=
  ⟨coded [0x01190A00] (lcc []), coded [0x47100000, 0x12345678] (lcc []), coded [0] (lcc []),
    coded [0x0E000040, 0x0E000040, 0x0E000040, 0x0E000040] (dcc 0 []), { lcc [] with sched := [.issue 0] },
    { State.reset with sched := [.event 0], agenda := [.powerGood 0] },
    { lcc [] { pending := [{ cause := .watchdog, origin := 6 }] } with sched := [.issue 0] }, by and_intros <;> decide +kernel⟩

/-- What the fetch of thread 0 at 0x10000 translates to. -/
def fetches (s : State) : Trans :=
  s.translate { req := reqFetch 0, core := 0, part := s.partOfThread 0, va := 0x10000, sup := (s.thread 0).sup, own := true } (s.thread 0).sup .fetch

/-- The instruction cache of quad 0 holds this line. -/
def fetched (l : FetchLine) (s : State) : State := s.modQuad 0 (fun q => { q with icache := [l] })

/-- A pc that is not canonical, and one misaligned; a page that is missing, one that may not be fetched from, one past DRAM; a line
that is not in the cache, one with a parity error, one that cannot be corrected and one that is sound; and on the DCC. -/
theorem wit_fetching : ∃ s t u x y z p w v d : State,
    (s.thread 0).pc = 0x200000000000000 ∧ (t.thread 0).pc = 0x10002 ∧ (u.thread 0).pc = 0x10000 ∧ fetches u = .miss ∧
    fetches x = .fault .pageProt 0 ∧ fetches y = .ok { pte := 0x4000000002F, size := 12, off := 0, leaf := 0x1000, m := 0 } ∧
    (∀ q ∈ [z, p, w, v], fetches q = .ok { pte := 0x2002F, size := 12, off := 0, leaf := 0x1000, m := 0 }) ∧
    (z.quad 0).icache = [] ∧ (p.quad 0).icache.find? (fun l => l.line == 0x800 && !l.parity) = none ∧
    (w.quad 0).icache.find? (fun l => l.line == 0x800 && !l.parity) = some { line := 0x800, data := 7, bad := true } ∧
    (v.quad 0).icache.find? (fun l => l.line == 0x800 && !l.parity) = some { line := 0x800, data := 0x1234567847100000 } ∧
    v.fetchWord 0 0x10000 = .word 0x47100000 ∧ v.fetchWord 0 0x10004 = .word 0x12345678 ∧ (decode2 0x47100000 0).isSome = true ∧
    (decode2 0x40000000 0).isSome = false ∧ (d.thread 1024).pc.toNat % 16 = 0 ∧
    (∀ k ∈ [0, 4, 8, 12], d.fetchWord 1024 (0x10000 + k) = .word 0x0E000040) :=
  let at_ := fun (f : State → State) => f (mapped 0x2E (lcc []))
  let line : FetchLine := { line := 0x800, data := 7 }
  ⟨(lcc []).modThread 0 (fun t => { t with pc := 0x200000000000000 }), (lcc []).modThread 0 (fun t => { t with pc := 0x10002 }), lcc [],
    mapped 0x2 (lcc []), (lcc []).modQuad 0 (fun q => { q with tlb := [{ asid := 0, base := 0x10, size := 12, pte := 0x4000000002F, leaf := 0x1000 }] }),
    at_ id, at_ (fetched { line with parity := true }), at_ (fetched { line with bad := true }), at_ (fetched { line with data := 0x1234567847100000 }),
    coded [0x0E000040, 0x0E000040, 0x0E000040, 0x0E000040] (dcc 0 []), by and_intros <;> decide +kernel⟩

/-- A bundle about to issue; addresses that its slots may load from and store to, and that they may not; the long form; and a slot that traps. -/
theorem wit_bundles : ∃ s t : State, (∀ q ∈ [s, t], q.bundle = none ∧ q.th.status = .running ∧ q.kind = .dcc ∧ q.th.windows = [] ∧
      q.th.outstanding = [] ∧ q.th.badRegs = [] ∧ q.th.flipRegs = [] ∧ q.guardHolds always = true) ∧
    (let ea := fun (a : GReg) => (s.g a + 8 * (0 : BitVec 6).signExtend 64).toNat % poolSize .dcc
     ea 1 + 8 = s.accEnd s.myCore ∧ ea 1 % 8 = 0 ∧ ea 2 % 8 ≠ 0 ∧ ea 2 + 8 ≤ s.accEnd s.myCore) ∧ (s.core s.myCore).poisoned = [] ∧ s.th.long = true ∧
    t.accEnd t.myCore < (t.g 1 + 8 * (0 : BitVec 6).signExtend 64).toNat % poolSize .dcc + 8 ∧
    ∃ u b, exec (.div always 3 0 0) { s with bundle := some { slot := 0, old := s.th } } = .next u ∧ u.bundle = some b ∧ b.trap.isSome = true := by
  refine ⟨{ dcc 0 [(1, 0x1FFFFF8), (2, 1)] { long := true } with bundle := none },
    { dcc 0 [(1, 0x1FFFFF8)] {} { partw := 0x40C0 } with bundle := none }, ?_, ?_, ?_, ?_, ?_, ?_⟩
  iterate 5 decide +kernel
  have h : (match exec (.div always 3 0 0) { dcc 0 [(1, 0x1FFFFF8), (2, 1)] { long := true } with
        bundle := some { slot := 0, old := (dcc 0 [(1, 0x1FFFFF8), (2, 1)] { long := true }).th } } with
      | .next u => u.bundle.any (fun b => b.trap.isSome)
      | _ => false) = true := by decide +kernel
  revert h
  split
  · next u hu =>
    intro h
    obtain ⟨b, hb, hx⟩ := (Option.any_eq_true _ _).1 h
    exact ⟨u, b, hu, hb, hx⟩
  · intro h; cases h

/-- Shapes that meet each check first: a class that the core lacks, a long form, a system register, a privilege, a window, a
register on its way, a guard that does not hold, a register that is uncorrectable or holds a single-bit error; and one that issues. -/
theorem wit_issueOrder : ∃ s t u x b f : State,
    (∀ q ∈ [s, t, u, x, b, f], q.th.status = .running ∧ q.bundle = none ∧ ∀ n : Fin 2, q.th.lcbeg[n].getLsbD 0 = false) ∧
    classOn 0x3A s.kind = false ∧ s.th.long = false ∧ sysCheck 0x55 true s.src.sup = some .illegal ∧ s.th.windows = [] ∧ s.th.badRegs = [] ∧
    t.th.long = true ∧ u.th.windows = [⟨3, gs [1], gs [2]⟩] ∧ x.th.outstanding = [{ id := 9, writes := gs [3] }] ∧
    s.guardHolds { p := 0, neg := true } = false ∧ s.executes (metaG 1 always [3] [1, 2]) ∧
    badRead (metaG 1 always [3] [1, 2]) b = some (.g 1) ∧ badRead (metaG 1 always [3] [1, 2]) f = none ∧
    flipReads (metaG 1 always [3] [1, 2]) f = [.g 1] :=
  ⟨lcc [], lcc [] { long := true }, lcc [] { windows := [⟨3, gs [1], gs [2]⟩] }, lcc [] { outstanding := [{ id := 9, writes := gs [3] }] },
    lcc [] { badRegs := [.g 1] }, lcc [] { flipRegs := [.g 1] }, by
    and_intros <;> first | exact runs (by decide +kernel) | decide +kernel⟩

/-- Register forms, a divisor that is not 0, and loads and stores at the end of the window. -/
theorem wit_frames : ∃ s : State,
    (∀ m ∈ [metaG 1 always [3] [1, 2], metaG 1 always [3] [1], metaG 1 always [3] [3, 1, 2], metaG 1 always [3] [1] 2, metaG 1 always [3] [3, 1] 2,
      metaG 2 always [3] [1], metaG 3 always [3] [1], metaG 4 always [3] [1], metaG 5 always [3] [1], metaG 2 always [3] [1] 2,
      metaG 3 always [3] [1] 2, metaG 4 always [3] [1] 2, metaG 5 always [3] [1] 2, metaG 6 always [3] [1], metaG 7 always [3] [],
      metaG 7 always [3] [] 2, metaG 7 always [3] [3], metaG 7 always [3] [3] 2, metaG 0x10 always [3] [1], metaG 0x10 always [] [3, 1]], s.executes m) ∧
    s.bundle = none ∧ s.mem.wf = true ∧ (∀ n : Fin 2, s.th.lcbeg[n].getLsbD 0 = false) ∧ (s.thread s.cur).stores = [] ∧
    (∀ p ∈ (s.core s.myCore).pub, p.getLsbD 63 = false) ∧ (s.core s.myCore).poisoned = [] ∧ s.g 2 ≠ 0 ∧ s.holdStores = false ∧
    (∀ n ∈ [1, 2, 4, 8], (s.g 1 + Word.of n * (BitVec.ofNat 6 0).signExtend 64).toNat % poolSize s.kind + n ≤ s.accEnd s.myCore ∧
      (s.g 1 + Word.of n * (BitVec.ofNat 6 0).signExtend 64).toNat % poolSize s.kind % n = 0) :=
  ⟨lcc [(1, 0xFFFF8), (2, 1)], by
    and_intros <;> first | exact meets (by decide +kernel) | exact no_pub (by decide +kernel) | decide +kernel⟩

/-- An instruction whose registers are the last of their range, and a word that decodes, whose words are below 2^32. -/
theorem wit_encodeDecode : (Instr.add always 31 31 31).words ≠ 0 ∧ (Instr.add always 31 31 31).wf = true ∧
    decodesTo 0x01190A00 0 = some (.add ⟨false, 0⟩ 3 4 5) := by decide +kernel

theorem wit_stepGoesOn : State.reset.eventsOnly = true ∧ State.reset.mem.wf = true ∧ ∃ t, step State.reset = .next t :=
  ⟨by decide, by decide, State.reset.pass, rfl⟩

/-! ## A context image, which is longer than a mebibyte (R340) -/

/-- Page tables of partition 0 at 0x1000, 0x2000 and 0x3000 of module 0's DRAM: the first GiB of its addresses lies at 1 GiB. -/
def entries : List (Nat × Nat) := [(0x1000, 0x2001), (0x2000, 0x3001), (0x3000, 0x400000EF)]

def tabled (s : State) : State :=
  (entries.foldl (fun s e => s.setDramNat 0 e.1 8 e.2) s).setPartition 0 (some 0) { ptroot := 0x1000 }

def TablesOk (s : State) : Prop :=
  s.mem.wf = true ∧ ((s.module 0).poisoned = [] ∧ (s.module 0).flipped = []) ∧ (s.partition 0 (some 0)).root = 1 ∧
    ∀ e ∈ entries, ∀ i < 8, s.mem.read (e.1 + i) = (bytesOf 8 e.2).getD i 0

/-- What reading the image leaves of the machine: only counts at the units change, and no byte. -/
structure Reads (s t : State) : Prop where
  ok : TablesOk t
  rest : t = { s with mem := t.mem, modules := t.modules }
  bytes : ∀ k, t.mem.read k = s.mem.read k

theorem Reads.trans {s t u : State} (h : Reads s t) (g : Reads t u) : Reads s u :=
  ⟨g.ok, by rw [g.rest, h.rest], fun k => (g.bytes k).trans (h.bytes k)⟩

theorem Reads.frame {s t : State} (h : Reads s t) : t.cores = s.cores ∧ t.threads = s.threads ∧ t.launches = s.launches ∧ t.saved = s.saved := by
  rw [h.rest]; exact ⟨rfl, rfl, rfl, rfl⟩

theorem touch_reads {s : State} (h : TablesOk s) (pa : Nat) (pin : Bool) : Reads s (s.touch 0 pa pin) := by
  refine ⟨⟨h.1, ?_, ?_, h.2.2.2⟩, rfl, fun _ => rfl⟩
  · constructor
    · rw [← h.2.1.1]; cases pin <;> simp [State.touch, Module.pinFrame] <;> split <;> rfl
    · rw [← h.2.1.2]; cases pin <;> simp [State.touch, Module.pinFrame] <;> split <;> rfl
  · rw [← h.2.2.1]; cases pin <;> simp [State.touch, Module.pinFrame, State.partition] <;> split <;> rfl

theorem readAt_reads {s : State} (h : TablesOk s) (pa n : Nat) (pin : Bool) : Reads s (s.readAt 0 pa n pin) := by
  have : s.dramCorrect 0 (wordsOf (ownedPa pa) n) = s := by simp [State.dramCorrect, h.2.1.2]
  rw [State.readAt, this]
  exact touch_reads h pa pin

theorem owned_low {pa : Nat} (h : pa < 2 ^ 41) : dramKey 0 (ownedPa pa) = pa := by
  have : pa / 2 ^ 41 = 0 := Nat.div_eq_of_lt h
  rw [dramKey, ownedPa, this, if_neg (by decide)]
  omega

theorem entry_read {s : State} (h : TablesOk s) {pa v : Nat} (he : (pa, v) ∈ entries) : s.dramNat 0 pa 8 = v := by
  have hr := h.2.2.2 _ he
  have hb : ∀ i < 8, s.dramByte 0 (pa + i) = (bytesOf 8 v).getD i 0 := by
    intro i hi
    rw [State.dramByte, owned_low (by simp only [entries, List.mem_cons, Prod.mk.injEq, List.not_mem_nil, or_false] at he; omega)]
    exact hr i hi
  have : s.dramBytes 0 pa 8 = (List.range 8).map (fun i => (bytesOf 8 v).getD i 0) :=
    List.map_congr_left (fun i hi => hb i (List.mem_range.1 hi))
  rw [State.dramNat, this]
  simp only [entries, List.mem_cons, Prod.mk.injEq, List.not_mem_nil, or_false] at he
  rcases he with ⟨rfl, rfl⟩ | ⟨rfl, rfl⟩ | ⟨rfl, rfl⟩ <;> decide +kernel

def leafWord : Word := 0x400000EF

theorem leaf_facts : pteW leafWord = true ∧ pteTOL leafWord = false ∧ pteRED leafWord = false ∧
    pteFrame leafWord * 4096 / 2 ^ 30 * 2 ^ 30 = 2 ^ 30 := by decide +kernel

def imageLeaf (va : Nat) : Place := { pte := leafWord, size := 30, off := va, leaf := 0x3000, m := 0 }

theorem wf_writes {l : List (Byte × Nat)} {k : Nat → Nat} : ∀ {m : Memory}, m.wf = true →
    (l.foldl (fun mm (e : Byte × Nat) => mm.write (k e.2) e.1) m).wf = true := by
  induction l with
  | nil => intro m h; exact h
  | cons e l ih => intro m h; exact ih (Memory.wf_write _ _ h)

theorem read_writes {l : List (Byte × Nat)} {k : Nat → Nat} {i : Nat} : ∀ {m : Memory}, m.wf = true → (∀ e ∈ l, k e.2 ≠ i) →
    (l.foldl (fun mm (e : Byte × Nat) => mm.write (k e.2) e.1) m).read i = m.read i := by
  induction l with
  | nil => intro m _ _; rfl
  | cons e l ih =>
    intro m h hk
    rw [List.foldl_cons, ih (Memory.wf_write _ _ h) (fun x hx => hk x (List.mem_cons_of_mem _ hx)), Memory.read_write _ _ _ h]
    rw [if_neg]
    have := hk e (List.mem_cons_self ..)
    omega

theorem same_writes {l : List (Byte × Nat)} {k : Nat → Nat} : ∀ {m : Memory}, m.wf = true → (∀ e ∈ l, m.read (k e.2) = e.1) →
    ∀ i, (l.foldl (fun mm (e : Byte × Nat) => mm.write (k e.2) e.1) m).read i = m.read i := by
  induction l with
  | nil => intro m _ _ i; rfl
  | cons e l ih =>
    intro m h hk i
    have same : ∀ j, (m.write (k e.2) e.1).read j = m.read j := by
      intro j
      rw [Memory.read_write _ _ _ h]
      split
      · rename_i he; rw [he, hk e (List.mem_cons_self ..)]
      · rfl
    rw [List.foldl_cons, ih (Memory.wf_write _ _ h) (fun x hx => by rw [same]; exact hk x (List.mem_cons_of_mem _ hx)), same]

theorem unit_writes {s : State} (h : TablesOk s) (pa : Nat) (bs : List Byte) : s.unitWrite 0 pa bs = s.setDramBytes 0 pa bs := by
  have h1 : ((s.setDramBytes 0 pa bs).module 0).poisoned = [] := h.2.1.1
  have h2 : ((s.setDramBytes 0 pa bs).module 0).flipped = [] := h.2.1.2
  simp [State.unitWrite, State.dramClean, h1, h2]

theorem tables_write {s : State} (h : TablesOk s) {pa : Nat} {bs : List Byte} (hl : 2 ^ 30 ≤ pa) (hu : pa + bs.length ≤ 2 ^ 31) :
    TablesOk (s.unitWrite 0 pa bs) := by
  rw [unit_writes h]
  refine ⟨wf_writes (k := fun j => dramKey 0 (ownedPa (pa + j))) h.1, h.2.1, h.2.2.1, ?_⟩
  intro e he i hi
  rw [← h.2.2.2 e he i hi]
  refine read_writes (k := fun j => dramKey 0 (ownedPa (pa + j))) h.1 ?_
  intro x hx
  have hj := (List.mem_zipIdx hx).2.1
  simp only [Nat.zero_add] at hj
  have hlow : e.1 ≤ 0x3000 := by
    simp only [entries, List.mem_cons, List.not_mem_nil, or_false] at he
    rcases he with rfl | rfl | rfl <;> decide
  show dramKey 0 (ownedPa (pa + x.2)) ≠ e.1 + i
  rw [owned_low (by omega)]
  omega

theorem leaf_reads {s : State} (h : TablesOk s) {b : Nat} (hb : 0x400000EF ||| b = 0x400000EF) : Reads s (s.orPte 0 0x3000 b) := by
  have hv : bytesOf 8 (s.dramNat 0 0x3000 8 ||| b) = bytesOf 8 0x400000EF := by
    rw [entry_read h (pa := 0x3000) (v := 0x400000EF) (by decide), hb]
  have hr := readAt_reads h 0x3000 8 false
  have hn : (s.readAt 0 0x3000 8 false).dramNat 0 0x3000 8 = s.dramNat 0 0x3000 8 := by
    rw [entry_read h (v := 0x400000EF) (by decide), entry_read hr.ok (v := 0x400000EF) (by decide)]
  refine hr.trans ?_
  rw [State.orPte]
  simp only [hn, hv]
  generalize s.readAt 0 0x3000 8 false = s at hr
  have h := hr.ok
  rw [if_neg (by simp [State.dramBad, h.2.1.1]), unit_writes h]
  have hk : ∀ x ∈ (bytesOf 8 0x400000EF).zipIdx, s.mem.read (dramKey 0 (ownedPa (0x3000 + x.2))) = x.1 := by
    intro x hx
    obtain ⟨-, hj, hx1⟩ := List.mem_zipIdx hx
    have hj8 : x.2 < 8 := by simpa [bytesOf] using hj
    rw [owned_low (by omega), h.2.2.2 (0x3000, 0x400000EF) (by decide) x.2 hj8]
    simp only [Nat.sub_zero] at hx1
    rw [hx1, List.getD_eq_getElem?_getD, List.getElem?_eq_getElem (by simpa using hj), Option.getD_some]
  have same := same_writes (k := fun j => dramKey 0 (ownedPa (0x3000 + j))) h.1 hk
  exact ⟨⟨wf_writes (k := fun j => dramKey 0 (ownedPa (0x3000 + j))) h.1, h.2.1, h.2.2.1, fun e he i hi => (same _).trans (h.2.2.2 e he i hi)⟩, rfl, same⟩

theorem image_walk {s : State} (h : TablesOk s) {va : Nat} (hv : va < 2 ^ 30) :
    ∃ l, s.deviceWalk 0 va 5 5 (s.partition 0 (some 0)).root = (.ok (imageLeaf va), l) := by
  have h5 : levelIndex va 5 = 0 := by unfold levelIndex levelShift; omega
  have h4 : levelIndex va 4 = 0 := by unfold levelIndex levelShift; omega
  have h3 : levelIndex va 3 = 0 := by unfold levelIndex levelShift; omega
  have bad : ∀ pa n, s.dramBad 0 pa n = false := fun pa n => by simp [State.dramBad, h.2.1]
  have w5 : s.walkRead 0 1 5 va = .descend 2 := by
    simp only [State.walkRead, State.dramFault, h5, bad, entry_read h (pa := 0x1000) (v := 0x2001) (by decide), Nat.reduceMul, Nat.reduceAdd]
    rfl
  have w4 : s.walkRead 0 2 4 va = .descend 3 := by
    simp only [State.walkRead, State.dramFault, h4, bad, entry_read h (pa := 0x2000) (v := 0x3001) (by decide), Nat.reduceMul, Nat.reduceAdd]
    rfl
  have w3 : s.walkRead 0 3 3 va = .leaf 0x3000 0x400000EF := by
    simp only [State.walkRead, State.dramFault, h3, bad, entry_read h (pa := 0x3000) (v := 0x400000EF) (by decide), Nat.reduceMul, Nat.reduceAdd]
    rfl
  have hoff : va % 2 ^ levelShift 3 = va := Nat.mod_eq_of_lt hv
  refine ⟨[1 * 4096, 2 * 4096, 3 * 4096], ?_⟩
  rw [h.2.2.1]
  simp only [State.deviceWalk, h5, h4, h3, w5, w4, w3, hoff]
  rfl

theorem image_place {s : State} (h : TablesOk s) {va : Nat} (hv : va < 2 ^ 30) (w : Bool) :
    ∃ t, s.imagePlace 0 (some 0) va w = (.ok (imageLeaf va), t) ∧ Reads s t := by
  have reads : ∀ (l : List Nat) (s : State), TablesOk s → Reads s (l.foldl (fun s pa => s.readAt 0 pa 8 false) s) := by
    intro l
    induction l with
    | nil => exact fun s h => ⟨h, rfl, fun _ => rfl⟩
    | cons a l ih => exact fun s h => (readAt_reads h a 8 false).trans (ih _ (readAt_reads h a 8 false).ok)
  obtain ⟨l, hl⟩ := image_walk h hv
  have hr := reads l s h
  rw [State.imagePlace, if_neg (by omega), hl]
  refine ⟨_, ?_, hr.trans (leaf_reads hr.ok (b := if w then bitA ||| bitD else bitA) ?_)⟩
  · simp [imageLeaf, leaf_facts]
  · cases w <;> decide

theorem leaf_pa {va : Nat} : (imageLeaf va).pa = 2 ^ 30 + va := by
  have ht : pteTOL (imageLeaf va).pte = false := leaf_facts.2.1
  rw [Place.pa, ht, Place.base]
  simp only [imageLeaf, leaf_facts]
  rfl

theorem image_read {s : State} (h : TablesOk s) (hz : ∀ k, 2 ^ 30 ≤ k → k < 2 ^ 31 → s.mem.read k = 0) :
    ∀ (n va : Nat), va + 64 * n ≤ 2 ^ 30 →
      ∃ t, s.imageRead 0 (some 0) va n = (.ok (List.replicate (64 * n) 0), t) ∧ Reads s t := by
  intro n
  induction n generalizing s with
  | zero => exact fun va _ => ⟨s, rfl, h, rfl, fun _ => rfl⟩
  | succ n ih =>
    intro va hv
    obtain ⟨t, ht, hr⟩ := image_place h (va := va) (by omega) false
    have bs : t.dramBytes 0 (2 ^ 30 + va) 64 = List.replicate 64 0 := by
      rw [State.dramBytes, List.eq_replicate_iff]
      refine ⟨by simp, ?_⟩
      intro b hb
      obtain ⟨i, hi, rfl⟩ := List.mem_map.1 hb
      have := List.mem_range.1 hi
      rw [State.dramByte, owned_low (by omega), hr.bytes]
      exact hz _ (by omega) (by omega)
    have hr2 := hr.trans (readAt_reads hr.ok (2 ^ 30 + va) 64 (ptePIN (imageLeaf va).pte))
    obtain ⟨u, hu, hr3⟩ := ih hr2.ok (fun k h1 h2 => (hr2.bytes k).trans (hz k h1 h2)) (va + 64) (by omega)
    have hm : memoryAt (2 ^ 30 + va) = true := by simp [memoryAt]; omega
    refine ⟨u, ?_, hr2.trans hr3⟩
    rw [State.imageRead, ht]
    simp only [leaf_pa, State.dramFault, State.dramBad, hr.ok.2.1.1, List.isEmpty_nil, if_true, hm, hu, bs, List.replicate_append_replicate]
    simp only [Nat.mul_succ, Nat.add_comm]
    rfl

theorem image_write : ∀ (fuel va : Nat) (bs : List Byte) (s : State), TablesOk s → va + 64 * fuel ≤ 2 ^ 30 →
    ∃ s', s.imageWrite 0 (some 0) fuel va bs = (none, s') := by
  intro fuel
  induction fuel with
  | zero => intro va bs s _ _; exact ⟨s, rfl⟩
  | succ n ih =>
    intro va bs s h hv
    rw [State.imageWrite]
    by_cases hb : bs.isEmpty = true
    · exact ⟨s, by rw [if_pos hb]⟩
    · obtain ⟨t, ht, hr⟩ := image_place h (va := va) (by omega) true
      rw [if_neg hb, ht]
      have hm : memoryAt (2 ^ 30 + va) = true := by simp [memoryAt]; omega
      simp only [leaf_pa, hm, Bool.not_true, Bool.false_eq_true, if_false]
      refine ih (va + 64) (bs.drop 64) _ (tables_write (touch_reads hr.ok _ _).ok (by omega) ?_) (by omega)
      have : (bs.take 64).length ≤ 64 := List.length_take_le ..
      omega

theorem pad_length (n : Nat) (bs : List Byte) : (padTo n bs).length ≤ n := List.length_take_le ..

theorem image_length (s : State) (tm : Team) (crc : BitVec 64) :
    (s.imageHeader 0 tm crc ++ s.imageBody 0 tm).length ≤ 2 ^ 21 := by
  have hk : kindOfCore 0 = .lookup := by decide
  have hh : (s.imageHeader 0 tm crc).length = 64 := by simp [State.imageHeader, bytesOf]
  have hs : (List.flatMap (fun i => padTo 0x2000 (if i < tm.threads then threadSection (s.thread (8 * 0 + i)) else [])) (List.range 8)).length
      ≤ 8 * 0x2000 := by
    rw [List.length_flatMap]
    have : ∀ (f : Nat → Nat) (l : List Nat), (∀ i, f i ≤ 0x2000) → (l.map f).sum ≤ l.length * 0x2000 := by
      intro f l hf
      induction l with
      | nil => simp
      | cons a l ih => have := hf a; simp only [List.map_cons, List.sum_cons, List.length_cons]; omega
    exact Nat.le_trans (this _ (List.range 8) (fun i => pad_length ..)) (by simp)
  have ht := pad_length 0xF000 (teamSection (s.core 0) tm ((s.stagedReqs 0).filter Req.staged))
  rw [List.length_append, hh, State.imageBody]
  simp only [hk, List.length_append, List.length_map, List.length_range, List.length_replicate, reduceCtorEq, if_false, List.length_nil]
  have hp : poolSize .lookup = 2 ^ 20 := rfl
  omega

theorem save_ends {s : State} (h : TablesOk s) (hp : s.partOfCore 0 = some 0) (hc : s.releaseCore 0 4 = s) (hs : ∀ i < 8, (s.thread (8 * 0 + i)).stores = []) :
    ∃ s', s.saveTeam 0 team0 0x10000 = (s', 1) := by
  have hd : ∀ l : List Nat, (∀ i ∈ l, i < 8) → l.foldl (fun s i => State.drainAll s (8 * 0 + i)) s = s := by
    intro l
    induction l with
    | nil => intro _; rfl
    | cons a l ih =>
      intro hl
      have ha : s.drainAll (8 * 0 + a) = s := by rw [State.drainAll, hs a (hl a (List.mem_cons_self ..))]; rfl
      rw [List.foldl_cons, ha]
      exact ih (fun i hi => hl i (List.mem_cons_of_mem _ hi))
  rw [State.saveTeam, hd (List.range 8) (fun i hi => List.mem_range.1 hi), hc, hp]
  have hl := image_length s team0 (crc64 (s.imageBody 0 team0))
  obtain ⟨s', hw⟩ := image_write ((s.imageHeader 0 team0 (crc64 (s.imageBody 0 team0)) ++ s.imageBody 0 team0).length / 64 + 1)
    0x10000 (s.imageHeader 0 team0 (crc64 (s.imageBody 0 team0)) ++ s.imageBody 0 team0) s h (by omega)
  have hm : moduleOfCore 0 = 0 := by decide
  simp only [hm, hw]
  exact ⟨_, rfl⟩

/-- The die supervisor's thread waits in this operation on core 0. -/
def commands (s : State) (op : Nat) : Prop :=
  ((s.thread 1032).status = .waiting ∧ (s.thread 1032).wait = some (.context op 0x1000) ∧ kindOfCore (coreOfThread 1032) ≠ .dcc) ∧
    s.dueCause 1032 = none ∧ s.mem.wf = true ∧ (s.core 129).pub = Vector.replicate 4 0 ∧ addrForm (s.ctxTarget 1032 0x1000) = .core 0 0

/-- A SAVE that writes its image: the team of core 0, at rest, into the first GiB of its partition. -/
theorem wit_contexts_save : ∃ s : State,
    commands s 1 ∧ (s.core 0).team = some team0 ∧ (s.requestStop 0).quiet 0 = true ∧
    ∃ s', (s.requestStop 0).saveTeam 0 team0 (s.ctxArea 1032 0x1000) = (s', 1) := by
  let s := (tabled (contextual 1 { team := some team0 })).modQuad 0 (fun q => { q with part := some 0 })
  have ha : s.ctxArea 1032 0x1000 = 0x10000 := by decide +kernel
  have hok : TablesOk (s.requestStop 0) := by unfold TablesOk; decide +kernel
  have hq : ((s.requestStop 0).quad (quadOfCore 0)).cache = [] := by decide +kernel
  have hs := save_ends hok (by decide +kernel) (by simp [State.releaseCore, State.cleanQuad, State.cleanLines, hq]) (by decide +kernel)
  have hc : commands s 1 := by unfold commands; and_intros <;> decide +kernel
  exact ⟨s, hc, by decide +kernel, by decide +kernel, by rw [ha]; exact hs⟩

theorem crc_zero : ∀ n : Nat, crc64 (List.replicate n 0) = 0 := by
  have step : ∀ (n : Nat), (List.replicate n (0 : Byte)).foldl (fun c b => crcStep (c ^^^ ((b.setWidth 64 : BitVec 64) <<< 56)) 8) 0 = 0 := by
    intro n
    induction n with
    | zero => rfl
    | succ n ih =>
      rw [List.replicate_succ, List.foldl_cons]
      have h : crcStep ((0 : BitVec 64) ^^^ (((0 : Byte).setWidth 64 : BitVec 64) <<< 56)) 8 = 0 := by decide +kernel
      rw [h, ih]
  exact step

theorem body_zero {n o k : Nat} (h : o - 64 + k ≤ n) : bodyAt (List.replicate n 0) o k = List.replicate k 0 := by
  rw [bodyAt, List.drop_replicate, List.take_replicate]
  congr 1
  omega

/-- The image of zeros: a team without threads, whose block's address, index and CRC are 0. -/
def zeros : List Byte := List.replicate (64 * 18431) 0

theorem load_ends {s : State} (h : TablesOk s) (hz : ∀ k, 2 ^ 30 ≤ k → k < 2 ^ 31 → s.mem.read k = 0) (hp : s.partOfCore 0 = some 0)
    (hf : s.coreFree 0 = true) {x : SavedTeam} (hx : ∀ t, Reads s t → t.savedOf 0 0 = some x) :
    ∃ t, s.loadTeam 0 0x10000 = (t.landTeam 0 x 0 zeros, 1) ∧ Reads s t := by
  have hk : kindOfCore 0 = .lookup := by decide
  have hm : moduleOfCore 0 = 0 := by decide
  have hn : imageSize .lookup / 64 - 1 = 18431 := by decide
  obtain ⟨t, h1, r1⟩ := image_read h hz 1 0x10000 (by decide)
  obtain ⟨u, h2, r2⟩ := image_read r1.ok (fun k a b => (r1.bytes k).trans (hz k a b)) 18431 (0x10000 + 64) (by decide)
  have n1 : natOfBytes ((List.drop 0 (List.replicate (64 * 1) (0 : Byte))).take 1) = 0 := by decide +kernel
  have n2 : natOfBytes ((List.drop 24 (List.replicate (64 * 1) (0 : Byte))).take 8) = 0 := by decide +kernel
  have n3 : natOfBytes ((List.drop 32 (List.replicate (64 * 1) (0 : Byte))).take 4) = 0 := by decide +kernel
  have n4 : natOfBytes ((List.drop 56 (List.replicate (64 * 1) (0 : Byte))).take 8) = 0 := by decide +kernel
  have n5 : natOfBytes ((List.drop 1 (List.replicate (64 * 1) (0 : Byte))).take 1) = 0 := by decide +kernel
  have hc : crc64 (List.replicate (64 * 18431) 0) = 0 := crc_zero _
  refine ⟨u, ?_, r1.trans r2⟩
  rw [State.loadTeam]
  simp only [hf, hp, hk, hm, hn, h1, h2, n1, n2, n3, n4, n5, hx u (r1.trans r2), hc, Bool.not_true, Bool.false_eq_true, if_false]
  rfl

def savedTeam : SavedTeam := { home := 0, launch := 0, index := 0, part := some 0, cc := Vector.replicate 16 0 }

theorem reqs_zero : savedTeam.reqs 0 zeros = [] := by
  rw [SavedTeam.reqs, teamImage, zeros, body_zero (by decide)]
  decide +kernel

/-- The team of zeros has come into core 0 of a machine whose cores, threads and launches are these. -/
def LandedAs (s t : State) : Prop :=
  t.core (coreOfThread 1032) = s.core (coreOfThread 1032) ∧ t.thread 1032 = s.thread 1032 ∧
    (t.core 0).team = some { launch := 0, index := 0, threads := 0, part := some 0, status := .stopped, latched := true }

/-- Core 0 is free, and the die supervisor holds the record of a team whose image is zeros. -/
def restorable : State :=
  { (tabled (contextual 5 {})).modQuad 0 (fun q => { q with part := some 0 }) with
    saved := [savedTeam]
    launches := [(0, { words := Vector.replicate 16 0, die := 0, addr := 0, part := some 0, supq := false, queue := 0, tRead := 0,
                       heard := [], teams := [{}] })] }

theorem modLaunch_rest (u : State) (id : Nat) (f : Launch → Launch) :
    (u.modLaunch id f).cores = u.cores ∧ (u.modLaunch id f).threads = u.threads := by
  unfold State.modLaunch; split <;> exact ⟨rfl, rfl⟩

theorem modLaunch_win (u : State) (id : Nat) (f : Launch → Launch) (hf : ∀ l, (f l).win = l.win) :
    ((u.modLaunch id f).launches.get? id).map Launch.win = (u.launches.get? id).map Launch.win := by
  unfold State.modLaunch
  split
  · next l h => simp [h, hf]
  · rfl

/-- A team without threads and packets, of a launch without a window, comes into a core. -/
theorem landTeam_rest (t : State) (x : SavedTeam) (body : List Byte) (hr : x.reqs 0 body = [])
    (hw : (t.launches.get? x.launch).map Launch.win = some false) :
    (t.landTeam 0 x 0 body).cores = (t.setCore 0 ((t.core 0).landed 0 x 0 body)).cores ∧ (t.landTeam 0 x 0 body).threads = t.threads := by
  unfold State.landTeam
  rw [hr]
  simp only [List.foldl_nil, Nat.zero_min, List.range_zero]
  rw [modLaunch_win (hf := ?_)]
  have hw : ∀ u : State, u.launches = t.launches → ((u.launches.get? x.launch).map Launch.win).getD false = false := fun u hu => by
    rw [hu, hw]; rfl
  rw [if_neg (by rw [hw] <;> first | exact Bool.false_ne_true | rfl)]
  · exact modLaunch_rest ..
  · exact fun _ => rfl

theorem landed {t : State} (h : Reads restorable t) : LandedAs restorable (t.landTeam 0 savedTeam 0 zeros) := by
  have hcore : ∀ k, t.core k = restorable.core k := fun k => by rw [State.core, State.core, h.frame.1]
  have hteam : ((t.core 0).landed 0 savedTeam 0 zeros).team =
      some { launch := 0, index := 0, threads := 0, part := some 0, status := .stopped, latched := true } := by
    rw [hcore, Core.landed, if_neg (by decide), teamImage, zeros, body_zero (by decide)]
    decide +kernel
  obtain ⟨hc, ht⟩ := landTeam_rest t savedTeam zeros reqs_zero (by rw [h.frame.2.2.1]; decide +kernel)
  generalize (t.core 0).landed 0 savedTeam 0 zeros = k at *
  generalize t.landTeam 0 savedTeam 0 zeros = u at *
  refine ⟨?_, ?_, ?_⟩
  · have h129 : coreOfThread 1032 = 129 := by decide
    rw [State.core, hc, ← hcore, h129]
    simp [State.setCore, State.core]
  · rw [State.thread, ht, h.frame.2.1, State.thread]
  · rw [State.core, hc, ← hteam]
    simp [State.setCore]

/-- A LOAD and START that finds its image, and restores a stopped team. -/
theorem wit_contexts_load : ∃ (s s' : State) (tm : Team),
    commands s 5 ∧ s.loadTeam 0 (s.ctxArea 1032 0x1000) = (s', 1) ∧
    s'.core (coreOfThread 1032) = s.core (coreOfThread 1032) ∧ s'.thread 1032 = s.thread 1032 ∧ s'.mem.wf = true ∧
    (s'.core 0).team = some tm ∧ tm.status = .stopped := by
  have ha : restorable.ctxArea 1032 0x1000 = 0x10000 := by decide +kernel
  have hok : TablesOk restorable := by unfold TablesOk; decide +kernel
  have hz : ∀ k, 2 ^ 30 ≤ k → k < 2 ^ 31 → restorable.mem.read k = 0 := by
    intro k h1 h2
    have all : ∀ c ∈ restorable.mem, c.1 < 2 ^ 30 ∨ 2 ^ 31 ≤ c.1 := by decide +kernel
    have none : ∀ m : Memory, (∀ c ∈ m, c.1 < 2 ^ 30 ∨ 2 ^ 31 ≤ c.1) → m.read k = 0 := by
      intro m
      induction m with
      | nil => intro _; rfl
      | cons c m ih =>
        intro h
        have := h c (List.mem_cons_self ..)
        obtain ⟨j, b⟩ := c
        rw [Memory.read_cons, if_neg (by simp only at this; omega)]
        exact ih (fun c hc => h c (List.mem_cons_of_mem _ hc))
    exact none _ all
  have hx : ∀ t, Reads restorable t → t.savedOf 0 0 = some savedTeam := fun t h => by rw [State.savedOf, h.frame.2.2.2, h.frame.2.2.1]; decide +kernel
  obtain ⟨t, hl, hr⟩ := load_ends hok hz (by decide +kernel) (by decide +kernel) hx
  have hm : (t.landTeam 0 savedTeam 0 zeros).mem.wf = true := landTeam_kept (iv := true) _ _ _ _ hr.ok.1
  obtain ⟨h1, h2, h3⟩ := landed hr
  have hc : commands restorable 5 := by unfold commands; and_intros <;> decide +kernel
  exact ⟨restorable, _, _, hc, by rw [ha]; exact hl, h1, h2, hm, h3, rfl⟩

/-! ### Exact values and elements -/

/-- Exact, between two values, in the middle above an even and above an odd significand, beyond the largest value and at it,
and below the smallest normal; modes that round up and that do not. -/
theorem wit_floatRounding : Tag.f32.float = some f32Fmt ∧
    (∀ x ∈ [((1 : Nat), (1 : Nat), (0x3F800000 : Nat)), (16777217, 1, 0x4B800000), (16777219, 1, 0x4B800001), (2 ^ 128, 1, 0x7F800000),
        (2 ^ 24 - 1, 1, 0x4B7FFFFF), (3, 2 ^ 150, 1), (1, 3, 0x3EAAAAAA)],
      f32Fmt.mag x.2.2 * x.2.1 ≤ x.1 * f32Fmt.perOne ∧ x.1 * f32Fmt.perOne < f32Fmt.mag (x.2.2 + 1) * x.2.1) ∧
    f32Fmt.mag 0x3F800000 = f32Fmt.perOne ∧
    (f32Fmt.mag 0x4B800000 + f32Fmt.mag 0x4B800001) * 1 = 2 * (16777217 * f32Fmt.perOne) ∧
    (f32Fmt.mag 0x4B800001 + f32Fmt.mag 0x4B800002) * 1 = 2 * (16777219 * f32Fmt.perOne) ∧
    (f32Fmt.mag 0x3EAAAAAA + f32Fmt.mag 0x3EAAAAAB) * 3 < 2 * (1 * f32Fmt.perOne) ∧
    0x7F7FFFFF < 0x7F800000 ∧ f32Fmt.low 0x7F7FFFFF ≤ 0x7F7FFFFF ∧ f32Fmt.low 0xFF800000 = 0x7F800000 ∧ 0x7F800000 < f32Fmt.low 0xFFC00000 ∧
    f32Fmt.round .rne true 16777219 1 = (0xCB800002, flagNX) ∧ f32Fmt.round .rtz true 16777219 1 = (0xCB800001, flagNX) ∧
    f32Fmt.round .sat false (2 ^ 128) 1 = (0x7F7FFFFF, flagOF ||| flagNX) ∧ f32Fmt.round .rne false 3 (2 ^ 150) = (2, flagNX ||| flagUF) := by
  decide +kernel

/-- Finite lanes of both signs and zeros of both, an infinity of each sign, and a NaN. -/
theorem wit_floatSums : Tag.f32.float = some f32Fmt ∧
    (∀ x ∈ [0x3F800000, 0xBF800000, 0, 0x80000000], f32Fmt.isFin x = true) ∧ f32Fmt.isInf 0x7F800000 = true ∧
    f32Fmt.isInf 0xFF800000 = true ∧ f32Fmt.isNeg 0xFF800000 = true ∧ f32Fmt.isNeg 0x7F800000 = false ∧
    (f32Fmt.val 0x7FC00000).isNan = true ∧ f32Fmt.low 0x80000000 = 0 ∧ f32Fmt.low 0x3F800000 ≠ 0 := by
  decide +kernel

/-- Products of numbers, of a NaN, of 0 and an infinity, of an infinity alone, and of two infinities that differ in sign. -/
theorem wit_dotTree : Tag.bf16 ∈ [Tag.bf16, .f16, .f8a, .f8b, .f6] ∧ Tag.bf16.float = some bf16Fmt ∧
    IsSumOfTwo bf16Fmt bf16Fmt (0x3F80, 0x3F80) (0x4000, 0x3F80) (0x40400000, 0) ∧
    IsSumOfTwo bf16Fmt bf16Fmt (0x7FC0, 0x3F80) (0x4000, 0x3F80) (0x7FC00000, 0) ∧
    IsSumOfTwo bf16Fmt bf16Fmt (0x7F80, 0) (0x7FC0, 0x3F80) (0x7FC00000, flagNV) ∧
    IsSumOfTwo bf16Fmt bf16Fmt (0xFF80, 0x3F80) (0x4000, 0x3F80) (0xFF800000, 0) ∧
    IsSumOfTwo bf16Fmt bf16Fmt (0xFF80, 0x3F80) (0x7F80, 0x3F80) (0x7FC00000, flagNV) := by
  refine ⟨by decide, by decide, ?_, ?_, ?_, ?_, ?_⟩ <;> simp only [IsSumOfTwo] <;>
    refine ⟨fun h => ?_, fun h h1 h2 => ?_, fun h h1 h2 h3 => ⟨fun h4 h5 => ?_, fun h4 h5 => ?_, fun h4 h5 => ?_, fun h4 h5 => ?_⟩⟩ <;>
    first | decide +kernel | exact absurd h (by decide +kernel) | exact absurd h1 (by decide +kernel) | exact absurd h2 (by decide +kernel)
          | exact absurd h3 (by decide +kernel) | exact absurd h4 (by decide +kernel) | exact absurd h5 (by decide +kernel)

/-- Lanes of one integer tag; dot products of bytes, of nibbles in long mode and of halves; and a destination of another tag. -/
theorem wit_integerProducts : ∃ s t u x : State, (∀ q ∈ [s, t, u, x], ∀ m ∈ [fused], q.executes m) ∧
    (s.vec 2).2.isInt = true ∧ (s.vec 3).2 = (s.vec 2).2 ∧ (s.vec 1).2 = (s.vec 2).2 ∧ (s.vec 1).2 ∉ [Tag.i32] ∧
    (t.vec 2).2 = .i8 ∧ (t.vec 3).2 = .z8 ∧ (t.vec 1).2 = .i32 ∧ (u.vec 2).2 = .i4 ∧ (u.vec 3).2 = .z4 ∧ (u.vec 1).2 = .i32 ∧
    (x.vec 2).2 = .z16 ∧ (x.vec 3).2 = .i16 ∧ (x.vec 1).2 = .i32 :=
  ⟨lcc [] (vecs [(1, { tag := .i8 }), (2, { tag := .i8 }), (3, { tag := .i8 })]),
    lcc [] (vecs [(1, { tag := .i32 }), (2, { tag := .i8 }), (3, { tag := .z8 })]),
    lcc [] (longRegs [(1, { tag := .i32 }), (2, { tag := .i4 }), (3, { tag := .z4 })]),
    lcc [] (vecs [(1, { tag := .i32 }), (2, { tag := .z16 }), (3, { tag := .i16 })]), meetsAll (by decide +kernel), by decide +kernel⟩

/-- A lane in the middle between two whole numbers, one beyond the integer format, and one that is no number; integers, floats,
an infinity and a NaN converted to a float format. -/
theorem wit_conversionValues : Tag.i8.isInt = true ∧ Tag.f32.float = some f32Fmt ∧ f32Fmt.isFin 0x3FC00000 = true ∧
    f32Fmt.mag 0x3FC00000 % f32Fmt.perOne * 2 = f32Fmt.perOne ∧ f32Fmt.mag 0x3FC00000 / f32Fmt.perOne = 1 ∧
    f32Fmt.isFin 0x43804000 = true ∧ 127 < f32Fmt.mag 0x43804000 / f32Fmt.perOne ∧ f32Fmt.mag 0x43804000 % f32Fmt.perOne ≠ 0 ∧
    Tag.f8a.float.isSome = true ∧ Tag.f6.float.isSome = true ∧ f32Fmt.isInf 0xFF800000 = true ∧ (f32Fmt.val 0xFFC00000).isNan = true ∧
    f32Fmt.isFin 0x80000000 = true ∧ Tag.i64.isInt = true ∧ (2 ^ 64 - 1 < 2 ^ Tag.i64.width) ∧
    convert .f32 .i8 .sat 0x3FC00000 = (2, flagNX) ∧ convert .f32 .i8 .rne 0x43804000 = (127, flagNV ||| flagNX) := by
  decide +kernel

/-- A finite maximum, 0, and one that is not finite; an element larger and smaller than the super-scale, and one that is a NaN
or infinite; a scale of 0; the middle between two codes; and a super-scale that is infinite. -/
theorem wit_quantisedElements : f32Fmt.isFin 0x437F0000 = true ∧ superScale 0x437F0000 = (0x3F800000, 0) ∧ superScale 1 = (1, 0) ∧
    f32Fmt.isFin 0x7F800000 = false ∧ f32Fmt.mag (f32Fmt.low 0x3F800000) ≠ 0 ∧ f32Fmt.mag (f32Fmt.low 0x80000000) = 0 ∧
    f32Fmt.isNeg 0x3F800000 = false ∧ scaleByte 0x40200000 0x3F800000 = (3, 0) ∧ scaleByte 0x44800000 0x3F800000 = (255, 0) ∧
    (f32Fmt.val 0x7FC00000).isNan = true ∧ f32Fmt.isInf 0x7F800000 = true ∧
    qn4Element 0x40000000 1 0x3F800000 = (15, flagNX) ∧ qn4Element 0xBF800000 1 0x3F800000 = (0, 0) ∧
    qn4Element 0x3D180000 1 0x3F800000 = (7, flagNX) ∧ dqn4Element 0 255 0x3F800000 = (0xC37F0000, 0) := by
  decide +kernel

/-! ### Barriers, streams and links: further clauses -/

/-- An arrival that is recorded, in the phase that it arrived in and in the next; a die object named by the DCC, in a phase that is over
and in one that is not, by the last arrival and by a phase that the operand gives; and a quad of another partition. -/
theorem wit_barriers_recorded : ∃ s t u x y z : State,
    (∀ q ∈ [s, t, z], ∀ m ∈ [metaG 0x31 always [] [1], metaG 0x31 always [] [1, 2]], q.executes m) ∧
    (∀ q ∈ [u, x, y], ∀ m ∈ [metaG 0x31 always [] [1], metaG 0x31 always [3] [1]], q.executes m) ∧
    (∀ q ∈ [s, t], q.objRef q.cur (q.g 1) = .quad 0 1 ∧ q.objAllowed q.cur (.quad 0 1) = true ∧ (q.obj (.quad 0 1)).memb = 3 ∧
      ((ObjRef.quad 0 1).num, q.src.pc) ∈ q.src.barrw ∧ q.reqs = []) ∧
    s.th.lastb = some ((ObjRef.quad 0 1).num, (s.obj (.quad 0 1)).phase.toNat) ∧
    t.th.lastb ≠ some ((ObjRef.quad 0 1).num, (t.obj (.quad 0 1)).phase.toNat) ∧
    (∀ q ∈ [u, x, y], (q.g 1).toNat / 2 ^ 8 % 8 = 2 ∧ q.kind ≠ .lookup ∧ q.objAllowed q.cur (q.objRef q.cur (q.g 1)) = true ∧ q.src.granted = false) ∧
    bit (u.g 1) 48 = false ∧ (u.thread u.cur).lastb ≠ some ((u.objRef u.cur (u.g 1)).num, (u.obj (u.objRef u.cur (u.g 1))).phase.toNat) ∧
    bit (x.g 1) 48 = true ∧ ((x.obj (x.objRef x.cur (x.g 1))).phase - BitVec.ofNat 16 ((x.g 1).toNat / 2 ^ 32 % 2 ^ 16)).toNat = 2 ^ 15 - 1 ∧
    bit (y.g 1) 48 = true ∧ ((y.obj (y.objRef y.cur (y.g 1))).phase - BitVec.ofNat 16 ((y.g 1).toNat / 2 ^ 32 % 2 ^ 16)).toNat = 2 ^ 15 ∧
    (z.g 1).toNat / 2 ^ 8 % 8 < 2 ∧ 0 < (z.g 2).toNat ∧ z.objAllowed z.cur (z.objRef z.cur (z.g 1)) = false :=
  let rec_ := fun (phase : BitVec 16) => object { memb := 3, arrv := 1, phase }
    (lcc [(1, 1)] { lastb := some ((ObjRef.quad 0 1).num, 0), barrw := [((ObjRef.quad 0 1).num, 0x10000)] })
  let die := fun (ga : Word) (phase : BitVec 16) => (dcc 1 [(1, ga)]).modDie (dieOfCore 128) (fun d => { d with
    objPart := Vector.replicate 16 (some 0), objs := Vector.replicate 16 { memb := 1, phase } })
  ⟨rec_ 0, rec_ 1, die 0x201 0, die 0x1000000000201 0x7FFF, die 0x1000000000201 0x8000,
    (lcc [(1, 1), (2, 1)]).modQuad 0 (fun q => { q with part := some 1 }), meetsAll (by decide +kernel), meetsAll (by decide +kernel),
    by decide +kernel⟩

/-- A resume packet, and an answer, whose way is blocked, by a port that is shut and by a link that is down; a channel's bump that waits
for the link which goes down; and an answer whose way is open. -/
theorem wit_streams_blocked : ∃ s t u x : State, ∃ r : Req,
    (s.req? 8).map (fun r => (r.body, r.dst, dieOfCore r.src)) = some (.resume 3 1, some 4096, 0) ∧ s.blockedWay 0 (dieOfCore 4096) = some 1 ∧
    (s.thread 0).alive = true ∧ (t.req? 8).map (fun r => (r.body, r.dst)) = some (.resume 3 1, some 256) ∧
    t.blockedWay 0 (dieOfCore 256) = some 2 ∧ (t.thread 0).alive = true ∧
    u.reqs = [r] ∧ r.body = .bump 3 (some (1, 64, false)) ∧ r.queued = true ∧ u.boundFor r = some 256 ∧
    boundaryLink 0 0 ∈ linksBetween (dieOfCore r.src) (dieOfCore 256) ∧
    (x.req? 9).map (fun r => r.st) = some (.faulted { cause := .remoteFault }) ∧
    x.reqs.all (fun r => decide (x.blockedWay (x.replyFrom r) (dieOfCore r.src) = some 2)) = true ∧ (x.thread 0).alive = true :=
  let cut := fun (s : State) => s.setLink (boundaryLink 0 0) { down := true }
  let bump : Req := { request (.bump 3 (some (1, 64, false))) with dst := some 256, ea := 0x8000000200000000 }
  ⟨sent { request (.resume 3 1) with id := 8, dst := some 4096 } (lcc []), cut (sent { request (.resume 3 1) with id := 8, dst := some 256 } (lcc [])),
    sent bump (lcc []), cut (sent { request (.write 8 7) with ea := 0x8000000200000000, dst := some 256, st := .faulted { cause := .remoteFault } } (lcc [])),
    bump, by and_intros <;> decide +kernel⟩

/-! ### Values: sums of messages, cells of the dense block -/

/-- An element that is copied, a NaN among them; one that is added; and one that wraps. -/
theorem wit_recvElements : recvElement .f32 4 0 0x3F800000 0x7FC12345 = (0x7FC00000, 0) ∧ recvElement .f32 4 0 7 0x40000000 = (0x40000000, 0) ∧
    recvElement .bf16 4 1 0x3F800000 0x3F80 = (0x40000000, 0) ∧ recvElement .i32 4 1 0xFFFFFFFF 2 = (1, 0) ∧ recvElement .i64 8 0 5 9 = (9, 0) ∧
    f32Fmt.low 0x7FC12345 > 2 ^ f32Fmt.m * (2 ^ f32Fmt.e - 1) := by
  decide +kernel

/-- On the DCC, whose accumulator storage is the last quarter of the pool. -/
def dense : State := dcc 3 [] {} (block 0)

/-- Templates whose rows begin and end the storage, begin before it and end past it; addresses that are misaligned; a buffer that
ends the window and one past it; a gather whose indices, and whose rows, do. -/
theorem wit_matrixAddresses : dense.scratchEnd dense.myCore = 0x1800000 ∧ dense.accEnd dense.myCore = 2 ^ 25 ∧
    matrixAddrs dense .mma (tpl [0x101, 2, 1, 8, 0, 0, 1, 0xFFC0, 0x1FF]) = none ∧
    matrixAddrs dense .mma (tpl [0x101, 3, 1, 8, 0, 0, 1, 0xFFC0, 0x1FF]) = some { cause := .localRange, addr := 0x2000000 } ∧
    matrixAddrs dense .mma (tpl [0x101, 1, 1, 1, 0, 0, 1, 0xFFE0, 0x17F]) = some { cause := .localRange, addr := 0x17FFFE0 } ∧
    matrixAddrs dense .mma (tpl [0x101, 1, 1, 1, 0, 0, 1, 1, 0x180]) = some { cause := .misalign, addr := 0x1800001 } ∧
    matrixAddrs dense (.macc 0x1800010) (tpl [0x101, 1, 1, 1, 0, 0, 1, 0, 0x180]) = some { cause := .misalign, addr := 0x1800010 } ∧
    matrixAddrs dense (.macc 0) (tpl [0x101, 1, 1, 1, 0, 0, 1, 0, 0x180]) = some { cause := .localRange, addr := 0 } ∧
    matrixAddrs dense .mldb (tpl [0x13, 0, 0, 0, 0, 32, 0, 0, 0, 0, 0x1FF]) = none ∧
    matrixAddrs dense .mldb (tpl [0x13, 0, 0, 0, 0, 32, 0, 0, 0, 32, 0x1FF]) = some { cause := .localRange, addr := 0x1FF0020 } ∧
    matrixAddrs dense .mgath (tpl [0x12, 2, 0, 0, 0, 32, 0, 0, 0, 0, 0, 0xFFFC, 0x1FF, 1]) = some { cause := .localRange, addr := 0x1FFFFFC } ∧
    matrixAddrs dense .mgath (tpl [0x12, 1, 0, 0, 0, 32, 0, 0, 0, 0xFC20, 0x1FF, 0xFFFC, 0x1FF, 1]) = some { cause := .localRange, addr := 0x1FFFC20 } ∧
    matrixAddrs dense .mgath (tpl [0x12, 1, 0, 0, 0, 32, 0, 0, 0, 0, 0, 2, 0, 1]) = some { cause := .misalign, addr := 2 } := by
  decide +kernel

/-- An entry of the dense block with a template of this tag and KLEN. -/
def cellOf (t : Tag) (klen : Nat) (infl : Option (BitVec 256) := none) : MatrixEntry :=
  { entry .mma (tpl [1 + 16 * t.code, 1, klen]) with btag := t, infl }

def plusL (u v : Lane) : Lane := let r := f32Fmt.add u.1 v.1; (r.1, u.2 ||| v.2 ||| r.2)

/-- Sums of two products, of 1 × 1 and 1 × 1, and of nothing. -/
theorem one_and_one : IsSumOfTwo bf16Fmt bf16Fmt (0x3F80, 0x3F80) (0x3F80, 0x3F80) (0x40000000, 0) := by
  simp only [IsSumOfTwo]
  refine ⟨fun h => ?_, fun h h1 h2 => ?_, fun h h1 h2 h3 => ⟨fun h4 h5 => ?_, fun h4 h5 => ?_, fun h4 h5 => ?_, fun h4 h5 => ?_⟩⟩ <;>
    first | decide +kernel | exact absurd h (by decide +kernel) | exact absurd h2 (by decide +kernel) | exact absurd h4 (by decide +kernel)
          | exact absurd h5 (by decide +kernel)
theorem nothing : IsSumOfTwo bf16Fmt bf16Fmt (0, 0) (0, 0) (0, 0) := by
  simp only [IsSumOfTwo]
  refine ⟨fun h => ?_, fun h h1 h2 => ?_, fun h h1 h2 h3 => ⟨fun h4 h5 => ?_, fun h4 h5 => ?_, fun h4 h5 => ?_, fun h4 h5 => ?_⟩⟩ <;>
    first | decide +kernel | exact absurd h (by decide +kernel) | exact absurd h2 (by decide +kernel) | exact absurd h4 (by decide +kernel)
          | exact absurd h5 (by decide +kernel)

/-- Two products of 1 in BF16, in the tree and over the cells, and one of F64 that is fused; the cells have those values. -/
theorem wit_matrixCells_floats : ∃ (T : Nat → Nat → Lane) (S S64 : Nat → Lane),
    let x := fun (k : Nat) => if k < 2 then lane 0x3F803F80 16 k else 0
    (tTag (cellOf .bf16 2).template, tKlen (cellOf .bf16 2).template) = (.bf16, 2) ∧
    (∀ i, IsSumOfTwo bf16Fmt bf16Fmt (x (2 * i), x (2 * i)) (x (2 * i + 1), x (2 * i + 1)) (T 0 i)) ∧
    (∀ l i, T (l + 1) i = plusL (T l (2 * i)) (T l (2 * i + 1))) ∧
    S 0 = T 2 0 ∧ (∀ i, S (i + 1) = plusL (S i) (T 2 (i + 1))) ∧
    matrixCell (cellOf .bf16 2) 0x3F803F80 0x3F803F80 none = (some (S 0).1, (S 0).2) ∧
    (let y := fun (k : Nat) => if k < 1 then lane 0x3FF0000000000000 64 k else 0
     S64 0 = f64Fmt.mul (y 0) (y 0) ∧
     (∀ i, S64 (i + 1) = ((f64Fmt.fma false false (y (i + 1)) (y (i + 1)) (S64 i).1).1,
       (S64 i).2 ||| (f64Fmt.fma false false (y (i + 1)) (y (i + 1)) (S64 i).1).2)) ∧
     matrixCell (cellOf .f64 1) 0x3FF0000000000000 0x3FF0000000000000 none = (some (S64 0).1, (S64 0).2)) := by
  refine ⟨fun _ i => if i = 0 then (0x40000000, 0) else (0, 0), fun _ => (0x40000000, 0), fun _ => (0x3FF0000000000000, 0),
    by decide +kernel, ?_, ?_, rfl, ?_, by decide +kernel, by decide +kernel, ?_, by decide +kernel⟩
  · intro i
    by_cases h : i = 0
    · subst h
      have h0 : (if 2 * 0 < 2 then lane 0x3F803F80 16 (2 * 0) else 0) = 0x3F80 := by decide +kernel
      have h1 : (if 2 * 0 + 1 < 2 then lane 0x3F803F80 16 (2 * 0 + 1) else 0) = 0x3F80 := by decide +kernel
      simp only [h0, h1]
      exact one_and_one
    · have h0 : ¬2 * i < 2 := by omega
      have h1 : ¬2 * i + 1 < 2 := by omega
      simp only [h0, h1, h, if_false]
      exact nothing
  · intro l i
    by_cases h : i = 0
    · subst h
      have h : ((0x40000000, 0) : Lane) = plusL (0x40000000, 0) (0, 0) := by decide +kernel
      exact h
    · have h0 : ¬2 * i = 0 := by omega
      have h1 : ¬2 * i + 1 = 0 := by omega
      simp only [h0, h1, h, if_false]
      decide +kernel
  · intro i; simp only [Nat.add_eq_zero_iff, Nat.one_ne_zero, and_false, if_false]; decide +kernel
  · intro i
    have h : ¬i + 1 < 1 := by omega
    simp only [h, if_false]
    decide +kernel

/-- A lane of an integer format, that saturates; a block of `N4`, with scales that are finite, that are no number and that are infinite. -/
theorem wit_matrixCells_blocks : Tag.i8.isInt = true ∧ matrixCell (cellOf .i8 2) 0x0203 0x0405 none = (some 23, 0) ∧
    matrixCell (cellOf .i8 1) 1 1 (some 0x7FFFFFFF) = (some 0x7FFFFFFF, flagSAT) ∧
    f32Fmt.isFin 0x3F800000 = true ∧ (f32Fmt.val 0x7FC00000).isNan = true ∧ f32Fmt.isInf 0x7F800000 = true ∧ f32Fmt.low 0x3F800000 ≠ 0 ∧
    (let r := fun (scale : Nat) => 15 + 2 ^ 8192 + scale * 2 ^ 8448
     lane (r 0x3F800000) 32 264 = 0x3F800000 ∧ lane (r 0x3F800000) 8 1024 = 1 ∧
     matrixCell (cellOf .n4 1) (r 0x3F800000) (r 0x3F800000) none = (some 0x3F800000, 0) ∧
     matrixCell (cellOf .n4 1) (r 0x7FC00000) (r 0x3F800000) none = (some 0x7FC00000, 0) ∧
     matrixCell (cellOf .n4 1) (r 0x7F800000) (r 0x3F800000) none = (some 0x7F800000, 0)) := by
  decide +kernel

/-- The program that adds the element of A to s, over one index; and sums of logarithms with an infinity, with a NaN, and of
equal numbers. -/
theorem wit_inflectionCells : ∃ (p : BitVec 256) (S : Nat → Nat) (R : Nat → Nat → Nat → Nat) (F : Nat → Nat → BitVec 6),
    inflOk p = true ∧ p.toNat / 2 ^ 128 % 2 ^ 8 = 1 ∧ (tTag (cellOf .f32 1).template, tKlen (cellOf .f32 1).template) = (.f32, 1) ∧
    S 0 = (f32Fmt.deliver .rne false (f64Fmt.val (p.toNat / 2 ^ 192))).1 ∧ F 0 0 = (f32Fmt.deliver .rne false (f64Fmt.val (p.toNat / 2 ^ 192))).2 ∧
    (∀ k, R k 0 0 = S k ∧ R k 0 1 = 0 ∧ R k 0 2 = 0 ∧ S (k + 1) = R k 1 0 ∧ F (k + 1) 0 = F k 1) ∧
    p.toNat % 2 ^ 32 = 0x1000 ∧ F 0 1 = F 0 0 ||| (f32Fmt.add (S 0) 0x3F800000).2 ∧
    (∀ d, R 0 1 d = if d = 0 then (f32Fmt.add (S 0) 0x3F800000).1 else R 0 0 d) ∧
    matrixCell (cellOf .f32 1 (some p)) 0x3F800000 0 none = (some (S 1), F 1 0) ∧
    lse2 f32Fmt 0x3F800000 0x3F800000 = (0x40000000, 0) ∧ (f32Fmt.val 0x7FC00000).isNan = true ∧ f32Fmt.isFin 0x3F800000 = true ∧
    f32Fmt.units 0x3F800000 = f32Fmt.units 0x3F800000 := by
  refine ⟨2 ^ 128 + 0x1000, fun k => if k = 0 then 0 else 0x3F800000, fun k i d => if d = 0 then (if k + i = 0 then 0 else 0x3F800000) else 0,
    fun _ _ => 0, by decide +kernel, by decide +kernel, by decide +kernel, by decide +kernel, by decide +kernel, ?_, by decide +kernel,
    by decide +kernel, ?_, by decide +kernel, by decide +kernel, by decide +kernel, by decide +kernel, rfl⟩
  · intro k; simp
  · intro d
    have h : (f32Fmt.add 0 0x3F800000).1 = 0x3F800000 := by decide +kernel
    simp [h]

/-! ### Ways that are blocked, records, images and halts: further clauses -/

/-- A way between the first two dies that has been taken down. -/
def cutWay (s : State) : State := s.setLink (boundaryLink 0 0) { down := true }

/-- A gain, a task given up, an entry seeded and a take that asks, for a task whose home, and a die which, lies past a way that is down;
and an entry whose address is not canonical. -/
theorem wit_heapWays : ∃ s t u x y z : State, ∃ h : Heap, h.home 1 = 1 ∧ h.ended = false ∧
    (∀ q ∈ [s, t, u, x, z], q.blockedWay 0 (h.module * 16 + h.home 1) = some 2) ∧
    (s.req? 9).map (fun r => (r.body, dieOfCore r.src)) = some (.gain 0 1 0x3F800000, 0) ∧ 9 < s.nextId ∧ s.reqs.length = 1 ∧
    s.heaps.get? 0 = some h ∧ (s.thread 0).alive = true ∧
    t.executes (metaG 0x38 always [] [1]) ∧ t.heapOf t.cur = some (0, h) ∧ t.src.held = some 1 ∧ (t.g 1).toNat = 1 ∧ t.src.granted = false ∧
    t.reqs = [] ∧ u.waits 0 (.hseed 1 2 false) ∧ u.heapOf 0 = some (0, h) ∧ u.reqs = [] ∧
    (u.deviceRead h.module h.part (h.table + 64 + 8) 8).1.toOption.isSome = true ∧
    x.waits 0 (.take false false 0 3 (some (1, 0))) ∧ x.earlierTaker 0 (dieOfCore 0) (x.thread 0).waitSince = false ∧
    (x.core 0).team = some team0 ∧ x.heaps.get? 0 = some h ∧ h.tasks.sorted = true ∧ (x.thread 0).held = none ∧
    y.waits 0 (.hseed 0 2 false) ∧ (y.heapOf 0).any (fun x => decide (2 ^ 57 ≤ x.2.table + 64)) = true ∧
    (y.heapOf 0).map (fun x => (y.deviceRead x.2.module x.2.part (x.2.table + 64) 8).1.toOption.isSome) = some false ∧
    z.waits 0 (.done 1 0) ∧ z.kind = .lookup ∧ (z.as 0).heapOf 0 = some (0, h) ∧ z.fenceReady 0 3 = true ∧ z.gainsBefore 0 none none = true := by
  let h := kernel heap0 queuedTask
  let k := fun (s : State) => cutWay (kernelOf h s)
  let st := fun (s : State) => tables s |>.modModule 0 (fun m => { m with parts := [(0, { ptroot := 0x3000 })] })
  refine ⟨sent (request (.gain 0 1 0x3F800000)) (k (lcc [])), k (lcc [(1, 1)] { held := some 1 }), waiting (.hseed 1 2 false) (st (k (lcc []))),
    waiting (.take false false 0 3 (some (1, 0))) (k (lcc [])), waiting (.hseed 0 2 false) (kernelOf { h with table := 2 ^ 57 - 64 } (lcc [])),
    waiting (.done 1 0) (k (lcc [] { held := some 1 })), h, ?_⟩
  and_intros <;> first | exact runs (by decide +kernel) | exact waitsB_waits (by decide +kernel) | decide +kernel

/-- Launches over, in whose place a record and a signal are wanted and are not: exited, halted and withdrawn; pages to write, and none. -/
theorem wit_launchRecords : ∃ s t u : State, ∃ l : Launch,
    s.launches.get? 0 = some l ∧ l.words[5].toNat % 2 = 1 ∧ l.words[9].toNat % 2 = 1 ∧ l.over = true ∧ s.reqs = [] ∧ s.heaps.get? 0 = none ∧
    l.words[5].toNat / 2 ^ 3 % 2 ^ 54 * 8 + 8 * (l.words[6].toNat / 2 ^ 52 % 2 ^ 12) = 0x10000 ∧ l.words[9].toNat / 2 ^ 6 % 2 ^ 51 * 64 = 0x10040 ∧
    (match s.deviceTranslate 0 l.part 0x10000 true with
      | (.ok p, u) => decide (p.pa = 0x8000 ∧ u.dramFault 0 p.pa 8 = none ∧ (u.ownership 0 p.pa).owners = [] ∧ u.mem.wf = true)
      | _ => false) = true ∧
    (match s.deviceWrite 0 l.part 0x10048 [1] with
      | (none, u) => (u.deviceWrite 0 l.part 0x10040 [1]).1.isNone
      | _ => false) = true ∧
    ((t.launches.get? 0).map (fun l => l.teams.map (fun x => x.fate)) = some [.halted] ∧
      (t.launches.get? 0).map (fun l => (l.words[5].toNat % 2, l.words[9].toNat % 2)) = some (0, 0)) ∧
    (u.launches.get? 0).map (fun l => l.teams.map (fun x => x.fate)) = some [.withdrawn] ∧
    ((idle {}).deviceWrite 0 (some 0) 0x10048 [1]).1.isSome = true := by
  let l := { launch0 0 .exited with words := ((launch0 0 .exited).words.set 5 0x10001).set 9 0x10041 }
  exact ⟨launched l (tables (idle {})), launched (launch0 0 .halted) (idle {}), launched (launch0 0 .withdrawn) (idle {}), l,
    by and_intros <;> decide +kernel⟩

/-- A block that is misaligned and ends past the window; a LOAD without START that cannot be read; and a SAVE whose image cannot be
written. -/
theorem wit_contexts_further : ∃ s t u : State,
    s.executes { metaG 0x3E always [] [1] with priv := true } ∧ s.accEnd s.myCore < (s.g 1).toNat % poolSize s.kind + 32 ∧
    (s.g 1).toNat % poolSize s.kind % 32 ≠ 0 ∧
    (∀ q ∈ [t, u], (q.thread 1032).status = .waiting ∧ kindOfCore (coreOfThread 1032) ≠ .dcc ∧ q.dueCause 1032 = none ∧ q.mem.wf = true ∧
      (q.core 129).pub = Vector.replicate 4 0 ∧ addrForm (q.ctxTarget 1032 0x1000) = .core 0 0) ∧
    (t.thread 1032).wait = some (.context 3 0x1000) ∧ t.coreFree 0 = true ∧ (t.imageRead 0 (t.partOfCore 0) 0x10000 1).1.toOption.isSome = false ∧
    (u.thread 1032).wait = some (.context 1 0x1000) ∧ (u.core 0).team = some team0 ∧ (u.requestStop 0).quiet 0 = true ∧
    (u.imagePlace 0 (u.partOfCore 0) 0x10000 true).1.toOption.isSome = false :=
  let free := fun (op : Nat) (k : Core) => (contextual op k).modQuad 0 (fun q => { q with part := some 0 })
  ⟨(onSuper 0x80001).modCore 129 (fun k => { k with partw := 0x40 }), free 3 {}, free 1 { team := some team0 }, runs (by decide +kernel), by and_intros <;> decide +kernel⟩

/-- A core that a halt of the same partition stopped, whose record is due, and one that another's stopped; a core's halt kept over a trap's;
and causes that stay within an image's section. -/
theorem wit_halts : ∃ s t : State, ∃ h : HaltMark, (∀ q ∈ [s, t], q.executes { metaG 0x3E always [] [] with priv := true } ∧
      q.partOfCore q.myCore = some 0 ∧ q.kind = .lookup ∧ (q.core 1).halt = some h ∧ (q.core 1).team.any (fun t => t.part == some 0) = true) ∧
    h.part = some 0 ∧ h.cause ≠ 2 ∧ h.written = false ∧ s.haltJoins 1 0 = true ∧ t.haltJoins 0 0 = false ∧ (t.core 0).halt = none ∧
    (0, t.core 0) ∈ t.cores ∧ kindOfCore 0 ≠ .super := by
  let s := (lcc [] { sup := true }).setCore 1 { team := some team0, halt := some { cause := 1, part := some 0, cycle := 5, time := 0 } }
  refine ⟨s, s, { cause := 1, part := some 0, cycle := 5, time := 0 }, ?_, by decide +kernel, by decide +kernel, rfl, by decide +kernel,
    by decide +kernel, by decide +kernel, by decide +kernel, by decide⟩
  intro q hq
  obtain rfl : q = s := by simpa using hq
  exact ⟨runs (by decide +kernel), by decide +kernel, by decide +kernel, by decide +kernel, by decide +kernel⟩

/-- A module that is up, one that trains; a way to the register port that is open, one to another module that is not; and a drooping
die that reaches the end of a lengthened cycle, and one that does not. -/
theorem wit_module : ∃ s t : State, (s.module 0).state = .ready ∧ s.routeDown 0 0 = false ∧ (t.module 0).state = .train ∧ t.routeDown 0 0 = false ∧
    (s.module 0).mbbuf.wf = true ∧ s.blockedWay 0 (16 * 1 + dieOfPa 0) = some 1 ∧ s.blockedWay 0 (dieOfPa 0) = none ∧
    (({ droop := true, slip := 60 } : Die).pass 500 50).stretched = 1 ∧ (({ droop := true, slip := 10 } : Die).pass 500 50).late = 1 :=
  ⟨lcc [], (lcc []).modModule 0 (fun k => { k with state := .train }), by and_intros <;> decide +kernel⟩

/-- A fetch from a tolerant page and past the end of memory, of a line that no cache may hold and of one that it may. -/
theorem wit_fetching_further : ∃ s t u w : State, fetches s = .ok { pte := 0x2042F, size := 12, off := 0, leaf := 0x1000, m := 0 } ∧
    s.fetchWord 0 0x10000 = .word 0x56780000 ∧
    t.fetchWord 0 0x10000 = .fill 0 { line := 0x800, ms := true, w := true, pin := false } ∧
    u.fetchWord 0 0x10000 = .fill 0 { line := 0x800, ms := false, w := true, pin := false } ∧
    (match w.fetchWord 0 0x10000 with
      | .error _ _ t => t.cause == .memsideError
      | _ => false) = true :=
  ⟨fetched { line := 0x800, data := 0x12345678 } (mapped 0x42E (lcc [])), mapped 0x3E (lcc []), mapped 0x2E (lcc []),
    (lcc []).modQuad 0 (fun q => { q with tlb := [{ asid := 0, base := 0x10, size := 12, pte := 0x4000000002F, leaf := 0x1000 }] }),
    by and_intros <;> decide +kernel⟩

/-- A bundle that issues again, after a message, with the register as it was before; one whose slot traps after another has
stored. -/
theorem wit_bundles_again : ∃ s : State, s.th.granted = true ∧ s.th.wait = some (.recvred 3 0x1800000 2 2 .f32 1 7) ∧ s.th.g[3] = 2 ∧
    s.th.beforeBundle.g[3] = 7 ∧ (dcc 0 []).th.beforeBundle = (dcc 0 []).th ∧ (dcc 0 []).th.granted = false :=
  ⟨(dcc 0 []).modThread 1024 (fun t => { t with granted := true, wait := some (.recvred 3 0x1800000 2 2 .f32 1 7), g := t.g.set 3 2 }),
    by and_intros <;> decide +kernel⟩

/-- A predicate that is uncorrectable, read by an instruction whose guard fails; a register with a single-bit error that only the effect reads. -/
theorem wit_issueOrder_guard : ∃ s t : State, (∀ q ∈ [s, t], q.th.status = .running ∧ q.bundle = none ∧
      q.guardHolds { p := 1, neg := false } = false) ∧
    badRead { metaG 1 ⟨false, 1⟩ [3] [1, 2] with reads := [], look := none } s = some (.p 1) ∧ s.th.badRegs = [.p 1] ∧
    badRead { metaG 1 ⟨false, 1⟩ [3] [1, 2] with reads := [], look := none } t = none ∧ t.th.flipRegs = [.g 1] ∧
    s.fileWord (.v 16) = some (.v (physicalV s.th.rrb 16)) ∧ ({ s with threads := [(0, { s.th with long := true })] }).fileWord (.v 16) = none :=
  ⟨lcc [] { badRegs := [.p 1] }, lcc [] { flipRegs := [.g 1] }, by and_intros <;> decide +kernel⟩

/-! ### What instructions do, on values worked out by hand or by the manual -/

/-- What `f` reads in the state after an instruction. -/
noncomputable def after {α : Type} (i : Instr) (s : State) (f : State → α) : Option α :=
  match exec i s with
  | .next t => some (f t)
  | _ => none

/-- A general register of the thread after an instruction. -/
noncomputable def gAfter (i : Instr) (s : State) (r : GReg) : Option Word := after i s (fun t => t.g r)

/-- R61. -/
theorem test_scalar : gAfter (.add always 3 1 2) (lcc [(1, -1), (2, 1)]) 3 = some 0 ∧ gAfter (.sub always 3 1 2) (lcc [(2, 1)]) 3 = some (-1) ∧
    gAfter (.andn always 3 1 2) (lcc [(1, 0xFF), (2, 0x0F)]) 3 = some 0xF0 ∧ gAfter (.shl always 3 1 2) (lcc [(1, 3), (2, 65)]) 3 = some 6 ∧
    gAfter (.sar always 3 1 2) (lcc [(1, -8), (2, 1)]) 3 = some (-4) ∧ gAfter (.rol always 3 1 2) (lcc [(1, 0x8000000000000001), (2, 1)]) 3 = some 3 ∧
    gAfter (.mul always 3 1 2) (lcc [(1, -3), (2, 5)]) 3 = some (-15) ∧ gAfter (.mulh always 3 1 2) (lcc [(1, -1), (2, -1)]) 3 = some 0 ∧
    gAfter (.mulhz always 3 1 2) (lcc [(1, -1), (2, -1)]) 3 = some (-2) ∧ gAfter (.clz always 3 1) (lcc []) 3 = some 64 ∧
    gAfter (.sextB always 3 1) (lcc [(1, 0x80)]) 3 = some (-128) ∧ gAfter (.minz always 3 1 2) (lcc [(1, -1), (2, 1)]) 3 = some 1 := by decide +kernel

/-- R62. -/
theorem test_division : gAfter (.div always 3 1 2) (lcc [(1, -7), (2, 2)]) 3 = some (-3) ∧ gAfter (.rem always 3 1 2) (lcc [(1, -7), (2, 2)]) 3 = some (-1) ∧
    gAfter (.div always 3 1 2) (lcc [(1, 1 <<< 63), (2, -1)]) 3 = some (1 <<< 63) ∧ gAfter (.rem always 3 1 2) (lcc [(1, 1 <<< 63), (2, -1)]) 3 = some 0 ∧
    gAfter (.divz always 3 1 2) (lcc [(1, -7), (2, 2)]) 3 = some 0x7FFFFFFFFFFFFFFC := by decide +kernel

/-- R62, R329: the trap of a zero divisor, taken by a thread with a handler at 0x20000. -/
theorem test_division_by_zero : after (.div always 3 1 2) (lcc [(1, 1), (3, 9)] { tvec := 0x20001 })
      (fun t => (t.g 3, t.th.pc, t.th.tepc)) = some (9, 0x20000, 0x10000) ∧
    after (.div always 3 1 2) (lcc [(1, 1)] { tvec := 0x20001 }) (fun t => (t.th.hnd, t.th.sup, t.th.tcause.toNat % 256)) =
      some (true, true, Cause.divZero.code) := by decide +kernel

/-- R63: the field of 8 bits at bit 4, and its insertion. -/
theorem test_bit_fields : gAfter (.bextDw always 3 1 4 8) (lcc [(1, 0xABCD)]) 3 = some 0xBC ∧
    gAfter (.bins always 3 1 2) (lcc [(1, 0xFF), (2, 0x0804), (3, 0)]) 3 = some 0xFF0 := by decide +kernel

/-- R64, R65. -/
theorem test_immediates : gAfter (.addi always 3 1 0x3FF) (lcc [(1, 5)]) 3 = some 4 ∧ gAfter (.addiDw always 3 1 0x80000000) (lcc [(1, 0)]) 3 = some 0xFFFFFFFF80000000 ∧
    gAfter (.addpc always 3 8) (lcc []) 3 = some 0x10008 ∧ gAfter (.shli always 3 1 63) (lcc [(1, 3)]) 3 = some 0x8000000000000000 := by decide +kernel

/-- R66, R33: a signed and an unsigned compare, and an instruction whose guard does not hold. -/
theorem test_predicates : after (.cmpCc always 2 3 1 2) (lcc [(1, -1), (2, 1)]) (fun t => t.p 3) = some true ∧
    after (.cmpCc always 6 3 1 2) (lcc [(1, -1), (2, 1)]) (fun t => t.p 3) = some false ∧
    gAfter (.add ⟨false, 3⟩ 3 1 2) (lcc [(1, 1), (2, 1), (3, 9)]) 3 = some 9 ∧ gAfter (.add ⟨true, 3⟩ 3 1 2) (lcc [(1, 1), (2, 1)]) 3 = some 2 := by decide +kernel

/-- R29, R68, R72: a branch back by 46 words, a call, and a loop of no trip, which goes past its body. -/
theorem test_control : after (.br always 0xFFFD2) (lcc []) (fun t => t.th.pc) = some 0xFF48 ∧
    after (.call always 2) (lcc []) (fun t => (t.th.pc, t.g 31)) = some (0x10008, 0x10004) ∧
    after (.loop always 0 1 3) (lcc []) (fun t => t.th.pc) = some 0x10010 ∧
    after (.loop always 0 1 3) (lcc [(1, 2)]) (fun t => t.th.pc) = some 0x10004 := by decide +kernel

/-- R2, R131: bytes are in little-endian order, and loads extend. -/
theorem test_local_memory : after (.std always 3 1 0) (lcc [(1, 0x1000), (3, 0x0807060504030281)]) (fun t => (t.poolNat 0 0x1000 1, t.poolNat 0 0x1007 1)) =
      some (0x81, 8) ∧
    gAfter (.ldb always 3 1 0) ((lcc [(1, 0x1000)]).setPoolNat 0 0x1000 8 0x0807060504030281) 3 = some (-127) ∧
    gAfter (.ldhz always 3 1 1) ((lcc [(1, 0x1000)]).setPoolNat 0 0x1000 8 0x0807060504030281) 3 = some 0x0403 := by decide +kernel

/-- R115, R117: 1.5 + 2.25 in lane 0, and a fused 2 × 3 + 1. -/
theorem test_vectors : after (.vadd always 1 2 3) (lcc [] (vecs [(2, { bits := 0x3FC00000, tag := .f32 }), (3, { bits := 0x40100000, tag := .f32 })]))
      (fun t => ((t.th.v[1]).bits.toNat % 2 ^ 32, (t.th.v[1]).tag)) = some (0x40700000, .f32) ∧
    after (.vfma always 1 2 3) (lcc [] (vecs [(1, { bits := 0x3F800000, tag := .f32 }), (2, { bits := 0x40000000, tag := .f32 }),
      (3, { bits := 0x40400000, tag := .f32 })])) (fun t => (t.th.v[1]).bits.toNat % 2 ^ 32) = some 0x40E00000 := by decide +kernel

/-- R86, R94, R95: 2.5 to an integer by each mode, 1/3 to `BF16`, and 300 to a byte that saturates and one that wraps. -/
theorem test_conversions : ([(Instr.cvtRne always 1 2 .i32, 2), (.cvtRtz always 1 2 .i32, 2), (.cvtRup always 1 2 .i32, 3), (.cvtRdn always 1 2 .i32, 2)].all (fun x =>
      after x.1 (lcc [] (vecs [(2, { bits := 0x40200000, tag := .f32 })])) (fun t => (t.th.v[1]).bits.toNat % 2 ^ 32) == some x.2)) = true ∧
    after (.cvtRne always 1 2 .bf16) (lcc [] (vecs [(2, { bits := 0x3EAAAAAB, tag := .f32 })])) (fun t => (t.th.v[1]).bits.toNat % 2 ^ 16) = some 0x3EAB ∧
    after (.cvtSat always 1 2 .z8) (lcc [] (vecs [(2, { bits := 300, tag := .i32 })])) (fun t => (t.th.v[1]).bits.toNat % 2 ^ 8) = some 255 ∧
    after (.cvtRne always 1 2 .z8) (lcc [] (vecs [(2, { bits := 300, tag := .i32 })])) (fun t => (t.th.v[1]).bits.toNat % 2 ^ 8) = some 44 := by decide +kernel

/-- R91: the worked example; scale bytes 255 and 10, super-scale 1.0. -/
theorem test_n4 : let scales : LReg := { bits := BitVec.ofNat 2048 (255 + 10 * 2 ^ 8 + 2 ^ 512 + 0x3F800000 * 2 ^ 2016), tag := .z8 }
    let lanes : LReg := { bits := 0x3EBE00003FA00000C040000041200000, tag := .f32 }
    after (.qn4 always 3 1 2) (lcc [] { long := true, w := ((Vector.replicate 16 {}).set 1 lanes).set 2 scales })
      (fun t => (t.th.w[3]).bits.toNat / 2 ^ 256 % 2 ^ 24) = some 0x77794F ∧
    after (.dqn4 always 3 1 2) (lcc [] { long := true, w := ((Vector.replicate 16 {}).set 1 { bits := 0x794F <<< 256, tag := .n4 }).set 2 scales })
      (fun t => (t.th.w[3]).bits.toNat % 2 ^ 96) = some 0x3FC30000C02F000041200000 := by decide +kernel

/-- R19: core 37 of die 9 of module 3 at 0x12340. -/
theorem test_core_space_address : addrForm 0x800000724A012340 = .core (3 * 4096 + 9 * 256 + 37) 0x12340 := by decide

/-- R184: row 0x12345 of the worked table. -/
theorem test_row_address : (let d := BitVec.ofNat 512 (2 ^ 319 + 4 * 2 ^ 296 + 16 * 2 ^ 272 + 4 * 2 ^ 256 + 96 * 2 ^ 236 + 1000000 * 2 ^ 160 + 512 * 2 ^ 128 + 0x4000000000)
    (tbRps d, rowVa d 0x12345)) = (10432, 0x4006818280) := by decide +kernel

/-- R187: the three lines of the manual, computed apart. -/
theorem test_idhash : gAfter (.idhash always 3 1 2) (lcc [(1, 0x12345), (2, 0x9E3779B97F4A7C15)]) 3 = some 0x334407ED := by decide +kernel

/-- R189: the worked lists, one after the other. -/
theorem test_elision : let list := fun (s : State) (ids : List Nat) => ids.zipIdx.foldl (fun s x => s.setPoolNat 0 (0x1000 + 4 * x.2) 4 x.1) s
    let run := fun (merge : Bool) (s : State) (n : Nat) =>
      let r := s.elide { id := 9, tid := 0, core := 0, merge, n, list := 0x1000, out := 0x2000, inv := 0x3000, d := 3 }
      (r.1, (r.1.core 0).elision, (List.range r.2.1).map (fun k => r.1.poolNat 0 (0x2000 + 4 * k) 4),
        (List.range n).map (fun k => r.1.poolNat 0 (0x3000 + 2 * k) 2), r.2.2)
    let a := run false (list (lcc []) [7, 3, 7, 9, 3, 3]) 6
    a.2 = ([7, 3, 9], [7, 3, 9], [0, 1, 0, 2, 1, 1], 0) ∧
      (run true (list a.1 [9, 12, 7]) 3).2 = ([7, 3, 9, 12], [12], [2, 3, 0], 0) := by decide +kernel

/-- R199: the worked rows 1.5, −0.25 and 2^24 at 0x2000, offsets 0, 2 and 6, map at 0x3000. -/
theorem test_segred : let s := (((((((lcc []).setPoolNat 0 0x2000 4 0x3FC00000).setPoolNat 0 0x2020 4 0xBE800000).setPoolNat 0 0x2040 4 0x4B800000).setPoolNat 0
      0x3002 2 1).setPoolNat 0 0x3006 2 2).setPoolNat 0 0x3008 2 1).setPoolNat 0 0x300A 2 1
    let r := fun (kind : Nat) => (List.range 2).map (fun b =>
      (({ tid := 0, e := 8, fmt := .f32, kind, inv := true, rows := 0x2000, pitch := 32, map := 0x3000, offs := [0, 2, 6] } : SegInput).bag s b 0).1)
    r 0 = [0x3FA00000, 0x4B800001] ∧ r 1 = [0x3F200000, 0x4A800001] ∧ r 2 = [0x3FC00000, 0x4B800000] ∧
    r 3 = [0x3F624630, 0x4B000001] := by decide +kernel

/-- R231: the values that atomics leave. -/
theorem test_atomics : amoValue .add 4 0xFFFFFFFF 1 = 0 ∧ amoValue .min 4 0xFFFFFFFF 1 = 0xFFFFFFFF ∧ amoValue .minz 4 0xFFFFFFFF 1 = 1 ∧
    amoValue .swap 8 5 7 = 7 := by decide +kernel

/-- R333, R332: `TRAP` saves the next pc, `RETT` goes back to user mode. -/
theorem test_traps : after (.trap always 5) (lcc [] { tvec := 0x20001 }) (fun t => (t.th.pc, t.th.tepc, t.th.tcause.toNat / 2 ^ 8 % 256)) =
      some (0x20000, 0x10004, 5) ∧
    after (.rett always) (lcc [] { hnd := true, sup := true, tepc := 0x30000 }) (fun t => (t.th.pc, t.th.sup, t.th.hnd)) = some (0x30000, false, false) := by
  decide +kernel

/-- R325, R326: TSTATUS read by the supervisor; a user may not read TEPC. -/
theorem test_system_registers : gAfter (.mfs always 3 0) (lcc [] { sup := true, hnd := true }) 3 = some 3 ∧
    after (.mfs always 3 2) (lcc [] { tvec := 0x20001 }) (fun t => t.th.tcause.toNat % 256) = some Cause.priv.code := by decide +kernel

/-- R40–R42: both slots of a bundle read the registers as they stood. -/
theorem test_bundle_reads_first : (match { dcc 0 [(1, 5), (2, 7)] with bundle := none }.runBundle
      [(0, .addi always 1 2 0), (1, .addi always 2 1 0), (2, .nop always), (3, .nop always)] with
    | .next t => some (t.g 1, t.g 2, t.th.pc)
    | _ => none) = some (7, 5, 0x10010) := by decide +kernel

end

end Sys2Proof.Tests
end

namespace Sys2Proof

/-! ## Decoding loses nothing: what two words decode to encodes to those words (R27, R31, R38) -/

/-- The instruction has one word, or two in frame `01`, and they are `w` and `x`. -/
def EncodesTo (w x : Nat) (i : Instr) : Prop :=
  (i.words = if fFrame w = 1 then 2 else 1) ∧ (w < 2 ^ 32 → i.word0 = w) ∧ (x < 2 ^ 32 → i.words = 2 → i.word1 = x)

/-- What the words are decoded to, if anything, encodes to them. -/
def Faithful (w x : Nat) (o : Option Instr) : Prop := ∀ i, o = some i → EncodesTo w x i

section
variable {w x : Nat} {i : Instr}

/-! ### What a field that reads tells of its word -/

theorem finOf_eq_some {k n : Nat} {r : Fin k} : finOf k n = some r ↔ n = r.val :=
  ⟨fun h => (val_of_finOf h).symm, finOf_eq⟩

theorem zeroField_eq_some {n : Nat} {u : Unit} : zeroField n = some u ↔ n = 0 :=
  ⟨zero_of_zeroField, fun h => by subst h; rfl⟩

theorem guardOf_eq_some {g : Guard} : guardOf w = some g ↔ w % 16 = g.code := by
  refine ⟨fun h => (code_of_guardOf h).symm, fun h => ?_⟩
  rw [← Nat.div_add_mod w 16, h]
  exact guardOf_add _ _

theorem tagOf_eq_some {n : Nat} {t : Tag} : tagOf n = some t ↔ n = t.code :=
  ⟨fun h => (code_of_tagOf h).symm, fun h => h ▸ tagOf_code t⟩

theorem scopeOf_eq_some {n : Nat} {c : Scope} : scopeOf n = some c ↔ n = c.code :=
  ⟨fun h => (code_of_scopeOf h).symm, fun h => h ▸ scopeOf_code c⟩

theorem faithful_bind {α : Type} {o : Option α} {f : α → Option Instr} :
    Faithful w x (o >>= f) ↔ ∀ a, o = some a → Faithful w x (f a) := by
  cases o with
  | none => simp [Faithful]
  | some a => simp

theorem faithful_some : Faithful w x (some i) ↔ EncodesTo w x i := by simp [Faithful]

theorem faithful_none : Faithful w x none ↔ True := by simp [Faithful]

/-! ### A word whose fields are those of a layout is the word of that layout (R29) -/

theorem wordR_eq {maj d a b fn g : Nat} (hm : fMajor w = maj) (hd : fD w = d) (ha : fA w = a) (hb : fB w = b)
    (hfn : fFn w = fn) (hg : w % 16 = g) (hw : w < 2 ^ 32) : 2 ^ 30 * fFrame w + wordR maj d a b fn g = w := by
  subst hm hd ha hb hfn hg
  exact wordR_fields w hw

theorem wordI_eq {maj d a imm g : Nat} (hm : fMajor w = maj) (hd : fD w = d) (ha : fA w = a) (hi : fImm w = imm)
    (hg : w % 16 = g) (hw : w < 2 ^ 32) : 2 ^ 30 * fFrame w + wordI maj d a imm g = w := by
  subst hm hd ha hi hg
  exact wordI_fields w hw

theorem wordM_eq {maj d a op off g : Nat} (hm : fMajor w = maj) (hd : fD w = d) (ha : fA w = a) (ho : bits w 10 4 = op)
    (hoff : fOff6 w = off) (hg : w % 16 = g) (hw : w < 2 ^ 32) : 2 ^ 30 * fFrame w + wordM maj d a op off g = w := by
  subst hm hd ha ho hoff hg
  exact wordM_fields w hw

theorem wordL_eq {maj d a b look mode g : Nat} (hm : fMajor w = maj) (hd : fD w = d) (ha : fA w = a) (hb : fB w = b)
    (hl : fLook w = look) (hmode : fMode w = mode) (hg : w % 16 = g) (hw : w < 2 ^ 32) :
    2 ^ 30 * fFrame w + wordL maj d a b look mode g = w := by
  subst hm hd ha hb hl hmode hg
  exact wordL_fields w hw

theorem wordB_eq {maj off g : Nat} (hm : fMajor w = maj) (ho : fOff20 w = off) (hg : w % 16 = g) (hw : w < 2 ^ 32) :
    2 ^ 30 * fFrame w + wordB maj off g = w := by
  subst hm ho hg
  exact wordB_fields w hw

theorem encodesTo_single {l : Nat} (hf : fFrame w = 0) (hl : w < 2 ^ 32 → 2 ^ 30 * fFrame w + l = w) (h0 : i.word0 = l)
    (hn : i.words = 1) : EncodesTo w x i := by
  refine ⟨by simp [hf, hn], fun hw => ?_, fun _ h => by omega⟩
  simpa [hf, h0] using hl hw

theorem encodesTo_double {l : Nat} (hf : fFrame w = 1) (hl : w < 2 ^ 32 → 2 ^ 30 * fFrame w + l = w)
    (h0 : i.word0 = 2 ^ 30 + l) (hn : i.words = 2) (h1 : x < 2 ^ 32 → i.word1 = x) : EncodesTo w x i := by
  refine ⟨by simp [hf, hn], fun hw => ?_, fun hx _ => h1 hx⟩
  simpa [hf, h0] using hl hw

theorem fImm_eq_toNat : fImm w = (BitVec.ofNat 10 (fImm w)).toNat := by
  simp [fImm, bits]

theorem fOff6_eq_toNat : fOff6 w = (BitVec.ofNat 6 (fOff6 w)).toNat := by
  simp [fOff6, bits]

theorem fOff20_eq_toNat : fOff20 w = (BitVec.ofNat 20 (fOff20 w)).toNat := by
  simp [fOff20, bits]

/-! ### The tables of single words, by layout (R29, R43–R47) -/

/-- Layout R, with a register, a tag, a scope or nothing in each field. -/
theorem faithful_layoutR (hf : fFrame w = 0) :
    ∀ t ∈ [(1, decode1_1 w), (8, decode1_8 w), (11, decode1_11 w), (14, decode1_14 w), (18, decode1_18 w),
        (19, decode1_19 w), (20, decode1_20 w), (25, decode1_25 w), (26, decode1_26 w), (27, decode1_27 w),
        (28, decode1_28 w), (29, decode1_29 w), (32, decode1_32 w), (33, decode1_33 w), (34, decode1_34 w),
        (40, decode1_40 w), (46, decode1_46 w), (48, decode1_48 w), (49, decode1_49 w), (50, decode1_50 w),
        (52, decode1_52 w), (54, decode1_54 w), (56, decode1_56 w), (58, decode1_58 w), (62, decode1_62 w)],
      fMajor w = t.1 → Faithful w x t.2 := by
  simp only [List.forall_mem_cons, List.not_mem_nil, false_implies, implies_true, and_true]
  and_intros
  all_goals
    intro hm
    simp only [decode1_1, decode1_8, decode1_11, decode1_14, decode1_18, decode1_19, decode1_20, decode1_25, decode1_26,
      decode1_27, decode1_28, decode1_29, decode1_32, decode1_33, decode1_34, decode1_40, decode1_46,
      decode1_48, decode1_49, decode1_50, decode1_52, decode1_54, decode1_56, decode1_58, decode1_62]
    (repeat' split)
  all_goals
    simp only [faithful_bind, guardOf_eq_some, finOf_eq_some, zeroField_eq_some, tagOf_eq_some, scopeOf_eq_some,
      faithful_some, faithful_none]
  all_goals
    intros
    exact encodesTo_single hf (wordR_eq hm ‹_› ‹_› ‹_› ‹_› ‹_›) rfl rfl

/-- `VSEL` and `PUBLISH`, whose function field counts from a base. -/
theorem faithful_layoutR_offset (hf : fFrame w = 0) :
    ∀ t ∈ [(24, decode1_24 w), (39, decode1_39 w)],
      fMajor w = t.1 → Faithful w x t.2 := by
  simp only [List.forall_mem_cons, List.not_mem_nil, false_implies, implies_true, and_true]
  and_intros
  all_goals
    intro hm
    simp only [decode1_24, decode1_39]
    (repeat' split)
  all_goals
    simp only [faithful_bind, guardOf_eq_some, finOf_eq_some, zeroField_eq_some, scopeOf_eq_some, faithful_some,
      faithful_none]
  all_goals
    intros
    exact encodesTo_single hf (wordR_eq hm ‹_› ‹_› ‹_› (by omega) ‹_›) rfl rfl

/-- Layout I, with an immediate in its own field. -/
theorem faithful_layoutI (hf : fFrame w = 0) :
    ∀ t ∈ [(2, decode1_2 w), (3, decode1_3 w), (4, decode1_4 w), (5, decode1_5 w), (7, decode1_7 w),
        (60, decode1_60 w)],
      fMajor w = t.1 → Faithful w x t.2 := by
  simp only [List.forall_mem_cons, List.not_mem_nil, false_implies, implies_true, and_true]
  and_intros
  all_goals
    intro hm
    simp only [decode1_2, decode1_3, decode1_4, decode1_5, decode1_7, decode1_60]
    (repeat' split)
  all_goals
    simp only [faithful_bind, guardOf_eq_some, finOf_eq_some, zeroField_eq_some, faithful_some, faithful_none]
  all_goals
    intros
    exact encodesTo_single hf (wordI_eq hm ‹_› ‹_› fImm_eq_toNat ‹_›) rfl rfl

/-- Layout I, where the field d holds two operands. -/
theorem faithful_layoutI_split (hf : fFrame w = 0) :
    ∀ t ∈ [(9, decode1_9 w), (10, decode1_10 w), (15, decode1_15 w)],
      fMajor w = t.1 → Faithful w x t.2 := by
  simp only [List.forall_mem_cons, List.not_mem_nil, false_implies, implies_true, and_true]
  and_intros
  all_goals
    intro hm
    simp only [decode1_9, decode1_10, decode1_15]
    (repeat' split)
  all_goals
    simp only [faithful_bind, guardOf_eq_some, finOf_eq_some, faithful_some, faithful_none]
  all_goals
    intros
    exact encodesTo_single hf (wordI_eq hm (by omega) ‹_› fImm_eq_toNat ‹_›) rfl rfl

/-- Layout M. -/
theorem faithful_layoutM (hf : fFrame w = 0) :
    ∀ t ∈ [(16, decode1_16 w), (17, decode1_17 w), (21, decode1_21 w)],
      fMajor w = t.1 → Faithful w x t.2 := by
  simp only [List.forall_mem_cons, List.not_mem_nil, false_implies, implies_true, and_true]
  and_intros
  all_goals
    intro hm
    simp only [decode1_16, decode1_17, decode1_21]
    (repeat' split)
  all_goals
    simp only [faithful_bind, guardOf_eq_some, finOf_eq_some, faithful_some, faithful_none]
  all_goals
    intros
    exact encodesTo_single hf (wordM_eq hm ‹_› ‹_› ‹_› fOff6_eq_toNat ‹_›) rfl rfl

/-- Layout L, of instructions whose double-word form is a row of its own. -/
theorem faithful_layoutL (hf : fFrame w = 0) :
    ∀ t ∈ [(36, decode1_36 w), (37, decode1_37 w), (38, decode1_38 w), (42, decode1_42 w), (43, decode1_43 w),
        (44, decode1_44 w), (51, decode1_51 w), (55, decode1_55 w), (59, decode1_59 w)],
      fMajor w = t.1 → Faithful w x t.2 := by
  simp only [List.forall_mem_cons, List.not_mem_nil, false_implies, implies_true, and_true]
  and_intros
  all_goals
    intro hm
    simp only [decode1_36, decode1_37, decode1_38, decode1_42, decode1_43, decode1_44, decode1_51, decode1_55, decode1_59]
    (repeat' split)
  all_goals
    simp only [faithful_bind, guardOf_eq_some, finOf_eq_some, zeroField_eq_some, faithful_some, faithful_none]
  all_goals
    intros
    exact encodesTo_single hf (wordL_eq hm ‹_› ‹_› ‹_› ‹_› ‹_› ‹_›) rfl rfl

/-- Layout L, of instructions that have one row for both forms. -/
theorem faithful_layoutL_two (hf : fFrame w = 0) :
    ∀ t ∈ [(41, decode1_41 w), (45, decode1_45 w), (47, decode1_47 w), (57, decode1_57 w)],
      fMajor w = t.1 → Faithful w x t.2 := by
  simp only [List.forall_mem_cons, List.not_mem_nil, false_implies, implies_true, and_true]
  and_intros
  all_goals
    intro hm
    simp only [decode1_41, decode1_45, decode1_47, decode1_57]
    (repeat' split)
  all_goals
    simp only [faithful_bind, guardOf_eq_some, finOf_eq_some, faithful_some, faithful_none]
  all_goals
    intros
    exact encodesTo_single hf (wordL_eq hm ‹_› ‹_› ‹_› ‹_› ‹_› ‹_›) (Nat.zero_add _) rfl

/-- Layout B. -/
theorem faithful_layoutB (hf : fFrame w = 0) :
    ∀ t ∈ [(12, decode1_12 w), (13, decode1_13 w)], fMajor w = t.1 → Faithful w x t.2 := by
  simp only [List.forall_mem_cons, List.not_mem_nil, false_implies, implies_true, and_true]
  and_intros
  all_goals
    intro hm
    simp only [decode1_12, decode1_13, faithful_bind, guardOf_eq_some, faithful_some]
    intro g hg
    exact encodesTo_single hf (wordB_eq hm fOff20_eq_toNat hg) rfl rfl

/-- Shifts by an immediate, of which the field imm holds the function too. -/
theorem faithful_layoutI_shift (hf : fFrame w = 0) :
    ∀ t ∈ [(6, decode1_6 w)],
      fMajor w = t.1 → Faithful w x t.2 := by
  simp only [List.forall_mem_cons, List.not_mem_nil, false_implies, implies_true, and_true]
  all_goals
    intro hm
    simp only [decode1_6]
    (repeat' split)
  all_goals
    simp only [faithful_bind, guardOf_eq_some, finOf_eq_some, faithful_some, faithful_none]
  all_goals
    intros
    exact encodesTo_single hf (wordI_eq hm ‹_› ‹_› (by omega) ‹_›) rfl rfl

/-- `MTS`: the numbers of some system registers have rows of their own. -/
theorem faithful_mts (hf : fFrame w = 0) (hm : fMajor w = 61) : Faithful w x (decode1_61 w) := by
  unfold decode1_61
  repeat' split
  case isFalse.isFalse.isFalse.isFalse.isFalse =>
    simp only [faithful_bind, guardOf_eq_some, finOf_eq_some, zeroField_eq_some, faithful_some]
    intros
    exact encodesTo_single hf (wordI_eq hm ‹_› ‹_› fImm_eq_toNat ‹_›) rfl rfl
  all_goals
    simp only [faithful_bind, guardOf_eq_some, finOf_eq_some, zeroField_eq_some, faithful_some]
    intros
    exact encodesTo_single hf (wordI_eq hm ‹_› ‹_› (by omega) ‹_›) rfl rfl

/-! ### The tables of double words, by layout (R32) -/

theorem bitFieldWord_eq {pos wid : Nat} (h6 : bits x 6 2 = 0) (h15 : bits x 15 17 = 0) (hp : bits x 0 6 = pos)
    (hw : bits x 8 7 = wid) (hx : x < 2 ^ 32) : pos + 256 * wid = x := by
  simp only [bits] at *; omega

theorem fMode_eq_toNat : fMode w = (fMode w == 1).toNat := by
  have h : fMode w < 2 := Nat.mod_lt _ (by decide)
  obtain h | h : fMode w = 0 ∨ fMode w = 1 := by omega
  all_goals rw [h]; rfl

/-- The condition of a compare with a long immediate lies in the major opcode and the field d. -/
theorem faithful_cmpiDw (hf : fFrame w = 1) (hm : fMajor w = 9 ∨ fMajor w = 10) :
    ∀ t ∈ [decode2_9 w x, decode2_10 w x], Faithful w x t := by
  have hD : fD w < 32 := Nat.mod_lt _ (by decide)
  simp only [List.forall_mem_cons, List.not_mem_nil, false_implies, implies_true, and_true]
  and_intros
  all_goals
    simp only [decode2_9, decode2_10, faithful_bind, guardOf_eq_some, finOf_eq_some, zeroField_eq_some, faithful_some]
    intros
    exact encodesTo_double hf (wordI_eq (by omega) (by omega) ‹_› ‹_› ‹_›) rfl rfl Nat.mod_eq_of_lt

/-- `LOOP` with a constant count of turns; the field d holds the loop and whether it is pipelined. -/
theorem faithful_loopDw (hf : fFrame w = 1) (hm : fMajor w = 15) : Faithful w x (decode2_15 w x) := by
  simp only [decode2_15, faithful_bind, guardOf_eq_some, finOf_eq_some, zeroField_eq_some, faithful_some]
  intro g hg _ hd n hn _ ha
  have hp : (fD w / 2 % 2 == 1).toNat = fD w / 2 % 2 := by
    obtain h | h : fD w / 2 % 2 = 0 ∨ fD w / 2 % 2 = 1 := by omega
    all_goals rw [h]; rfl
  exact encodesTo_double hf (wordI_eq hm (by omega) ha fImm_eq_toNat hg) rfl rfl Nat.mod_eq_of_lt

/-- Bit fields at a constant place: the second word holds the place and the width. -/
theorem faithful_double_layoutR (hf : fFrame w = 1) :
    ∀ t ∈ [(1, decode2_1 w x)],
      fMajor w = t.1 → Faithful w x t.2 := by
  simp only [List.forall_mem_cons, List.not_mem_nil, false_implies, implies_true, and_true]
  all_goals
    intro hm
    simp only [decode2_1]
    (repeat' split)
  all_goals
    simp only [faithful_bind, guardOf_eq_some, finOf_eq_some, zeroField_eq_some, faithful_some, faithful_none]
  all_goals
    intros
    exact encodesTo_double hf (wordR_eq hm ‹_› ‹_› ‹_› ‹_› ‹_›) rfl rfl (bitFieldWord_eq ‹_› ‹_› ‹_› ‹_›)

/-- Atomic operations, which the second word names. -/
theorem faithful_amo (hf : fFrame w = 1) :
    ∀ t ∈ [(44, decode2_44 w x)],
      fMajor w = t.1 → Faithful w x t.2 := by
  simp only [List.forall_mem_cons, List.not_mem_nil, false_implies, implies_true, and_true]
  all_goals
    intro hm
    simp only [decode2_44]
    (repeat' split)
  all_goals
    simp only [faithful_bind, guardOf_eq_some, finOf_eq_some, faithful_some, faithful_none]
  all_goals
    intros
    exact encodesTo_double hf (wordL_eq hm ‹_› ‹_› ‹_› ‹_› fMode_eq_toNat ‹_›) rfl rfl (fun _ => rfl)

/-- Layout I, with an immediate of 32 bits. -/
theorem faithful_double_layoutI (hf : fFrame w = 1) :
    ∀ t ∈ [(2, decode2_2 w x), (3, decode2_3 w x), (4, decode2_4 w x), (5, decode2_5 w x), (7, decode2_7 w x)],
      fMajor w = t.1 → Faithful w x t.2 := by
  simp only [List.forall_mem_cons, List.not_mem_nil, false_implies, implies_true, and_true]
  and_intros
  all_goals
    intro hm
    simp only [decode2_2, decode2_3, decode2_4, decode2_5, decode2_7]
    (repeat' split)
  all_goals
    simp only [faithful_bind, guardOf_eq_some, finOf_eq_some, zeroField_eq_some, faithful_some, faithful_none]
  all_goals
    intros
    exact encodesTo_double hf (wordI_eq hm ‹_› ‹_› ‹_› ‹_›) rfl rfl Nat.mod_eq_of_lt

/-- Layout M, with a displacement of 32 bits. -/
theorem faithful_double_layoutM (hf : fFrame w = 1) :
    ∀ t ∈ [(16, decode2_16 w x), (17, decode2_17 w x), (21, decode2_21 w x)],
      fMajor w = t.1 → Faithful w x t.2 := by
  simp only [List.forall_mem_cons, List.not_mem_nil, false_implies, implies_true, and_true]
  and_intros
  all_goals
    intro hm
    simp only [decode2_16, decode2_17, decode2_21]
    (repeat' split)
  all_goals
    simp only [faithful_bind, guardOf_eq_some, finOf_eq_some, zeroField_eq_some, faithful_some, faithful_none]
  all_goals
    intros
    exact encodesTo_double hf (wordM_eq hm ‹_› ‹_› ‹_› ‹_› ‹_›) rfl rfl Nat.mod_eq_of_lt

/-- Layout L, with an extension word of 32 bits. -/
theorem faithful_double_layoutL (hf : fFrame w = 1) :
    ∀ t ∈ [(36, decode2_36 w x), (37, decode2_37 w x), (38, decode2_38 w x), (42, decode2_42 w x),
        (43, decode2_43 w x), (51, decode2_51 w x), (55, decode2_55 w x)],
      fMajor w = t.1 → Faithful w x t.2 := by
  simp only [List.forall_mem_cons, List.not_mem_nil, false_implies, implies_true, and_true]
  and_intros
  all_goals
    intro hm
    simp only [decode2_36, decode2_37, decode2_38, decode2_42, decode2_43, decode2_51, decode2_55]
    (repeat' split)
  all_goals
    simp only [faithful_bind, guardOf_eq_some, finOf_eq_some, zeroField_eq_some, faithful_some, faithful_none]
  all_goals
    intros
    exact encodesTo_double hf (wordL_eq hm ‹_› ‹_› ‹_› ‹_› ‹_› ‹_›) rfl rfl Nat.mod_eq_of_lt

/-- Layout L, with an extension word that is zero. -/
theorem faithful_double_layoutL_two (hf : fFrame w = 1) :
    ∀ t ∈ [(41, decode2_41 w x), (45, decode2_45 w x), (47, decode2_47 w x), (57, decode2_57 w x)],
      fMajor w = t.1 → Faithful w x t.2 := by
  simp only [List.forall_mem_cons, List.not_mem_nil, false_implies, implies_true, and_true]
  and_intros
  all_goals
    intro hm
    simp only [decode2_41, decode2_45, decode2_47, decode2_57]
    (repeat' split)
  all_goals
    simp only [faithful_bind, guardOf_eq_some, finOf_eq_some, zeroField_eq_some, faithful_some, faithful_none]
  all_goals
    intros
    exact encodesTo_double hf (wordL_eq hm ‹_› ‹_› ‹_› ‹_› ‹_› ‹_›) rfl rfl (fun _ => Eq.symm ‹x = 0›)

/-! ### All words -/

theorem faithful_decode1 (hf : fFrame w = 0) : Faithful w x (decode1 w) := by
  have hR := faithful_layoutR (x := x) hf
  have hR' := faithful_layoutR_offset (x := x) hf
  have hI := faithful_layoutI (x := x) hf
  have hI' := faithful_layoutI_split (x := x) hf
  have hI'' := faithful_layoutI_shift (x := x) hf
  have hM := faithful_layoutM (x := x) hf
  have hL := faithful_layoutL (x := x) hf
  have hL' := faithful_layoutL_two (x := x) hf
  have hB := faithful_layoutB (x := x) hf
  have hS := faithful_mts (x := x) hf
  simp only [List.forall_mem_cons] at hR hR' hI hI' hI'' hM hL hL' hB
  unfold decode1
  split <;> simp only [*, faithful_none]

theorem faithful_decode2 (hf : fFrame w = 1) : Faithful w x (decode2 w x) := by
  have hR := faithful_double_layoutR hf (x := x)
  have hI := faithful_double_layoutI hf (x := x)
  have hC := faithful_cmpiDw hf (x := x)
  have hT := faithful_loopDw hf (x := x)
  have hM := faithful_double_layoutM hf (x := x)
  have hL := faithful_double_layoutL hf (x := x)
  have hL' := faithful_double_layoutL_two hf (x := x)
  have hA := faithful_amo hf (x := x)
  simp only [List.forall_mem_cons] at hR hI hC hM hL hL' hA
  unfold decode2
  split <;> simp only [*, faithful_none, or_true, true_or]

theorem faithful_decodeAffix (hf : fFrame w = 2) : Faithful w x (decodeAffix w) := by
  unfold decodeAffix
  split <;> simp only [faithful_bind, finOf_eq_some, faithful_some, faithful_none]
  all_goals
    intro t ht f hff
    refine ⟨by simp only [hf]; rfl, fun hw => ?_, fun _ h => by cases h⟩
    refine Eq.trans ?_ (wordA_fields w hw hf)
    rw [ht, hff, ‹bits w 16 2 = _›]
    rfl

/-- Whatever two words decode to, checked or not, encodes to them. -/
theorem faithful_decodeRaw : Faithful w x (decodeRaw w x) := by
  unfold decodeRaw
  split
  case h_1 hf => exact faithful_decode1 hf
  case h_2 hf => exact faithful_decode2 hf
  case h_3 hf => exact faithful_decodeAffix hf
  case h_4 => exact faithful_none.mpr trivial

/-- What decodes is well formed, and it is what the fields of its words say. -/
theorem decode_eq_ok (h : decode w x = .ok i) : decodeRaw w x = some i ∧ i.wf = true := by
  unfold decode at h
  split at h
  case h_1 j hj =>
    split at h
    case isTrue hwf =>
      cases h
      exact ⟨hj, hwf⟩
    case isFalse => cases h
  case h_2 =>
    split at h
    · cases h
    · split at h <;> cases h

end

/-! ### The words of an instruction decode to it -/

namespace Laws.RoundTrip

/-- Every instruction has its round trip. -/
theorem statement : ∀ i : Instr, Statement i
  | .add .. => add _ _ _ _ | .sub .. => sub _ _ _ _ | .and .. => and _ _ _ _ | .or .. => or _ _ _ _
  | .xor .. => xor _ _ _ _ | .andn .. => andn _ _ _ _ | .shl .. => shl _ _ _ _ | .shr .. => shr _ _ _ _
  | .sar .. => sar _ _ _ _ | .rol .. => rol _ _ _ _ | .mul .. => mul _ _ _ _ | .mulh .. => mulh _ _ _ _
  | .mulhz .. => mulhz _ _ _ _ | .div .. => div _ _ _ _ | .divz .. => divz _ _ _ _ | .rem .. => rem _ _ _ _
  | .remz .. => remz _ _ _ _ | .min .. => min _ _ _ _ | .max .. => max _ _ _ _ | .minz .. => minz _ _ _ _
  | .maxz .. => maxz _ _ _ _ | .clz .. => clz _ _ _ | .ctz .. => ctz _ _ _ | .popc .. => popc _ _ _
  | .sextB .. => sextB _ _ _ | .sextH .. => sextH _ _ _ | .sextW .. => sextW _ _ _ | .zextB .. => zextB _ _ _
  | .zextH .. => zextH _ _ _ | .zextW .. => zextW _ _ _ | .bext .. => bext _ _ _ _ | .bins .. => bins _ _ _ _
  | .bextDw .. => bextDw _ _ _ _ _ | .binsDw .. => binsDw _ _ _ _ _ | .addi .. => addi _ _ _ _ | .andi .. => andi _ _ _ _
  | .ori .. => ori _ _ _ _ | .xori .. => xori _ _ _ _ | .addiDw .. => addiDw _ _ _ _ | .andiDw .. => andiDw _ _ _ _
  | .oriDw .. => oriDw _ _ _ _ | .xoriDw .. => xoriDw _ _ _ _ | .shli .. => shli _ _ _ _ | .shri .. => shri _ _ _ _
  | .sari .. => sari _ _ _ _ | .limm .. => limm _ _ _ | .limmh .. => limmh _ _ _ | .addpc .. => addpc _ _ _
  | .limmDw .. => limmDw _ _ _ | .limmhDw .. => limmhDw _ _ _ | .addpcDw .. => addpcDw _ _ _ | .cmpCc .. => cmpCc _ _ _ _ _
  | .cmpiCcLow .. => cmpiCcLow _ _ _ _ _ | .cmpiCcHigh .. => cmpiCcHigh _ _ _ _ _ | .cmpiDw .. => cmpiDw _ _ _ _ _
  | .pand .. => pand _ _ _ _ | .por .. => por _ _ _ _ | .pxor .. => pxor _ _ _ _ | .pnot .. => pnot _ _ _
  | .pmov .. => pmov _ _ _ | .br .. => br _ _ | .call .. => call _ _ | .jr .. => jr _ _ | .ret .. => ret _
  | .rot .. => rot _ | .stage .. => stage _ _ | .nop .. => nop _ | .hint .. => hint _ _ | .loop .. => loop _ _ _ _
  | .loopP .. => loopP _ _ _ _ | .loopDw .. => loopDw _ _ _ _ _ | .ldb .. => ldb _ _ _ _ | .ldh .. => ldh _ _ _ _
  | .ldw .. => ldw _ _ _ _ | .ldd .. => ldd _ _ _ _ | .ldbz .. => ldbz _ _ _ _ | .ldhz .. => ldhz _ _ _ _
  | .ldwz .. => ldwz _ _ _ _ | .stb .. => stb _ _ _ _ | .sth .. => sth _ _ _ _ | .stw .. => stw _ _ _ _
  | .std .. => std _ _ _ _ | .ldbDw .. => ldbDw _ _ _ _ | .ldhDw .. => ldhDw _ _ _ _ | .ldwDw .. => ldwDw _ _ _ _
  | .lddDw .. => lddDw _ _ _ _ | .ldbzDw .. => ldbzDw _ _ _ _ | .ldhzDw .. => ldhzDw _ _ _ _ | .ldwzDw .. => ldwzDw _ _ _ _
  | .stbDw .. => stbDw _ _ _ _ | .sthDw .. => sthDw _ _ _ _ | .stwDw .. => stwDw _ _ _ _ | .stdDw .. => stdDw _ _ _ _
  | .vld .. => vld _ _ _ _ | .vst .. => vst _ _ _ _ | .vldDw .. => vldDw _ _ _ _ | .vstDw .. => vstDw _ _ _ _
  | .vlds .. => vlds _ _ _ _ | .vsts .. => vsts _ _ _ _ | .vgathl .. => vgathl _ _ _ _ | .vscatl .. => vscatl _ _ _ _
  | .cclean .. => cclean _ _ | .cinv .. => cinv _ _ | .tlbinv .. => tlbinv _ _ _ | .tlbinvComplete .. => tlbinvComplete _
  | .dclset .. => dclset _ _ | .sylset .. => sylset _ _ _ | .vldd .. => vldd _ _ _ _ | .vldp .. => vldp _ _ _ _
  | .vlddDw .. => vlddDw _ _ _ _ | .vldpDw .. => vldpDw _ _ _ _ | .vadd .. => vadd _ _ _ _ | .vsub .. => vsub _ _ _ _
  | .vmul .. => vmul _ _ _ _ | .vmin .. => vmin _ _ _ _ | .vmax .. => vmax _ _ _ _ | .vabs .. => vabs _ _ _
  | .vneg .. => vneg _ _ _ | .vand .. => vand _ _ _ _ | .vor .. => vor _ _ _ _ | .vxor .. => vxor _ _ _ _
  | .vshl .. => vshl _ _ _ _ | .vshr .. => vshr _ _ _ _ | .vsar .. => vsar _ _ _ _ | .vaddS .. => vaddS _ _ _ _
  | .vsubS .. => vsubS _ _ _ _ | .vsel .. => vsel _ _ _ _ _ | .vfma .. => vfma _ _ _ _ | .vfms .. => vfms _ _ _ _
  | .vnfma .. => vnfma _ _ _ _ | .vdot .. => vdot _ _ _ _ | .vdotf .. => vdotf _ _ _ _ | .vcmpCc .. => vcmpCc _ _ _ _ _
  | .vredAdd .. => vredAdd _ _ _ | .vredMin .. => vredMin _ _ _ | .vredMax .. => vredMax _ _ _
  | .vscanAdd .. => vscanAdd _ _ _ | .vscanMin .. => vscanMin _ _ _ | .vscanMax .. => vscanMax _ _ _
  | .vperm .. => vperm _ _ _ _ | .vbcast .. => vbcast _ _ _ | .vext .. => vext _ _ _ _ | .vins .. => vins _ _ _ _
  | .vrcp .. => vrcp _ _ _ | .vrsq .. => vrsq _ _ _ | .vexp2 .. => vexp2 _ _ _ | .vlog2 .. => vlog2 _ _ _
  | .vtanh .. => vtanh _ _ _ | .vsigm .. => vsigm _ _ _ | .vlong .. => vlong _ | .vshort .. => vshort _
  | .cvtRne .. => cvtRne _ _ _ _ | .cvtRtz .. => cvtRtz _ _ _ _ | .cvtRup .. => cvtRup _ _ _ _
  | .cvtRdn .. => cvtRdn _ _ _ _ | .cvtSat .. => cvtSat _ _ _ _ | .qn4 .. => qn4 _ _ _ _ | .dqn4 .. => dqn4 _ _ _ _
  | .qscale .. => qscale _ _ _ _ | .tagset .. => tagset _ _ _ | .tagget .. => tagget _ _ _ | .fclass .. => fclass _ _ _
  | .draw .. => draw _ _ _ _ _ | .stow .. => stow _ _ _ _ _ | .draws .. => draws _ _ _ _ _ | .stows .. => stows _ _ _ _ _
  | .drawDw .. => drawDw _ _ _ _ _ _ | .stowDw .. => stowDw _ _ _ _ _ _ | .drawsDw .. => drawsDw _ _ _ _ _ _
  | .stowsDw .. => stowsDw _ _ _ _ _ _ | .dzero .. => dzero _ _ _ _ | .dcopy .. => dcopy _ _ _ _ _
  | .dzeroDw .. => dzeroDw _ _ _ _ _ | .dcopyDw .. => dcopyDw _ _ _ _ _ _ | .chain .. => chain _ _ _ | .kick .. => kick _ _
  | .cwait .. => cwait _ _ _ | .cwaitSatisfied .. => cwaitSatisfied _ | .cpost .. => cpost _ _ _
  | .wpwait .. => wpwait _ _ _ | .wpwaitSatisfied .. => wpwaitSatisfied _ | .publish .. => publish _ _ _
  | .publishToggle .. => publishToggle _ | .channelEntryStart .. => channelEntryStart _ _
  | .chainEntryStep .. => chainEntryStep _ _ | .operationPacket .. => operationPacket _ _
  | .dramRequestAccept .. => dramRequestAccept _ _ | .ownershipDecision .. => ownershipDecision _ _
  | .clusterCacheEviction .. => clusterCacheEviction _ _ | .entryComplete .. => entryComplete _ _
  | .remoteBumpArrival .. => remoteBumpArrival _ | .channelFault .. => channelFault _ _ _ _ _
  | .chstFaultResume .. => chstFaultResume _ _ | .chstAbort .. => chstAbort _ _
  | .rowCommandPiece .. => rowCommandPiece _ _ | .landingPacket .. => landingPacket _ _
  | .pageWalkRead .. => pageWalkRead _ | .hotPageEpoch .. => hotPageEpoch _ | .poolScrub .. => poolScrub _ _
  | .fetchMissFill .. => fetchMissFill _ _ | .tblset .. => tblset _ _ _ | .tblsetComplete .. => tblsetComplete _
  | .idhash .. => idhash _ _ _ _ | .rowwait .. => rowwait _ _ | .rowwaitSatisfied .. => rowwaitSatisfied _
  | .rowacc .. => rowacc _ _ _ | .rowset .. => rowset _ _ _ | .elide .. => elide _ _ _ _ _ _
  | .elidem .. => elidem _ _ _ _ _ _ | .elisionComplete .. => elisionComplete _ | .rowget .. => rowget _ _ _ _ _
  | .rowgetw .. => rowgetw _ _ _ _ _ | .rowgetDw .. => rowgetDw _ _ _ _ _ _ | .rowgetwDw .. => rowgetwDw _ _ _ _ _ _
  | .segred .. => segred _ _ _ _ _ | .segscat .. => segscat _ _ _ _ _ | .segredDw .. => segredDw _ _ _ _ _ _
  | .segscatDw .. => segscatDw _ _ _ _ _ _ | .lookupOpStart .. => lookupOpStart _
  | .rowRequestMerge .. => rowRequestMerge _ _ _ _ | .rowRequestServe .. => rowRequestServe _ _
  | .rowRead .. => rowRead _ _ | .rowAccumulate .. => rowAccumulate _ _ | .rowStore .. => rowStore _ _
  | .rowReplyLand .. => rowReplyLand _ _ | .lookupOpComplete .. => lookupOpComplete _
  | .lookupOpFault .. => lookupOpFault _ _ _ _ | .amoAddW .. => amoAddW _ _ _ _ _ | .amoAddD .. => amoAddD _ _ _ _ _
  | .amoAddDw .. => amoAddDw _ _ _ _ _ _ | .amoAnd .. => amoAnd _ _ _ _ _ _ | .amoOr .. => amoOr _ _ _ _ _ _
  | .amoXor .. => amoXor _ _ _ _ _ _ | .amoMin .. => amoMin _ _ _ _ _ _ | .amoMax .. => amoMax _ _ _ _ _ _
  | .amoMinz .. => amoMinz _ _ _ _ _ _ | .amoMaxz .. => amoMaxz _ _ _ _ _ _ | .amoSwap .. => amoSwap _ _ _ _ _ _
  | .casW .. => casW _ _ _ _ _ _ | .casD .. => casD _ _ _ _ _ _ | .atomicExecute .. => atomicExecute _
  | .amoCombine .. => amoCombine _ _ | .atomicFaultReply .. => atomicFaultReply _ | .accF32 .. => accF32 _ _ _
  | .accBf16 .. => accBf16 _ _ _ | .accF64 .. => accF64 _ _ _ | .fold .. => fold _ _ | .accArrival .. => accArrival _
  | .foldArrival .. => foldArrival _ | .recvred .. => recvred _ _ _ _ _ _ | .recvredMessage .. => recvredMessage _
  | .fence .. => fence _ _ | .fenceComplete .. => fenceComplete _ | .bjoin .. => bjoin _ _ | .barr .. => barr _ _
  | .bwait .. => bwait _ _ | .barrw .. => barrw _ _ | .bexp .. => bexp _ _ _ | .bmiss .. => bmiss _ _ _
  | .barrierArrival .. => barrierArrival _ | .byteDelivery .. => byteDelivery _ _ _ | .bwaitReturn .. => bwaitReturn _
  | .send .. => send _ _ _ | .sendl .. => sendl _ _ _ | .recv .. => recv _ _ _ | .recvTake .. => recvTake _
  | .rpeek .. => rpeek _ _ | .rqset .. => rqset _ _ _ | .resume .. => resume _ _ _ | .resumeArrival .. => resumeArrival _
  | .messageArrival .. => messageArrival _ | .retryTimer .. => retryTimer _ _ | .rget .. => rget _ _ _ _ _
  | .rsto .. => rsto _ _ _ _ _ | .rgetDw .. => rgetDw _ _ _ _ _ _ | .rstoDw .. => rstoDw _ _ _ _ _ _
  | .remoteRequestArrival .. => remoteRequestArrival _ | .remoteReply .. => remoteReply _
  | .refusalReturn .. => refusalReturn _ | .flitReceive .. => flitReceive _ _ _ | .replayRequest .. => replayRequest _ _
  | .linkDown .. => linkDown _ | .qpush .. => qpush _ _ _ | .qpop .. => qpop _ _ _ | .queueRefill .. => queueRefill _ _
  | .wqringWrite .. => wqringWrite _ _ _ | .exit .. => exit _ _ | .exitDrainDone .. => exitDrainDone _
  | .windowDepart .. => windowDepart _ | .detach .. => detach _ | .detachStep .. => detachStep _ | .teamid .. => teamid _ _
  | .yield .. => yield _ | .wld .. => wld _ _ _ _ _ | .wst .. => wst _ _ _ _ _ | .wldDw .. => wldDw _ _ _ _ _ _
  | .wstDw .. => wstDw _ _ _ _ _ _ | .hseed .. => hseed _ _ _ | .hseedEntryRead .. => hseedEntryRead _
  | .gain .. => gain _ _ _ | .gainApply .. => gainApply _ | .done .. => done _ _ | .doneApply .. => doneApply _
  | .resid .. => resid _ _ | .hpeek .. => hpeek _ _ | .hcount .. => hcount _ _ | .take .. => take _ _ _ _ _ _
  | .takeWake .. => takeWake _ | .heapMaxRefresh .. => heapMaxRefresh _ | .heapSteal .. => heapSteal _
  | .lexld .. => lexld _ _ _ | .mldb .. => mldb _ _ _ | .macc .. => macc _ _ _ | .mrd .. => mrd _ _ _
  | .infl .. => infl _ _ _ | .mwait .. => mwait _ _ | .mwaitSatisfied .. => mwaitSatisfied _ | .mma .. => mma _ _ _ _ _
  | .mgath .. => mgath _ _ _ _ _ | .affixI .. => affixI _ _ _ | .affixK .. => affixK _ _ _ | .affixS .. => affixS _ _ _
  | .matrixEntryStart .. => matrixEntryStart _ _ | .matrixEntryComplete .. => matrixEntryComplete _ _
  | .matrixEntryFault .. => matrixEntryFault _ _ _ | .mfs .. => mfs _ _ _ | .mts .. => mts _ _ _
  | .pubSlotWrite .. => pubSlotWrite _ _ _ | .accrWrite .. => accrWrite _ _ | .icinvWrite .. => icinvWrite _ _
  | .asgpartWrite .. => asgpartWrite _ _ | .haltselRun .. => haltselRun _ _ | .trap .. => trap _ _ | .rett .. => rett _
  | .halt .. => halt _ | .haltRecords .. => haltRecords _ _ _ | .ctxsvStop .. => ctxsvStop _ _
  | .ctxsvSave .. => ctxsvSave _ | .ctxsvDiscard .. => ctxsvDiscard _ | .ctxldLoad .. => ctxldLoad _ _
  | .ctxldStart .. => ctxldStart _ | .ctxldLoadStart .. => ctxldLoadStart _ | .brk .. => brk _ | .timens .. => timens _ _
  | .sleep .. => sleep _ _ | .sleepm .. => sleepm _ _ | .sleepWake .. => sleepWake _ | .perf .. => perf _ _ _
  | .trace .. => trace _ _ | .trapEntry .. => trapEntry _ | .watchdogExpiry .. => watchdogExpiry _
  | .hqtailWrite .. => hqtailWrite _ _ _ | .launchAdmission .. => launchAdmission _ _
  | .launchForward .. => launchForward _ _ | .waitCounterPoll .. => waitCounterPoll _ _ | .teamStart .. => teamStart _
  | .launchComplete .. => launchComplete _ | .powerGood .. => powerGood _ | .clocksStarted .. => clocksStarted _
  | .romImageVerify .. => romImageVerify _ | .trainComplete .. => trainComplete _ _ | .mreset .. => mreset _
  | .haltreq .. => haltreq _ | .mgmtRegisterWrite .. => mgmtRegisterWrite _ _ _ _ _
  | .mgmtControlPacket .. => mgmtControlPacket _ _ _ _ _ _ | .hostBar2Access .. => hostBar2Access _ _ _ _
  | .ident .. => ident _ | .attest .. => attest _ | .fwload .. => fwload _ | .fwcommit .. => fwcommit _
  | .timesetWrite .. => timesetWrite _ _ | .ptpFrame .. => ptpFrame _ _ | .lockLoss .. => lockLoss _
  | .droopDetect .. => droopDetect _ | .droopRecover .. => droopRecover _ _ _ | .powerWindow .. => powerWindow _ _
  | .thermalThrottle .. => thermalThrottle _ _ | .thermalTrip .. => thermalTrip _ _ | .reservedEncoding => reservedEncoding
  | .powerLoss .. => powerLoss _ | .mailboxBadOperation .. => mailboxBadOperation _
  | .pcieLinkTraining .. => pcieLinkTraining _ _ _

end Laws.RoundTrip

/-- Settles O57: `Laws.RoundTrip` has the way from an instruction through its words, `Faithful` the way back. -/
theorem encodeDecode : Obligations.EncodeDecode := by
  refine ⟨Laws.RoundTrip.statement, fun w x i h => ?_⟩
  obtain ⟨hi, hwf⟩ := decode_eq_ok h
  obtain ⟨hn, h0, h1⟩ := faithful_decodeRaw i hi
  exact ⟨hwf, hn, fun hw hx => ⟨h0 hw, h1 hx⟩⟩

end Sys2Proof

namespace Sys2Proof.Machine

/-! ## Every step keeps the canonical form of memory and an agenda of events, and goes on -/

/-! ### Instructions and events -/

theorem exec_kept {iv : Bool} {s : State} (h : s.keeps iv) : ∀ i : Instr, outKept iv (exec i s)
  | .add .. => execAdd_kept _ _ _ _ h | .sub .. => execSub_kept _ _ _ _ h | .and .. => execAnd_kept _ _ _ _ h
  | .or .. => execOr_kept _ _ _ _ h | .xor .. => execXor_kept _ _ _ _ h | .andn .. => execAndn_kept _ _ _ _ h
  | .shl .. => execShl_kept _ _ _ _ h | .shr .. => execShr_kept _ _ _ _ h | .sar .. => execSar_kept _ _ _ _ h
  | .rol .. => execRol_kept _ _ _ _ h | .mul .. => execMul_kept _ _ _ _ h | .mulh .. => execMulh_kept _ _ _ _ h
  | .mulhz .. => execMulhz_kept _ _ _ _ h | .div .. => execDiv_kept _ _ _ _ h | .divz .. => execDivz_kept _ _ _ _ h
  | .rem .. => execRem_kept _ _ _ _ h | .remz .. => execRemz_kept _ _ _ _ h | .min .. => execMin_kept _ _ _ _ h
  | .max .. => execMax_kept _ _ _ _ h | .minz .. => execMinz_kept _ _ _ _ h | .maxz .. => execMaxz_kept _ _ _ _ h
  | .clz .. => execClz_kept _ _ _ h | .ctz .. => execCtz_kept _ _ _ h | .popc .. => execPopc_kept _ _ _ h
  | .sextB .. => execSextB_kept _ _ _ h | .sextH .. => execSextH_kept _ _ _ h | .sextW .. => execSextW_kept _ _ _ h
  | .zextB .. => execZextB_kept _ _ _ h | .zextH .. => execZextH_kept _ _ _ h | .zextW .. => execZextW_kept _ _ _ h
  | .bext .. => execBext_kept _ _ _ _ h | .bins .. => execBins_kept _ _ _ _ h | .bextDw .. => execBextDw_kept _ _ _ _ _ h
  | .binsDw .. => execBinsDw_kept _ _ _ _ _ h | .addi .. => execAddi_kept _ _ _ _ h | .andi .. => execAndi_kept _ _ _ _ h
  | .ori .. => execOri_kept _ _ _ _ h | .xori .. => execXori_kept _ _ _ _ h | .addiDw .. => execAddiDw_kept _ _ _ _ h
  | .andiDw .. => execAndiDw_kept _ _ _ _ h | .oriDw .. => execOriDw_kept _ _ _ _ h
  | .xoriDw .. => execXoriDw_kept _ _ _ _ h | .shli .. => execShli_kept _ _ _ _ h | .shri .. => execShri_kept _ _ _ _ h
  | .sari .. => execSari_kept _ _ _ _ h | .limm .. => execLimm_kept _ _ _ h | .limmh .. => execLimmh_kept _ _ _ h
  | .addpc .. => execAddpc_kept _ _ _ h | .limmDw .. => execLimmDw_kept _ _ _ h | .limmhDw .. => execLimmhDw_kept _ _ _ h
  | .addpcDw .. => execAddpcDw_kept _ _ _ h | .cmpCc .. => execCmpCc_kept _ _ _ _ _ h
  | .cmpiCcLow .. => execCmpiCcLow_kept _ _ _ _ _ h | .cmpiCcHigh .. => execCmpiCcHigh_kept _ _ _ _ _ h
  | .cmpiDw .. => execCmpiDw_kept _ _ _ _ _ h | .pand .. => execPand_kept _ _ _ _ h | .por .. => execPor_kept _ _ _ _ h
  | .pxor .. => execPxor_kept _ _ _ _ h | .pnot .. => execPnot_kept _ _ _ h | .pmov .. => execPmov_kept _ _ _ h
  | .br .. => execBr_kept _ _ h | .call .. => execCall_kept _ _ h | .jr .. => execJr_kept _ _ h
  | .ret .. => execRet_kept _ h | .rot .. => execRot_kept _ h | .stage .. => execStage_kept _ _ h
  | .nop .. => execNop_kept _ h | .hint .. => execHint_kept _ _ h | .loop .. => execLoop_kept _ _ _ _ h
  | .loopP .. => execLoopP_kept _ _ _ _ h | .loopDw .. => execLoopDw_kept _ _ _ _ _ h | .ldb .. => execLdb_kept _ _ _ _ h
  | .ldh .. => execLdh_kept _ _ _ _ h | .ldw .. => execLdw_kept _ _ _ _ h | .ldd .. => execLdd_kept _ _ _ _ h
  | .ldbz .. => execLdbz_kept _ _ _ _ h | .ldhz .. => execLdhz_kept _ _ _ _ h | .ldwz .. => execLdwz_kept _ _ _ _ h
  | .stb .. => execStb_kept _ _ _ _ h | .sth .. => execSth_kept _ _ _ _ h | .stw .. => execStw_kept _ _ _ _ h
  | .std .. => execStd_kept _ _ _ _ h | .ldbDw .. => execLdbDw_kept _ _ _ _ h | .ldhDw .. => execLdhDw_kept _ _ _ _ h
  | .ldwDw .. => execLdwDw_kept _ _ _ _ h | .lddDw .. => execLddDw_kept _ _ _ _ h | .ldbzDw .. => execLdbzDw_kept _ _ _ _ h
  | .ldhzDw .. => execLdhzDw_kept _ _ _ _ h | .ldwzDw .. => execLdwzDw_kept _ _ _ _ h
  | .stbDw .. => execStbDw_kept _ _ _ _ h | .sthDw .. => execSthDw_kept _ _ _ _ h | .stwDw .. => execStwDw_kept _ _ _ _ h
  | .stdDw .. => execStdDw_kept _ _ _ _ h | .vld .. => execVld_kept _ _ _ _ h | .vst .. => execVst_kept _ _ _ _ h
  | .vldDw .. => execVldDw_kept _ _ _ _ h | .vstDw .. => execVstDw_kept _ _ _ _ h | .vlds .. => execVlds_kept _ _ _ _ h
  | .vsts .. => execVsts_kept _ _ _ _ h | .vgathl .. => execVgathl_kept _ _ _ _ h | .vscatl .. => execVscatl_kept _ _ _ _ h
  | .cclean .. => execCclean_kept _ _ h | .cinv .. => execCinv_kept _ _ h | .tlbinv .. => execTlbinv_kept _ _ _ h
  | .tlbinvComplete .. => execTlbinvComplete_kept _ h | .dclset .. => execDclset_kept _ _ h
  | .sylset .. => execSylset_kept _ _ _ h | .vldd .. => execVldd_kept _ _ _ _ h | .vldp .. => execVldp_kept _ _ _ _ h
  | .vlddDw .. => execVlddDw_kept _ _ _ _ h | .vldpDw .. => execVldpDw_kept _ _ _ _ h | .vadd .. => execVadd_kept _ _ _ _ h
  | .vsub .. => execVsub_kept _ _ _ _ h | .vmul .. => execVmul_kept _ _ _ _ h | .vmin .. => execVmin_kept _ _ _ _ h
  | .vmax .. => execVmax_kept _ _ _ _ h | .vabs .. => execVabs_kept _ _ _ h | .vneg .. => execVneg_kept _ _ _ h
  | .vand .. => execVand_kept _ _ _ _ h | .vor .. => execVor_kept _ _ _ _ h | .vxor .. => execVxor_kept _ _ _ _ h
  | .vshl .. => execVshl_kept _ _ _ _ h | .vshr .. => execVshr_kept _ _ _ _ h | .vsar .. => execVsar_kept _ _ _ _ h
  | .vaddS .. => execVaddS_kept _ _ _ _ h | .vsubS .. => execVsubS_kept _ _ _ _ h | .vsel .. => execVsel_kept _ _ _ _ _ h
  | .vfma .. => execVfma_kept _ _ _ _ h | .vfms .. => execVfms_kept _ _ _ _ h | .vnfma .. => execVnfma_kept _ _ _ _ h
  | .vdot .. => execVdot_kept _ _ _ _ h | .vdotf .. => execVdotf_kept _ _ _ _ h | .vcmpCc .. => execVcmpCc_kept _ _ _ _ _ h
  | .vredAdd .. => execVredAdd_kept _ _ _ h | .vredMin .. => execVredMin_kept _ _ _ h
  | .vredMax .. => execVredMax_kept _ _ _ h | .vscanAdd .. => execVscanAdd_kept _ _ _ h
  | .vscanMin .. => execVscanMin_kept _ _ _ h | .vscanMax .. => execVscanMax_kept _ _ _ h
  | .vperm .. => execVperm_kept _ _ _ _ h | .vbcast .. => execVbcast_kept _ _ _ h | .vext .. => execVext_kept _ _ _ _ h
  | .vins .. => execVins_kept _ _ _ _ h | .vrcp .. => execVrcp_kept _ _ _ h | .vrsq .. => execVrsq_kept _ _ _ h
  | .vexp2 .. => execVexp2_kept _ _ _ h | .vlog2 .. => execVlog2_kept _ _ _ h | .vtanh .. => execVtanh_kept _ _ _ h
  | .vsigm .. => execVsigm_kept _ _ _ h | .vlong .. => execVlong_kept _ h | .vshort .. => execVshort_kept _ h
  | .cvtRne .. => execCvtRne_kept _ _ _ _ h | .cvtRtz .. => execCvtRtz_kept _ _ _ _ h
  | .cvtRup .. => execCvtRup_kept _ _ _ _ h | .cvtRdn .. => execCvtRdn_kept _ _ _ _ h
  | .cvtSat .. => execCvtSat_kept _ _ _ _ h | .qn4 .. => execQn4_kept _ _ _ _ h | .dqn4 .. => execDqn4_kept _ _ _ _ h
  | .qscale .. => execQscale_kept _ _ _ _ h | .tagset .. => execTagset_kept _ _ _ h | .tagget .. => execTagget_kept _ _ _ h
  | .fclass .. => execFclass_kept _ _ _ h | .draw .. => execDraw_kept _ _ _ _ _ h | .stow .. => execStow_kept _ _ _ _ _ h
  | .draws .. => execDraws_kept _ _ _ _ _ h | .stows .. => execStows_kept _ _ _ _ _ h
  | .drawDw .. => execDrawDw_kept _ _ _ _ _ _ h | .stowDw .. => execStowDw_kept _ _ _ _ _ _ h
  | .drawsDw .. => execDrawsDw_kept _ _ _ _ _ _ h | .stowsDw .. => execStowsDw_kept _ _ _ _ _ _ h
  | .dzero .. => execDzero_kept _ _ _ _ h | .dcopy .. => execDcopy_kept _ _ _ _ _ h
  | .dzeroDw .. => execDzeroDw_kept _ _ _ _ _ h | .dcopyDw .. => execDcopyDw_kept _ _ _ _ _ _ h
  | .chain .. => execChain_kept _ _ _ h | .kick .. => execKick_kept _ _ h | .cwait .. => execCwait_kept _ _ _ h
  | .cwaitSatisfied .. => execCwaitSatisfied_kept _ h | .cpost .. => execCpost_kept _ _ _ h
  | .wpwait .. => execWpwait_kept _ _ _ h | .wpwaitSatisfied .. => execWpwaitSatisfied_kept _ h
  | .publish .. => execPublish_kept _ _ _ h | .publishToggle .. => execPublishToggle_kept _ h
  | .channelEntryStart .. => execChannelEntryStart_kept _ _ h | .chainEntryStep .. => execChainEntryStep_kept _ _ h
  | .operationPacket .. => execOperationPacket_kept _ _ h | .dramRequestAccept .. => execDramRequestAccept_kept _ _ h
  | .ownershipDecision .. => execOwnershipDecision_kept _ _ h
  | .clusterCacheEviction .. => execClusterCacheEviction_kept _ _ h | .entryComplete .. => execEntryComplete_kept _ _ h
  | .remoteBumpArrival .. => execRemoteBumpArrival_kept _ h | .channelFault .. => execChannelFault_kept _ _ _ _ _ h
  | .chstFaultResume .. => execChstFaultResume_kept _ _ h | .chstAbort .. => execChstAbort_kept _ _ h
  | .rowCommandPiece .. => execRowCommandPiece_kept _ _ h | .landingPacket .. => execLandingPacket_kept _ _ h
  | .pageWalkRead .. => execPageWalkRead_kept _ h | .hotPageEpoch .. => execHotPageEpoch_kept _ h
  | .poolScrub .. => execPoolScrub_kept _ _ h | .fetchMissFill .. => execFetchMissFill_kept _ _ h
  | .tblset .. => execTblset_kept _ _ _ h | .tblsetComplete .. => execTblsetComplete_kept _ h
  | .idhash .. => execIdhash_kept _ _ _ _ h | .rowwait .. => execRowwait_kept _ _ h
  | .rowwaitSatisfied .. => execRowwaitSatisfied_kept _ h | .rowacc .. => execRowacc_kept _ _ _ h
  | .rowset .. => execRowset_kept _ _ _ h | .elide .. => execElide_kept _ _ _ _ _ _ h
  | .elidem .. => execElidem_kept _ _ _ _ _ _ h | .elisionComplete .. => execElisionComplete_kept _ h
  | .rowget .. => execRowget_kept _ _ _ _ _ h | .rowgetw .. => execRowgetw_kept _ _ _ _ _ h
  | .rowgetDw .. => execRowgetDw_kept _ _ _ _ _ _ h | .rowgetwDw .. => execRowgetwDw_kept _ _ _ _ _ _ h
  | .segred .. => execSegred_kept _ _ _ _ _ h | .segscat .. => execSegscat_kept _ _ _ _ _ h
  | .segredDw .. => execSegredDw_kept _ _ _ _ _ _ h | .segscatDw .. => execSegscatDw_kept _ _ _ _ _ _ h
  | .lookupOpStart .. => execLookupOpStart_kept _ h | .rowRequestMerge .. => execRowRequestMerge_kept _ _ _ _ h
  | .rowRequestServe .. => execRowRequestServe_kept _ _ h | .rowRead .. => execRowRead_kept _ _ h
  | .rowAccumulate .. => execRowAccumulate_kept _ _ h | .rowStore .. => execRowStore_kept _ _ h
  | .rowReplyLand .. => execRowReplyLand_kept _ _ h | .lookupOpComplete .. => execLookupOpComplete_kept _ h
  | .lookupOpFault .. => execLookupOpFault_kept _ _ _ _ h | .amoAddW .. => execAmoAddW_kept _ _ _ _ _ h
  | .amoAddD .. => execAmoAddD_kept _ _ _ _ _ h | .amoAddDw .. => execAmoAddDw_kept _ _ _ _ _ _ h
  | .amoAnd .. => execAmoAnd_kept _ _ _ _ _ _ h | .amoOr .. => execAmoOr_kept _ _ _ _ _ _ h
  | .amoXor .. => execAmoXor_kept _ _ _ _ _ _ h | .amoMin .. => execAmoMin_kept _ _ _ _ _ _ h
  | .amoMax .. => execAmoMax_kept _ _ _ _ _ _ h | .amoMinz .. => execAmoMinz_kept _ _ _ _ _ _ h
  | .amoMaxz .. => execAmoMaxz_kept _ _ _ _ _ _ h | .amoSwap .. => execAmoSwap_kept _ _ _ _ _ _ h
  | .casW .. => execCasW_kept _ _ _ _ _ _ h | .casD .. => execCasD_kept _ _ _ _ _ _ h
  | .atomicExecute .. => execAtomicExecute_kept _ h | .amoCombine .. => execAmoCombine_kept _ _ h
  | .atomicFaultReply .. => execAtomicFaultReply_kept _ h | .accF32 .. => execAccF32_kept _ _ _ h
  | .accBf16 .. => execAccBf16_kept _ _ _ h | .accF64 .. => execAccF64_kept _ _ _ h | .fold .. => execFold_kept _ _ h
  | .accArrival .. => execAccArrival_kept _ h | .foldArrival .. => execFoldArrival_kept _ h
  | .recvred .. => execRecvred_kept _ _ _ _ _ _ h | .recvredMessage .. => execRecvredMessage_kept _ h
  | .fence .. => execFence_kept _ _ h | .fenceComplete .. => execFenceComplete_kept _ h | .bjoin .. => execBjoin_kept _ _ h
  | .barr .. => execBarr_kept _ _ h | .bwait .. => execBwait_kept _ _ h | .barrw .. => execBarrw_kept _ _ h
  | .bexp .. => execBexp_kept _ _ _ h | .bmiss .. => execBmiss_kept _ _ _ h
  | .barrierArrival .. => execBarrierArrival_kept _ h | .byteDelivery .. => execByteDelivery_kept _ _ _ h
  | .bwaitReturn .. => execBwaitReturn_kept _ h | .send .. => execSend_kept _ _ _ h | .sendl .. => execSendl_kept _ _ _ h
  | .recv .. => execRecv_kept _ _ _ h | .recvTake .. => execRecvTake_kept _ h | .rpeek .. => execRpeek_kept _ _ h
  | .rqset .. => execRqset_kept _ _ _ h | .resume .. => execResume_kept _ _ _ h
  | .resumeArrival .. => execResumeArrival_kept _ h | .messageArrival .. => execMessageArrival_kept _ h
  | .retryTimer .. => execRetryTimer_kept _ _ h | .rget .. => execRget_kept _ _ _ _ _ h
  | .rsto .. => execRsto_kept _ _ _ _ _ h | .rgetDw .. => execRgetDw_kept _ _ _ _ _ _ h
  | .rstoDw .. => execRstoDw_kept _ _ _ _ _ _ h | .remoteRequestArrival .. => execRemoteRequestArrival_kept _ h
  | .remoteReply .. => execRemoteReply_kept _ h | .refusalReturn .. => execRefusalReturn_kept _ h
  | .flitReceive .. => execFlitReceive_kept _ _ _ h | .replayRequest .. => execReplayRequest_kept _ _ h
  | .linkDown .. => execLinkDown_kept _ h | .qpush .. => execQpush_kept _ _ _ h | .qpop .. => execQpop_kept _ _ _ h
  | .queueRefill .. => execQueueRefill_kept _ _ h | .wqringWrite .. => execWqringWrite_kept _ _ _ h
  | .exit .. => execExit_kept _ _ h | .exitDrainDone .. => execExitDrainDone_kept _ h
  | .windowDepart .. => execWindowDepart_kept _ h | .detach .. => execDetach_kept _ h
  | .detachStep .. => execDetachStep_kept _ h | .teamid .. => execTeamid_kept _ _ h | .yield .. => execYield_kept _ h
  | .wld .. => execWld_kept _ _ _ _ _ h | .wst .. => execWst_kept _ _ _ _ _ h | .wldDw .. => execWldDw_kept _ _ _ _ _ _ h
  | .wstDw .. => execWstDw_kept _ _ _ _ _ _ h | .hseed .. => execHseed_kept _ _ _ h
  | .hseedEntryRead .. => execHseedEntryRead_kept _ h | .gain .. => execGain_kept _ _ _ h
  | .gainApply .. => execGainApply_kept _ h | .done .. => execDone_kept _ _ h | .doneApply .. => execDoneApply_kept _ h
  | .resid .. => execResid_kept _ _ h | .hpeek .. => execHpeek_kept _ _ h | .hcount .. => execHcount_kept _ _ h
  | .take .. => execTake_kept _ _ _ _ _ _ h | .takeWake .. => execTakeWake_kept _ h
  | .heapMaxRefresh .. => execHeapMaxRefresh_kept _ h | .heapSteal .. => execHeapSteal_kept _ h
  | .lexld .. => execLexld_kept _ _ _ h | .mldb .. => execMldb_kept _ _ _ h | .macc .. => execMacc_kept _ _ _ h
  | .mrd .. => execMrd_kept _ _ _ h | .infl .. => execInfl_kept _ _ _ h | .mwait .. => execMwait_kept _ _ h
  | .mwaitSatisfied .. => execMwaitSatisfied_kept _ h | .mma .. => execMma_kept _ _ _ _ _ h
  | .mgath .. => execMgath_kept _ _ _ _ _ h | .affixI .. => execAffixI_kept _ _ _ h | .affixK .. => execAffixK_kept _ _ _ h
  | .affixS .. => execAffixS_kept _ _ _ h | .matrixEntryStart .. => execMatrixEntryStart_kept _ _ h
  | .matrixEntryComplete .. => execMatrixEntryComplete_kept _ _ h
  | .matrixEntryFault .. => execMatrixEntryFault_kept _ _ _ h | .mfs .. => execMfs_kept _ _ _ h
  | .mts .. => execMts_kept _ _ _ h | .pubSlotWrite .. => execPubSlotWrite_kept _ _ _ h
  | .accrWrite .. => execAccrWrite_kept _ _ h | .icinvWrite .. => execIcinvWrite_kept _ _ h
  | .asgpartWrite .. => execAsgpartWrite_kept _ _ h | .haltselRun .. => execHaltselRun_kept _ _ h
  | .trap .. => execTrap_kept _ _ h | .rett .. => execRett_kept _ h | .halt .. => execHalt_kept _ h
  | .haltRecords .. => execHaltRecords_kept _ _ _ h | .ctxsvStop .. => execCtxsvStop_kept _ _ h
  | .ctxsvSave .. => execCtxsvSave_kept _ h | .ctxsvDiscard .. => execCtxsvDiscard_kept _ h
  | .ctxldLoad .. => execCtxldLoad_kept _ _ h | .ctxldStart .. => execCtxldStart_kept _ h
  | .ctxldLoadStart .. => execCtxldLoadStart_kept _ h | .brk .. => execBrk_kept _ h | .timens .. => execTimens_kept _ _ h
  | .sleep .. => execSleep_kept _ _ h | .sleepm .. => execSleepm_kept _ _ h | .sleepWake .. => execSleepWake_kept _ h
  | .perf .. => execPerf_kept _ _ _ h | .trace .. => execTrace_kept _ _ h | .trapEntry .. => execTrapEntry_kept _ h
  | .watchdogExpiry .. => execWatchdogExpiry_kept _ h | .hqtailWrite .. => execHqtailWrite_kept _ _ _ h
  | .launchAdmission .. => execLaunchAdmission_kept _ _ h | .launchForward .. => execLaunchForward_kept _ _ h
  | .waitCounterPoll .. => execWaitCounterPoll_kept _ _ h | .teamStart .. => execTeamStart_kept _ h
  | .launchComplete .. => execLaunchComplete_kept _ h | .powerGood .. => execPowerGood_kept _ h
  | .clocksStarted .. => execClocksStarted_kept _ h | .romImageVerify .. => execRomImageVerify_kept _ h
  | .trainComplete .. => execTrainComplete_kept _ _ h | .mreset .. => execMreset_kept _ h
  | .haltreq .. => execHaltreq_kept _ h | .mgmtRegisterWrite .. => execMgmtRegisterWrite_kept _ _ _ _ _ h
  | .mgmtControlPacket .. => execMgmtControlPacket_kept _ _ _ _ _ _ h
  | .hostBar2Access .. => execHostBar2Access_kept _ _ _ _ h | .ident .. => execIdent_kept _ h
  | .attest .. => execAttest_kept _ h | .fwload .. => execFwload_kept _ h | .fwcommit .. => execFwcommit_kept _ h
  | .timesetWrite .. => execTimesetWrite_kept _ _ h | .ptpFrame .. => execPtpFrame_kept _ _ h
  | .lockLoss .. => execLockLoss_kept _ h | .droopDetect .. => execDroopDetect_kept _ h
  | .droopRecover die cycles ns => execDroopRecover_kept die cycles ns h | .powerWindow .. => execPowerWindow_kept _ _ h
  | .thermalThrottle .. => execThermalThrottle_kept _ _ h | .thermalTrip .. => execThermalTrip_kept _ _ h
  | .reservedEncoding => execReservedEncoding_kept h | .powerLoss .. => execPowerLoss_kept _ h
  | .mailboxBadOperation .. => execMailboxBadOperation_kept _ h | .pcieLinkTraining .. => execPcieLinkTraining_kept _ _ _ h

/-- An instruction word goes on where its thread issues, an event always. -/
theorem exec_goes (s : State) : ∀ i : Instr, (isEvent i = false → s.src.status = .running) → GoesOn (exec i s)
  | .add .., h => execAdd_goes _ _ _ _ s (h rfl) | .sub .., h => execSub_goes _ _ _ _ s (h rfl)
  | .and .., h => execAnd_goes _ _ _ _ s (h rfl) | .or .., h => execOr_goes _ _ _ _ s (h rfl)
  | .xor .., h => execXor_goes _ _ _ _ s (h rfl) | .andn .., h => execAndn_goes _ _ _ _ s (h rfl)
  | .shl .., h => execShl_goes _ _ _ _ s (h rfl) | .shr .., h => execShr_goes _ _ _ _ s (h rfl)
  | .sar .., h => execSar_goes _ _ _ _ s (h rfl) | .rol .., h => execRol_goes _ _ _ _ s (h rfl)
  | .mul .., h => execMul_goes _ _ _ _ s (h rfl) | .mulh .., h => execMulh_goes _ _ _ _ s (h rfl)
  | .mulhz .., h => execMulhz_goes _ _ _ _ s (h rfl) | .div .., h => execDiv_goes _ _ _ _ s (h rfl)
  | .divz .., h => execDivz_goes _ _ _ _ s (h rfl) | .rem .., h => execRem_goes _ _ _ _ s (h rfl)
  | .remz .., h => execRemz_goes _ _ _ _ s (h rfl) | .min .., h => execMin_goes _ _ _ _ s (h rfl)
  | .max .., h => execMax_goes _ _ _ _ s (h rfl) | .minz .., h => execMinz_goes _ _ _ _ s (h rfl)
  | .maxz .., h => execMaxz_goes _ _ _ _ s (h rfl) | .clz .., h => execClz_goes _ _ _ s (h rfl)
  | .ctz .., h => execCtz_goes _ _ _ s (h rfl) | .popc .., h => execPopc_goes _ _ _ s (h rfl)
  | .sextB .., h => execSextB_goes _ _ _ s (h rfl) | .sextH .., h => execSextH_goes _ _ _ s (h rfl)
  | .sextW .., h => execSextW_goes _ _ _ s (h rfl) | .zextB .., h => execZextB_goes _ _ _ s (h rfl)
  | .zextH .., h => execZextH_goes _ _ _ s (h rfl) | .zextW .., h => execZextW_goes _ _ _ s (h rfl)
  | .bext .., h => execBext_goes _ _ _ _ s (h rfl) | .bins .., h => execBins_goes _ _ _ _ s (h rfl)
  | .bextDw .., h => execBextDw_goes _ _ _ _ _ s (h rfl) | .binsDw .., h => execBinsDw_goes _ _ _ _ _ s (h rfl)
  | .addi .., h => execAddi_goes _ _ _ _ s (h rfl) | .andi .., h => execAndi_goes _ _ _ _ s (h rfl)
  | .ori .., h => execOri_goes _ _ _ _ s (h rfl) | .xori .., h => execXori_goes _ _ _ _ s (h rfl)
  | .addiDw .., h => execAddiDw_goes _ _ _ _ s (h rfl) | .andiDw .., h => execAndiDw_goes _ _ _ _ s (h rfl)
  | .oriDw .., h => execOriDw_goes _ _ _ _ s (h rfl) | .xoriDw .., h => execXoriDw_goes _ _ _ _ s (h rfl)
  | .shli .., h => execShli_goes _ _ _ _ s (h rfl) | .shri .., h => execShri_goes _ _ _ _ s (h rfl)
  | .sari .., h => execSari_goes _ _ _ _ s (h rfl) | .limm .., h => execLimm_goes _ _ _ s (h rfl)
  | .limmh .., h => execLimmh_goes _ _ _ s (h rfl) | .addpc .., h => execAddpc_goes _ _ _ s (h rfl)
  | .limmDw .., h => execLimmDw_goes _ _ _ s (h rfl) | .limmhDw .., h => execLimmhDw_goes _ _ _ s (h rfl)
  | .addpcDw .., h => execAddpcDw_goes _ _ _ s (h rfl) | .cmpCc .., h => execCmpCc_goes _ _ _ _ _ s (h rfl)
  | .cmpiCcLow .., h => execCmpiCcLow_goes _ _ _ _ _ s (h rfl)
  | .cmpiCcHigh .., h => execCmpiCcHigh_goes _ _ _ _ _ s (h rfl) | .cmpiDw .., h => execCmpiDw_goes _ _ _ _ _ s (h rfl)
  | .pand .., h => execPand_goes _ _ _ _ s (h rfl) | .por .., h => execPor_goes _ _ _ _ s (h rfl)
  | .pxor .., h => execPxor_goes _ _ _ _ s (h rfl) | .pnot .., h => execPnot_goes _ _ _ s (h rfl)
  | .pmov .., h => execPmov_goes _ _ _ s (h rfl) | .br .., h => execBr_goes _ _ s (h rfl)
  | .call .., h => execCall_goes _ _ s (h rfl) | .jr .., h => execJr_goes _ _ s (h rfl)
  | .ret .., h => execRet_goes _ s (h rfl) | .rot .., h => execRot_goes _ s (h rfl)
  | .stage .., h => execStage_goes _ _ s (h rfl) | .nop .., h => execNop_goes _ s (h rfl)
  | .hint .., h => execHint_goes _ _ s (h rfl) | .loop .., h => execLoop_goes _ _ _ _ s (h rfl)
  | .loopP .., h => execLoopP_goes _ _ _ _ s (h rfl) | .loopDw .., h => execLoopDw_goes _ _ _ _ _ s (h rfl)
  | .ldb .., h => execLdb_goes _ _ _ _ s (h rfl) | .ldh .., h => execLdh_goes _ _ _ _ s (h rfl)
  | .ldw .., h => execLdw_goes _ _ _ _ s (h rfl) | .ldd .., h => execLdd_goes _ _ _ _ s (h rfl)
  | .ldbz .., h => execLdbz_goes _ _ _ _ s (h rfl) | .ldhz .., h => execLdhz_goes _ _ _ _ s (h rfl)
  | .ldwz .., h => execLdwz_goes _ _ _ _ s (h rfl) | .stb .., h => execStb_goes _ _ _ _ s (h rfl)
  | .sth .., h => execSth_goes _ _ _ _ s (h rfl) | .stw .., h => execStw_goes _ _ _ _ s (h rfl)
  | .std .., h => execStd_goes _ _ _ _ s (h rfl) | .ldbDw .., h => execLdbDw_goes _ _ _ _ s (h rfl)
  | .ldhDw .., h => execLdhDw_goes _ _ _ _ s (h rfl) | .ldwDw .., h => execLdwDw_goes _ _ _ _ s (h rfl)
  | .lddDw .., h => execLddDw_goes _ _ _ _ s (h rfl) | .ldbzDw .., h => execLdbzDw_goes _ _ _ _ s (h rfl)
  | .ldhzDw .., h => execLdhzDw_goes _ _ _ _ s (h rfl) | .ldwzDw .., h => execLdwzDw_goes _ _ _ _ s (h rfl)
  | .stbDw .., h => execStbDw_goes _ _ _ _ s (h rfl) | .sthDw .., h => execSthDw_goes _ _ _ _ s (h rfl)
  | .stwDw .., h => execStwDw_goes _ _ _ _ s (h rfl) | .stdDw .., h => execStdDw_goes _ _ _ _ s (h rfl)
  | .vld .., h => execVld_goes _ _ _ _ s (h rfl) | .vst .., h => execVst_goes _ _ _ _ s (h rfl)
  | .vldDw .., h => execVldDw_goes _ _ _ _ s (h rfl) | .vstDw .., h => execVstDw_goes _ _ _ _ s (h rfl)
  | .vlds .., h => execVlds_goes _ _ _ _ s (h rfl) | .vsts .., h => execVsts_goes _ _ _ _ s (h rfl)
  | .vgathl .., h => execVgathl_goes _ _ _ _ s (h rfl) | .vscatl .., h => execVscatl_goes _ _ _ _ s (h rfl)
  | .cclean .., h => execCclean_goes _ _ s (h rfl) | .cinv .., h => execCinv_goes _ _ s (h rfl)
  | .tlbinv .., h => execTlbinv_goes _ _ _ s (h rfl) | .tlbinvComplete .., _ => execTlbinvComplete_goes _ s
  | .dclset .., h => execDclset_goes _ _ s (h rfl) | .sylset .., h => execSylset_goes _ _ _ s (h rfl)
  | .vldd .., h => execVldd_goes _ _ _ _ s (h rfl) | .vldp .., h => execVldp_goes _ _ _ _ s (h rfl)
  | .vlddDw .., h => execVlddDw_goes _ _ _ _ s (h rfl) | .vldpDw .., h => execVldpDw_goes _ _ _ _ s (h rfl)
  | .vadd .., h => execVadd_goes _ _ _ _ s (h rfl) | .vsub .., h => execVsub_goes _ _ _ _ s (h rfl)
  | .vmul .., h => execVmul_goes _ _ _ _ s (h rfl) | .vmin .., h => execVmin_goes _ _ _ _ s (h rfl)
  | .vmax .., h => execVmax_goes _ _ _ _ s (h rfl) | .vabs .., h => execVabs_goes _ _ _ s (h rfl)
  | .vneg .., h => execVneg_goes _ _ _ s (h rfl) | .vand .., h => execVand_goes _ _ _ _ s (h rfl)
  | .vor .., h => execVor_goes _ _ _ _ s (h rfl) | .vxor .., h => execVxor_goes _ _ _ _ s (h rfl)
  | .vshl .., h => execVshl_goes _ _ _ _ s (h rfl) | .vshr .., h => execVshr_goes _ _ _ _ s (h rfl)
  | .vsar .., h => execVsar_goes _ _ _ _ s (h rfl) | .vaddS .., h => execVaddS_goes _ _ _ _ s (h rfl)
  | .vsubS .., h => execVsubS_goes _ _ _ _ s (h rfl) | .vsel .., h => execVsel_goes _ _ _ _ _ s (h rfl)
  | .vfma .., h => execVfma_goes _ _ _ _ s (h rfl) | .vfms .., h => execVfms_goes _ _ _ _ s (h rfl)
  | .vnfma .., h => execVnfma_goes _ _ _ _ s (h rfl) | .vdot .., h => execVdot_goes _ _ _ _ s (h rfl)
  | .vdotf .., h => execVdotf_goes _ _ _ _ s (h rfl) | .vcmpCc .., h => execVcmpCc_goes _ _ _ _ _ s (h rfl)
  | .vredAdd .., h => execVredAdd_goes _ _ _ s (h rfl) | .vredMin .., h => execVredMin_goes _ _ _ s (h rfl)
  | .vredMax .., h => execVredMax_goes _ _ _ s (h rfl) | .vscanAdd .., h => execVscanAdd_goes _ _ _ s (h rfl)
  | .vscanMin .., h => execVscanMin_goes _ _ _ s (h rfl) | .vscanMax .., h => execVscanMax_goes _ _ _ s (h rfl)
  | .vperm .., h => execVperm_goes _ _ _ _ s (h rfl) | .vbcast .., h => execVbcast_goes _ _ _ s (h rfl)
  | .vext .., h => execVext_goes _ _ _ _ s (h rfl) | .vins .., h => execVins_goes _ _ _ _ s (h rfl)
  | .vrcp .., h => execVrcp_goes _ _ _ s (h rfl) | .vrsq .., h => execVrsq_goes _ _ _ s (h rfl)
  | .vexp2 .., h => execVexp2_goes _ _ _ s (h rfl) | .vlog2 .., h => execVlog2_goes _ _ _ s (h rfl)
  | .vtanh .., h => execVtanh_goes _ _ _ s (h rfl) | .vsigm .., h => execVsigm_goes _ _ _ s (h rfl)
  | .vlong .., h => execVlong_goes _ s (h rfl) | .vshort .., h => execVshort_goes _ s (h rfl)
  | .cvtRne .., h => execCvtRne_goes _ _ _ _ s (h rfl) | .cvtRtz .., h => execCvtRtz_goes _ _ _ _ s (h rfl)
  | .cvtRup .., h => execCvtRup_goes _ _ _ _ s (h rfl) | .cvtRdn .., h => execCvtRdn_goes _ _ _ _ s (h rfl)
  | .cvtSat .., h => execCvtSat_goes _ _ _ _ s (h rfl) | .qn4 .., h => execQn4_goes _ _ _ _ s (h rfl)
  | .dqn4 .., h => execDqn4_goes _ _ _ _ s (h rfl) | .qscale .., h => execQscale_goes _ _ _ _ s (h rfl)
  | .tagset .., h => execTagset_goes _ _ _ s (h rfl) | .tagget .., h => execTagget_goes _ _ _ s (h rfl)
  | .fclass .., h => execFclass_goes _ _ _ s (h rfl) | .draw .., h => execDraw_goes _ _ _ _ _ s (h rfl)
  | .stow .., h => execStow_goes _ _ _ _ _ s (h rfl) | .draws .., h => execDraws_goes _ _ _ _ _ s (h rfl)
  | .stows .., h => execStows_goes _ _ _ _ _ s (h rfl) | .drawDw .., h => execDrawDw_goes _ _ _ _ _ _ s (h rfl)
  | .stowDw .., h => execStowDw_goes _ _ _ _ _ _ s (h rfl) | .drawsDw .., h => execDrawsDw_goes _ _ _ _ _ _ s (h rfl)
  | .stowsDw .., h => execStowsDw_goes _ _ _ _ _ _ s (h rfl) | .dzero .., h => execDzero_goes _ _ _ _ s (h rfl)
  | .dcopy .., h => execDcopy_goes _ _ _ _ _ s (h rfl) | .dzeroDw .., h => execDzeroDw_goes _ _ _ _ _ s (h rfl)
  | .dcopyDw .., h => execDcopyDw_goes _ _ _ _ _ _ s (h rfl) | .chain .., h => execChain_goes _ _ _ s (h rfl)
  | .kick .., h => execKick_goes _ _ s (h rfl) | .cwait .., h => execCwait_goes _ _ _ s (h rfl)
  | .cwaitSatisfied .., _ => execCwaitSatisfied_goes _ s | .cpost .., h => execCpost_goes _ _ _ s (h rfl)
  | .wpwait .., h => execWpwait_goes _ _ _ s (h rfl) | .wpwaitSatisfied .., _ => execWpwaitSatisfied_goes _ s
  | .publish .., h => execPublish_goes _ _ _ s (h rfl) | .publishToggle .., _ => execPublishToggle_goes _ s
  | .channelEntryStart .., _ => execChannelEntryStart_goes _ _ s | .chainEntryStep .., _ => execChainEntryStep_goes _ _ s
  | .operationPacket .., _ => execOperationPacket_goes _ _ s | .dramRequestAccept .., _ => execDramRequestAccept_goes _ _ s
  | .ownershipDecision .., _ => execOwnershipDecision_goes _ _ s
  | .clusterCacheEviction .., _ => execClusterCacheEviction_goes _ _ s
  | .entryComplete .., _ => execEntryComplete_goes _ _ s | .remoteBumpArrival .., _ => execRemoteBumpArrival_goes _ s
  | .channelFault .., _ => execChannelFault_goes _ _ _ _ _ s | .chstFaultResume .., _ => execChstFaultResume_goes _ _ s
  | .chstAbort .., _ => execChstAbort_goes _ _ s | .rowCommandPiece .., _ => execRowCommandPiece_goes _ _ s
  | .landingPacket .., _ => execLandingPacket_goes _ _ s | .pageWalkRead .., _ => execPageWalkRead_goes _ s
  | .hotPageEpoch .., _ => execHotPageEpoch_goes _ s | .poolScrub .., _ => execPoolScrub_goes _ _ s
  | .fetchMissFill .., _ => execFetchMissFill_goes _ _ s | .tblset .., h => execTblset_goes _ _ _ s (h rfl)
  | .tblsetComplete .., _ => execTblsetComplete_goes _ s | .idhash .., h => execIdhash_goes _ _ _ _ s (h rfl)
  | .rowwait .., h => execRowwait_goes _ _ s (h rfl) | .rowwaitSatisfied .., _ => execRowwaitSatisfied_goes _ s
  | .rowacc .., h => execRowacc_goes _ _ _ s (h rfl) | .rowset .., h => execRowset_goes _ _ _ s (h rfl)
  | .elide _ _ two .., h => execElide_goes _ _ two _ _ _ s (h (by cases two <;> rfl))
  | .elidem _ _ two .., h => execElidem_goes _ _ two _ _ _ s (h (by cases two <;> rfl))
  | .elisionComplete .., _ => execElisionComplete_goes _ s | .rowget .., h => execRowget_goes _ _ _ _ _ s (h rfl)
  | .rowgetw .., h => execRowgetw_goes _ _ _ _ _ s (h rfl) | .rowgetDw .., h => execRowgetDw_goes _ _ _ _ _ _ s (h rfl)
  | .rowgetwDw .., h => execRowgetwDw_goes _ _ _ _ _ _ s (h rfl) | .segred .., h => execSegred_goes _ _ _ _ _ s (h rfl)
  | .segscat .., h => execSegscat_goes _ _ _ _ _ s (h rfl) | .segredDw .., h => execSegredDw_goes _ _ _ _ _ _ s (h rfl)
  | .segscatDw .., h => execSegscatDw_goes _ _ _ _ _ _ s (h rfl) | .lookupOpStart .., _ => execLookupOpStart_goes _ s
  | .rowRequestMerge .., _ => execRowRequestMerge_goes _ _ _ _ s | .rowRequestServe .., _ => execRowRequestServe_goes _ _ s
  | .rowRead .., _ => execRowRead_goes _ _ s | .rowAccumulate .., _ => execRowAccumulate_goes _ _ s
  | .rowStore .., _ => execRowStore_goes _ _ s | .rowReplyLand .., _ => execRowReplyLand_goes _ _ s
  | .lookupOpComplete .., _ => execLookupOpComplete_goes _ s | .lookupOpFault .., _ => execLookupOpFault_goes _ _ _ _ s
  | .amoAddW .., h => execAmoAddW_goes _ _ _ _ _ s (h rfl) | .amoAddD .., h => execAmoAddD_goes _ _ _ _ _ s (h rfl)
  | .amoAddDw .., h => execAmoAddDw_goes _ _ _ _ _ _ s (h rfl) | .amoAnd .., h => execAmoAnd_goes _ _ _ _ _ _ s (h rfl)
  | .amoOr .., h => execAmoOr_goes _ _ _ _ _ _ s (h rfl) | .amoXor .., h => execAmoXor_goes _ _ _ _ _ _ s (h rfl)
  | .amoMin .., h => execAmoMin_goes _ _ _ _ _ _ s (h rfl) | .amoMax .., h => execAmoMax_goes _ _ _ _ _ _ s (h rfl)
  | .amoMinz .., h => execAmoMinz_goes _ _ _ _ _ _ s (h rfl) | .amoMaxz .., h => execAmoMaxz_goes _ _ _ _ _ _ s (h rfl)
  | .amoSwap .., h => execAmoSwap_goes _ _ _ _ _ _ s (h rfl)
  | .casW _ _ two .., h => execCasW_goes _ _ two _ _ _ s (h (by cases two <;> rfl))
  | .casD _ _ two .., h => execCasD_goes _ _ two _ _ _ s (h (by cases two <;> rfl))
  | .atomicExecute .., _ => execAtomicExecute_goes _ s | .amoCombine .., _ => execAmoCombine_goes _ _ s
  | .atomicFaultReply .., _ => execAtomicFaultReply_goes _ s | .accF32 .., h => execAccF32_goes _ _ _ s (h rfl)
  | .accBf16 .., h => execAccBf16_goes _ _ _ s (h rfl) | .accF64 .., h => execAccF64_goes _ _ _ s (h rfl)
  | .fold .., h => execFold_goes _ _ s (h rfl) | .accArrival .., _ => execAccArrival_goes _ s
  | .foldArrival .., _ => execFoldArrival_goes _ s
  | .recvred _ _ two .., h => execRecvred_goes _ _ two _ _ _ s (h (by cases two <;> rfl))
  | .recvredMessage .., _ => execRecvredMessage_goes _ s | .fence .., h => execFence_goes _ _ s (h rfl)
  | .fenceComplete .., _ => execFenceComplete_goes _ s | .bjoin .., h => execBjoin_goes _ _ s (h rfl)
  | .barr .., h => execBarr_goes _ _ s (h rfl) | .bwait .., h => execBwait_goes _ _ s (h rfl)
  | .barrw .., h => execBarrw_goes _ _ s (h rfl) | .bexp .., h => execBexp_goes _ _ _ s (h rfl)
  | .bmiss .., h => execBmiss_goes _ _ _ s (h rfl) | .barrierArrival .., _ => execBarrierArrival_goes _ s
  | .byteDelivery .., _ => execByteDelivery_goes _ _ _ s | .bwaitReturn .., _ => execBwaitReturn_goes _ s
  | .send .., h => execSend_goes _ _ _ s (h rfl) | .sendl .., h => execSendl_goes _ _ _ s (h rfl)
  | .recv .., h => execRecv_goes _ _ _ s (h rfl) | .recvTake .., _ => execRecvTake_goes _ s
  | .rpeek .., h => execRpeek_goes _ _ s (h rfl) | .rqset .., h => execRqset_goes _ _ _ s (h rfl)
  | .resume .., h => execResume_goes _ _ _ s (h rfl) | .resumeArrival .., _ => execResumeArrival_goes _ s
  | .messageArrival .., _ => execMessageArrival_goes _ s | .retryTimer .., _ => execRetryTimer_goes _ _ s
  | .rget .., h => execRget_goes _ _ _ _ _ s (h rfl) | .rsto .., h => execRsto_goes _ _ _ _ _ s (h rfl)
  | .rgetDw .., h => execRgetDw_goes _ _ _ _ _ _ s (h rfl) | .rstoDw .., h => execRstoDw_goes _ _ _ _ _ _ s (h rfl)
  | .remoteRequestArrival .., _ => execRemoteRequestArrival_goes _ s | .remoteReply .., _ => execRemoteReply_goes _ s
  | .refusalReturn .., _ => execRefusalReturn_goes _ s | .flitReceive .., _ => execFlitReceive_goes _ _ _ s
  | .replayRequest .., _ => execReplayRequest_goes _ _ s | .linkDown .., _ => execLinkDown_goes _ s
  | .qpush .., h => execQpush_goes _ _ _ s (h rfl) | .qpop .., h => execQpop_goes _ _ _ s (h rfl)
  | .queueRefill .., _ => execQueueRefill_goes _ _ s | .wqringWrite .., h => execWqringWrite_goes _ _ _ s (h rfl)
  | .exit .., h => execExit_goes _ _ s (h rfl) | .exitDrainDone .., _ => execExitDrainDone_goes _ s
  | .windowDepart .., _ => execWindowDepart_goes _ s | .detach .., h => execDetach_goes _ s (h rfl)
  | .detachStep .., _ => execDetachStep_goes _ s | .teamid .., h => execTeamid_goes _ _ s (h rfl)
  | .yield .., h => execYield_goes _ s (h rfl) | .wld .., h => execWld_goes _ _ _ _ _ s (h rfl)
  | .wst .., h => execWst_goes _ _ _ _ _ s (h rfl) | .wldDw .., h => execWldDw_goes _ _ _ _ _ _ s (h rfl)
  | .wstDw .., h => execWstDw_goes _ _ _ _ _ _ s (h rfl) | .hseed .., h => execHseed_goes _ _ _ s (h rfl)
  | .hseedEntryRead .., _ => execHseedEntryRead_goes _ s | .gain .., h => execGain_goes _ _ _ s (h rfl)
  | .gainApply .., _ => execGainApply_goes _ s | .done .., h => execDone_goes _ _ s (h rfl)
  | .doneApply .., _ => execDoneApply_goes _ s | .resid .., h => execResid_goes _ _ s (h rfl)
  | .hpeek .., h => execHpeek_goes _ _ s (h rfl) | .hcount .., h => execHcount_goes _ _ s (h rfl)
  | .take _ _ two .., h => execTake_goes _ _ two _ _ _ s (h (by cases two <;> rfl))
  | .takeWake .., _ => execTakeWake_goes _ s | .heapMaxRefresh .., _ => execHeapMaxRefresh_goes _ s
  | .heapSteal .., _ => execHeapSteal_goes _ s | .lexld .., h => execLexld_goes _ _ _ s (h rfl)
  | .mldb .., h => execMldb_goes _ _ _ s (h rfl) | .macc .., h => execMacc_goes _ _ _ s (h rfl)
  | .mrd .., h => execMrd_goes _ _ _ s (h rfl) | .infl .., h => execInfl_goes _ _ _ s (h rfl)
  | .mwait .., h => execMwait_goes _ _ s (h rfl) | .mwaitSatisfied .., _ => execMwaitSatisfied_goes _ s
  | .mma .., h => execMma_goes _ _ _ _ _ s (h rfl) | .mgath .., h => execMgath_goes _ _ _ _ _ s (h rfl)
  | .affixI .., h => execAffixI_goes _ _ _ s (h rfl) | .affixK .., h => execAffixK_goes _ _ _ s (h rfl)
  | .affixS .., h => execAffixS_goes _ _ _ s (h rfl) | .matrixEntryStart .., _ => execMatrixEntryStart_goes _ _ s
  | .matrixEntryComplete .., _ => execMatrixEntryComplete_goes _ _ s
  | .matrixEntryFault .., _ => execMatrixEntryFault_goes _ _ _ s | .mfs .., h => execMfs_goes _ _ _ s (h rfl)
  | .mts .., h => execMts_goes _ _ _ s (h rfl) | .pubSlotWrite .., h => execPubSlotWrite_goes _ _ _ s (h rfl)
  | .accrWrite .., h => execAccrWrite_goes _ _ s (h rfl) | .icinvWrite .., h => execIcinvWrite_goes _ _ s (h rfl)
  | .asgpartWrite .., h => execAsgpartWrite_goes _ _ s (h rfl) | .haltselRun .., _ => execHaltselRun_goes _ _ s
  | .trap .., h => execTrap_goes _ _ s (h rfl) | .rett .., h => execRett_goes _ s (h rfl)
  | .halt .., h => execHalt_goes _ s (h rfl) | .haltRecords .., _ => execHaltRecords_goes _ _ _ s
  | .ctxsvStop .., h => execCtxsvStop_goes _ _ s (h rfl) | .ctxsvSave .., _ => execCtxsvSave_goes _ s
  | .ctxsvDiscard .., _ => execCtxsvDiscard_goes _ s | .ctxldLoad .., h => execCtxldLoad_goes _ _ s (h rfl)
  | .ctxldStart .., _ => execCtxldStart_goes _ s | .ctxldLoadStart .., _ => execCtxldLoadStart_goes _ s
  | .brk .., h => execBrk_goes _ s (h rfl) | .timens .., h => execTimens_goes _ _ s (h rfl)
  | .sleep .., h => execSleep_goes _ _ s (h rfl) | .sleepm .., h => execSleepm_goes _ _ s (h rfl)
  | .sleepWake .., _ => execSleepWake_goes _ s | .perf .., h => execPerf_goes _ _ _ s (h rfl)
  | .trace .., h => execTrace_goes _ _ s (h rfl) | .trapEntry .., _ => execTrapEntry_goes _ s
  | .watchdogExpiry .., _ => execWatchdogExpiry_goes _ s | .hqtailWrite .., _ => execHqtailWrite_goes _ _ _ s
  | .launchAdmission .., _ => execLaunchAdmission_goes _ _ s | .launchForward .., _ => execLaunchForward_goes _ _ s
  | .waitCounterPoll .., _ => execWaitCounterPoll_goes _ _ s | .teamStart .., _ => execTeamStart_goes _ s
  | .launchComplete .., _ => execLaunchComplete_goes _ s | .powerGood .., _ => execPowerGood_goes _ s
  | .clocksStarted .., _ => execClocksStarted_goes _ s | .romImageVerify .., _ => execRomImageVerify_goes _ s
  | .trainComplete .., _ => execTrainComplete_goes _ _ s | .mreset .., _ => execMreset_goes _ s
  | .haltreq .., _ => execHaltreq_goes _ s | .mgmtRegisterWrite .., _ => execMgmtRegisterWrite_goes _ _ _ _ _ s
  | .mgmtControlPacket .., _ => execMgmtControlPacket_goes _ _ _ _ _ _ s
  | .hostBar2Access .., _ => execHostBar2Access_goes _ _ _ _ s | .ident .., _ => execIdent_goes _ s
  | .attest .., _ => execAttest_goes _ s | .fwload .., _ => execFwload_goes _ s | .fwcommit .., _ => execFwcommit_goes _ s
  | .timesetWrite .., _ => execTimesetWrite_goes _ _ s | .ptpFrame .., _ => execPtpFrame_goes _ _ s
  | .lockLoss .., _ => execLockLoss_goes _ s | .droopDetect .., _ => execDroopDetect_goes _ s
  | .droopRecover die cycles ns, _ => execDroopRecover_goes die cycles ns s
  | .powerWindow .., _ => execPowerWindow_goes _ _ s | .thermalThrottle .., _ => execThermalThrottle_goes _ _ s
  | .thermalTrip .., _ => execThermalTrip_goes _ _ s | .reservedEncoding, h => execReservedEncoding_goes s (h rfl)
  | .powerLoss .., _ => execPowerLoss_goes _ s | .mailboxBadOperation .., _ => execMailboxBadOperation_goes _ s
  | .pcieLinkTraining .., _ => execPcieLinkTraining_goes _ _ _ s

theorem exec_goes_of_event {i : Instr} (s : State) (h : isEvent i = true) : GoesOn (exec i s) :=
  exec_goes s i fun h' => by rw [h] at h'; cases h'

theorem exec_goes_of_running {s : State} (i : Instr) (h : s.src.status = .running) : GoesOn (exec i s) :=
  exec_goes s i fun _ => h

/-! ### Bundles (R41, R42) -/

/-- A bundle's end keeps what is to be kept, in the state that it hands on. -/
def BundleEnd.kept (iv : Bool) : BundleEnd → Prop
  | .commit s => s.keeps iv
  | .stop o => outKept iv o
  | .trap .. | .retry .. | .wait .. => True

theorem runSlots_kept {iv : Bool} (old : Thread) (slots : List (Nat × Instr)) (w : Option (Instr × Bundle)) {s : State}
    (h : s.keeps iv) : (s.runSlots old slots w).kept iv := by
  induction slots generalizing s w with
  | nil => cases w <;> first | exact h | trivial
  | cons slot rest ih =>
    obtain ⟨n, i⟩ := slot
    simp only [State.runSlots]
    split
    · exact h
    next b _ =>
      have hexec := exec_kept (s := { s with bundle := some { b with slot := n, old := old } }) h i
      split
      next s' hs' =>
        rw [hs'] at hexec
        split
        · exact hexec
        · split
          · trivial
          · trivial
          · exact ih _ hexec
      next => exact hexec

theorem commitBundle_kept {iv : Bool} {s : State} (h : s.keeps iv) : s.commitBundle.keeps iv := by
  unfold State.commitBundle
  split
  · exact h
  next b _ =>
    have hleave : (match b.leaves, b.jump with
        | true, some (pc, _) => ({ s with bundle := none } : State).leave pc
        | _, _ => { s with bundle := none }).keeps iv := by
      split
      · exact leave_kept _ h
      · exact h
    dsimp only
    split
    · exact retireAt_kept _ _ _ _ (endThread_kept _ (leaveObjects_kept _ hleave))
    · split <;> exact retireAt_kept _ _ _ _ hleave

theorem runBundle_kept {iv : Bool} (slots : List (Nat × Instr)) {s : State} (h : s.keeps iv) :
    outKept iv (s.runBundle slots) := by
  have hslots := runSlots_kept s.th.beforeBundle slots none
    (s := { s with bundle := some { slot := 0, old := s.th.beforeBundle } }) h
  unfold State.runBundle
  dsimp only
  split
  next s' hs =>
    rw [hs] at hslots
    exact commitBundle_kept hslots
  next m stall _ =>
    cases m with
    | none =>
      cases stall with
      | true => exact lostCycle_kept h
      | false => exact h
    | some x => exact startWalk_kept x h
  next o hs =>
    rw [hs] at hslots
    exact hslots
  next => exact raise_kept _ _ _ h
  next i b _ =>
    have hexec := exec_kept (s := { s with bundle := some b }) h i
    split
    next s' hs =>
      rw [hs] at hexec
      split
      · exact blockOn_kept _ _ _ hexec
      · exact h
    next => exact hexec

/-- The evaluation of the slots keeps the registers that they read, and neither it nor the slot that waits ends in a stop. -/
def BundleEnd.goesOn (old : Thread) : BundleEnd → Prop
  | .stop o => GoesOn o
  | .wait _ b => b.old = old
  | .commit _ | .trap .. | .retry .. => True

theorem runSlots_goesOn {old : Thread} (hold : old.status = .running) (slots : List (Nat × Instr))
    (w : Option (Instr × Bundle)) (hw : ∀ x ∈ w, x.2.old = old) (s : State) : (s.runSlots old slots w).goesOn old := by
  induction slots generalizing s w with
  | nil =>
    cases w with
    | none => trivial
    | some x => exact hw x rfl
  | cons slot rest ih =>
    obtain ⟨n, i⟩ := slot
    simp only [State.runSlots]
    split
    · trivial
    next b _ =>
      obtain ⟨s', hs'⟩ := exec_goes_of_running (s := { s with bundle := some { b with slot := n, old := old } }) i hold
      rw [hs']
      dsimp only
      split
      · trivial
      · split
        · trivial
        · trivial
        · refine ih _ (fun x hx => ?_) _
          split at hx
          · cases hx
            rfl
          · exact hw x hx

theorem runBundle_goes {s : State} (h : s.th.status = .running) (slots : List (Nat × Instr)) : GoesOn (s.runBundle slots) := by
  have hold : s.th.beforeBundle.status = .running := by
    unfold Thread.beforeBundle
    split <;> exact h
  have hslots := runSlots_goesOn hold slots none (by simp) { s with bundle := some { slot := 0, old := s.th.beforeBundle } }
  unfold State.runBundle
  dsimp only
  split
  next => exact goes_next _
  next => exact goes_next _
  next o hs =>
    rw [hs] at hslots
    exact hslots
  next => exact goes_next _
  next i b hs =>
    rw [hs] at hslots
    obtain ⟨s', hs'⟩ := exec_goes_of_running (s := { s with bundle := some b }) i
      (show b.old.status = .running by rw [show b.old = _ from hslots]; exact hold)
    rw [hs']
    dsimp only
    split <;> exact goes_next _

/-! ### A thread's turn -/

theorem fetchMiss_kept {iv : Bool} (tid : Nat) (f : Fetched) {s : State} (h : s.keeps iv) : (s.fetchMiss tid f).keeps iv := by
  cases f with
  | word => exact h
  | walk x => exact startWalk_kept x h
  | fill q a => exact askFetch_kept q a h
  | trap t => exact raise_kept _ _ _ (dropWalks_kept _ h)
  | error m pa t => exact raise_kept _ _ _ (dropWalks_kept _ (memsideRecord_kept _ _ _ _ _ _ h))

theorem issueWords_kept {iv : Bool} (ws : List Nat) {s : State} (h : s.keeps iv) : outKept iv (s.issueWords ws) :=
  ite_kept (runBundle_kept _ h) (exec_kept h _)

theorem issueWords_goes {s : State} (hb : s.bundle = none) (h : s.th.status = .running) (ws : List Nat) :
    GoesOn (s.issueWords ws) := by
  refine goes_ite (runBundle_goes h _) (exec_goes_of_running _ ?_)
  rw [State.src, hb]
  exact h

theorem waitEvent_isEvent {tid : Nat} {w : Wait} {e : Instr} (h : waitEvent tid w = some e) : isEvent e = true := by
  unfold waitEvent at h
  split at h <;> cases h <;> rfl

theorem turnOf_kept {iv : Bool} (tid : Nat) {s : State} (h : s.keeps iv) : outKept iv (s.turnOf tid) := by
  unfold State.turnOf
  dsimp only
  split
  · exact ite_kept (raise_kept _ _ _ (setThread_kept _ _ h)) h
  · split
    · split
      · exact issueWords_kept _ h
      · exact fetchMiss_kept _ _ h
    · refine ite_kept (exec_kept (s := s.as tid) h _) ?_
      split
      · exact exec_kept (s := s.as tid) h _
      · exact contextGo_kept _ _ h
      · exact h
    · exact h

theorem turnOf_goes (s : State) (tid : Nat) : GoesOn (s.turnOf tid) := by
  unfold State.turnOf
  dsimp only
  split
  · exact goes_ite (goes_next _) (goes_next _)
  · split
    next hrun =>
      split
      · exact issueWords_goes (s := s.as tid) rfl hrun _
      · exact goes_next _
    next =>
      refine goes_ite (exec_goes_of_event _ rfl) ?_
      split
      next he => exact exec_goes_of_event _ (waitEvent_isEvent he)
      next => exact goes_next _
      next => exact goes_next _
    next => exact goes_next _

/-! ### A step -/

theorem eventAt_kept {iv : Bool} (k : Nat) {s : State} (h : s.keeps iv) : outKept iv (s.eventAt k) := by
  unfold State.eventAt
  split
  · exact exec_kept (kept_erase k h) _
  · exact h

theorem eventAt_goes {s : State} (h : s.eventsOnly = true) (k : Nat) : GoesOn (s.eventAt k) := by
  unfold State.eventAt
  split
  next he => exact exec_goes_of_event _ (List.all_eq_true.mp h _ (List.mem_of_getElem? he))
  next => exact goes_next _

theorem defaultTurn_kept {iv : Bool} {s : State} (h : s.keeps iv) : outKept iv s.defaultTurn := by
  unfold State.defaultTurn
  split
  · exact eventAt_kept 0 h
  · exact ite_kept (eventAt_kept 0 h) (turnOf_kept _ h)

theorem defaultTurn_goes {s : State} (h : s.eventsOnly = true) : GoesOn s.defaultTurn := by
  unfold State.defaultTurn
  split
  · exact eventAt_goes h 0
  · exact goes_ite (eventAt_goes h 0) (turnOf_goes s _)

theorem pickEntry_kept {iv : Bool} (core : Nat) (ch : Fin 4) (k : Nat) {s : State} (h : s.keeps iv) :
    (s.pickEntry core ch k).keeps iv := by
  unfold State.pickEntry
  split
  · exact modChan_kept _ _ _ h
  · exact h

theorem obey_kept {iv : Bool} (c : Choice) {s : State} (h : s.keeps iv) : outKept iv (s.obey c) := by
  cases c with
  | event k => exact eventAt_kept k h
  | issue tid => exact turnOf_kept tid h
  | drain tid => exact drainOne_kept tid h
  | entry core ch k => exact pickEntry_kept core _ k h
  | hold | grain => exact h
  | home m part base len h' => exact setPartition_kept _ _ _ h

theorem obey_goes {s : State} (h : s.eventsOnly = true) (c : Choice) : GoesOn (s.obey c) := by
  cases c with
  | event k => exact eventAt_goes h k
  | issue tid => exact turnOf_goes s tid
  | drain | entry | hold | grain | home => exact goes_next _

theorem countCycle_kept {iv : Bool} (c : Nat) {s : State} (h : s.keeps iv) : (s.countCycle c).keeps iv := by
  unfold State.countCycle
  refine foldl_kept ?_ fun t x ht => count_kept _ _ _ _ ht
  split
  · exact count_kept _ _ _ _ (count_kept _ _ _ _ h)
  · exact count_kept _ _ _ _ h

theorem pass_kept {iv : Bool} {s : State} (h : s.keeps iv) : s.pass.keeps iv :=
  emits_kept (all_map fun _ => rfl) (foldl_kept h fun _ _ ht => countCycle_kept _ ht)

theorem pass_eventsOnly {s : State} (h : s.eventsOnly = true) : s.pass.eventsOnly = true := pass_kept (iv := false) h

theorem act_kept {iv : Bool} {s : State} (h : s.keeps iv) : outKept iv s.act := by
  unfold State.act
  split
  · exact obey_kept _ h
  · exact defaultTurn_kept h

theorem act_goes {s : State} (h : s.eventsOnly = true) : GoesOn s.act := by
  unfold State.act
  split
  next c rest _ => exact obey_goes (s := { s with sched := rest }) h c
  next => exact defaultTurn_goes h

theorem step_kept {iv : Bool} {s t : State} (h : s.keeps iv) (hstep : step s = .next t) : t.keeps iv := by
  have ht := act_kept (pass_kept h)
  rw [step] at hstep
  rwa [hstep] at ht

theorem step_goes {s : State} (h : s.eventsOnly = true) : GoesOn (step s) := by
  rw [step]
  exact act_goes (pass_eventsOnly h)

end Sys2Proof.Machine

namespace Sys2Proof
open Machine

/-- Settles O60: `step_kept` of the memory's form. -/
theorem memoryCanonical : Obligations.MemoryCanonical := fun _ _ h hstep => step_kept (iv := true) h hstep

/-- Settles O58: `step_goes`, and `step_kept` of the agenda. -/
theorem stepGoesOn : Obligations.StepGoesOn :=
  ⟨fun _ h => step_goes h, fun _ _ h hstep => step_kept (iv := false) h hstep⟩

end Sys2Proof

namespace Sys2Proof

/-! ## Scalar loads and stores of the pool -/

/-! ### Numbers and their bytes (R2, R7) -/

theorem bytesOf_length (n v : Nat) : (Machine.bytesOf n v).length = n := by
  simp [Machine.bytesOf]

theorem bytesOf_succ (n v : Nat) : Machine.bytesOf (n + 1) v = BitVec.ofNat 8 v :: Machine.bytesOf n (v / 256) := by
  simp only [Machine.bytesOf, List.range_succ_eq_map, List.map_cons, List.map_map]
  congr 1
  · simp
  · refine List.map_congr_left fun i _ => ?_
    rw [Function.comp_apply, Nat.div_div_eq_div_mul, Nat.mul_succ, Nat.pow_add, Nat.mul_comm]

/-- The low `n` bytes of a number are the number modulo 256ⁿ. -/
theorem natOfBytes_bytesOf (n v : Nat) : Machine.natOfBytes (Machine.bytesOf n v) = v % 2 ^ (8 * n) := by
  induction n generalizing v with
  | zero => simp [Machine.bytesOf, Machine.natOfBytes, Nat.mod_one]
  | succ n ih =>
    rw [bytesOf_succ, Machine.natOfBytes, ih, BitVec.toNat_ofNat, Nat.mul_succ, Nat.add_comm (8 * n), Nat.pow_add, Nat.mod_mul]

end Sys2Proof
namespace Sys2Proof.Machine

theorem signExt_eq {k : Nat} (hk : 0 < k ∧ k ≤ 64) (x : Nat) : signExt x k = (BitVec.ofNat k x).signExtend 64 := by
  have hpow : 2 ^ k ≤ 2 ^ 64 := Nat.pow_le_pow_right (by decide) hk.2
  have hlt : x % 2 ^ k < 2 ^ k := Nat.mod_lt _ (Nat.two_pow_pos k)
  apply BitVec.eq_of_toNat_eq
  rw [BitVec.toNat_signExtend, BitVec.msb_eq_decide]
  simp only [signExt, BitVec.toNat_ofNat, BitVec.toNat_setWidth]
  by_cases hx : x % 2 ^ k < 2 ^ (k - 1)
  · simp [hx, Nat.not_le.mpr hx]
  · simp only [hx, Nat.not_lt.mp hx, if_false, if_true, decide_true, BitVec.toNat_ofNat]
    generalize x % 2 ^ k = y at *
    generalize 2 ^ k = p at *
    omega

theorem extended_eq {n : Nat} (hn : 0 < n ∧ n ≤ 8) (signed : Bool) (x : Nat) :
    extended signed n x = if signed then (BitVec.ofNat (8 * n) x).signExtend 64 else (BitVec.ofNat (8 * n) x).setWidth 64 := by
  unfold extended
  split
  · exact signExt_eq (by omega) x
  · exact BitVec.eq_of_toNat_eq (by simp [zeroExt])

/-! ### Stores into the pool (R249) -/

/-- What no store into a pool changes: who issues, the threads, and every core's publish slots. -/
structure SameThreads (s t : State) : Prop where
  cur : t.cur = s.cur
  thread : ∀ k, t.thread k = s.thread k
  pub : ∀ c, (t.core c).pub = (s.core c).pub

theorem SameThreads.refl (s : State) : SameThreads s s := ⟨rfl, fun _ => rfl, fun _ => rfl⟩

theorem SameThreads.trans {s t u : State} (h : SameThreads s t) (h' : SameThreads t u) : SameThreads s u :=
  ⟨h'.cur.trans h.cur, fun k => (h'.thread k).trans (h.thread k), fun c => (h'.pub c).trans (h.pub c)⟩

theorem modCore_sameThreads (s : State) (c : Nat) {f : Core → Core} (hf : ∀ k, (f k).pub = k.pub) :
    SameThreads s (s.modCore c f) := by
  refine ⟨rfl, fun _ => rfl, fun k => ?_⟩
  rw [modCore_core]
  split
  case isTrue h => rw [hf, h]
  case isFalse => rfl

theorem countPoolc_sameThreads (s : State) (d n : Nat) : SameThreads s (s.countPoolc d n) :=
  ⟨rfl, fun _ => rfl, fun _ => rfl⟩

theorem correctWords_mem (s : State) (c : Nat) (ws : List Nat) : (s.correctWords c ws).mem = s.mem := by
  unfold State.correctWords
  split
  · rfl
  · dsimp only
    split <;> rfl

theorem correctWords_sameThreads (s : State) (c : Nat) (ws : List Nat) : SameThreads s (s.correctWords c ws) := by
  unfold State.correctWords
  split
  · exact .refl s
  · dsimp only
    split
    · exact .refl s
    · refine (modCore_sameThreads s c ?_).trans (countPoolc_sameThreads _ _ _)
      exact fun _ => rfl

theorem poolClean_mem (s : State) (c off n : Nat) (f : Nat → Nat) : (s.poolClean c off n f).mem = s.mem := by
  unfold State.poolClean
  split
  · rfl
  · exact correctWords_mem _ c _

theorem poolClean_sameThreads (s : State) (c off n : Nat) (f : Nat → Nat) : SameThreads s (s.poolClean c off n f) := by
  unfold State.poolClean
  split
  · exact .refl s
  · refine (modCore_sameThreads s c ?_).trans (correctWords_sameThreads _ c _)
    exact fun _ => rfl

theorem setPoolNat_sameThreads (s : State) (c off n v : Nat) : SameThreads s (s.setPoolNat c off n v) := by
  refine SameThreads.trans ?_ (poolClean_sameThreads _ c off _ _)
  exact ⟨rfl, fun _ => rfl, fun _ => rfl⟩

theorem drainList_sameThreads (c : Nat) (l : List PendingStore) (s : State) : SameThreads s (s.drainList c l) := by
  induction l generalizing s with
  | nil => exact .refl s
  | cons st l ih => exact (setPoolNat_sameThreads s c _ _ _).trans (ih _)

theorem drainAll_eq_self {s : State} {tid : Nat} (h : (s.thread tid).stores = []) : s.drainAll tid = s := by
  simp [State.drainAll, h]

theorem drainAll_stores (s : State) (tid : Nat) : ((s.drainAll tid).thread tid).stores = [] := by
  unfold State.drainAll
  split
  case isTrue h => exact List.isEmpty_iff.mp h
  case isFalse => simp

theorem drainAll_cur (s : State) (tid : Nat) : (s.drainAll tid).cur = s.cur := by
  unfold State.drainAll
  split
  · rfl
  · exact (drainList_sameThreads _ _ s).cur

theorem drainAll_pub (s : State) (tid c : Nat) : ((s.drainAll tid).core c).pub = (s.core c).pub := by
  unfold State.drainAll
  split
  · rfl
  · rw [modThread_core]
    exact (drainList_sameThreads _ _ s).pub c

/-! ### The bytes of a store (R2, R167) -/

/-- No publish slot of the core is enabled (R166). -/
def Core.unpublished (k : Core) : Prop := ∀ p ∈ k.pub, p.getLsbD 63 = false

theorem frontOff_eq {k : Core} (h : k.unpublished) (off : Nat) : frontOff k off = off := by
  unfold frontOff
  have hv : ∀ p ∈ k.pub.toList, ¬inView p off = true := fun p hp => by
    have hp := h p (Vector.mem_toList_iff.mp hp)
    simp only [inView, pubEn, bit, hp, Bool.false_and, Bool.false_eq_true, not_false_eq_true]
  rw [List.find?_eq_none.mpr hv]

theorem foldl_write_eq_writeBytes (c off : Nat) (bs : List Byte) (k : Nat) (m : Memory) :
    (bs.zipIdx k).foldl (fun m x => m.write (poolKey c (off + x.2)) x.1) m = m.writeBytes (poolKey c (off + k)) bs := by
  induction bs generalizing k m with
  | nil => rfl
  | cons b bs ih => exact ih (k + 1) _

theorem setPoolNat_mem {s : State} {c : Nat} (h : (s.core c).unpublished) (off n v : Nat) :
    (s.setPoolNat c off n v).mem = s.mem.writeBytes (poolKey c off) (bytesOf n v) := by
  refine (poolClean_mem _ c off _ _).trans ?_
  simp only [frontOff_eq h]
  exact foldl_write_eq_writeBytes c off _ 0 s.mem

theorem poolNat_of_bytes {s : State} {c : Nat} (h : (s.core c).unpublished) (off n v : Nat)
    (hb : ∀ i < n, s.mem.read (poolKey c (off + i)) = BitVec.ofNat 8 (v / 2 ^ (8 * i))) :
    s.poolNat c off n = v % 2 ^ (8 * n) := by
  rw [← natOfBytes_bytesOf]
  refine congrArg natOfBytes (List.map_congr_left fun i hi => ?_)
  rw [State.poolByte, frontOff_eq h]
  exact hb i (List.mem_range.mp hi)

theorem read_setPoolNat {s : State} {c : Nat} (hw : s.mem.wf = true) (h : (s.core c).unpublished) (off n v k : Nat) :
    (s.setPoolNat c off n v).mem.read k =
      if poolKey c off ≤ k ∧ k < poolKey c off + n then BitVec.ofNat 8 (v / 2 ^ (8 * (k - poolKey c off))) else s.mem.read k := by
  rw [setPoolNat_mem h, Memory.read_writeBytes _ _ hw, bytesOf_length]
  split
  case isTrue hk => simp [bytesOf, show k - poolKey c off < n by omega]
  case isFalse => rfl

theorem setPoolNat_bytes {s : State} {c : Nat} (hw : s.mem.wf = true) (h : (s.core c).unpublished) (off n v : Nat) {i : Nat}
    (hi : i < n) : (s.setPoolNat c off n v).mem.read (poolKey c (off + i)) = BitVec.ofNat 8 (v / 2 ^ (8 * i)) := by
  have e : poolKey c (off + i) = poolKey c off + i := (Nat.add_assoc _ off i).symm
  rw [read_setPoolNat hw h, e, if_pos (by omega), Nat.add_sub_cancel_left]

theorem setPoolNat_frame {s : State} {c : Nat} (hw : s.mem.wf = true) (h : (s.core c).unpublished) (off n v : Nat) {k : Nat}
    (hk : ∀ i < n, k ≠ poolKey c (off + i)) : (s.setPoolNat c off n v).mem.read k = s.mem.read k := by
  rw [read_setPoolNat hw h, if_neg]
  intro ⟨hlo, hhi⟩
  refine hk (k - poolKey c off) (by omega) ?_
  have e : poolKey c (off + (k - poolKey c off)) = poolKey c off + (k - poolKey c off) := (Nat.add_assoc _ off _).symm
  omega

/-! ### What a store leaves in the pool, and what a load returns of it -/

theorem storeLocal_now {s : State} (h : s.holdStores = false) (off n v : Nat) :
    s.storeLocal off n v = (s.drainAll s.cur).setPoolNat s.myCore off n v := by
  simp [State.storeLocal, h]

theorem storeLocal_held {s : State} (h : s.holdStores = true) (off n v : Nat) :
    s.storeLocal off n v = s.modTh (fun t => { t with stores := t.stores ++ [⟨off, n, v % 2 ^ (8 * n), s.tick⟩] }) := by
  simp [State.storeLocal, h]

/-- A load is served by the thread's own latest store, where that holds all the bytes. -/
theorem loadLocal_of_covers {s : State} {off n : Nat} {st : PendingStore} (h : latestOverlap s.th.stores off n = some st)
    (hlo : st.off ≤ off) (hhi : off + n ≤ st.off + st.n) :
    (s.loadLocal off n).1 = st.val / 2 ^ (8 * (off - st.off)) % 2 ^ (8 * n) := by
  simp [State.loadLocal, h, hlo, hhi]

theorem loadLocal_of_noStores {s : State} (h : s.th.stores = []) (off n : Nat) :
    (s.loadLocal off n).1 = s.poolNat s.myCore off n := by
  simp [State.loadLocal, latestOverlap, h]

theorem latestOverlap_append (l : List PendingStore) {st : PendingStore} {off n : Nat} (h : st.meets off n = true) :
    latestOverlap (l ++ [st]) off n = some st := by
  simp [latestOverlap, h]

theorem load_of_held_store {s : State} (h : s.holdStores = true) {n : Nat} (hn : 0 < n) (off v : Nat) :
    ((s.storeLocal off n v).loadLocal off n).1 = v % 2 ^ (8 * n) := by
  rw [storeLocal_held h, loadLocal_of_covers (st := ⟨off, n, v % 2 ^ (8 * n), s.tick⟩) ?_ (Nat.le_refl off) (Nat.le_refl _)]
  · simp
  · rw [modTh_th]
    exact latestOverlap_append _ (by simp [PendingStore.meets, hn])

theorem load_of_store {s : State} (h : s.holdStores = false) (hw : s.mem.wf = true) (hp : (s.core s.myCore).unpublished)
    (off n v : Nat) : ((s.storeLocal off n v).loadLocal off n).1 = v % 2 ^ (8 * n) := by
  rw [storeLocal_now h]
  have hp' : ((s.drainAll s.cur).core s.myCore).unpublished := by
    rw [Core.unpublished, drainAll_pub]
    exact hp
  have hkeep := setPoolNat_sameThreads (s.drainAll s.cur) s.myCore off n v
  have hcur : ((s.drainAll s.cur).setPoolNat s.myCore off n v).cur = s.cur := hkeep.cur.trans (drainAll_cur s _)
  rw [loadLocal_of_noStores, show State.myCore _ = s.myCore from congrArg coreOfThread hcur]
  · refine poolNat_of_bytes ?_ off n v fun i hi => setPoolNat_bytes (drainAll_kept (iv := true) _ hw) hp' off n v hi
    rw [Core.unpublished, hkeep.pub]
    exact hp'
  · rw [State.th, hcur, hkeep.thread]
    exact drainAll_stores s _

/-! ### The checks of an access (R130, R137) -/

section
variable {s : State} {ea n : Nat}

theorem checkLocal_range (hn : 0 < n) (h : s.accEnd s.myCore < ea + n) :
    s.checkLocal ea n n = some { cause := .localRange, addr := Word.of ea } := by
  simp [State.checkLocal, h, hn]

theorem checkLocal_misaligned (h : ea + n ≤ s.accEnd s.myCore) (ha : ea % n ≠ 0) :
    s.checkLocal ea n n = some { cause := .misalign, addr := Word.of ea } := by
  simp [State.checkLocal, Nat.not_lt.mpr h, aligned, ha]

theorem checkLocal_ok (h : ea + n ≤ s.accEnd s.myCore) (ha : ea % n = 0) : s.checkLocal ea n n = none := by
  simp [State.checkLocal, Nat.not_lt.mpr h, aligned, ha]

end

theorem loadBad_of_noStores {s : State} (h : s.th.stores = []) (ea n : Nat) : s.loadBad ea n = s.poolBad s.myCore ea n := by
  simp [State.loadBad, latestOverlap, h]

theorem ownBadStore_of_noStores {s : State} (h : s.th.stores = []) (ea n : Nat) :
    s.ownBadStore s.cur ea n = s.poolBadStore s.myCore ea n := by
  rw [State.th] at h
  simp [State.ownBadStore, State.poolBadStore, State.myCore, h]

/-! ### The instructions (R131) -/

theorem scalarLoad_of_executes {s : State} {g : Guard} {d a : GReg} {words n : Nat} {signed : Bool} {disp : Word}
    (h : s.executes (metaG 0x10 g [d] [a] words)) :
    scalarLoad words n signed g d a disp s = .next (s.finish (metaG 0x10 g [d] [a] words)
      ((s.withLoad (s.localEa a disp) n n fun x s' => .retire (s'.setG d (extended signed n x))).counted
        (metaG 0x10 g [d] [a] words) s)) := issue_of_executes h

theorem scalarStore_of_executes {s : State} {g : Guard} {d a : GReg} {words n : Nat} {disp : Word}
    (h : s.executes (metaG 0x10 g [] [d, a] words)) :
    scalarStore words n g d a disp s = .next (s.finish (metaG 0x10 g [] [d, a] words)
      ((s.withStore (s.localEa a disp) n n (s.g d).toNat).counted (metaG 0x10 g [] [d, a] words) s)) := issue_of_executes h

/-- Every scalar load, whichever its form. -/
theorem scalarLoad_meets {s : State} {i : Instr} {g : Guard} {d a : GReg} {words n : Nat} {signed : Bool} {disp : Word}
    (hn : 0 < n ∧ n ≤ 8) (hi : exec i s = scalarLoad words n signed g d a disp s) :
    let m := metaG 0x10 g [d] [a] words
    let ea := (s.g a + disp).toNat % poolSize s.kind
    s.executes m →
      (s.accEnd s.myCore < ea + n → exec i s = s.traps m { cause := .localRange, addr := Word.of ea }) ∧
      (ea + n ≤ s.accEnd s.myCore → ea % n ≠ 0 → exec i s = s.traps m { cause := .misalign, addr := Word.of ea }) ∧
      (ea + n ≤ s.accEnd s.myCore → ea % n = 0 → s.loadBad ea n = true →
        exec i s = s.traps m { cause := .eccUncorr, addr := Word.of ea }) ∧
      (s.th.stores = [] → s.loadBad ea n = s.poolBad s.myCore ea n) ∧
      (ea + n ≤ s.accEnd s.myCore → ea % n = 0 → s.loadBad ea n = false →
        exec i s = s.completes m ((s.loadLocal ea n).2.setG d
          (if signed then (BitVec.ofNat (8 * n) (s.loadLocal ea n).1).signExtend 64
           else (BitVec.ofNat (8 * n) (s.loadLocal ea n).1).setWidth 64))) := by
  intro m ea h
  rw [hi, scalarLoad_of_executes h, show s.localEa a disp = ea from rfl]
  refine ⟨fun hr => ?_, fun hr ha => ?_, fun hr ha hb => ?_, fun hs => loadBad_of_noStores hs ea n, fun hr ha hb => ?_⟩
  · simp only [State.withLoad, checkLocal_range hn.1 hr]
    rfl
  · simp only [State.withLoad, checkLocal_misaligned hr ha]
    rfl
  · simp only [State.withLoad, checkLocal_ok hr ha, hb, if_true]
    rfl
  · simp only [State.withLoad, checkLocal_ok hr ha, hb, Bool.false_eq_true, if_false, extended_eq hn]
    rfl

/-- Every scalar store, whichever its form. -/
theorem scalarStore_meets {s : State} {i : Instr} {g : Guard} {d a : GReg} {words n : Nat} {disp : Word}
    (hn : 0 < n) (hi : exec i s = scalarStore words n g d a disp s) :
    let m := metaG 0x10 g [] [d, a] words
    let ea := (s.g a + disp).toNat % poolSize s.kind
    s.executes m →
      (s.accEnd s.myCore < ea + n → exec i s = s.traps m { cause := .localRange, addr := Word.of ea }) ∧
      (ea + n ≤ s.accEnd s.myCore → ea % n ≠ 0 → exec i s = s.traps m { cause := .misalign, addr := Word.of ea }) ∧
      (ea + n ≤ s.accEnd s.myCore → ea % n = 0 → s.ownBadStore s.cur ea n = true →
        exec i s = s.traps m { cause := .eccUncorr, addr := Word.of ea }) ∧
      (s.th.stores = [] → s.ownBadStore s.cur ea n = s.poolBadStore s.myCore ea n) ∧
      (ea + n ≤ s.accEnd s.myCore → ea % n = 0 → s.ownBadStore s.cur ea n = false →
        exec i s = s.completes m (s.storeLocal ea n (s.g d).toNat)) := by
  intro m ea h
  rw [hi, scalarStore_of_executes h, show s.localEa a disp = ea from rfl]
  refine ⟨fun hr => ?_, fun hr ha => ?_, fun hr ha hb => ?_, fun hs => ownBadStore_of_noStores hs ea n, fun hr ha hb => ?_⟩
  · simp only [State.withStore, checkLocal_range hn hr]
    rfl
  · simp only [State.withStore, checkLocal_misaligned hr ha]
    rfl
  · simp only [State.withStore, checkLocal_ok hr ha, hb, if_true]
    rfl
  · simp only [State.withStore, checkLocal_ok hr ha, hb, Bool.false_eq_true, if_false]
    rfl

end Sys2Proof.Machine

namespace Sys2Proof
open Machine

/-- Settles O8: the instructions by `scalarLoad_meets` and `scalarStore_meets`, the bytes by `setPoolNat_bytes` and
`setPoolNat_frame`, and what a load returns of a store by `load_of_store` and `load_of_held_store`. -/
theorem localScalarAccesses : Obligations.LocalScalarAccesses := by
  refine ⟨fun s g d a off disp => ⟨fun x hx => ?_, fun x hx => ?_⟩, fun s g d a off disp => ⟨fun x hx => ?_, fun x hx => ?_⟩,
    fun s off n v hw hs hp => ⟨fun hh => ?_, fun hh => ?_⟩, fun s off n v hn hw hp => ?_⟩
  · simp only [List.mem_cons, List.not_mem_nil, or_false] at hx
    rcases hx with rfl | rfl | rfl | rfl | rfl | rfl | rfl <;> exact scalarLoad_meets (by dsimp only; decide) rfl
  · simp only [List.mem_cons, List.not_mem_nil, or_false] at hx
    rcases hx with rfl | rfl | rfl | rfl | rfl | rfl | rfl <;> exact scalarLoad_meets (by dsimp only; decide) rfl
  · simp only [List.mem_cons, List.not_mem_nil, or_false] at hx
    rcases hx with rfl | rfl | rfl | rfl <;> exact scalarStore_meets (by dsimp only; decide) rfl
  · simp only [List.mem_cons, List.not_mem_nil, or_false] at hx
    rcases hx with rfl | rfl | rfl | rfl <;> exact scalarStore_meets (by dsimp only; decide) rfl
  · rw [storeLocal_now hh, drainAll_eq_self hs]
    exact ⟨fun i hi => setPoolNat_bytes hw hp off n v hi, fun k hk => setPoolNat_frame hw hp off n v hk⟩
  · rw [storeLocal_held hh]
    rfl
  · cases hh : s.holdStores with
    | true => exact load_of_held_store hh hn off v
    | false => exact load_of_store hh hw hp off n v

end Sys2Proof
